-- ==== Sys2Proof/Word.lean ====
section
/-! DEFINITION. The word types of the machine and the shape of its sparse tables.  Register contents,
addresses and counts that software sees as numbers are `Nat`; what the manual treats as bits of a tile
(scalar registers, vector elements, instruction words) is a bit vector. -/
namespace Sys2Proof

/-- A scalar register of a tile (04_spindle_isa_core.md R138). -/
abbrev Word := BitVec 64

/-- One byte of memory (00_scope.md R27). -/
abbrev Byte := BitVec 8

/-- A sparse table: (key, value) pairs in strictly rising key order.  What an unlisted key reads as
is said where the table is read. -/
abbrev SMap (α : Type) := List (Nat × α)

end Sys2Proof
end

