-- ==== Sys2Proof/Syntax.lean ====
section
/-! DEFINITION. The commands of the adapter: one constructor for each row of spec/opcode_table.json, with
its operands. -/
namespace Sys2Proof

/-- The two contexts of a tile (04_spindle_isa_core.md R138): S runs the scheduled program, W weft work. -/
inductive Ctx
  | S
  | W
  deriving DecidableEq, Repr

/-- Who makes a register access (R21, R42, R460): a host function through BAR0 or BAR2, a MANAGER tile,
or any other engine. -/
inductive Requester
  | host (fn bar : Nat)
  | manager (tile : Nat)
  | other
  deriving DecidableEq, Repr

/-- What a line read finds in the memory devices (Table 7.3); a poisoned line is the state's to know. -/
inductive Found
  | good
  | erased
  | correctable
  | uncorrectable
  deriving DecidableEq, Repr

/-- The engine request that a translation serves (Table 8.5, SOURCE_KIND). -/
inductive Waiter
  | skein (tile : Nat) (ctx : Ctx) (handle : Nat)
  | transport (qpn psn : Nat)
  | copy (inst queue slot tile : Nat)
  | page (inst tile : Nat)
  | collective (group tile : Nat)
  deriving DecidableEq, Repr

/-- What a read of a tile's local store finds (R117): a good word, a corrected one, or an uncorrectable
error in the word at window offset `off`. -/
inductive Ecc
  | good
  | corrected
  | bad (off : Nat)
  deriving DecidableEq, Repr

/-- The issue of an instruction: the tile and context that issue it, what its fetch finds and what its own
data reads find. -/
structure Issue where
  tile : Nat
  ctx : Ctx
  fetch : Ecc := .good
  read : Ecc := .good
  deriving DecidableEq, Repr

/-- A scalar register field (Table 4.2), a vector field and an accumulator field (R182). -/
abbrev SReg := BitVec 5
abbrev VReg := BitVec 4
abbrev AReg := BitVec 2

/-- An entry of a reshard plan (R329): a skein descriptor, or the import of a prefill cache, `count` tokens from
position `first` of one sequence and layer, from `src`; `fp8`: the source is in FP8_KIND, else BF16. -/
inductive ReshardEntry
  | tensor (desc : List Byte)
  | cache (seq layer src : Nat) (fp8 : Bool) (first count : Nat)
  deriving DecidableEq, Repr

/-- How a weft reduction combines the inputs of a chunk (R408): the member's own input, a peer's elements, or one
addition (or comparison). -/
inductive Partial
  | own
  | peer (elems : List Byte)
  | join (a b : Partial)
  deriving DecidableEq, Repr

/-- The IP and UDP headers of a received packet: addresses (IPv4 in mapped form), protocol, ports, the ECN field;
`frag`: a fragment; `sum`: the UDP checksum is 0 or right. -/
structure Ip where
  v6 : Bool
  src : Nat
  dst : Nat
  proto : Nat
  sport : Nat
  dport : Nat
  ecn : Nat
  frag : Bool
  sum : Bool
  deriving DecidableEq, Repr

/-- A received Ethernet frame (13_links_mac_fabric.md R450): `tag` is (PCP, VID), `len` its octets, `fcs` whether its
FCS is right; `data` follows the EtherType, or the UDP header. -/
structure Frame where
  dst : Nat
  src : Nat
  tag : Option (Nat × Nat)
  etype : Nat
  len : Nat
  fcs : Bool
  ip : Option Ip
  data : List Byte
  deriving DecidableEq, Repr

/-- A frame that a port has sent: an Ethernet frame, or an attach frame of a VC (header, payload and frame CRC). -/
inductive SentFrame
  | ethernet (f : Frame)
  | attach (bytes : List Byte)
  deriving DecidableEq, Repr

/-- What a start-up finds (Table 20.6): whether the memory checkers pass and the memories train, the bad tiles (column,
row) and whether a router failed, the bad near-tier dies (stack, die), far-tier devices (channel, device) and lane
macros (die, macro), whether BKEK checks, whether the signatures of slots A and B verify, and the Saffron lanes that
come up. -/
structure Boot where
  checkers : Bool := true
  trained : Bool := true
  tiles : List (Nat × Nat) := []
  router : Bool := false
  dies : List (Nat × Nat) := []
  devices : List (Nat × Nat) := []
  macros : List (Nat × Nat) := []
  bkek : Bool := true
  sigA : Bool := true
  sigB : Bool := true
  saffron : Nat := 0
  deriving DecidableEq, Repr

/-- What the power controller measures (R591): input in 10 mV and 0.1 W, the hot spot of each die, the hottest stack and
far-tier device in degrees C, the largest slew in mA/us and the energy in J since the last tick. -/
structure Reading where
  vin : Nat
  pin : Nat
  dies : List Nat
  stack : Nat
  far : Nat
  slew : Nat
  joules : Nat
  deriving DecidableEq, Repr

/-- The commands that the adapter takes. -/
inductive Instr where
  | registerWrite (r : Requester) (addr width val : Nat)
  /-- RC_COUNTER_READ: a read of `width` bits at `addr`; `again`: an event of the counter falls in the same cycle. -/
  | rcCounterRead (r : Requester) (addr width : Nat) (again : Bool)
  | pickTodSecRead
  | pickTodSet (r : Requester) (sec : Nat)
  | pickWall
  /-- CONTEXT_S_WAKE: `stopped`: the fills or the reshard entry of a page tile are not complete before the wall. -/
  | contextSWake (tile : Nat) (stopped : Bool)
  /-- CELL_SAMPLE: the data lane at index `k` of group `g` in `slot`; `bad`: the fetch from a data store meets an
  uncorrectable error. -/
  | cellSample (g slot k : Nat) (bad : Bool)
  | scheduledCellSend (g slot : Nat)
  | syncSymbolSend
  /-- SYNC_SYMBOL_RECEIVE: `b` arrives on group `g` at offset `a` from the own slot 0 and at time `t` (units of
  62.5 ps); `onTime`: within ±32 ns of the predicted time. -/
  | syncSymbolReceive (g : Nat) (b : List Byte) (a t : Int) (onTime : Bool)
  | listenAcquire
  /-- ACQUIRE_EXCHANGE_COMPLETE: the parent's pick number, pick-relative cycle and wall time (half ns). -/
  | acquireExchangeComplete (pick cyc sec half : Nat)
  /-- FREQUENCY_ESTIMATE_DONE: `adj` is the estimated correction, units of 2^-40. -/
  | frequencyEstimateDone (adj : Int)
  | lockAcquired
  | parentLoss
  | successorTakeover
  | holdoverLimitExpiry
  | ppsEdge
  | referenceLoss
  | referenceReturn
  | ptpMessageReceive (t : Nat)
  /-- CELL_RECEIVE: the cells of slot `slot` of sending pick `pick` on group `g`, by lane position; none where a
  lane brings nothing. -/
  | cellReceive (g pick slot : Nat) (cells : List (Option (List Byte)))
  | streamDeadline (g desc pick : Nat)
  | warpLoad (r : Requester)
  /-- WARP_LOAD_COMPLETE: `img` is the image as read from the host, none where the read failed. -/
  | warpLoadComplete (img : Option (List Byte))
  | warpArm (r : Requester)
  | warpDisarm (r : Requester)
  | warpClear (r : Requester)
  | warpArmEmpty (r : Requester)
  /-- MESSAGE_ACCEPT, MESH_HOP and RETURNED_MESSAGE_ARRIVE: the message `id` of the mesh; `good`: its
  HDR_CHECK is right at this router. -/
  | messageAccept (id : Nat)
  | meshHop (id : Nat) (good : Bool)
  | returnedMessageArrive (id : Nat)
  | tileCtrlAssign (r : Requester) (tile : Nat)
  | roleChangeDrained (tile : Nat)
  | tileLoadDone (tile : Nat)
  | tileSpareCmd (r : Requester) (val : Nat)
  /-- TILE_FAULT_DETECT: a fault of logical tile `tile`; `router`: its router failed (R554). -/
  | tileFaultDetect (tile : Nat) (router : Bool)
  | tileWatchdogExpiry (tile : Nat)
  | tileRestoreComplete (tile : Nat)
  | mirrorError (tile : Nat)
  | mirrorRecopyComplete (tile : Nat)
  | managerPartnerReady (die : Nat)
  /-- ADD and the other operations of Table 4.4. -/
  | add (i : Issue) (rd rs1 rs2 : SReg)
  | sub (i : Issue) (rd rs1 rs2 : SReg)
  | and (i : Issue) (rd rs1 rs2 : SReg)
  | or (i : Issue) (rd rs1 rs2 : SReg)
  | xor (i : Issue) (rd rs1 rs2 : SReg)
  | sll (i : Issue) (rd rs1 rs2 : SReg)
  | srl (i : Issue) (rd rs1 rs2 : SReg)
  | sra (i : Issue) (rd rs1 rs2 : SReg)
  | slt (i : Issue) (rd rs1 rs2 : SReg)
  | sltu (i : Issue) (rd rs1 rs2 : SReg)
  | min (i : Issue) (rd rs1 rs2 : SReg)
  | max (i : Issue) (rd rs1 rs2 : SReg)
  | minu (i : Issue) (rd rs1 rs2 : SReg)
  | maxu (i : Issue) (rd rs1 rs2 : SReg)
  | mul (i : Issue) (rd rs1 rs2 : SReg)
  | mulh (i : Issue) (rd rs1 rs2 : SReg)
  | mulhu (i : Issue) (rd rs1 rs2 : SReg)
  | mulhsu (i : Issue) (rd rs1 rs2 : SReg)
  | div (i : Issue) (rd rs1 rs2 : SReg)
  | divu (i : Issue) (rd rs1 rs2 : SReg)
  | rem (i : Issue) (rd rs1 rs2 : SReg)
  | remu (i : Issue) (rd rs1 rs2 : SReg)
  | clz (i : Issue) (rd rs1 : SReg)
  | ctz (i : Issue) (rd rs1 : SReg)
  | popc (i : Issue) (rd rs1 : SReg)
  | addw (i : Issue) (rd rs1 rs2 : SReg)
  | subw (i : Issue) (rd rs1 rs2 : SReg)
  | sllw (i : Issue) (rd rs1 rs2 : SReg)
  | srlw (i : Issue) (rd rs1 rs2 : SReg)
  | sraw (i : Issue) (rd rs1 rs2 : SReg)
  | mulw (i : Issue) (rd rs1 rs2 : SReg)
  | divw (i : Issue) (rd rs1 rs2 : SReg)
  | divuw (i : Issue) (rd rs1 rs2 : SReg)
  | remw (i : Issue) (rd rs1 rs2 : SReg)
  | remuw (i : Issue) (rd rs1 rs2 : SReg)
  /-- The immediate operations (R152). -/
  | addi (i : Issue) (rd rs1 : SReg) (imm : BitVec 16)
  | andi (i : Issue) (rd rs1 : SReg) (imm : BitVec 16)
  | ori (i : Issue) (rd rs1 : SReg) (imm : BitVec 16)
  | xori (i : Issue) (rd rs1 : SReg) (imm : BitVec 16)
  | slti (i : Issue) (rd rs1 : SReg) (imm : BitVec 16)
  | sltiu (i : Issue) (rd rs1 : SReg) (imm : BitVec 16)
  | slli (i : Issue) (rd rs1 : SReg) (sh : BitVec 6)
  | srli (i : Issue) (rd rs1 : SReg) (sh : BitVec 6)
  | srai (i : Issue) (rd rs1 : SReg) (sh : BitVec 6)
  | lui (i : Issue) (rd : SReg) (imm : BitVec 21)
  | addiw (i : Issue) (rd rs1 : SReg) (imm : BitVec 16)
  /-- Loads and stores (R154, R155). -/
  | lb (i : Issue) (rd rs1 : SReg) (imm : BitVec 16)
  | lbu (i : Issue) (rd rs1 : SReg) (imm : BitVec 16)
  | lh (i : Issue) (rd rs1 : SReg) (imm : BitVec 16)
  | lhu (i : Issue) (rd rs1 : SReg) (imm : BitVec 16)
  | lw (i : Issue) (rd rs1 : SReg) (imm : BitVec 16)
  | lwu (i : Issue) (rd rs1 : SReg) (imm : BitVec 16)
  | ld (i : Issue) (rd rs1 : SReg) (imm : BitVec 16)
  | sb (i : Issue) (rs2 rs1 : SReg) (imm : BitVec 16)
  | sh (i : Issue) (rs2 rs1 : SReg) (imm : BitVec 16)
  | sw (i : Issue) (rs2 rs1 : SReg) (imm : BitVec 16)
  | sd (i : Issue) (rs2 rs1 : SReg) (imm : BitVec 16)
  /-- Branches and jumps (R157). -/
  | beq (i : Issue) (rs1 rs2 : SReg) (off : BitVec 16)
  | bne (i : Issue) (rs1 rs2 : SReg) (off : BitVec 16)
  | blt (i : Issue) (rs1 rs2 : SReg) (off : BitVec 16)
  | bge (i : Issue) (rs1 rs2 : SReg) (off : BitVec 16)
  | bltu (i : Issue) (rs1 rs2 : SReg) (off : BitVec 16)
  | bgeu (i : Issue) (rs1 rs2 : SReg) (off : BitVec 16)
  | jal (i : Issue) (rd : SReg) (off : BitVec 21)
  | jalr (i : Issue) (rd rs1 : SReg) (imm : BitVec 16)
  /-- MSEND (R158): `weft` is FN[0], `anyRole` FN[1]. -/
  | msend (i : Issue) (rs1 rs2 rs3 : SReg) (weft anyRole : Bool)
  | msendBufferAccept (i : Issue)
  /-- MRECV (R159): `filter` is FN[1:0], `wait` FN[2]. -/
  | mrecv (i : Issue) (rd rs1 : SReg) (filter : BitVec 2) (wait : Bool)
  | mrecvWaitTake (i : Issue)
  | mret (i : Issue) (rd rs1 : SReg) (wait : Bool)
  | mretWaitTake (i : Issue)
  | skiss (i : Issue) (rd rs1 : SReg)
  | skissHandleWait (i : Issue)
  | skwait (i : Issue) (rd rs1 : SReg)
  | skwaitComplete (i : Issue)
  | skstat (i : Issue) (rd rs1 : SReg)
  | chtake (i : Issue) (rd rs1 rs2 : SReg)
  | chtakew (i : Issue) (rd rs1 rs2 : SReg)
  | chtakewWaitTake (i : Issue)
  | cvfb (i : Issue) (rs1 : SReg)
  | cvfh (i : Issue) (rs1 : SReg)
  | cvfw (i : Issue) (rs1 : SReg)
  | cvrst (i : Issue)
  | cvrd (i : Issue) (rd : SReg)
  | cvwr (i : Issue) (rs1 : SReg)
  | cvfin (i : Issue) (rd : SReg)
  | cvcmp (i : Issue) (rd rs1 : SReg)
  | cvset (i : Issue) (rs1 rs2 : SReg)
  | yield (i : Issue)
  | waitc (i : Issue) (rs1 : SReg)
  | waitcRetire (i : Issue)
  | rdyset (i : Issue) (rs1 : SReg)
  | rdytst (i : Issue) (rd rs1 : SReg)
  | mfs (i : Issue) (rd : SReg) (n : BitVec 8)
  | mts (i : Issue) (rs1 : SReg) (n : BitVec 8)
  | eret (i : Issue)
  | trap (i : Issue) (code : BitVec 8)
  | rgld32 (i : Issue) (rd rs1 : SReg)
  | rgld64 (i : Issue) (rd rs1 : SReg)
  | rgst32 (i : Issue) (rs1 rs2 : SReg)
  | rgst64 (i : Issue) (rs1 rs2 : SReg)
  /-- Vector loads and stores (R193), the XACC image (R203). -/
  | vld (i : Issue) (v : VReg) (rs1 : SReg) (imm : BitVec 16)
  | vst (i : Issue) (v : VReg) (rs1 : SReg) (imm : BitVec 16)
  | ald (i : Issue) (a : AReg) (rs1 : SReg) (imm : BitVec 16)
  | ast (i : Issue) (a : AReg) (rs1 : SReg) (imm : BitVec 16)
  | xst (i : Issue) (rs1 : SReg) (imm : BitVec 16)
  | xldi (i : Issue) (rs1 : SReg) (imm : BitVec 16)
  | xmrg (i : Issue) (rs1 : SReg) (imm : BitVec 16)
  /-- VOP (Table 5.6): `ty` is the TYPE code of Table 5.4. -/
  | vadd (i : Issue) (vd vs1 vs2 : VReg) (ty : BitVec 4)
  | vsub (i : Issue) (vd vs1 vs2 : VReg) (ty : BitVec 4)
  | vmul (i : Issue) (vd vs1 vs2 : VReg) (ty : BitVec 4)
  | vfma (i : Issue) (vd vs1 vs2 : VReg) (ty : BitVec 4)
  | vmin (i : Issue) (vd vs1 vs2 : VReg) (ty : BitVec 4)
  | vmax (i : Issue) (vd vs1 vs2 : VReg) (ty : BitVec 4)
  | vabs (i : Issue) (vd vs1 : VReg) (ty : BitVec 4)
  | vneg (i : Issue) (vd vs1 : VReg) (ty : BitVec 4)
  | vand (i : Issue) (vd vs1 vs2 : VReg)
  | vor (i : Issue) (vd vs1 vs2 : VReg)
  | vxor (i : Issue) (vd vs1 vs2 : VReg)
  | vmov (i : Issue) (vd vs1 : VReg)
  | vdot (i : Issue) (ad : AReg) (vs1 vs2 : VReg) (ty : BitVec 4) (mx : Bool) (rs : SReg)
  | vcvt (i : Issue) (vd vs : VReg) (src dst : BitVec 4) (part : BitVec 3)
  | vqnt (i : Issue) (v : VReg) (r : SReg) (a : AReg) (ty : BitVec 4) (part : BitVec 2)
  | vdq (i : Issue) (v : VReg) (r : SReg) (a : AReg) (ty : BitVec 4) (part : BitVec 2)
  | xclr (i : Issue)
  | xaddv (i : Issue) (v : VReg) (ty : BitVec 4)
  | xadda (i : Issue) (a : AReg)
  | xadds (i : Issue) (r : SReg) (ty : BitVec 4)
  | xrd (i : Issue) (r : SReg) (ty : BitVec 4)
  | scoreb (i : Issue) (ad : AReg) (vq : VReg) (rs1 slot : SReg)
  | tkclr (i : Issue) (rs1 rs2 : SReg)
  | tkins (i : Issue) (ad : AReg) (rs1 rs2 : SReg)
  | tkout (i : Issue) (rd rs1 rs2 : SReg)
  | tkcnt (i : Issue) (rd : SReg)
  /-- DEMOTE and PROMOTE (R211): `e5m2` is FN[1]. -/
  | demote (i : Issue) (rs1 rs2 : SReg) (e5m2 : Bool)
  | promote (i : Issue) (rs1 rs2 : SReg) (e5m2 : Bool)
  | vmfsr (i : Issue) (r : SReg)
  | vmtsr (i : Issue) (r : SReg)
  | vbcast (i : Issue) (v : VReg) (r : SReg) (ty : BitVec 4)
  | vext (i : Issue) (r : SReg) (v : VReg) (ty : BitVec 4) (idx : BitVec 8)
  | afromv (i : Issue) (a : AReg) (v : VReg)
  | atov (i : Issue) (v : VReg) (a : AReg)
  | azero (i : Issue) (a : AReg)
  | longInstructionStart (i : Issue)
  /-- RESERVED_ENCODING_ISSUE: the context issues the instruction word `word`. -/
  | reservedEncodingIssue (i : Issue) (word : BitVec 32)
  /-- The skein on handle `h` of context `c` of tile `t`. -/
  | skeinFenceStart (t : Nat) (c : Ctx) (h : Nat)
  | skeinChunkEnd (t : Nat) (c : Ctx) (h : Nat)
  | skeinQueueRoom (t : Nat) (c : Ctx) (h : Nat)
  | skeinFault (t : Nat) (c : Ctx) (h : Nat)
  /-- SKEIN_EARLY_END: `bad` is the element whose local-store read meets an uncorrectable error, if one does. -/
  | skeinEarlyEnd (t : Nat) (c : Ctx) (h : Nat) (bad : Option Nat)
  | skeinComplete (t : Nat) (c : Ctx) (h : Nat)
  | cqEnable (inst slot : Nat)
  | cqDisable (inst slot : Nat)
  /-- MEMORY_READ: a channel reads the line of `pa`; the devices show `f`, by die or device `unit`, in `row`. -/
  | memoryRead (pa : Nat) (f : Found) (unit row : Nat)
  /-- MEMORY_WRITE: a write of `data` inside the line of `pa`; `f` is what the merge read finds. -/
  | memoryWrite (pa : Nat) (data : List Byte) (f : Found) (unit row : Nat)
  /-- MONITOR_WINDOW_END: (channel, mean occupancy in 1/16 entries) for the 1 ms window. -/
  | monitorWindowEnd (occ : List (Nat × Nat))
  | migrationLineMove (region : Nat)
  | migrationComplete (region : Nat)
  | holdExpiry (region : Nat)
  /-- ROW_REPAIR_START: channel as MEM_OCC numbers it; `free`: its bank has a spare row left. -/
  | rowRepairStart (chan row : Nat) (free : Bool)
  | rowRepairLineStep (chan row pa : Nat) (last : Bool)
  | dieMarkFailed (stack die : Nat)
  | rebuildLineStep (stack pa : Nat) (f : Found) (unit row : Nat)
  | rebuildComplete (stack : Nat)
  | deviceMarkFailed (chan dev : Nat)
  | channelMoveLineStep (chan pa : Nat) (f : Found) (unit row : Nat)
  | channelMoveComplete (chan : Nat)
  | scrubLine (pa : Nat) (f : Found) (unit row : Nat)
  | scrubPassComplete (far : Bool)
  | memMarkNearDie (stack die : Nat)
  | memMarkFarDevice (chan dev : Nat)
  | memResaltRegion (region salt : Nat)
  /-- XLT_ASID_CREATE and the other translation commands: the admin-queue entry of instance `inst` at `slot`. -/
  | xltAsidCreate (inst slot : Nat)
  | xltAsidDestroy (inst slot : Nat)
  | xltMap (inst slot : Nat)
  | xltUnmap (inst slot : Nat)
  | xltProtect (inst slot : Nat)
  | xltSetHost (inst slot : Nat)
  | migrateIn (inst slot : Nat)
  /-- MIGRATE_IN_COMPLETE: `data` is the page as read from the host, or none where a read fails. -/
  | migrateInComplete (inst slot : Nat) (data : Option (List Byte))
  | migrateOut (inst slot : Nat)
  | migrateOutComplete (inst slot : Nat)
  | faultFail (inst slot : Nat)
  /-- XLT_INVALIDATE_COMPLETE: every cache has dropped the old entry and its accesses have drained. -/
  | xltInvalidateComplete (inst slot : Nat)
  /-- TRANSLATION_WALK: engine request `who` of instance `inst` translates `va` of `asid` to read or write. -/
  | translationWalk (inst asid va : Nat) (wr : Bool) (who : Waiter)
  | faultBatchSend (inst : Nat)
  /-- PARKED_REQUEST_RETRY: the requests waiting on the page of `va` whose service has ended. -/
  | parkedRequestRetry (inst asid va : Nat)
  | faultTimeout (inst asid va : Nat)
  | xltFrConsWrite (inst val : Nat)
  | xltFrEnableWrite (inst val : Nat)
  /-- MODEL_LOAD: `man` is the manifest as read from the host, none where a read fails. -/
  | modelLoad (inst slot : Nat) (man : Option (List Byte))
  /-- MODEL_LOAD_COMPLETE: the bytes of each host tensor in record order, none where a read fails. -/
  | modelLoadComplete (inst slot : Nat) (data : Option (List (List Byte)))
  | modelUnload (inst slot : Nat)
  | seqOpen (inst slot : Nat)
  | seqClose (inst slot : Nat)
  | streamStart (inst slot : Nat)
  | streamStop (inst slot : Nat)
  /-- RESHARD_RUN: `plan` holds the entries of the plan. -/
  | reshardRun (inst slot : Nat) (plan : List ReshardEntry)
  | reshardPlanComplete (inst : Nat)
  /-- PAGE_STEP: the signal at the head of chunk queue `queue`; the gather descriptor is `desc` of `group`. -/
  | pageStep (inst queue group desc : Nat)
  /-- The page's sequence, layer and key head. -/
  | pageReserveRefill (inst seq layer head : Nat)
  | pageDemotion (inst : Nat)
  | pagePromotion (inst seq layer head index : Nat)
  | pageMoveSwitch (inst seq layer head index : Nat)
  | qpCreate (inst slot : Nat)
  | qpModify (inst slot : Nat)
  /-- QP_QUERY, and REGION_QUERY: `bad`: the context meets a poisoned line. -/
  | qpQuery (inst slot : Nat) (bad : Bool)
  | qpDestroy (inst slot : Nat)
  | workRequest (inst queue slot : Nat)
  | regionRegister (inst slot : Nat)
  | regionRevoke (inst slot : Nat)
  | regionRevokeComplete (inst slot : Nat)
  | regionQuery (inst slot : Nat) (bad : Bool)
  | pacerRelease (qpn : Nat)
  /-- WEFT_PACKET_START: the port has `room` units of 16 bytes before the next slot that the warp owns, or in an idle
  tail; `spent`: VC1 and VC2 have used up their share of the pick. -/
  | weftPacketStart (port room : Nat) (spent : Bool)
  /-- WRITE_PACKET_RECEIVE and the other receive rows: the packet at place `id` of the shared receive buffer. -/
  | writePacketReceive (id : Nat)
  | fenceLastPlace (qpn : Nat)
  | placementVisible (qpn psn : Nat)
  | ackDelayExpiry (qpn : Nat)
  | immediateNotification (qpn : Nat)
  | readReqReceive (id : Nat)
  | readRespReceive (id : Nat)
  | ackReceive (id : Nat)
  | nakReceive (id : Nat)
  | resumeReceive (id : Nat)
  | ceEchoReceive (id : Nat)
  | ceEchoTimer (qpn : Nat)
  | retransmitTimerExpiry (qpn : Nat)
  | faultWaitProbe (qpn psn : Nat)
  | rateUpdate (qpn : Nat)
  | quarantineExpiry (qpn path : Nat)
  /-- BUCKET_REFILL: shaper `bucket` = cage * 4 + class, or policer 64 + cage * 4 + class. -/
  | bucketRefill (bucket : Nat)
  /-- COL_GROUP_CREATE: `list` holds the entries of QP_LIST as read from the host, none where a read fails. -/
  | colGroupCreate (inst slot : Nat) (list : Option (List Nat))
  | colGroupReset (inst slot : Nat)
  | colGroupDestroy (inst slot : Nat)
  | colRun (inst queue slot : Nat)
  | tileColRun (tile : Nat)
  /-- COL_CHUNK_SIGNAL: the chunk of device group `group`, combined as `data` says (for ALL_GATHER and BROADCAST the
  elements of the chunk); a REDUCE tile `tile` moves it; `differs`: a peer's fields differ from this member's. -/
  | colChunkSignal (group tile : Nat) (data : Partial) (differs : Bool)
  | pinchHostPost (inst val : Nat)
  /-- PINCH_TILE_POST: the message `id` of the mesh. -/
  | pinchTilePost (id : Nat)
  /-- PINCH_ARRIVE_RECEIVE and the other receive rows: the oldest VC3 frame of port `port`. -/
  | pinchArriveReceive (port : Nat)
  | pinchReleaseReceive (port : Nat)
  | pinchAckReceive (port : Nat)
  /-- PINCH_REPLAY_TIMEOUT: the oldest frame of `group` that port `port` keeps. -/
  | pinchReplayTimeout (port group : Nat)
  | pinchOpTimeout (group : Nat)
  | pinchFrameSend (port : Nat)
  | cageCfgWrite (r : Requester) (cage val : Nat)
  /-- LANE_DOWN: a cause of Table 13.2 is found on a lane. -/
  | laneDown (lane cause : Nat)
  /-- LANE_TRAINING_COMPLETE: `linkOk`: the port's PCS is aligned and it receives no remote fault (its sideband words
  pass, on an attach port); `phy` and `lpi` are what the port then shows in MAC_STATUS. -/
  | laneTrainingComplete (lane : Nat) (linkOk : Bool) (phy : Nat) (lpi : Bool)
  | laneTrainingTimeout (lane : Nat)
  | laneShiftCmd (r : Requester) (val : Nat)
  | shiftSpareReady (lane : Nat)
  /-- CREDIT_WORD_RECEIVE and LOSS_WORD_RECEIVE: the sideband word received on a lane. -/
  | creditWordReceive (lane : Nat) (word : List Byte)
  | lossWordReceive (lane : Nat) (word : List Byte)
  /-- FABRIC_FRAME_RECEIVE: a frame of an attach port, whose header came on `lane`: header, payload and frame CRC. -/
  | fabricFrameReceive (lane : Nat) (bytes : List Byte)
  | ethernetFrameReceive (port : Nat) (f : Frame)
  | xoffRefresh (port : Nat)
  | pauseFrameReceive (port : Nat) (f : Frame)
  /-- PAUSE_EXPIRY: the pause time of the priorities in `prios` ends. -/
  | pauseExpiry (port prios : Nat)
  | lpiEntry (port : Nat)
  | lldpSend (port : Nat)
  | lldpReceive (port : Nat) (f : Frame)
  | doorbellWrite (inst queue tail : Nat)
  /-- RING_ENTRY_TAKE: `raw` holds the bytes of the entry's slots as read from the host, none where the read
  ends with a completion error. -/
  | ringEntryTake (inst queue : Nat) (raw : Option (List Byte))
  | ownPoll (inst queue : Nat) (raw : Option (List Byte))
  | ringReadRetry (inst queue : Nat) (raw : Option (List Byte))
  | headPublish (inst queue : Nat)
  | coalesceTimer (inst queue : Nat)
  | ringSyncRead (inst : Nat)
  | heartbeatWrite (inst : Nat)
  | heartbeatTimeout (inst : Nat)
  | adminQueueEnable (inst cfg : Nat)
  /-- ADMIN_QUEUE_DISABLE: `ring` holds the slots not yet taken, as read from the host. -/
  | adminQueueDisable (inst : Nat) (ring : List Byte)
  /-- NOP and the other ring commands: the entry taken from `queue` of `inst` at `slot`. -/
  | nop (inst queue slot : Nat)
  | identify (inst slot : Nat)
  | queueCreate (inst slot : Nat)
  | queueDestroy (inst slot : Nat) (ring : List Byte)
  | queueReset (inst slot : Nat) (ring : List Byte)
  | asyncEvent (inst slot : Nat)
  | reattach (inst slot : Nat)
  | tileAssign (inst slot : Nat)
  | hostToDev (inst queue slot : Nat)
  | devToHost (inst queue slot : Nat)
  | inlineToDev (inst queue slot : Nat)
  /-- COPY_COMPLETE: the rest of the copy runs on HOSTQ tile `tile`; `data` holds the bytes the host reads
  returned (HOST_TO_DEV), cut short where a read failed. -/
  | copyComplete (inst queue slot tile : Nat) (data : List Byte)
  | pcieLinkDown
  | perstAssert
  | bmeClear (fn : Nat)
  | d640GetVersion (inst : Nat)
  | d640GetPort (inst : Nat)
  | d640GetPortCounters (inst : Nat)
  /-- D640_GET_TEMP: the temperature of each die in units of 1/8 C. -/
  | d640GetTemp (inst : Nat) (temps : List Nat)
  | d640GetMac (inst : Nat)
  | d640Echo (inst : Nat)
  | d640Unsupported (inst : Nat)
  /-- INST_CREATE and the other commands of INST_CMD: the manager carries out the one that is PENDING. -/
  | instCreate
  | instQuiesce
  | quiesceComplete (inst : Nat)
  | quiesceLimitExpiry (inst : Nat)
  | instResume
  | instReset
  | instRemove
  | instSetMode
  | functionLevelReset (fn : Nat)
  | mbxSend (r : Requester) (inst len : Nat)
  | mbxWithdraw (r : Requester) (inst : Nat)
  | mbxTake (r : Requester) (inst : Nat)
  | mbxAck (r : Requester) (inst code : Nat)
  | mbxHello (inst : Nat)
  | mbxResetRequest (inst : Nat)
  /-- PROVISION: `blob` holds the provisioning blob as read from the host, none where the read failed. -/
  | provision (blob : Option (List Byte))
  | forget
  | keyInstall
  | keySwitch
  | keyRetire
  | keyClear
  | debugUnlock (r : Requester) (val : Nat)
  | debugOpen
  /-- TAMPER_ALARM: the sources that alarm, by bit. -/
  | tamperAlarm (sources : Nat)
  | secTamperClear (r : Requester) (val : Nat)
  | cellLow
  | entropyHealthFail
  | noiseRetest (pass : Bool)
  | drbgReseed
  /-- CAL_START: the lane is to calibrate from pick `pick` on. -/
  | calStart (lane pick : Nat)
  | calStep (lane : Nat)
  | calComplete (lane : Nat)
  /-- FW_STAGE: `img` holds the image as read from the host, none where the read failed; `sig`: its signature verifies. -/
  | fwStage (img : Option (List Byte)) (sig : Bool)
  | fwActivate
  | fwConfirm
  | fwRevert
  | fwTrialExpiry
  | traceCollect (die : Nat)
  | saffronFrameSend
  | saffronLaneDown (lane : Nat)
  | traceMark (r : Requester) (val : Nat)
  | triggerArm (r : Requester) (val : Nat)
  | triggerCmdFire (r : Requester)
  | freezePinEdge
  | freezeSnapshot
  | triggerCmdThaw (r : Requester)
  | triggerCmdResume (r : Requester)
  | haltAll
  | haltComplete
  | scanStart (r : Requester)
  | scanComplete
  | jtagIdcode
  | jtagUnlock
  | jtagHalt
  | jtagResume
  | jtagScanSel (val : Nat)
  /-- JTAG_SCAN_DATA: `bits` bits are shifted out. -/
  | jtagScanData (bits : Nat)
  | jtagBypass
  | powerOnReset (b : Boot)
  | coldReset (r : Requester) (val : Nat) (b : Boot)
  | warmReset (r : Requester) (val : Nat) (b : Boot)
  | pllLockLoss (b : Boot)
  /-- POWER_TRIP: the cause of Table 20.3 and the reading. -/
  | powerTrip (cause value : Nat)
  | powerControlTick (m : Reading)
  | paceCfgWrite (r : Requester) (val : Nat)
  | paceMapWrite (r : Requester) (n val : Nat)
  /-- MODULE_INSERT: a module of a declared power class in W; `ready`: it reports ready. -/
  | moduleInsert (cage watts : Nat) (ready : Bool)
  | moduleRemove (cage : Nat)
  | smbReadVin
  | smbReadPin
  | smbReadDieTemp
  | smbReadMemTemp
  | smbReadBootStatus
  | smbReadLastTrip
  | smbReadSecState
  | smbReadIdentity
  | smbUnknownCommand (code : Nat)
  | cellReplace
  | cellExhausted
  | pcieLinkUp
  | instanceResetDone (inst : Nat)
  deriving DecidableEq, Repr

end Sys2Proof
end

