-- ==== Sys2Proof/Decode.lean ====
section
/-! DEFINITION. The commands that a word spells by the bits of the opcode table.  The table gives no row any bits: a
command of this block is an access or an event with operands, not a word. -/
namespace Sys2Proof

/-- The command that the `nbits`-bit word `w` spells: none, since no row of the table has bits. -/
def decodeTableWord (_nbits _w : Nat) : Option Instr := none

end Sys2Proof
end

