-- ==== Sys2Proof/Config.lean ====
section
/-! DEFINITION. What an implementation fixes and the spec leaves open: constants without a body.  No proof can
see their values.  Each is applied to the operands it depends on, or to the counter `State.free`. -/
namespace Sys2Proof

/-- A value the spec leaves undefined: the k-th one that is needed (log 2). -/
opaque Config.freeNat : Nat → Nat

/-- A byte the spec leaves undefined: the k-th one that is needed (log 2). -/
opaque Config.freeByte : Nat → Byte

/-- The row, within its bank, of the DRAM row that holds the line at an address: its relation to the
address is not architectural (07_memory_tiers.md R252, Table 7.7). -/
opaque Config.rowOf : Nat → Nat

/-- The program that a firmware image carries for a service role (R47); the factory's image is the empty
list. -/
opaque Config.fwProgram : List Byte → Nat → List Byte

/-- The entry offset of that program (R132). -/
opaque Config.fwEntry : List Byte → Nat → Nat

/-- Byte `k` of the key stream of the wire key that a label names under a domain secret, with counter `txc`: what
AES-256 gives is not part of the model (R512, R521). -/
opaque Config.keystream : Nat → Nat → Nat → Nat → Byte

/-- The authentication tag of that key, counter, authenticated data and ciphertext (R521). -/
opaque Config.wireTag : Nat → Nat → Nat → List Byte → List Byte → List Byte

/-- The firmware version word that an image declares (R488, R507, R533). -/
opaque Config.fwVersion : List Byte → Nat

/-- Its security version number (Table 16.7, R533), and whether it declares live takeover (R560). -/
opaque Config.fwSvn : List Byte → Nat
opaque Config.fwLive : List Byte → Bool

/-- Whether 96 bytes X, Y are a P-384 point other than infinity (R515). -/
opaque Config.pointOk : List Byte → Bool

/-- The domain secret that this card unwraps from a provisioning blob; none where the key wrap's check fails (R515). -/
opaque Config.unwrapDs : List Byte → Option Nat

/-- Word `k` of the card's identity public key (SEC_ID_PUB). -/
opaque Config.idPub : Nat → Nat

/-- The silicon revision and the manufacturer identity code of IDCODE (Table 19.5). -/
opaque Config.siliconRev : Nat
opaque Config.jtagMaker : Nat

/-- Byte `k` of the card's serial number (Table 21.5). -/
opaque Config.serial : Nat → Byte

end Sys2Proof
end

