-- ==== Sys2Proof/Machine/Bits.lean ====
section
/-! DEFINITION. Bit fields of numbers, byte lists in both byte orders, sign extension, saturation and the
bit-serial CRCs of cells and symbols (00_scope.md R24 to R27). -/
namespace Sys2Proof.Machine

/-- Bits [lo + w - 1 : lo] of `n` (R25). -/
def bits (n lo w : Nat) : Nat := (n / 2 ^ lo) % 2 ^ w

/-- Bit `k` of `n`. -/
def bit (n k : Nat) : Bool := n.testBit k

/-- `n` with bits [lo + w - 1 : lo] replaced by `v` (its low `w` bits). -/
def setBits (n lo w v : Nat) : Nat :=
  n - bits n lo w * 2 ^ lo + (v % 2 ^ w) * 2 ^ lo

/-- A mask of `w` ones from bit `lo`. -/
def ones (lo w : Nat) : Nat := (2 ^ w - 1) * 2 ^ lo

/-- `n` with the bits of `m` cleared. -/
def clearMask (n m : Nat) : Nat := n ^^^ (n &&& m)

/-- `a + b`, held at the largest `w`-bit value (a saturating counter). -/
def satAdd (w a b : Nat) : Nat := min (a + b) (2 ^ w - 1)

/-- The number of one bits among the low `w` bits of `n`. -/
def popCount : Nat → Nat → Nat
  | 0, _ => 0
  | w + 1, n => n % 2 + popCount w (n / 2)

/-- Round `n` up to a multiple of `m`. -/
def alignUp (n m : Nat) : Nat := (n + (m - 1)) / m * m

/-- The quotient rounded up. -/
def ceilDiv (n m : Nat) : Nat := (n + (m - 1)) / m

/-- The number that a list of bytes stores, the lowest byte first (R27). -/
def leNat : List Byte → Nat
  | [] => 0
  | b :: bs => b.toNat + 256 * leNat bs

/-- The `k` bytes that store `n`, the lowest byte first (R27). -/
def leBytes : Nat → Nat → List Byte
  | 0, _ => []
  | k + 1, n => BitVec.ofNat 8 n :: leBytes k (n / 256)

/-- The number that a list of bytes stores, the highest byte first (the wire order of R27). -/
def beNat (l : List Byte) : Nat := leNat l.reverse

/-- The `k` bytes that store `n`, the highest byte first. -/
def beBytes (k n : Nat) : List Byte := (leBytes k n).reverse

/-- Byte `i` of a list, 0 beyond its end. -/
def byteAt (l : List Byte) (i : Nat) : Nat := (l.getD i 0).toNat

/-- The `n` bytes of `l` from index `i`, padded with zeros to `n`. -/
def sliceB (l : List Byte) (i n : Nat) : List Byte :=
  let t := (l.drop i).take n
  t ++ List.replicate (n - t.length) 0

/-- The little-endian number in the `n` bytes of `l` from index `i`. -/
def leAt (l : List Byte) (i n : Nat) : Nat := leNat (sliceB l i n)

/-- The big-endian number in the `n` bytes of `l` from index `i`. -/
def beAt (l : List Byte) (i n : Nat) : Nat := beNat (sliceB l i n)

/-- `l` with the bytes from index `i` replaced by `bs`. -/
def spliceB (l : List Byte) (i : Nat) (bs : List Byte) : List Byte :=
  sliceB l 0 i ++ bs ++ l.drop (i + bs.length)

/-- The signed value of the low `w` bits of `n`. -/
def sgn (w n : Nat) : Int :=
  let m := n % 2 ^ w
  if 2 ^ (w - 1) ≤ m then (m : Int) - (2 ^ w : Nat) else (m : Int)

/-- The `w`-bit two's complement pattern of `x`. -/
def wrapI (w : Nat) (x : Int) : Nat := (x % (2 ^ w : Nat)).toNat

/-- `x` held within the signed `w`-bit range, as a two's complement pattern. -/
def satI (w : Nat) (x : Int) : Nat :=
  wrapI w (max (-(2 ^ (w - 1) : Nat) : Int) (min x ((2 ^ (w - 1) : Nat) - 1)))

/-- One bit step of a reflected CRC register. -/
def crcStepR (poly c : Nat) : Nat := if c % 2 = 1 then (c / 2) ^^^ poly else c / 2

/-- `n`-fold application. -/
def iterN {α : Type} (f : α → α) : Nat → α → α
  | 0, x => x
  | n + 1, x => iterN f n (f x)

/-- CRC-32C (reflected polynomial 0x82F63B78, initial value and final inversion all ones): the code of
cell headers, cell payloads and table images (Tables 2.1 and 2.2). -/
def crc32c (l : List Byte) : Nat :=
  (l.foldl (fun c b => iterN (crcStepR 0x82F63B78) 8 (c ^^^ b.toNat)) 0xFFFFFFFF) ^^^ 0xFFFFFFFF

/-- One bit step of the CRC-8 with polynomial x^8 + x^2 + x + 1 (R97). -/
def crc8Step (c : Nat) : Nat := if c ≥ 128 then ((2 * c) % 256) ^^^ 0x07 else 2 * c

/-- The CRC-8 of R97: initial value 0, no reflection, no final inversion. -/
def crc8 (l : List Byte) : Nat := l.foldl (fun c b => iterN crc8Step 8 (c ^^^ b.toNat)) 0

/-- XOR of two byte lists of one length. -/
def xorB (a b : List Byte) : List Byte := List.zipWith (· ^^^ ·) a b

/-- `a` put into a sorted list, before the first entry it may stand before. -/
def insertBy {α : Type} (le : α → α → Bool) (a : α) : List α → List α
  | [] => [a]
  | b :: l => if le a b then a :: b :: l else b :: insertBy le a l

/-- A list in the order `le`; entries that `le` ranks alike keep their order. -/
def sortBy {α : Type} (le : α → α → Bool) (l : List α) : List α := l.foldr (insertBy le) []

end Sys2Proof.Machine
end

