-- ==== Sys2Proof/Machine/Maps.lean ====
section
/-! DEFINITION. Sparse tables: look up, insert and delete in a list of (key, value) pairs with strictly
rising keys, and the two-sided form in which a default value is never listed (the canonical form of memory).
-/
namespace Sys2Proof.Machine

/-- The value listed under key `k`, if one is. -/
def tfind {α : Type} : SMap α → Nat → Option α
  | [], _ => none
  | (k', v) :: m, k => if k = k' then some v else tfind m k

/-- List `v` under key `k`, in its place. -/
def tput {α : Type} : SMap α → Nat → α → SMap α
  | [], k, v => [(k, v)]
  | (k', v') :: m, k, v =>
    if k < k' then (k, v) :: (k', v') :: m
    else if k = k' then (k, v) :: m
    else (k', v') :: tput m k v

/-- Unlist key `k`. -/
def tdel {α : Type} : SMap α → Nat → SMap α
  | [], _ => []
  | (k', v') :: m, k => if k = k' then m else (k', v') :: tdel m k

/-- The value under key `k`, where an unlisted key reads as `d`. -/
def mget {α : Type} (d : α) (m : SMap α) (k : Nat) : α := (tfind m k).getD d

/-- Put `v` under key `k`, where an unlisted key reads as `d`: writing `d` unlists the key. -/
def mset {α : Type} [DecidableEq α] (d : α) (m : SMap α) (k : Nat) (v : α) : SMap α :=
  if v = d then tdel m k else tput m k v

/-- Keys strictly rising. -/
def sortedKeys {α : Type} : SMap α → Bool
  | [] => true
  | [_] => true
  | (k, _) :: (k', v') :: m => decide (k < k') && sortedKeys ((k', v') :: m)

/-- The canonical form of a table whose unlisted keys read as `d`. -/
def canonical {α : Type} [DecidableEq α] (d : α) (m : SMap α) : Bool :=
  sortedKeys m && m.all fun p => decide (p.2 ≠ d)

/-- Apply `f` to the element at index `i` of a list, where it has one. -/
def modifyAt {α : Type} (f : α → α) : Nat → List α → List α
  | _, [] => []
  | 0, x :: xs => f x :: xs
  | i + 1, x :: xs => x :: modifyAt f i xs

/-- Apply `f` to every element that satisfies `p`. -/
def modifyWhere {α : Type} (p : α → Bool) (f : α → α) (l : List α) : List α :=
  l.map fun x => if p x then f x else x

end Sys2Proof.Machine
end

