-- ==== Sys2Proof/Machine/Regs.lean ====
section
/-! DEFINITION. The register maps of the spec: the address and the named fields of every register
(Tables 2.10, 2.11, 3.8, 3.9, 6.8, 7.6, 8.6, 9.12, 10.9, 11.2, 12.9, 13.8, 13.9, 14.2, 14.4, 14.12,
15.6, 15.7, 16.8, 17.3, 18.4, 19.6, 20.8), and what each field answers to a read and a write
(00_scope.md R18 to R22).  A register of CSR space or of a tile's control range has its device physical
address; a register of the window of instance i has the key 2^48 + i * 2^20 + offset in BAR0; BAR2's own
register RING_BAR2_WIN has the key 2^48 + 2^40.  The manager view of a mailbox (R508) has names in MBXM_. -/
namespace Sys2Proof.Machine

/-- The access types of Table 0.3 (00_scope.md R18). -/
inductive Acc
  | rw | ro | wo | w1c | rc | rws
  deriving DecidableEq, Repr

/-- A field of a register: the register's key, the field's lowest bit and its width. -/
structure RegFld where
  reg : Nat
  lo : Nat
  w : Nat
  deriving DecidableEq, Repr

/-- One field of a register map's row: lowest bit, width and access type. -/
structure FldDef where
  lo : Nat
  w : Nat
  acc : Acc
  deriving DecidableEq, Repr

/-- One row of a register map: `n1 * n2` registers of `width` bits, register (i, j) at
`base + i * s1 + j * s2`; `reset` is the value after reset of every register of the row, but where
`regReset` says otherwise.  Bits in no field are reserved (00_scope.md R20). -/
structure RegDef where
  base : Nat
  s1 : Nat
  n1 : Nat
  s2 : Nat
  n2 : Nat
  width : Nat
  reset : Nat
  flds : List FldDef
  deriving DecidableEq, Repr

def PICK_CTRL : Nat := 0xff000000000
def PICK_CTRL_JOIN : RegFld := ⟨PICK_CTRL, 0, 1⟩
def PICK_CTRL_ALERT : RegFld := ⟨PICK_CTRL, 1, 1⟩
def PICK_SYNC_CFG : Nat := 0xff000000008
def PICK_SYNC_CFG_ROLE : RegFld := ⟨PICK_SYNC_CFG, 0, 2⟩
def PICK_SYNC_CFG_PARENT : RegFld := ⟨PICK_SYNC_CFG, 4, 4⟩
def PICK_SYNC_CFG_ALT_PARENT : RegFld := ⟨PICK_SYNC_CFG, 8, 4⟩
def PICK_SYNC_CFG_REF_SEL : RegFld := ⟨PICK_SYNC_CFG, 12, 2⟩
def PICK_SYNC_CFG_DOMAIN_ID : RegFld := ⟨PICK_SYNC_CFG, 16, 16⟩
def PICK_STATUS : Nat := 0xff000000010
def PICK_STATUS_STATE : RegFld := ⟨PICK_STATUS, 0, 3⟩
def PICK_STATUS_IS_MASTER : RegFld := ⟨PICK_STATUS, 3, 1⟩
def PICK_STATUS_ACTIVE_PARENT : RegFld := ⟨PICK_STATUS, 4, 4⟩
def PICK_STATUS_HOPS : RegFld := ⟨PICK_STATUS, 8, 4⟩
def PICK_STATUS_REF_OK : RegFld := ⟨PICK_STATUS, 12, 1⟩
def PICK_STATUS_ALERT_SEEN : RegFld := ⟨PICK_STATUS, 13, 1⟩
def PICK_STATUS_HOLDOVER_US : RegFld := ⟨PICK_STATUS, 16, 16⟩
def PICK_NUMBER : Nat := 0xff000000018
def PICK_NUMBER_NUMBER : RegFld := ⟨PICK_NUMBER, 0, 48⟩
def PICK_OFFSET : Nat := 0xff000000020
def PICK_OFFSET_THETA : RegFld := ⟨PICK_OFFSET, 0, 32⟩
def PICK_OFFSET_DELAY : RegFld := ⟨PICK_OFFSET, 32, 32⟩
def PICK_FREQ_ADJ : Nat := 0xff000000028
def PICK_FREQ_ADJ_ADJ : RegFld := ⟨PICK_FREQ_ADJ, 0, 32⟩
def PICK_HOLDOVER_LIMIT : Nat := 0xff000000030
def PICK_HOLDOVER_LIMIT_LIMIT_US : RegFld := ⟨PICK_HOLDOVER_LIMIT, 0, 16⟩
def PICK_EVENT : Nat := 0xff000000038
def PICK_EVENT_LATE : RegFld := ⟨PICK_EVENT, 0, 1⟩
def PICK_EVENT_HOLE : RegFld := ⟨PICK_EVENT, 1, 1⟩
def PICK_EVENT_PARENT_SWITCH : RegFld := ⟨PICK_EVENT, 2, 1⟩
def PICK_EVENT_HOLDOVER : RegFld := ⟨PICK_EVENT, 3, 1⟩
def PICK_EVENT_DOMAIN_LOST : RegFld := ⟨PICK_EVENT, 4, 1⟩
def PICK_EVENT_REF_LOST : RegFld := ⟨PICK_EVENT, 5, 1⟩
def PICK_EVENT_ALERT_RX : RegFld := ⟨PICK_EVENT, 6, 1⟩
def PICK_EVENT_OFFSET_ALARM : RegFld := ⟨PICK_EVENT, 7, 1⟩
def PICK_EVENT_SUCCESSOR_TOOK_OVER : RegFld := ⟨PICK_EVENT, 8, 1⟩
def PICK_EVENT_EN : Nat := 0xff000000040
def PICK_EVENT_EN_LATE : RegFld := ⟨PICK_EVENT_EN, 0, 1⟩
def PICK_EVENT_EN_HOLE : RegFld := ⟨PICK_EVENT_EN, 1, 1⟩
def PICK_EVENT_EN_PARENT_SWITCH : RegFld := ⟨PICK_EVENT_EN, 2, 1⟩
def PICK_EVENT_EN_HOLDOVER : RegFld := ⟨PICK_EVENT_EN, 3, 1⟩
def PICK_EVENT_EN_DOMAIN_LOST : RegFld := ⟨PICK_EVENT_EN, 4, 1⟩
def PICK_EVENT_EN_REF_LOST : RegFld := ⟨PICK_EVENT_EN, 5, 1⟩
def PICK_EVENT_EN_ALERT_RX : RegFld := ⟨PICK_EVENT_EN, 6, 1⟩
def PICK_EVENT_EN_OFFSET_ALARM : RegFld := ⟨PICK_EVENT_EN, 7, 1⟩
def PICK_EVENT_EN_SUCCESSOR_TOOK_OVER : RegFld := ⟨PICK_EVENT_EN, 8, 1⟩
def PICK_LATE_COUNT : Nat := 0xff000000048
def PICK_LATE_COUNT_VAL : RegFld := ⟨PICK_LATE_COUNT, 0, 64⟩
def PICK_HOLE_COUNT : Nat := 0xff000000050
def PICK_HOLE_COUNT_VAL : RegFld := ⟨PICK_HOLE_COUNT, 0, 64⟩
def PICK_TOD_SEC : Nat := 0xff000000058
def PICK_TOD_SEC_SEC : RegFld := ⟨PICK_TOD_SEC, 0, 48⟩
def PICK_TOD_NS : Nat := 0xff000000060
def PICK_TOD_NS_NS : RegFld := ⟨PICK_TOD_NS, 0, 30⟩
def PICK_TOD_SET : Nat := 0xff000000068
def PICK_TOD_SET_SEC : RegFld := ⟨PICK_TOD_SET, 0, 48⟩
def PICK_LINK_ASYM (g : Nat) : Nat := 0xff000000100 + g * 0x8
def PICK_LINK_ASYM_ASYM (g : Nat) : RegFld := ⟨(PICK_LINK_ASYM g), 0, 32⟩
def PICK_LATE_INST (i : Nat) : Nat := 0xff000000200 + i * 0x8
def PICK_LATE_INST_COUNT (i : Nat) : RegFld := ⟨(PICK_LATE_INST i), 0, 32⟩
def PICK_LATE_LOG (n : Nat) (w : Nat) : Nat := 0xff000001000 + n * 0x10 + w * 0x8
def PICK_LATE_LOG_VAL (n : Nat) (w : Nat) : RegFld := ⟨(PICK_LATE_LOG n w), 0, 64⟩
def PICK_LATE_LOG_HEAD : Nat := 0xff000001400
def PICK_LATE_LOG_HEAD_NEXT : RegFld := ⟨PICK_LATE_LOG_HEAD, 0, 6⟩
def PICK_LATE_LOG_HEAD_OVERWRITTEN : RegFld := ⟨PICK_LATE_LOG_HEAD, 16, 16⟩
def WARP_CTRL : Nat := 0xff040000000
def WARP_CTRL_LOAD : RegFld := ⟨WARP_CTRL, 0, 1⟩
def WARP_CTRL_ARM : RegFld := ⟨WARP_CTRL, 1, 1⟩
def WARP_CTRL_DISARM : RegFld := ⟨WARP_CTRL, 2, 1⟩
def WARP_CTRL_CLEAR : RegFld := ⟨WARP_CTRL, 3, 1⟩
def WARP_CTRL_ARM_EMPTY : RegFld := ⟨WARP_CTRL, 4, 1⟩
def WARP_LOAD_ADDR : Nat := 0xff040000008
def WARP_LOAD_ADDR_ADDR : RegFld := ⟨WARP_LOAD_ADDR, 12, 52⟩
def WARP_LOAD_LEN : Nat := 0xff040000010
def WARP_LOAD_LEN_LEN : RegFld := ⟨WARP_LOAD_LEN, 0, 25⟩
def WARP_SWAP_PICK : Nat := 0xff040000018
def WARP_SWAP_PICK_PICK : RegFld := ⟨WARP_SWAP_PICK, 0, 48⟩
def WARP_STATUS : Nat := 0xff040000020
def WARP_STATUS_SHADOW_STATE : RegFld := ⟨WARP_STATUS, 0, 2⟩
def WARP_STATUS_ACTIVE_BANK : RegFld := ⟨WARP_STATUS, 2, 1⟩
def WARP_STATUS_ACTIVE_TABLE : RegFld := ⟨WARP_STATUS, 3, 3⟩
def WARP_STATUS_TRAILING : RegFld := ⟨WARP_STATUS, 6, 1⟩
def WARP_STATUS_HAS_ACTIVE : RegFld := ⟨WARP_STATUS, 7, 1⟩
def WARP_STATUS_LOAD_RESULT : RegFld := ⟨WARP_STATUS, 8, 8⟩
def WARP_STATUS_ACTIVE_GEN : RegFld := ⟨WARP_STATUS, 16, 13⟩
def WARP_STATUS_ARMED_EMPTY : RegFld := ⟨WARP_STATUS, 29, 1⟩
def WARP_STATUS_SHADOW_GEN : RegFld := ⟨WARP_STATUS, 32, 13⟩
def WARP_LOST_LANES_LO : Nat := 0xff040000028
def WARP_LOST_LANES_LO_VAL : RegFld := ⟨WARP_LOST_LANES_LO, 0, 64⟩
def WARP_LOST_LANES_HI : Nat := 0xff040000030
def WARP_LOST_LANES_HI_VAL : RegFld := ⟨WARP_LOST_LANES_HI, 0, 32⟩
def WARP_CHECK_ERR : Nat := 0xff040000038
def WARP_CHECK_ERR_CODE : RegFld := ⟨WARP_CHECK_ERR, 0, 8⟩
def WARP_CHECK_ERR_TABLE : RegFld := ⟨WARP_CHECK_ERR, 8, 4⟩
def WARP_CHECK_ERR_GROUP : RegFld := ⟨WARP_CHECK_ERR, 12, 4⟩
def WARP_CHECK_ERR_OFFSET : RegFld := ⟨WARP_CHECK_ERR, 16, 32⟩
def WARP_MISMATCH_COUNT : Nat := 0xff040000040
def WARP_MISMATCH_COUNT_VAL : RegFld := ⟨WARP_MISMATCH_COUNT, 0, 64⟩
def WARP_EVENT : Nat := 0xff040000048
def WARP_EVENT_SWAPPED : RegFld := ⟨WARP_EVENT, 0, 1⟩
def WARP_EVENT_MISSED : RegFld := ⟨WARP_EVENT, 1, 1⟩
def WARP_EVENT_ALT_SELECTED : RegFld := ⟨WARP_EVENT, 2, 1⟩
def WARP_EVENT_NO_ALT : RegFld := ⟨WARP_EVENT, 3, 1⟩
def WARP_EVENT_LOAD_DONE : RegFld := ⟨WARP_EVENT, 4, 1⟩
def TILE_ROLE (t : Nat) : Nat := 0xf0000030000 + t * 0x40000
def TILE_ROLE_ROLE (t : Nat) : RegFld := ⟨(TILE_ROLE t), 0, 12⟩
def TILE_ROLE_EPOCH (t : Nat) : RegFld := ⟨(TILE_ROLE t), 12, 8⟩
def TILE_ROLE_NEXT (t : Nat) : Nat := 0xf0000030008 + t * 0x40000
def TILE_ROLE_NEXT_ROLE (t : Nat) : RegFld := ⟨(TILE_ROLE_NEXT t), 0, 12⟩
def TILE_LOAD_SRC (t : Nat) : Nat := 0xf0000030010 + t * 0x40000
def TILE_LOAD_SRC_ADDR (t : Nat) : RegFld := ⟨(TILE_LOAD_SRC t), 0, 48⟩
def TILE_LOAD_CFG (t : Nat) : Nat := 0xf0000030018 + t * 0x40000
def TILE_LOAD_CFG_LEN (t : Nat) : RegFld := ⟨(TILE_LOAD_CFG t), 0, 16⟩
def TILE_LOAD_CFG_ENTRY (t : Nat) : RegFld := ⟨(TILE_LOAD_CFG t), 16, 16⟩
def TILE_CTRL (t : Nat) : Nat := 0xf0000030020 + t * 0x40000
def TILE_CTRL_ASSIGN (t : Nat) : RegFld := ⟨(TILE_CTRL t), 0, 1⟩
def TILE_STATE (t : Nat) : Nat := 0xf0000030028 + t * 0x40000
def TILE_STATE_STATE (t : Nat) : RegFld := ⟨(TILE_STATE t), 0, 3⟩
def TILE_STATE_SCHED_ACTIVE (t : Nat) : RegFld := ⟨(TILE_STATE t), 3, 1⟩
def TILE_STATE_SCHED_ARMED (t : Nat) : RegFld := ⟨(TILE_STATE t), 4, 1⟩
def TILE_STATE_SPARED (t : Nat) : RegFld := ⟨(TILE_STATE t), 5, 1⟩
def TILE_STATE_ASSIGN_RESULT (t : Nat) : RegFld := ⟨(TILE_STATE t), 8, 8⟩
def TILE_STATE_PHYS_X (t : Nat) : RegFld := ⟨(TILE_STATE t), 16, 6⟩
def TILE_STATE_PHYS_Y (t : Nat) : RegFld := ⟨(TILE_STATE t), 22, 7⟩
def TILE_EVENT (t : Nat) : Nat := 0xf0000030030 + t * 0x40000
def TILE_EVENT_LOAD_DONE (t : Nat) : RegFld := ⟨(TILE_EVENT t), 0, 1⟩
def TILE_EVENT_ASSIGN_REFUSED (t : Nat) : RegFld := ⟨(TILE_EVENT t), 1, 1⟩
def TILE_EVENT_RMQ_FULL (t : Nat) : RegFld := ⟨(TILE_EVENT t), 2, 1⟩
def TILE_EVENT_RETURNED (t : Nat) : RegFld := ⟨(TILE_EVENT t), 3, 1⟩
def TILE_EVENT_ECC_CE (t : Nat) : RegFld := ⟨(TILE_EVENT t), 4, 1⟩
def TILE_EVENT_ECC_UE (t : Nat) : RegFld := ⟨(TILE_EVENT t), 5, 1⟩
def TILE_EVENT_EN (t : Nat) : Nat := 0xf0000030038 + t * 0x40000
def TILE_EVENT_EN_LOAD_DONE (t : Nat) : RegFld := ⟨(TILE_EVENT_EN t), 0, 1⟩
def TILE_EVENT_EN_ASSIGN_REFUSED (t : Nat) : RegFld := ⟨(TILE_EVENT_EN t), 1, 1⟩
def TILE_EVENT_EN_RMQ_FULL (t : Nat) : RegFld := ⟨(TILE_EVENT_EN t), 2, 1⟩
def TILE_EVENT_EN_RETURNED (t : Nat) : RegFld := ⟨(TILE_EVENT_EN t), 3, 1⟩
def TILE_EVENT_EN_ECC_CE (t : Nat) : RegFld := ⟨(TILE_EVENT_EN t), 4, 1⟩
def TILE_EVENT_EN_ECC_UE (t : Nat) : RegFld := ⟨(TILE_EVENT_EN t), 5, 1⟩
def TILE_QUEUES (t : Nat) : Nat := 0xf0000030040 + t * 0x40000
def TILE_QUEUES_INQ_COUNT (t : Nat) : RegFld := ⟨(TILE_QUEUES t), 0, 6⟩
def TILE_QUEUES_RMQ_COUNT (t : Nat) : RegFld := ⟨(TILE_QUEUES t), 8, 6⟩
def TILE_QUEUES_RMQ_WAITS (t : Nat) : RegFld := ⟨(TILE_QUEUES t), 16, 16⟩
def TILE_MSG_SENT (t : Nat) : Nat := 0xf0000030048 + t * 0x40000
def TILE_MSG_SENT_VAL (t : Nat) : RegFld := ⟨(TILE_MSG_SENT t), 0, 64⟩
def TILE_MSG_ACCEPTED (t : Nat) : Nat := 0xf0000030050 + t * 0x40000
def TILE_MSG_ACCEPTED_VAL (t : Nat) : RegFld := ⟨(TILE_MSG_ACCEPTED t), 0, 64⟩
def TILE_MSG_RETURNED (t : Nat) : Nat := 0xf0000030058 + t * 0x40000
def TILE_MSG_RETURNED_VAL (t : Nat) : RegFld := ⟨(TILE_MSG_RETURNED t), 0, 64⟩
def TILE_MSG_DISCARD (t : Nat) : Nat := 0xf0000030060 + t * 0x40000
def TILE_MSG_DISCARD_VAL (t : Nat) : RegFld := ⟨(TILE_MSG_DISCARD t), 0, 64⟩
def TILE_ECC_CE_COUNT (t : Nat) : Nat := 0xf0000030068 + t * 0x40000
def TILE_ECC_CE_COUNT_VAL (t : Nat) : RegFld := ⟨(TILE_ECC_CE_COUNT t), 0, 64⟩
def TILE_BANK_WAIT (t : Nat) : Nat := 0xf0000030070 + t * 0x40000
def TILE_BANK_WAIT_VAL (t : Nat) : RegFld := ⟨(TILE_BANK_WAIT t), 0, 64⟩
def TILE_SPARE_MAP (x : Nat) : Nat := 0xff080000000 + x * 0x8
def TILE_SPARE_MAP_SUB_ROW (x : Nat) : RegFld := ⟨(TILE_SPARE_MAP x), 0, 7⟩
def TILE_SPARE_MAP_SPARE_BAD (x : Nat) : RegFld := ⟨(TILE_SPARE_MAP x), 7, 1⟩
def TILE_BYPASS (y : Nat) : Nat := 0xff080000200 + y * 0x8
def TILE_BYPASS_VAL (y : Nat) : RegFld := ⟨(TILE_BYPASS y), 0, 64⟩
def TILE_SPARE_CMD : Nat := 0xff080000800
def TILE_SPARE_CMD_COLUMN : RegFld := ⟨TILE_SPARE_CMD, 0, 6⟩
def TILE_SPARE_CMD_ROW : RegFld := ⟨TILE_SPARE_CMD, 8, 6⟩
def TILE_SPARE_CMD_BYPASS : RegFld := ⟨TILE_SPARE_CMD, 16, 1⟩
def TILE_SPARE_CMD_GO : RegFld := ⟨TILE_SPARE_CMD, 31, 1⟩
def TILE_SPARE_STATUS : Nat := 0xff080000808
def TILE_SPARE_STATUS_PENDING : RegFld := ⟨TILE_SPARE_STATUS, 0, 1⟩
def TILE_SPARE_STATUS_RESULT : RegFld := ⟨TILE_SPARE_STATUS, 8, 8⟩
def TILE_DEV_EVENT : Nat := 0xff080000810
def TILE_DEV_EVENT_SPARED : RegFld := ⟨TILE_DEV_EVENT, 0, 1⟩
def TILE_DEV_EVENT_SPARE_EXHAUSTED : RegFld := ⟨TILE_DEV_EVENT, 1, 1⟩
def TILE_DEV_EVENT_BYPASSED : RegFld := ⟨TILE_DEV_EVENT, 2, 1⟩
def TILE_DEV_EVENT_TURN_BLOCKED : RegFld := ⟨TILE_DEV_EVENT, 3, 1⟩
def TILE_DEV_EVENT_EN : Nat := 0xff080000818
def TILE_DEV_EVENT_EN_SPARED : RegFld := ⟨TILE_DEV_EVENT_EN, 0, 1⟩
def TILE_DEV_EVENT_EN_SPARE_EXHAUSTED : RegFld := ⟨TILE_DEV_EVENT_EN, 1, 1⟩
def TILE_DEV_EVENT_EN_BYPASSED : RegFld := ⟨TILE_DEV_EVENT_EN, 2, 1⟩
def TILE_DEV_EVENT_EN_TURN_BLOCKED : RegFld := ⟨TILE_DEV_EVENT_EN, 3, 1⟩
def TILE_FAILED (n : Nat) : Nat := 0xff080001000 + n * 0x8
def TILE_FAILED_VAL (n : Nat) : RegFld := ⟨(TILE_FAILED n), 0, 64⟩
def SKN_EVENT : Nat := 0xff0c0000000
def SKN_EVENT_REJECT : RegFld := ⟨SKN_EVENT, 0, 1⟩
def SKN_EVENT_FAULT : RegFld := ⟨SKN_EVENT, 1, 1⟩
def SKN_EVENT_UNRESOLVED : RegFld := ⟨SKN_EVENT, 2, 1⟩
def SKN_EVENT_HOLE : RegFld := ⟨SKN_EVENT, 3, 1⟩
def SKN_EVENT_CHECK_FAIL : RegFld := ⟨SKN_EVENT, 4, 1⟩
def SKN_EVENT_OVERRUN : RegFld := ⟨SKN_EVENT, 5, 1⟩
def SKN_EVENT_QUEUE_WAIT : RegFld := ⟨SKN_EVENT, 6, 1⟩
def SKN_EVENT_EN : Nat := 0xff0c0000008
def SKN_EVENT_EN_REJECT : RegFld := ⟨SKN_EVENT_EN, 0, 1⟩
def SKN_EVENT_EN_FAULT : RegFld := ⟨SKN_EVENT_EN, 1, 1⟩
def SKN_EVENT_EN_UNRESOLVED : RegFld := ⟨SKN_EVENT_EN, 2, 1⟩
def SKN_EVENT_EN_HOLE : RegFld := ⟨SKN_EVENT_EN, 3, 1⟩
def SKN_EVENT_EN_CHECK_FAIL : RegFld := ⟨SKN_EVENT_EN, 4, 1⟩
def SKN_EVENT_EN_OVERRUN : RegFld := ⟨SKN_EVENT_EN, 5, 1⟩
def SKN_EVENT_EN_QUEUE_WAIT : RegFld := ⟨SKN_EVENT_EN, 6, 1⟩
def SKN_ISSUED : Nat := 0xff0c0000010
def SKN_ISSUED_VAL : RegFld := ⟨SKN_ISSUED, 0, 64⟩
def SKN_COMPLETED : Nat := 0xff0c0000018
def SKN_COMPLETED_VAL : RegFld := ⟨SKN_COMPLETED, 0, 64⟩
def SKN_FAULTED : Nat := 0xff0c0000020
def SKN_FAULTED_VAL : RegFld := ⟨SKN_FAULTED, 0, 64⟩
def SKN_RESUMED : Nat := 0xff0c0000028
def SKN_RESUMED_VAL : RegFld := ⟨SKN_RESUMED, 0, 64⟩
def SKN_HOLE_COUNT : Nat := 0xff0c0000030
def SKN_HOLE_COUNT_VAL : RegFld := ⟨SKN_HOLE_COUNT, 0, 64⟩
def SKN_CHECK_FAIL : Nat := 0xff0c0000038
def SKN_CHECK_FAIL_VAL : RegFld := ⟨SKN_CHECK_FAIL, 0, 64⟩
def SKN_OVERRUN_COUNT : Nat := 0xff0c0000040
def SKN_OVERRUN_COUNT_VAL : RegFld := ⟨SKN_OVERRUN_COUNT, 0, 64⟩
def SKN_REJECT_LOG : Nat := 0xff0c0000048
def SKN_REJECT_LOG_TILE : RegFld := ⟨SKN_REJECT_LOG, 0, 12⟩
def SKN_REJECT_LOG_CTX : RegFld := ⟨SKN_REJECT_LOG, 12, 1⟩
def SKN_REJECT_LOG_HANDLE : RegFld := ⟨SKN_REJECT_LOG, 13, 3⟩
def SKN_REJECT_LOG_STATUS : RegFld := ⟨SKN_REJECT_LOG, 16, 8⟩
def SKN_REJECT_LOG_CODE : RegFld := ⟨SKN_REJECT_LOG, 24, 8⟩
def SKN_CQ_BASE (q : Nat) : Nat := 0xff0c0100000 + q * 0x20
def SKN_CQ_BASE_BASE (q : Nat) : RegFld := ⟨(SKN_CQ_BASE q), 6, 42⟩
def SKN_CQ_CFG (q : Nat) : Nat := 0xff0c0100008 + q * 0x20
def SKN_CQ_CFG_ENABLE (q : Nat) : RegFld := ⟨(SKN_CQ_CFG q), 0, 1⟩
def SKN_CQ_CFG_LOG2_DEPTH (q : Nat) : RegFld := ⟨(SKN_CQ_CFG q), 1, 5⟩
def SKN_CQ_PTR (q : Nat) : Nat := 0xff0c0100010 + q * 0x20
def SKN_CQ_PTR_HEAD (q : Nat) : RegFld := ⟨(SKN_CQ_PTR q), 0, 17⟩
def SKN_CQ_PTR_TAIL (q : Nat) : RegFld := ⟨(SKN_CQ_PTR q), 32, 17⟩
def SKN_CQ_LOST (q : Nat) : Nat := 0xff0c0100018 + q * 0x20
def SKN_CQ_LOST_COUNT (q : Nat) : RegFld := ⟨(SKN_CQ_LOST q), 0, 32⟩
def SKN_CUR_STATE (t : Nat) (h : Nat) : Nat := 0xff0c0400000 + t * 0x400 + h * 0x40
def SKN_CUR_STATE_STATE (t : Nat) (h : Nat) : RegFld := ⟨(SKN_CUR_STATE t h), 0, 3⟩
def SKN_CUR_STATE_STATUS (t : Nat) (h : Nat) : RegFld := ⟨(SKN_CUR_STATE t h), 8, 8⟩
def SKN_CUR_STATE_QUEUE (t : Nat) (h : Nat) : RegFld := ⟨(SKN_CUR_STATE t h), 16, 16⟩
def SKN_CUR_IDX01 (t : Nat) (h : Nat) : Nat := 0xff0c0400008 + t * 0x400 + h * 0x40
def SKN_CUR_IDX01_I0 (t : Nat) (h : Nat) : RegFld := ⟨(SKN_CUR_IDX01 t h), 0, 32⟩
def SKN_CUR_IDX01_I1 (t : Nat) (h : Nat) : RegFld := ⟨(SKN_CUR_IDX01 t h), 32, 32⟩
def SKN_CUR_IDX23 (t : Nat) (h : Nat) : Nat := 0xff0c0400010 + t * 0x400 + h * 0x40
def SKN_CUR_IDX23_I2 (t : Nat) (h : Nat) : RegFld := ⟨(SKN_CUR_IDX23 t h), 0, 32⟩
def SKN_CUR_IDX23_I3 (t : Nat) (h : Nat) : RegFld := ⟨(SKN_CUR_IDX23 t h), 32, 32⟩
def SKN_CUR_IDX4 (t : Nat) (h : Nat) : Nat := 0xff0c0400018 + t * 0x400 + h * 0x40
def SKN_CUR_IDX4_I4 (t : Nat) (h : Nat) : RegFld := ⟨(SKN_CUR_IDX4 t h), 0, 32⟩
def SKN_CUR_IDX4_NEXT_CHUNK (t : Nat) (h : Nat) : RegFld := ⟨(SKN_CUR_IDX4 t h), 32, 32⟩
def SKN_CUR_DONE (t : Nat) (h : Nat) : Nat := 0xff0c0400020 + t * 0x400 + h * 0x40
def SKN_CUR_DONE_ELEMS (t : Nat) (h : Nat) : RegFld := ⟨(SKN_CUR_DONE t h), 0, 48⟩
def SKN_CUR_FAULT (t : Nat) (h : Nat) : Nat := 0xff0c0400028 + t * 0x400 + h * 0x40
def SKN_CUR_FAULT_ADDR (t : Nat) (h : Nat) : RegFld := ⟨(SKN_CUR_FAULT t h), 0, 57⟩
def SKN_CUR_FAULT_SIDE (t : Nat) (h : Nat) : RegFld := ⟨(SKN_CUR_FAULT t h), 63, 1⟩
def SKN_CUR_CHECK (t : Nat) (h : Nat) : Nat := 0xff0c0400030 + t * 0x400 + h * 0x40
def SKN_CUR_CHECK_RUNNING (t : Nat) (h : Nat) : RegFld := ⟨(SKN_CUR_CHECK t h), 0, 64⟩
def SKN_CUR_RSVD (t : Nat) (h : Nat) : Nat := 0xff0c0400038 + t * 0x400 + h * 0x40
def MEM_EVENT : Nat := 0xff100000000
def MEM_EVENT_CE : RegFld := ⟨MEM_EVENT, 0, 1⟩
def MEM_EVENT_UE : RegFld := ⟨MEM_EVENT, 1, 1⟩
def MEM_EVENT_HOT : RegFld := ⟨MEM_EVENT, 2, 1⟩
def MEM_EVENT_RESALT : RegFld := ⟨MEM_EVENT, 3, 1⟩
def MEM_EVENT_NOGAIN : RegFld := ⟨MEM_EVENT, 4, 1⟩
def MEM_EVENT_ROW_REPAIR : RegFld := ⟨MEM_EVENT, 5, 1⟩
def MEM_EVENT_DIE_FAILED : RegFld := ⟨MEM_EVENT, 6, 1⟩
def MEM_EVENT_REBUILD_DONE : RegFld := ⟨MEM_EVENT, 7, 1⟩
def MEM_EVENT_CHAN_FAILED : RegFld := ⟨MEM_EVENT, 8, 1⟩
def MEM_EVENT_CHAN_MOVE_DONE : RegFld := ⟨MEM_EVENT, 9, 1⟩
def MEM_EVENT_SPARE_EXHAUSTED : RegFld := ⟨MEM_EVENT, 10, 1⟩
def MEM_EVENT_POISON_WRITE_DROP : RegFld := ⟨MEM_EVENT, 11, 1⟩
def MEM_EVENT_LOG_OVERWRITE : RegFld := ⟨MEM_EVENT, 12, 1⟩
def MEM_EVENT_EN : Nat := 0xff100000008
def MEM_EVENT_EN_CE : RegFld := ⟨MEM_EVENT_EN, 0, 1⟩
def MEM_EVENT_EN_UE : RegFld := ⟨MEM_EVENT_EN, 1, 1⟩
def MEM_EVENT_EN_HOT : RegFld := ⟨MEM_EVENT_EN, 2, 1⟩
def MEM_EVENT_EN_RESALT : RegFld := ⟨MEM_EVENT_EN, 3, 1⟩
def MEM_EVENT_EN_NOGAIN : RegFld := ⟨MEM_EVENT_EN, 4, 1⟩
def MEM_EVENT_EN_ROW_REPAIR : RegFld := ⟨MEM_EVENT_EN, 5, 1⟩
def MEM_EVENT_EN_DIE_FAILED : RegFld := ⟨MEM_EVENT_EN, 6, 1⟩
def MEM_EVENT_EN_REBUILD_DONE : RegFld := ⟨MEM_EVENT_EN, 7, 1⟩
def MEM_EVENT_EN_CHAN_FAILED : RegFld := ⟨MEM_EVENT_EN, 8, 1⟩
def MEM_EVENT_EN_CHAN_MOVE_DONE : RegFld := ⟨MEM_EVENT_EN, 9, 1⟩
def MEM_EVENT_EN_SPARE_EXHAUSTED : RegFld := ⟨MEM_EVENT_EN, 10, 1⟩
def MEM_EVENT_EN_POISON_WRITE_DROP : RegFld := ⟨MEM_EVENT_EN, 11, 1⟩
def MEM_EVENT_EN_LOG_OVERWRITE : RegFld := ⟨MEM_EVENT_EN, 12, 1⟩
def MEM_CE_NEAR : Nat := 0xff100000010
def MEM_CE_NEAR_VAL : RegFld := ⟨MEM_CE_NEAR, 0, 64⟩
def MEM_CE_FAR : Nat := 0xff100000018
def MEM_CE_FAR_VAL : RegFld := ⟨MEM_CE_FAR, 0, 64⟩
def MEM_UE_NEAR : Nat := 0xff100000020
def MEM_UE_NEAR_VAL : RegFld := ⟨MEM_UE_NEAR, 0, 64⟩
def MEM_UE_FAR : Nat := 0xff100000028
def MEM_UE_FAR_VAL : RegFld := ⟨MEM_UE_FAR, 0, 64⟩
def MEM_HOT_CFG : Nat := 0xff100000030
def MEM_HOT_CFG_ABS_OCC : RegFld := ⟨MEM_HOT_CFG, 0, 8⟩
def MEM_HOT_CFG_RATIO : RegFld := ⟨MEM_HOT_CFG, 8, 4⟩
def MEM_HOT_CFG_HOT_WINDOWS : RegFld := ⟨MEM_HOT_CFG, 12, 4⟩
def MEM_HOT_CFG_SAMPLE_LOG2 : RegFld := ⟨MEM_HOT_CFG, 16, 3⟩
def MEM_HOT_CFG_MAX_REGIONS : RegFld := ⟨MEM_HOT_CFG, 20, 4⟩
def MEM_HOT_CFG_ENABLE : RegFld := ⟨MEM_HOT_CFG, 24, 1⟩
def MEM_MIG_CFG : Nat := 0xff100000038
def MEM_MIG_CFG_IN_FLIGHT : RegFld := ⟨MEM_MIG_CFG, 0, 4⟩
def MEM_MIG_CFG_LINE_GAP_NS : RegFld := ⟨MEM_MIG_CFG, 8, 8⟩
def MEM_MIG_CFG_HOLD_MS : RegFld := ⟨MEM_MIG_CFG, 16, 16⟩
def MEM_RESALT_COUNT : Nat := 0xff100000040
def MEM_RESALT_COUNT_VAL : RegFld := ⟨MEM_RESALT_COUNT, 0, 64⟩
def MEM_RESALT_NOGAIN : Nat := 0xff100000048
def MEM_RESALT_NOGAIN_VAL : RegFld := ⟨MEM_RESALT_NOGAIN, 0, 64⟩
def MEM_SCRUB_CFG : Nat := 0xff100000050
def MEM_SCRUB_CFG_NEAR_HOURS : RegFld := ⟨MEM_SCRUB_CFG, 0, 8⟩
def MEM_SCRUB_CFG_FAR_HOURS : RegFld := ⟨MEM_SCRUB_CFG, 8, 8⟩
def MEM_SCRUB_CFG_ENABLE : RegFld := ⟨MEM_SCRUB_CFG, 16, 1⟩
def MEM_SCRUB_STATUS : Nat := 0xff100000058
def MEM_SCRUB_STATUS_NEAR_PASSES : RegFld := ⟨MEM_SCRUB_STATUS, 0, 16⟩
def MEM_SCRUB_STATUS_FAR_PASSES : RegFld := ⟨MEM_SCRUB_STATUS, 16, 16⟩
def MEM_REPAIR_CFG : Nat := 0xff100000060
def MEM_REPAIR_CFG_ROW_CE : RegFld := ⟨MEM_REPAIR_CFG, 0, 8⟩
def MEM_REPAIR_CFG_DIE_ROWS : RegFld := ⟨MEM_REPAIR_CFG, 8, 16⟩
def MEM_REPAIR_CFG_AUTO : RegFld := ⟨MEM_REPAIR_CFG, 24, 1⟩
def MEM_CMD : Nat := 0xff100000068
def MEM_CMD_OP : RegFld := ⟨MEM_CMD, 0, 3⟩
def MEM_CMD_UNIT : RegFld := ⟨MEM_CMD, 3, 5⟩
def MEM_CMD_WHERE : RegFld := ⟨MEM_CMD, 8, 8⟩
def MEM_CMD_REGION : RegFld := ⟨MEM_CMD, 16, 20⟩
def MEM_CMD_SALT : RegFld := ⟨MEM_CMD, 36, 4⟩
def MEM_CMD_GO : RegFld := ⟨MEM_CMD, 63, 1⟩
def MEM_CMD_STATUS : Nat := 0xff100000070
def MEM_CMD_STATUS_PENDING : RegFld := ⟨MEM_CMD_STATUS, 0, 1⟩
def MEM_CMD_STATUS_RESULT : RegFld := ⟨MEM_CMD_STATUS, 8, 8⟩
def MEM_SALT_SEL : Nat := 0xff100000078
def MEM_SALT_SEL_REGION : RegFld := ⟨MEM_SALT_SEL, 0, 20⟩
def MEM_SALT_DATA : Nat := 0xff100000080
def MEM_SALT_DATA_SALT : RegFld := ⟨MEM_SALT_DATA, 0, 4⟩
def MEM_SALT_DATA_MIGRATING : RegFld := ⟨MEM_SALT_DATA, 4, 1⟩
def MEM_SALT_DATA_OLD_SALT : RegFld := ⟨MEM_SALT_DATA, 5, 4⟩
def MEM_SALT_DATA_HOLD : RegFld := ⟨MEM_SALT_DATA, 9, 1⟩
def MEM_SALT_DATA_CURSOR : RegFld := ⟨MEM_SALT_DATA, 10, 15⟩
def MEM_SELFTEST : Nat := 0xff100000088
def MEM_SELFTEST_DONE : RegFld := ⟨MEM_SELFTEST, 0, 1⟩
def MEM_SELFTEST_PASS : RegFld := ⟨MEM_SELFTEST, 1, 1⟩
def MEM_SELFTEST_CTRL : RegFld := ⟨MEM_SELFTEST, 2, 9⟩
def MEM_SELFTEST_PATTERN : RegFld := ⟨MEM_SELFTEST, 16, 16⟩
def MEM_ERR_LOG_HEAD : Nat := 0xff100000090
def MEM_ERR_LOG_HEAD_NEXT : RegFld := ⟨MEM_ERR_LOG_HEAD, 0, 6⟩
def MEM_ERR_LOG_HEAD_OVERWRITTEN : RegFld := ⟨MEM_ERR_LOG_HEAD, 16, 16⟩
def MEM_STACK (k : Nat) : Nat := 0xff100000100 + k * 0x8
def MEM_STACK_FAILED_DIE (k : Nat) : RegFld := ⟨(MEM_STACK k), 0, 4⟩
def MEM_STACK_SPARE_USED (k : Nat) : RegFld := ⟨(MEM_STACK k), 4, 1⟩
def MEM_STACK_REBUILDING (k : Nat) : RegFld := ⟨(MEM_STACK k), 5, 1⟩
def MEM_STACK_ERASURE (k : Nat) : RegFld := ⟨(MEM_STACK k), 6, 1⟩
def MEM_STACK_REBUILD_CURSOR (k : Nat) : RegFld := ⟨(MEM_STACK k), 8, 29⟩
def MEM_FAR (c : Nat) : Nat := 0xff100000200 + c * 0x8
def MEM_FAR_PHYS (c : Nat) : RegFld := ⟨(MEM_FAR c), 0, 6⟩
def MEM_FAR_FAILED_DEV (c : Nat) : RegFld := ⟨(MEM_FAR c), 6, 5⟩
def MEM_FAR_MOVING (c : Nat) : RegFld := ⟨(MEM_FAR c), 11, 1⟩
def MEM_FAR_ERASURE (c : Nat) : RegFld := ⟨(MEM_FAR c), 12, 1⟩
def MEM_FAR_SPARE_USED (c : Nat) : RegFld := ⟨(MEM_FAR c), 13, 1⟩
def MEM_FAR_MOVE_CURSOR (c : Nat) : RegFld := ⟨(MEM_FAR c), 16, 29⟩
def MEM_OCC (i : Nat) : Nat := 0xff100000400 + i * 0x8
def MEM_OCC_MEAN (i : Nat) : RegFld := ⟨(MEM_OCC i), 0, 16⟩
def MEM_OCC_HOT_STREAK (i : Nat) : RegFld := ⟨(MEM_OCC i), 16, 8⟩
def MEM_ERR_LOG (n : Nat) (w : Nat) : Nat := 0xff100001000 + n * 0x20 + w * 0x8
def MEM_ERR_LOG_VAL (n : Nat) (w : Nat) : RegFld := ⟨(MEM_ERR_LOG n w), 0, 64⟩
def XLT_EVENT : Nat := 0xff140000000
def XLT_EVENT_FAULT : RegFld := ⟨XLT_EVENT, 0, 1⟩
def XLT_EVENT_BATCH : RegFld := ⟨XLT_EVENT, 1, 1⟩
def XLT_EVENT_STALL : RegFld := ⟨XLT_EVENT, 2, 1⟩
def XLT_EVENT_UNRESOLVED : RegFld := ⟨XLT_EVENT, 3, 1⟩
def XLT_EVENT_BAD_ENTRY : RegFld := ⟨XLT_EVENT, 4, 1⟩
def XLT_EVENT_MIGRATE_ERR : RegFld := ⟨XLT_EVENT, 5, 1⟩
def XLT_EVENT_EN : Nat := 0xff140000008
def XLT_EVENT_EN_FAULT : RegFld := ⟨XLT_EVENT_EN, 0, 1⟩
def XLT_EVENT_EN_BATCH : RegFld := ⟨XLT_EVENT_EN, 1, 1⟩
def XLT_EVENT_EN_STALL : RegFld := ⟨XLT_EVENT_EN, 2, 1⟩
def XLT_EVENT_EN_UNRESOLVED : RegFld := ⟨XLT_EVENT_EN, 3, 1⟩
def XLT_EVENT_EN_BAD_ENTRY : RegFld := ⟨XLT_EVENT_EN, 4, 1⟩
def XLT_EVENT_EN_MIGRATE_ERR : RegFld := ⟨XLT_EVENT_EN, 5, 1⟩
def XLT_WALKS : Nat := 0xff140000010
def XLT_WALKS_VAL : RegFld := ⟨XLT_WALKS, 0, 64⟩
def XLT_FAULTS : Nat := 0xff140000018
def XLT_FAULTS_VAL : RegFld := ⟨XLT_FAULTS, 0, 64⟩
def XLT_STALLS : Nat := 0xff140000020
def XLT_STALLS_VAL : RegFld := ⟨XLT_STALLS, 0, 64⟩
def XLT_UNRESOLVED : Nat := 0xff140000028
def XLT_UNRESOLVED_VAL : RegFld := ⟨XLT_UNRESOLVED, 0, 64⟩
def XLT_BAD_ENTRY_LOG : Nat := 0xff140000030
def XLT_BAD_ENTRY_LOG_ASID : RegFld := ⟨XLT_BAD_ENTRY_LOG, 0, 12⟩
def XLT_BAD_ENTRY_LOG_LEVEL : RegFld := ⟨XLT_BAD_ENTRY_LOG, 12, 3⟩
def XLT_BAD_ENTRY_LOG_POISON : RegFld := ⟨XLT_BAD_ENTRY_LOG, 15, 1⟩
def XLT_BAD_ENTRY_LOG_PA : RegFld := ⟨XLT_BAD_ENTRY_LOG, 16, 48⟩
def XLT_MIRRORS : Nat := 0xff140000038
def XLT_MIRRORS_VAL : RegFld := ⟨XLT_MIRRORS, 0, 4⟩
def XLT_FR_BASE (i : Nat) : Nat := 0xff140010000 + i * 0x100
def XLT_FR_BASE_BASE (i : Nat) : RegFld := ⟨(XLT_FR_BASE i), 12, 52⟩
def XLT_FR_PROD (i : Nat) : Nat := 0xff140010008 + i * 0x100
def XLT_FR_PROD_PROD (i : Nat) : RegFld := ⟨(XLT_FR_PROD i), 0, 32⟩
def XLT_FR_CONS (i : Nat) : Nat := 0xff140010010 + i * 0x100
def XLT_FR_CONS_CONS (i : Nat) : RegFld := ⟨(XLT_FR_CONS i), 0, 32⟩
def XLT_FR_CFG (i : Nat) : Nat := 0xff140010018 + i * 0x100
def XLT_FR_CFG_ENABLE (i : Nat) : RegFld := ⟨(XLT_FR_CFG i), 0, 1⟩
def XLT_FR_CFG_TIMEOUT_MS (i : Nat) : RegFld := ⟨(XLT_FR_CFG i), 16, 16⟩
def XLT_FR_STATUS (i : Nat) : Nat := 0xff140010020 + i * 0x100
def XLT_FR_STATUS_PARKED (i : Nat) : RegFld := ⟨(XLT_FR_STATUS i), 0, 10⟩
def XLT_FR_STATUS_OPEN (i : Nat) : RegFld := ⟨(XLT_FR_STATUS i), 10, 7⟩
def XLT_FR_STATUS_HELD (i : Nat) : RegFld := ⟨(XLT_FR_STATUS i), 17, 1⟩
def XLT_FR_STATUS_STALLING (i : Nat) : RegFld := ⟨(XLT_FR_STATUS i), 18, 1⟩
def XLT_ROOT (a : Nat) : Nat := 0xff140100000 + a * 0x10
def XLT_ROOT_USABLE (a : Nat) : RegFld := ⟨(XLT_ROOT a), 0, 1⟩
def XLT_ROOT_MIRROR (a : Nat) : RegFld := ⟨(XLT_ROOT a), 1, 1⟩
def XLT_ROOT_ROOT (a : Nat) : RegFld := ⟨(XLT_ROOT a), 12, 36⟩
def XLT_POOL (a : Nat) : Nat := 0xff140100008 + a * 0x10
def XLT_POOL_USED_4K (a : Nat) : RegFld := ⟨(XLT_POOL a), 0, 32⟩
def XLT_POOL_LEN_4K (a : Nat) : RegFld := ⟨(XLT_POOL a), 32, 32⟩
def PAGE_EVENT : Nat := 0xff180000000
def PAGE_EVENT_LOAD_DONE : RegFld := ⟨PAGE_EVENT, 0, 1⟩
def PAGE_EVENT_CAPACITY : RegFld := ⟨PAGE_EVENT, 1, 1⟩
def PAGE_EVENT_SLOW : RegFld := ⟨PAGE_EVENT, 2, 1⟩
def PAGE_EVENT_TRUNC : RegFld := ⟨PAGE_EVENT, 3, 1⟩
def PAGE_EVENT_QUERY_BAD : RegFld := ⟨PAGE_EVENT, 4, 1⟩
def PAGE_EVENT_QUERY_HOLE : RegFld := ⟨PAGE_EVENT, 5, 1⟩
def PAGE_EVENT_APPEND_LOST : RegFld := ⟨PAGE_EVENT, 6, 1⟩
def PAGE_EVENT_POISON : RegFld := ⟨PAGE_EVENT, 7, 1⟩
def PAGE_EVENT_LOW_NEAR : RegFld := ⟨PAGE_EVENT, 8, 1⟩
def PAGE_EVENT_RESHARD_DONE : RegFld := ⟨PAGE_EVENT, 9, 1⟩
def PAGE_EVENT_RESHARD_HOLE : RegFld := ⟨PAGE_EVENT, 10, 1⟩
def PAGE_EVENT_EN : Nat := 0xff180000008
def PAGE_EVENT_EN_LOAD_DONE : RegFld := ⟨PAGE_EVENT_EN, 0, 1⟩
def PAGE_EVENT_EN_CAPACITY : RegFld := ⟨PAGE_EVENT_EN, 1, 1⟩
def PAGE_EVENT_EN_SLOW : RegFld := ⟨PAGE_EVENT_EN, 2, 1⟩
def PAGE_EVENT_EN_TRUNC : RegFld := ⟨PAGE_EVENT_EN, 3, 1⟩
def PAGE_EVENT_EN_QUERY_BAD : RegFld := ⟨PAGE_EVENT_EN, 4, 1⟩
def PAGE_EVENT_EN_QUERY_HOLE : RegFld := ⟨PAGE_EVENT_EN, 5, 1⟩
def PAGE_EVENT_EN_APPEND_LOST : RegFld := ⟨PAGE_EVENT_EN, 6, 1⟩
def PAGE_EVENT_EN_POISON : RegFld := ⟨PAGE_EVENT_EN, 7, 1⟩
def PAGE_EVENT_EN_LOW_NEAR : RegFld := ⟨PAGE_EVENT_EN, 8, 1⟩
def PAGE_EVENT_EN_RESHARD_DONE : RegFld := ⟨PAGE_EVENT_EN, 9, 1⟩
def PAGE_EVENT_EN_RESHARD_HOLE : RegFld := ⟨PAGE_EVENT_EN, 10, 1⟩
def PAGE_STEPS : Nat := 0xff180000010
def PAGE_STEPS_VAL : RegFld := ⟨PAGE_STEPS, 0, 64⟩
def PAGE_TRUNC_COUNT : Nat := 0xff180000018
def PAGE_TRUNC_COUNT_VAL : RegFld := ⟨PAGE_TRUNC_COUNT, 0, 64⟩
def PAGE_BAD_RECORD : Nat := 0xff180000020
def PAGE_BAD_RECORD_VAL : RegFld := ⟨PAGE_BAD_RECORD, 0, 64⟩
def PAGE_QUERY_BAD : Nat := 0xff180000028
def PAGE_QUERY_BAD_VAL : RegFld := ⟨PAGE_QUERY_BAD, 0, 64⟩
def PAGE_QUERY_HOLE : Nat := 0xff180000030
def PAGE_QUERY_HOLE_VAL : RegFld := ⟨PAGE_QUERY_HOLE, 0, 64⟩
def PAGE_APPEND_LOST : Nat := 0xff180000038
def PAGE_APPEND_LOST_VAL : RegFld := ⟨PAGE_APPEND_LOST, 0, 64⟩
def PAGE_PROMOTED : Nat := 0xff180000040
def PAGE_PROMOTED_VAL : RegFld := ⟨PAGE_PROMOTED, 0, 64⟩
def PAGE_DEMOTED : Nat := 0xff180000048
def PAGE_DEMOTED_VAL : RegFld := ⟨PAGE_DEMOTED, 0, 64⟩
def PAGE_POISON : Nat := 0xff180000050
def PAGE_POISON_VAL : RegFld := ⟨PAGE_POISON, 0, 64⟩
def PAGE_AGE_CFG : Nat := 0xff180000058
def PAGE_AGE_CFG_AGE_PICKS : RegFld := ⟨PAGE_AGE_CFG, 0, 16⟩
def PAGE_AGE_CFG_PROMOTE_HEAT : RegFld := ⟨PAGE_AGE_CFG, 16, 8⟩
def PAGE_AGE_CFG_LOW_PCT : RegFld := ⟨PAGE_AGE_CFG, 24, 7⟩
def PAGE_AGE_CFG_ENABLE : RegFld := ⟨PAGE_AGE_CFG, 31, 1⟩
def PAGE_MODEL (i : Nat) : Nat := 0xff180000100 + i * 0x8
def PAGE_MODEL_STATE (i : Nat) : RegFld := ⟨(PAGE_MODEL i), 0, 3⟩
def PAGE_MODEL_LAST_RESULT (i : Nat) : RegFld := ⟨(PAGE_MODEL i), 8, 8⟩
def PAGE_MODEL_ASID (i : Nat) : RegFld := ⟨(PAGE_MODEL i), 16, 12⟩
def PAGE_MODEL_SEQ_OPEN (i : Nat) : RegFld := ⟨(PAGE_MODEL i), 32, 16⟩
def PAGE_MODEL_SLOW_LAYERS (i : Nat) : RegFld := ⟨(PAGE_MODEL i), 48, 16⟩
def PAGE_POOL_NEAR (i : Nat) : Nat := 0xff180000200 + i * 0x8
def PAGE_POOL_NEAR_FREE (i : Nat) : RegFld := ⟨(PAGE_POOL_NEAR i), 0, 32⟩
def PAGE_POOL_NEAR_TOTAL (i : Nat) : RegFld := ⟨(PAGE_POOL_NEAR i), 32, 32⟩
def PAGE_POOL_FAR (i : Nat) : Nat := 0xff180000300 + i * 0x8
def PAGE_POOL_FAR_FREE (i : Nat) : RegFld := ⟨(PAGE_POOL_FAR i), 0, 32⟩
def PAGE_POOL_FAR_TOTAL (i : Nat) : RegFld := ⟨(PAGE_POOL_FAR i), 32, 32⟩
def PAGE_RUN (i : Nat) : Nat := 0xff180000400 + i * 0x8
def PAGE_RUN_STREAMING (i : Nat) : RegFld := ⟨(PAGE_RUN i), 0, 1⟩
def PAGE_RUN_RESHARDING (i : Nat) : RegFld := ⟨(PAGE_RUN i), 1, 1⟩
def PAGE_RUN_STREAM_PENDING (i : Nat) : RegFld := ⟨(PAGE_RUN i), 2, 1⟩
def PAGE_RUN_RESHARD_LEFT (i : Nat) : RegFld := ⟨(PAGE_RUN i), 16, 32⟩
def QP_EVENT : Nat := 0xff1c0000000
def QP_EVENT_QP_ERROR : RegFld := ⟨QP_EVENT, 0, 1⟩
def QP_EVENT_RETRY_EXCEEDED : RegFld := ⟨QP_EVENT, 1, 1⟩
def QP_EVENT_ACCESS_NAK_RX : RegFld := ⟨QP_EVENT, 2, 1⟩
def QP_EVENT_ACCESS_NAK_TX : RegFld := ⟨QP_EVENT, 3, 1⟩
def QP_EVENT_TENANT_DROP : RegFld := ⟨QP_EVENT, 4, 1⟩
def QP_EVENT_REVOKE_DONE : RegFld := ⟨QP_EVENT, 5, 1⟩
def QP_EVENT_INDEX_RETIRED : RegFld := ⟨QP_EVENT, 6, 1⟩
def QP_EVENT_DRAINED : RegFld := ⟨QP_EVENT, 7, 1⟩
def QP_EVENT_FAULT_WAIT : RegFld := ⟨QP_EVENT, 8, 1⟩
def QP_EVENT_EN : Nat := 0xff1c0000008
def QP_EVENT_EN_QP_ERROR : RegFld := ⟨QP_EVENT_EN, 0, 1⟩
def QP_EVENT_EN_RETRY_EXCEEDED : RegFld := ⟨QP_EVENT_EN, 1, 1⟩
def QP_EVENT_EN_ACCESS_NAK_RX : RegFld := ⟨QP_EVENT_EN, 2, 1⟩
def QP_EVENT_EN_ACCESS_NAK_TX : RegFld := ⟨QP_EVENT_EN, 3, 1⟩
def QP_EVENT_EN_TENANT_DROP : RegFld := ⟨QP_EVENT_EN, 4, 1⟩
def QP_EVENT_EN_REVOKE_DONE : RegFld := ⟨QP_EVENT_EN, 5, 1⟩
def QP_EVENT_EN_INDEX_RETIRED : RegFld := ⟨QP_EVENT_EN, 6, 1⟩
def QP_EVENT_EN_DRAINED : RegFld := ⟨QP_EVENT_EN, 7, 1⟩
def QP_EVENT_EN_FAULT_WAIT : RegFld := ⟨QP_EVENT_EN, 8, 1⟩
def QP_TX_PKTS : Nat := 0xff1c0000010
def QP_TX_PKTS_VAL : RegFld := ⟨QP_TX_PKTS, 0, 64⟩
def QP_RX_PKTS : Nat := 0xff1c0000018
def QP_RX_PKTS_VAL : RegFld := ⟨QP_RX_PKTS, 0, 64⟩
def QP_RETRANS : Nat := 0xff1c0000020
def QP_RETRANS_VAL : RegFld := ⟨QP_RETRANS, 0, 64⟩
def QP_TIMEOUTS : Nat := 0xff1c0000028
def QP_TIMEOUTS_VAL : RegFld := ⟨QP_TIMEOUTS, 0, 64⟩
def QP_DUP_RX : Nat := 0xff1c0000030
def QP_DUP_RX_VAL : RegFld := ⟨QP_DUP_RX, 0, 64⟩
def QP_RX_BAD : Nat := 0xff1c0000038
def QP_RX_BAD_VAL : RegFld := ⟨QP_RX_BAD, 0, 64⟩
def QP_TENANT_DROP : Nat := 0xff1c0000040
def QP_TENANT_DROP_VAL : RegFld := ⟨QP_TENANT_DROP, 0, 64⟩
def QP_ACCESS_NAK : Nat := 0xff1c0000048
def QP_ACCESS_NAK_VAL : RegFld := ⟨QP_ACCESS_NAK, 0, 64⟩
def QP_FAULT_WAIT : Nat := 0xff1c0000050
def QP_FAULT_WAIT_VAL : RegFld := ⟨QP_FAULT_WAIT, 0, 64⟩
def QP_UDP_CFG : Nat := 0xff1c0000058
def QP_UDP_CFG_DST_PORT : RegFld := ⟨QP_UDP_CFG, 0, 16⟩
def QP_UDP_CFG_IPV4_EN : RegFld := ⟨QP_UDP_CFG, 16, 1⟩
def QP_UDP_CFG_IPV6_EN : RegFld := ⟨QP_UDP_CFG, 17, 1⟩
def QP_TIMER_CFG : Nat := 0xff1c0000060
def QP_TIMER_CFG_RTO_INIT : RegFld := ⟨QP_TIMER_CFG, 0, 16⟩
def QP_TIMER_CFG_RTO_MIN : RegFld := ⟨QP_TIMER_CFG, 16, 16⟩
def QP_TIMER_CFG_RTO_MAX : RegFld := ⟨QP_TIMER_CFG, 32, 16⟩
def QP_TIMER_CFG_RETRY_LIMIT : RegFld := ⟨QP_TIMER_CFG, 48, 3⟩
def QP_ACK_CFG : Nat := 0xff1c0000068
def QP_ACK_CFG_ACK_EVERY : RegFld := ⟨QP_ACK_CFG, 0, 8⟩
def QP_ACK_CFG_ACK_DELAY : RegFld := ⟨QP_ACK_CFG, 8, 16⟩
def QP_ACK_CFG_DUP_THRESH : RegFld := ⟨QP_ACK_CFG, 24, 8⟩
def QP_CTX_SEL : Nat := 0xff1c0000070
def QP_CTX_SEL_QPN : RegFld := ⟨QP_CTX_SEL, 0, 20⟩
def QP_CTX_STATE : Nat := 0xff1c0000078
def QP_CTX_STATE_STATE : RegFld := ⟨QP_CTX_STATE, 0, 3⟩
def QP_CTX_STATE_RETRY : RegFld := ⟨QP_CTX_STATE, 3, 3⟩
def QP_CTX_STATE_FAULT_WAIT : RegFld := ⟨QP_CTX_STATE, 6, 1⟩
def QP_CTX_STATE_REFUSED : RegFld := ⟨QP_CTX_STATE, 7, 1⟩
def QP_CTX_STATE_LAST_STATUS : RegFld := ⟨QP_CTX_STATE, 8, 8⟩
def QP_CTX_STATE_TENANT : RegFld := ⟨QP_CTX_STATE, 16, 20⟩
def QP_CTX_TX : Nat := 0xff1c0000080
def QP_CTX_TX_SND_NXT : RegFld := ⟨QP_CTX_TX, 0, 24⟩
def QP_CTX_TX_SND_UNA : RegFld := ⟨QP_CTX_TX, 32, 24⟩
def QP_CTX_RX : Nat := 0xff1c0000088
def QP_CTX_RX_CUM : RegFld := ⟨QP_CTX_RX, 0, 24⟩
def QP_CTX_RX_REFUSED_PSN : RegFld := ⟨QP_CTX_RX, 32, 24⟩
def QP_CTX_RTT : Nat := 0xff1c0000090
def QP_CTX_RTT_SRTT_NS : RegFld := ⟨QP_CTX_RTT, 0, 32⟩
def QP_CTX_RTT_RTO_NS : RegFld := ⟨QP_CTX_RTT, 32, 32⟩
def QP_RGN_SEL : Nat := 0xff1c0000098
def QP_RGN_SEL_INDEX : RegFld := ⟨QP_RGN_SEL, 0, 24⟩
def QP_RGN_SEL_INSTANCE : RegFld := ⟨QP_RGN_SEL, 24, 4⟩
def QP_RGN_DATA : Nat := 0xff1c00000a0
def QP_RGN_DATA_STATE : RegFld := ⟨QP_RGN_DATA, 0, 2⟩
def QP_RGN_DATA_EPOCH : RegFld := ⟨QP_RGN_DATA, 2, 8⟩
def QP_RGN_DATA_INFLIGHT : RegFld := ⟨QP_RGN_DATA, 10, 16⟩
def QP_RGN_DATA_REMOTE_READ : RegFld := ⟨QP_RGN_DATA, 26, 1⟩
def QP_RGN_DATA_REMOTE_WRITE : RegFld := ⟨QP_RGN_DATA, 27, 1⟩
def QP_RGN_DATA_TENANT : RegFld := ⟨QP_RGN_DATA, 28, 20⟩
def CC_EVENT : Nat := 0xff200000000
def CC_EVENT_SRB_DROP : RegFld := ⟨CC_EVENT, 0, 1⟩
def CC_EVENT_POLICE_DROP : RegFld := ⟨CC_EVENT, 1, 1⟩
def CC_EVENT_PATH_QUARANTINE : RegFld := ⟨CC_EVENT, 2, 1⟩
def CC_EVENT_RATE_FLOOR : RegFld := ⟨CC_EVENT, 3, 1⟩
def CC_EVENT_NO_FIT : RegFld := ⟨CC_EVENT, 4, 1⟩
def CC_EVENT_THROTTLE : RegFld := ⟨CC_EVENT, 5, 1⟩
def CC_EVENT_EN : Nat := 0xff200000008
def CC_EVENT_EN_SRB_DROP : RegFld := ⟨CC_EVENT_EN, 0, 1⟩
def CC_EVENT_EN_POLICE_DROP : RegFld := ⟨CC_EVENT_EN, 1, 1⟩
def CC_EVENT_EN_PATH_QUARANTINE : RegFld := ⟨CC_EVENT_EN, 2, 1⟩
def CC_EVENT_EN_RATE_FLOOR : RegFld := ⟨CC_EVENT_EN, 3, 1⟩
def CC_EVENT_EN_NO_FIT : RegFld := ⟨CC_EVENT_EN, 4, 1⟩
def CC_EVENT_EN_THROTTLE : RegFld := ⟨CC_EVENT_EN, 5, 1⟩
def CC_VC_WEIGHT : Nat := 0xff200000010
def CC_VC_WEIGHT_VC1 : RegFld := ⟨CC_VC_WEIGHT, 0, 8⟩
def CC_VC_WEIGHT_VC2 : RegFld := ⟨CC_VC_WEIGHT, 8, 8⟩
def CC_VC_WEIGHT_VC4 : RegFld := ⟨CC_VC_WEIGHT, 16, 8⟩
def CC_ALGO_CFG : Nat := 0xff200000018
def CC_ALGO_CFG_DELAY_TARGET_NS : RegFld := ⟨CC_ALGO_CFG, 0, 16⟩
def CC_ALGO_CFG_ECN_MD : RegFld := ⟨CC_ALGO_CFG, 16, 8⟩
def CC_ALGO_CFG_DELAY_MD : RegFld := ⟨CC_ALGO_CFG, 24, 8⟩
def CC_ALGO_CFG_UPDATE_MIN_NS : RegFld := ⟨CC_ALGO_CFG, 32, 16⟩
def CC_ALGO_CFG_BASE_WINDOW_MS : RegFld := ⟨CC_ALGO_CFG, 48, 8⟩
def CC_RATE_CFG : Nat := 0xff200000020
def CC_RATE_CFG_RATE_MIN : RegFld := ⟨CC_RATE_CFG, 0, 16⟩
def CC_RATE_CFG_AI : RegFld := ⟨CC_RATE_CFG, 16, 16⟩
def CC_RATE_CFG_HAI_AFTER : RegFld := ⟨CC_RATE_CFG, 32, 4⟩
def CC_RATE_CFG_HAI_MULT : RegFld := ⟨CC_RATE_CFG, 36, 4⟩
def CC_RATE_CFG_INIT_PCT : RegFld := ⟨CC_RATE_CFG, 40, 7⟩
def CC_ECN_CFG : Nat := 0xff200000028
def CC_ECN_CFG_ECN_MIN_KB : RegFld := ⟨CC_ECN_CFG, 0, 16⟩
def CC_ECN_CFG_ECN_MAX_KB : RegFld := ⟨CC_ECN_CFG, 16, 16⟩
def CC_ECN_CFG_ECHO_NS : RegFld := ⟨CC_ECN_CFG, 32, 16⟩
def CC_ECN_CFG_MARK_EN : RegFld := ⟨CC_ECN_CFG, 48, 1⟩
def CC_SPRAY_CFG : Nat := 0xff200000030
def CC_SPRAY_CFG_PATHS : RegFld := ⟨CC_SPRAY_CFG, 0, 5⟩
def CC_SPRAY_CFG_QUARANTINE_US : RegFld := ⟨CC_SPRAY_CFG, 8, 16⟩
def CC_SRB_CFG : Nat := 0xff200000038
def CC_SRB_CFG_DT_ALPHA : RegFld := ⟨CC_SRB_CFG, 0, 3⟩
def CC_SRB_CFG_PORT_MIN_KB : RegFld := ⟨CC_SRB_CFG, 8, 16⟩
def CC_SRB_STATUS : Nat := 0xff200000040
def CC_SRB_STATUS_OCC_KB : RegFld := ⟨CC_SRB_STATUS, 0, 32⟩
def CC_SRB_PEAK : Nat := 0xff200000048
def CC_SRB_PEAK_VAL : RegFld := ⟨CC_SRB_PEAK, 0, 64⟩
def CC_SRB_DROPS : Nat := 0xff200000050
def CC_SRB_DROPS_VAL : RegFld := ⟨CC_SRB_DROPS, 0, 64⟩
def CC_POLICE_DROPS : Nat := 0xff200000058
def CC_POLICE_DROPS_VAL : RegFld := ⟨CC_POLICE_DROPS, 0, 64⟩
def CC_CE_MARKED : Nat := 0xff200000060
def CC_CE_MARKED_VAL : RegFld := ⟨CC_CE_MARKED, 0, 64⟩
def CC_CE_ECHO_RX : Nat := 0xff200000068
def CC_CE_ECHO_RX_VAL : RegFld := ⟨CC_CE_ECHO_RX, 0, 64⟩
def CC_RATE_CUTS : Nat := 0xff200000070
def CC_RATE_CUTS_VAL : RegFld := ⟨CC_RATE_CUTS, 0, 64⟩
def CC_QUARANTINES : Nat := 0xff200000078
def CC_QUARANTINES_VAL : RegFld := ⟨CC_QUARANTINES, 0, 64⟩
def CC_THROTTLE : Nat := 0xff200000080
def CC_THROTTLE_WEFT_PCT : RegFld := ⟨CC_THROTTLE, 0, 7⟩
def CC_QP_SEL : Nat := 0xff200000088
def CC_QP_SEL_QPN : RegFld := ⟨CC_QP_SEL, 0, 20⟩
def CC_QP_RATE : Nat := 0xff200000090
def CC_QP_RATE_RATE : RegFld := ⟨CC_QP_RATE, 0, 16⟩
def CC_QP_RATE_QUARANTINED : RegFld := ⟨CC_QP_RATE, 16, 16⟩
def CC_QP_RATE_BASE_RTT_NS : RegFld := ⟨CC_QP_RATE, 32, 32⟩
def CC_QP_PATHS : Nat := 0xff200000098
def CC_QP_PATHS_SCORES : RegFld := ⟨CC_QP_PATHS, 0, 64⟩
def CC_SHAPER_CFG (c : Nat) (k : Nat) : Nat := 0xff200001000 + c * 0x40 + k * 0x10
def CC_SHAPER_CFG_RATE (c : Nat) (k : Nat) : RegFld := ⟨(CC_SHAPER_CFG c k), 0, 16⟩
def CC_SHAPER_CFG_DEPTH (c : Nat) (k : Nat) : RegFld := ⟨(CC_SHAPER_CFG c k), 16, 16⟩
def CC_SHAPER_CFG_PERIOD_NS (c : Nat) (k : Nat) : RegFld := ⟨(CC_SHAPER_CFG c k), 32, 16⟩
def CC_SHAPER_CFG_ENABLE (c : Nat) (k : Nat) : RegFld := ⟨(CC_SHAPER_CFG c k), 48, 1⟩
def CC_SHAPER_TOKENS (c : Nat) (k : Nat) : Nat := 0xff200001008 + c * 0x40 + k * 0x10
def CC_SHAPER_TOKENS_TOKENS (c : Nat) (k : Nat) : RegFld := ⟨(CC_SHAPER_TOKENS c k), 0, 32⟩
def CC_POLICER_CFG (c : Nat) (k : Nat) : Nat := 0xff200002000 + c * 0x40 + k * 0x10
def CC_POLICER_CFG_RATE (c : Nat) (k : Nat) : RegFld := ⟨(CC_POLICER_CFG c k), 0, 16⟩
def CC_POLICER_CFG_DEPTH (c : Nat) (k : Nat) : RegFld := ⟨(CC_POLICER_CFG c k), 16, 16⟩
def CC_POLICER_CFG_PERIOD_NS (c : Nat) (k : Nat) : RegFld := ⟨(CC_POLICER_CFG c k), 32, 16⟩
def CC_POLICER_CFG_ENABLE (c : Nat) (k : Nat) : RegFld := ⟨(CC_POLICER_CFG c k), 48, 1⟩
def CC_POLICER_CFG_MODE (c : Nat) (k : Nat) : RegFld := ⟨(CC_POLICER_CFG c k), 49, 1⟩
def CC_POLICER_TOKENS (c : Nat) (k : Nat) : Nat := 0xff200002008 + c * 0x40 + k * 0x10
def CC_POLICER_TOKENS_TOKENS (c : Nat) (k : Nat) : RegFld := ⟨(CC_POLICER_TOKENS c k), 0, 32⟩
def COL_EVENT : Nat := 0xff240000000
def COL_EVENT_RUN_HOLE : RegFld := ⟨COL_EVENT, 0, 1⟩
def COL_EVENT_GROUP_ERROR : RegFld := ⟨COL_EVENT, 1, 1⟩
def COL_EVENT_PINCH_FAILED : RegFld := ⟨COL_EVENT, 2, 1⟩
def COL_EVENT_PINCH_TIMEOUT : RegFld := ⟨COL_EVENT, 3, 1⟩
def COL_EVENT_REPLAY_EXHAUSTED : RegFld := ⟨COL_EVENT, 4, 1⟩
def COL_EVENT_POST_REFUSED : RegFld := ⟨COL_EVENT, 5, 1⟩
def COL_EVENT_COUNT_MISMATCH : RegFld := ⟨COL_EVENT, 6, 1⟩
def COL_EVENT_EN : Nat := 0xff240000008
def COL_EVENT_EN_RUN_HOLE : RegFld := ⟨COL_EVENT_EN, 0, 1⟩
def COL_EVENT_EN_GROUP_ERROR : RegFld := ⟨COL_EVENT_EN, 1, 1⟩
def COL_EVENT_EN_PINCH_FAILED : RegFld := ⟨COL_EVENT_EN, 2, 1⟩
def COL_EVENT_EN_PINCH_TIMEOUT : RegFld := ⟨COL_EVENT_EN, 3, 1⟩
def COL_EVENT_EN_REPLAY_EXHAUSTED : RegFld := ⟨COL_EVENT_EN, 4, 1⟩
def COL_EVENT_EN_POST_REFUSED : RegFld := ⟨COL_EVENT_EN, 5, 1⟩
def COL_EVENT_EN_COUNT_MISMATCH : RegFld := ⟨COL_EVENT_EN, 6, 1⟩
def COL_RUNS : Nat := 0xff240000010
def COL_RUNS_VAL : RegFld := ⟨COL_RUNS, 0, 64⟩
def COL_RUN_HOLE : Nat := 0xff240000018
def COL_RUN_HOLE_VAL : RegFld := ⟨COL_RUN_HOLE, 0, 64⟩
def COL_PINCH_OPS : Nat := 0xff240000020
def COL_PINCH_OPS_VAL : RegFld := ⟨COL_PINCH_OPS, 0, 64⟩
def COL_PINCH_FAILED : Nat := 0xff240000028
def COL_PINCH_FAILED_VAL : RegFld := ⟨COL_PINCH_FAILED, 0, 64⟩
def COL_PINCH_REPLAYS : Nat := 0xff240000030
def COL_PINCH_REPLAYS_VAL : RegFld := ⟨COL_PINCH_REPLAYS, 0, 64⟩
def COL_PINCH_DISCARDS : Nat := 0xff240000038
def COL_PINCH_DISCARDS_VAL : RegFld := ⟨COL_PINCH_DISCARDS, 0, 64⟩
def COL_POST_REFUSED : Nat := 0xff240000040
def COL_POST_REFUSED_VAL : RegFld := ⟨COL_POST_REFUSED, 0, 64⟩
def COL_PINCH_CFG : Nat := 0xff240000048
def COL_PINCH_CFG_ETHERTYPE : RegFld := ⟨COL_PINCH_CFG, 0, 16⟩
def COL_PINCH_CFG_TIMEOUT_US : RegFld := ⟨COL_PINCH_CFG, 16, 16⟩
def COL_PINCH_CFG_REPLAY_NS : RegFld := ⟨COL_PINCH_CFG, 32, 16⟩
def COL_PINCH_CFG_REPLAYS : RegFld := ⟨COL_PINCH_CFG, 48, 2⟩
def COL_PINCH_CAP : Nat := 0xff240000050
def COL_PINCH_CAP_RATE : RegFld := ⟨COL_PINCH_CAP, 0, 8⟩
def COL_PINCH_CAP_BURST : RegFld := ⟨COL_PINCH_CAP, 8, 8⟩
def COL_PINCH_LAT_MAX : Nat := 0xff240000058
def COL_PINCH_LAT_MAX_VAL : RegFld := ⟨COL_PINCH_LAT_MAX, 0, 64⟩
def COL_GRP_SEL : Nat := 0xff240000060
def COL_GRP_SEL_GROUP : RegFld := ⟨COL_GRP_SEL, 0, 10⟩
def COL_GRP_STATE : Nat := 0xff240000068
def COL_GRP_STATE_STATE : RegFld := ⟨COL_GRP_STATE, 0, 2⟩
def COL_GRP_STATE_GEN : RegFld := ⟨COL_GRP_STATE, 8, 8⟩
def COL_GRP_STATE_GROUP_TAG : RegFld := ⟨COL_GRP_STATE, 16, 16⟩
def COL_GRP_STATE_SEQ : RegFld := ⟨COL_GRP_STATE, 32, 32⟩
def COL_GRP_TREE : Nat := 0xff240000070
def COL_GRP_TREE_PARENT_PORT : RegFld := ⟨COL_GRP_TREE, 0, 5⟩
def COL_GRP_TREE_CHILD_MCAST : RegFld := ⟨COL_GRP_TREE, 8, 12⟩
def COL_GRP_TREE_LOCAL_POSTS : RegFld := ⟨COL_GRP_TREE, 20, 7⟩
def COL_GRP_TREE_CHILDREN : RegFld := ⟨COL_GRP_TREE, 27, 5⟩
def COL_GRP_TREE_RANK : RegFld := ⟨COL_GRP_TREE, 32, 10⟩
def COL_GRP_TREE_SIZE_M1 : RegFld := ⟨COL_GRP_TREE, 42, 10⟩
def COL_POST_VAL_LO (i : Nat) : Nat := 0xff240010000 + i * 0x100
def COL_POST_VAL_LO_VALUE_LO (i : Nat) : RegFld := ⟨(COL_POST_VAL_LO i), 0, 64⟩
def COL_POST_VAL_HI (i : Nat) : Nat := 0xff240010008 + i * 0x100
def COL_POST_VAL_HI_VALUE_HI (i : Nat) : RegFld := ⟨(COL_POST_VAL_HI i), 0, 64⟩
def COL_POST_CMD (i : Nat) : Nat := 0xff240010010 + i * 0x100
def COL_POST_CMD_GROUP (i : Nat) : RegFld := ⟨(COL_POST_CMD i), 0, 10⟩
def COL_POST_CMD_OP (i : Nat) : RegFld := ⟨(COL_POST_CMD i), 12, 4⟩
def COL_POST_CMD_TYPE (i : Nat) : RegFld := ⟨(COL_POST_CMD i), 16, 4⟩
def COL_POST_CMD_GO (i : Nat) : RegFld := ⟨(COL_POST_CMD i), 31, 1⟩
def COL_POST_STATUS (i : Nat) : Nat := 0xff240010018 + i * 0x100
def COL_POST_STATUS_RESULT (i : Nat) : RegFld := ⟨(COL_POST_STATUS i), 8, 8⟩
def COL_POST_STATUS_ACCEPTED (i : Nat) : RegFld := ⟨(COL_POST_STATUS i), 16, 16⟩
def LNK_EVENT : Nat := 0xff280000000
def LNK_EVENT_LANE_DOWN : RegFld := ⟨LNK_EVENT, 0, 1⟩
def LNK_EVENT_LANE_UP : RegFld := ⟨LNK_EVENT, 1, 1⟩
def LNK_EVENT_PORT_DOWN : RegFld := ⟨LNK_EVENT, 2, 1⟩
def LNK_EVENT_PORT_UP : RegFld := ⟨LNK_EVENT, 3, 1⟩
def LNK_EVENT_SHIFT_DONE : RegFld := ⟨LNK_EVENT, 4, 1⟩
def LNK_EVENT_SPARE_EXHAUSTED : RegFld := ⟨LNK_EVENT, 5, 1⟩
def LNK_EVENT_CFG_REFUSED : RegFld := ⟨LNK_EVENT, 6, 1⟩
def LNK_EVENT_NOROUTE : RegFld := ⟨LNK_EVENT, 7, 1⟩
def LNK_EVENT_TTL_DROP : RegFld := ⟨LNK_EVENT, 8, 1⟩
def LNK_EVENT_PKEY_DROP : RegFld := ⟨LNK_EVENT, 9, 1⟩
def LNK_EVENT_EN : Nat := 0xff280000008
def LNK_EVENT_EN_LANE_DOWN : RegFld := ⟨LNK_EVENT_EN, 0, 1⟩
def LNK_EVENT_EN_LANE_UP : RegFld := ⟨LNK_EVENT_EN, 1, 1⟩
def LNK_EVENT_EN_PORT_DOWN : RegFld := ⟨LNK_EVENT_EN, 2, 1⟩
def LNK_EVENT_EN_PORT_UP : RegFld := ⟨LNK_EVENT_EN, 3, 1⟩
def LNK_EVENT_EN_SHIFT_DONE : RegFld := ⟨LNK_EVENT_EN, 4, 1⟩
def LNK_EVENT_EN_SPARE_EXHAUSTED : RegFld := ⟨LNK_EVENT_EN, 5, 1⟩
def LNK_EVENT_EN_CFG_REFUSED : RegFld := ⟨LNK_EVENT_EN, 6, 1⟩
def LNK_EVENT_EN_NOROUTE : RegFld := ⟨LNK_EVENT_EN, 7, 1⟩
def LNK_EVENT_EN_TTL_DROP : RegFld := ⟨LNK_EVENT_EN, 8, 1⟩
def LNK_EVENT_EN_PKEY_DROP : RegFld := ⟨LNK_EVENT_EN, 9, 1⟩
def LNK_SELF : Nat := 0xff280000010
def LNK_SELF_ID : RegFld := ⟨LNK_SELF, 0, 16⟩
def LNK_DOWN_CFG : Nat := 0xff280000018
def LNK_DOWN_CFG_UNCORR_MAX : RegFld := ⟨LNK_DOWN_CFG, 0, 4⟩
def LNK_DOWN_CFG_AUTO_RETRAIN : RegFld := ⟨LNK_DOWN_CFG, 8, 1⟩
def LNK_DOWN_CFG_HOP_LIMIT : RegFld := ⟨LNK_DOWN_CFG, 16, 8⟩
def LNK_SHIFT_CMD : Nat := 0xff280000020
def LNK_SHIFT_CMD_LANE : RegFld := ⟨LNK_SHIFT_CMD, 0, 7⟩
def LNK_SHIFT_CMD_GO : RegFld := ⟨LNK_SHIFT_CMD, 31, 1⟩
def LNK_SHIFT_STATUS : Nat := 0xff280000028
def LNK_SHIFT_STATUS_PENDING : RegFld := ⟨LNK_SHIFT_STATUS, 0, 1⟩
def LNK_SHIFT_STATUS_RESULT : RegFld := ⟨LNK_SHIFT_STATUS, 8, 8⟩
def LNK_NOROUTE : Nat := 0xff280000030
def LNK_NOROUTE_VAL : RegFld := ⟨LNK_NOROUTE, 0, 64⟩
def LNK_TTL_DROP : Nat := 0xff280000038
def LNK_TTL_DROP_VAL : RegFld := ⟨LNK_TTL_DROP, 0, 64⟩
def LNK_CAGE_CFG (c : Nat) : Nat := 0xff280000100 + c * 0x8
def LNK_CAGE_CFG_ENABLE (c : Nat) : RegFld := ⟨(LNK_CAGE_CFG c), 0, 1⟩
def LNK_CAGE_CFG_ROLE (c : Nat) : RegFld := ⟨(LNK_CAGE_CFG c), 1, 1⟩
def LNK_CAGE_CFG_SPLIT (c : Nat) : RegFld := ⟨(LNK_CAGE_CFG c), 2, 3⟩
def LNK_CAGE_STATUS (c : Nat) : Nat := 0xff280000180 + c * 0x8
def LNK_CAGE_STATUS_PORT0_UP (c : Nat) : RegFld := ⟨(LNK_CAGE_STATUS c), 0, 1⟩
def LNK_CAGE_STATUS_PORT1_UP (c : Nat) : RegFld := ⟨(LNK_CAGE_STATUS c), 1, 1⟩
def LNK_CAGE_STATUS_MODULE (c : Nat) : RegFld := ⟨(LNK_CAGE_STATUS c), 2, 1⟩
def LNK_CAGE_STATUS_LANES_UP (c : Nat) : RegFld := ⟨(LNK_CAGE_STATUS c), 8, 8⟩
def LNK_SHIFT_MAP (d : Nat) : Nat := 0xff280000200 + d * 0x8
def LNK_SHIFT_MAP_SPARE0_POS (d : Nat) : RegFld := ⟨(LNK_SHIFT_MAP d), 0, 5⟩
def LNK_SHIFT_MAP_SPARE1_POS (d : Nat) : RegFld := ⟨(LNK_SHIFT_MAP d), 8, 5⟩
def LNK_SHIFT_MAP_SPARE0_BAD (d : Nat) : RegFld := ⟨(LNK_SHIFT_MAP d), 5, 1⟩
def LNK_SHIFT_MAP_SPARE1_BAD (d : Nat) : RegFld := ⟨(LNK_SHIFT_MAP d), 13, 1⟩
def LNK_CREDIT_CFG (c : Nat) : Nat := 0xff280000300 + c * 0x8
def LNK_CREDIT_CFG_VC1 (c : Nat) : RegFld := ⟨(LNK_CREDIT_CFG c), 0, 16⟩
def LNK_CREDIT_CFG_VC2 (c : Nat) : RegFld := ⟨(LNK_CREDIT_CFG c), 16, 16⟩
def LNK_CREDIT_CFG_VC4 (c : Nat) : RegFld := ⟨(LNK_CREDIT_CFG c), 32, 16⟩
def LNK_LANE (l : Nat) : Nat := 0xff280000400 + l * 0x8
def LNK_LANE_STATE (l : Nat) : RegFld := ⟨(LNK_LANE l), 0, 3⟩
def LNK_LANE_CAUSE (l : Nat) : RegFld := ⟨(LNK_LANE l), 4, 3⟩
def LNK_LANE_SPARED (l : Nat) : RegFld := ⟨(LNK_LANE l), 7, 1⟩
def LNK_LANE_MACRO (l : Nat) : RegFld := ⟨(LNK_LANE l), 8, 5⟩
def LNK_FEC_CORR (l : Nat) : Nat := 0xff280000800 + l * 0x8
def LNK_FEC_CORR_VAL (l : Nat) : RegFld := ⟨(LNK_FEC_CORR l), 0, 64⟩
def LNK_FEC_UNCORR (l : Nat) : Nat := 0xff280000c00 + l * 0x8
def LNK_FEC_UNCORR_VAL (l : Nat) : RegFld := ⟨(LNK_FEC_UNCORR l), 0, 64⟩
def LNK_FEC_SYMERR (l : Nat) : Nat := 0xff280001000 + l * 0x8
def LNK_FEC_SYMERR_VAL (l : Nat) : RegFld := ⟨(LNK_FEC_SYMERR l), 0, 64⟩
def LNK_PKEY_DROP (p : Nat) : Nat := 0xff280001400 + p * 0x8
def LNK_PKEY_DROP_VAL (p : Nat) : RegFld := ⟨(LNK_PKEY_DROP p), 0, 64⟩
def LNK_PKEY_PORT (p : Nat) (n : Nat) : Nat := 0xff280100000 + p * 0x2000 + n * 0x8
def LNK_PKEY_PORT_VAL (p : Nat) (n : Nat) : RegFld := ⟨(LNK_PKEY_PORT p n), 0, 64⟩
def LNK_PKEY_INST (i : Nat) (k : Nat) : Nat := 0xff280140000 + i * 0x200 + k * 0x8
def LNK_PKEY_INST_KEY (i : Nat) (k : Nat) : RegFld := ⟨(LNK_PKEY_INST i k), 0, 16⟩
def LNK_PKEY_INST_VALID (i : Nat) (k : Nat) : RegFld := ⟨(LNK_PKEY_INST i k), 16, 1⟩
def LNK_ROUTE (e : Nat) : Nat := 0xff280200000 + e * 0x8
def LNK_ROUTE_P0 (e : Nat) : RegFld := ⟨(LNK_ROUTE e), 0, 5⟩
def LNK_ROUTE_P1 (e : Nat) : RegFld := ⟨(LNK_ROUTE e), 5, 5⟩
def LNK_ROUTE_P2 (e : Nat) : RegFld := ⟨(LNK_ROUTE e), 10, 5⟩
def LNK_ROUTE_P3 (e : Nat) : RegFld := ⟨(LNK_ROUTE e), 15, 5⟩
def LNK_ROUTE_P4 (e : Nat) : RegFld := ⟨(LNK_ROUTE e), 20, 5⟩
def LNK_ROUTE_P5 (e : Nat) : RegFld := ⟨(LNK_ROUTE e), 25, 5⟩
def LNK_ROUTE_P6 (e : Nat) : RegFld := ⟨(LNK_ROUTE e), 30, 5⟩
def LNK_ROUTE_P7 (e : Nat) : RegFld := ⟨(LNK_ROUTE e), 35, 5⟩
def LNK_ROUTE_COUNT (e : Nat) : RegFld := ⟨(LNK_ROUTE e), 40, 4⟩
def LNK_MCAST (g : Nat) : Nat := 0xff280280000 + g * 0x8
def LNK_MCAST_MASK (g : Nat) : RegFld := ⟨(LNK_MCAST g), 0, 32⟩
def LNK_MCAST_VALID (g : Nat) : RegFld := ⟨(LNK_MCAST g), 32, 1⟩
def MAC_EVENT : Nat := 0xff2c0000000
def MAC_EVENT_LINK_CHANGE : RegFld := ⟨MAC_EVENT, 0, 1⟩
def MAC_EVENT_XOFF_TX : RegFld := ⟨MAC_EVENT, 1, 1⟩
def MAC_EVENT_PAUSED_RX : RegFld := ⟨MAC_EVENT, 2, 1⟩
def MAC_EVENT_LLDP_CHANGE : RegFld := ⟨MAC_EVENT, 3, 1⟩
def MAC_EVENT_EN : Nat := 0xff2c0000008
def MAC_EVENT_EN_LINK_CHANGE : RegFld := ⟨MAC_EVENT_EN, 0, 1⟩
def MAC_EVENT_EN_XOFF_TX : RegFld := ⟨MAC_EVENT_EN, 1, 1⟩
def MAC_EVENT_EN_PAUSED_RX : RegFld := ⟨MAC_EVENT_EN, 2, 1⟩
def MAC_EVENT_EN_LLDP_CHANGE : RegFld := ⟨MAC_EVENT_EN, 3, 1⟩
def MAC_VC_PCP : Nat := 0xff2c0000010
def MAC_VC_PCP_VC1 : RegFld := ⟨MAC_VC_PCP, 0, 3⟩
def MAC_VC_PCP_VC2 : RegFld := ⟨MAC_VC_PCP, 4, 3⟩
def MAC_VC_PCP_VC3 : RegFld := ⟨MAC_VC_PCP, 8, 3⟩
def MAC_VC_PCP_VC4 : RegFld := ⟨MAC_VC_PCP, 12, 3⟩
def MAC_ETYPE : Nat := 0xff2c0000018
def MAC_ETYPE_ETYPE : RegFld := ⟨MAC_ETYPE, 0, 16⟩
def MAC_ADDR (p : Nat) : Nat := 0xff2c0000100 + p * 0x8
def MAC_ADDR_VAL (p : Nat) : RegFld := ⟨(MAC_ADDR p), 0, 48⟩
def MAC_PEER_ADDR (p : Nat) : Nat := 0xff2c0000200 + p * 0x8
def MAC_PEER_ADDR_VAL (p : Nat) : RegFld := ⟨(MAC_PEER_ADDR p), 0, 48⟩
def MAC_PORT_CFG (p : Nat) : Nat := 0xff2c0000300 + p * 0x8
def MAC_PORT_CFG_MAX_FRAME (p : Nat) : RegFld := ⟨(MAC_PORT_CFG p), 0, 14⟩
def MAC_PORT_CFG_FC_MODE (p : Nat) : RegFld := ⟨(MAC_PORT_CFG p), 14, 2⟩
def MAC_PORT_CFG_VID (p : Nat) : RegFld := ⟨(MAC_PORT_CFG p), 16, 12⟩
def MAC_PORT_CFG_VLAN_EN (p : Nat) : RegFld := ⟨(MAC_PORT_CFG p), 28, 1⟩
def MAC_PORT_CFG_LPI_EN (p : Nat) : RegFld := ⟨(MAC_PORT_CFG p), 29, 1⟩
def MAC_FC_CFG (p : Nat) : Nat := 0xff2c0000400 + p * 0x8
def MAC_FC_CFG_HIGH_KB (p : Nat) : RegFld := ⟨(MAC_FC_CFG p), 0, 16⟩
def MAC_FC_CFG_LOW_KB (p : Nat) : RegFld := ⟨(MAC_FC_CFG p), 16, 16⟩
def MAC_FC_CFG_QUANTA (p : Nat) : RegFld := ⟨(MAC_FC_CFG p), 32, 16⟩
def MAC_FC_CFG_PFC_MASK (p : Nat) : RegFld := ⟨(MAC_FC_CFG p), 48, 8⟩
def MAC_LPI_CFG (p : Nat) : Nat := 0xff2c0000500 + p * 0x8
def MAC_LPI_CFG_IDLE_NS (p : Nat) : RegFld := ⟨(MAC_LPI_CFG p), 0, 16⟩
def MAC_LPI_CFG_TW_REQ_US (p : Nat) : RegFld := ⟨(MAC_LPI_CFG p), 16, 16⟩
def MAC_LPI_CFG_TW_AGREED_US (p : Nat) : RegFld := ⟨(MAC_LPI_CFG p), 32, 16⟩
def MAC_STATUS (p : Nat) : Nat := 0xff2c0000600 + p * 0x8
def MAC_STATUS_LINK_UP (p : Nat) : RegFld := ⟨(MAC_STATUS p), 0, 1⟩
def MAC_STATUS_LPI_CAPABLE (p : Nat) : RegFld := ⟨(MAC_STATUS p), 1, 1⟩
def MAC_STATUS_LPI_TX (p : Nat) : RegFld := ⟨(MAC_STATUS p), 2, 1⟩
def MAC_STATUS_LPI_RX (p : Nat) : RegFld := ⟨(MAC_STATUS p), 3, 1⟩
def MAC_STATUS_XOFF_OUT (p : Nat) : RegFld := ⟨(MAC_STATUS p), 4, 1⟩
def MAC_STATUS_PAUSED (p : Nat) : RegFld := ⟨(MAC_STATUS p), 8, 8⟩
def MAC_STATUS_PHY_TYPE (p : Nat) : RegFld := ⟨(MAC_STATUS p), 16, 4⟩
def MAC_IP_EGRESS (i : Nat) : Nat := 0xff2c0000700 + i * 0x8
def MAC_IP_EGRESS_VAL (i : Nat) : RegFld := ⟨(MAC_IP_EGRESS i), 0, 24⟩
def MAC_IPADDR (k : Nat) (w : Nat) : Nat := 0xff2c0000800 + k * 0x10 + w * 0x8
def MAC_IPADDR_VAL (k : Nat) (w : Nat) : RegFld := ⟨(MAC_IPADDR k w), 0, 64⟩
def MAC_STATS (p : Nat) (k : Nat) : Nat := 0xff2c0010000 + p * 0x100 + k * 0x8
def MAC_STATS_VAL (p : Nat) (k : Nat) : RegFld := ⟨(MAC_STATS p k), 0, 64⟩
def RING_INST_ID (i : Nat) : Nat := 0x1000000000000 + i * 0x100000
def RING_INST_ID_INSTANCE (i : Nat) : RegFld := ⟨(RING_INST_ID i), 0, 4⟩
def RING_INST_ID_MODE (i : Nat) : RegFld := ⟨(RING_INST_ID i), 4, 2⟩
def RING_INST_ID_FUNCTION (i : Nat) : RegFld := ⟨(RING_INST_ID i), 8, 8⟩
def RING_ATTACH (i : Nat) : Nat := 0x1000000000008 + i * 0x100000
def RING_ATTACH_DETACHED (i : Nat) : RegFld := ⟨(RING_ATTACH i), 0, 1⟩
def RING_ATTACH_CAUSE (i : Nat) : RegFld := ⟨(RING_ATTACH i), 1, 3⟩
def RING_ATTACH_ATTACH_GEN (i : Nat) : RegFld := ⟨(RING_ATTACH i), 32, 32⟩
def RING_HEARTBEAT (i : Nat) : Nat := 0x1000000000010 + i * 0x100000
def RING_HEARTBEAT_VAL (i : Nat) : RegFld := ⟨(RING_HEARTBEAT i), 0, 32⟩
def RING_HB_CFG (i : Nat) : Nat := 0x1000000000018 + i * 0x100000
def RING_HB_CFG_TIMEOUT_MS (i : Nat) : RegFld := ⟨(RING_HB_CFG i), 0, 16⟩
def RING_SYNC (i : Nat) : Nat := 0x1000000000020 + i * 0x100000
def RING_SYNC_VAL (i : Nat) : RegFld := ⟨(RING_SYNC i), 0, 32⟩
def RING_CLAMP_COUNT (i : Nat) : Nat := 0x1000000000028 + i * 0x100000
def RING_CLAMP_COUNT_VAL (i : Nat) : RegFld := ⟨(RING_CLAMP_COUNT i), 0, 32⟩
def RING_VEC_CFG (i : Nat) : Nat := 0x1000000000030 + i * 0x100000
def RING_VEC_CFG_FAULT_VEC (i : Nat) : RegFld := ⟨(RING_VEC_CFG i), 0, 11⟩
def RING_VEC_CFG_EVENT_VEC (i : Nat) : RegFld := ⟨(RING_VEC_CFG i), 16, 11⟩
def RING_ADMIN_BASE (i : Nat) : Nat := 0x1000000000040 + i * 0x100000
def RING_ADMIN_BASE_BASE (i : Nat) : RegFld := ⟨(RING_ADMIN_BASE i), 12, 52⟩
def RING_ADMIN_HEAD_ADDR (i : Nat) : Nat := 0x1000000000048 + i * 0x100000
def RING_ADMIN_HEAD_ADDR_ADDR (i : Nat) : RegFld := ⟨(RING_ADMIN_HEAD_ADDR i), 3, 61⟩
def RING_ADMIN_CFG (i : Nat) : Nat := 0x1000000000050 + i * 0x100000
def RING_ADMIN_CFG_ENABLE (i : Nat) : RegFld := ⟨(RING_ADMIN_CFG i), 0, 1⟩
def RING_ADMIN_CFG_LOG2_SLOTS (i : Nat) : RegFld := ⟨(RING_ADMIN_CFG i), 1, 4⟩
def RING_ADMIN_CFG_FLUSH_ON_PUBLISH (i : Nat) : RegFld := ⟨(RING_ADMIN_CFG i), 5, 1⟩
def RING_ADMIN_CFG_VECTOR (i : Nat) : RegFld := ⟨(RING_ADMIN_CFG i), 16, 11⟩
def RING_EVENT_STATUS (i : Nat) : Nat := 0x1000000000058 + i * 0x100000
def RING_EVENT_STATUS_HELD (i : Nat) : RegFld := ⟨(RING_EVENT_STATUS i), 0, 7⟩
def RING_EVENT_STATUS_LOST (i : Nat) : RegFld := ⟨(RING_EVENT_STATUS i), 16, 16⟩
def RING_QERR (i : Nat) (n : Nat) : Nat := 0x1000000000200 + i * 0x100000 + n * 0x8
def RING_QERR_VAL (i : Nat) (n : Nat) : RegFld := ⟨(RING_QERR i n), 0, 64⟩
def RING_DB (i : Nat) (q : Nat) : Nat := 0x1000000040000 + i * 0x100000 + q * 0x40
def RING_DB_TAIL (i : Nat) (q : Nat) : RegFld := ⟨(RING_DB i q), 0, 32⟩
def RING_Q_STATUS (i : Nat) (q : Nat) : Nat := 0x1000000040008 + i * 0x100000 + q * 0x40
def RING_Q_STATUS_STATE (i : Nat) (q : Nat) : RegFld := ⟨(RING_Q_STATUS i q), 0, 3⟩
def RING_Q_STATUS_WAIT_OWN (i : Nat) (q : Nat) : RegFld := ⟨(RING_Q_STATUS i q), 3, 1⟩
def RING_Q_STATUS_DB_BAD (i : Nat) (q : Nat) : RegFld := ⟨(RING_Q_STATUS i q), 4, 1⟩
def RING_Q_STATUS_ERR_REASON (i : Nat) (q : Nat) : RegFld := ⟨(RING_Q_STATUS i q), 8, 8⟩
def RING_Q_STATUS_ERR_SLOT (i : Nat) (q : Nat) : RegFld := ⟨(RING_Q_STATUS i q), 32, 32⟩
def RING_Q_PTR (i : Nat) (q : Nat) : Nat := 0x1000000040010 + i * 0x100000 + q * 0x40
def RING_Q_PTR_HEAD (i : Nat) (q : Nat) : RegFld := ⟨(RING_Q_PTR i q), 0, 32⟩
def RING_Q_PTR_TAIL (i : Nat) (q : Nat) : RegFld := ⟨(RING_Q_PTR i q), 32, 32⟩
def RING_D640_CMD (i : Nat) : Nat := 0x1000000002000 + i * 0x100000
def RING_D640_CMD_CMD (i : Nat) : RegFld := ⟨(RING_D640_CMD i), 0, 8⟩
def RING_D640_CMD_GO (i : Nat) : RegFld := ⟨(RING_D640_CMD i), 31, 1⟩
def RING_D640_ARG (i : Nat) (k : Nat) : Nat := 0x1000000002008 + i * 0x100000 + k * 0x8
def RING_D640_ARG_VAL (i : Nat) (k : Nat) : RegFld := ⟨(RING_D640_ARG i k), 0, 64⟩
def RING_D640_STATUS (i : Nat) : Nat := 0x1000000002040 + i * 0x100000
def RING_D640_STATUS_BUSY (i : Nat) : RegFld := ⟨(RING_D640_STATUS i), 0, 1⟩
def RING_D640_STATUS_CODE (i : Nat) : RegFld := ⟨(RING_D640_STATUS i), 8, 8⟩
def RING_D640_DATA (i : Nat) (k : Nat) : Nat := 0x1000000002048 + i * 0x100000 + k * 0x8
def RING_D640_DATA_VAL (i : Nat) (k : Nat) : RegFld := ⟨(RING_D640_DATA i k), 0, 64⟩
def MBX_TX_DATA (i : Nat) (k : Nat) : Nat := 0x1000000001000 + i * 0x100000 + k * 0x8
def MBX_TX_DATA_VAL (i : Nat) (k : Nat) : RegFld := ⟨(MBX_TX_DATA i k), 0, 64⟩
def MBXM_TX_DATA (i : Nat) (k : Nat) : Nat := 0xff380000000 + i * 0x1000 + k * 0x8
def MBXM_TX_DATA_VAL (i : Nat) (k : Nat) : RegFld := ⟨(MBXM_TX_DATA i k), 0, 64⟩
def MBX_TX_CTRL (i : Nat) : Nat := 0x1000000001100 + i * 0x100000
def MBX_TX_CTRL_LEN (i : Nat) : RegFld := ⟨(MBX_TX_CTRL i), 0, 9⟩
def MBX_TX_CTRL_SEND (i : Nat) : RegFld := ⟨(MBX_TX_CTRL i), 16, 1⟩
def MBX_TX_CTRL_WITHDRAW (i : Nat) : RegFld := ⟨(MBX_TX_CTRL i), 17, 1⟩
def MBXM_TX_CTRL (i : Nat) : Nat := 0xff380000100 + i * 0x1000
def MBXM_TX_CTRL_LEN (i : Nat) : RegFld := ⟨(MBXM_TX_CTRL i), 0, 9⟩
def MBXM_TX_CTRL_SEND (i : Nat) : RegFld := ⟨(MBXM_TX_CTRL i), 16, 1⟩
def MBXM_TX_CTRL_WITHDRAW (i : Nat) : RegFld := ⟨(MBXM_TX_CTRL i), 17, 1⟩
def MBX_TX_STATUS (i : Nat) : Nat := 0x1000000001108 + i * 0x100000
def MBX_TX_STATUS_STATE (i : Nat) : RegFld := ⟨(MBX_TX_STATUS i), 0, 2⟩
def MBX_TX_STATUS_WITHDRAWN (i : Nat) : RegFld := ⟨(MBX_TX_STATUS i), 2, 1⟩
def MBX_TX_STATUS_LOST_BY_RESET (i : Nat) : RegFld := ⟨(MBX_TX_STATUS i), 3, 1⟩
def MBX_TX_STATUS_RETCODE (i : Nat) : RegFld := ⟨(MBX_TX_STATUS i), 16, 16⟩
def MBXM_TX_STATUS (i : Nat) : Nat := 0xff380000108 + i * 0x1000
def MBXM_TX_STATUS_STATE (i : Nat) : RegFld := ⟨(MBXM_TX_STATUS i), 0, 2⟩
def MBXM_TX_STATUS_WITHDRAWN (i : Nat) : RegFld := ⟨(MBXM_TX_STATUS i), 2, 1⟩
def MBXM_TX_STATUS_LOST_BY_RESET (i : Nat) : RegFld := ⟨(MBXM_TX_STATUS i), 3, 1⟩
def MBXM_TX_STATUS_RETCODE (i : Nat) : RegFld := ⟨(MBXM_TX_STATUS i), 16, 16⟩
def MBX_RX_DATA (i : Nat) (k : Nat) : Nat := 0x1000000001200 + i * 0x100000 + k * 0x8
def MBX_RX_DATA_VAL (i : Nat) (k : Nat) : RegFld := ⟨(MBX_RX_DATA i k), 0, 64⟩
def MBXM_RX_DATA (i : Nat) (k : Nat) : Nat := 0xff380000200 + i * 0x1000 + k * 0x8
def MBXM_RX_DATA_VAL (i : Nat) (k : Nat) : RegFld := ⟨(MBXM_RX_DATA i k), 0, 64⟩
def MBX_RX_STATUS (i : Nat) : Nat := 0x1000000001300 + i * 0x100000
def MBX_RX_STATUS_STATE (i : Nat) : RegFld := ⟨(MBX_RX_STATUS i), 0, 2⟩
def MBX_RX_STATUS_LEN (i : Nat) : RegFld := ⟨(MBX_RX_STATUS i), 16, 9⟩
def MBX_RX_STATUS_SENDER (i : Nat) : RegFld := ⟨(MBX_RX_STATUS i), 32, 16⟩
def MBXM_RX_STATUS (i : Nat) : Nat := 0xff380000300 + i * 0x1000
def MBXM_RX_STATUS_STATE (i : Nat) : RegFld := ⟨(MBXM_RX_STATUS i), 0, 2⟩
def MBXM_RX_STATUS_LEN (i : Nat) : RegFld := ⟨(MBXM_RX_STATUS i), 16, 9⟩
def MBXM_RX_STATUS_SENDER (i : Nat) : RegFld := ⟨(MBXM_RX_STATUS i), 32, 16⟩
def MBX_RX_CTRL (i : Nat) : Nat := 0x1000000001308 + i * 0x100000
def MBX_RX_CTRL_TAKE (i : Nat) : RegFld := ⟨(MBX_RX_CTRL i), 0, 1⟩
def MBXM_RX_CTRL (i : Nat) : Nat := 0xff380000308 + i * 0x1000
def MBXM_RX_CTRL_TAKE (i : Nat) : RegFld := ⟨(MBXM_RX_CTRL i), 0, 1⟩
def MBX_RX_ACK (i : Nat) : Nat := 0x1000000001310 + i * 0x100000
def MBX_RX_ACK_RETCODE (i : Nat) : RegFld := ⟨(MBX_RX_ACK i), 0, 16⟩
def MBX_RX_ACK_GO (i : Nat) : RegFld := ⟨(MBX_RX_ACK i), 31, 1⟩
def MBXM_RX_ACK (i : Nat) : Nat := 0xff380000310 + i * 0x1000
def MBXM_RX_ACK_RETCODE (i : Nat) : RegFld := ⟨(MBXM_RX_ACK i), 0, 16⟩
def MBXM_RX_ACK_GO (i : Nat) : RegFld := ⟨(MBXM_RX_ACK i), 31, 1⟩
def MBX_VEC (i : Nat) : Nat := 0x1000000001318 + i * 0x100000
def MBX_VEC_VECTOR (i : Nat) : RegFld := ⟨(MBX_VEC i), 0, 11⟩
def MBX_VEC_ENABLE (i : Nat) : RegFld := ⟨(MBX_VEC i), 16, 1⟩
def MBXM_VEC (i : Nat) : Nat := 0xff380000318 + i * 0x1000
def MBXM_VEC_VECTOR (i : Nat) : RegFld := ⟨(MBXM_VEC i), 0, 11⟩
def MBXM_VEC_ENABLE (i : Nat) : RegFld := ⟨(MBXM_VEC i), 16, 1⟩
def INST_EVENT : Nat := 0xff340000000
def INST_EVENT_QUIESCED : RegFld := ⟨INST_EVENT, 0, 1⟩
def INST_EVENT_FORCED : RegFld := ⟨INST_EVENT, 1, 1⟩
def INST_EVENT_RESET_DONE : RegFld := ⟨INST_EVENT, 2, 1⟩
def INST_EVENT_FLR : RegFld := ⟨INST_EVENT, 3, 1⟩
def INST_EVENT_RESIDUE_CLEARED : RegFld := ⟨INST_EVENT, 4, 1⟩
def INST_EVENT_EN : Nat := 0xff340000008
def INST_EVENT_EN_QUIESCED : RegFld := ⟨INST_EVENT_EN, 0, 1⟩
def INST_EVENT_EN_FORCED : RegFld := ⟨INST_EVENT_EN, 1, 1⟩
def INST_EVENT_EN_RESET_DONE : RegFld := ⟨INST_EVENT_EN, 2, 1⟩
def INST_EVENT_EN_FLR : RegFld := ⟨INST_EVENT_EN, 3, 1⟩
def INST_EVENT_EN_RESIDUE_CLEARED : RegFld := ⟨INST_EVENT_EN, 4, 1⟩
def INST_CFG : Nat := 0xff340000010
def INST_CFG_MODE : RegFld := ⟨INST_CFG, 0, 2⟩
def INST_CMD : Nat := 0xff340000018
def INST_CMD_OP : RegFld := ⟨INST_CMD, 0, 3⟩
def INST_CMD_INSTANCE : RegFld := ⟨INST_CMD, 4, 4⟩
def INST_CMD_MODE : RegFld := ⟨INST_CMD, 8, 2⟩
def INST_CMD_ZERO : RegFld := ⟨INST_CMD, 10, 1⟩
def INST_CMD_GO : RegFld := ⟨INST_CMD, 63, 1⟩
def INST_CMD_STATUS : Nat := 0xff340000020
def INST_CMD_STATUS_PENDING : RegFld := ⟨INST_CMD_STATUS, 0, 1⟩
def INST_CMD_STATUS_RESULT : RegFld := ⟨INST_CMD_STATUS, 8, 8⟩
def INST_QUIESCE_CFG : Nat := 0xff340000028
def INST_QUIESCE_CFG_LIMIT_MS : RegFld := ⟨INST_QUIESCE_CFG, 0, 16⟩
def INST_STATE (i : Nat) : Nat := 0xff340000100 + i * 0x8
def INST_STATE_STATE (i : Nat) : RegFld := ⟨(INST_STATE i), 0, 3⟩
def INST_STATE_RESIDUE (i : Nat) : RegFld := ⟨(INST_STATE i), 3, 1⟩
def INST_STATE_FORCED (i : Nat) : RegFld := ⟨(INST_STATE i), 4, 1⟩
def INST_STATE_LAST_RESULT (i : Nat) : RegFld := ⟨(INST_STATE i), 8, 8⟩
def INST_STATE_FUNCTION (i : Nat) : RegFld := ⟨(INST_STATE i), 16, 5⟩
def INST_STATE_RESETS (i : Nat) : RegFld := ⟨(INST_STATE i), 32, 32⟩
def SEC_EVENT : Nat := 0xff3c0000000
def SEC_EVENT_TAG_FAIL : RegFld := ⟨SEC_EVENT, 0, 1⟩
def SEC_EVENT_ENC_MISMATCH : RegFld := ⟨SEC_EVENT, 1, 1⟩
def SEC_EVENT_PROV_DONE : RegFld := ⟨SEC_EVENT, 2, 1⟩
def SEC_EVENT_KEY_LOST : RegFld := ⟨SEC_EVENT, 3, 1⟩
def SEC_EVENT_ENTROPY_FAIL : RegFld := ⟨SEC_EVENT, 4, 1⟩
def SEC_EVENT_DEBUG_OPEN : RegFld := ⟨SEC_EVENT, 5, 1⟩
def SEC_EVENT_TAMPER : RegFld := ⟨SEC_EVENT, 6, 1⟩
def SEC_EVENT_CELL_LOW : RegFld := ⟨SEC_EVENT, 7, 1⟩
def SEC_EVENT_ROLLBACK_REFUSED : RegFld := ⟨SEC_EVENT, 8, 1⟩
def SEC_EVENT_ARB_END : RegFld := ⟨SEC_EVENT, 9, 1⟩
def SEC_EVENT_TXC_HIGH : RegFld := ⟨SEC_EVENT, 10, 1⟩
def SEC_EVENT_EN : Nat := 0xff3c0000008
def SEC_EVENT_EN_TAG_FAIL : RegFld := ⟨SEC_EVENT_EN, 0, 1⟩
def SEC_EVENT_EN_ENC_MISMATCH : RegFld := ⟨SEC_EVENT_EN, 1, 1⟩
def SEC_EVENT_EN_PROV_DONE : RegFld := ⟨SEC_EVENT_EN, 2, 1⟩
def SEC_EVENT_EN_KEY_LOST : RegFld := ⟨SEC_EVENT_EN, 3, 1⟩
def SEC_EVENT_EN_ENTROPY_FAIL : RegFld := ⟨SEC_EVENT_EN, 4, 1⟩
def SEC_EVENT_EN_DEBUG_OPEN : RegFld := ⟨SEC_EVENT_EN, 5, 1⟩
def SEC_EVENT_EN_TAMPER : RegFld := ⟨SEC_EVENT_EN, 6, 1⟩
def SEC_EVENT_EN_CELL_LOW : RegFld := ⟨SEC_EVENT_EN, 7, 1⟩
def SEC_EVENT_EN_ROLLBACK_REFUSED : RegFld := ⟨SEC_EVENT_EN, 8, 1⟩
def SEC_EVENT_EN_ARB_END : RegFld := ⟨SEC_EVENT_EN, 9, 1⟩
def SEC_EVENT_EN_TXC_HIGH : RegFld := ⟨SEC_EVENT_EN, 10, 1⟩
def SEC_STATE : Nat := 0xff3c0000010
def SEC_STATE_KEYS : RegFld := ⟨SEC_STATE, 0, 2⟩
def SEC_STATE_DEBUG_OPEN : RegFld := ⟨SEC_STATE, 2, 1⟩
def SEC_STATE_DRBG_OK : RegFld := ⟨SEC_STATE, 3, 1⟩
def SEC_STATE_CELL_OK : RegFld := ⟨SEC_STATE, 4, 1⟩
def SEC_STATE_DOMAIN_ID : RegFld := ⟨SEC_STATE, 32, 32⟩
def SEC_KEY_ARG : Nat := 0xff3c0000018
def SEC_KEY_ARG_TENANT : RegFld := ⟨SEC_KEY_ARG, 0, 20⟩
def SEC_KEY_ARG_GROUP : RegFld := ⟨SEC_KEY_ARG, 20, 16⟩
def SEC_KEY_ARG_KEY_GEN : RegFld := ⟨SEC_KEY_ARG, 36, 16⟩
def SEC_KEY_ARG_DIR : RegFld := ⟨SEC_KEY_ARG, 52, 1⟩
def SEC_KEY_CMD : Nat := 0xff3c0000020
def SEC_KEY_CMD_OP : RegFld := ⟨SEC_KEY_CMD, 0, 3⟩
def SEC_KEY_CMD_PHASE : RegFld := ⟨SEC_KEY_CMD, 3, 1⟩
def SEC_KEY_CMD_CTX : RegFld := ⟨SEC_KEY_CMD, 16, 16⟩
def SEC_KEY_CMD_GO : RegFld := ⟨SEC_KEY_CMD, 63, 1⟩
def SEC_KEY_STATUS : Nat := 0xff3c0000028
def SEC_KEY_STATUS_PENDING : RegFld := ⟨SEC_KEY_STATUS, 0, 1⟩
def SEC_KEY_STATUS_RESULT : RegFld := ⟨SEC_KEY_STATUS, 8, 8⟩
def SEC_KEY_SEL : Nat := 0xff3c0000030
def SEC_KEY_SEL_CTX : RegFld := ⟨SEC_KEY_SEL, 0, 16⟩
def SEC_KEY_DATA : Nat := 0xff3c0000038
def SEC_KEY_DATA_VALID0 : RegFld := ⟨SEC_KEY_DATA, 0, 1⟩
def SEC_KEY_DATA_VALID1 : RegFld := ⟨SEC_KEY_DATA, 1, 1⟩
def SEC_KEY_DATA_TX_PHASE : RegFld := ⟨SEC_KEY_DATA, 2, 1⟩
def SEC_KEY_DATA_DIR : RegFld := ⟨SEC_KEY_DATA, 3, 1⟩
def SEC_KEY_DATA_TENANT : RegFld := ⟨SEC_KEY_DATA, 4, 20⟩
def SEC_KEY_DATA_GROUP : RegFld := ⟨SEC_KEY_DATA, 24, 16⟩
def SEC_KEY_DATA_KEY_GEN : RegFld := ⟨SEC_KEY_DATA, 40, 16⟩
def SEC_PROV_ADDR : Nat := 0xff3c0000040
def SEC_PROV_ADDR_VAL : RegFld := ⟨SEC_PROV_ADDR, 0, 64⟩
def SEC_PROV_CMD : Nat := 0xff3c0000048
def SEC_PROV_CMD_OP : RegFld := ⟨SEC_PROV_CMD, 0, 2⟩
def SEC_PROV_CMD_GO : RegFld := ⟨SEC_PROV_CMD, 63, 1⟩
def SEC_PROV_STATUS : Nat := 0xff3c0000050
def SEC_PROV_STATUS_PENDING : RegFld := ⟨SEC_PROV_STATUS, 0, 1⟩
def SEC_PROV_STATUS_RESULT : RegFld := ⟨SEC_PROV_STATUS, 8, 8⟩
def SEC_DEBUG_CTRL : Nat := 0xff3c0000058
def SEC_DEBUG_CTRL_REQ : RegFld := ⟨SEC_DEBUG_CTRL, 0, 8⟩
def SEC_ARB : Nat := 0xff3c0000060
def SEC_ARB_COUNT : RegFld := ⟨SEC_ARB, 0, 7⟩
def SEC_ARB_RUNNING_SVN : RegFld := ⟨SEC_ARB, 8, 8⟩
def SEC_TAMPER_STATUS : Nat := 0xff3c0000068
def SEC_TAMPER_STATUS_RECORDS : RegFld := ⟨SEC_TAMPER_STATUS, 0, 5⟩
def SEC_TAMPER_STATUS_OVERFLOW : RegFld := ⟨SEC_TAMPER_STATUS, 16, 16⟩
def SEC_TAMPER_CLEAR : Nat := 0xff3c0000070
def SEC_TAMPER_CLEAR_CODE : RegFld := ⟨SEC_TAMPER_CLEAR, 0, 16⟩
def SEC_TAG_FAIL : Nat := 0xff3c0000078
def SEC_TAG_FAIL_VAL : RegFld := ⟨SEC_TAG_FAIL, 0, 64⟩
def SEC_ENC_MISMATCH : Nat := 0xff3c0000080
def SEC_ENC_MISMATCH_VAL : RegFld := ⟨SEC_ENC_MISMATCH, 0, 64⟩
def SEC_RX_LOG : Nat := 0xff3c0000088
def SEC_RX_LOG_QPN : RegFld := ⟨SEC_RX_LOG, 0, 20⟩
def SEC_RX_LOG_STATUS : RegFld := ⟨SEC_RX_LOG, 20, 8⟩
def SEC_RX_LOG_PHASE : RegFld := ⟨SEC_RX_LOG, 28, 1⟩
def SEC_RX_LOG_PICK_LO : RegFld := ⟨SEC_RX_LOG, 32, 32⟩
def SEC_ID_PUB (k : Nat) : Nat := 0xff3c0000100 + k * 0x8
def SEC_ID_PUB_VAL (k : Nat) : RegFld := ⟨(SEC_ID_PUB k), 0, 64⟩
def SEC_TAMPER_LOG (n : Nat) (w : Nat) : Nat := 0xff3c0001000 + n * 0x10 + w * 0x8
def SEC_TAMPER_LOG_VAL (n : Nat) (w : Nat) : RegFld := ⟨(SEC_TAMPER_LOG n w), 0, 64⟩
def CRC_EVENT : Nat := 0xff400000000
def CRC_EVENT_MISMATCH : RegFld := ⟨CRC_EVENT, 0, 1⟩
def CRC_EVENT_TRAPPED : RegFld := ⟨CRC_EVENT, 1, 1⟩
def CRC_EVENT_EN : Nat := 0xff400000008
def CRC_EVENT_EN_MISMATCH : RegFld := ⟨CRC_EVENT_EN, 0, 1⟩
def CRC_EVENT_EN_TRAPPED : RegFld := ⟨CRC_EVENT_EN, 1, 1⟩
def CRC_MISMATCH_COUNT : Nat := 0xff400000010
def CRC_MISMATCH_COUNT_VAL : RegFld := ⟨CRC_MISMATCH_COUNT, 0, 64⟩
def CRC_SEL : Nat := 0xff400000018
def CRC_SEL_TILE : RegFld := ⟨CRC_SEL, 0, 12⟩
def CRC_SEL_CTX : RegFld := ⟨CRC_SEL, 12, 1⟩
def CRC_VIEW_POLY : Nat := 0xff400000020
def CRC_VIEW_POLY_POLY : RegFld := ⟨CRC_VIEW_POLY, 0, 64⟩
def CRC_VIEW_CFG : Nat := 0xff400000028
def CRC_VIEW_CFG_WIDTH_M1 : RegFld := ⟨CRC_VIEW_CFG, 0, 6⟩
def CRC_VIEW_CFG_MODE : RegFld := ⟨CRC_VIEW_CFG, 8, 4⟩
def CRC_VIEW_CFG_BUSY : RegFld := ⟨CRC_VIEW_CFG, 16, 1⟩
def CRC_VIEW_INIT : Nat := 0xff400000030
def CRC_VIEW_INIT_INIT : RegFld := ⟨CRC_VIEW_INIT, 0, 64⟩
def CRC_VIEW_RUN : Nat := 0xff400000038
def CRC_VIEW_RUN_RUN : RegFld := ⟨CRC_VIEW_RUN, 0, 64⟩
def PWR_REL_EVENT : Nat := 0xff480002000
def PWR_REL_EVENT_TILE_RESTORED : RegFld := ⟨PWR_REL_EVENT, 0, 1⟩
def PWR_REL_EVENT_MIRROR_LOST : RegFld := ⟨PWR_REL_EVENT, 1, 1⟩
def PWR_REL_EVENT_TAKEOVER : RegFld := ⟨PWR_REL_EVENT, 2, 1⟩
def PWR_REL_EVENT_PARTNER_READY : RegFld := ⟨PWR_REL_EVENT, 3, 1⟩
def PWR_REL_EVENT_SECOND_FAULT : RegFld := ⟨PWR_REL_EVENT, 4, 1⟩
def PWR_REL_EVENT_CAL_START : RegFld := ⟨PWR_REL_EVENT, 5, 1⟩
def PWR_REL_EVENT_CAL_DONE : RegFld := ⟨PWR_REL_EVENT, 6, 1⟩
def PWR_REL_EVENT_FW_STAGED : RegFld := ⟨PWR_REL_EVENT, 7, 1⟩
def PWR_REL_EVENT_FW_TRIAL : RegFld := ⟨PWR_REL_EVENT, 8, 1⟩
def PWR_REL_EVENT_FW_GOOD : RegFld := ⟨PWR_REL_EVENT, 9, 1⟩
def PWR_REL_EVENT_FW_REVERTED : RegFld := ⟨PWR_REL_EVENT, 10, 1⟩
def PWR_REL_EVENT_EN : Nat := 0xff480002008
def PWR_REL_EVENT_EN_TILE_RESTORED : RegFld := ⟨PWR_REL_EVENT_EN, 0, 1⟩
def PWR_REL_EVENT_EN_MIRROR_LOST : RegFld := ⟨PWR_REL_EVENT_EN, 1, 1⟩
def PWR_REL_EVENT_EN_TAKEOVER : RegFld := ⟨PWR_REL_EVENT_EN, 2, 1⟩
def PWR_REL_EVENT_EN_PARTNER_READY : RegFld := ⟨PWR_REL_EVENT_EN, 3, 1⟩
def PWR_REL_EVENT_EN_SECOND_FAULT : RegFld := ⟨PWR_REL_EVENT_EN, 4, 1⟩
def PWR_REL_EVENT_EN_CAL_START : RegFld := ⟨PWR_REL_EVENT_EN, 5, 1⟩
def PWR_REL_EVENT_EN_CAL_DONE : RegFld := ⟨PWR_REL_EVENT_EN, 6, 1⟩
def PWR_REL_EVENT_EN_FW_STAGED : RegFld := ⟨PWR_REL_EVENT_EN, 7, 1⟩
def PWR_REL_EVENT_EN_FW_TRIAL : RegFld := ⟨PWR_REL_EVENT_EN, 8, 1⟩
def PWR_REL_EVENT_EN_FW_GOOD : RegFld := ⟨PWR_REL_EVENT_EN, 9, 1⟩
def PWR_REL_EVENT_EN_FW_REVERTED : RegFld := ⟨PWR_REL_EVENT_EN, 10, 1⟩
def PWR_FW_STATUS : Nat := 0xff480002010
def PWR_FW_STATUS_RUNNING_SLOT : RegFld := ⟨PWR_FW_STATUS, 0, 1⟩
def PWR_FW_STATUS_A_STATE : RegFld := ⟨PWR_FW_STATUS, 1, 3⟩
def PWR_FW_STATUS_B_STATE : RegFld := ⟨PWR_FW_STATUS, 4, 3⟩
def PWR_FW_STATUS_A_SVN : RegFld := ⟨PWR_FW_STATUS, 8, 8⟩
def PWR_FW_STATUS_B_SVN : RegFld := ⟨PWR_FW_STATUS, 16, 8⟩
def PWR_FW_STATUS_TRIAL_LEFT_S : RegFld := ⟨PWR_FW_STATUS, 32, 16⟩
def PWR_FW_STAGE_ADDR : Nat := 0xff480002018
def PWR_FW_STAGE_ADDR_ADDR : RegFld := ⟨PWR_FW_STAGE_ADDR, 12, 52⟩
def PWR_FW_STAGE_LEN : Nat := 0xff480002020
def PWR_FW_STAGE_LEN_LEN : RegFld := ⟨PWR_FW_STAGE_LEN, 0, 26⟩
def PWR_FW_CMD : Nat := 0xff480002028
def PWR_FW_CMD_OP : RegFld := ⟨PWR_FW_CMD, 0, 3⟩
def PWR_FW_CMD_GO : RegFld := ⟨PWR_FW_CMD, 63, 1⟩
def PWR_FW_CMD_STATUS : Nat := 0xff480002030
def PWR_FW_CMD_STATUS_PENDING : RegFld := ⟨PWR_FW_CMD_STATUS, 0, 1⟩
def PWR_FW_CMD_STATUS_RESULT : RegFld := ⟨PWR_FW_CMD_STATUS, 8, 8⟩
def PWR_FW_CFG : Nat := 0xff480002038
def PWR_FW_CFG_TRIAL_S : RegFld := ⟨PWR_FW_CFG, 0, 16⟩
def PWR_REL_SECOND_FAULTS : Nat := 0xff480002040
def PWR_REL_SECOND_FAULTS_VAL : RegFld := ⟨PWR_REL_SECOND_FAULTS, 0, 64⟩
def PWR_REL_UNMIRRORED (n : Nat) : Nat := 0xff480002100 + n * 0x8
def PWR_REL_UNMIRRORED_VAL (n : Nat) : RegFld := ⟨(PWR_REL_UNMIRRORED n), 0, 64⟩
def TRC_EVENT : Nat := 0xff440000000
def TRC_EVENT_OVERFLOW : RegFld := ⟨TRC_EVENT, 0, 1⟩
def TRC_EVENT_FIRED : RegFld := ⟨TRC_EVENT, 1, 1⟩
def TRC_EVENT_HALTED : RegFld := ⟨TRC_EVENT, 2, 1⟩
def TRC_EVENT_RESUMED : RegFld := ⟨TRC_EVENT, 3, 1⟩
def TRC_EVENT_SCAN_DONE : RegFld := ⟨TRC_EVENT, 4, 1⟩
def TRC_EVENT_LANE_DOWN : RegFld := ⟨TRC_EVENT, 5, 1⟩
def TRC_EVENT_TRIG_MISSED : RegFld := ⟨TRC_EVENT, 6, 1⟩
def TRC_EVENT_EN : Nat := 0xff440000008
def TRC_EVENT_EN_OVERFLOW : RegFld := ⟨TRC_EVENT_EN, 0, 1⟩
def TRC_EVENT_EN_FIRED : RegFld := ⟨TRC_EVENT_EN, 1, 1⟩
def TRC_EVENT_EN_HALTED : RegFld := ⟨TRC_EVENT_EN, 2, 1⟩
def TRC_EVENT_EN_RESUMED : RegFld := ⟨TRC_EVENT_EN, 3, 1⟩
def TRC_EVENT_EN_SCAN_DONE : RegFld := ⟨TRC_EVENT_EN, 4, 1⟩
def TRC_EVENT_EN_LANE_DOWN : RegFld := ⟨TRC_EVENT_EN, 5, 1⟩
def TRC_EVENT_EN_TRIG_MISSED : RegFld := ⟨TRC_EVENT_EN, 6, 1⟩
def TRC_CFG : Nat := 0xff440000010
def TRC_CFG_ENABLE : RegFld := ⟨TRC_CFG, 0, 1⟩
def TRC_CFG_SYNC_LOG2 : RegFld := ⟨TRC_CFG, 1, 5⟩
def TRC_CFG_PKT_SAMPLE_LOG2 : RegFld := ⟨TRC_CFG, 8, 4⟩
def TRC_CFG_CELL_SAMPLE_LOG2 : RegFld := ⟨TRC_CFG, 12, 4⟩
def TRC_CFG_FLUSH_US : RegFld := ⟨TRC_CFG, 16, 16⟩
def TRC_CLASS_EN : Nat := 0xff440000018
def TRC_CLASS_EN_VAL : RegFld := ⟨TRC_CLASS_EN, 0, 32⟩
def TRC_INST_MASK : Nat := 0xff440000020
def TRC_INST_MASK_VAL : RegFld := ⟨TRC_INST_MASK, 0, 32⟩
def TRC_SAFFRON_CFG : Nat := 0xff440000028
def TRC_SAFFRON_CFG_DST_MAC : RegFld := ⟨TRC_SAFFRON_CFG, 0, 48⟩
def TRC_SAFFRON_CFG_LANE_EN : RegFld := ⟨TRC_SAFFRON_CFG, 48, 4⟩
def TRC_SAFFRON_CFG_FEC : RegFld := ⟨TRC_SAFFRON_CFG, 52, 1⟩
def TRC_SAFFRON_SRC : Nat := 0xff440000030
def TRC_SAFFRON_SRC_SRC_MAC : RegFld := ⟨TRC_SAFFRON_SRC, 0, 48⟩
def TRC_SAFFRON_SRC_ETYPE : RegFld := ⟨TRC_SAFFRON_SRC, 48, 16⟩
def TRC_STATUS : Nat := 0xff440000038
def TRC_STATUS_LANES_UP : RegFld := ⟨TRC_STATUS, 0, 4⟩
def TRC_STATUS_FROZEN : RegFld := ⟨TRC_STATUS, 4, 1⟩
def TRC_STATUS_SCAN_BUSY : RegFld := ⟨TRC_STATUS, 5, 1⟩
def TRC_STATUS_BUF_RECORDS : RegFld := ⟨TRC_STATUS, 16, 16⟩
def TRC_RECORDS : Nat := 0xff440000040
def TRC_RECORDS_VAL : RegFld := ⟨TRC_RECORDS, 0, 64⟩
def TRC_DROPPED : Nat := 0xff440000048
def TRC_DROPPED_VAL : RegFld := ⟨TRC_DROPPED, 0, 64⟩
def TRC_MARK : Nat := 0xff440000050
def TRC_MARK_VAL : RegFld := ⟨TRC_MARK, 0, 64⟩
def TRC_TS : Nat := 0xff440000058
def TRC_TS_VAL : RegFld := ⟨TRC_TS, 0, 64⟩
def TRC_TRIG_CFG : Nat := 0xff440000060
def TRC_TRIG_CFG_ARM : RegFld := ⟨TRC_TRIG_CFG, 0, 1⟩
def TRC_TRIG_CFG_SRC_PIN : RegFld := ⟨TRC_TRIG_CFG, 1, 1⟩
def TRC_TRIG_CFG_SRC_PICK : RegFld := ⟨TRC_TRIG_CFG, 2, 1⟩
def TRC_TRIG_CFG_SRC_MATCH : RegFld := ⟨TRC_TRIG_CFG, 3, 1⟩
def TRC_TRIG_CFG_FREEZE : RegFld := ⟨TRC_TRIG_CFG, 8, 1⟩
def TRC_TRIG_CFG_HALT : RegFld := ⟨TRC_TRIG_CFG, 9, 1⟩
def TRC_TRIG_CFG_TRACE_STOP : RegFld := ⟨TRC_TRIG_CFG, 10, 1⟩
def TRC_TRIG_PICK : Nat := 0xff440000068
def TRC_TRIG_PICK_VAL : RegFld := ⟨TRC_TRIG_PICK, 0, 48⟩
def TRC_TRIG_MATCH : Nat := 0xff440000070
def TRC_TRIG_MATCH_CLASS : RegFld := ⟨TRC_TRIG_MATCH, 0, 4⟩
def TRC_TRIG_MATCH_KIND : RegFld := ⟨TRC_TRIG_MATCH, 4, 4⟩
def TRC_TRIG_MATCH_NOT_OK : RegFld := ⟨TRC_TRIG_MATCH, 8, 1⟩
def TRC_TRIG_MATCH_ANY_SOURCE : RegFld := ⟨TRC_TRIG_MATCH, 9, 1⟩
def TRC_TRIG_MATCH_SOURCE : RegFld := ⟨TRC_TRIG_MATCH, 16, 16⟩
def TRC_TRIG_CMD : Nat := 0xff440000078
def TRC_TRIG_CMD_FIRE : RegFld := ⟨TRC_TRIG_CMD, 0, 1⟩
def TRC_TRIG_CMD_THAW : RegFld := ⟨TRC_TRIG_CMD, 1, 1⟩
def TRC_TRIG_CMD_RESUME : RegFld := ⟨TRC_TRIG_CMD, 2, 1⟩
def TRC_TRIG_STATUS : Nat := 0xff440000080
def TRC_TRIG_STATUS_STATE : RegFld := ⟨TRC_TRIG_STATUS, 0, 2⟩
def TRC_TRIG_STATUS_SOURCES : RegFld := ⟨TRC_TRIG_STATUS, 4, 4⟩
def TRC_TRIG_STATUS_TRIG_TS : RegFld := ⟨TRC_TRIG_STATUS, 16, 48⟩
def TRC_HALT_STATUS : Nat := 0xff440000088
def TRC_HALT_STATUS_HALTED : RegFld := ⟨TRC_HALT_STATUS, 0, 13⟩
def TRC_HALT_STATUS_ALL : RegFld := ⟨TRC_HALT_STATUS, 13, 1⟩
def TRC_HALT_STATUS_HALTING : RegFld := ⟨TRC_HALT_STATUS, 14, 1⟩
def TRC_SCAN_CFG : Nat := 0xff440000090
def TRC_SCAN_CFG_FIRST : RegFld := ⟨TRC_SCAN_CFG, 0, 12⟩
def TRC_SCAN_CFG_COUNT : RegFld := ⟨TRC_SCAN_CFG, 12, 13⟩
def TRC_SCAN_CFG_TARGET : RegFld := ⟨TRC_SCAN_CFG, 25, 1⟩
def TRC_SCAN_CMD : Nat := 0xff440000098
def TRC_SCAN_CMD_GO : RegFld := ⟨TRC_SCAN_CMD, 0, 1⟩
def TRC_SCAN_STATUS : Nat := 0xff4400000a0
def TRC_SCAN_STATUS_BUSY : RegFld := ⟨TRC_SCAN_STATUS, 0, 1⟩
def TRC_SCAN_STATUS_RESULT : RegFld := ⟨TRC_SCAN_STATUS, 8, 8⟩
def TRC_SCAN_STATUS_TILE : RegFld := ⟨TRC_SCAN_STATUS, 16, 12⟩
def PWR_EVENT : Nat := 0xff480000000
def PWR_EVENT_THROTTLE : RegFld := ⟨PWR_EVENT, 0, 1⟩
def PWR_EVENT_ALERT : RegFld := ⟨PWR_EVENT, 1, 1⟩
def PWR_EVENT_PACE_REFUSED : RegFld := ⟨PWR_EVENT, 2, 1⟩
def PWR_EVENT_READY : RegFld := ⟨PWR_EVENT, 3, 1⟩
def PWR_EVENT_BOOT_FAIL : RegFld := ⟨PWR_EVENT, 4, 1⟩
def PWR_EVENT_DEGRADED : RegFld := ⟨PWR_EVENT, 5, 1⟩
def PWR_EVENT_EN : Nat := 0xff480000008
def PWR_EVENT_EN_THROTTLE : RegFld := ⟨PWR_EVENT_EN, 0, 1⟩
def PWR_EVENT_EN_ALERT : RegFld := ⟨PWR_EVENT_EN, 1, 1⟩
def PWR_EVENT_EN_PACE_REFUSED : RegFld := ⟨PWR_EVENT_EN, 2, 1⟩
def PWR_EVENT_EN_READY : RegFld := ⟨PWR_EVENT_EN, 3, 1⟩
def PWR_EVENT_EN_BOOT_FAIL : RegFld := ⟨PWR_EVENT_EN, 4, 1⟩
def PWR_EVENT_EN_DEGRADED : RegFld := ⟨PWR_EVENT_EN, 5, 1⟩
def PWR_STATUS : Nat := 0xff480000010
def PWR_STATUS_VIN : RegFld := ⟨PWR_STATUS, 0, 16⟩
def PWR_STATUS_PIN : RegFld := ⟨PWR_STATUS, 16, 16⟩
def PWR_LIMIT_CFG : Nat := 0xff480000018
def PWR_LIMIT_CFG_LIMIT_W : RegFld := ⟨PWR_LIMIT_CFG, 0, 16⟩
def PWR_LIMIT_CFG_HYST_W : RegFld := ⟨PWR_LIMIT_CFG, 16, 8⟩
def PWR_THERM_CFG : Nat := 0xff480000020
def PWR_THERM_CFG_DIE_THROTTLE : RegFld := ⟨PWR_THERM_CFG, 0, 8⟩
def PWR_THERM_CFG_DIE_ALERT : RegFld := ⟨PWR_THERM_CFG, 8, 8⟩
def PWR_THERM_CFG_STACK_THROTTLE : RegFld := ⟨PWR_THERM_CFG, 16, 8⟩
def PWR_THERM_CFG_STACK_ALERT : RegFld := ⟨PWR_THERM_CFG, 24, 8⟩
def PWR_THERM_CFG_FAR_THROTTLE : RegFld := ⟨PWR_THERM_CFG, 32, 8⟩
def PWR_THERM_CFG_FAR_ALERT : RegFld := ⟨PWR_THERM_CFG, 40, 8⟩
def PWR_TEMP : Nat := 0xff480000028
def PWR_TEMP_DIE : RegFld := ⟨PWR_TEMP, 0, 32⟩
def PWR_TEMP_STACK : RegFld := ⟨PWR_TEMP, 32, 8⟩
def PWR_TEMP_FAR : RegFld := ⟨PWR_TEMP, 40, 8⟩
def PWR_PACE_CFG : Nat := 0xff480000030
def PWR_PACE_CFG_STEP_CC : RegFld := ⟨PWR_PACE_CFG, 0, 6⟩
def PWR_PACE_CFG_RAMP_CC : RegFld := ⟨PWR_PACE_CFG, 16, 13⟩
def PWR_SLEW_MAX : Nat := 0xff480000038
def PWR_SLEW_MAX_MA_PER_US : RegFld := ⟨PWR_SLEW_MAX, 0, 16⟩
def PWR_RESET_CMD : Nat := 0xff480000040
def PWR_RESET_CMD_KIND : RegFld := ⟨PWR_RESET_CMD, 0, 2⟩
def PWR_RESET_CMD_CONFIRM : RegFld := ⟨PWR_RESET_CMD, 16, 16⟩
def PWR_RESET_CMD_GO : RegFld := ⟨PWR_RESET_CMD, 63, 1⟩
def PWR_BOOT_STATUS : Nat := 0xff480000048
def PWR_BOOT_STATUS_STEP : RegFld := ⟨PWR_BOOT_STATUS, 0, 4⟩
def PWR_BOOT_STATUS_READY : RegFld := ⟨PWR_BOOT_STATUS, 4, 1⟩
def PWR_BOOT_STATUS_FAIL : RegFld := ⟨PWR_BOOT_STATUS, 5, 1⟩
def PWR_BOOT_STATUS_DEGRADED : RegFld := ⟨PWR_BOOT_STATUS, 6, 1⟩
def PWR_BOOT_STATUS_CODE : RegFld := ⟨PWR_BOOT_STATUS, 8, 8⟩
def PWR_BOOT_STATUS_LAST_RESET : RegFld := ⟨PWR_BOOT_STATUS, 16, 3⟩
def PWR_BOOT_STATUS_SLOT : RegFld := ⟨PWR_BOOT_STATUS, 19, 1⟩
def PWR_BOOT_CFG : Nat := 0xff480000050
def PWR_BOOT_CFG_AUTO_JOIN : RegFld := ⟨PWR_BOOT_CFG, 0, 1⟩
def PWR_ENERGY : Nat := 0xff480000058
def PWR_ENERGY_VAL : RegFld := ⟨PWR_ENERGY, 0, 64⟩
def PWR_THROTTLE_US : Nat := 0xff480000060
def PWR_THROTTLE_US_VAL : RegFld := ⟨PWR_THROTTLE_US, 0, 64⟩
def PWR_LAST_TRIP : Nat := 0xff480000068
def PWR_LAST_TRIP_CAUSE : RegFld := ⟨PWR_LAST_TRIP, 0, 4⟩
def PWR_LAST_TRIP_VALUE : RegFld := ⟨PWR_LAST_TRIP, 16, 16⟩
def PWR_LAST_TRIP_SECONDS : RegFld := ⟨PWR_LAST_TRIP, 32, 32⟩
def PWR_PACE_MAP (n : Nat) : Nat := 0xff480001000 + n * 0x8
def PWR_PACE_MAP_G0 (n : Nat) : RegFld := ⟨(PWR_PACE_MAP n), 0, 6⟩
def PWR_PACE_MAP_G1 (n : Nat) : RegFld := ⟨(PWR_PACE_MAP n), 8, 6⟩
def PWR_PACE_MAP_G2 (n : Nat) : RegFld := ⟨(PWR_PACE_MAP n), 16, 6⟩
def PWR_PACE_MAP_G3 (n : Nat) : RegFld := ⟨(PWR_PACE_MAP n), 24, 6⟩
def PWR_PACE_MAP_G4 (n : Nat) : RegFld := ⟨(PWR_PACE_MAP n), 32, 6⟩
def PWR_PACE_MAP_G5 (n : Nat) : RegFld := ⟨(PWR_PACE_MAP n), 40, 6⟩
def PWR_PACE_MAP_G6 (n : Nat) : RegFld := ⟨(PWR_PACE_MAP n), 48, 6⟩
def PWR_PACE_MAP_G7 (n : Nat) : RegFld := ⟨(PWR_PACE_MAP n), 56, 6⟩
def MBX_EVENT : Nat := 0xff380100000
def MBX_EVENT_BITS : RegFld := ⟨MBX_EVENT, 0, 32⟩
def RING_BAR2_WIN : Nat := 0x1010000000000
def RING_BAR2_WIN_WIN_BASE : RegFld := ⟨RING_BAR2_WIN, 23, 25⟩

/-- Register rows of chapter 2. -/
def regRows2_0 : List RegDef := [
  ⟨0xff000000000, 0x8, 1, 0x8, 1, 32, 0x0, [⟨0, 1, .rw⟩, ⟨1, 1, .rw⟩]⟩,
  ⟨0xff000000008, 0x8, 1, 0x8, 1, 32, 0xff0, [⟨0, 2, .rws⟩, ⟨4, 4, .rws⟩, ⟨8, 4, .rws⟩, ⟨12, 2, .rws⟩, ⟨16, 16, .rws⟩]⟩,
  ⟨0xff000000010, 0x8, 1, 0x8, 1, 32, 0xf0, [⟨0, 3, .ro⟩, ⟨3, 1, .ro⟩, ⟨4, 4, .ro⟩, ⟨8, 4, .ro⟩, ⟨12, 1, .ro⟩, ⟨13, 1, .ro⟩, ⟨16, 16, .ro⟩]⟩,
  ⟨0xff000000018, 0x8, 1, 0x8, 1, 64, 0x0, [⟨0, 48, .ro⟩]⟩,
  ⟨0xff000000020, 0x8, 1, 0x8, 1, 64, 0x0, [⟨0, 32, .ro⟩, ⟨32, 32, .ro⟩]⟩,
  ⟨0xff000000028, 0x8, 1, 0x8, 1, 64, 0x0, [⟨0, 32, .ro⟩]⟩,
  ⟨0xff000000030, 0x8, 1, 0x8, 1, 32, 0x2710, [⟨0, 16, .rw⟩]⟩,
  ⟨0xff000000038, 0x8, 1, 0x8, 1, 32, 0x0, [⟨0, 1, .w1c⟩, ⟨1, 1, .w1c⟩, ⟨2, 1, .w1c⟩, ⟨3, 1, .w1c⟩, ⟨4, 1, .w1c⟩, ⟨5, 1, .w1c⟩, ⟨6, 1, .w1c⟩, ⟨7, 1, .w1c⟩, ⟨8, 1, .w1c⟩]⟩,
  ⟨0xff000000040, 0x8, 1, 0x8, 1, 32, 0x0, [⟨0, 1, .rw⟩, ⟨1, 1, .rw⟩, ⟨2, 1, .rw⟩, ⟨3, 1, .rw⟩, ⟨4, 1, .rw⟩, ⟨5, 1, .rw⟩, ⟨6, 1, .rw⟩, ⟨7, 1, .rw⟩, ⟨8, 1, .rw⟩]⟩,
  ⟨0xff000000048, 0x8, 1, 0x8, 1, 64, 0x0, [⟨0, 64, .rc⟩]⟩,
  ⟨0xff000000050, 0x8, 1, 0x8, 1, 64, 0x0, [⟨0, 64, .rc⟩]⟩,
  ⟨0xff000000058, 0x8, 1, 0x8, 1, 64, 0x0, [⟨0, 48, .ro⟩]⟩,
  ⟨0xff000000060, 0x8, 1, 0x8, 1, 32, 0x0, [⟨0, 30, .ro⟩]⟩,
  ⟨0xff000000068, 0x8, 1, 0x8, 1, 64, 0x0, [⟨0, 48, .wo⟩]⟩,
  ⟨0xff000000100, 0x8, 12, 0x8, 1, 32, 0x0, [⟨0, 32, .rws⟩]⟩,
  ⟨0xff000000200, 0x8, 16, 0x8, 1, 32, 0x0, [⟨0, 32, .rc⟩]⟩,
  ⟨0xff000001000, 0x10, 64, 0x8, 2, 64, 0x0, [⟨0, 64, .ro⟩]⟩,
  ⟨0xff000001400, 0x8, 1, 0x8, 1, 32, 0x0, [⟨0, 6, .ro⟩, ⟨16, 16, .ro⟩]⟩,
  ⟨0xff040000000, 0x8, 1, 0x8, 1, 32, 0x0, [⟨0, 1, .wo⟩, ⟨1, 1, .wo⟩, ⟨2, 1, .wo⟩, ⟨3, 1, .wo⟩, ⟨4, 1, .wo⟩]⟩,
  ⟨0xff040000008, 0x8, 1, 0x8, 1, 64, 0x0, [⟨12, 52, .rw⟩]⟩,
  ⟨0xff040000010, 0x8, 1, 0x8, 1, 32, 0x0, [⟨0, 25, .rw⟩]⟩,
  ⟨0xff040000018, 0x8, 1, 0x8, 1, 64, 0x0, [⟨0, 48, .rw⟩]⟩,
  ⟨0xff040000020, 0x8, 1, 0x8, 1, 64, 0x0, [⟨0, 2, .ro⟩, ⟨2, 1, .ro⟩, ⟨3, 3, .ro⟩, ⟨6, 1, .ro⟩, ⟨7, 1, .ro⟩, ⟨8, 8, .ro⟩, ⟨16, 13, .ro⟩, ⟨29, 1, .ro⟩, ⟨32, 13, .ro⟩]⟩,
  ⟨0xff040000028, 0x8, 1, 0x8, 1, 64, 0x0, [⟨0, 64, .ro⟩]⟩,
  ⟨0xff040000030, 0x8, 1, 0x8, 1, 32, 0x0, [⟨0, 32, .ro⟩]⟩,
  ⟨0xff040000038, 0x8, 1, 0x8, 1, 64, 0x0, [⟨0, 8, .ro⟩, ⟨8, 4, .ro⟩, ⟨12, 4, .ro⟩, ⟨16, 32, .ro⟩]⟩,
  ⟨0xff040000040, 0x8, 1, 0x8, 1, 64, 0x0, [⟨0, 64, .rc⟩]⟩,
  ⟨0xff040000048, 0x8, 1, 0x8, 1, 32, 0x0, [⟨0, 1, .w1c⟩, ⟨1, 1, .w1c⟩, ⟨2, 1, .w1c⟩, ⟨3, 1, .w1c⟩, ⟨4, 1, .w1c⟩]⟩]

/-- Register rows of chapter 3. -/
def regRows3_0 : List RegDef := [
  ⟨0xf0000030000, 0x40000, 4096, 0x8, 1, 32, 0x0, [⟨0, 12, .ro⟩, ⟨12, 8, .ro⟩]⟩,
  ⟨0xf0000030008, 0x40000, 4096, 0x8, 1, 32, 0x0, [⟨0, 12, .rw⟩]⟩,
  ⟨0xf0000030010, 0x40000, 4096, 0x8, 1, 64, 0x0, [⟨0, 48, .rw⟩]⟩,
  ⟨0xf0000030018, 0x40000, 4096, 0x8, 1, 32, 0x0, [⟨0, 16, .rw⟩, ⟨16, 16, .rw⟩]⟩,
  ⟨0xf0000030020, 0x40000, 4096, 0x8, 1, 32, 0x0, [⟨0, 1, .wo⟩]⟩,
  ⟨0xf0000030028, 0x40000, 4096, 0x8, 1, 32, 0x0, [⟨0, 3, .ro⟩, ⟨3, 1, .ro⟩, ⟨4, 1, .ro⟩, ⟨5, 1, .ro⟩, ⟨8, 8, .ro⟩, ⟨16, 6, .ro⟩, ⟨22, 7, .ro⟩]⟩,
  ⟨0xf0000030030, 0x40000, 4096, 0x8, 1, 32, 0x0, [⟨0, 1, .w1c⟩, ⟨1, 1, .w1c⟩, ⟨2, 1, .w1c⟩, ⟨3, 1, .w1c⟩, ⟨4, 1, .w1c⟩, ⟨5, 1, .w1c⟩]⟩,
  ⟨0xf0000030038, 0x40000, 4096, 0x8, 1, 32, 0x0, [⟨0, 1, .rw⟩, ⟨1, 1, .rw⟩, ⟨2, 1, .rw⟩, ⟨3, 1, .rw⟩, ⟨4, 1, .rw⟩, ⟨5, 1, .rw⟩]⟩,
  ⟨0xf0000030040, 0x40000, 4096, 0x8, 1, 32, 0x0, [⟨0, 6, .ro⟩, ⟨8, 6, .ro⟩, ⟨16, 16, .ro⟩]⟩,
  ⟨0xf0000030048, 0x40000, 4096, 0x8, 1, 64, 0x0, [⟨0, 64, .rc⟩]⟩,
  ⟨0xf0000030050, 0x40000, 4096, 0x8, 1, 64, 0x0, [⟨0, 64, .rc⟩]⟩,
  ⟨0xf0000030058, 0x40000, 4096, 0x8, 1, 64, 0x0, [⟨0, 64, .rc⟩]⟩,
  ⟨0xf0000030060, 0x40000, 4096, 0x8, 1, 64, 0x0, [⟨0, 64, .rc⟩]⟩,
  ⟨0xf0000030068, 0x40000, 4096, 0x8, 1, 64, 0x0, [⟨0, 64, .rc⟩]⟩,
  ⟨0xf0000030070, 0x40000, 4096, 0x8, 1, 64, 0x0, [⟨0, 64, .rc⟩]⟩,
  ⟨0xff080000000, 0x8, 64, 0x8, 1, 32, 0x7f, [⟨0, 7, .ro⟩, ⟨7, 1, .ro⟩]⟩,
  ⟨0xff080000200, 0x8, 65, 0x8, 1, 64, 0x0, [⟨0, 64, .ro⟩]⟩,
  ⟨0xff080000800, 0x8, 1, 0x8, 1, 32, 0x0, [⟨0, 6, .wo⟩, ⟨8, 6, .wo⟩, ⟨16, 1, .wo⟩, ⟨31, 1, .wo⟩]⟩,
  ⟨0xff080000808, 0x8, 1, 0x8, 1, 32, 0x0, [⟨0, 1, .ro⟩, ⟨8, 8, .ro⟩]⟩,
  ⟨0xff080000810, 0x8, 1, 0x8, 1, 32, 0x0, [⟨0, 1, .w1c⟩, ⟨1, 1, .w1c⟩, ⟨2, 1, .w1c⟩, ⟨3, 1, .w1c⟩]⟩,
  ⟨0xff080000818, 0x8, 1, 0x8, 1, 32, 0x0, [⟨0, 1, .rw⟩, ⟨1, 1, .rw⟩, ⟨2, 1, .rw⟩, ⟨3, 1, .rw⟩]⟩,
  ⟨0xff080001000, 0x8, 64, 0x8, 1, 64, 0x0, [⟨0, 64, .ro⟩]⟩]

/-- Register rows of chapter 6. -/
def regRows6_0 : List RegDef := [
  ⟨0xff0c0000000, 0x8, 1, 0x8, 1, 32, 0x0, [⟨0, 1, .w1c⟩, ⟨1, 1, .w1c⟩, ⟨2, 1, .w1c⟩, ⟨3, 1, .w1c⟩, ⟨4, 1, .w1c⟩, ⟨5, 1, .w1c⟩, ⟨6, 1, .w1c⟩]⟩,
  ⟨0xff0c0000008, 0x8, 1, 0x8, 1, 32, 0x0, [⟨0, 1, .rw⟩, ⟨1, 1, .rw⟩, ⟨2, 1, .rw⟩, ⟨3, 1, .rw⟩, ⟨4, 1, .rw⟩, ⟨5, 1, .rw⟩, ⟨6, 1, .rw⟩]⟩,
  ⟨0xff0c0000010, 0x8, 1, 0x8, 1, 64, 0x0, [⟨0, 64, .rc⟩]⟩,
  ⟨0xff0c0000018, 0x8, 1, 0x8, 1, 64, 0x0, [⟨0, 64, .rc⟩]⟩,
  ⟨0xff0c0000020, 0x8, 1, 0x8, 1, 64, 0x0, [⟨0, 64, .rc⟩]⟩,
  ⟨0xff0c0000028, 0x8, 1, 0x8, 1, 64, 0x0, [⟨0, 64, .rc⟩]⟩,
  ⟨0xff0c0000030, 0x8, 1, 0x8, 1, 64, 0x0, [⟨0, 64, .rc⟩]⟩,
  ⟨0xff0c0000038, 0x8, 1, 0x8, 1, 64, 0x0, [⟨0, 64, .rc⟩]⟩,
  ⟨0xff0c0000040, 0x8, 1, 0x8, 1, 64, 0x0, [⟨0, 64, .rc⟩]⟩,
  ⟨0xff0c0000048, 0x8, 1, 0x8, 1, 64, 0x0, [⟨0, 12, .ro⟩, ⟨12, 1, .ro⟩, ⟨13, 3, .ro⟩, ⟨16, 8, .ro⟩, ⟨24, 8, .ro⟩]⟩,
  ⟨0xff0c0100000, 0x20, 65536, 0x8, 1, 64, 0x0, [⟨6, 42, .rw⟩]⟩,
  ⟨0xff0c0100008, 0x20, 65536, 0x8, 1, 32, 0x8, [⟨0, 1, .rw⟩, ⟨1, 5, .rw⟩]⟩,
  ⟨0xff0c0100010, 0x20, 65536, 0x8, 1, 64, 0x0, [⟨0, 17, .ro⟩, ⟨32, 17, .ro⟩]⟩,
  ⟨0xff0c0100018, 0x20, 65536, 0x8, 1, 64, 0x0, [⟨0, 32, .rc⟩]⟩,
  ⟨0xff0c0400000, 0x400, 4096, 0x40, 16, 64, 0x0, [⟨0, 3, .ro⟩, ⟨8, 8, .ro⟩, ⟨16, 16, .ro⟩]⟩,
  ⟨0xff0c0400008, 0x400, 4096, 0x40, 16, 64, 0x0, [⟨0, 32, .ro⟩, ⟨32, 32, .ro⟩]⟩,
  ⟨0xff0c0400010, 0x400, 4096, 0x40, 16, 64, 0x0, [⟨0, 32, .ro⟩, ⟨32, 32, .ro⟩]⟩,
  ⟨0xff0c0400018, 0x400, 4096, 0x40, 16, 64, 0x0, [⟨0, 32, .ro⟩, ⟨32, 32, .ro⟩]⟩,
  ⟨0xff0c0400020, 0x400, 4096, 0x40, 16, 64, 0x0, [⟨0, 48, .ro⟩]⟩,
  ⟨0xff0c0400028, 0x400, 4096, 0x40, 16, 64, 0x0, [⟨0, 57, .ro⟩, ⟨63, 1, .ro⟩]⟩,
  ⟨0xff0c0400030, 0x400, 4096, 0x40, 16, 64, 0x0, [⟨0, 64, .ro⟩]⟩,
  ⟨0xff0c0400038, 0x400, 4096, 0x40, 16, 64, 0x0, []⟩]

/-- Register rows of chapter 7. -/
def regRows7_0 : List RegDef := [
  ⟨0xff100000000, 0x8, 1, 0x8, 1, 32, 0x0, [⟨0, 1, .w1c⟩, ⟨1, 1, .w1c⟩, ⟨2, 1, .w1c⟩, ⟨3, 1, .w1c⟩, ⟨4, 1, .w1c⟩, ⟨5, 1, .w1c⟩, ⟨6, 1, .w1c⟩, ⟨7, 1, .w1c⟩, ⟨8, 1, .w1c⟩, ⟨9, 1, .w1c⟩, ⟨10, 1, .w1c⟩, ⟨11, 1, .w1c⟩, ⟨12, 1, .w1c⟩]⟩,
  ⟨0xff100000008, 0x8, 1, 0x8, 1, 32, 0x0, [⟨0, 1, .rw⟩, ⟨1, 1, .rw⟩, ⟨2, 1, .rw⟩, ⟨3, 1, .rw⟩, ⟨4, 1, .rw⟩, ⟨5, 1, .rw⟩, ⟨6, 1, .rw⟩, ⟨7, 1, .rw⟩, ⟨8, 1, .rw⟩, ⟨9, 1, .rw⟩, ⟨10, 1, .rw⟩, ⟨11, 1, .rw⟩, ⟨12, 1, .rw⟩]⟩,
  ⟨0xff100000010, 0x8, 1, 0x8, 1, 64, 0x0, [⟨0, 64, .rc⟩]⟩,
  ⟨0xff100000018, 0x8, 1, 0x8, 1, 64, 0x0, [⟨0, 64, .rc⟩]⟩,
  ⟨0xff100000020, 0x8, 1, 0x8, 1, 64, 0x0, [⟨0, 64, .rc⟩]⟩,
  ⟨0xff100000028, 0x8, 1, 0x8, 1, 64, 0x0, [⟨0, 64, .rc⟩]⟩,
  ⟨0xff100000030, 0x8, 1, 0x8, 1, 32, 0x1864410, [⟨0, 8, .rw⟩, ⟨8, 4, .rw⟩, ⟨12, 4, .rw⟩, ⟨16, 3, .rw⟩, ⟨20, 4, .rw⟩, ⟨24, 1, .rw⟩]⟩,
  ⟨0xff100000038, 0x8, 1, 0x8, 1, 32, 0x401008, [⟨0, 4, .rw⟩, ⟨8, 8, .rw⟩, ⟨16, 16, .rw⟩]⟩,
  ⟨0xff100000040, 0x8, 1, 0x8, 1, 64, 0x0, [⟨0, 64, .rc⟩]⟩,
  ⟨0xff100000048, 0x8, 1, 0x8, 1, 64, 0x0, [⟨0, 64, .rc⟩]⟩,
  ⟨0xff100000050, 0x8, 1, 0x8, 1, 32, 0x10c0c, [⟨0, 8, .rw⟩, ⟨8, 8, .rw⟩, ⟨16, 1, .rw⟩]⟩,
  ⟨0xff100000058, 0x8, 1, 0x8, 1, 32, 0x0, [⟨0, 16, .ro⟩, ⟨16, 16, .ro⟩]⟩,
  ⟨0xff100000060, 0x8, 1, 0x8, 1, 32, 0x1004004, [⟨0, 8, .rw⟩, ⟨8, 16, .rw⟩, ⟨24, 1, .rw⟩]⟩,
  ⟨0xff100000068, 0x8, 1, 0x8, 1, 64, 0x0, [⟨0, 3, .wo⟩, ⟨3, 5, .wo⟩, ⟨8, 8, .wo⟩, ⟨16, 20, .wo⟩, ⟨36, 4, .wo⟩, ⟨63, 1, .wo⟩]⟩,
  ⟨0xff100000070, 0x8, 1, 0x8, 1, 32, 0x0, [⟨0, 1, .ro⟩, ⟨8, 8, .ro⟩]⟩,
  ⟨0xff100000078, 0x8, 1, 0x8, 1, 32, 0x0, [⟨0, 20, .rw⟩]⟩,
  ⟨0xff100000080, 0x8, 1, 0x8, 1, 32, 0x0, [⟨0, 4, .ro⟩, ⟨4, 1, .ro⟩, ⟨5, 4, .ro⟩, ⟨9, 1, .ro⟩, ⟨10, 15, .ro⟩]⟩,
  ⟨0xff100000088, 0x8, 1, 0x8, 1, 32, 0x0, [⟨0, 1, .ro⟩, ⟨1, 1, .ro⟩, ⟨2, 9, .ro⟩, ⟨16, 16, .ro⟩]⟩,
  ⟨0xff100000090, 0x8, 1, 0x8, 1, 32, 0x0, [⟨0, 6, .ro⟩, ⟨16, 16, .ro⟩]⟩,
  ⟨0xff100000100, 0x8, 16, 0x8, 1, 64, 0x0, [⟨0, 4, .ro⟩, ⟨4, 1, .ro⟩, ⟨5, 1, .ro⟩, ⟨6, 1, .ro⟩, ⟨8, 29, .ro⟩]⟩,
  ⟨0xff100000200, 0x8, 48, 0x8, 1, 64, 0x0, [⟨0, 6, .ro⟩, ⟨6, 5, .ro⟩, ⟨11, 1, .ro⟩, ⟨12, 1, .ro⟩, ⟨13, 1, .ro⟩, ⟨16, 29, .ro⟩]⟩,
  ⟨0xff100000400, 0x8, 304, 0x8, 1, 32, 0x0, [⟨0, 16, .ro⟩, ⟨16, 8, .ro⟩]⟩,
  ⟨0xff100001000, 0x20, 64, 0x8, 4, 64, 0x0, [⟨0, 64, .ro⟩]⟩]

/-- Register rows of chapter 8. -/
def regRows8_0 : List RegDef := [
  ⟨0xff140000000, 0x8, 1, 0x8, 1, 32, 0x0, [⟨0, 1, .w1c⟩, ⟨1, 1, .w1c⟩, ⟨2, 1, .w1c⟩, ⟨3, 1, .w1c⟩, ⟨4, 1, .w1c⟩, ⟨5, 1, .w1c⟩]⟩,
  ⟨0xff140000008, 0x8, 1, 0x8, 1, 32, 0x0, [⟨0, 1, .rw⟩, ⟨1, 1, .rw⟩, ⟨2, 1, .rw⟩, ⟨3, 1, .rw⟩, ⟨4, 1, .rw⟩, ⟨5, 1, .rw⟩]⟩,
  ⟨0xff140000010, 0x8, 1, 0x8, 1, 64, 0x0, [⟨0, 64, .rc⟩]⟩,
  ⟨0xff140000018, 0x8, 1, 0x8, 1, 64, 0x0, [⟨0, 64, .rc⟩]⟩,
  ⟨0xff140000020, 0x8, 1, 0x8, 1, 64, 0x0, [⟨0, 64, .rc⟩]⟩,
  ⟨0xff140000028, 0x8, 1, 0x8, 1, 64, 0x0, [⟨0, 64, .rc⟩]⟩,
  ⟨0xff140000030, 0x8, 1, 0x8, 1, 64, 0x0, [⟨0, 12, .ro⟩, ⟨12, 3, .ro⟩, ⟨15, 1, .ro⟩, ⟨16, 48, .ro⟩]⟩,
  ⟨0xff140000038, 0x8, 1, 0x8, 1, 32, 0x0, [⟨0, 4, .ro⟩]⟩,
  ⟨0xff140010000, 0x100, 16, 0x8, 1, 64, 0x0, [⟨12, 52, .rw⟩]⟩,
  ⟨0xff140010008, 0x100, 16, 0x8, 1, 32, 0x0, [⟨0, 32, .ro⟩]⟩,
  ⟨0xff140010010, 0x100, 16, 0x8, 1, 32, 0x0, [⟨0, 32, .rw⟩]⟩,
  ⟨0xff140010018, 0x100, 16, 0x8, 1, 32, 0x0, [⟨0, 1, .rw⟩, ⟨16, 16, .rw⟩]⟩,
  ⟨0xff140010020, 0x100, 16, 0x8, 1, 32, 0x0, [⟨0, 10, .ro⟩, ⟨10, 7, .ro⟩, ⟨17, 1, .ro⟩, ⟨18, 1, .ro⟩]⟩,
  ⟨0xff140100000, 0x10, 4096, 0x8, 1, 64, 0x0, [⟨0, 1, .ro⟩, ⟨1, 1, .ro⟩, ⟨12, 36, .ro⟩]⟩,
  ⟨0xff140100008, 0x10, 4096, 0x8, 1, 64, 0x0, [⟨0, 32, .ro⟩, ⟨32, 32, .ro⟩]⟩]

/-- Register rows of chapter 9. -/
def regRows9_0 : List RegDef := [
  ⟨0xff180000000, 0x8, 1, 0x8, 1, 32, 0x0, [⟨0, 1, .w1c⟩, ⟨1, 1, .w1c⟩, ⟨2, 1, .w1c⟩, ⟨3, 1, .w1c⟩, ⟨4, 1, .w1c⟩, ⟨5, 1, .w1c⟩, ⟨6, 1, .w1c⟩, ⟨7, 1, .w1c⟩, ⟨8, 1, .w1c⟩, ⟨9, 1, .w1c⟩, ⟨10, 1, .w1c⟩]⟩,
  ⟨0xff180000008, 0x8, 1, 0x8, 1, 32, 0x0, [⟨0, 1, .rw⟩, ⟨1, 1, .rw⟩, ⟨2, 1, .rw⟩, ⟨3, 1, .rw⟩, ⟨4, 1, .rw⟩, ⟨5, 1, .rw⟩, ⟨6, 1, .rw⟩, ⟨7, 1, .rw⟩, ⟨8, 1, .rw⟩, ⟨9, 1, .rw⟩, ⟨10, 1, .rw⟩]⟩,
  ⟨0xff180000010, 0x8, 1, 0x8, 1, 64, 0x0, [⟨0, 64, .rc⟩]⟩,
  ⟨0xff180000018, 0x8, 1, 0x8, 1, 64, 0x0, [⟨0, 64, .rc⟩]⟩,
  ⟨0xff180000020, 0x8, 1, 0x8, 1, 64, 0x0, [⟨0, 64, .rc⟩]⟩,
  ⟨0xff180000028, 0x8, 1, 0x8, 1, 64, 0x0, [⟨0, 64, .rc⟩]⟩,
  ⟨0xff180000030, 0x8, 1, 0x8, 1, 64, 0x0, [⟨0, 64, .rc⟩]⟩,
  ⟨0xff180000038, 0x8, 1, 0x8, 1, 64, 0x0, [⟨0, 64, .rc⟩]⟩,
  ⟨0xff180000040, 0x8, 1, 0x8, 1, 64, 0x0, [⟨0, 64, .rc⟩]⟩,
  ⟨0xff180000048, 0x8, 1, 0x8, 1, 64, 0x0, [⟨0, 64, .rc⟩]⟩,
  ⟨0xff180000050, 0x8, 1, 0x8, 1, 64, 0x0, [⟨0, 64, .rc⟩]⟩,
  ⟨0xff180000058, 0x8, 1, 0x8, 1, 32, 0x82080400, [⟨0, 16, .rw⟩, ⟨16, 8, .rw⟩, ⟨24, 7, .rw⟩, ⟨31, 1, .rw⟩]⟩,
  ⟨0xff180000100, 0x8, 16, 0x8, 1, 64, 0x0, [⟨0, 3, .ro⟩, ⟨8, 8, .ro⟩, ⟨16, 12, .ro⟩, ⟨32, 16, .ro⟩, ⟨48, 16, .ro⟩]⟩,
  ⟨0xff180000200, 0x8, 16, 0x8, 1, 64, 0x0, [⟨0, 32, .ro⟩, ⟨32, 32, .ro⟩]⟩,
  ⟨0xff180000300, 0x8, 16, 0x8, 1, 64, 0x0, [⟨0, 32, .ro⟩, ⟨32, 32, .ro⟩]⟩,
  ⟨0xff180000400, 0x8, 16, 0x8, 1, 64, 0x0, [⟨0, 1, .ro⟩, ⟨1, 1, .ro⟩, ⟨2, 1, .ro⟩, ⟨16, 32, .ro⟩]⟩]

/-- Register rows of chapter 10. -/
def regRows10_0 : List RegDef := [
  ⟨0xff1c0000000, 0x8, 1, 0x8, 1, 32, 0x0, [⟨0, 1, .w1c⟩, ⟨1, 1, .w1c⟩, ⟨2, 1, .w1c⟩, ⟨3, 1, .w1c⟩, ⟨4, 1, .w1c⟩, ⟨5, 1, .w1c⟩, ⟨6, 1, .w1c⟩, ⟨7, 1, .w1c⟩, ⟨8, 1, .w1c⟩]⟩,
  ⟨0xff1c0000008, 0x8, 1, 0x8, 1, 32, 0x0, [⟨0, 1, .rw⟩, ⟨1, 1, .rw⟩, ⟨2, 1, .rw⟩, ⟨3, 1, .rw⟩, ⟨4, 1, .rw⟩, ⟨5, 1, .rw⟩, ⟨6, 1, .rw⟩, ⟨7, 1, .rw⟩, ⟨8, 1, .rw⟩]⟩,
  ⟨0xff1c0000010, 0x8, 1, 0x8, 1, 64, 0x0, [⟨0, 64, .rc⟩]⟩,
  ⟨0xff1c0000018, 0x8, 1, 0x8, 1, 64, 0x0, [⟨0, 64, .rc⟩]⟩,
  ⟨0xff1c0000020, 0x8, 1, 0x8, 1, 64, 0x0, [⟨0, 64, .rc⟩]⟩,
  ⟨0xff1c0000028, 0x8, 1, 0x8, 1, 64, 0x0, [⟨0, 64, .rc⟩]⟩,
  ⟨0xff1c0000030, 0x8, 1, 0x8, 1, 64, 0x0, [⟨0, 64, .rc⟩]⟩,
  ⟨0xff1c0000038, 0x8, 1, 0x8, 1, 64, 0x0, [⟨0, 64, .rc⟩]⟩,
  ⟨0xff1c0000040, 0x8, 1, 0x8, 1, 64, 0x0, [⟨0, 64, .rc⟩]⟩,
  ⟨0xff1c0000048, 0x8, 1, 0x8, 1, 64, 0x0, [⟨0, 64, .rc⟩]⟩,
  ⟨0xff1c0000050, 0x8, 1, 0x8, 1, 64, 0x0, [⟨0, 64, .rc⟩]⟩,
  ⟨0xff1c0000058, 0x8, 1, 0x8, 1, 32, 0x33a9c, [⟨0, 16, .rw⟩, ⟨16, 1, .rw⟩, ⟨17, 1, .rw⟩]⟩,
  ⟨0xff1c0000060, 0x8, 1, 0x8, 1, 64, 0x73e8000100050, [⟨0, 16, .rw⟩, ⟨16, 16, .rw⟩, ⟨32, 16, .rw⟩, ⟨48, 3, .ro⟩]⟩,
  ⟨0xff1c0000068, 0x8, 1, 0x8, 1, 32, 0x4007d010, [⟨0, 8, .rw⟩, ⟨8, 16, .rw⟩, ⟨24, 8, .rw⟩]⟩,
  ⟨0xff1c0000070, 0x8, 1, 0x8, 1, 32, 0x0, [⟨0, 20, .rw⟩]⟩,
  ⟨0xff1c0000078, 0x8, 1, 0x8, 1, 64, 0x0, [⟨0, 3, .ro⟩, ⟨3, 3, .ro⟩, ⟨6, 1, .ro⟩, ⟨7, 1, .ro⟩, ⟨8, 8, .ro⟩, ⟨16, 20, .ro⟩]⟩,
  ⟨0xff1c0000080, 0x8, 1, 0x8, 1, 64, 0x0, [⟨0, 24, .ro⟩, ⟨32, 24, .ro⟩]⟩,
  ⟨0xff1c0000088, 0x8, 1, 0x8, 1, 64, 0x0, [⟨0, 24, .ro⟩, ⟨32, 24, .ro⟩]⟩,
  ⟨0xff1c0000090, 0x8, 1, 0x8, 1, 64, 0x0, [⟨0, 32, .ro⟩, ⟨32, 32, .ro⟩]⟩,
  ⟨0xff1c0000098, 0x8, 1, 0x8, 1, 32, 0x0, [⟨0, 24, .rw⟩, ⟨24, 4, .rw⟩]⟩,
  ⟨0xff1c00000a0, 0x8, 1, 0x8, 1, 64, 0x0, [⟨0, 2, .ro⟩, ⟨2, 8, .ro⟩, ⟨10, 16, .ro⟩, ⟨26, 1, .ro⟩, ⟨27, 1, .ro⟩, ⟨28, 20, .ro⟩]⟩]

/-- Register rows of chapter 11. -/
def regRows11_0 : List RegDef := [
  ⟨0xff200000000, 0x8, 1, 0x8, 1, 32, 0x0, [⟨0, 1, .w1c⟩, ⟨1, 1, .w1c⟩, ⟨2, 1, .w1c⟩, ⟨3, 1, .w1c⟩, ⟨4, 1, .w1c⟩, ⟨5, 1, .w1c⟩]⟩,
  ⟨0xff200000008, 0x8, 1, 0x8, 1, 32, 0x0, [⟨0, 1, .rw⟩, ⟨1, 1, .rw⟩, ⟨2, 1, .rw⟩, ⟨3, 1, .rw⟩, ⟨4, 1, .rw⟩, ⟨5, 1, .rw⟩]⟩,
  ⟨0xff200000010, 0x8, 1, 0x8, 1, 32, 0x84040, [⟨0, 8, .rw⟩, ⟨8, 8, .rw⟩, ⟨16, 8, .rw⟩]⟩,
  ⟨0xff200000018, 0x8, 1, 0x8, 1, 64, 0xa07d0408007d0, [⟨0, 16, .rw⟩, ⟨16, 8, .rw⟩, ⟨24, 8, .rw⟩, ⟨32, 16, .rw⟩, ⟨48, 8, .rw⟩]⟩,
  ⟨0xff200000020, 0x8, 1, 0x8, 1, 64, 0x64850032000a, [⟨0, 16, .rw⟩, ⟨16, 16, .rw⟩, ⟨32, 4, .rw⟩, ⟨36, 4, .rw⟩, ⟨40, 7, .rw⟩]⟩,
  ⟨0xff200000028, 0x8, 1, 0x8, 1, 64, 0x101f410000400, [⟨0, 16, .rw⟩, ⟨16, 16, .rw⟩, ⟨32, 16, .rw⟩, ⟨48, 1, .rw⟩]⟩,
  ⟨0xff200000030, 0x8, 1, 0x8, 1, 32, 0x6408, [⟨0, 5, .rw⟩, ⟨8, 16, .rw⟩]⟩,
  ⟨0xff200000038, 0x8, 1, 0x8, 1, 32, 0x10003, [⟨0, 3, .rw⟩, ⟨8, 16, .rw⟩]⟩,
  ⟨0xff200000040, 0x8, 1, 0x8, 1, 64, 0x0, [⟨0, 32, .ro⟩]⟩,
  ⟨0xff200000048, 0x8, 1, 0x8, 1, 64, 0x0, [⟨0, 64, .rc⟩]⟩,
  ⟨0xff200000050, 0x8, 1, 0x8, 1, 64, 0x0, [⟨0, 64, .rc⟩]⟩,
  ⟨0xff200000058, 0x8, 1, 0x8, 1, 64, 0x0, [⟨0, 64, .rc⟩]⟩,
  ⟨0xff200000060, 0x8, 1, 0x8, 1, 64, 0x0, [⟨0, 64, .rc⟩]⟩,
  ⟨0xff200000068, 0x8, 1, 0x8, 1, 64, 0x0, [⟨0, 64, .rc⟩]⟩,
  ⟨0xff200000070, 0x8, 1, 0x8, 1, 64, 0x0, [⟨0, 64, .rc⟩]⟩,
  ⟨0xff200000078, 0x8, 1, 0x8, 1, 64, 0x0, [⟨0, 64, .rc⟩]⟩,
  ⟨0xff200000080, 0x8, 1, 0x8, 1, 32, 0x64, [⟨0, 7, .ro⟩]⟩,
  ⟨0xff200000088, 0x8, 1, 0x8, 1, 32, 0x0, [⟨0, 20, .rw⟩]⟩,
  ⟨0xff200000090, 0x8, 1, 0x8, 1, 64, 0x0, [⟨0, 16, .ro⟩, ⟨16, 16, .ro⟩, ⟨32, 32, .ro⟩]⟩,
  ⟨0xff200000098, 0x8, 1, 0x8, 1, 64, 0x0, [⟨0, 64, .ro⟩]⟩,
  ⟨0xff200001000, 0x40, 12, 0x10, 3, 64, 0x40000000000, [⟨0, 16, .rw⟩, ⟨16, 16, .rw⟩, ⟨32, 16, .rw⟩, ⟨48, 1, .rw⟩]⟩,
  ⟨0xff200001008, 0x40, 12, 0x10, 3, 64, 0x0, [⟨0, 32, .ro⟩]⟩,
  ⟨0xff200002000, 0x40, 12, 0x10, 3, 64, 0x40000000000, [⟨0, 16, .rw⟩, ⟨16, 16, .rw⟩, ⟨32, 16, .rw⟩, ⟨48, 1, .rw⟩, ⟨49, 1, .rw⟩]⟩,
  ⟨0xff200002008, 0x40, 12, 0x10, 3, 64, 0x0, [⟨0, 32, .ro⟩]⟩]

/-- Register rows of chapter 12. -/
def regRows12_0 : List RegDef := [
  ⟨0xff240000000, 0x8, 1, 0x8, 1, 32, 0x0, [⟨0, 1, .w1c⟩, ⟨1, 1, .w1c⟩, ⟨2, 1, .w1c⟩, ⟨3, 1, .w1c⟩, ⟨4, 1, .w1c⟩, ⟨5, 1, .w1c⟩, ⟨6, 1, .w1c⟩]⟩,
  ⟨0xff240000008, 0x8, 1, 0x8, 1, 32, 0x0, [⟨0, 1, .rw⟩, ⟨1, 1, .rw⟩, ⟨2, 1, .rw⟩, ⟨3, 1, .rw⟩, ⟨4, 1, .rw⟩, ⟨5, 1, .rw⟩, ⟨6, 1, .rw⟩]⟩,
  ⟨0xff240000010, 0x8, 1, 0x8, 1, 64, 0x0, [⟨0, 64, .rc⟩]⟩,
  ⟨0xff240000018, 0x8, 1, 0x8, 1, 64, 0x0, [⟨0, 64, .rc⟩]⟩,
  ⟨0xff240000020, 0x8, 1, 0x8, 1, 64, 0x0, [⟨0, 64, .rc⟩]⟩,
  ⟨0xff240000028, 0x8, 1, 0x8, 1, 64, 0x0, [⟨0, 64, .rc⟩]⟩,
  ⟨0xff240000030, 0x8, 1, 0x8, 1, 64, 0x0, [⟨0, 64, .rc⟩]⟩,
  ⟨0xff240000038, 0x8, 1, 0x8, 1, 64, 0x0, [⟨0, 64, .rc⟩]⟩,
  ⟨0xff240000040, 0x8, 1, 0x8, 1, 64, 0x0, [⟨0, 64, .rc⟩]⟩,
  ⟨0xff240000048, 0x8, 1, 0x8, 1, 64, 0x303e8000088b5, [⟨0, 16, .rw⟩, ⟨16, 16, .rw⟩, ⟨32, 16, .rw⟩, ⟨48, 2, .rw⟩]⟩,
  ⟨0xff240000050, 0x8, 1, 0x8, 1, 32, 0x4020, [⟨0, 8, .rw⟩, ⟨8, 8, .rw⟩]⟩,
  ⟨0xff240000058, 0x8, 1, 0x8, 1, 64, 0x0, [⟨0, 64, .rc⟩]⟩,
  ⟨0xff240000060, 0x8, 1, 0x8, 1, 32, 0x0, [⟨0, 10, .rw⟩]⟩,
  ⟨0xff240000068, 0x8, 1, 0x8, 1, 64, 0x0, [⟨0, 2, .ro⟩, ⟨8, 8, .ro⟩, ⟨16, 16, .ro⟩, ⟨32, 32, .ro⟩]⟩,
  ⟨0xff240000070, 0x8, 1, 0x8, 1, 64, 0x0, [⟨0, 5, .ro⟩, ⟨8, 12, .ro⟩, ⟨20, 7, .ro⟩, ⟨27, 5, .ro⟩, ⟨32, 10, .ro⟩, ⟨42, 10, .ro⟩]⟩,
  ⟨0xff240010000, 0x100, 16, 0x8, 1, 64, 0x0, [⟨0, 64, .rw⟩]⟩,
  ⟨0xff240010008, 0x100, 16, 0x8, 1, 64, 0x0, [⟨0, 64, .rw⟩]⟩,
  ⟨0xff240010010, 0x100, 16, 0x8, 1, 32, 0x0, [⟨0, 10, .wo⟩, ⟨12, 4, .wo⟩, ⟨16, 4, .wo⟩, ⟨31, 1, .wo⟩]⟩,
  ⟨0xff240010018, 0x100, 16, 0x8, 1, 32, 0x0, [⟨8, 8, .ro⟩, ⟨16, 16, .ro⟩]⟩]

/-- Register rows of chapter 13. -/
def regRows13_0 : List RegDef := [
  ⟨0xff280000000, 0x8, 1, 0x8, 1, 32, 0x0, [⟨0, 1, .w1c⟩, ⟨1, 1, .w1c⟩, ⟨2, 1, .w1c⟩, ⟨3, 1, .w1c⟩, ⟨4, 1, .w1c⟩, ⟨5, 1, .w1c⟩, ⟨6, 1, .w1c⟩, ⟨7, 1, .w1c⟩, ⟨8, 1, .w1c⟩, ⟨9, 1, .w1c⟩]⟩,
  ⟨0xff280000008, 0x8, 1, 0x8, 1, 32, 0x0, [⟨0, 1, .rw⟩, ⟨1, 1, .rw⟩, ⟨2, 1, .rw⟩, ⟨3, 1, .rw⟩, ⟨4, 1, .rw⟩, ⟨5, 1, .rw⟩, ⟨6, 1, .rw⟩, ⟨7, 1, .rw⟩, ⟨8, 1, .rw⟩, ⟨9, 1, .rw⟩]⟩,
  ⟨0xff280000010, 0x8, 1, 0x8, 1, 32, 0x0, [⟨0, 16, .rws⟩]⟩,
  ⟨0xff280000018, 0x8, 1, 0x8, 1, 32, 0x100108, [⟨0, 4, .rw⟩, ⟨8, 1, .rw⟩, ⟨16, 8, .rw⟩]⟩,
  ⟨0xff280000020, 0x8, 1, 0x8, 1, 32, 0x0, [⟨0, 7, .wo⟩, ⟨31, 1, .wo⟩]⟩,
  ⟨0xff280000028, 0x8, 1, 0x8, 1, 32, 0x0, [⟨0, 1, .ro⟩, ⟨8, 8, .ro⟩]⟩,
  ⟨0xff280000030, 0x8, 1, 0x8, 1, 64, 0x0, [⟨0, 64, .rc⟩]⟩,
  ⟨0xff280000038, 0x8, 1, 0x8, 1, 64, 0x0, [⟨0, 64, .rc⟩]⟩,
  ⟨0xff280000100, 0x8, 12, 0x8, 1, 32, 0x0, [⟨0, 1, .rws⟩, ⟨1, 1, .rws⟩, ⟨2, 3, .rws⟩]⟩,
  ⟨0xff280000180, 0x8, 12, 0x8, 1, 32, 0x0, [⟨0, 1, .ro⟩, ⟨1, 1, .ro⟩, ⟨2, 1, .ro⟩, ⟨8, 8, .ro⟩]⟩,
  ⟨0xff280000200, 0x8, 4, 0x8, 1, 32, 0x1f1f, [⟨0, 5, .ro⟩, ⟨8, 5, .ro⟩, ⟨5, 1, .ro⟩, ⟨13, 1, .ro⟩]⟩,
  ⟨0xff280000300, 0x8, 12, 0x8, 1, 64, 0x40020001000, [⟨0, 16, .rw⟩, ⟨16, 16, .rw⟩, ⟨32, 16, .rw⟩]⟩,
  ⟨0xff280000400, 0x8, 96, 0x8, 1, 32, 0x0, [⟨0, 3, .ro⟩, ⟨4, 3, .ro⟩, ⟨7, 1, .ro⟩, ⟨8, 5, .ro⟩]⟩,
  ⟨0xff280000800, 0x8, 96, 0x8, 1, 64, 0x0, [⟨0, 64, .rc⟩]⟩,
  ⟨0xff280000c00, 0x8, 96, 0x8, 1, 64, 0x0, [⟨0, 64, .rc⟩]⟩,
  ⟨0xff280001000, 0x8, 96, 0x8, 1, 64, 0x0, [⟨0, 64, .rc⟩]⟩,
  ⟨0xff280001400, 0x8, 24, 0x8, 1, 64, 0x0, [⟨0, 64, .rc⟩]⟩,
  ⟨0xff280100000, 0x2000, 24, 0x8, 1024, 64, 0x0, [⟨0, 64, .rw⟩]⟩,
  ⟨0xff280140000, 0x200, 16, 0x8, 64, 32, 0x0, [⟨0, 16, .rw⟩, ⟨16, 1, .rw⟩]⟩,
  ⟨0xff280200000, 0x8, 65536, 0x8, 1, 64, 0x0, [⟨0, 5, .rw⟩, ⟨5, 5, .rw⟩, ⟨10, 5, .rw⟩, ⟨15, 5, .rw⟩, ⟨20, 5, .rw⟩, ⟨25, 5, .rw⟩, ⟨30, 5, .rw⟩, ⟨35, 5, .rw⟩, ⟨40, 4, .rw⟩]⟩,
  ⟨0xff280280000, 0x8, 4096, 0x8, 1, 64, 0x0, [⟨0, 32, .rw⟩, ⟨32, 1, .rw⟩]⟩,
  ⟨0xff2c0000000, 0x8, 1, 0x8, 1, 32, 0x0, [⟨0, 1, .w1c⟩, ⟨1, 1, .w1c⟩, ⟨2, 1, .w1c⟩, ⟨3, 1, .w1c⟩]⟩,
  ⟨0xff2c0000008, 0x8, 1, 0x8, 1, 32, 0x0, [⟨0, 1, .rw⟩, ⟨1, 1, .rw⟩, ⟨2, 1, .rw⟩, ⟨3, 1, .rw⟩]⟩,
  ⟨0xff2c0000010, 0x8, 1, 0x8, 1, 32, 0x7632, [⟨0, 3, .rw⟩, ⟨4, 3, .rw⟩, ⟨8, 3, .rw⟩, ⟨12, 3, .rw⟩]⟩,
  ⟨0xff2c0000018, 0x8, 1, 0x8, 1, 32, 0x88b6, [⟨0, 16, .rw⟩]⟩,
  ⟨0xff2c0000100, 0x8, 24, 0x8, 1, 64, 0x0, [⟨0, 48, .rws⟩]⟩,
  ⟨0xff2c0000200, 0x8, 24, 0x8, 1, 64, 0x0, [⟨0, 48, .rw⟩]⟩,
  ⟨0xff2c0000300, 0x8, 24, 0x8, 1, 32, 0x2400, [⟨0, 14, .rw⟩, ⟨14, 2, .rw⟩, ⟨16, 12, .rw⟩, ⟨28, 1, .rw⟩, ⟨29, 1, .rw⟩]⟩,
  ⟨0xff2c0000400, 0x8, 24, 0x8, 1, 64, 0xcffff00400050, [⟨0, 16, .rw⟩, ⟨16, 16, .rw⟩, ⟨32, 16, .rw⟩, ⟨48, 8, .rw⟩]⟩,
  ⟨0xff2c0000500, 0x8, 24, 0x8, 1, 64, 0xa2710, [⟨0, 16, .rw⟩, ⟨16, 16, .rw⟩, ⟨32, 16, .ro⟩]⟩]

/-- Register rows of chapter 13. -/
def regRows13_1 : List RegDef := [
  ⟨0xff2c0000600, 0x8, 24, 0x8, 1, 32, 0x0, [⟨0, 1, .ro⟩, ⟨1, 1, .ro⟩, ⟨2, 1, .ro⟩, ⟨3, 1, .ro⟩, ⟨4, 1, .ro⟩, ⟨8, 8, .ro⟩, ⟨16, 4, .ro⟩]⟩,
  ⟨0xff2c0000700, 0x8, 16, 0x8, 1, 32, 0x0, [⟨0, 24, .rw⟩]⟩,
  ⟨0xff2c0000800, 0x10, 16, 0x8, 2, 64, 0x0, [⟨0, 64, .rw⟩]⟩,
  ⟨0xff2c0010000, 0x100, 24, 0x8, 16, 64, 0x0, [⟨0, 64, .rc⟩]⟩]

/-- Register rows of chapter 14. -/
def regRows14_0 : List RegDef := [
  ⟨0x1000000000000, 0x100000, 16, 0x8, 1, 32, 0x0, [⟨0, 4, .ro⟩, ⟨4, 2, .ro⟩, ⟨8, 8, .ro⟩]⟩,
  ⟨0x1000000000008, 0x100000, 16, 0x8, 1, 64, 0x0, [⟨0, 1, .ro⟩, ⟨1, 3, .ro⟩, ⟨32, 32, .ro⟩]⟩,
  ⟨0x1000000000010, 0x100000, 16, 0x8, 1, 32, 0x0, [⟨0, 32, .wo⟩]⟩,
  ⟨0x1000000000018, 0x100000, 16, 0x8, 1, 32, 0x0, [⟨0, 16, .rw⟩]⟩,
  ⟨0x1000000000020, 0x100000, 16, 0x8, 1, 32, 0x0, [⟨0, 32, .ro⟩]⟩,
  ⟨0x1000000000028, 0x100000, 16, 0x8, 1, 32, 0x0, [⟨0, 32, .rc⟩]⟩,
  ⟨0x1000000000030, 0x100000, 16, 0x8, 1, 32, 0x0, [⟨0, 11, .rw⟩, ⟨16, 11, .rw⟩]⟩,
  ⟨0x1000000000040, 0x100000, 16, 0x8, 1, 64, 0x0, [⟨12, 52, .rw⟩]⟩,
  ⟨0x1000000000048, 0x100000, 16, 0x8, 1, 64, 0x0, [⟨3, 61, .rw⟩]⟩,
  ⟨0x1000000000050, 0x100000, 16, 0x8, 1, 32, 0x8, [⟨0, 1, .rw⟩, ⟨1, 4, .rw⟩, ⟨5, 1, .rw⟩, ⟨16, 11, .rw⟩]⟩,
  ⟨0x1000000000058, 0x100000, 16, 0x8, 1, 32, 0x0, [⟨0, 7, .ro⟩, ⟨16, 16, .ro⟩]⟩,
  ⟨0x1000000000200, 0x100000, 16, 0x8, 64, 64, 0x0, [⟨0, 64, .ro⟩]⟩,
  ⟨0x1000000040000, 0x100000, 16, 0x40, 4096, 32, 0x0, [⟨0, 32, .wo⟩]⟩,
  ⟨0x1000000040008, 0x100000, 16, 0x40, 4096, 64, 0x0, [⟨0, 3, .ro⟩, ⟨3, 1, .ro⟩, ⟨4, 1, .rc⟩, ⟨8, 8, .ro⟩, ⟨32, 32, .ro⟩]⟩,
  ⟨0x1000000040010, 0x100000, 16, 0x40, 4096, 64, 0x0, [⟨0, 32, .ro⟩, ⟨32, 32, .ro⟩]⟩,
  ⟨0x1000000002000, 0x100000, 16, 0x8, 1, 32, 0x0, [⟨0, 8, .rw⟩, ⟨31, 1, .rw⟩]⟩,
  ⟨0x1000000002008, 0x100000, 16, 0x8, 4, 64, 0x0, [⟨0, 64, .rw⟩]⟩,
  ⟨0x1000000002040, 0x100000, 16, 0x8, 1, 32, 0x0, [⟨0, 1, .ro⟩, ⟨8, 8, .ro⟩]⟩,
  ⟨0x1000000002048, 0x100000, 16, 0x8, 8, 64, 0x0, [⟨0, 64, .ro⟩]⟩,
  ⟨0x1010000000000, 0x8, 1, 0x8, 1, 64, 0xff000000000, [⟨23, 25, .rw⟩]⟩]

/-- Register rows of chapter 15. -/
def regRows15_0 : List RegDef := [
  ⟨0x1000000001000, 0x100000, 16, 0x8, 32, 64, 0x0, [⟨0, 64, .rw⟩]⟩,
  ⟨0xff380000000, 0x1000, 16, 0x8, 32, 64, 0x0, [⟨0, 64, .rw⟩]⟩,
  ⟨0x1000000001100, 0x100000, 16, 0x8, 1, 32, 0x0, [⟨0, 9, .wo⟩, ⟨16, 1, .wo⟩, ⟨17, 1, .wo⟩]⟩,
  ⟨0xff380000100, 0x1000, 16, 0x8, 1, 32, 0x0, [⟨0, 9, .wo⟩, ⟨16, 1, .wo⟩, ⟨17, 1, .wo⟩]⟩,
  ⟨0x1000000001108, 0x100000, 16, 0x8, 1, 32, 0x0, [⟨0, 2, .ro⟩, ⟨2, 1, .ro⟩, ⟨3, 1, .ro⟩, ⟨16, 16, .ro⟩]⟩,
  ⟨0xff380000108, 0x1000, 16, 0x8, 1, 32, 0x0, [⟨0, 2, .ro⟩, ⟨2, 1, .ro⟩, ⟨3, 1, .ro⟩, ⟨16, 16, .ro⟩]⟩,
  ⟨0x1000000001200, 0x100000, 16, 0x8, 32, 64, 0x0, [⟨0, 64, .ro⟩]⟩,
  ⟨0xff380000200, 0x1000, 16, 0x8, 32, 64, 0x0, [⟨0, 64, .ro⟩]⟩,
  ⟨0x1000000001300, 0x100000, 16, 0x8, 1, 64, 0x0, [⟨0, 2, .ro⟩, ⟨16, 9, .ro⟩, ⟨32, 16, .ro⟩]⟩,
  ⟨0xff380000300, 0x1000, 16, 0x8, 1, 64, 0x0, [⟨0, 2, .ro⟩, ⟨16, 9, .ro⟩, ⟨32, 16, .ro⟩]⟩,
  ⟨0x1000000001308, 0x100000, 16, 0x8, 1, 32, 0x0, [⟨0, 1, .wo⟩]⟩,
  ⟨0xff380000308, 0x1000, 16, 0x8, 1, 32, 0x0, [⟨0, 1, .wo⟩]⟩,
  ⟨0x1000000001310, 0x100000, 16, 0x8, 1, 32, 0x0, [⟨0, 16, .wo⟩, ⟨31, 1, .wo⟩]⟩,
  ⟨0xff380000310, 0x1000, 16, 0x8, 1, 32, 0x0, [⟨0, 16, .wo⟩, ⟨31, 1, .wo⟩]⟩,
  ⟨0x1000000001318, 0x100000, 16, 0x8, 1, 32, 0x0, [⟨0, 11, .rw⟩, ⟨16, 1, .rw⟩]⟩,
  ⟨0xff380000318, 0x1000, 16, 0x8, 1, 32, 0x0, [⟨0, 11, .rw⟩, ⟨16, 1, .rw⟩]⟩,
  ⟨0xff340000000, 0x8, 1, 0x8, 1, 32, 0x0, [⟨0, 1, .w1c⟩, ⟨1, 1, .w1c⟩, ⟨2, 1, .w1c⟩, ⟨3, 1, .w1c⟩, ⟨4, 1, .w1c⟩]⟩,
  ⟨0xff340000008, 0x8, 1, 0x8, 1, 32, 0x0, [⟨0, 1, .rw⟩, ⟨1, 1, .rw⟩, ⟨2, 1, .rw⟩, ⟨3, 1, .rw⟩, ⟨4, 1, .rw⟩]⟩,
  ⟨0xff340000010, 0x8, 1, 0x8, 1, 32, 0x0, [⟨0, 2, .ro⟩]⟩,
  ⟨0xff340000018, 0x8, 1, 0x8, 1, 64, 0x0, [⟨0, 3, .wo⟩, ⟨4, 4, .wo⟩, ⟨8, 2, .wo⟩, ⟨10, 1, .wo⟩, ⟨63, 1, .wo⟩]⟩,
  ⟨0xff340000020, 0x8, 1, 0x8, 1, 32, 0x0, [⟨0, 1, .ro⟩, ⟨8, 8, .ro⟩]⟩,
  ⟨0xff340000028, 0x8, 1, 0x8, 1, 32, 0x3e8, [⟨0, 16, .rw⟩]⟩,
  ⟨0xff340000100, 0x8, 16, 0x8, 1, 64, 0x0, [⟨0, 3, .ro⟩, ⟨3, 1, .ro⟩, ⟨4, 1, .ro⟩, ⟨8, 8, .ro⟩, ⟨16, 5, .ro⟩, ⟨32, 32, .ro⟩]⟩,
  ⟨0xff380100000, 0x8, 1, 0x8, 1, 32, 0x0, [⟨0, 32, .w1c⟩]⟩]

/-- Register rows of chapter 16. -/
def regRows16_0 : List RegDef := [
  ⟨0xff3c0000000, 0x8, 1, 0x8, 1, 32, 0x0, [⟨0, 1, .w1c⟩, ⟨1, 1, .w1c⟩, ⟨2, 1, .w1c⟩, ⟨3, 1, .w1c⟩, ⟨4, 1, .w1c⟩, ⟨5, 1, .w1c⟩, ⟨6, 1, .w1c⟩, ⟨7, 1, .w1c⟩, ⟨8, 1, .w1c⟩, ⟨9, 1, .w1c⟩, ⟨10, 1, .w1c⟩]⟩,
  ⟨0xff3c0000008, 0x8, 1, 0x8, 1, 32, 0x0, [⟨0, 1, .rw⟩, ⟨1, 1, .rw⟩, ⟨2, 1, .rw⟩, ⟨3, 1, .rw⟩, ⟨4, 1, .rw⟩, ⟨5, 1, .rw⟩, ⟨6, 1, .rw⟩, ⟨7, 1, .rw⟩, ⟨8, 1, .rw⟩, ⟨9, 1, .rw⟩, ⟨10, 1, .rw⟩]⟩,
  ⟨0xff3c0000010, 0x8, 1, 0x8, 1, 64, 0x0, [⟨0, 2, .ro⟩, ⟨2, 1, .ro⟩, ⟨3, 1, .ro⟩, ⟨4, 1, .ro⟩, ⟨32, 32, .ro⟩]⟩,
  ⟨0xff3c0000018, 0x8, 1, 0x8, 1, 64, 0x0, [⟨0, 20, .rw⟩, ⟨20, 16, .rw⟩, ⟨36, 16, .rw⟩, ⟨52, 1, .rw⟩]⟩,
  ⟨0xff3c0000020, 0x8, 1, 0x8, 1, 64, 0x0, [⟨0, 3, .wo⟩, ⟨3, 1, .wo⟩, ⟨16, 16, .wo⟩, ⟨63, 1, .wo⟩]⟩,
  ⟨0xff3c0000028, 0x8, 1, 0x8, 1, 32, 0x0, [⟨0, 1, .ro⟩, ⟨8, 8, .ro⟩]⟩,
  ⟨0xff3c0000030, 0x8, 1, 0x8, 1, 32, 0x0, [⟨0, 16, .rw⟩]⟩,
  ⟨0xff3c0000038, 0x8, 1, 0x8, 1, 64, 0x0, [⟨0, 1, .ro⟩, ⟨1, 1, .ro⟩, ⟨2, 1, .ro⟩, ⟨3, 1, .ro⟩, ⟨4, 20, .ro⟩, ⟨24, 16, .ro⟩, ⟨40, 16, .ro⟩]⟩,
  ⟨0xff3c0000040, 0x8, 1, 0x8, 1, 64, 0x0, [⟨0, 64, .rw⟩]⟩,
  ⟨0xff3c0000048, 0x8, 1, 0x8, 1, 64, 0x0, [⟨0, 2, .wo⟩, ⟨63, 1, .wo⟩]⟩,
  ⟨0xff3c0000050, 0x8, 1, 0x8, 1, 32, 0x0, [⟨0, 1, .ro⟩, ⟨8, 8, .ro⟩]⟩,
  ⟨0xff3c0000058, 0x8, 1, 0x8, 1, 32, 0x0, [⟨0, 8, .wo⟩]⟩,
  ⟨0xff3c0000060, 0x8, 1, 0x8, 1, 32, 0x0, [⟨0, 7, .ro⟩, ⟨8, 8, .ro⟩]⟩,
  ⟨0xff3c0000068, 0x8, 1, 0x8, 1, 32, 0x0, [⟨0, 5, .ro⟩, ⟨16, 16, .ro⟩]⟩,
  ⟨0xff3c0000070, 0x8, 1, 0x8, 1, 32, 0x0, [⟨0, 16, .wo⟩]⟩,
  ⟨0xff3c0000078, 0x8, 1, 0x8, 1, 64, 0x0, [⟨0, 64, .rc⟩]⟩,
  ⟨0xff3c0000080, 0x8, 1, 0x8, 1, 64, 0x0, [⟨0, 64, .rc⟩]⟩,
  ⟨0xff3c0000088, 0x8, 1, 0x8, 1, 64, 0x0, [⟨0, 20, .ro⟩, ⟨20, 8, .ro⟩, ⟨28, 1, .ro⟩, ⟨32, 32, .ro⟩]⟩,
  ⟨0xff3c0000100, 0x8, 13, 0x8, 1, 64, 0x0, [⟨0, 64, .ro⟩]⟩,
  ⟨0xff3c0001000, 0x10, 16, 0x8, 2, 64, 0x0, [⟨0, 64, .ro⟩]⟩]

/-- Register rows of chapter 17. -/
def regRows17_0 : List RegDef := [
  ⟨0xff400000000, 0x8, 1, 0x8, 1, 32, 0x0, [⟨0, 1, .w1c⟩, ⟨1, 1, .w1c⟩]⟩,
  ⟨0xff400000008, 0x8, 1, 0x8, 1, 32, 0x0, [⟨0, 1, .rw⟩, ⟨1, 1, .rw⟩]⟩,
  ⟨0xff400000010, 0x8, 1, 0x8, 1, 64, 0x0, [⟨0, 64, .rc⟩]⟩,
  ⟨0xff400000018, 0x8, 1, 0x8, 1, 32, 0x0, [⟨0, 12, .rw⟩, ⟨12, 1, .rw⟩]⟩,
  ⟨0xff400000020, 0x8, 1, 0x8, 1, 64, 0x0, [⟨0, 64, .ro⟩]⟩,
  ⟨0xff400000028, 0x8, 1, 0x8, 1, 32, 0x0, [⟨0, 6, .ro⟩, ⟨8, 4, .ro⟩, ⟨16, 1, .ro⟩]⟩,
  ⟨0xff400000030, 0x8, 1, 0x8, 1, 64, 0x0, [⟨0, 64, .ro⟩]⟩,
  ⟨0xff400000038, 0x8, 1, 0x8, 1, 64, 0x0, [⟨0, 64, .ro⟩]⟩]

/-- Register rows of chapter 18. -/
def regRows18_0 : List RegDef := [
  ⟨0xff480002000, 0x8, 1, 0x8, 1, 32, 0x0, [⟨0, 1, .w1c⟩, ⟨1, 1, .w1c⟩, ⟨2, 1, .w1c⟩, ⟨3, 1, .w1c⟩, ⟨4, 1, .w1c⟩, ⟨5, 1, .w1c⟩, ⟨6, 1, .w1c⟩, ⟨7, 1, .w1c⟩, ⟨8, 1, .w1c⟩, ⟨9, 1, .w1c⟩, ⟨10, 1, .w1c⟩]⟩,
  ⟨0xff480002008, 0x8, 1, 0x8, 1, 32, 0x0, [⟨0, 1, .rw⟩, ⟨1, 1, .rw⟩, ⟨2, 1, .rw⟩, ⟨3, 1, .rw⟩, ⟨4, 1, .rw⟩, ⟨5, 1, .rw⟩, ⟨6, 1, .rw⟩, ⟨7, 1, .rw⟩, ⟨8, 1, .rw⟩, ⟨9, 1, .rw⟩, ⟨10, 1, .rw⟩]⟩,
  ⟨0xff480002010, 0x8, 1, 0x8, 1, 64, 0x0, [⟨0, 1, .ro⟩, ⟨1, 3, .ro⟩, ⟨4, 3, .ro⟩, ⟨8, 8, .ro⟩, ⟨16, 8, .ro⟩, ⟨32, 16, .ro⟩]⟩,
  ⟨0xff480002018, 0x8, 1, 0x8, 1, 64, 0x0, [⟨12, 52, .rw⟩]⟩,
  ⟨0xff480002020, 0x8, 1, 0x8, 1, 32, 0x0, [⟨0, 26, .rw⟩]⟩,
  ⟨0xff480002028, 0x8, 1, 0x8, 1, 64, 0x0, [⟨0, 3, .wo⟩, ⟨63, 1, .wo⟩]⟩,
  ⟨0xff480002030, 0x8, 1, 0x8, 1, 32, 0x0, [⟨0, 1, .ro⟩, ⟨8, 8, .ro⟩]⟩,
  ⟨0xff480002038, 0x8, 1, 0x8, 1, 32, 0x258, [⟨0, 16, .rws⟩]⟩,
  ⟨0xff480002040, 0x8, 1, 0x8, 1, 64, 0x0, [⟨0, 64, .rc⟩]⟩,
  ⟨0xff480002100, 0x8, 64, 0x8, 1, 64, 0x0, [⟨0, 64, .ro⟩]⟩]

/-- Register rows of chapter 19. -/
def regRows19_0 : List RegDef := [
  ⟨0xff440000000, 0x8, 1, 0x8, 1, 32, 0x0, [⟨0, 1, .w1c⟩, ⟨1, 1, .w1c⟩, ⟨2, 1, .w1c⟩, ⟨3, 1, .w1c⟩, ⟨4, 1, .w1c⟩, ⟨5, 1, .w1c⟩, ⟨6, 1, .w1c⟩]⟩,
  ⟨0xff440000008, 0x8, 1, 0x8, 1, 32, 0x0, [⟨0, 1, .rw⟩, ⟨1, 1, .rw⟩, ⟨2, 1, .rw⟩, ⟨3, 1, .rw⟩, ⟨4, 1, .rw⟩, ⟨5, 1, .rw⟩, ⟨6, 1, .rw⟩]⟩,
  ⟨0xff440000010, 0x8, 1, 0x8, 1, 32, 0xa4014, [⟨0, 1, .rw⟩, ⟨1, 5, .rw⟩, ⟨8, 4, .rw⟩, ⟨12, 4, .rw⟩, ⟨16, 16, .rw⟩]⟩,
  ⟨0xff440000018, 0x8, 1, 0x8, 1, 32, 0x4000, [⟨0, 32, .rw⟩]⟩,
  ⟨0xff440000020, 0x8, 1, 0x8, 1, 32, 0xffff, [⟨0, 32, .rw⟩]⟩,
  ⟨0xff440000028, 0x8, 1, 0x8, 1, 64, 0x1fffffffffffff, [⟨0, 48, .rw⟩, ⟨48, 4, .rw⟩, ⟨52, 1, .rw⟩]⟩,
  ⟨0xff440000030, 0x8, 1, 0x8, 1, 64, 0x88b5000000000000, [⟨0, 48, .rws⟩, ⟨48, 16, .rws⟩]⟩,
  ⟨0xff440000038, 0x8, 1, 0x8, 1, 32, 0x0, [⟨0, 4, .ro⟩, ⟨4, 1, .ro⟩, ⟨5, 1, .ro⟩, ⟨16, 16, .ro⟩]⟩,
  ⟨0xff440000040, 0x8, 1, 0x8, 1, 64, 0x0, [⟨0, 64, .rc⟩]⟩,
  ⟨0xff440000048, 0x8, 1, 0x8, 1, 64, 0x0, [⟨0, 64, .rc⟩]⟩,
  ⟨0xff440000050, 0x8, 1, 0x8, 1, 64, 0x0, [⟨0, 64, .wo⟩]⟩,
  ⟨0xff440000058, 0x8, 1, 0x8, 1, 64, 0x0, [⟨0, 64, .ro⟩]⟩,
  ⟨0xff440000060, 0x8, 1, 0x8, 1, 32, 0x103, [⟨0, 1, .rw⟩, ⟨1, 1, .rw⟩, ⟨2, 1, .rw⟩, ⟨3, 1, .rw⟩, ⟨8, 1, .rw⟩, ⟨9, 1, .rw⟩, ⟨10, 1, .rw⟩]⟩,
  ⟨0xff440000068, 0x8, 1, 0x8, 1, 64, 0x0, [⟨0, 48, .rw⟩]⟩,
  ⟨0xff440000070, 0x8, 1, 0x8, 1, 32, 0x0, [⟨0, 4, .rw⟩, ⟨4, 4, .rw⟩, ⟨8, 1, .rw⟩, ⟨9, 1, .rw⟩, ⟨16, 16, .rw⟩]⟩,
  ⟨0xff440000078, 0x8, 1, 0x8, 1, 32, 0x0, [⟨0, 1, .wo⟩, ⟨1, 1, .wo⟩, ⟨2, 1, .wo⟩]⟩,
  ⟨0xff440000080, 0x8, 1, 0x8, 1, 64, 0x1, [⟨0, 2, .ro⟩, ⟨4, 4, .ro⟩, ⟨16, 48, .ro⟩]⟩,
  ⟨0xff440000088, 0x8, 1, 0x8, 1, 32, 0x0, [⟨0, 13, .ro⟩, ⟨13, 1, .ro⟩, ⟨14, 1, .ro⟩]⟩,
  ⟨0xff440000090, 0x8, 1, 0x8, 1, 32, 0x0, [⟨0, 12, .rw⟩, ⟨12, 13, .rw⟩, ⟨25, 1, .rw⟩]⟩,
  ⟨0xff440000098, 0x8, 1, 0x8, 1, 32, 0x0, [⟨0, 1, .wo⟩]⟩,
  ⟨0xff4400000a0, 0x8, 1, 0x8, 1, 32, 0x0, [⟨0, 1, .ro⟩, ⟨8, 8, .ro⟩, ⟨16, 12, .ro⟩]⟩]

/-- Register rows of chapter 20. -/
def regRows20_0 : List RegDef := [
  ⟨0xff480000000, 0x8, 1, 0x8, 1, 32, 0x0, [⟨0, 1, .w1c⟩, ⟨1, 1, .w1c⟩, ⟨2, 1, .w1c⟩, ⟨3, 1, .w1c⟩, ⟨4, 1, .w1c⟩, ⟨5, 1, .w1c⟩]⟩,
  ⟨0xff480000008, 0x8, 1, 0x8, 1, 32, 0x0, [⟨0, 1, .rw⟩, ⟨1, 1, .rw⟩, ⟨2, 1, .rw⟩, ⟨3, 1, .rw⟩, ⟨4, 1, .rw⟩, ⟨5, 1, .rw⟩]⟩,
  ⟨0xff480000010, 0x8, 1, 0x8, 1, 64, 0x0, [⟨0, 16, .ro⟩, ⟨16, 16, .ro⟩]⟩,
  ⟨0xff480000018, 0x8, 1, 0x8, 1, 32, 0x1402a8, [⟨0, 16, .rw⟩, ⟨16, 8, .rw⟩]⟩,
  ⟨0xff480000020, 0x8, 1, 0x8, 1, 64, 0x645a5f55695f, [⟨0, 8, .rw⟩, ⟨8, 8, .rw⟩, ⟨16, 8, .rw⟩, ⟨24, 8, .rw⟩, ⟨32, 8, .rw⟩, ⟨40, 8, .rw⟩]⟩,
  ⟨0xff480000028, 0x8, 1, 0x8, 1, 64, 0x0, [⟨0, 32, .ro⟩, ⟨32, 8, .ro⟩, ⟨40, 8, .ro⟩]⟩,
  ⟨0xff480000030, 0x8, 1, 0x8, 1, 32, 0x800003e, [⟨0, 6, .rw⟩, ⟨16, 13, .rw⟩]⟩,
  ⟨0xff480000038, 0x8, 1, 0x8, 1, 32, 0x0, [⟨0, 16, .rc⟩]⟩,
  ⟨0xff480000040, 0x8, 1, 0x8, 1, 64, 0x0, [⟨0, 2, .wo⟩, ⟨16, 16, .wo⟩, ⟨63, 1, .wo⟩]⟩,
  ⟨0xff480000048, 0x8, 1, 0x8, 1, 32, 0x0, [⟨0, 4, .ro⟩, ⟨4, 1, .ro⟩, ⟨5, 1, .ro⟩, ⟨6, 1, .ro⟩, ⟨8, 8, .ro⟩, ⟨16, 3, .ro⟩, ⟨19, 1, .ro⟩]⟩,
  ⟨0xff480000050, 0x8, 1, 0x8, 1, 32, 0x0, [⟨0, 1, .rws⟩]⟩,
  ⟨0xff480000058, 0x8, 1, 0x8, 1, 64, 0x0, [⟨0, 64, .rc⟩]⟩,
  ⟨0xff480000060, 0x8, 1, 0x8, 1, 64, 0x0, [⟨0, 64, .rc⟩]⟩,
  ⟨0xff480000068, 0x8, 1, 0x8, 1, 64, 0x0, [⟨0, 4, .ro⟩, ⟨16, 16, .ro⟩, ⟨32, 32, .ro⟩]⟩,
  ⟨0xff480001000, 0x8, 512, 0x8, 1, 64, 0x0, [⟨0, 6, .rw⟩, ⟨8, 6, .rw⟩, ⟨16, 6, .rw⟩, ⟨24, 6, .rw⟩, ⟨32, 6, .rw⟩, ⟨40, 6, .rw⟩, ⟨48, 6, .rw⟩, ⟨56, 6, .rw⟩]⟩]

/-- The rows of the register maps, by the range of keys that holds them. -/
def regBlocks : List (Nat × Nat × List RegDef) := [
  (0xf0000000000, 0xf0040000000, regRows3_0),
  (0xff000000000, 0xff080000000, regRows2_0),
  (0xff080000000, 0xff0c0000000, regRows3_0),
  (0xff0c0000000, 0xff100000000, regRows6_0),
  (0xff100000000, 0xff140000000, regRows7_0),
  (0xff140000000, 0xff180000000, regRows8_0),
  (0xff180000000, 0xff1c0000000, regRows9_0),
  (0xff1c0000000, 0xff200000000, regRows10_0),
  (0xff200000000, 0xff240000000, regRows11_0),
  (0xff240000000, 0xff280000000, regRows12_0),
  (0xff280000000, 0xff300000000, regRows13_0 ++ regRows13_1),
  (0xff340000000, 0xff3c0000000, regRows15_0),
  (0xff3c0000000, 0xff400000000, regRows16_0),
  (0xff400000000, 0xff440000000, regRows17_0),
  (0xff440000000, 0xff480000000, regRows19_0),
  (0xff480000000, 0xff4c0000000, regRows18_0 ++ regRows20_0),
  (0x1000000000000, 0x1020000000000, regRows14_0 ++ regRows15_0)]

/-- Whether key `a` is the start of a register of row `d`. -/
def RegDef.hits (d : RegDef) (a : Nat) : Bool :=
  Nat.ble d.base a && Nat.blt ((a - d.base) / d.s1) d.n1 &&
    Nat.beq (((a - d.base) % d.s1) % d.s2) 0 && Nat.blt (((a - d.base) % d.s1) / d.s2) d.n2

/-- The row of the register that starts at key `a`, if a register does (00_scope.md R22). -/
def regFind (a : Nat) : Option RegDef :=
  (regBlocks.find? fun b => Nat.ble b.1 a && Nat.blt a b.2.1).bind fun b => b.2.2.find? (·.hits a)

/-- The value of PWR_PACE_MAP[n] after reset: group (8n + k) mod 64 in byte k (Table 20.8). -/
def paceMapReset (n : Nat) : Nat :=
  ((List.range 8).map fun k => ((8 * n + k) % 64) * 2 ^ (8 * k)).sum

/-- The value of the register at key `a` after a cold reset.  MEM_STACK: no die failed (0xF);
MEM_FAR: the physical channel of R250 and no device failed (0x1F); LNK_LANE: the lane's own macro (R33,
13_links_mac_fabric.md R437); TILE_STATE: the tile's own position (R35); RING_INST_ID: the instance and its
function in mode 0 (R491); PWR_PACE_MAP as Table 20.8.  SEC_STATE (DRBG_OK and CELL_OK) and PWR_FW_STATUS (slot A GOOD
and running) have no reset value in the spec: PRESUMED, as the card leaves the factory (log 9). -/
def regReset (a : Nat) : Nat :=
  if MEM_STACK 0 ≤ a && a < MEM_STACK 16 then 0xF
  else if MEM_FAR 0 ≤ a && a < MEM_FAR 48 then
    let c := (a - MEM_FAR 0) / 8
    13 * (c / 12) + c % 12 + 0x1F * 2 ^ 6
  else if LNK_LANE 0 ≤ a && a < LNK_LANE 96 then (((a - LNK_LANE 0) / 8) % 24) * 2 ^ 8
  else if PWR_PACE_MAP 0 ≤ a && a < PWR_PACE_MAP 512 then paceMapReset ((a - PWR_PACE_MAP 0) / 8)
  else if TILE_STATE 0 ≤ a && a < TILE_STATE 4096 && (a - TILE_STATE 0) % 0x40000 == 0 then
    let t := (a - TILE_STATE 0) / 0x40000
    (16 * (t / 1024) + t % 16) * 2 ^ 16 + ((t % 1024) / 16) * 2 ^ 22
  else if RING_INST_ID 0 ≤ a && a < RING_INST_ID 16 && (a - RING_INST_ID 0) % 0x100000 == 0 then
    let i := (a - RING_INST_ID 0) / 0x100000
    i + i * 2 ^ 8
  else if a = SEC_STATE then 0x18
  else if a = PWR_FW_STATUS then 6
  else match regFind a with
    | some d => d.reset
    | none => 0

end Sys2Proof.Machine
end

