-- ==== Sys2Proof/Machine/State.lean ====
section
/-! DEFINITION. The state of the adapter: every register, queue, buffer, counter and mode the spec gives it,
and the queue of commands that wait, first in, first out.  Plain data throughout.  Registers stand in `csr`,
one home each (Regs.lean); what no register shows stands in the structures below. -/
namespace Sys2Proof.Machine
open Sys2Proof

/-- The reasons the machine stops with a fault.  No command of the table ends in one: every effect the spec
gives a command, an error completion included, is a next state. -/
inductive Fault
  /-- Raised by no meaning (safe: nothing is refused under it). -/
  | none
  deriving DecidableEq, Repr

/-- The reasons a command has no meaning. -/
inductive Refusal
  /-- Raised by exec's arm for a command that has no meaning yet, named by its mnemonic (safe). -/
  | notModelled (mnemonic : String)
  deriving DecidableEq, Repr

/-! ## Registers, memory and host link -/

/-- What a register access or a line read last returned to its requester. -/
structure BusS where
  /-- The value returned by the last register read (R18). -/
  rdata : Nat := 0
  /-- The data of the last line read: `none` is a poison indication (R262). -/
  line : Option (List Byte) := some []
  /-- The last management-bus command was answered with a NACK (R614). -/
  nack : Bool := false
  deriving DecidableEq, Repr

/-! ## Chapter 7: the memory tiers -/

/-- The salt and the migration state of one region (R254, R258; MEM_SALT_DATA). -/
structure Salt where
  salt : Nat
  migrating : Bool := false
  old : Nat := 0
  cursor : Nat := 0
  hold : Bool := false
  deriving DecidableEq, Repr

/-- A row repair under way (R267): the channel, the row and the line cursor. -/
structure RowRepair where
  chan : Nat
  row : Nat
  cursor : Nat
  deriving DecidableEq, Repr

/-- The memory controllers' state beside the registers. -/
structure MemS where
  /-- Regions whose entry differs from the reset salt g mod 16 (R254). -/
  salts : SMap Salt := []
  /-- Requests accepted by each channel, for the sampler (R255). -/
  reqs : SMap Nat := []
  /-- The last 256 samples (region, line offset) of each channel, newest first (R255). -/
  samples : SMap (List (Nat × Nat)) := []
  /-- MEM_HOT_CFG as in force, from the last window boundary (R273). -/
  hotCfg : Nat := 0x01864410
  /-- Corrected errors per (channel * 2^32 + row) since the last scrub pass (R267). -/
  rowCe : SMap Nat := []
  /-- Rows of each die (stack * 32 + die) or device ((16 + channel) * 32 + device) with corrected
  errors since the last scrub pass (R268, R269). -/
  unitRows : SMap (List Nat) := []
  repairs : List RowRepair := []
  /-- Rows in use from the spares (channel, row) (R267). -/
  repaired : List (Nat × Nat) := []
  /-- Line cursor of the rebuild of a stack (key k) or of the move of a far channel (key 16 + c);
  absent when none is under way (R268, R269). -/
  rebuild : SMap Nat := []
  /-- Every die or device marked failed, by unit key as in `unitRows` (R268 to R270). -/
  failedUnits : List Nat := []
  /-- Records of MEM_ERR_LOG not yet read (R274). -/
  unread : SMap Bool := []
  deriving DecidableEq, Repr

/-! ## Chapter 8: translation -/

/-- What a translation walk found (R281). -/
inductive XRes
  | ok (pa : Nat)
  | access
  | fault
  | waiting
  | unresolved
  deriving DecidableEq, Repr

/-- A fault record not yet written to the ring (R290, Table 8.5). -/
structure FaultRec where
  asid : Nat
  wr : Bool
  level : Nat
  va : Nat
  kind : Nat
  id : Nat
  pick : Nat
  deriving DecidableEq, Repr

/-- A page with an outstanding record (R290): its span is 2^shift bytes from `base`. -/
structure OutPage where
  inst : Nat
  asid : Nat
  base : Nat
  shift : Nat
  deriving DecidableEq, Repr

/-- A request that waits for a page: parked in the park list, or stalling its engine (R289, R300). -/
structure Parked where
  inst : Nat
  asid : Nat
  va : Nat
  wr : Bool
  who : Waiter
  /-- The page it waits on. -/
  base : Nat
  shift : Nat
  /-- It holds its engine (mode 1, or no room: R289, R299, R300). -/
  stalled : Bool
  /-- Its record could not be created for want of a record slot (R299). -/
  needRec : Bool
  /-- The page's service has ended: it is to be retried (R292). -/
  ready : Bool
  deriving DecidableEq, Repr

/-- A translation command that has made its switch and waits for the caches to drop the old entry
(R284), or a migration under way (R295, R296). -/
structure Migration where
  inst : Nat
  slot : Nat
  asid : Nat
  va : Nat
  shift : Nat
  pa : Nat
  perm : Nat
  host : Nat
  /-- The kind to restore: 0 NONE, 1 HOST (R295). -/
  oldKind : Nat
  /-- MIGRATE_OUT. -/
  out : Bool
  deriving DecidableEq, Repr

/-- The translation unit's state beside the tables in memory and the registers. -/
structure XltS where
  /-- Bytes of each ASID's pool taken, from POOL_PA upward (R287). -/
  used : SMap Nat := []
  parked : List Parked := []
  out : List OutPage := []
  /-- The open batch and the batch being written or held, by instance (R291, R299). -/
  openB : SMap (List FaultRec) := []
  heldB : SMap (List FaultRec) := []
  migs : List Migration := []
  /-- Commands (instance, slot) whose switch is done and whose completion waits (R284). -/
  inval : List (Nat × Nat) := []
  last : XRes := .access
  /-- Requests that have left the park list with a status, for their engines to act on (R293). -/
  ended : List (Waiter × Nat) := []
  deriving DecidableEq, Repr

/-! ## Chapter 14: rings -/

/-- An entry that a queue has taken (R463, R466). -/
structure Entry where
  slot : Nat
  len : Nat
  op : Nat
  tag : Nat
  flags : Nat
  /-- The whole entry as read, LEN * 64 bytes. -/
  raw : List Byte
  /-- Completed (its header written, or logged while DETACHED). -/
  done : Bool := false
  status : Nat := 0
  result : Nat := 0
  deriving DecidableEq, Repr

/-- One ring queue (R462 to R480). `state`: 0 FREE, 1 ACTIVE, 2 Q_ERROR, 3 HELD. -/
structure Queue where
  state : Nat := 0
  log2 : Nat := 4
  weight : Nat := 1
  vector : Nat := 0
  flush : Bool := false
  noIrq : Bool := false
  coalN : Nat := 1
  coalUs : Nat := 0
  base : Nat := 0
  headAddr : Nat := 0
  /-- First slot not covered by a completed entry. -/
  head : Nat := 0
  /-- Next slot to be taken. -/
  take : Nat := 0
  tail : Nat := 0
  /-- The last head published (R468). -/
  pub : Nat := 0
  waitOwn : Bool := false
  dbBad : Bool := false
  errReason : Nat := 0
  errSlot : Nat := 0
  /-- A failed ring read waits for its retry (R465). -/
  retry : Bool := false
  /-- Entries taken and not passed by the head, oldest first. -/
  window : List Entry := []
  /-- Completions that no interrupt has covered (R470). -/
  uncovered : Nat := 0
  /-- The unpublished head passes an entry with NOTIFY (R470). -/
  notify : Bool := false
  deriving DecidableEq, Repr

/-- A completion logged while DETACHED (R486, Table 14.11). -/
structure HeldRec where
  qid : Nat
  slot : Nat
  tag : Nat
  op : Nat
  status : Nat
  result : Nat
  deriving DecidableEq, Repr

/-- An instance event (R484, Table 14.9): `kind` 1 TILE_FAULT, 2 QUEUE_ERROR; `data` is body bytes 16-47. -/
structure InstEvent where
  kind : Nat
  pick : Nat
  data : List Byte
  deriving DecidableEq, Repr

/-- A copy command under way (R483): the bytes moved, and whether a poisoned line has been met. -/
structure Copy where
  inst : Nat
  queue : Nat
  slot : Nat
  moved : Nat := 0
  hole : Bool := false
  deriving DecidableEq, Repr

/-- The ring unit's state beside the registers, tables keyed by instance, or instance * 4096 + queue. -/
structure RingS where
  queues : SMap Queue := []
  /-- Started entries of a queue 0 that was HELD and has been enabled again (R486, R487). -/
  orphans : SMap (List Entry) := []
  held : SMap (List HeldRec) := []
  heldLost : SMap Nat := []
  detachPick : SMap Nat := []
  events : SMap (List InstEvent) := []
  /-- Events delivered so far (RESULT of ASYNC_EVENT). -/
  delivered : SMap Nat := []
  /-- Interrupts raised, keyed by function * 2048 + vector (R458, R470). -/
  irqs : SMap Nat := []
  /-- Functions whose Bus Master Enable is clear (R485, R491). -/
  bmeOff : List Nat := []
  linkDown : Bool := false
  /-- When each instance's heartbeat timeout last started anew, core cycles (R485). -/
  beat : SMap Nat := []
  copies : List Copy := []
  /-- Running port totals behind GET_PORT_COUNTERS (R488), port * 8 + counter, and the totals at each
  instance's last reset, (instance * 32 + port) * 8 + counter. -/
  portTotals : SMap Nat := []
  portBase : SMap Nat := []
  deriving DecidableEq, Repr

/-! ## Chapter 15: instances -/

/-- A reset of an instance under way (R499, R501). -/
structure Resetting where
  remove : Bool
  zero : Bool
  /-- The TOKEN of the mailbox message that asked for it (R507). -/
  ask : Option Nat
  deriving DecidableEq, Repr

/-- The instances' state beside the registers. -/
structure InstS where
  resets : SMap Resetting := []
  /-- Tiles and ASIDs held as residue (R502), by instance. -/
  resTiles : SMap (List Nat) := []
  resAsids : SMap (List Nat) := []
  /-- The instance command under way (OP, instance) (INST_CMD_STATUS.PENDING), and whether it has begun and waits for
  its quiesce or its zero fill. -/
  cmd : Option (Nat × Nat) := none
  begun : Bool := false
  /-- Queue pairs that a quiesce has moved to QPS_DRAIN (R496). -/
  marked : List Nat := []
  /-- A host-to-manager message of the instance was taken before the reset: its acknowledgement carries
  LOST_BY_RESET (R506). -/
  lostByReset : List Nat := []
  /-- The code of an acknowledgement made while the reset runs, delivered after it, by instance (R506). -/
  lateAck : SMap Nat := []
  deriving DecidableEq, Repr

/-! ## Chapter 2: the pick, the warp table and the domain -/

/-- A transmit descriptor (Table 2.4). -/
structure TxDesc where
  kind : Nat
  inst : Nat
  ready : Nat
  dst : Nat
  pkey : Nat
  stream : Nat
  len : Nat
  addr : Nat
  asid : Nat
  deriving DecidableEq, Repr

/-- A receive descriptor (Table 2.5). -/
structure RxDesc where
  kind : Nat
  inst : Nat
  src : Nat
  stream : Nat
  len : Nat
  deadline : Nat
  place : Nat
  asid : Nat
  queue : Nat
  deriving DecidableEq, Repr

/-- A slot record: the slot and seven 16-bit lane entries (R73). -/
structure SlotRec where
  slot : Nat
  lanes : List Nat
  deriving DecidableEq, Repr

/-- A group section (R72). -/
structure GroupSec where
  parity : Nat
  peer : Nat
  tx : List SlotRec
  rx : List SlotRec
  txd : List TxDesc
  rxd : List RxDesc
  deriving DecidableEq, Repr

/-- A table (R71): `groups` holds (group, section) for the groups in warp mode. -/
structure WTable where
  index : Nat
  warpGroups : Nat
  cover : Nat
  groups : SMap GroupSec
  deriving DecidableEq, Repr

/-- A table set (R70): `sched` bit t puts logical tile t in the scheduled set. -/
structure WarpSet where
  domain : Nat
  gen : Nat
  period : Nat
  sched : Nat
  tables : List WTable
  deriving DecidableEq, Repr

/-- A cell that a port has prepared at its sample cycle for slot `slot` of the pick, for the data lane at
index `k` of the group (R79, R80): `hdr` is the header without its CRCs. -/
structure PrepCell where
  group : Nat
  slot : Nat
  k : Nat
  bytes : List Byte
  deriving DecidableEq, Repr

/-- What a receiver has of one stream of one sending pick (R82): `got` bit c is set when cell c has been
placed, `late` when a LATE NULL cell stood for one. -/
structure RxStream where
  group : Nat
  desc : Nat
  pick : Nat
  got : Nat
  late : Bool
  done : Bool
  deriving DecidableEq, Repr

/-- A cell held in the reserved cell buffer for forwarding (R57, R79). -/
structure HeldCell where
  group : Nat
  desc : Nat
  cell : Nat
  pick : Nat
  payload : List Byte
  deriving DecidableEq, Repr

/-- The warp store. -/
structure WarpS where
  /-- Scheduled work runs in this pick: a set was active and the adapter was MEMBER or HOLDOVER at its wall
  (R104, R106). -/
  on : Bool := false
  /-- The period P in force (R61). -/
  period : Nat := 128
  active : Option WarpSet := none
  shadow : Option WarpSet := none
  /-- The set retained in the trailing pick (R86). -/
  retained : Option WarpSet := none
  /-- The pick of the armed swap, latched at the arm (R85). -/
  swapPick : Nat := 0
  /-- The table of the retained set that was in force before the swap (R86). -/
  retTable : Nat := 0
  /-- The detection points (lane, pick, slot) of lane losses whose table switch is due (R89). -/
  lossAt : List (Nat × Nat × Nat) := []
  /-- Lanes that a loss notice of the far end names (R89). -/
  noticed : List Nat := []
  /-- Lanes lost in a warp-mode group: they carry no cells until a swap to a set that schedules them (R435). -/
  spent : List Nat := []
  prep : List PrepCell := []
  rx : List RxStream := []
  held : List HeldCell := []
  /-- Ready flags set, keyed by group * 4096 + index (R78). -/
  ready : SMap Bool := []
  /-- Records of PICK_LATE_LOG not yet read (R111). -/
  unread : SMap Bool := []
  /-- The last bytes sent on each lane: a cell, the parity, or a sync symbol (R66, R97). -/
  lane : SMap (List Byte) := []
  deriving DecidableEq, Repr

/-- The domain servo's state beside the PICK_ registers (R97 to R109). -/
structure DomS where
  /-- Valid parent symbols counted in LISTEN (R104), with the pick bits and the arrival time of the last
  one and the first interval (R99). -/
  count : Nat := 0
  bitsOf : Nat := 0
  at_ : Int := 0
  interval : Int := 0
  /-- The phase step of ACQUIRE has been made (R105). -/
  stepped : Bool := false
  /-- The frequency estimate is done and the servo runs (R105). -/
  servo : Bool := false
  /-- Picks of the frequency estimate so far (R105). -/
  estimate : Nat := 0
  /-- Consecutive walls with |θ| ≤ 1 ns (R104). -/
  good : Nat := 0
  /-- Consecutive walls without a valid symbol of the active parent (R101). -/
  lost : Nat := 0
  /-- Consecutive walls without a valid symbol of either parent (R102). -/
  lostAll : Nat := 0
  /-- The alternate parent was valid in the pick that last ended (R101). -/
  altOk : Bool := false
  /-- The timestamp of the last PTP event message, units of 62.5 ps (R109). -/
  ptpAt : Nat := 0
  /-- A valid symbol of the parent, of the alternate parent, has arrived since the last wall (R101). -/
  parentSeen : Bool := false
  altSeen : Bool := false
  /-- The state and hop count of the last valid symbol of each parent. -/
  hopsParent : Nat := 0
  hopsAlt : Nat := 0
  /-- θ of the last valid symbol of the parent and of the alternate, units of 62.5 ps (R98). -/
  thetaParent : Int := 0
  thetaAlt : Int := 0
  /-- Arrival offset of the last symbol on each group, signed, 20 bits (Table 2.7 PEER_RX_OFFSET). -/
  rxOff : SMap Nat := []
  /-- Picks for which a received ALERT is still repeated (R103). -/
  alertLeft : Nat := 0
  /-- This adapter has raised ALERT itself (R59, R103, R592). -/
  alertOwn : Bool := false
  /-- A second written to PICK_TOD_SET that waits for the next PPS edge (R108). -/
  todNext : Option Nat := none
  /-- The half nanoseconds of the current wall-time second (R108); PICK_TOD_NS holds a latched copy. -/
  half : Nat := 0
  /-- The single alignment of a wall with a PPS edge has been made (R107). -/
  aligned : Bool := false
  /-- Slots spent in the current HOLDOVER (PICK_STATUS.HOLDOVER_US). -/
  holdSlots : Nat := 0
  /-- This adapter is master by succession (R102). -/
  succeeded : Bool := false
  deriving DecidableEq, Repr

/-- The translated ranges that a set's descriptors name (R77): (ASID, address, length). -/
def WarpSet.pins (w : WarpSet) : List (Nat × Nat × Nat) :=
  w.tables.flatMap fun t => t.groups.flatMap fun g =>
    (g.2.txd.filter (·.kind == 2)).map (fun d => (d.asid, d.addr, d.len)) ++
    (g.2.rxd.filter (·.kind == 1)).map fun d => (d.asid, d.place, d.len)

/-- The instances that a set's descriptors name (R495, R502). -/
def WarpSet.insts (w : WarpSet) : List Nat :=
  w.tables.flatMap fun t => t.groups.flatMap fun g =>
    g.2.txd.map (·.inst) ++ g.2.rxd.map (·.inst)

/-- The sets in either bank: active, shadow and retained (R77, R86). -/
def WarpS.sets (w : WarpS) : List WarpSet :=
  w.active.toList ++ w.shadow.toList ++ w.retained.toList

/-- The ranges pinned by the sets in either bank (R77). -/
def WarpS.pins (w : WarpS) : List (Nat × Nat × Nat) := w.sets.flatMap (·.pins)

/-! ## Chapters 3 to 6 and 17: tiles, mesh, contexts and skeins -/

/-- A mesh message (Table 3.2); HDR_CHECK follows from the rest, ROUTE stands with the flight. -/
structure Msg where
  dst : Nat
  role : Nat
  epoch : Nat
  srcEpoch : Nat
  src : Nat
  tag : Nat
  kind : Nat
  anyRole : Bool
  /-- CLASS: 0 SCHED, 1 WEFT. -/
  cls : Nat
  payload : List Byte
  deriving DecidableEq, Repr

/-- A message in the mesh (R119 to R122): it waits in the input buffer `port` of router (x, y); port 0 is
the injection port, 1 north, 2 south, 3 east, 4 west.  `cls` 2 is a returned message (R130), with its
record. -/
structure Flight where
  id : Nat
  m : Msg
  /-- The 16-byte record of Table 3.5, on a returned message. -/
  record : List Byte
  cls : Nat
  /-- The YX route set. -/
  yx : Bool
  /-- The logical tile it travels to. -/
  target : Nat
  x : Nat
  y : Nat
  port : Nat
  /-- It has waited for room in the returned-message queue (R130). -/
  waited : Bool
  deriving DecidableEq, Repr

/-- The exact accumulator (R200, R203). -/
structure XAcc where
  v : BitVec 640 := 0
  nan : Bool := false
  pinf : Bool := false
  ninf : Bool := false
  wrap : Bool := false
  deriving DecidableEq, Repr

/-- The state image of the check-value unit (Table 17.1). -/
structure CheckImg where
  poly : Nat := 0
  widthM1 : Nat := 0
  init : Nat := 0
  refin : Bool := false
  refout : Bool := false
  invert : Bool := false
  intEn : Bool := false
  run : Nat := 0
  deriving DecidableEq, Repr

/-- A skein on its handle (R216, R234, Table 6.8).  `state` is SKN_CUR_STATE.STATE. -/
structure Skein where
  state : Nat
  status : Nat
  /-- The 128-byte descriptor. -/
  desc : List Byte
  /-- The settings copied at issue (R544); `check.run` is the running check value. -/
  check : CheckImg
  /-- Elements done: the cursor (R234). -/
  done : Nat
  nextChunk : Nat
  /-- Conversion flags of the current chunk (R220). -/
  cvt : Nat
  /-- The faulting address and its side, while PARKED or STALLED. -/
  fault : Nat
  side : Bool
  /-- Issue order within the context, for FENCE (R242). -/
  age : Nat
  /-- A status other than OK that it must end with at its cursor, 0 for none (R232, R238). -/
  due : Nat
  deriving DecidableEq, Repr

/-- One program context of a tile (R138, R179). -/
structure Context where
  pc : Word := 0
  /-- s1 to s31 that are not 0. -/
  s : SMap Word := []
  v : SMap (BitVec 512) := []
  a : SMap (BitVec 1024) := []
  xacc : XAcc := {}
  vcsr : Word := 0
  check : CheckImg := {}
  epc : Word := 0
  ecause : Word := 0
  eval : Word := 0
  evec : Word := 0
  estatus : Word := 0
  escratch : Word := 0
  retired : Word := 0
  handles : SMap Skein := []
  /-- Skeins issued so far, for their age. -/
  issued : Nat := 0
  /-- A blocking instruction that has issued and not retired (Table 4.6). -/
  wait : Option Instr := none
  /-- Context S: it has started after the wall (R143). -/
  awake : Bool := false
  /-- Context S: it has yielded in this pick (R165). -/
  yielded : Bool := false
  /-- An unhandled exception has stopped it (R174). -/
  stopped : Bool := false
  /-- Context W: its WAITC has waited across a wall, and retires when it issues again (R166). -/
  crossed : Bool := false
  deriving DecidableEq, Repr

/-- The top-k unit (R208): the first 4,096 candidates since TKCLR in rank order, (score bits, identifier), of which the
first max(K, m) are its list; `m` counts the candidates above the threshold (R210). -/
structure TopK where
  k : Nat := 0
  t : Nat := 0
  list : List (Nat × Nat) := []
  m : Nat := 0
  deriving DecidableEq, Repr

/-- A role assignment under way on a tile (R132, R133). -/
structure Assign where
  role : Nat
  /-- The program of a service role, from the active firmware image (R47). -/
  image : List Byte
  /-- The image of a USER role in the near tier (R132). -/
  src : Nat
  len : Nat
  entry : Nat
  /-- The TILE_ASSIGN entry (instance, slot) that it completes, or none. -/
  by_ : Option (Nat × Nat)
  deriving DecidableEq, Repr

/-- A tile beside its registers and its local store (Table 3.1, Table 4.1). -/
structure Tile where
  s : Context := {}
  w : Context := {}
  entry : Nat := 0
  topk : TopK := {}
  inq : List Msg := []
  rmq : List (List Byte) := []
  ereport : Nat := 0x80000000
  faults : Nat := 0
  /-- The time of the tile's last reset (CYCLES). -/
  since : Nat := 0
  lates : Nat := 0
  /-- Unhandled exceptions since the last load (R175). -/
  unhandled : Nat := 0
  /-- The pick in which context S last sent a notice (R175). -/
  noticeAt : Option Nat := none
  assign : Option Assign := none
  /-- Detected as failed in this pick, and its restore copy is not over (R551, R552). -/
  down : Bool := false
  restoring : Bool := false
  /-- The role's last loaded image (Table 18.3). -/
  image : List Byte := []
  /-- Spared with no state to restore (Table 18.3). -/
  fresh : Bool := false
  deriving DecidableEq, Repr

/-- The mesh and the tiles, by logical number. -/
structure TileS where
  tiles : SMap Tile := []
  mesh : List Flight := []
  nextId : Nat := 0
  /-- Columns whose map entry changes at the next wall: (x, row), and routers to be put in bypass (x, y)
  (R123, R125, R552). -/
  spareAt : List (Nat × Nat) := []
  bypassAt : List (Nat × Nat) := []
  /-- The command of TILE_SPARE_CMD is one of them. -/
  spareCmd : Bool := false
  /-- Mirrors being re-copied, by logical tile (R550). -/
  recopy : List Nat := []
  /-- Signals lost on each chunk queue since the last one written (R228). -/
  cqLost : SMap Nat := []
  /-- Manager pairs, by die: the second tile is the active one; the pair has no partner; the whole pair is
  lost (R38, R555, R564). -/
  mgrSwap : List Nat := []
  mgrAlone : List Nat := []
  mgrLost : List Nat := []
  /-- Service roles that move from a FAILED tile to another at the next wall: (from, to) (R563). -/
  moves : List (Nat × Nat) := []
  deriving DecidableEq, Repr
/-! ## Chapters 18 and 20: firmware slots, calibration, power -/

/-- The firmware slots' contents, beside PWR_FW_STATUS: the image in slot A and in slot B, empty for the factory's
(R559); when the running trial started (R561); calibrations under way, by lane: the pick from which the next step may
run, and the steps done (R557). -/
structure RelS where
  slotA : List Byte := []
  slotB : List Byte := []
  trialAt : Nat := 0
  cal : SMap (Nat × Nat) := []
  deriving DecidableEq, Repr

/-- A module in a cage (R617): its declared power in W, and whether it is admitted and reports ready. -/
structure Module where
  watts : Nat
  admitted : Bool
  ready : Bool
  deriving DecidableEq, Repr

/-- The power controller's state beside the PWR_ registers (R587, R591, R592, R617). -/
structure PowS where
  /-- The rails are up: no trip since power was applied. -/
  up : Bool := true
  /-- The demands of power and of temperature, in percent. -/
  power : Nat := 100
  heat : Nat := 100
  /-- Consecutive 100 us windows with the power below LIMIT_W - HYST_W, with each sensor class (0 dies, 1 stacks,
  2 far tier) 3 C below its threshold, and with WEFT_PCT 0. -/
  calm : Nat := 0
  cool : SMap Nat := []
  spent : Nat := 0
  /-- ALERT stands. -/
  alert : Bool := false
  modules : SMap Module := []
  deriving DecidableEq, Repr

/-! ## Chapter 19: trace, trigger, halt and scan -/

/-- A trace source (R571): the record in its slot, if any, the drops since the last OVERFLOW record with the time of the
first and the last, and SEQ. -/
structure TrcSlot where
  rec_ : Option (List Byte) := none
  drops : Nat := 0
  first : Nat := 0
  last : Nat := 0
  seq : Nat := 0
  deriving DecidableEq, Repr

/-- A scan under way (R581): the next tile, the tiles left, the next byte of its image (for JTAG the next bit), and the
target (true Saffron). -/
structure Scan where
  tile : Nat
  left : Nat
  offset : Nat
  saffron : Bool
  deriving DecidableEq, Repr

/-- The debug units' state beside the TRC_ registers.  Sources: tile t is t, port p 4096 + p, lane l 4224 + l, memory
controller c 4352 + c, the trace unit 4672. -/
structure TrcS where
  slots : SMap TrcSlot := []
  /-- The source that each die's collector took last. -/
  turn : SMap Nat := []
  /-- The trace buffer, oldest first (R573). -/
  buf : List (List Byte) := []
  /-- The Saffron lane used last, frames sent and the last frame, by lane (R575). -/
  lane : Nat := 3
  seqs : SMap Nat := []
  frames : SMap (List Byte) := []
  /-- Core cycles at the last cold reset (R567). -/
  zero : Nat := 0
  /-- A trigger has ordered a halt, a snapshot; a RESUME waits for the wall (R577, R578, R580). -/
  haltDue : Bool := false
  freezeDue : Bool := false
  resumeDue : Bool := false
  /-- No tile issues (R578). -/
  halted : Bool := false
  /-- The registers at the snapshot cycle, while counters are frozen (R577). -/
  snap : SMap Nat := []
  scan : Option Scan := none
  /-- The JTAG instruction register and the bits last shifted out (R582). -/
  ir : Nat := 0xFF
  tdo : Nat := 0
  deriving DecidableEq, Repr

/-! ## Chapter 9: the page service -/

/-- A tensor record of a manifest (R334) and where the load placed it: its virtual address, the bytes of it in
the near tier and their address, and the address of the rest in the far tier. -/
structure Tensor where
  source : Nat
  bytes : Nat
  layer : Nat
  heat : Nat
  flags : Nat
  va : Nat
  near : Nat
  nearPa : Nat
  farPa : Nat
  deriving DecidableEq, Repr

/-- The parameters of a manifest (Tables 9.1 and 9.11). -/
structure Geometry where
  layers : Nat
  heads : Nat
  group : Nat
  dim : Nat
  pt : Nat
  kind : Nat
  window : Nat
  sinks : Nat
  farShare : Nat
  seqs : Nat
  total : Nat
  near : Nat
  gatherBytes : Nat
  gatherEntries : Nat
  steps : Nat
  period : Nat
  streamBytes : Nat
  stageBytes : Nat
  deriving DecidableEq, Repr

/-- An open sequence: MAX_TOKENS, the stored count of each layer, and whether it closes at the wall (R309). -/
structure Seq where
  max : Nat
  stored : SMap Nat := []
  closing : Bool := false
  deriving DecidableEq, Repr

/-- A page of a sequence and its summary entry; its header and bounds stand in memory (R306). -/
structure PageRef where
  seq : Nat
  layer : Nat
  head : Nat
  index : Nat
  entry : Nat
  deriving DecidableEq, Repr

/-- A pool of `total` numbered slots: those below `top` have been taken, and those in `back` given back. -/
structure Pool where
  total : Nat := 0
  top : Nat := 0
  back : List Nat := []
  deriving DecidableEq, Repr

/-- A move of a page (Table 9.8): both slots, the new bounds (lo, hi per channel), and whether the switch has
been made. -/
structure Move where
  entry : Nat
  up : Bool
  old : Nat
  new : Nat
  lo : List Nat
  hi : List Nat
  nan : Bool
  switched : Bool
  deriving DecidableEq, Repr

/-- An entry of a stream plan (Table 9.9). -/
structure PlanEntry where
  pick : Nat
  group : Nat
  desc : Nat
  tensor : Nat
  len : Nat
  off : Nat
  deriving DecidableEq, Repr

/-- A stream plan (R326). -/
structure StreamPlan where
  cycle : Nat
  start : Nat
  entries : List PlanEntry
  deriving DecidableEq, Repr

/-- A reshard plan under way (R329 to R331): the entries left, the times the first was stopped, whether one
was abandoned and whether one was refused. -/
structure ReshardPlan where
  slot : Nat
  start : Nat
  left : List ReshardEntry
  stops : Nat := 0
  /-- The pick in which the first entry last stopped. -/
  stopAt : Option Nat := none
  hole : Bool := false
  refused : Bool := false
  deriving DecidableEq, Repr

/-- The model of an instance (R332 to R338). -/
structure Model where
  /-- The slot of the MODEL_LOAD entry. -/
  slot : Nat
  asid : Nat
  va : Nat
  nearPa : Nat
  farPa : Nat
  /-- Bytes placed in each tier, rounded up to 2 MiB (R335). -/
  nearLen : Nat
  farLen : Nat
  geo : Geometry
  tensors : List Tensor
  seqs : SMap Seq := []
  pages : List PageRef := []
  nearPool : Pool := {}
  farPool : Pool := {}
  entries : Pool := {}
  /-- The reserve slot of each (sequence, layer, head) that has one (R309, R310). -/
  reserve : List (Nat × Nat × Nat × Nat) := []
  moves : List Move := []
  /-- Summary entries whose pages are due for promotion (R322). -/
  due : List Nat := []
  stream : Option StreamPlan := none
  next : Option StreamPlan := none
  stopping : Bool := false
  /-- Fills that completed: (group, descriptor, the pick they are for) (R327). -/
  filled : List (Nat × Nat × Nat) := []
  reshard : Option ReshardPlan := none
  deriving DecidableEq, Repr

/-- The page service's state beside the PAGE_ registers: the models by instance, and PAGE_AGE_CFG as in force
since the last wall (R339). -/
structure PageS where
  models : SMap Model := []
  ageCfg : Nat := 0x82080400
  deriving DecidableEq, Repr

/-- Bytes of a summary entry (R306). -/
def Geometry.entryBytes (g : Geometry) : Nat := 64 + 4 * g.dim
/-- Bytes of a near slot and of a far slot (Table 9.2). -/
def Geometry.nearSlot (g : Geometry) : Nat := 2 * g.pt * g.dim
def Geometry.farSlot (g : Geometry) : Nat := 2 * 17 * g.pt * g.dim / 32
/-- NS, FS and the number of summary entries (R308). -/
def Geometry.ns (g : Geometry) : Nat := ((g.near + g.pt - 1) / g.pt + 2 * g.seqs) * g.layers * g.heads
def Geometry.fs (g : Geometry) : Nat :=
  ((g.total + g.pt - 1) / g.pt + g.seqs - (g.near + g.pt - 1) / g.pt) * g.layers * g.heads
def Geometry.summaries (g : Geometry) : Nat := ((g.total + g.pt - 1) / g.pt + g.seqs) * g.layers * g.heads
/-- Offsets of the near-tier regions, in the order of R335, and of the first tensor. -/
def Geometry.poolOff (g : Geometry) : Nat := g.summaries * g.entryBytes
def Geometry.gatherOff (g : Geometry) : Nat := g.poolOff + g.ns * g.nearSlot
def Geometry.stageOff (g : Geometry) : Nat := g.gatherOff + 2 * g.steps * g.gatherBytes
def Geometry.nearRes (g : Geometry) : Nat := g.stageOff + 2 * g.stageBytes
def Geometry.farRes (g : Geometry) : Nat := g.fs * g.farSlot

/-- The address that a transmit descriptor's source has in pick `p`: in odd picks, the odd half of a gather or
staging buffer of the model (R327, R335). -/
def Model.parityAddr (m : Model) (p va : Nat) : Nat :=
  let half (o n : Nat) : Bool := m.va + o ≤ va && va < m.va + o + n
  if p % 2 = 0 then va
  else if half m.geo.gatherOff (m.geo.steps * m.geo.gatherBytes) then va + m.geo.steps * m.geo.gatherBytes
  else if half m.geo.stageOff m.geo.stageBytes then va + m.geo.stageBytes
  else va

/-! ## Chapters 10, 11 and 13: queue pairs, regions, ports and the shared receive buffer -/

/-- The peer of a queue pair (R482): `kind` 4, 6 or 1, and the fields of that kind. -/
structure Peer where
  kind : Nat := 0
  base : Nat := 0
  src : Nat := 0
  dst : Nat := 0
  ep : Nat := 0
  deriving DecidableEq, Repr

/-- A transport packet (Tables 10.5, 10.6 and 16.4): `ext` is the opcode extension; `phase`, `hi` and `txc` are the
fields of the ENC extension and `tag` the tag, where FLAGS.ENC is set. -/
structure TPkt where
  op : Nat
  flags : Nat
  pkey : Nat
  tenant : Nat
  dst : Nat
  psn : Nat
  tx : Nat
  echo : Nat
  ext : List Byte
  payload : List Byte
  phase : Nat := 0
  hi : Nat := 0
  txc : Nat := 0
  tag : List Byte := []
  deriving DecidableEq, Repr

/-- An outstanding request of a queue pair (R344, R347).  PSNs are counted without the modulus of R352. -/
structure Req where
  queue : Nat
  slot : Nat
  read : Bool
  len : Nat
  lva : Nat
  rva : Nat
  rkey : Nat
  imm : Nat
  flags : Nat
  inl : List Byte
  /-- The first PSN, once one is assigned, and the packets built (a READ: all at once). -/
  first : Option Nat := none
  built : Nat := 0
  deriving DecidableEq, Repr

/-- A placement or a read in flight, or a packet that waits to be placed (R355, R365, R371). -/
structure Placing where
  psn : Nat
  pkt : TPkt
  /-- The physical pieces to write: (address, bytes). -/
  pieces : List (Nat × List Byte)
  region : Nat
  /-- Its queue pair has not been reset since. -/
  live : Bool := true
  deriving DecidableEq, Repr

/-- What the receiver keeps of a WRITE packet for the notification of its message (R356). -/
structure RxRec where
  psn : Nat
  first : Bool
  last : Bool
  note : Bool
  imm : Nat
  va : Nat
  len : Nat
  deriving DecidableEq, Repr

/-- A queue pair's context (R342, R352, R353, R360, R387 to R394, R400). -/
structure Qp where
  state : Nat := 0
  asid : Nat := 0
  sendQ : Nat := 0
  notifyQ : Nat := 0
  tenant : Nat := 0
  pkey : Nat := 0
  mtu : Nat := 0
  window : Nat := 0
  peer : Peer := {}
  dst : Nat := 0
  rqPsn : Nat := 0
  sqPsn : Nat := 0
  cipher : Nat := 0
  lastStatus : Nat := 0
  reqs : List Req := []
  sndNxt : Nat := 0
  sndUna : Nat := 0
  /-- PSNs from SND_UNA on that are acknowledged. -/
  acked : List Nat := []
  /-- PSNs in FAULT_WAIT, and PSNs to be sent again, in order. -/
  wait : List Nat := []
  retx : List Nat := []
  /-- PSNs resent under R359 since the last expiry. -/
  sacked : List Nat := []
  /-- The path of the last copy of each PSN sent. -/
  copies : SMap Nat := []
  retry : Nat := 0
  /-- SRTT, RTTVAR and RTO in units of 1/1024 ns; RTO 0 before the first start of the timer. -/
  sampled : Bool := false
  srtt : Nat := 0
  rttvar : Nat := 0
  rto : Nat := 0
  timer : Bool := false
  /-- A local translation waits on a fault (R367). -/
  local_ : Option Nat := none
  cum : Nat := 0
  /-- PSNs after CUM received. -/
  got : List Nat := []
  refused : Option Nat := none
  placing : List Placing := []
  /-- FENCE_LAST packets that wait for earlier PSNs, and the packet that a stalled placement holds in mode 1:
  (place in the shared receive buffer, PSN, packet). -/
  fenced : List (Nat × Nat × TPkt) := []
  held : List (Nat × Nat × TPkt) := []
  /-- PSNs whose placement waits on a fault. -/
  faulted : List Nat := []
  recs : List RxRec := []
  /-- LAST PSNs whose notification has been written, as long as CUM has not passed them. -/
  noted : List Nat := []
  /-- Read responses waiting to be sent: (PSN, TX_TS to echo, data). -/
  resp : List (Nat × Nat × List Byte) := []
  ackNew : Nat := 0
  ackOwed : Bool := false
  gap : Bool := false
  /-- PSN and TX_TS of the last packet received. -/
  lastPsn : Nat := 0
  lastTs : Nat := 0
  /-- ACK, NAK, RESUME and CE_ECHO packets for which no path can carry them now. -/
  ctl : List TPkt := []
  rate : Nat := 0
  run : Nat := 0
  /-- RTT samples: (wall time in ns, sample in ns), newest first. -/
  rtts : List (Nat × Nat) := []
  /-- Inputs of the update period: the smallest sample, MARKED and ARRIVED. -/
  least : Option Nat := none
  ceM : Nat := 0
  ceA : Nat := 0
  ceSeen : Bool := false
  /-- The pacer's release time in core cycles. -/
  release : Nat := 0
  scores : List Nat := []
  quar : List Nat := []
  lastPath : Nat := 15
  /-- The receiver's counts since the last echo (R391). -/
  marked : Nat := 0
  arrived : Nat := 0
  mask : Nat := 0
  cePsn : Nat := 0
  ceTs : Nat := 0
  echoed : Bool := false
  /-- Device group that it is bound to (R404). -/
  group : Option Nat := none
  deriving DecidableEq, Repr

/-- A region entry (R368): `state` 0 FREE, 1 VALID, 2 REVOKING, 3 RETIRED; `slot` of the revocation under way. -/
structure Region where
  state : Nat := 0
  epoch : Nat := 0
  asid : Nat := 0
  base : Nat := 0
  len : Nat := 0
  rd : Bool := false
  wr : Bool := false
  tenant : Nat := 0
  inflight : Nat := 0
  slot : Nat := 0
  deriving DecidableEq, Repr

/-- The transport's state beside the QP_ registers: queue pairs by number, regions by instance * 2^24 + index. -/
structure QpS where
  qps : SMap Qp := []
  regions : SMap Region := []
  /-- Immediate notifications for ring queues, by instance * 4096 + queue: (QPN, IMM, length, PSN of the LAST packet). -/
  notes : SMap (List (Nat × Nat × Nat × Nat)) := []
  deriving DecidableEq, Repr

/-- What a queued weft packet carries: a transport packet of a queue pair, stamped when it leaves, or a fabric frame
(its 16 header bytes, whose HCRC is computed when it leaves, and its payload). -/
inductive Load
  | own (qpn : Nat) (p : TPkt)
  | fabric (hdr payload : List Byte)
  deriving DecidableEq, Repr

/-- A packet in a class FIFO of a port; `srb` numbers its place in the shared receive buffer, where it has one. -/
structure OutPkt where
  vc : Nat
  inst : Nat
  path : Nat
  load : Load
  srb : Option Nat
  deriving DecidableEq, Repr

/-- A packet in the shared receive buffer (R395 to R397): `egress` is a port, or 32 + die for local placement. -/
structure SrbPkt where
  id : Nat
  cage : Nat
  egress : Nat
  vc : Nat
  len : Nat
  /-- Space class: 0 the cage's reserve, 1 the shared part, 2 the VC4 reserve. -/
  part : Nat
  ce : Bool
  ect : Bool
  path : Nat
  /-- The transport packet's bytes, for local placement. -/
  data : List Byte
  deriving DecidableEq, Repr

/-- The scheduler of a port (R377, R378): V and the finish tags by VC, and the same per VC by instance
(keys VC, and VC * 32 + instance). -/
structure Wfq where
  v : Nat := 0
  f : SMap Nat := []
  v2 : SMap Nat := []
  f2 : SMap Nat := []
  deriving DecidableEq, Repr

/-- The ports' state beside the LNK_, MAC_ and CC_ registers. -/
structure NetS where
  queues : SMap (List OutPkt) := []
  wfq : SMap Wfq := []
  /-- The last frame that each port has sent. -/
  sent : SMap SentFrame := []
  srb : List SrbPkt := []
  nextId : Nat := 0
  /-- Bucket settings in force, and whether a shaper (key 0 + n) or policer (key 64 + n), n = cage * 4 + class, has them. -/
  buckets : SMap Nat := []
  /-- Credit counts received, units sent, and units freed, by port * 8 + VC (R442). -/
  credit : SMap Nat := []
  units : SMap Nat := []
  freed : SMap Nat := []
  /-- VC3 frames received and not yet handled, by port (R424). -/
  vc3 : SMap (List (List Byte)) := []
  /-- Management frames delivered to the MANAGER pair of a die, newest last. -/
  mgmt : SMap (List (List Byte)) := []
  /-- The last LOSS or CREDIT word sent on each lane (R439). -/
  sideband : SMap (List Byte) := []
  /-- When each port entered low-power idle, core cycles (R454). -/
  lpiAt : SMap Nat := []
  /-- The last LLDPDU sent on each port: the wake time it offers. -/
  lldp : SMap Nat := []
  deriving DecidableEq, Repr

/-! ## Chapter 12: collectives -/

/-- A weft collective under way at this member (R406 to R413): its descriptor, the ring entry that started it, the
chunks signalled. -/
structure ColOp where
  desc : List Byte
  ring : Option (Nat × Nat)
  next : Nat := 0
  /-- The status it must end early with, once its signal finds room; 0 for none. -/
  due : Nat := 0
  deriving DecidableEq, Repr

/-- A contribution to a pinch operation: OP + 16 * TYPE, posts folded in, the value. -/
structure Contrib where
  optype : Nat
  count : Nat
  value : List Byte
  deriving DecidableEq, Repr

/-- A pinch slot (R420, R422): posts, ARRIVEs by child port, whether its ARRIVE has been sent. -/
structure PinchSlot where
  posts : List Contrib := []
  kids : SMap Contrib := []
  up : Bool := false
  /-- An ARRIVE with FAILED has come (R426). -/
  bad : Bool := false
  /-- The wall time of the first post, ns. -/
  at_ : Nat := 0
  deriving DecidableEq, Repr

/-- A collective group (R403, R405). -/
structure Group where
  state : Nat := 0
  tag : Nat := 0
  gen : Nat := 0
  size : Nat := 0
  rank : Nat := 0
  asid : Nat := 0
  qps : List Nat := []
  parent : Nat := 0x1F
  mcast : Nat := 0
  local_ : Nat := 0
  total : Nat := 0
  pkey : Nat := 0
  resultQ : Nat := 0
  hostResult : Nat := 0
  deliver : Nat := 0
  seq : Nat := 0
  s0 : PinchSlot := {}
  s1 : PinchSlot := {}
  ops : List ColOp := []
  deriving DecidableEq, Repr

/-- A pinch frame kept until it is acknowledged (R425). -/
structure Kept where
  port : Nat
  group : Nat
  frame : List Byte
  tries : Nat := 0
  deriving DecidableEq, Repr

/-- A post that waits in a die's post queue (R419). -/
structure Post where
  group : Nat
  c : Contrib
  deriving DecidableEq, Repr

/-- The collectives' state beside the COL_ registers, groups by device group number. -/
structure ColS where
  groups : SMap Group := []
  kept : List Kept := []
  /-- Frames (of a device group) that wait for a token, by port (R424). -/
  out : SMap (List (Nat × List Byte)) := []
  /-- Tokens missing from a full bucket, by port, as of the microsecond in `filled`. -/
  spent : SMap Nat := []
  filled : SMap Nat := []
  posts : SMap (List Post) := []
  deriving DecidableEq, Repr

/-! ## Chapter 16: keys -/

/-- A valid phase of a key context (R518). -/
structure KeyPhase where
  tenant : Nat
  group : Nat
  gen : Nat
  dir : Nat
  txc : Nat
  deriving DecidableEq, Repr

/-- A key context; `tenant` and `group` are those of its last INSTALL. -/
structure KeyCtx where
  tenant : Nat := 0
  group : Nat := 0
  p0 : Option KeyPhase := none
  p1 : Option KeyPhase := none
  tx : Nat := 0
  deriving DecidableEq, Repr

/-- The security block's state beside the SEC_ registers. -/
structure SecS where
  ctxs : SMap KeyCtx := []
  /-- The domain secret and the battery key, as the numbers that name them: 0 for none. -/
  ds : Nat := 0
  bkek : Nat := 0
  /-- A debug unlock or an alarm has been accepted and the keys are being overwritten: debug is to open (R528). -/
  zeroing : Bool := false
  opening : Bool := false
  /-- The reseed has fallen due with the DRBG not OK: it is stopped (R527). -/
  drbgStopped : Bool := false
  /-- The RK read latch (R528). -/
  rkLatch : Bool := false
  /-- The cell is exhausted or out (R532, R626). -/
  cellGone : Bool := false
  /-- The battery-domain seconds counter (R531): the value last loaded and the core cycle of the load. -/
  secs : Nat := 0
  secsAt : Nat := 0
  /-- Events since manufacture (R531). -/
  tamperSeq : Nat := 0
  /-- CREATE_GEN of each instance (R525). -/
  createGen : SMap Nat := []
  deriving DecidableEq, Repr


/-- The state of the adapter. -/
structure State where
  /-- The commands that wait, first in, first out. -/
  pending : List Instr := []
  /-- The registers that differ from their reset value (Regs.lean). -/
  csr : SMap Nat := []
  /-- The written bits of registers that take effect at the next wall, by register (R32). -/
  later : SMap Nat := []
  /-- Device memory by device physical address, both tiers and the tile stores: an unlisted byte is 0. -/
  mem : List Host.Cell := []
  /-- Poisoned lines, keyed by line number (R262). -/
  poison : SMap Bool := []
  /-- What the device has written to host memory, by host bus address. -/
  hostMem : SMap Byte := []
  /-- Host lines the device has written as poisoned posted writes (R296, R483). -/
  hostBad : SMap Bool := []
  /-- The counter that numbers free values (the model's own field). -/
  free : Nat := 0
  /-- Pick-relative cycle (R61). -/
  cyc : Nat := 0
  /-- Core cycles since power-on. -/
  time : Nat := 0
  bus : BusS := {}
  memu : MemS := {}
  xlt : XltS := {}
  rings : RingS := {}
  insts : InstS := {}
  warp : WarpS := {}
  dom : DomS := {}
  til : TileS := {}
  rel : RelS := {}
  page : PageS := {}
  qp : QpS := {}
  net : NetS := {}
  col : ColS := {}
  sec : SecS := {}
  pow : PowS := {}
  trc : TrcS := {}
  deriving DecidableEq, Repr

/-- The machine right after reset. -/
def State.reset : State := {}

end Sys2Proof.Machine
end

