-- ==== Sys2Proof/Machine/Ops.lean ====
section
/-! DEFINITION. The named operations over registers, memory, host memory and interrupts that every meaning is
written with, and the shares of an instance (Tables 1.5, 1.7 and 15.1). -/
namespace Sys2Proof.Machine
open Sys2Proof

/-! ### Status codes (Table 0.2, R14) -/

def stOK : Nat := 0x00
def stABORTED : Nat := 0x01
def stMALFORMED : Nat := 0x02
def stACCESS : Nat := 0x03
def stCAPACITY : Nat := 0x04
def stLATE : Nat := 0x05
def stSTALE_ROLE : Nat := 0x06
def stREMOTE_ACCESS : Nat := 0x07
def stRETRY_EXCEEDED : Nat := 0x08
def stFLUSHED : Nat := 0x09
def stTAG_FAIL : Nat := 0x0A
def stFAULT_UNRESOLVED : Nat := 0x0B
def stPARTITION : Nat := 0x0C
def stBUSY : Nat := 0x0D
def stDETACHED : Nat := 0x0E
def stHOLE : Nat := 0x0F

/-! ### Registers -/

/-- The value that register `a` holds. -/
def State.reg (s : State) (a : Nat) : Nat := (tfind s.csr a).getD (regReset a)

/-- Register `a` holds `v`. -/
def State.setReg (s : State) (a v : Nat) : State :=
  { s with csr := if v = regReset a then tdel s.csr a else tput s.csr a v }

/-- The value of field `f`. -/
def State.get (s : State) (f : RegFld) : Nat := bits (s.reg f.reg) f.lo f.w

/-- Field `f` holds `v` (its low bits). -/
def State.put (s : State) (f : RegFld) (v : Nat) : State :=
  s.setReg f.reg (setBits (s.reg f.reg) f.lo f.w v)

/-- Whether the one-bit field `f` is 1. -/
def State.on (s : State) (f : RegFld) : Bool := s.get f != 0

/-- Set an event or status bit. -/
def State.raise (s : State) (f : RegFld) : State := s.put f 1

/-- Set an event or status bit if `c`. -/
def State.raiseIf (s : State) (c : Bool) (f : RegFld) : State := if c then s.put f 1 else s

/-- Add `n` to a saturating counter. -/
def State.bump (s : State) (f : RegFld) (n : Nat := 1) : State :=
  s.put f (satAdd f.w (s.get f) n)

/-- A free value's number: read the counter and advance it. -/
def State.tick (s : State) : State := { s with free := s.free + 1 }

/-! ### Instances (R45, R49, R490, R491) -/

/-- The number of instances of the mode (INST_CFG.MODE). -/
def State.nInst (s : State) : Nat :=
  match s.get INST_CFG_MODE with
  | 0 => 1
  | 1 => 4
  | _ => 16

/-- The number of logical tiles of an instance's block (Table 1.7). -/
def State.blockTiles (s : State) : Nat := 4096 / s.nInst

/-- The instance whose block holds logical tile `t`. -/
def State.instOfTile (s : State) (t : Nat) : Nat := t / s.blockTiles

/-- The tiles the device holds in each block: the first two of a block in modes 4 and 16, the first two of
every die in mode 1 (Table 1.7). -/
def State.heldTile (s : State) (t : Nat) : Bool :=
  if s.nInst = 1 then t % 1024 < 2 else t % s.blockTiles < 2

/-- Whether instance `i` exists (its state is not ABSENT). -/
def State.instExists (s : State) (i : Nat) : Bool := i < s.nInst && s.get (INST_STATE_STATE i) != 0

/-- Whether instance `i` is DETACHED (R485, R486). -/
def State.detached (s : State) (i : Nat) : Bool := s.on (RING_ATTACH_DETACHED i)

/-- Base and length of the near-tier range of instance `i` (Table 1.5). -/
def State.nearRange (s : State) (i : Nat) : Nat × Nat :=
  let l := 0x8000000000 / s.nInst
  (i * l, l)

/-- Base and length of the far-tier range of instance `i` (Table 1.5). -/
def State.farRange (s : State) (i : Nat) : Nat × Nat :=
  let l := 0x18000000000 / s.nInst
  (0x010000000000 + i * l, l)

/-- Whether [a, a + n) lies inside the range `r`. -/
def inside (r : Nat × Nat) (a n : Nat) : Bool := r.1 ≤ a && a + n ≤ r.1 + r.2

/-- Whether [a, a + n) and [b, b + m) share an address. -/
def overlap (a n b m : Nat) : Bool := a < b + m && b < a + n

/-- The base of the window of logical tile `t` (R41). -/
def tileWin (t : Nat) : Nat := 0x0F0000000000 + t * 0x40000

/-- The offset of `pa` in the tile windows: the tile and the window offset, if it lies there. -/
def winOf (pa : Nat) : Option (Nat × Nat) :=
  if 0x0F0000000000 ≤ pa && pa < 0x0F0040000000 then
    some ((pa - 0x0F0000000000) / 0x40000, (pa - 0x0F0000000000) % 0x40000)
  else none

/-- Whether `pa` lies in the near tier (Table 1.2). -/
def isNear (pa : Nat) : Bool := pa < 0x008000000000

/-- Whether `pa` lies in the far tier (Table 1.2). -/
def isFar (pa : Nat) : Bool := 0x010000000000 ≤ pa && pa < 0x028000000000

/-- The row of Table 1.2 that holds `pa`: 0 reserved, 1 near, 2 far, 3 tile windows, 4 CSR space. -/
def rowOf (pa : Nat) : Nat :=
  if isNear pa then 1
  else if isFar pa then 2
  else if 0x0F0000000000 ≤ pa && pa < 0x0F0040000000 then 3
  else if 0x0FF000000000 ≤ pa && pa < 0x100000000000 then 4
  else 0

/-- Whether an engine access of `n` bytes at `pa` stays inside one usable row of Table 1.2 (R40). -/
def oneRow (pa n : Nat) : Bool := rowOf pa != 0 && rowOf pa == rowOf (pa + n - 1)

/-! ### Device memory (R27, R261 to R263) -/

/-- The byte at device physical address `pa`. -/
def State.byte (s : State) (pa : Nat) : Byte := mget 0 s.mem pa

/-- The byte at `pa` becomes `b`. -/
def State.setByte (s : State) (pa : Nat) (b : Byte) : State := { s with mem := mset 0 s.mem pa b }

/-- The `n` bytes from `pa`. -/
def State.bytes (s : State) (pa n : Nat) : List Byte := (List.range n).map fun k => s.byte (pa + k)

/-- The bytes from `pa` become `bs`. -/
def State.setBytes (s : State) (pa : Nat) : List Byte → State
  | [] => s
  | b :: bs => (s.setByte pa b).setBytes (pa + 1) bs

/-- The little-endian number in the `n` bytes from `pa`. -/
def State.num (s : State) (pa n : Nat) : Nat := leNat (s.bytes pa n)

/-- The far tier has no keys: its reads return poison, and its writes are discarded (R528, R529). -/
def State.farDark (s : State) : Bool := s.sec.zeroing || s.get SEC_STATE_KEYS == 2

/-- Whether the line that holds `pa` is poisoned (R262), or reads so (R529). -/
def State.poisoned (s : State) (pa : Nat) : Bool := mget false s.poison (pa / 64) || (isFar pa && s.farDark)

/-- The line that holds `pa` becomes poisoned or clean. -/
def State.setPoison (s : State) (pa : Nat) (p : Bool) : State :=
  { s with poison := mset false s.poison (pa / 64) p }

/-- Whether any line of the `n` bytes from `pa` is poisoned. -/
def State.anyPoison (s : State) (pa n : Nat) : Bool :=
  (s.poison.any fun p => p.2 && overlap (p.1 * 64) 64 pa n) || (isFar pa && s.farDark)

/-! ### The memory error log (R274) -/

/-- Write one 32-byte record at MEM_ERR_LOG_HEAD.NEXT, the oldest giving way (Table 7.7). -/
def State.memLog (s : State) (kind addr chan unit src row : Nat) : State :=
  let n := s.get MEM_ERR_LOG_HEAD_NEXT
  let tier := if isFar addr || (kind == 7) then 1 else 0
  let a := if kind = 6 || kind = 7 then 0 else addr / 64 * 64
  let s1 := s.setReg (MEM_ERR_LOG n 0) (s.get PICK_NUMBER_NUMBER + kind * 2 ^ 48 + tier * 2 ^ 56)
  let s2 := s1.setReg (MEM_ERR_LOG n 1) a
  let s3 := s2.setReg (MEM_ERR_LOG n 2) (chan + unit * 2 ^ 8 + src * 2 ^ 16 + row * 2 ^ 32)
  let s4 := s3.setReg (MEM_ERR_LOG n 3) 0
  let lost := mget false s.memu.unread n
  let s5 := if lost then (s4.bump MEM_ERR_LOG_HEAD_OVERWRITTEN).raise MEM_EVENT_LOG_OVERWRITE else s4
  { s5.put MEM_ERR_LOG_HEAD_NEXT ((n + 1) % 64) with
    memu := { s5.memu with unread := mset false s5.memu.unread n true } }

/-! ### The interleave hash (R251, R252) -/

/-- The tier offset of a device physical address (R251). -/
def tierOff (pa : Nat) : Nat := if isFar pa then pa - 0x010000000000 else pa

/-- The global region number of `pa` (R251). -/
def regionOf (pa : Nat) : Nat :=
  (if isFar pa then 262144 else 0) + bits (tierOff pa) 21 20

/-- The line offset of `pa` in its region (R251). -/
def lineOf (pa : Nat) : Nat := bits pa 6 15

/-- Table 7.2, the near-tier base rows. -/
def nearBase : List Nat := [0x2901, 0x5202, 0x2504, 0x4A08, 0x1510, 0x2A20, 0x5440, 0x4380]

/-- Table 7.2, the far-tier base rows. -/
def farBase : List Nat :=
  [0x1001, 0x2002, 0x4004, 0x3008, 0x6010, 0x5020, 0x7040, 0x1080, 0x2100, 0x4200, 0x3400, 0x6800]

/-- `b` with bit k moved to bit 14 - k (R252). -/
def reverse15 (b : Nat) : Nat := ((List.range 15).map fun k => bits b k 1 * 2 ^ (14 - k)).sum

/-- Rotate left within 15 bits (R252). -/
def rol15 (b r : Nat) : Nat := (b * 2 ^ (r % 15) % 2 ^ 15) ||| (b / 2 ^ (15 - r % 15))

/-- The channel of line `o` of global region `rg` under salt `t` (R252): near 0 to 255, far 0 to 47. -/
def channelOf (rg o t : Nat) : Nat :=
  let far := 262144 ≤ rg
  let g := if far then rg - 262144 else rg
  let r := if 8 ≤ t then 2 * (t - 8) else 2 * t
  let row (b : Nat) : Nat := popCount 15 (o &&& rol15 (if 8 ≤ t then reverse15 b else b) r) % 2
  let h := (((if far then farBase else nearBase).map row).zipIdx.map fun p => p.1 * 2 ^ p.2).sum
  if far then ((h ^^^ (g % 4096) ^^^ bits g 12 8) * 48) / 4096
  else h ^^^ (g % 256) ^^^ bits g 8 8 ^^^ bits g 16 4

/-- The salt entry of a region: g mod 16 unless re-salted (R254). -/
def State.saltOf (s : State) (rg : Nat) : Salt :=
  (tfind s.memu.salts rg).getD { salt := (if 262144 ≤ rg then rg - 262144 else rg) % 16 }

/-- The channel that an access to `pa` goes to, during a move as R258 steers it. -/
def State.chanOf (s : State) (pa : Nat) : Nat :=
  let e := s.saltOf (regionOf pa)
  let o := lineOf pa
  channelOf (regionOf pa) o (if e.migrating && e.cursor ≤ o then e.old else e.salt)

/-! ### Engine reads and writes of device memory -/

/-- A write of bytes within one line (R263): a whole line clears poison; a part of a poisoned line is
discarded and logged. -/
def State.writeLine (s : State) (pa : Nat) (bs : List Byte) : State :=
  if isFar pa && s.farDark then s
  else if (isNear pa || isFar pa) && s.poisoned pa then
    if bs.length = 64 then (s.setBytes pa bs).setPoison pa false
    else (s.memLog 4 pa (s.chanOf pa) 0xFF 1 (Config.rowOf pa)).raise MEM_EVENT_POISON_WRITE_DROP
  else s.setBytes pa bs

/-- A posted write of any length, line by line. -/
def State.writeLoop : Nat → State → Nat → List Byte → State
  | 0, s, _, _ => s
  | f + 1, s, pa, bs =>
    if bs.isEmpty then s
    else
      let n := 64 - pa % 64
      State.writeLoop f (s.writeLine pa (bs.take n)) (pa + min n bs.length) (bs.drop n)

/-- A posted write of `bs` at device physical address `pa`. -/
def State.write (s : State) (pa : Nat) (bs : List Byte) : State :=
  State.writeLoop (bs.length + 1) s pa bs

/-- Log one POISON_READ for each poisoned line of the `n` bytes from `pa` (Table 7.3); none for a far line without keys
(R529). -/
def State.logPoison (s : State) (pa n : Nat) : State :=
  if isFar pa && s.farDark then s
  else ((s.poison.filter fun p => p.2 && overlap (p.1 * 64) 64 pa n).map (·.1 * 64)).foldl
    (fun s a => s.memLog 3 a (s.chanOf a) 0xFF 1 (Config.rowOf a)) s

/-- An engine read of `n` bytes at `pa`: the bytes, or a poison indication with its record (R262). -/
def State.read (s : State) (pa n : Nat) : State × Option (List Byte) :=
  if s.anyPoison pa n then (s.logPoison pa n, none) else (s, some (s.bytes pa n))

/-! ### Trace records and the trigger (R566 to R571, R576) -/

/-- TS: core cycles since the last cold reset (R567). -/
def State.ts (s : State) : Nat := s.time - s.trc.zero

/-- The die of a trace source (R33, R574). -/
def sourceDie (key : Nat) : Nat :=
  if key < 4096 then key / 1024
  else if key < 4224 then (key - 4096) / 6
  else if key < 4352 then (key - 4224) / 24
  else if key < 4608 then (key - 4352) / 64
  else if key < 4656 then (key - 4608) / 12
  else 3

/-- The trace source of a tile, a port, a lane, a memory channel and the trace unit. -/
def srcPort (p : Nat) : Nat := 4096 + p
def srcLane (l : Nat) : Nat := 4224 + l
def srcMem (c : Nat) : Nat := 4352 + c
def srcUnit : Nat := 4672

/-- A trace record (Table 19.1). -/
def traceRec (ts cls kind source inst key status seq : Nat) (detail : List Byte) : List Byte :=
  leBytes 8 ts ++ ([BitVec.ofNat 8 kind, BitVec.ofNat 8 cls] : List Byte) ++ leBytes 2 source ++
    ([BitVec.ofNat 8 (inst + 16 * sourceDie key), BitVec.ofNat 8 status] : List Byte) ++ leBytes 2 seq ++ sliceB detail 0 16

/-- The slot of trace source `key`. -/
def State.traceSlot (s : State) (key : Nat) : TrcSlot := mget {} s.trc.slots key

/-- That slot becomes `x`. -/
def State.setTraceSlot (s : State) (key : Nat) (x : TrcSlot) : State :=
  { s with trc := { s.trc with slots := tput s.trc.slots key x } }

/-- Write a record into the slot of its source, or drop it and count the drop (R571). -/
def State.traceInto (s : State) (cls kind key source inst status : Nat) (detail : List Byte) : State :=
  let x := s.traceSlot key
  match x.rec_ with
  | some _ =>
    (s.setTraceSlot key { x with
      drops := min (x.drops + 1) (2 ^ 32 - 1)
      first := if x.drops = 0 then s.ts else x.first
      last := s.ts }).bump TRC_DROPPED_VAL
  | none =>
    s.setTraceSlot key { x with
      rec_ := some (traceRec s.ts cls kind source inst key status x.seq detail)
      seq := (x.seq + 1) % 65536 }

/-- Whether records of a class are written (R568). -/
def State.traceOn (s : State) (cls inst : Nat) : Bool :=
  s.on TRC_CFG_ENABLE && bit (s.get TRC_CLASS_EN_VAL) cls &&
    (!([1, 2, 3, 4, 8, 9, 10].contains cls) || bit (s.get TRC_INST_MASK_VAL) inst)

/-- The armed trigger fires; bit k of `mask` names its source k (R576). -/
def State.fire (s : State) (mask : Nat) : State :=
  let s1 := if s.traceOn 14 0 then s.traceInto 14 8 srcUnit 0 0 0 (leBytes 2 mask) else s
  let s2 := ((s1.setReg TRC_TRIG_STATUS (2 + mask * 16 + s.ts % 2 ^ 48 * 2 ^ 16)).raise TRC_EVENT_FIRED)
  let s3 := if s.on TRC_TRIG_CFG_HALT then s2.put TRC_HALT_STATUS_HALTING 1 else s2
  let s4 := if s.on TRC_TRIG_CFG_TRACE_STOP then s3.put TRC_CFG_ENABLE 0 else s3
  { s4 with trc := { s4.trc with
      haltDue := s.on TRC_TRIG_CFG_HALT || s.trc.haltDue
      freezeDue := s.on TRC_TRIG_CFG_FREEZE || s.trc.freezeDue } }

/-- Whether an event fires the MATCH source (R576). -/
def State.traceMatch (s : State) (cls kind source status : Nat) : Bool :=
  s.get TRC_TRIG_STATUS_STATE = 1 && s.on TRC_TRIG_CFG_SRC_MATCH && s.get TRC_TRIG_MATCH_CLASS = cls &&
    s.get TRC_TRIG_MATCH_KIND = kind && (s.on TRC_TRIG_MATCH_ANY_SOURCE || s.get TRC_TRIG_MATCH_SOURCE = source % 65536) &&
    (!s.on TRC_TRIG_MATCH_NOT_OK || status != 0)

/-- A trace point of source `key` (R568, R570, R576): its record, unless sampling leaves it out, and the MATCH
source. -/
def State.trace (s : State) (cls kind key source inst status : Nat) (detail : List Byte) (sampled : Bool := true) : State :=
  let s1 := if s.traceOn cls inst && sampled then s.traceInto cls kind key source inst status detail else s
  if s.traceMatch cls kind source status then s1.fire 8 else s1

/-- The tile that serves commands of an instance for a role: the lowest tile with that role, else the first of the
block. -/
def State.serving (s : State) (i role : Nat) : Nat :=
  let b := i * s.blockTiles
  match (List.range s.blockTiles).find? fun k => s.get (TILE_ROLE_ROLE (b + k)) == role with
  | some k => b + k
  | none => b

/-- A trace point of a class that the tile serving the command writes (R571): one with role `role` of instance `i`. -/
def State.traceBy (s : State) (cls kind i role source status : Nat) (detail : List Byte) : State :=
  let s1 := if s.traceOn cls i then s.traceInto cls kind (s.serving i role) source i status detail else s
  if s.traceMatch cls kind source status then s1.fire 8 else s1

/-- A command that firmware executes begins or ends on the active manager of die 0 (class 12). -/
def State.traceMgmt (s : State) (kind op sub status : Nat) : State :=
  let t := if s.til.mgrSwap.contains 0 then 1 else 0
  s.trace 12 kind t t 0 status ([BitVec.ofNat 8 op, BitVec.ofNat 8 sub] : List Byte)

/-- A job of memory channel `c` begins (1) or ends (2) (class 11). -/
def State.traceMem (s : State) (kind c op region : Nat) : State :=
  s.trace 11 kind (srcMem c) c 0 0 (([BitVec.ofNat 8 op] : List Byte) ++ leBytes 3 0 ++ leBytes 4 region)

/-! ### Host memory and interrupts (R486, R499, R627) -/

/-- Whether the device may write host memory for instance `i`: it is attached and not in reset. -/
def State.hostOk (s : State) (i : Nat) : Bool :=
  !s.detached i && !s.rings.linkDown && (tfind s.insts.resets i).isNone

/-- A posted write of `bs` at host bus address `a` for instance `i` (R627). -/
def State.hostPut (s : State) (i a : Nat) (bs : List Byte) : State :=
  if s.hostOk i then
    { s with hostMem := (bs.zipIdx).foldl (fun m p => tput m (a + p.2) p.1) s.hostMem }
  else s

/-- A poisoned posted write of the host line at `a` (R296, R483). -/
def State.hostPoison (s : State) (i a : Nat) : State :=
  if s.hostOk i then { s with hostBad := tput s.hostBad (a / 64) true } else s

/-- Raise MSI-X vector `v` of the function that owns instance `i` (R458, R486, R491). -/
def State.irq (s : State) (i v : Nat) : State :=
  if s.hostOk i then
    { s with rings := { s.rings with
        irqs := mset 0 s.rings.irqs (i * 2048 + v) (mget 0 s.rings.irqs (i * 2048 + v) + 1) } }
  else s

end Sys2Proof.Machine
end

