-- ==== Sys2Proof/Machine/Rings.lean ====
section
/-! DEFINITION. Command rings (14_host_interface.md R462 to R489): queues, taking and completing entries, head
publication, interrupts, instance events. -/
namespace Sys2Proof.Machine
open Sys2Proof

/-- Queue `q` of instance `i`. -/
def State.queue (s : State) (i q : Nat) : Queue := mget {} s.rings.queues (i * 4096 + q)

/-- Queue `q` of instance `i` becomes `x`. -/
def State.setQueue (s : State) (i q : Nat) (x : Queue) : State :=
  { s with rings := { s.rings with queues := mset {} s.rings.queues (i * 4096 + q) x } }

/-- `n` as a 32-bit count of slots (R462). -/
def slotMod (n : Nat) : Nat := n % 2 ^ 32

/-- The host bus address of slot `n` (R462). -/
def Queue.slotAddr (x : Queue) (n : Nat) : Nat := x.base + (n % 2 ^ x.log2) * 64

/-- The number at body offset `off` of an entry, `n` bytes (R481: offsets count from byte 16). -/
def Entry.b (e : Entry) (off n : Nat) : Nat := leAt e.raw (16 + off) n

/-- Whether every body byte that `named` does not cover is 0 (R476). -/
def Entry.rsvdZero (e : Entry) (named : List (Nat × Nat)) : Bool :=
  (e.raw.drop 16).zipIdx.all fun p =>
    p.1 == 0 || named.any fun r => r.1 ≤ p.2 && p.2 < r.1 + r.2

/-- Whether the device may write host memory for queue `q`: attached, or the admin queue that a DETACHED
instance has enabled again (R487). -/
def State.ringHostOk (s : State) (i q : Nat) : Bool :=
  s.hostOk i || (q == 0 && (s.queue i 0).state == 1 && !s.rings.linkDown
    && (tfind s.insts.resets i).isNone)

/-- A host write that belongs to queue `q` (R467, R487). -/
def State.ringPut (s : State) (i q a : Nat) (bs : List Byte) : State :=
  if s.ringHostOk i q then
    { s with hostMem := (bs.zipIdx).foldl (fun m p => tput m (a + p.2) p.1) s.hostMem }
  else s

/-- The 16-byte header of a completed entry: OWN 0, STATUS and RESULT (R467, Table 14.3). -/
def Entry.header (e : Entry) (st res : Nat) : List Byte :=
  [0, BitVec.ofNat 8 e.op, BitVec.ofNat 8 e.len, BitVec.ofNat 8 e.flags] ++ leBytes 2 e.tag ++
    [BitVec.ofNat 8 st, 0] ++ leBytes 8 res

/-- Pass the head over the completed entries at the front of the window (R468). -/
def Queue.advance (x : Queue) : Queue :=
  let gone := x.window.takeWhile (·.done)
  let rest := x.window.dropWhile (·.done)
  { x with
    window := rest
    head := match rest with
      | e :: _ => e.slot
      | [] => x.take
    notify := x.notify || gone.any fun e => bit e.flags 0 }

/-- Append to the held-completion log of a DETACHED instance (R486). -/
def State.logHeld (s : State) (i : Nat) (r : HeldRec) : State :=
  let l := mget [] s.rings.held i
  if l.length < 65536 then
    { s with rings := { s.rings with held := tput s.rings.held i (l ++ [r]) } }
  else { s with rings := { s.rings with
      heldLost := tput s.rings.heldLost i (satAdd 32 (mget 0 s.rings.heldLost i) 1) } }

/-- The started entry at `slot` of queue `q`, if there is one that has not completed. -/
def State.entry? (s : State) (i q slot : Nat) : Option Entry :=
  match (s.queue i q).window.find? fun e => e.slot == slot && !e.done with
  | some e => some e
  | none => ((mget [] s.rings.orphans (i * 4096 + q)).find? fun e => e.slot == slot && !e.done)

/-- Complete the started entry at `slot` of queue `q` with status `st` and result `res` (R467), once (R17).
While the instance is DETACHED the completion goes to the log (R486). -/
def State.completeEntry (s : State) (i q slot st res : Nat) : State :=
  let x := s.queue i q
  match x.window.find? fun e => e.slot == slot && !e.done with
  | some e =>
    let x1 := ({ x with
      window := modifyWhere (fun e => e.slot == slot && !e.done)
        (fun e => { e with done := true, status := st, result := res }) x.window
      uncovered := x.uncovered + 1 } : Queue).advance
    let s1 := s.setQueue i q x1
    if s.detached i && x.state == 3 then s1.logHeld i ⟨q, slot, e.tag, e.op, st, res⟩
    else s1.ringPut i q (x.slotAddr slot) (e.header st res)
  | none =>
    match (mget [] s.rings.orphans (i * 4096 + q)).find? fun e => e.slot == slot && !e.done with
    | some e =>
      { s with rings := { s.rings with
          orphans := tput s.rings.orphans (i * 4096 + q)
            ((mget [] s.rings.orphans (i * 4096 + q)).filter fun e => e.slot != slot) } }.logHeld i
        ⟨q, slot, e.tag, e.op, st, res⟩
    | none => s

/-- DETAIL of a RING trace record (Table 19.2). -/
def ringDetail (e : Entry) (res : Nat) : List Byte :=
  leBytes 2 e.tag ++ leBytes 2 e.op ++ leBytes 4 e.slot ++ leBytes 8 res

/-- Complete the started entry at `slot` of queue `q` (R467, R486), with its trace record. -/
def State.complete (s : State) (i q slot st res : Nat) : State :=
  let l := ((s.queue i q).window ++ mget [] s.rings.orphans (i * 4096 + q)).find? fun e => e.slot == slot && !e.done
  match l with
  | some e => (s.completeEntry i q slot st res).traceBy 3 2 i 2 q st (ringDetail e res)
  | none => s

/-! ### Events (R484) -/

/-- The 48-byte body of an ASYNC_EVENT entry (Table 14.9). -/
def InstEvent.body (e : InstEvent) (lost : Nat) : List Byte :=
  [BitVec.ofNat 8 e.kind, 0] ++ leBytes 2 lost ++ leBytes 4 0 ++ leBytes 6 e.pick ++ leBytes 2 0 ++
    sliceB e.data 0 32

/-- Show the number of waiting events in RING_EVENT_STATUS.HELD. -/
def State.setEvents (s : State) (i : Nat) (l : List InstEvent) : State :=
  { s with rings := { s.rings with events := mset [] s.rings.events i l } }.put
    (RING_EVENT_STATUS_HELD i) l.length

/-- Deliver event `e` by completing the ASYNC_EVENT entry at `slot`: the body, then the header, then the
interrupt (R484). -/
def State.deliverTo (s : State) (i slot : Nat) (e : InstEvent) : State :=
  let x := s.queue i 0
  let n := mget 0 s.rings.delivered i + 1
  let s1 := s.ringPut i 0 (x.slotAddr slot + 16) (e.body (s.get (RING_EVENT_STATUS_LOST i)))
  let s2 := { s1.put (RING_EVENT_STATUS_LOST i) 0 with rings := { s1.rings with
    delivered := tput s1.rings.delivered i n } }
  (s2.complete i 0 slot stOK n).irq i (s2.get (RING_VEC_CFG_EVENT_VEC i))

/-- The outstanding ASYNC_EVENT entries of queue 0, oldest first. -/
def State.asyncs (s : State) (i : Nat) : List Entry :=
  if s.detached i then [] else (s.queue i 0).window.filter fun e => e.op == 0x05 && !e.done

/-- Create an event: deliver it, hold it, or count it lost (R484, R486). -/
def State.event (s : State) (i : Nat) (e : InstEvent) : State :=
  let held := mget [] s.rings.events i
  match held, s.asyncs i with
  | [], a :: _ => s.deliverTo i a.slot e
  | _, _ => if held.length < 64 then s.setEvents i (held ++ [e]) else s.bump (RING_EVENT_STATUS_LOST i)

/-! ### Taking an entry (R465, R466, R474, R475) -/

/-- The opcodes of Table 14.8 for the admin queue. -/
def adminOps : List Nat :=
  [0x00, 0x01, 0x02, 0x03, 0x04, 0x05, 0x06, 0x08, 0x09, 0x0A, 0x10, 0x11, 0x12, 0x13, 0x14, 0x15, 0x16,
   0x17, 0x18, 0x20, 0x21, 0x22, 0x23, 0x24, 0x25, 0x26, 0x30, 0x31, 0x32, 0x33, 0x34, 0x35, 0x36, 0x38,
   0x39, 0x3A]

/-- The opcodes of Table 14.8 for an I/O queue. -/
def ioOps : List Nat := [0x00, 0x41, 0x42, 0x43, 0x44, 0x45]

/-- Whether `len` is a LEN that Table 14.8 admits for the entry (R481). -/
def lenOk (op len : Nat) (raw : List Byte) : Bool :=
  if op = 0x00 then 1 ≤ len && len ≤ 64
  else if op = 0x21 || op = 0x30 || op = 0x42 then len == 2
  else if op = 0x45 then len < 64 && len == 1 + ceilDiv (leAt raw 28 4) 64
  else if op = 0x41 then
    if bit (byteAt raw 49) 2 then len < 64 && len == 1 + ceilDiv (leAt raw 20 4) 64
    else len == 1
  else len == 1

/-- The reason of Table 14.5 for an entry at `slot` of a queue, 0 for none; the first in order. -/
def structFault (admin : Bool) (x : Queue) (slot : Nat) (raw : List Byte) : Nat :=
  let op := byteAt raw 1
  let len := byteAt raw 2
  if !(if admin then adminOps else ioOps).contains op then 1
  else if len = 0 || 2 ^ x.log2 < slot % 2 ^ x.log2 + len || !lenOk op len raw then 2
  else if 1 < byteAt raw 0 || 3 < byteAt raw 3 || byteAt raw 7 != 0 then 3
  else if (List.range (len - 1)).any fun k => bit (byteAt raw (64 * (k + 1))) 0 then 4
  else 0

/-- Whether instance `i` has a HOSTQ tile (R50): its rings are served. -/
def State.hasHostq (s : State) (i : Nat) : Bool :=
  s.csr.any fun p => TILE_ROLE 0 ≤ p.1 && p.1 < TILE_ROLE 4096 && (p.1 - TILE_ROLE 0) % 0x40000 == 0
    && p.2 % 4096 == 2 && s.get (TILE_STATE_STATE ((p.1 - TILE_ROLE 0) / 0x40000)) != 7 && s.instOfTile ((p.1 - TILE_ROLE 0) / 0x40000) == i

/-- Entries started and not completed. -/
def Queue.started (x : Queue) : List Entry := x.window.filter (!·.done)

/-- Whether queue `q` may take an entry now (R465, R466, R496, R50). -/
def State.mayTake (s : State) (i q : Nat) : Bool :=
  let x := s.queue i q
  x.state == 1 && x.take != x.tail && x.started.length < 256 && s.get (INST_STATE_STATE i) == 1
    && s.hasHostq i && !s.rings.linkDown

/-- Stop a queue in Q_ERROR with a reason and a slot, set its RING_QERR bit and create the QUEUE_ERROR event
(R475, R465). -/
def State.queueError (s : State) (i q reason slot : Nat) : State :=
  let x := s.queue i q
  let s1 := s.setQueue i q { x with state := 2, errReason := reason, errSlot := slot, retry := false, waitOwn := false }
  let r := RING_QERR i (q / 64)
  let s2 := s1.setReg r (s1.reg r ||| 2 ^ (q % 64))
  s2.event i ⟨2, s.get PICK_NUMBER_NUMBER,
    leBytes 2 q ++ [BitVec.ofNat 8 reason, 0] ++ leBytes 4 slot⟩

/-- Take the entry whose bytes are `raw` at the queue's next slot: wait for OWN and FENCE, check the
structure, start it (R465, R466, R475).  An entry that reaches past the tail is not taken (R465). -/
def State.takeRaw (s : State) (i q : Nat) (raw : List Byte) : State :=
  let x := s.queue i q
  let own := bit (byteAt raw 0) 0
  let fence := bit (byteAt raw 3) 1
  if !own then s.setQueue i q { x with waitOwn := true, retry := false }
  else if fence && !x.started.isEmpty then s.setQueue i q { x with waitOwn := false, retry := false }
  else
    let reason := structFault (q == 0) x x.take raw
    let len := if reason = 1 || reason = 2 then 1 else byteAt raw 2
    if (reason = 0 || reason = 4) && slotMod (x.tail + 2 ^ 32 - x.take) < len then
      s.setQueue i q { x with waitOwn := false, retry := false }
    else
    let e : Entry := ⟨x.take, len, byteAt raw 1, leAt raw 4 2, byteAt raw 3,
      sliceB raw 0 (64 * byteAt raw 2), false, 0, 0⟩
    let s1 := s.setQueue i q { x with
      take := slotMod (x.take + len), window := x.window ++ [{ e with len := byteAt raw 2 }],
      waitOwn := false, retry := false }
    let s2 := s1.traceBy 3 1 i 2 q 0 (ringDetail e 0)
    if reason != 0 then (s2.complete i q x.take stMALFORMED reason).queueError i q reason x.take
    else if s.detached i && !([0x00, 0x01, 0x06].contains e.op) then s2.complete i q x.take stDETACHED 0
    else s2

/-- RING_ENTRY_TAKE (R465, R466): the device reads the next entry of a queue (`raw`; none where the read
ends with a completion error), checks it and starts it. -/
def execRingEntryTake (i q : Nat) (raw : Option (List Byte)) (s : State) :
    Host.Outcome State Fault Refusal :=
  let x := s.queue i q
  if s.mayTake i q && !x.retry then
    match raw with
    | some bs => .next (s.takeRaw i q bs)
    | none => .next (s.setQueue i q { x with retry := true })
  else .next s

/-- OWN_POLL (R465): an entry with OWN 0 is read again after 1 µs. -/
def execOwnPoll (i q : Nat) (raw : Option (List Byte)) (s : State) : Host.Outcome State Fault Refusal :=
  let x := s.queue i q
  if s.mayTake i q && x.waitOwn then
    match raw with
    | some bs => .next (s.takeRaw i q bs)
    | none => .next (s.setQueue i q { x with retry := true })
  else .next s

/-- RING_READ_RETRY (R465): the failed read is made once more; if it fails again the queue enters Q_ERROR
with reason 5 and no entry is written. -/
def execRingReadRetry (i q : Nat) (raw : Option (List Byte)) (s : State) :
    Host.Outcome State Fault Refusal :=
  let x := s.queue i q
  if s.mayTake i q && x.retry then
    match raw with
    | some bs => .next (s.takeRaw i q bs)
    | none => .next (s.queueError i q 5 x.take)
  else .next s

/-- DOORBELL_WRITE (R464): a RING_DB write moves the tail, or is ignored and sets DB_BAD. -/
def execDoorbellWrite (i q tail : Nat) (s : State) : Host.Outcome State Fault Refusal :=
  let x := s.queue i q
  let t := slotMod tail
  if !s.instExists i || s.get (INST_STATE_STATE i) == 4 then .next s
  else if 2 ^ 31 ≤ slotMod (t + 2 ^ 32 - x.tail) || 2 ^ x.log2 < slotMod (t + 2 ^ 32 - x.head)
      || x.state != 1 then
    .next (if x.state == 0 then s else s.setQueue i q { x with dbBad := true })
  else .next (s.setQueue i q { x with tail := t })

/-! ### Head publication (R468, R470, R471) -/

/-- Write the head record, and raise the interrupt when R470 asks for one (`due`: COAL_US has passed). -/
def State.publish (s : State) (i q : Nat) (due : Bool) : State :=
  let x := s.queue i q
  let s1 := s.ringPut i q x.headAddr (leBytes 8 (x.head + x.state * 2 ^ 32))
  let intr := !x.noIrq && (x.notify || x.coalN ≤ x.uncovered || due) && 0 < x.uncovered
  let s2 := s1.setQueue i q { x with
    pub := x.head
    notify := if intr then false else x.notify
    uncovered := if intr then 0 else x.uncovered }
  if intr then s2.irq i x.vector else s2

/-- HEAD_PUBLISH (R468): the head record is written after the head advances, behind a flushing read when
FLUSH_ON_PUBLISH is set (R471): every earlier host write of the model is already in host memory. -/
def execHeadPublish (i q : Nat) (s : State) : Host.Outcome State Fault Refusal :=
  let x := s.queue i q
  if (x.state == 1 || x.state == 2) && x.pub != x.head then .next (s.publish i q false) else .next s

/-- COALESCE_TIMER (R470): COAL_US after the first completion that no interrupt covers. -/
def execCoalesceTimer (i q : Nat) (s : State) : Host.Outcome State Fault Refusal :=
  let x := s.queue i q
  if (x.state == 1 || x.state == 2) && 0 < x.uncovered then .next (s.publish i q true) else .next s

/-- RING_SYNC_READ (R472): reads 0, after every earlier device write to host memory is visible. -/
def execRingSyncRead (i : Nat) (s : State) : Host.Outcome State Fault Refusal :=
  .next (if s.instExists i then { s with bus := { s.bus with rdata := 0 } } else s)

/-- NOP (R481). -/
def execNop (i q slot : Nat) (s : State) : Host.Outcome State Fault Refusal :=
  match s.entry? i q slot with
  | some e => if e.op = 0x00 then .next (s.complete i q slot stOK 0) else .next s
  | none => .next s

/-- ASYNC_EVENT (R484): post an entry for a later event; a held event is delivered at once, to the oldest, and beyond
64 outstanding entries it completes with CAPACITY. -/
def execAsyncEvent (i slot : Nat) (s : State) : Host.Outcome State Fault Refusal :=
  match s.entry? i 0 slot with
  | some e =>
    if e.op != 0x05 then .next s
    else if 64 < (s.asyncs i).length then .next (s.complete i 0 slot stCAPACITY 0)
    else
      match mget [] s.rings.events i with
      | ev :: rest =>
        if s.detached i then .next s
        else .next ((s.setEvents i rest).deliverTo i (((s.asyncs i).head?.map (·.slot)).getD slot) ev)
      | [] => .next s
  | none => .next s

end Sys2Proof.Machine
end

