-- ==== Sys2Proof/Machine/Xlate.lean ====
section
/-! DEFINITION. Address translation (08_translation_faults.md R276 to R303): the table walk, changes of table
entries, fault records and batches, and the park list. -/
namespace Sys2Proof.Machine
open Sys2Proof

/-! ### Tables (R277 to R282) -/

/-- The lowest address bit that level `l` indexes: 2^shift bytes is the span of its entries (Table 8.1). -/
def levelShift (l : Nat) : Nat :=
  match l with
  | 0 => 48
  | 1 => 39
  | 2 => 30
  | 3 => 21
  | _ => 16

/-- The number of entries of a table of level `l` (Table 8.1). -/
def levelEntries (l : Nat) : Nat := if l = 4 then 32 else 512

/-- The bytes of a table of level `l` (Table 8.1). -/
def levelBytes (l : Nat) : Nat := levelEntries l * 8

/-- ASIDs per instance (R277). -/
def State.asidsPer (s : State) : Nat := 4096 / s.nInst

/-- Whether ASID `a` is usable and belongs to instance `i` (R277). -/
def State.asidOk (s : State) (i a : Nat) : Bool :=
  a < 4096 && a / s.asidsPer == i && s.on (XLT_ROOT_USABLE a)

/-- Whether a physical page of 2^sh bytes may back a mapping of instance `i` (R278): inside its tier ranges,
or a 64 KiB page of one of its tiles' windows other than the control range. -/
def State.pageOk (s : State) (i pa sh : Nat) : Bool :=
  inside (s.nearRange i) pa (2 ^ sh) || inside (s.farRange i) pa (2 ^ sh) ||
    (match winOf pa with
     | some (t, off) => sh == 16 && s.instOfTile t == i && off != 0x30000
     | none => false)

/-- What an entry is (Table 8.2), or that R282 refuses it. -/
inductive EntryKind
  | leaf
  | pointer
  | absent
  | onHost
  | migrating
  | bad
  deriving DecidableEq, Repr

/-- The address in a table entry (Table 8.2, bits [47:8]). -/
def entryAddr (e : Nat) : Nat := bits e 8 40 * 256

/-- The kind of entry `e` at level `l` of a table of instance `i` (Table 8.2, R282). -/
def State.entryKind (s : State) (i l e : Nat) : EntryKind :=
  if bit e 0 then
    if bits e 4 4 != 0 || bits e 48 16 != 0 then .bad
    else if bit e 1 then
      if l < 2 || entryAddr e % 2 ^ levelShift l != 0 || !s.pageOk i (entryAddr e) (levelShift l) then .bad
      else .leaf
    else if l = 4 || entryAddr e % levelBytes (l + 1) != 0
        || !inside (s.nearRange i) (entryAddr e) (levelBytes (l + 1)) then .bad
    else .pointer
  else if bits e 3 61 != 0 then .bad
  else match bits e 1 2 with
    | 0 => .absent
    | 1 => .onHost
    | 2 => .migrating
    | _ => .bad

/-- Where a walk ended: the level, the entry's address, the entry and its kind. -/
structure Hit where
  level : Nat
  epa : Nat
  e : Nat
  kind : EntryKind
  poison : Bool
  deriving DecidableEq, Repr

/-- Walk from the table at `tbl` of level `l` to the first entry that is no pointer, or to level `maxL`
(R279, R281). -/
def State.walkFrom (s : State) (i va maxL : Nat) : Nat → Nat → Nat → Hit
  | 0, l, tbl => ⟨l, tbl, 0, .bad, false⟩
  | f + 1, l, tbl =>
    let epa := tbl + (va / 2 ^ levelShift l % levelEntries l) * 8
    if s.poisoned epa then ⟨l, epa, 0, .bad, true⟩
    else
      let e := s.num epa 8
      match s.entryKind i l e with
      | .pointer => if l = maxL then ⟨l, epa, e, .pointer, false⟩ else s.walkFrom i va maxL f (l + 1) (entryAddr e)
      | k => ⟨l, epa, e, k, false⟩

/-- The walk of `va` in the tables of ASID `a`, of instance `i`. -/
def State.walk (s : State) (i a va maxL : Nat) : Hit :=
  s.walkFrom i va maxL 5 0 (s.get (XLT_ROOT_ROOT a) * 4096)

/-- Log a refused entry in XLT_BAD_ENTRY_LOG and set BAD_ENTRY (R282). -/
def State.badEntry (s : State) (a : Nat) (h : Hit) : State :=
  (s.setReg XLT_BAD_ENTRY_LOG (a + h.level * 2 ^ 12 + (if h.poison then 2 ^ 15 else 0) + h.epa * 2 ^ 16)).raise
    XLT_EVENT_BAD_ENTRY

/-! ### Pinned ranges (R77) -/

/-- Whether a range of ASID `a` is pinned by a set in either bank (R77, R86). -/
def State.warpPinned (s : State) (a va n : Nat) : Bool :=
  (s.warp.pins).any fun p => p.1 == a && overlap p.2.1 p.2.2 va n

/-- Whether a range of ASID `a` is pinned: by a warp set, or by a model that it holds (R77, R333). -/
def State.pinned (s : State) (a va n : Nat) : Bool :=
  s.warpPinned a va n || s.page.models.any fun m => m.2.asid == a && overlap m.2.va (m.2.nearLen + m.2.farLen) va n

/-! ### Translation and faults (R289 to R301) -/

/-- SOURCE_KIND and SOURCE_ID of a request (Table 8.5). -/
def sourceOf : Waiter → Nat × Nat
  | .skein t .S h => (1, t + h * 2 ^ 12)
  | .skein t .W h => (1, t + (8 + h) * 2 ^ 12)
  | .transport q _ => (2, q % 2 ^ 16)
  | .copy _ _ _ t => (3, t)
  | .page _ t => (4, t)
  | .collective _ t => (1, t + 8 * 2 ^ 12)

/-- Whether instance `i` reports faults (R293). -/
def State.faultsOn (s : State) (i : Nat) : Bool := s.on (XLT_FR_CFG_ENABLE i) && !s.detached i

/-- Records a batch of instance `i` can hold: 64, or one in mode 1 (R289, R291). -/
def State.batchCap (s : State) : Nat := if s.nInst = 1 then 1 else 64

/-- The 32 bytes of fault record number `n` of instance `i` (Table 8.5). -/
def State.recBytes (s : State) (i n : Nat) (last : Bool) (r : FaultRec) : List Byte :=
  let parked := (s.xlt.parked.filter fun p => p.asid == r.asid && p.inst == i &&
    p.base ≤ r.va && r.va < p.base + 2 ^ p.shift && !p.ready).length
  leBytes 4 (n % 2 ^ 31 + (n / 4096 % 2) * 2 ^ 31) ++ leBytes 2 (r.asid + i * 2 ^ 12) ++
    leBytes 1 ((if r.wr then 1 else 0) + (if s.on (XLT_ROOT_MIRROR r.asid) then 2 else 0) +
      (if last then 4 else 0)) ++
    leBytes 1 r.level ++ leBytes 8 r.va ++ leBytes 2 r.kind ++ leBytes 2 r.id ++ leBytes 6 r.pick ++
    leBytes 2 (min parked 65535) ++ leBytes 4 0

/-- Write the records of the held batch that the ring has room for, publish them and raise the fault
interrupt (R291, R298, R299). -/
def State.flushHeld (s : State) (i : Nat) : State :=
  let l := mget [] s.xlt.heldB i
  let prod := s.get (XLT_FR_PROD_PROD i)
  let room := 4096 - (prod + 2 ^ 32 - s.get (XLT_FR_CONS_CONS i)) % 2 ^ 32
  let n := min room l.length
  if n = 0 then s
  else
    let base := s.reg (XLT_FR_BASE i)
    let s1 := ((l.take n).zipIdx).foldl (fun s r =>
      s.hostPut i (base + ((prod + r.2) % 4096) * 32)
        (s.recBytes i (prod + r.2) (r.2 + 1 == l.length) r.1)) s
    let s2 := { s1 with xlt := { s1.xlt with heldB := mset [] s1.xlt.heldB i (l.drop n) } }
    (((s2.put (XLT_FR_PROD_PROD i) ((prod + n) % 2 ^ 32)).raise XLT_EVENT_BATCH).irq i
      (s2.get (RING_VEC_CFG_FAULT_VEC i)))

/-- Close the open batch of instance `i`, unless another is still being written, and write it (R291). -/
def State.sendBatch (s : State) (i : Nat) : State :=
  if mget [] s.xlt.heldB i != [] then s
  else
    let l := mget [] s.xlt.openB i
    ({ s with xlt := { s.xlt with
        heldB := mset [] s.xlt.heldB i l, openB := mset [] s.xlt.openB i [] } }).flushHeld i

/-- A trace record of a fault: BEGIN (1) or END (2) (Table 19.2). -/
def State.traceFault (s : State) (i kind a va st : Nat) : State := s.traceBy 10 kind i 2 a st (leBytes 8 va)

/-- Add a record to the open batch of instance `i`, if a record slot is free (R290, R291, R299). -/
def State.addRecord (s : State) (i : Nat) (r : FaultRec) (base shift : Nat) : Option State :=
  let s0 := if s.batchCap ≤ (mget [] s.xlt.openB i).length then s.sendBatch i else s
  let l := mget [] s0.xlt.openB i
  if l.length < s0.batchCap then
    let s1 := { s0 with xlt := { s0.xlt with
      openB := mset [] s0.xlt.openB i (l ++ [r])
      out := s0.xlt.out ++ ([⟨i, r.asid, base, shift⟩] : List OutPage) } }
    let s2 := (s1.bump XLT_FAULTS_VAL).raise XLT_EVENT_FAULT
    let s3 := s2.traceFault i 1 r.asid r.va 0
    some (if s3.nInst = 1 then s3.sendBatch i else s3)
  else none

/-- Whether a page has an outstanding record (R290). -/
def State.isOut (s : State) (i a base shift : Nat) : Bool := s.xlt.out.contains (⟨i, a, base, shift⟩ : OutPage)

/-- The requests of instance `i` in its park list (R300). -/
def State.parkedCount (s : State) (i : Nat) : Nat :=
  (s.xlt.parked.filter fun p => p.inst == i && !p.stalled).length

/-- Count a stall under R299 or R300. -/
def State.countStall (s : State) (c : Bool) : State :=
  if c then (s.bump XLT_STALLS_VAL).raise XLT_EVENT_STALL else s

/-- A request that met a HOST or a MIGRATING entry parks, or stalls its engine (R281, R289, R290, R299,
R300); it waits on the page when its own batch is sent (Table 8.5). -/
def State.park (s : State) (i a va : Nat) (wr : Bool) (who : Waiter) (h : Hit) : State :=
  let shift := levelShift h.level
  let base := va / 2 ^ shift * 2 ^ shift
  let src := sourceOf who
  let r : FaultRec := ⟨a, wr, h.level, va, src.1, src.2, s.get PICK_NUMBER_NUMBER⟩
  let req (stalled need : Bool) : Parked := ⟨i, a, va, wr, who, base, shift, stalled, need, false⟩
  let s0 : State := { s with xlt := { s.xlt with parked := s.xlt.parked ++ [req true false] } }
  let q := if h.kind != .onHost || s.isOut i a base shift then some s0 else s0.addRecord i r base shift
  let need := q.isNone
  let s1 := q.getD s0
  let full := 512 ≤ s1.parkedCount i
  let stalled := s1.nInst == 1 || need || full
  ({ s1 with xlt := { s1.xlt with parked := s.xlt.parked ++ [req stalled need] } }).countStall
    (need || (s1.nInst != 1 && full))

/-- Translate `va` of ASID `a` for request `who` of instance `i` (R276, R277, R281, R282, R289, R293). -/
def State.translate (s : State) (i a va : Nat) (wr : Bool) (who : Waiter) : State × XRes :=
  if 2 ^ 57 ≤ va || !s.asidOk i a then (s, .access)
  else
    let s0 := s.bump XLT_WALKS_VAL
    let h := s.walk i a va 4
    match h.kind with
    | .leaf =>
      if bit h.e (if wr then 3 else 2) then
        (s0, .ok (entryAddr h.e + va % 2 ^ levelShift h.level))
      else (s0, .access)
    | .absent => (s0, .access)
    | .bad => (s0.badEntry a h, .access)
    | .pointer => (s0.badEntry a h, .access)
    | .migrating => (s0.park i a va wr who h, .waiting)
    | .onHost =>
      if s.faultsOn i then (s0.park i a va wr who h, .fault)
      else ((s0.bump XLT_UNRESOLVED_VAL).raise XLT_EVENT_UNRESOLVED, .unresolved)

/-- A translation that neither parks nor faults: the address where the entry is a leaf with the
permission (used by requests the spec ends on any other entry). -/
def State.peek (s : State) (i a va : Nat) (wr : Bool) : Option Nat :=
  if 2 ^ 57 ≤ va || !s.asidOk i a then none
  else
    let h := s.walk i a va 4
    if h.kind = .leaf && bit h.e (if wr then 3 else 2) then
      some (entryAddr h.e + va % 2 ^ levelShift h.level)
    else none

/-! ### Park-list housekeeping (R292, R293, R299, R300) -/

/-- Make the record of a request that waits for a record slot, when one is free now (R299). -/
def State.retryNeed (s : State) (p : Parked) : State :=
  if p.needRec then
    let lv := match p.shift with
      | 48 => 0
      | 39 => 1
      | 30 => 2
      | 21 => 3
      | _ => 4
    let q := if s.isOut p.inst p.asid p.base p.shift then some s
      else s.addRecord p.inst ⟨p.asid, p.wr, lv, p.va, (sourceOf p.who).1, (sourceOf p.who).2,
        s.get PICK_NUMBER_NUMBER⟩ p.base p.shift
    match q with
    | some s1 => { s1 with xlt := { s1.xlt with
        parked := modifyWhere (· == p) (fun p => { p with needRec := false }) s1.xlt.parked } }
    | none => s
  else s

/-- Whether a request still stalls after its record exists and the park list has room (R300). -/
def State.settle (s : State) (i : Nat) : State :=
  let s1 := (s.xlt.parked.filter fun p => p.inst == i && p.needRec).foldl (fun s p => s.retryNeed p) s
  if s1.nInst = 1 then s1
  else
    { s1 with xlt := { s1.xlt with
        parked := (s1.xlt.parked.foldl (fun (acc : Nat × List Parked) p =>
          if p.inst == i && p.stalled && !p.needRec && acc.1 < 512 then
            (acc.1 + 1, acc.2 ++ [{ p with stalled := false }])
          else (acc.1, acc.2 ++ [p])) (s1.parkedCount i, [])).2 } }

/-- The service of every page in the span ends: its requests are to be retried (R292). -/
def State.endService (s : State) (i a base n : Nat) : State :=
  let pages := s.xlt.out.filter fun o => o.inst == i && o.asid == a && overlap o.base (2 ^ o.shift) base n
  let t := pages.foldl (fun s o => s.traceFault i 2 o.asid o.base stOK) s
  { t with xlt := { t.xlt with
      parked := modifyWhere (fun p => p.inst == i && p.asid == a && overlap p.base (2 ^ p.shift) base n)
        (fun p => { p with ready := true }) s.xlt.parked
      out := s.xlt.out.filter fun o => !(o.inst == i && o.asid == a &&
        overlap o.base (2 ^ o.shift) base n) } }

/-- End unresolved the faults of the outstanding pages that `sel` picks: their requests leave the list with
FAULT_UNRESOLVED, in `ended` (R293). -/
def State.endUnresolved (s : State) (i : Nat) (sel : OutPage → Bool) : State :=
  let pages := s.xlt.out.filter fun o => o.inst == i && sel o
  let hit (p : Parked) : Bool := p.inst == i && !p.ready &&
    ((pages.any fun o => o.asid == p.asid && o.base == p.base && o.shift == p.shift) ||
      (p.needRec && sel ⟨p.inst, p.asid, p.base, p.shift⟩))
  let gone := s.xlt.parked.filter hit
  let s1 := { s with xlt := { s.xlt with
    parked := s.xlt.parked.filter fun p => !hit p
    out := s.xlt.out.filter fun o => !(o.inst == i && sel o)
    ended := s.xlt.ended ++ (gone.map fun (p : Parked) => (p.who, stFAULT_UNRESOLVED)) } }
  if pages.isEmpty && gone.isEmpty then s
  else (((pages.foldl (fun s o => s.traceFault i 2 o.asid o.base stFAULT_UNRESOLVED) s1).bump XLT_UNRESOLVED_VAL gone.length).raise XLT_EVENT_UNRESOLVED).settle i

/-- Every outstanding page of the instance ends unresolved, and unwritten records are discarded (R293). -/
def State.endAllFaults (s : State) (i : Nat) : State :=
  let s1 := { s with xlt := { s.xlt with
    openB := mset [] s.xlt.openB i [], heldB := mset [] s.xlt.heldB i [] } }
  s1.endUnresolved i fun _ => true

/-! ### Changing entries (R284, R287) -/

/-- The entry at `epa` becomes `e`. -/
def State.setEntry (s : State) (epa e : Nat) : State := s.setBytes epa (leBytes 8 e)

/-- The value of a VALID leaf (Table 8.2); `perm` bit 0 READ, bit 1 WRITE. -/
def leafEntry (pa perm : Nat) : Nat := 3 + (perm % 4) * 4 + pa

/-- The value of an entry of a kind: 0 NONE, 1 HOST, 2 MIGRATING (Table 8.2). -/
def kindEntry (k : Nat) : Nat := k * 2

/-- Take a table of `n` bytes, aligned to its size, from the pool of ASID `a` (R279, R287). -/
def State.poolTake (s : State) (a n : Nat) : Option (State × Nat) :=
  let u := alignUp (mget 0 s.xlt.used a) n
  if u + n ≤ s.get (XLT_POOL_LEN_4K a) * 4096 then
    let s1 := { s with xlt := { s.xlt with used := tput s.xlt.used a (u + n) } }
    some (s1.put (XLT_POOL_USED_4K a) (ceilDiv (u + n) 4096), s.get (XLT_ROOT_ROOT a) * 4096 + u)
  else none

/-- Build the tables below the HOST or NONE entry of `h` down to level `lv`, every entry of each keeping the
kind of the entry it replaces; the address of the command's entry (R287). -/
def State.buildTo (s : State) (a va lv : Nat) : Nat → Hit → Option (State × Nat)
  | 0, _ => none
  | f + 1, h =>
    if h.level = lv then some (s, h.epa)
    else
      match s.poolTake a (levelBytes (h.level + 1)) with
      | none => none
      | some (s1, tbl) =>
        let s2 := s1.write tbl (List.replicate (levelEntries (h.level + 1)) (leBytes 8 h.e)).flatten
        let s3 := s2.setEntry h.epa (1 + tbl)
        let epa := tbl + (va / 2 ^ levelShift (h.level + 1) % levelEntries (h.level + 1)) * 8
        s3.buildTo a va lv f ⟨h.level + 1, epa, h.e, h.kind, false⟩

end Sys2Proof.Machine
end

