-- ==== Sys2Proof/Machine/Tile.lean ====
section
/-! DEFINITION. The shared operations of a tile: its contexts and local store, which context runs, mesh
messages, exceptions and fault notices, and how an instruction ends (03_spindle_tiles.md,
04_spindle_isa_core.md). -/
namespace Sys2Proof.Machine
open Sys2Proof

/-! ### Tiles and contexts -/

/-- Logical tile `t`. -/
def State.tile (s : State) (t : Nat) : Tile := mget {} s.til.tiles t

/-- Logical tile `t` becomes `x`. -/
def State.setTile (s : State) (t : Nat) (x : Tile) : State :=
  { s with til := { s.til with tiles := mset {} s.til.tiles t x } }

/-- Context `c` of a tile. -/
def Tile.ctx (x : Tile) (c : Ctx) : Context :=
  match c with
  | .S => x.s
  | .W => x.w

/-- Context `c` of a tile becomes `k`. -/
def Tile.setCtx (x : Tile) (c : Ctx) (k : Context) : Tile :=
  match c with
  | .S => { x with s := k }
  | .W => { x with w := k }

/-- Context `c` of logical tile `t`. -/
def State.ctx (s : State) (t : Nat) (c : Ctx) : Context := (s.tile t).ctx c

/-- Context `c` of logical tile `t` becomes `k`. -/
def State.setCtx (s : State) (t : Nat) (c : Ctx) (k : Context) : State :=
  s.setTile t ((s.tile t).setCtx c k)

/-- Whether tile `t` is in the active scheduled set (TILE_STATE.SCHED_ACTIVE). -/
def State.scheduled (s : State) (t : Nat) : Bool := s.on (TILE_STATE_SCHED_ACTIVE t)

/-- Whether tile `t` runs a scheduled program in this pick: it is in the active set, and the adapter was in
MEMBER or HOLDOVER at its wall (R106). -/
def State.inPick (s : State) (t : Nat) : Bool := s.scheduled t && s.warp.on

/-- The role of tile `t` (Table 1.6). -/
def State.roleOf (s : State) (t : Nat) : Nat := s.get (TILE_ROLE_ROLE t)

/-- Whether tile `t` is a MANAGER tile. -/
def State.isManager (s : State) (t : Nat) : Bool := s.roleOf t == 1

/-- The wake offset of tile `t`: its pace group times STEP_CC (R588). -/
def State.wakeOffset (s : State) (t : Nat) : Nat :=
  bits (s.reg (PWR_PACE_MAP (t / 8))) (8 * (t % 8)) 6 * min 62 (max 16 (s.get PWR_PACE_CFG_STEP_CC))

/-- Whether context `c` of tile `t` is the one that runs (R143, R174, R551): the tile is RUNNING, the
context is not stopped, and for a scheduled tile S runs from its wake to its yield and W after it. -/
def State.live (s : State) (t : Nat) (c : Ctx) : Bool :=
  s.get (TILE_STATE_STATE t) == 5 && !s.trc.halted && !(s.tile t).down && !(s.ctx t c).stopped &&
    match c with
    | .S => s.inPick t && (s.tile t).s.awake && !(s.tile t).s.yielded
    | .W => !s.inPick t || (s.tile t).s.yielded

/-- Whether context `c` of tile `t` may issue an instruction: it runs, and no blocking one waits. -/
def State.runs (s : State) (t : Nat) (c : Ctx) : Bool := s.live t c && (s.ctx t c).wait.isNone

/-! ### Scalar, vector and accumulator registers (R139, R179) -/

/-- Scalar register `r`; s0 reads as 0. -/
def Context.rd (k : Context) (r : SReg) : Word := if r = 0 then 0 else mget 0 k.s r.toNat

/-- Write scalar register `r`; a write to s0 is discarded. -/
def Context.wr (k : Context) (r : SReg) (v : Word) : Context :=
  if r = 0 then k else { k with s := mset 0 k.s r.toNat v }

/-- Vector register `r`. -/
def Context.vec (k : Context) (r : VReg) : BitVec 512 := mget 0 k.v r.toNat

/-- Write vector register `r`. -/
def Context.setVec (k : Context) (r : VReg) (x : BitVec 512) : Context :=
  { k with v := mset 0 k.v r.toNat x }

/-- Accumulator `r`. -/
def Context.acc (k : Context) (r : AReg) : BitVec 1024 := mget 0 k.a r.toNat

/-- Write accumulator `r`. -/
def Context.setAcc (k : Context) (r : AReg) (x : BitVec 1024) : Context :=
  { k with a := mset 0 k.a r.toNat x }

/-- Scalar register `r` of the issuing context. -/
def State.rs (s : State) (i : Issue) (r : SReg) : Word := (s.ctx i.tile i.ctx).rd r

/-- The issuing context after `f`. -/
def State.upd (s : State) (i : Issue) (f : Context → Context) : State :=
  s.setCtx i.tile i.ctx (f (s.ctx i.tile i.ctx))

/-- Write scalar register `r` of the issuing context. -/
def State.ws (s : State) (i : Issue) (r : SReg) (v : Word) : State := s.upd i (·.wr r v)

/-! ### Local store (R115 to R117) -/

/-- The device physical address of offset `off` of the local store of tile `t` (R41). -/
def localPa (t off : Nat) : Nat := tileWin t + off

/-- Whether [a, a + n) lies in the data store (Table 1.3). -/
def inData (a n : Nat) : Bool := 0x8000 ≤ a && a + n ≤ 0x30000

/-- Whether [a, a + n) lies in the local store (Table 1.3). -/
def inLocal (a n : Nat) : Bool := a + n ≤ 0x30000

/-- Count a corrected local-store error of tile `t` (R117). -/
def State.eccCe (s : State) (t : Nat) : State :=
  (s.bump (TILE_ECC_CE_COUNT_VAL t)).raise (TILE_EVENT_ECC_CE t)

/-- The bytes of a local read by the core, or the offset of an uncorrectable word in it (R117). -/
def State.readLocal (s : State) (i : Issue) (off n : Nat) : State × Except Nat (List Byte) :=
  match i.read with
  | .bad o => if off / 8 * 8 ≤ o && o < off + n then (s, .error o) else (s, .ok (s.bytes (localPa i.tile off) n))
  | .corrected => (s.eccCe i.tile, .ok (s.bytes (localPa i.tile off) n))
  | .good => (s, .ok (s.bytes (localPa i.tile off) n))

/-- Write bytes to the local store of the issuing tile. -/
def State.writeLocal (s : State) (i : Issue) (off : Nat) (bs : List Byte) : State :=
  s.setBytes (localPa i.tile off) bs

/-! ### The mesh (R118 to R122, R130) -/

/-- The physical column and row of logical tile `t` (R35, R122). -/
def State.phys (s : State) (t : Nat) : Nat × Nat :=
  let x := 16 * (t / 1024) + t % 16
  let y := (t % 1024) / 16
  (x, if s.get (TILE_SPARE_MAP_SUB_ROW x) = y then 64 else y)

/-- Whether router (x, y) is in bypass (R125). -/
def State.bypassed (s : State) (x y : Nat) : Bool := bit (s.reg (TILE_BYPASS y)) x

/-- The payload length of a message. -/
def Msg.len (m : Msg) : Nat := m.payload.length

/-- The flits of a message in the mesh (R118, R130). -/
def Flight.flits (f : Flight) : Nat := ceilDiv ((if f.cls = 2 then 32 else 16) + f.m.len) 64

/-- The 16-byte header of a message (Table 3.2); `yx` is the ROUTE its port set. -/
def Msg.header (m : Msg) (yx : Bool) : List Byte :=
  let h := leBytes 2 (m.dst % 4096) ++
    leBytes 2 (m.role % 4096 + m.cls % 4 * 2 ^ 12 + (if yx then 2 ^ 14 else 0)) ++
    leBytes 1 m.epoch ++ leBytes 1 m.srcEpoch ++ leBytes 2 (m.src % 4096) ++ leBytes 2 m.len ++
    leBytes 2 m.tag ++ leBytes 2 m.kind ++ leBytes 1 (if m.anyRole then 1 else 0)
  h ++ [BitVec.ofNat 8 (crc8 h)]

/-- The flits in input buffer `port` of router (x, y) for a class and route set (R119). -/
def State.bufUsed (s : State) (x y port cls : Nat) (yx : Bool) : Nat :=
  ((s.til.mesh.filter fun f => f.x == x && f.y == y && f.port == port && f.cls == cls && f.yx == yx).map
    (·.flits)).sum

/-- Whether an input buffer of 16 flits can take `n` flits more (R119). -/
def State.bufRoom (s : State) (x y port cls : Nat) (yx : Bool) (n : Nat) : Bool :=
  s.bufUsed x y port cls yx + n ≤ 16

/-- The route set that the port of tile `src` uses toward tile `dst`: false XY, true YX, none where both
turn routers are in bypass (R120). -/
def State.routeSet (s : State) (src dst : Nat) : Option Bool :=
  let a := s.phys src
  let b := s.phys dst
  if !s.bypassed b.1 a.2 then some false
  else if !s.bypassed a.1 b.2 then some true
  else none

/-- Put a message in the injection buffer of tile `src`. -/
def State.launch (s : State) (src target cls : Nat) (yx : Bool) (record : List Byte) (m : Msg) (waited : Bool := false) :
    State :=
  let p := s.phys src
  { s with til := { s.til with
      nextId := s.til.nextId + 1
      mesh := s.til.mesh ++ ([⟨s.til.nextId, m, record, cls, yx, target, p.1, p.2, 0, waited⟩] : List Flight) } }

/-- The record of Table 3.5. -/
def State.returnRecord (s : State) (status reason returner role epoch : Nat) : List Byte :=
  [BitVec.ofNat 8 status, BitVec.ofNat 8 reason] ++ leBytes 2 returner ++ leBytes 2 role ++
    leBytes 1 epoch ++ [0] ++ leBytes 6 (s.get PICK_NUMBER_NUMBER) ++ leBytes 2 0

/-- Put a returned entry in the queue of tile `t` (R130). -/
def State.pushReturned (s : State) (t : Nat) (entry : List Byte) : State :=
  let x := s.tile t
  (s.setTile t { x with rmq := x.rmq ++ [entry] }).raise (TILE_EVENT_RETURNED t)

/-- A returned message waits for room in the queue of tile `t`: RMQ_FULL and RMQ_WAITS (R130). -/
def State.rmqWait (s : State) (t : Nat) : State :=
  (s.bump (TILE_QUEUES_RMQ_WAITS t)).raise (TILE_EVENT_RMQ_FULL t)

/-- The returned-message entry of a message (R130, R160). -/
def Msg.entry (m : Msg) (yx : Bool) (record : List Byte) : List Byte := record ++ m.header yx ++ m.payload

/-- Tile `t` returns message `m`, of route set `yx`, to its sender (R127, R130): it travels back as a
message of class RETURN, and is lost only when both turn routers of the way back are in bypass. -/
def State.returnMsg (s : State) (t status reason role epoch : Nat) (yx : Bool) (m : Msg) : State :=
  let rec_ := s.returnRecord status reason t role epoch
  let s1 := s.bump (TILE_MSG_RETURNED_VAL t)
  if t = m.src then
    if (s1.tile t).rmq.length < 32 then s1.pushReturned t (m.entry yx rec_)
    else (s1.launch t t 2 false rec_ m true).rmqWait t
  else match s1.routeSet t m.src with
    | some r => s1.launch t m.src 2 r rec_ m
    | none => (s1.bump (TILE_MSG_DISCARD_VAL t)).raise TILE_DEV_EVENT_TURN_BLOCKED

/-- Whether the message is a post to the pinch engine (R419): self-addressed, KIND 0xFFF0, 32 bytes. -/
def Msg.isPost (m : Msg) : Bool := m.src == m.dst && m.kind == 0xFFF0 && m.len == 32

/-- Whether the post queue of die `d` has room, posts on their way to it included (R419). -/
def State.postRoom (s : State) (d : Nat) : Bool :=
  (mget [] s.col.posts d).length + (s.til.mesh.filter fun f => f.m.isPost && f.m.dst / 1024 == d).length < 64

/-- Whether the injection buffer of the sender can take `m` (R119, R158); a message that no route can
carry needs none (R120). -/
def State.canSend (s : State) (m : Msg) : Bool :=
  (!m.isPost || s.postRoom (m.dst / 1024)) && match s.routeSet m.src m.dst with
  | some r => s.bufRoom (s.phys m.src).1 (s.phys m.src).2 0 m.cls r (ceilDiv (16 + m.len) 64)
  | none => true

/-- The port sends `m`, or returns it UNREACHABLE to its own sender (R120). -/
def State.sendMsg (s : State) (m : Msg) : State :=
  let s1 := s.bump (TILE_MSG_SENT_VAL m.src)
  match s1.routeSet m.src m.dst with
  | some r => s1.launch m.src m.dst m.cls r [] m
  | none => (s1.returnMsg m.src stSTALE_ROLE 5 0 0 false m).raise TILE_DEV_EVENT_TURN_BLOCKED

/-! ### Exceptions (R171 to R175, R184) -/

def exILLEGAL : Nat := 0x01
def exFETCH_RANGE : Nat := 0x02
def exLOAD_RANGE : Nat := 0x03
def exSTORE_RANGE : Nat := 0x04
def exMISALIGN : Nat := 0x05
def exECC_UE : Nat := 0x06
def exPRIV : Nat := 0x07
def exDEV_ACCESS : Nat := 0x08
def exMSG_LEN : Nat := 0x09
def exCV_MISMATCH : Nat := 0x0A
def exTRAP : Nat := 0x0B
def exVRANGE : Nat := 0x10
def exFP_INVALID : Nat := 0x11

/-- The payload of a fault notice (Table 4.12). -/
def State.noticePayload (s : State) (t : Nat) (c : Ctx) : List Byte :=
  let k := s.ctx t c
  [BitVec.ofNat 8 (if c = .W then 1 else 0), BitVec.ofNat 8 k.ecause.toNat] ++ leBytes 2 t ++
    leBytes 2 (s.roleOf t) ++ leBytes 1 (s.get (TILE_ROLE_EPOCH t)) ++ [0] ++
    leBytes 6 (s.get PICK_NUMBER_NUMBER) ++ leBytes 2 k.epc.toNat ++ leBytes 8 k.eval.toNat ++ leBytes 8 0

/-- Whether context S of the tile sent a notice in one of the last 1,023 picks (R175). -/
def State.noticeSpent (s : State) (t : Nat) : Bool :=
  match (s.tile t).noticeAt with
  | some p => (s.get PICK_NUMBER_NUMBER + 2 ^ 48 - p) % 2 ^ 48 ≤ 1023
  | none => false

/-- The fault notice of an unhandled exception, or the count in FAULTS (R175). -/
def State.notice (s : State) (t : Nat) (c : Ctx) : State :=
  let x := s.tile t
  let m : Msg := ⟨x.ereport % 4096, 2, bits x.ereport 12 8, s.get (TILE_ROLE_EPOCH t), t,
    x.unhandled % 2 ^ 16, 0xFFFF, false, 1, s.noticePayload t c⟩
  if bit x.ereport 31 || (c = .S && s.noticeSpent t) || !s.canSend m then
    s.setTile t { x with faults := satAdd 32 x.faults 1 }
  else
    (s.setTile t { x with noticeAt := if c = .S then some (s.get PICK_NUMBER_NUMBER) else x.noticeAt
      }).sendMsg m

/-- Exception `c` with value `v` at instruction address `a` in context `x` of tile `t` (R173, R174). -/
def State.except (s : State) (t : Nat) (x : Ctx) (c : Nat) (v a : Word) : State :=
  let k := s.ctx t x
  let k1 := { k with epc := a &&& 0xFFFF, ecause := BitVec.ofNat 64 c, eval := v, wait := none }
  if k.evec.getLsbD 0 && !k.estatus.getLsbD 0 then
    s.setCtx t x { k1 with estatus := 1, pc := k.evec &&& 0x7FFC }
  else
    let s1 := s.setCtx t x { k1 with stopped := true }
    (s1.setTile t { s1.tile t with unhandled := (s1.tile t).unhandled + 1 }).notice t x

/-- An uncorrectable local-store error met by the core's own read (R117): the event, and the exception in
context W.  A context S that meets it takes none and is abandoned at the wall (R553). -/
def State.eccUe (s : State) (i : Issue) (off : Nat) : State :=
  let s1 := s.raise (TILE_EVENT_ECC_UE i.tile)
  match i.ctx with
  | .W => s1.except i.tile .W exECC_UE (BitVec.ofNat 64 off) (s1.ctx i.tile .W).pc
  | .S => s1.upd i fun k => { k with stopped := true, wait := none }

/-! ### How an instruction ends -/

/-- The end of an instruction in its issue: it retires, jumps, traps with a cause and a value, traps after
retiring (CV_MISMATCH), meets an uncorrectable word, or waits. -/
inductive Fate
  | retire (s : State)
  | jump (s : State) (pc : Word)
  | trap (cause : Nat) (v : Word)
  | trapAfter (s : State) (cause : Nat) (v : Word)
  | ecc (off : Nat)
  | wait (x : Instr)

/-- Whether a transfer of control may go to `t` (R157). -/
def fetchOk (t : Word) : Bool := t.toNat % 4 == 0 && t.toNat ≤ 0x7FFC

/-- Count a retired instruction and move past it. -/
def Context.next (k : Context) (pc : Word) : Context :=
  { k with pc := pc, retired := k.retired + 1, wait := none, crossed := false }

/-- The instruction retires and the next one follows it; a fall past offset 0x7FFC takes FETCH_RANGE
(R157). -/
def State.advance (s : State) (i : Issue) : State :=
  let k := s.ctx i.tile i.ctx
  let s1 := s.upd i (·.next (k.pc + 4))
  if k.pc = 0x7FFC && !(i.ctx == .S && k.yielded) then s1.except i.tile i.ctx exFETCH_RANGE 0x8000 0x8000 else s1

/-- What the end `f` of an instruction that issued in state `s` makes of the state.  A trap leaves nothing
else of the instruction (R171). -/
def State.finish (s : State) (i : Issue) (f : Fate) : State :=
  let pc := (s.ctx i.tile i.ctx).pc
  match f with
  | .retire s1 => s1.advance i
  | .jump s1 t =>
    if fetchOk t then s1.upd i (·.next t) else s.except i.tile i.ctx exFETCH_RANGE t pc
  | .trap c v => s.except i.tile i.ctx c v pc
  | .trapAfter s1 c v =>
    let s2 := s1.upd i (·.next (pc + 4))
    s2.except i.tile i.ctx c v (pc + 4)
  | .ecc o => s.eccUe i o
  | .wait x => s.upd i fun k => { k with wait := some x }

/-- Issue an instruction: nothing happens unless its context runs; an uncorrectable word met by the fetch
takes ECC_UE first (R117, Table 4.11). -/
def State.issue (s : State) (i : Issue) (body : State → Fate) : Host.Outcome State Fault Refusal :=
  if s.runs i.tile i.ctx then
    match i.fetch with
    | .bad _ => .next (s.eccUe i (s.ctx i.tile i.ctx).pc.toNat)
    | .corrected => .next ((s.eccCe i.tile).finish i (body (s.eccCe i.tile)))
    | .good => .next (s.finish i (body s))
  else .next s

/-- A waiting instruction of a context that runs is tried again: `sel` gives its body. -/
def State.retry (s : State) (i : Issue) (sel : Instr → Option (State → Fate)) :
    Host.Outcome State Fault Refusal :=
  if s.live i.tile i.ctx then
    match (s.ctx i.tile i.ctx).wait with
    | some x =>
      match sel x with
      | some body => .next (s.finish i (body s))
      | none => .next s
    | none => .next s
  else .next s

end Sys2Proof.Machine
end

