-- ==== Sys2Proof/Machine/Operands.lean ====
section
/-! DEFINITION. Instruction words and operand forms of the spindle: the formats of Tables 4.2 and 5.2, which
words are reserved (R147, R183), effective addresses and their checks (R154, R155, R193). -/
namespace Sys2Proof.Machine
open Sys2Proof

/-! ### Words (Tables 4.2 and 5.2) -/

/-- The number in a field. -/
abbrev fld {n : Nat} (x : BitVec n) : Nat := x.toNat

/-- Format A: OP, rd, rs1, rs2, FN. -/
def wA (op : Nat) (rd rs1 rs2 : SReg) (fn : Nat) : Nat :=
  op * 2 ^ 26 + fld rd * 2 ^ 21 + fld rs1 * 2 ^ 16 + fld rs2 * 2 ^ 11 + fn

/-- Formats I, S and B: OP, two register fields and 16 bits. -/
def wI (op : Nat) (r1 r2 : SReg) (imm : BitVec 16) : Nat :=
  op * 2 ^ 26 + fld r1 * 2 ^ 21 + fld r2 * 2 ^ 16 + fld imm

/-- Formats J and U: OP, rd and 21 bits. -/
def wJ (op : Nat) (rd : SReg) (imm : BitVec 21) : Nat := op * 2 ^ 26 + fld rd * 2 ^ 21 + fld imm

/-- Format VM: OP, R, rs1, 0, IMM16. -/
def wVM (op r : Nat) (rs1 : SReg) (imm : BitVec 16) : Nat :=
  op * 2 ^ 26 + r * 2 ^ 22 + fld rs1 * 2 ^ 17 + fld imm

/-- Format VA: OP, vd, vs1, vs2, TYPE, FN. -/
def wVA (vd vs1 vs2 ty : BitVec 4) (fn : Nat) : Nat :=
  0x35 * 2 ^ 26 + fld vd * 2 ^ 22 + fld vs1 * 2 ^ 18 + fld vs2 * 2 ^ 14 + fld ty * 2 ^ 10 + fn * 2 ^ 6

/-- Format VD: OP, ad, vs1, vs2, TYPE, MX, rs. -/
def wVD (ad : AReg) (vs1 vs2 ty : BitVec 4) (mx : Bool) (rs : SReg) : Nat :=
  0x36 * 2 ^ 26 + fld ad * 2 ^ 22 + fld vs1 * 2 ^ 18 + fld vs2 * 2 ^ 14 + fld ty * 2 ^ 10 +
    (if mx then 2 ^ 9 else 0) + fld rs * 2 ^ 4

/-- Format VC: OP, vd, vs, SRC, DST, PART. -/
def wVC (vd vs src dst : BitVec 4) (part : BitVec 3) : Nat :=
  0x37 * 2 ^ 26 + fld vd * 2 ^ 22 + fld vs * 2 ^ 18 + fld src * 2 ^ 14 + fld dst * 2 ^ 10 + fld part * 2 ^ 7

/-- Format VX: OP, v, r, a, TYPE, SUB, IMM8. -/
def wVX (op : Nat) (v : VReg) (r : SReg) (a : AReg) (ty : BitVec 4) (sub imm : Nat) : Nat :=
  op * 2 ^ 26 + fld v * 2 ^ 22 + fld r * 2 ^ 17 + fld a * 2 ^ 15 + fld ty * 2 ^ 11 + sub * 2 ^ 8 + imm

/-- Format VS: OP, ad, vq, rs1, SLOT. -/
def wVS (ad : AReg) (vq : VReg) (rs1 slot : SReg) : Nat :=
  0x3A * 2 ^ 26 + fld ad * 2 ^ 22 + fld vq * 2 ^ 18 + fld rs1 * 2 ^ 13 + fld slot * 2 ^ 8

/-- An instruction word as the value of EVAL (Table 4.11). -/
def evWord (w : Nat) : Word := BitVec.ofNat 64 w

/-! ### Types (Table 5.4) -/

/-- Bits of an element of a type code. -/
def typeBits (ty : Nat) : Nat :=
  match ty with
  | 0 => 32
  | 1 => 16
  | 2 => 16
  | 3 => 8
  | 4 => 8
  | 5 => 6
  | 6 => 6
  | 7 => 4
  | 8 => 8
  | 9 => 4
  | 10 => 32
  | _ => 16

/-- Elements of a type in a register (R181): 64 six-bit elements. -/
def typeCount (ty : Nat) : Nat := if typeBits ty = 6 then 64 else 512 / typeBits ty

/-- Whether a type code is an integer type. -/
def typeInt (ty : Nat) : Bool := 8 ≤ ty && ty ≤ 11

/-- Types of the arithmetic VOP operations (R194). -/
def vopTypes : List Nat := [0, 1, 2, 10, 11, 8]

/-- Types that VDOT accepts: unscaled, and with MX = 1 (R196). -/
def dotTypes (mx : Bool) : List Nat := if mx then [3, 4, 7, 8] else [1, 2, 3, 4, 8, 7, 9]

/-- The MX element types (R188, R199). -/
def mxTypes : List Nat := [3, 4, 5, 6, 7, 8]

/-- Types that XADDV and XADDS accept, and XRD (Table 5.8). -/
def xaddTypes : List Nat := [0, 1, 2, 3, 4]
def xrdTypes : List Nat := [0, 1, 2]

/-- The parts of a VCVT (R197). -/
def cvtParts (src dst : Nat) : Nat :=
  if typeCount src ≤ typeCount dst then typeCount dst / typeCount src else typeCount src / typeCount dst

/-- The MX blocks of a register (R188). -/
def mxParts (ty : Nat) : Nat := if ty = 7 then 4 else 2

/-- Whether the operands of a VCVT are accepted (R197). -/
def cvtOk (src dst part : Nat) : Bool := src < 12 && dst < 12 && src != dst && part < cvtParts src dst

/-- Types of VBCAST and VEXT: any but FP6 (Table 5.7). -/
def miscType (ty : Nat) : Bool := ty < 12 && ty != 5 && ty != 6

/-! ### Reserved encodings (R147, R183) -/

/-- The fields of format A. -/
def fRd (w : Nat) : Nat := bits w 21 5
def fRs1 (w : Nat) : Nat := bits w 16 5
def fRs2 (w : Nat) : Nat := bits w 11 5
def fFn (w : Nat) : Nat := bits w 0 11

/-- ALU and ALUW (Table 4.4). -/
def aluOk (w : Nat) : Bool :=
  let f := fFn w
  f ≤ 0x00D || (0x010 ≤ f && f ≤ 0x017) || (0x020 ≤ f && f ≤ 0x022 && fRs2 w == 0)

def aluwOk (w : Nat) : Bool := [0x000, 0x001, 0x005, 0x006, 0x007, 0x010, 0x014, 0x015, 0x016, 0x017].contains (fFn w)

/-- MESH (Table 4.7). -/
def meshOk (w : Nat) : Bool :=
  bits w 3 5 == 0 && match bits w 8 3 with
  | 0 => !bit w 2
  | 1 => bits w 0 2 != 3 && fRs2 w == 0
  | 2 => bits w 0 2 == 0 && fRs2 w == 0
  | _ => false

/-- SKEIN (Table 4.8). -/
def skeinOk (w : Nat) : Bool := fFn w ≤ 4 && (3 ≤ fFn w || fRs2 w == 0)

/-- CHECK (Table 4.9). -/
def checkOk (w : Nat) : Bool :=
  let rd := fRd w == 0
  let r1 := fRs1 w == 0
  let r2 := fRs2 w == 0
  match fFn w with
  | 0 => rd && r2
  | 1 => rd && r2
  | 2 => rd && r2
  | 3 => rd && r1 && r2
  | 4 => r1 && r2
  | 5 => rd && r2
  | 6 => r1 && r2
  | 7 => r2
  | 8 => rd
  | _ => false

/-- PICK (Table 4.10). -/
def pickOk (w : Nat) : Bool :=
  let rd := fRd w == 0
  let r1 := fRs1 w == 0
  fRs2 w == 0 && match fFn w with
  | 0 => rd && r1
  | 1 => rd
  | 2 => rd
  | 3 => true
  | _ => false

/-- SYS (R169). -/
def sysOk (w : Nat) : Bool :=
  fRs2 w == 0 && match bits w 8 3 with
  | 0 => fRs1 w == 0
  | 1 => fRd w == 0
  | 2 => fRd w == 0 && fRs1 w == 0 && bits w 0 8 == 0
  | 3 => fRd w == 0 && fRs1 w == 0
  | _ => false

/-- MGMT (R170). -/
def mgmtOk (w : Nat) : Bool :=
  match fFn w with
  | 0 => fRs2 w == 0
  | 1 => fRs2 w == 0
  | 2 => fRd w == 0
  | 3 => fRd w == 0
  | _ => false

/-- VOP (Table 5.6). -/
def vopOk (w : Nat) : Bool :=
  let ty := bits w 10 4
  let vs2 := bits w 14 4
  bits w 0 6 == 0 && match bits w 6 4 with
  | 6 => vopTypes.contains ty && vs2 == 0
  | 7 => vopTypes.contains ty && vs2 == 0
  | 8 => ty == 0
  | 9 => ty == 0
  | 10 => ty == 0
  | 11 => ty == 0 && vs2 == 0
  | f => f < 6 && vopTypes.contains ty

/-- VQNT, VDQ (opcode 0x38). -/
def vqntOk (w : Nat) : Bool :=
  bits w 8 3 < 2 && mxTypes.contains (bits w 11 4) && bits w 0 8 < mxParts (bits w 11 4)

/-- XCLR to XRD (opcode 0x39). -/
def xaccOk (w : Nat) : Bool :=
  let v := bits w 22 4 == 0
  let r := bits w 17 5 == 0
  let a := bits w 15 2 == 0
  let ty := bits w 11 4
  bits w 0 8 == 0 && match bits w 8 3 with
  | 0 => v && r && a && ty == 0
  | 1 => r && a && xaddTypes.contains ty
  | 2 => v && r && ty == 0
  | 3 => v && a && xaddTypes.contains ty
  | 4 => v && a && xrdTypes.contains ty
  | _ => false

/-- TKCLR to TKCNT (opcode 0x3B). -/
def topkOk (w : Nat) : Bool :=
  bits w 2 6 == 0 && match bits w 8 3 with
  | 0 => fRd w == 0 && bits w 0 2 == 0
  | 1 => fRd w == 0
  | 2 => bits w 0 2 == 0
  | 3 => fRs1 w == 0 && fRs2 w == 0 && bits w 0 2 == 0
  | _ => false

/-- VMISC (Table 5.7). -/
def vmiscOk (w : Nat) : Bool :=
  let v := bits w 22 4
  let r := bits w 17 5 == 0
  let a := bits w 15 2 == 0
  let ty := bits w 11 4
  let imm := bits w 0 8
  match bits w 8 3 with
  | 0 => v == 0 && a && ty == 0 && imm == 0
  | 1 => v == 0 && a && ty == 0 && imm == 0
  | 2 => a && miscType ty && imm == 0
  | 3 => a && miscType ty && imm < typeCount ty
  | 4 => v % 2 == 0 && r && ty == 0 && imm == 0
  | 5 => v % 2 == 0 && r && ty == 0 && imm == 0
  | 6 => v == 0 && r && ty == 0 && imm == 0
  | _ => false

/-- Whether an instruction word encodes an instruction: no reserved opcode, FN or sub-operation, no non-zero
unused field, no type code that the instruction does not accept (R147, R183). -/
def encodes (w : Nat) : Bool :=
  let op := bits w 26 6
  match op with
  | 0x01 => aluOk w
  | 0x02 => aluwOk w
  | 0x09 => bits w 6 2 != 3 && bits w 8 8 == 0
  | 0x28 => meshOk w
  | 0x29 => skeinOk w
  | 0x2A => checkOk w
  | 0x2B => pickOk w
  | 0x2C => sysOk w
  | 0x2D => mgmtOk w
  | 0x30 => !bit w 16
  | 0x31 => !bit w 16
  | 0x32 => !bit w 16 && bits w 24 2 == 0
  | 0x33 => !bit w 16 && bits w 24 2 == 0
  | 0x34 => !bit w 16 && bits w 22 4 < 3
  | 0x35 => vopOk w
  | 0x36 => bits w 24 2 == 0 && bits w 0 4 == 0 && (dotTypes (bit w 9)).contains (bits w 10 4) &&
      (bit w 9 || bits w 4 5 == 0)
  | 0x37 => bits w 0 7 == 0 && cvtOk (bits w 14 4) (bits w 10 4) (bits w 7 3)
  | 0x38 => vqntOk w
  | 0x39 => xaccOk w
  | 0x3A => bits w 24 2 == 0 && bits w 0 8 == 0
  | 0x3B => topkOk w
  | 0x3C => fRd w == 0 && bits w 2 9 == 0
  | 0x3D => vmiscOk w
  | _ => (0x03 ≤ op && op ≤ 0x0B) || (0x10 ≤ op && op ≤ 0x16) || (0x18 ≤ op && op ≤ 0x1B) ||
      (0x20 ≤ op && op ≤ 0x27)

/-! ### Effective addresses (R154, R155, R193) -/

/-- rs1 + sext(IMM16) (R154). -/
def State.ea (s : State) (i : Issue) (rs1 : SReg) (imm : BitVec 16) : Word := s.rs i rs1 + imm.signExtend 64

/-- The byte offset of OFF16 or OFF21: a signed word count (R148). -/
def wordOff {n : Nat} (off : BitVec n) : Word := off.signExtend 64 * 4

/-- The exception of a scalar load of `n` bytes at `ea`, if it takes one (R154, R155). -/
def loadFault (ea : Word) (n : Nat) : Option Nat :=
  if 0x2FFFF < ea.toNat then some exLOAD_RANGE
  else if ea.toNat % n != 0 then some exMISALIGN
  else none

/-- The exception of a scalar store of `n` bytes at `ea`, if it takes one (R154, R155). -/
def storeFault (ea : Word) (n : Nat) : Option Nat :=
  if ea.toNat < 0x8000 || 0x2FFFF < ea.toNat then some exSTORE_RANGE
  else if ea.toNat % n != 0 then some exMISALIGN
  else none

/-- The exception of an access to `n` bytes of the data store at `ea`, 64-byte aligned (R158 to R163,
R193): the range first (priority 4), then the alignment (priority 5). -/
def lineFault (range : Nat) (ea : Word) (n : Nat) : Option Nat :=
  if !inData ea.toNat n then some range
  else if ea.toNat % 64 != 0 then some exMISALIGN
  else none

/-- A whole-line read of the data store by the issuing core. -/
def State.readData (s : State) (i : Issue) (ea : Word) (n : Nat) (k : State → List Byte → Fate) : Fate :=
  match lineFault exLOAD_RANGE ea n with
  | some c => .trap c ea
  | none =>
    match s.readLocal i ea.toNat n with
    | (s1, .ok bs) => k s1 bs
    | (_, .error o) => .ecc o

/-- A whole-line write of the data store by the issuing core. -/
def State.writeData (s : State) (i : Issue) (ea : Word) (bs : List Byte) : Fate :=
  match lineFault exSTORE_RANGE ea bs.length with
  | some c => .trap c ea
  | none => .retire (s.writeLocal i ea.toNat bs)

end Sys2Proof.Machine
end

