-- ==== Sys2Proof/Machine/Scalar.lean ====
section
/-! DEFINITION. The scalar instructions of the spindle: Tables 4.4 and 4.5, immediates, loads and stores,
branches and jumps (04_spindle_isa_core.md R150 to R157). -/
namespace Sys2Proof.Machine
open Sys2Proof

/-! ### Shared forms -/

/-- A register operation: rd = f rs1 rs2 (R150). -/
def State.alu (s : State) (i : Issue) (rd rs1 rs2 : SReg) (f : Word → Word → Word) :
    Host.Outcome State Fault Refusal :=
  s.issue i fun s => .retire (s.ws i rd (f (s.rs i rs1) (s.rs i rs2)))

/-- A single-operand operation. -/
def State.alu1 (s : State) (i : Issue) (rd rs1 : SReg) (f : Word → Word) :
    Host.Outcome State Fault Refusal :=
  s.issue i fun s => .retire (s.ws i rd (f (s.rs i rs1)))

/-- A W form: the operation on the low 32 bits, sign-extended (R150). -/
def word32 (f : BitVec 32 → BitVec 32 → BitVec 32) (a b : Word) : Word :=
  (f (a.setWidth 32) (b.setWidth 32)).signExtend 64

/-- The shift amount: the low 6 bits, or the low 5 bits of a W form. -/
def sh6 (b : Word) : Nat := b.toNat % 64
def sh5 (b : BitVec 32) : Nat := b.toNat % 32

/-- 1 or 0. -/
def flag (b : Bool) : Word := if b then 1 else 0

/-- The quotients and remainders of R151: a zero divisor gives all ones and the dividend. -/
def divS {n : Nat} (a b : BitVec n) : BitVec n := if b = 0 then BitVec.allOnes n else a.sdiv b
def divU {n : Nat} (a b : BitVec n) : BitVec n := if b = 0 then BitVec.allOnes n else a.udiv b
def remS {n : Nat} (a b : BitVec n) : BitVec n := if b = 0 then a else a.srem b
def remU {n : Nat} (a b : BitVec n) : BitVec n := if b = 0 then a else a.umod b

/-- Leading and trailing zero bits; 64 for 0 (Table 4.4). -/
def clz64 (a : Word) : Word := BitVec.ofNat 64 (if a = 0 then 64 else 63 - Nat.log2 a.toNat)

def ctzFrom (a : Word) : Nat → Nat → Nat
  | 0, k => k
  | f + 1, k => if a.getLsbD k then k else ctzFrom a f (k + 1)

def ctz64 (a : Word) : Word := BitVec.ofNat 64 (ctzFrom a 64 0)

/-- The high 64 bits of a product (Table 4.4). -/
def high64 (x : Int) : Word := BitVec.ofInt 64 (x / 2 ^ 64)

/-- A branch (R157). -/
def State.branch (s : State) (i : Issue) (rs1 rs2 : SReg) (off : BitVec 16) (c : Word → Word → Bool) :
    Host.Outcome State Fault Refusal :=
  s.issue i fun s =>
    if c (s.rs i rs1) (s.rs i rs2) then .jump s ((s.ctx i.tile i.ctx).pc + wordOff off) else .retire s

/-- A load of `n` bytes extended to a register value (R154, R155). -/
def State.load (s : State) (i : Issue) (rd rs1 : SReg) (imm : BitVec 16) (n : Nat) (ext : Nat → Word) :
    Host.Outcome State Fault Refusal :=
  s.issue i fun s =>
    let ea := s.ea i rs1 imm
    match loadFault ea n with
    | some c => .trap c ea
    | none =>
      match s.readLocal i ea.toNat n with
      | (s1, .ok bs) => .retire (s1.ws i rd (ext (leNat bs)))
      | (_, .error o) => .ecc o

/-- A store of the low `n` bytes of rs2 (R154, R155). -/
def State.store (s : State) (i : Issue) (rs2 rs1 : SReg) (imm : BitVec 16) (n : Nat) :
    Host.Outcome State Fault Refusal :=
  s.issue i fun s =>
    let ea := s.ea i rs1 imm
    match storeFault ea n with
    | some c => .trap c ea
    | none => .retire (s.writeLocal i ea.toNat (leBytes n (s.rs i rs2).toNat))

/-- Sign and zero extension of `n` loaded bits. -/
def sextN (n : Nat) (x : Nat) : Word := (BitVec.ofNat n x).signExtend 64
def zextN (x : Nat) : Word := BitVec.ofNat 64 x

/-! ### ALU (Table 4.4) -/

/-- ADD (R150): rs1 + rs2 modulo 2^64. -/
def execAdd (i : Issue) (rd rs1 rs2 : SReg) (s : State) : Host.Outcome State Fault Refusal :=
  s.alu i rd rs1 rs2 fun a b => a + b

/-- SUB (R150): rs1 - rs2 modulo 2^64. -/
def execSub (i : Issue) (rd rs1 rs2 : SReg) (s : State) : Host.Outcome State Fault Refusal :=
  s.alu i rd rs1 rs2 fun a b => a - b

/-- AND (R150): bitwise and. -/
def execAnd (i : Issue) (rd rs1 rs2 : SReg) (s : State) : Host.Outcome State Fault Refusal :=
  s.alu i rd rs1 rs2 fun a b => a &&& b

/-- OR (R150): bitwise or. -/
def execOr (i : Issue) (rd rs1 rs2 : SReg) (s : State) : Host.Outcome State Fault Refusal :=
  s.alu i rd rs1 rs2 fun a b => a ||| b

/-- XOR (R150): bitwise exclusive or. -/
def execXor (i : Issue) (rd rs1 rs2 : SReg) (s : State) : Host.Outcome State Fault Refusal :=
  s.alu i rd rs1 rs2 fun a b => a ^^^ b

/-- SLL (R150): shift left. -/
def execSll (i : Issue) (rd rs1 rs2 : SReg) (s : State) : Host.Outcome State Fault Refusal :=
  s.alu i rd rs1 rs2 fun a b => a <<< sh6 b

/-- SRL (R150): shift right, zero fill. -/
def execSrl (i : Issue) (rd rs1 rs2 : SReg) (s : State) : Host.Outcome State Fault Refusal :=
  s.alu i rd rs1 rs2 fun a b => a >>> sh6 b

/-- SRA (R150): shift right, sign fill. -/
def execSra (i : Issue) (rd rs1 rs2 : SReg) (s : State) : Host.Outcome State Fault Refusal :=
  s.alu i rd rs1 rs2 fun a b => a.sshiftRight (sh6 b)

/-- SLT (R150): signed less than. -/
def execSlt (i : Issue) (rd rs1 rs2 : SReg) (s : State) : Host.Outcome State Fault Refusal :=
  s.alu i rd rs1 rs2 fun a b => flag (a.slt b)

/-- SLTU (R150): unsigned less than. -/
def execSltu (i : Issue) (rd rs1 rs2 : SReg) (s : State) : Host.Outcome State Fault Refusal :=
  s.alu i rd rs1 rs2 fun a b => flag (a.ult b)

/-- MIN (R150): signed minimum. -/
def execMin (i : Issue) (rd rs1 rs2 : SReg) (s : State) : Host.Outcome State Fault Refusal :=
  s.alu i rd rs1 rs2 fun a b => if a.slt b then a else b

/-- MAX (R150): signed maximum. -/
def execMax (i : Issue) (rd rs1 rs2 : SReg) (s : State) : Host.Outcome State Fault Refusal :=
  s.alu i rd rs1 rs2 fun a b => if a.slt b then b else a

/-- MINU (R150): unsigned minimum. -/
def execMinu (i : Issue) (rd rs1 rs2 : SReg) (s : State) : Host.Outcome State Fault Refusal :=
  s.alu i rd rs1 rs2 fun a b => if a.ult b then a else b

/-- MAXU (R150): unsigned maximum. -/
def execMaxu (i : Issue) (rd rs1 rs2 : SReg) (s : State) : Host.Outcome State Fault Refusal :=
  s.alu i rd rs1 rs2 fun a b => if a.ult b then b else a

/-- MUL (R150): low 64 bits of the product. -/
def execMul (i : Issue) (rd rs1 rs2 : SReg) (s : State) : Host.Outcome State Fault Refusal :=
  s.alu i rd rs1 rs2 fun a b => a * b

/-- MULH (R150): high 64 bits, signed by signed. -/
def execMulh (i : Issue) (rd rs1 rs2 : SReg) (s : State) : Host.Outcome State Fault Refusal :=
  s.alu i rd rs1 rs2 fun a b => high64 (a.toInt * b.toInt)

/-- MULHU (R150): high 64 bits, unsigned by unsigned. -/
def execMulhu (i : Issue) (rd rs1 rs2 : SReg) (s : State) : Host.Outcome State Fault Refusal :=
  s.alu i rd rs1 rs2 fun a b => high64 ((a.toNat : Int) * (b.toNat : Int))

/-- MULHSU (R150): high 64 bits, signed rs1 by unsigned rs2. -/
def execMulhsu (i : Issue) (rd rs1 rs2 : SReg) (s : State) : Host.Outcome State Fault Refusal :=
  s.alu i rd rs1 rs2 fun a b => high64 (a.toInt * (b.toNat : Int))

/-- DIV (R150): signed quotient toward zero (R151). -/
def execDiv (i : Issue) (rd rs1 rs2 : SReg) (s : State) : Host.Outcome State Fault Refusal :=
  s.alu i rd rs1 rs2 fun a b => divS a b

/-- DIVU (R150): unsigned quotient (R151). -/
def execDivu (i : Issue) (rd rs1 rs2 : SReg) (s : State) : Host.Outcome State Fault Refusal :=
  s.alu i rd rs1 rs2 fun a b => divU a b

/-- REM (R150): signed remainder with the sign of rs1 (R151). -/
def execRem (i : Issue) (rd rs1 rs2 : SReg) (s : State) : Host.Outcome State Fault Refusal :=
  s.alu i rd rs1 rs2 fun a b => remS a b

/-- REMU (R150): unsigned remainder (R151). -/
def execRemu (i : Issue) (rd rs1 rs2 : SReg) (s : State) : Host.Outcome State Fault Refusal :=
  s.alu i rd rs1 rs2 fun a b => remU a b

/-- CLZ (R150): count of leading zero bits. -/
def execClz (i : Issue) (rd rs1 : SReg) (s : State) : Host.Outcome State Fault Refusal :=
  s.alu1 i rd rs1 clz64

/-- CTZ (R150): count of trailing zero bits. -/
def execCtz (i : Issue) (rd rs1 : SReg) (s : State) : Host.Outcome State Fault Refusal :=
  s.alu1 i rd rs1 ctz64

/-- POPC (R150): count of one bits. -/
def execPopc (i : Issue) (rd rs1 : SReg) (s : State) : Host.Outcome State Fault Refusal :=
  s.alu1 i rd rs1 (fun a => BitVec.ofNat 64 (popCount 64 a.toNat))

/-- ADDW (R150): sum, 32 bits. -/
def execAddw (i : Issue) (rd rs1 rs2 : SReg) (s : State) : Host.Outcome State Fault Refusal :=
  s.alu i rd rs1 rs2 (word32 fun a b => a + b)

/-- SUBW (R150): difference, 32 bits. -/
def execSubw (i : Issue) (rd rs1 rs2 : SReg) (s : State) : Host.Outcome State Fault Refusal :=
  s.alu i rd rs1 rs2 (word32 fun a b => a - b)

/-- SLLW (R150): shift left, 32 bits. -/
def execSllw (i : Issue) (rd rs1 rs2 : SReg) (s : State) : Host.Outcome State Fault Refusal :=
  s.alu i rd rs1 rs2 (word32 fun a b => a <<< sh5 b)

/-- SRLW (R150): shift right, zero fill, 32 bits. -/
def execSrlw (i : Issue) (rd rs1 rs2 : SReg) (s : State) : Host.Outcome State Fault Refusal :=
  s.alu i rd rs1 rs2 (word32 fun a b => a >>> sh5 b)

/-- SRAW (R150): shift right, sign fill, 32 bits. -/
def execSraw (i : Issue) (rd rs1 rs2 : SReg) (s : State) : Host.Outcome State Fault Refusal :=
  s.alu i rd rs1 rs2 (word32 fun a b => a.sshiftRight (sh5 b))

/-- MULW (R150): product, 32 bits. -/
def execMulw (i : Issue) (rd rs1 rs2 : SReg) (s : State) : Host.Outcome State Fault Refusal :=
  s.alu i rd rs1 rs2 (word32 fun a b => a * b)

/-- DIVW (R150): signed quotient (R151), 32 bits. -/
def execDivw (i : Issue) (rd rs1 rs2 : SReg) (s : State) : Host.Outcome State Fault Refusal :=
  s.alu i rd rs1 rs2 (word32 fun a b => divS a b)

/-- DIVUW (R150): unsigned quotient (R151), 32 bits. -/
def execDivuw (i : Issue) (rd rs1 rs2 : SReg) (s : State) : Host.Outcome State Fault Refusal :=
  s.alu i rd rs1 rs2 (word32 fun a b => divU a b)

/-- REMW (R150): signed remainder (R151), 32 bits. -/
def execRemw (i : Issue) (rd rs1 rs2 : SReg) (s : State) : Host.Outcome State Fault Refusal :=
  s.alu i rd rs1 rs2 (word32 fun a b => remS a b)

/-- REMUW (R150): unsigned remainder (R151), 32 bits. -/
def execRemuw (i : Issue) (rd rs1 rs2 : SReg) (s : State) : Host.Outcome State Fault Refusal :=
  s.alu i rd rs1 rs2 (word32 fun a b => remU a b)

/-! ### Immediates (R148, R152) -/

/-- ADDI (R152): rs1 + sext imm. -/
def execAddi (i : Issue) (rd rs1 : SReg) (imm : BitVec 16) (s : State) :
    Host.Outcome State Fault Refusal :=
  s.alu1 i rd rs1 fun a => a + imm.signExtend 64

/-- ANDI (R152): rs1 and zext imm. -/
def execAndi (i : Issue) (rd rs1 : SReg) (imm : BitVec 16) (s : State) :
    Host.Outcome State Fault Refusal :=
  s.alu1 i rd rs1 fun a => a &&& imm.setWidth 64

/-- ORI (R152): rs1 or zext imm. -/
def execOri (i : Issue) (rd rs1 : SReg) (imm : BitVec 16) (s : State) :
    Host.Outcome State Fault Refusal :=
  s.alu1 i rd rs1 fun a => a ||| imm.setWidth 64

/-- XORI (R152): rs1 xor zext imm. -/
def execXori (i : Issue) (rd rs1 : SReg) (imm : BitVec 16) (s : State) :
    Host.Outcome State Fault Refusal :=
  s.alu1 i rd rs1 fun a => a ^^^ imm.setWidth 64

/-- SLTI (R152): signed comparison. -/
def execSlti (i : Issue) (rd rs1 : SReg) (imm : BitVec 16) (s : State) :
    Host.Outcome State Fault Refusal :=
  s.alu1 i rd rs1 fun a => flag (a.slt (imm.signExtend 64))

/-- SLTIU (R152): unsigned comparison after sign extension. -/
def execSltiu (i : Issue) (rd rs1 : SReg) (imm : BitVec 16) (s : State) :
    Host.Outcome State Fault Refusal :=
  s.alu1 i rd rs1 fun a => flag (a.ult (imm.signExtend 64))

/-- SLLI (R152): shift left by the immediate. -/
def execSlli (i : Issue) (rd rs1 : SReg) (sh : BitVec 6) (s : State) :
    Host.Outcome State Fault Refusal :=
  s.alu1 i rd rs1 fun a => a <<< sh.toNat

/-- SRLI (R152): shift right, zero fill by the immediate. -/
def execSrli (i : Issue) (rd rs1 : SReg) (sh : BitVec 6) (s : State) :
    Host.Outcome State Fault Refusal :=
  s.alu1 i rd rs1 fun a => a >>> sh.toNat

/-- SRAI (R152): shift right, sign fill by the immediate. -/
def execSrai (i : Issue) (rd rs1 : SReg) (sh : BitVec 6) (s : State) :
    Host.Outcome State Fault Refusal :=
  s.alu1 i rd rs1 fun a => a.sshiftRight sh.toNat

/-- LUI (R152): sext(IMM21) shifted left by 16. -/
def execLui (i : Issue) (rd : SReg) (imm : BitVec 21) (s : State) : Host.Outcome State Fault Refusal :=
  s.alu1 i rd 0 fun _ => imm.signExtend 64 <<< 16

/-- ADDIW (R152): a 32-bit sum, sign-extended. -/
def execAddiw (i : Issue) (rd rs1 : SReg) (imm : BitVec 16) (s : State) :
    Host.Outcome State Fault Refusal :=
  s.alu1 i rd rs1 fun a => word32 (· + ·) a (imm.signExtend 64)

/-! ### Loads and stores (R154, R155) -/

/-- LB (R155): load 1 byte, sign-extended. -/
def execLb (i : Issue) (rd rs1 : SReg) (imm : BitVec 16) (s : State) :
    Host.Outcome State Fault Refusal :=
  s.load i rd rs1 imm 1 (sextN 8)

/-- LBU (R155): load 1 byte, zero-extended. -/
def execLbu (i : Issue) (rd rs1 : SReg) (imm : BitVec 16) (s : State) :
    Host.Outcome State Fault Refusal :=
  s.load i rd rs1 imm 1 zextN

/-- LH (R155): load 2 bytes, sign-extended. -/
def execLh (i : Issue) (rd rs1 : SReg) (imm : BitVec 16) (s : State) :
    Host.Outcome State Fault Refusal :=
  s.load i rd rs1 imm 2 (sextN 16)

/-- LHU (R155): load 2 bytes, zero-extended. -/
def execLhu (i : Issue) (rd rs1 : SReg) (imm : BitVec 16) (s : State) :
    Host.Outcome State Fault Refusal :=
  s.load i rd rs1 imm 2 zextN

/-- LW (R155): load 4 bytes, sign-extended. -/
def execLw (i : Issue) (rd rs1 : SReg) (imm : BitVec 16) (s : State) :
    Host.Outcome State Fault Refusal :=
  s.load i rd rs1 imm 4 (sextN 32)

/-- LWU (R155): load 4 bytes, zero-extended. -/
def execLwu (i : Issue) (rd rs1 : SReg) (imm : BitVec 16) (s : State) :
    Host.Outcome State Fault Refusal :=
  s.load i rd rs1 imm 4 zextN

/-- LD (R155): load 8 bytes. -/
def execLd (i : Issue) (rd rs1 : SReg) (imm : BitVec 16) (s : State) :
    Host.Outcome State Fault Refusal :=
  s.load i rd rs1 imm 8 zextN

/-- SB (R155): store the low 1 byte of rs2. -/
def execSb (i : Issue) (rs2 rs1 : SReg) (imm : BitVec 16) (s : State) :
    Host.Outcome State Fault Refusal :=
  s.store i rs2 rs1 imm 1

/-- SH (R155): store the low 2 bytes of rs2. -/
def execSh (i : Issue) (rs2 rs1 : SReg) (imm : BitVec 16) (s : State) :
    Host.Outcome State Fault Refusal :=
  s.store i rs2 rs1 imm 2

/-- SW (R155): store the low 4 bytes of rs2. -/
def execSw (i : Issue) (rs2 rs1 : SReg) (imm : BitVec 16) (s : State) :
    Host.Outcome State Fault Refusal :=
  s.store i rs2 rs1 imm 4

/-- SD (R155): store the low 8 bytes of rs2. -/
def execSd (i : Issue) (rs2 rs1 : SReg) (imm : BitVec 16) (s : State) :
    Host.Outcome State Fault Refusal :=
  s.store i rs2 rs1 imm 8

/-! ### Branches and jumps (R157) -/

/-- BEQ (R157): branch if equal. -/
def execBeq (i : Issue) (rs1 rs2 : SReg) (off : BitVec 16) (s : State) :
    Host.Outcome State Fault Refusal :=
  s.branch i rs1 rs2 off fun a b => a == b

/-- BNE (R157): branch if not equal. -/
def execBne (i : Issue) (rs1 rs2 : SReg) (off : BitVec 16) (s : State) :
    Host.Outcome State Fault Refusal :=
  s.branch i rs1 rs2 off fun a b => a != b

/-- BLT (R157): branch if signed less. -/
def execBlt (i : Issue) (rs1 rs2 : SReg) (off : BitVec 16) (s : State) :
    Host.Outcome State Fault Refusal :=
  s.branch i rs1 rs2 off fun a b => a.slt b

/-- BGE (R157): branch if signed not less. -/
def execBge (i : Issue) (rs1 rs2 : SReg) (off : BitVec 16) (s : State) :
    Host.Outcome State Fault Refusal :=
  s.branch i rs1 rs2 off fun a b => !a.slt b

/-- BLTU (R157): branch if unsigned less. -/
def execBltu (i : Issue) (rs1 rs2 : SReg) (off : BitVec 16) (s : State) :
    Host.Outcome State Fault Refusal :=
  s.branch i rs1 rs2 off fun a b => a.ult b

/-- BGEU (R157): branch if unsigned not less. -/
def execBgeu (i : Issue) (rs1 rs2 : SReg) (off : BitVec 16) (s : State) :
    Host.Outcome State Fault Refusal :=
  s.branch i rs1 rs2 off fun a b => !a.ult b

/-- JAL (R157). -/
def execJal (i : Issue) (rd : SReg) (off : BitVec 21) (s : State) : Host.Outcome State Fault Refusal :=
  s.issue i fun s =>
    let pc := (s.ctx i.tile i.ctx).pc
    .jump (s.ws i rd (pc + 4)) (pc + wordOff off)

/-- JALR (R157): rs1 is read before rd is written. -/
def execJalr (i : Issue) (rd rs1 : SReg) (imm : BitVec 16) (s : State) :
    Host.Outcome State Fault Refusal :=
  s.issue i fun s => .jump (s.ws i rd ((s.ctx i.tile i.ctx).pc + 4)) (s.rs i rs1 + imm.signExtend 64)

end Sys2Proof.Machine
end

