-- ==== Sys2Proof/Machine/Flags.lean ====
section
/-! DEFINITION. Number formats and the flags of VCSR (05_spindle_isa_vector.md R187 to R192, R198): exact
values, one rounding, narrowing, conversion, MX quantization. -/
namespace Sys2Proof.Machine
open Sys2Proof

/-! ### Flags (Table 5.1) -/

def fNV : Nat := 1
def fOF : Nat := 2
def fUF : Nat := 4
def fNX : Nat := 8
def fSAT : Nat := 16

/-! ### Formats (Table 5.4) -/

/-- The special values of a format: infinities and NaN as in IEEE 754, the one NaN of E4M3, or none. -/
inductive Specials
  | ieee
  | e4m3
  | none
  deriving DecidableEq, Repr

/-- A floating-point format: exponent and mantissa bits, bias, special values, and the largest finite
encoding. -/
structure Fmt where
  eb : Nat
  mb : Nat
  bias : Nat
  sp : Specials
  deriving DecidableEq, Repr

/-- The format of a type code (Table 5.4). -/
def fmtOf (ty : Nat) : Fmt :=
  match ty with
  | 0 => ⟨8, 23, 127, .ieee⟩
  | 1 => ⟨8, 7, 127, .ieee⟩
  | 2 => ⟨5, 10, 15, .ieee⟩
  | 3 => ⟨4, 3, 7, .e4m3⟩
  | 4 => ⟨5, 2, 15, .ieee⟩
  | 5 => ⟨2, 3, 1, .none⟩
  | 6 => ⟨3, 2, 3, .none⟩
  | _ => ⟨2, 1, 1, .none⟩

/-- The magnitude bits of the largest finite value. -/
def Fmt.maxMag (f : Fmt) : Nat :=
  match f.sp with
  | .ieee => (2 ^ f.eb - 1) * 2 ^ f.mb - 1
  | .e4m3 => 2 ^ (f.eb + f.mb) - 2
  | .none => 2 ^ (f.eb + f.mb) - 1

/-- The magnitude bits of the canonical NaN, and of infinity. -/
def Fmt.nanMag (f : Fmt) : Nat :=
  match f.sp with
  | .ieee => (2 ^ f.eb - 1) * 2 ^ f.mb + 2 ^ (f.mb - 1)
  | .e4m3 => 2 ^ (f.eb + f.mb) - 1
  | .none => 0

def Fmt.infMag (f : Fmt) : Nat := (2 ^ f.eb - 1) * 2 ^ f.mb

/-- An exact value: NaN, a signed infinity, or (-1)^neg * m * 2^e. -/
inductive FVal
  | nan
  | inf (neg : Bool)
  | fin (neg : Bool) (m : Nat) (e : Int)
  deriving DecidableEq, Repr

/-- The value of magnitude bits `mag`. -/
def Fmt.magVal (f : Fmt) (neg : Bool) (mag : Nat) : FVal :=
  let x := mag / 2 ^ f.mb
  let m := mag % 2 ^ f.mb
  let u : Int := 1 - f.bias - f.mb
  if f.sp = .ieee && x = 2 ^ f.eb - 1 then (if m = 0 then .inf neg else .nan)
  else if f.sp = .e4m3 && mag = 2 ^ (f.eb + f.mb) - 1 then .nan
  else if x = 0 then .fin neg m u
  else .fin neg (2 ^ f.mb + m) (u + (x - 1 : Nat))

/-- The exact value of an element of type `ty` (Table 5.4); an integer is itself. -/
def valOf (ty b : Nat) : FVal :=
  if typeInt ty then
    let x := sgn (typeBits ty) b
    .fin (decide (x < 0)) x.natAbs 0
  else
    let f := fmtOf ty
    f.magVal (bit b (f.eb + f.mb)) (b % 2 ^ (f.eb + f.mb))

/-! ### Exact arithmetic -/

/-- The integer that a finite value is a multiple of, at unit 2^u (u at most its own). -/
def atUnit (neg : Bool) (m : Nat) (e u : Int) : Int :=
  (if neg then -1 else 1) * (m * 2 ^ (e - u).toNat : Nat)

/-- A sum, and whether it makes a NaN of operands that are none. -/
def FVal.add (a b : FVal) : FVal × Bool :=
  match a, b with
  | .nan, _ => (.nan, false)
  | _, .nan => (.nan, false)
  | .inf x, .inf y => if x = y then (.inf x, false) else (.nan, true)
  | .inf x, .fin .. => (.inf x, false)
  | .fin .., .inf y => (.inf y, false)
  | .fin n1 m1 e1, .fin n2 m2 e2 =>
    if m1 = 0 && m2 = 0 then (.fin (n1 && n2) 0 (min e1 e2), false)
    else
      let u := min e1 e2
      let x := atUnit n1 m1 e1 u + atUnit n2 m2 e2 u
      (.fin (decide (x < 0)) x.natAbs u, false)

/-- A product, and whether it makes a NaN of operands that are none. -/
def FVal.mul (a b : FVal) : FVal × Bool :=
  match a, b with
  | .nan, _ => (.nan, false)
  | _, .nan => (.nan, false)
  | .inf x, .inf y => (.inf (x != y), false)
  | .inf x, .fin n m _ => if m = 0 then (.nan, true) else (.inf (x != n), false)
  | .fin n m _, .inf y => if m = 0 then (.nan, true) else (.inf (n != y), false)
  | .fin n1 m1 e1, .fin n2 m2 e2 => (.fin (n1 != n2) (m1 * m2) (e1 + e2), false)

/-- The value times 2^k. -/
def FVal.scale (a : FVal) (k : Int) : FVal :=
  match a with
  | .fin n m e => .fin n m (e + k)
  | x => x

/-- The negated value. -/
def FVal.neg (a : FVal) : FVal :=
  match a with
  | .nan => .nan
  | .inf x => .inf !x
  | .fin n m e => .fin (!n) m e

/-- a < b, false where either is NaN; -0 equals +0. -/
def FVal.lt (a b : FVal) : Bool :=
  match a, b with
  | .nan, _ => false
  | _, .nan => false
  | .inf x, .inf y => x && !y
  | .inf x, .fin .. => x
  | .fin .., .inf y => !y
  | .fin n1 m1 e1, .fin n2 m2 e2 =>
    let u := min e1 e2
    decide (atUnit n1 m1 e1 u < atUnit n2 m2 e2 u)

/-- Whether a value is negative in sign. -/
def FVal.sign (a : FVal) : Bool :=
  match a with
  | .nan => false
  | .inf x => x
  | .fin n _ _ => n

/-- Whether a value is a NaN. -/
def FVal.isNan (a : FVal) : Bool := a == .nan

/-! ### Rounding (R189, R190) -/

/-- The direction of a rounding: nearest with ties to even, or toward +infinity (SCOREB). -/
inductive Dir
  | nearest
  | up
  deriving DecidableEq, Repr

/-- m * 2^e as a multiple of 2^u, rounded; and whether that is inexact. -/
def roundUnit (d : Dir) (neg : Bool) (m : Nat) (e u : Int) : Nat × Bool :=
  if u ≤ e then (m * 2 ^ (e - u).toNat, false)
  else
    let k := (u - e).toNat
    let q := m / 2 ^ k
    let r := m % 2 ^ k
    let inc : Bool := match d with
      | .nearest => 2 ^ k < 2 * r || (2 * r == 2 ^ k && q % 2 == 1)
      | .up => r != 0 && !neg
    (if inc then q + 1 else q, r != 0)

/-- The sign bit of a format above magnitude bits. -/
def Fmt.signed (f : Fmt) (neg : Bool) (mag : Nat) : Nat := mag + (if neg then 2 ^ (f.eb + f.mb) else 0)

/-- The result of a finite overflow (R190, Table 5.5). -/
def Fmt.overflow (f : Fmt) (ty : Nat) (d : Dir) (nosat neg : Bool) : Nat × Nat :=
  if ty ≤ 2 then
    if d = .up && neg then (f.signed neg f.maxMag, fOF) else (f.signed neg f.infMag, fOF)
  else if ty = 3 then if nosat then (f.nanMag, fOF) else (f.signed neg f.maxMag, fSAT)
  else if ty = 4 then if nosat then (f.signed neg f.infMag, fOF) else (f.signed neg f.maxMag, fSAT)
  else (f.signed neg f.maxMag, fSAT)

/-- A value in floating-point type `ty`, with the flags it sets (R189, R190, R192). -/
def encodeF (ty : Nat) (d : Dir) (nosat : Bool) (x : FVal) : Nat × Nat :=
  let f := fmtOf ty
  match x with
  | .nan => if f.sp = .none then (0, fNV) else (f.nanMag, 0)
  | .inf neg => if f.sp = .ieee then (f.signed neg f.infMag, 0) else (f.signed neg f.maxMag, fSAT)
  | .fin neg m e =>
    if m = 0 then (f.signed neg 0, 0)
    else
      let least : Int := 1 - f.bias - f.mb
      let free : Int := e + Nat.log2 m - f.mb
      let u := max free least
      let q := roundUnit d neg m e u
      let mag := (u - least).toNat * 2 ^ f.mb + q.1
      let q1 := roundUnit d neg m e free
      let norm : Int := least + f.mb
      let tiny : Bool := decide (free < norm) && decide (q1.1 < 2 ^ (norm - free).toNat)
      if f.maxMag < mag then f.overflow ty d nosat neg
      else (f.signed neg mag, if q.2 then (if tiny && q1.1 != 0 then fUF + fNX else fNX) else 0)

/-- A value in integer type `ty`, from a floating-point value or, with `int`, from an integer (R191). -/
def encodeI (ty : Nat) (int : Bool) (x : FVal) : Nat × Nat :=
  let w := typeBits ty
  let lo : Int := -(2 ^ (w - 1) : Nat)
  let hi : Int := (2 ^ (w - 1) : Nat) - 1
  match x with
  | .nan => (0, fNV)
  | .inf neg => (wrapI w (if neg then lo else hi), fNV)
  | .fin neg m e =>
    let q := roundUnit .nearest neg m e 0
    let v : Int := if neg then -(q.1 : Int) else q.1
    if v < lo then (wrapI w lo, if int then fSAT else fNV)
    else if hi < v then (wrapI w hi, if int then fSAT else fNV)
    else (wrapI w v, if q.2 then fNX else 0)

/-- A value in type `ty` (R189 to R191). -/
def encodeV (ty : Nat) (nosat int : Bool) (x : FVal) : Nat × Nat :=
  if typeInt ty then encodeI ty int x else encodeF ty .nearest nosat x

/-- One element converted from type `src` to type `dst` (R190, R191, R220). -/
def convElem (src dst : Nat) (nosat : Bool) (b : Nat) : Nat × Nat :=
  if src = dst then (b, 0) else encodeV dst nosat (typeInt src) (valOf src b)

/-! ### Elements of a register (R181) -/

/-- The elements of type `ty` in a register. -/
def elemsOf (ty : Nat) (v : BitVec 512) : List Nat :=
  (List.range (typeCount ty)).map fun k => bits v.toNat (typeBits ty * k) (typeBits ty)

/-- The number that packs elements of width `w` from bit 0 up. -/
def packE (w : Nat) : List Nat → Nat
  | [] => 0
  | x :: xs => x % 2 ^ w + 2 ^ w * packE w xs

/-- A register that holds elements of type `ty`; bits beyond them are 0. -/
def vecOf (ty : Nat) (l : List Nat) : BitVec 512 := BitVec.ofNat 512 (packE (typeBits ty) l)

/-- The 32 lanes of an accumulator (R179). -/
def lanesOf (a : BitVec 1024) : List Nat := (List.range 32).map fun k => bits a.toNat (32 * k) 32

/-- An accumulator of 32 lanes. -/
def accOf (l : List Nat) : BitVec 1024 := BitVec.ofNat 1024 (packE 32 l)

/-- The OR of flags. -/
def orFlags (l : List Nat) : Nat := l.foldl (· ||| ·) 0

/-! ### MX quantization (R198) -/

/-- emax of an MX element type. -/
def emaxOf (ty : Nat) : Int :=
  match ty with
  | 3 => 8
  | 4 => 15
  | 5 => 2
  | 6 => 4
  | 7 => 2
  | _ => 0

/-- floor(log2 |x|) of a finite non-zero value. -/
def FVal.log2? (a : FVal) : Option Int :=
  match a with
  | .fin _ m e => if m = 0 then none else some (Nat.log2 m + e)
  | _ => none

/-- One element of a quantized block: to nearest with ties to even, saturating with SAT (R198). -/
def mxElem (ty : Nat) (v : FVal) : Nat × Nat :=
  if ty = 8 then
    match v.scale 6 with
    | .fin neg m e =>
      let q := roundUnit .nearest neg m e 0
      let x : Int := if neg then -(q.1 : Int) else q.1
      if x < -128 then (wrapI 8 (-128), fSAT)
      else if 127 < x then (127, fSAT)
      else (wrapI 8 x, if q.2 then fNX else 0)
    | _ => (0, 0)
  else
    let r := encodeF ty .nearest false v
    (r.1, if r.2 &&& fSAT != 0 then fSAT else r.2 &&& fNX)

/-- mxquant (R198): the scale byte, the elements and the flags. -/
def mxquant (ty : Nat) (x : List FVal) : Nat × List Nat × Nat :=
  if x.any fun v => match v with
    | .fin .. => false
    | _ => true
  then (0xFF, x.map fun _ => 0, fNV)
  else
    let top := (x.filterMap (·.log2?)).foldl (fun (a : Option Int) e => some (match a with
      | some b => max b e
      | none => e)) none
    let xe : Int := max (-127) (min 127 (match top with
      | some e => e - emaxOf ty
      | none => -127))
    let r := x.map fun v => mxElem ty (v.scale (-xe))
    ((xe + 127).toNat, r.map (·.1), orFlags (r.map (·.2)))

/-- The value of element `b` of an MX block with scale byte `sc` (R188). -/
def mxVal (ty sc b : Nat) : FVal :=
  if sc = 0xFF then .nan
  else (valOf ty b).scale ((sc : Int) - 127 - (if ty = 8 then 6 else 0))

/-! ### VCSR (R180, R184, R192) -/

/-- Whether VCSR.NOSAT is set in the issuing context. -/
def State.nosat (s : State) (i : Issue) : Bool := (s.ctx i.tile i.ctx).vcsr.getLsbD 9

/-- Retire a floating-point instruction of word `w` with flags `fl`, or take FP_INVALID where it would set NV
and TRAP_NV is set (R184). -/
def State.fpEnd (s : State) (i : Issue) (w fl : Nat) (f : Context → Context) : Fate :=
  if fl % 2 = 1 && (s.ctx i.tile i.ctx).vcsr.getLsbD 8 then .trap exFP_INVALID (evWord w)
  else .retire (s.upd i fun k => { f k with vcsr := k.vcsr ||| BitVec.ofNat 64 fl })

end Sys2Proof.Machine
end

