-- ==== Sys2Proof/Machine/Vector.lean ====
section
/-! DEFINITION. The vector, accumulator and near-data instructions of the spindle
(05_spindle_isa_vector.md R193 to R214). -/
namespace Sys2Proof.Machine
open Sys2Proof

/-! ### Loads, stores and the XACC image (R193, R203) -/

/-- VLD (R193): 64 bytes into a vector register. -/
def execVld (i : Issue) (v : VReg) (rs1 : SReg) (imm : BitVec 16) (s : State) :
    Host.Outcome State Fault Refusal :=
  s.issue i fun s => s.readData i (s.ea i rs1 imm) 64 fun s bs =>
    .retire (s.upd i (·.setVec v (BitVec.ofNat 512 (leNat bs))))

/-- VST (R193): the 64 bytes of a vector register. -/
def execVst (i : Issue) (v : VReg) (rs1 : SReg) (imm : BitVec 16) (s : State) :
    Host.Outcome State Fault Refusal :=
  s.issue i fun s => s.writeData i (s.ea i rs1 imm) (leBytes 64 ((s.ctx i.tile i.ctx).vec v).toNat)

/-- ALD (R193): 128 bytes into an accumulator. -/
def execAld (i : Issue) (a : AReg) (rs1 : SReg) (imm : BitVec 16) (s : State) :
    Host.Outcome State Fault Refusal :=
  s.issue i fun s => s.readData i (s.ea i rs1 imm) 128 fun s bs =>
    .retire (s.upd i (·.setAcc a (BitVec.ofNat 1024 (leNat bs))))

/-- AST (R193): the 128 bytes of an accumulator. -/
def execAst (i : Issue) (a : AReg) (rs1 : SReg) (imm : BitVec 16) (s : State) :
    Host.Outcome State Fault Refusal :=
  s.issue i fun s => s.writeData i (s.ea i rs1 imm) (leBytes 128 ((s.ctx i.tile i.ctx).acc a).toNat)

/-- The 128-byte image of XACC (Table 5.9). -/
def XAcc.image (x : XAcc) : List Byte :=
  leBytes 80 x.v.toNat ++
    leBytes 1 ((if x.nan then 1 else 0) + (if x.pinf then 2 else 0) + (if x.ninf then 4 else 0) +
      (if x.wrap then 8 else 0)) ++ leBytes 47 0

/-- The XACC that an image holds; reserved bytes are ignored (R203). -/
def imageXAcc (bs : List Byte) : XAcc :=
  let f := byteAt bs 80
  ⟨BitVec.ofNat 640 (leAt bs 0 80), bit f 0, bit f 1, bit f 2, bit f 3⟩

/-- The sum of two images (R203): WRAP where the true sum lies outside V's range. -/
def XAcc.merge (x y : XAcc) : XAcc :=
  let t := x.v.toInt + y.v.toInt
  let v := x.v + y.v
  ⟨v, x.nan || y.nan, x.pinf || y.pinf, x.ninf || y.ninf, x.wrap || y.wrap || v.toInt != t⟩

/-- XST (R203): store the image of XACC. -/
def execXst (i : Issue) (rs1 : SReg) (imm : BitVec 16) (s : State) : Host.Outcome State Fault Refusal :=
  s.issue i fun s => s.writeData i (s.ea i rs1 imm) (s.ctx i.tile i.ctx).xacc.image

/-- XLDI (R203): load an image into XACC. -/
def execXldi (i : Issue) (rs1 : SReg) (imm : BitVec 16) (s : State) : Host.Outcome State Fault Refusal :=
  s.issue i fun s => s.readData i (s.ea i rs1 imm) 128 fun s bs =>
    .retire (s.upd i fun k => { k with xacc := imageXAcc bs })

/-- XMRG (R203): add an image to XACC. -/
def execXmrg (i : Issue) (rs1 : SReg) (imm : BitVec 16) (s : State) : Host.Outcome State Fault Refusal :=
  s.issue i fun s => s.readData i (s.ea i rs1 imm) 128 fun s bs =>
    .retire (s.upd i fun k => { k with xacc := k.xacc.merge (imageXAcc bs) })

/-! ### Elementwise arithmetic (R194, R195) -/

/-- A floating-point result in type `ty`, from an exact value and whether it is a NaN newly made. -/
def fpOut (ty : Nat) (x : FVal × Bool) : Nat × Nat :=
  let r := encodeF ty .nearest false x.1
  (r.1, if x.2 then r.2 ||| fNV else r.2)

/-- An integer result modulo 2^w (R195). -/
def intOut (ty : Nat) (x : Int) : Nat × Nat := (wrapI (typeBits ty) x, 0)

/-- The signed value of an integer element. -/
def intOf (ty b : Nat) : Int := sgn (typeBits ty) b

/-- VADD, VSUB, VMUL and VFMA of one element; `c` is the element of vd. -/
def elemAdd (ty a b : Nat) : Nat × Nat :=
  if typeInt ty then intOut ty (intOf ty a + intOf ty b) else fpOut ty ((valOf ty a).add (valOf ty b))

def elemSub (ty a b : Nat) : Nat × Nat :=
  if typeInt ty then intOut ty (intOf ty a - intOf ty b) else fpOut ty ((valOf ty a).add (valOf ty b).neg)

def elemMul (ty a b : Nat) : Nat × Nat :=
  if typeInt ty then intOut ty (intOf ty a * intOf ty b) else fpOut ty ((valOf ty a).mul (valOf ty b))

def elemFma (ty a b c : Nat) : Nat × Nat :=
  if typeInt ty then intOut ty (intOf ty a * intOf ty b + intOf ty c)
  else
    let p := (valOf ty a).mul (valOf ty b)
    let r := p.1.add (valOf ty c)
    fpOut ty (r.1, p.2 || r.2)

/-- VMIN and VMAX: a NaN operand gives NaN, and -0 lies below +0 (R195). -/
def elemMin (ty a b : Nat) : Nat × Nat :=
  if typeInt ty then (if intOf ty a < intOf ty b then a else b, 0)
  else
    let x := valOf ty a
    let y := valOf ty b
    if x.isNan || y.isNan then ((fmtOf ty).nanMag, 0)
    else if x.lt y then (a, 0) else if y.lt x then (b, 0) else (if x.sign then a else b, 0)

def elemMax (ty a b : Nat) : Nat × Nat :=
  if typeInt ty then (if intOf ty a < intOf ty b then b else a, 0)
  else
    let x := valOf ty a
    let y := valOf ty b
    if x.isNan || y.isNan then ((fmtOf ty).nanMag, 0)
    else if x.lt y then (b, 0) else if y.lt x then (a, 0) else (if x.sign then b else a, 0)

/-- VABS and VNEG change only the sign bit of a floating-point element (R195). -/
def elemAbs (ty a : Nat) : Nat × Nat :=
  if typeInt ty then intOut ty (intOf ty a).natAbs else (a % 2 ^ (typeBits ty - 1), 0)

def elemNeg (ty a : Nat) : Nat × Nat :=
  if typeInt ty then intOut ty (-(intOf ty a)) else (a ^^^ 2 ^ (typeBits ty - 1), 0)

/-- A VOP of word `w` over every element (R194): `f` takes the elements of vs1, vs2 and vd. -/
def State.vop (s : State) (i : Issue) (w : Nat) (vd vs1 vs2 : VReg) (ty : BitVec 4)
    (f : Nat → Nat → Nat → Nat → Nat × Nat) : Host.Outcome State Fault Refusal :=
  s.issue i fun s =>
    let t := ty.toNat
    if vopTypes.contains t then
      let k := s.ctx i.tile i.ctx
      let r := (elemsOf t (k.vec vs1)).zipWith (fun a (p : Nat × Nat) => f t a p.1 p.2)
        ((elemsOf t (k.vec vs2)).zip (elemsOf t (k.vec vd)))
      s.fpEnd i w (orFlags (r.map (·.2))) (·.setVec vd (vecOf t (r.map (·.1))))
    else .trap exILLEGAL (evWord w)

/-- A bitwise VOP (R194). -/
def State.vbit (s : State) (i : Issue) (vd vs1 vs2 : VReg) (f : BitVec 512 → BitVec 512 → BitVec 512) :
    Host.Outcome State Fault Refusal :=
  s.issue i fun s =>
    let k := s.ctx i.tile i.ctx
    .retire (s.upd i (·.setVec vd (f (k.vec vs1) (k.vec vs2))))

/-- VADD (R194): vs1 + vs2. -/
def execVadd (i : Issue) (vd vs1 vs2 : VReg) (ty : BitVec 4) (s : State) :
    Host.Outcome State Fault Refusal :=
  s.vop i (wVA vd vs1 vs2 ty 0) vd vs1 vs2 ty fun t a b _ => elemAdd t a b

/-- VSUB (R194): vs1 - vs2. -/
def execVsub (i : Issue) (vd vs1 vs2 : VReg) (ty : BitVec 4) (s : State) :
    Host.Outcome State Fault Refusal :=
  s.vop i (wVA vd vs1 vs2 ty 1) vd vs1 vs2 ty fun t a b _ => elemSub t a b

/-- VMUL (R194): vs1 × vs2. -/
def execVmul (i : Issue) (vd vs1 vs2 : VReg) (ty : BitVec 4) (s : State) :
    Host.Outcome State Fault Refusal :=
  s.vop i (wVA vd vs1 vs2 ty 2) vd vs1 vs2 ty fun t a b _ => elemMul t a b

/-- VFMA (R194): vs1 × vs2 + vd with one rounding. -/
def execVfma (i : Issue) (vd vs1 vs2 : VReg) (ty : BitVec 4) (s : State) :
    Host.Outcome State Fault Refusal :=
  s.vop i (wVA vd vs1 vs2 ty 3) vd vs1 vs2 ty fun t a b c => elemFma t a b c

/-- VMIN (R194): the minimum (R195). -/
def execVmin (i : Issue) (vd vs1 vs2 : VReg) (ty : BitVec 4) (s : State) :
    Host.Outcome State Fault Refusal :=
  s.vop i (wVA vd vs1 vs2 ty 4) vd vs1 vs2 ty fun t a b _ => elemMin t a b

/-- VMAX (R194): the maximum (R195). -/
def execVmax (i : Issue) (vd vs1 vs2 : VReg) (ty : BitVec 4) (s : State) :
    Host.Outcome State Fault Refusal :=
  s.vop i (wVA vd vs1 vs2 ty 5) vd vs1 vs2 ty fun t a b _ => elemMax t a b

/-- VABS (R195): it sets no flag. -/
def execVabs (i : Issue) (vd vs1 : VReg) (ty : BitVec 4) (s : State) :
    Host.Outcome State Fault Refusal :=
  s.vop i (wVA vd vs1 0 ty 6) vd vs1 0 ty fun t a _ _ => elemAbs t a

/-- VNEG (R195): it sets no flag. -/
def execVneg (i : Issue) (vd vs1 : VReg) (ty : BitVec 4) (s : State) :
    Host.Outcome State Fault Refusal :=
  s.vop i (wVA vd vs1 0 ty 7) vd vs1 0 ty fun t a _ _ => elemNeg t a

/-- VAND (R194). -/
def execVand (i : Issue) (vd vs1 vs2 : VReg) (s : State) : Host.Outcome State Fault Refusal :=
  s.vbit i vd vs1 vs2 fun a b => a &&& b

/-- VOR (R194). -/
def execVor (i : Issue) (vd vs1 vs2 : VReg) (s : State) : Host.Outcome State Fault Refusal :=
  s.vbit i vd vs1 vs2 fun a b => a ||| b

/-- VXOR (R194). -/
def execVxor (i : Issue) (vd vs1 vs2 : VReg) (s : State) : Host.Outcome State Fault Refusal :=
  s.vbit i vd vs1 vs2 fun a b => a ^^^ b

/-- VMOV (R194). -/
def execVmov (i : Issue) (vd vs1 : VReg) (s : State) : Host.Outcome State Fault Refusal :=
  s.vbit i vd vs1 0 fun a _ => a

/-! ### Dot products (R196) -/

/-- Elements of each source that one lane takes. -/
def dotGroup (ty : Nat) : Nat :=
  if ty = 1 || ty = 2 then 1 else if ty = 7 || ty = 9 then 4 else 2

/-- The exact sum of a list of (value, made NaN) terms. -/
def sumV (l : List (FVal × Bool)) : FVal × Bool :=
  match l with
  | [] => (.fin false 0 0, false)
  | x :: xs => xs.foldl (fun (acc : FVal × Bool) (y : FVal × Bool) =>
      let r := acc.1.add y.1
      (r.1, acc.2 || y.2 || r.2)) x

/-- Lane `n` of a VDOT: the new lane and its flags. -/
def dotLane (ty : Nat) (mx : Bool) (rs : Nat) (xs ys : List Nat) (old n : Nat) : Nat × Nat :=
  let g := dotGroup ty
  let js := (List.range g).map (g * n + ·)
  if typeInt ty && !mx then
    let p := (js.map fun j => intOf ty (xs.getD j 0) * intOf ty (ys.getD j 0)).sum
    (wrapI 32 ((old : Int) + p), 0)
  else
    let p := sumV (js.map fun j => (valOf ty (xs.getD j 0)).mul (valOf ty (ys.getD j 0)))
    let b := g * n / 32
    let sa := bits rs (8 * b) 8
    let sb := bits rs (8 * b + 32) 8
    let q : FVal × Bool :=
      if mx then
        if sa = 0xFF || sb = 0xFF then (.nan, p.2)
        else (p.1.scale ((sa : Int) - 127 + sb - 127 + (if ty = 8 then -12 else 0)), p.2)
      else p
    let r := (valOf 0 old).add q.1
    fpOut 0 (r.1, q.2 || r.2)

/-- VDOT (R196). -/
def execVdot (i : Issue) (ad : AReg) (vs1 vs2 : VReg) (ty : BitVec 4) (mx : Bool) (rs : SReg) (s : State) :
    Host.Outcome State Fault Refusal :=
  s.issue i fun s =>
    let t := ty.toNat
    let w := wVD ad vs1 vs2 ty mx rs
    if (dotTypes mx).contains t && (mx || rs == 0) then
      let k := s.ctx i.tile i.ctx
      let r := ((lanesOf (k.acc ad)).zipIdx).map fun p =>
        dotLane t mx (k.rd rs).toNat (elemsOf t (k.vec vs1)) (elemsOf t (k.vec vs2)) p.1 p.2
      s.fpEnd i w (orFlags (r.map (·.2))) (·.setAcc ad (accOf (r.map (·.1))))
    else .trap exILLEGAL (evWord w)

/-! ### Conversion and MX quantization (R197, R199) -/

/-- VCVT (R197): a widening conversion fills vd from part `part` of vs; a narrowing one fills part `part`
of vd and leaves the rest. -/
def execVcvt (i : Issue) (vd vs : VReg) (src dst : BitVec 4) (part : BitVec 3) (s : State) :
    Host.Outcome State Fault Refusal :=
  s.issue i fun s =>
    let a := src.toNat
    let b := dst.toNat
    let w := wVC vd vs src dst part
    if cvtOk a b part.toNat then
      let k := s.ctx i.tile i.ctx
      let xs := elemsOf a (k.vec vs)
      if typeCount b ≤ typeCount a then
        let n := typeCount b
        let r := ((xs.drop (part.toNat * n)).take n).map (convElem a b (s.nosat i))
        s.fpEnd i w (orFlags (r.map (·.2))) (·.setVec vd (vecOf b (r.map (·.1))))
      else
        let n := typeCount a
        let r := xs.map (convElem a b (s.nosat i))
        let old := elemsOf b (k.vec vd)
        s.fpEnd i w (orFlags (r.map (·.2)))
          (·.setVec vd (vecOf b (old.take (part.toNat * n) ++ r.map (·.1) ++ old.drop (part.toNat * n + n))))
    else .trap exILLEGAL (evWord w)

/-- VQNT (R199): quantize the lanes of `a` into block `part` of `v`; the scale goes to `r`.  Bits of `v`
outside the block stay (R181). -/
def execVqnt (i : Issue) (v : VReg) (r : SReg) (a : AReg) (ty : BitVec 4) (part : BitVec 2) (s : State) :
    Host.Outcome State Fault Refusal :=
  s.issue i fun s =>
    let t := ty.toNat
    let w := wVX 0x38 v r a ty 0 part.toNat
    if mxTypes.contains t && part.toNat < mxParts t then
      let k := s.ctx i.tile i.ctx
      let q := mxquant t ((lanesOf (k.acc a)).map (valOf 0))
      let wd := 32 * typeBits t
      s.fpEnd i w q.2.2 fun k => (k.setVec v (BitVec.ofNat 512
        (setBits (k.vec v).toNat (wd * part.toNat) wd (packE (typeBits t) q.2.1)))).wr r (BitVec.ofNat 64 q.1)
    else .trap exILLEGAL (evWord w)

/-- VDQ (R199): the values of block `part` of `v` under scale r[7:0], as FP32 lanes. -/
def execVdq (i : Issue) (v : VReg) (r : SReg) (a : AReg) (ty : BitVec 4) (part : BitVec 2) (s : State) :
    Host.Outcome State Fault Refusal :=
  s.issue i fun s =>
    let t := ty.toNat
    let w := wVX 0x38 v r a ty 1 part.toNat
    if mxTypes.contains t && part.toNat < mxParts t then
      let k := s.ctx i.tile i.ctx
      let xs := ((elemsOf t (k.vec v)).drop (32 * part.toNat)).take 32
      let q := xs.map fun x => encodeF 0 .nearest (s.nosat i) (mxVal t ((k.rd r).toNat % 256) x)
      s.fpEnd i w (orFlags (q.map (·.2))) (·.setAcc a (accOf (q.map (·.1))))
    else .trap exILLEGAL (evWord w)

/-! ### The exact accumulator (R200 to R202) -/

/-- Add one value exactly (R201). -/
def XAcc.add (x : XAcc) (v : FVal) : XAcc :=
  match v with
  | .nan => { x with nan := true }
  | .inf false => { x with pinf := true }
  | .inf true => { x with ninf := true }
  | .fin n m e => { x with v := x.v + BitVec.ofInt 640 (atUnit n m e (-149)) }

/-- XCLR (Table 5.8). -/
def execXclr (i : Issue) (s : State) : Host.Outcome State Fault Refusal :=
  s.issue i fun s => .retire (s.upd i fun k => { k with xacc := {} })

/-- XADDV (Table 5.8): add every element of `v`. -/
def execXaddv (i : Issue) (v : VReg) (ty : BitVec 4) (s : State) : Host.Outcome State Fault Refusal :=
  s.issue i fun s =>
    let t := ty.toNat
    if xaddTypes.contains t then
      .retire (s.upd i fun k =>
        { k with xacc := ((elemsOf t (k.vec v)).map (valOf t)).foldl XAcc.add k.xacc })
    else .trap exILLEGAL (evWord (wVX 0x39 v 0 0 ty 1 0))

/-- XADDA (Table 5.8): add the 32 FP32 lanes of `a`. -/
def execXadda (i : Issue) (a : AReg) (s : State) : Host.Outcome State Fault Refusal :=
  s.issue i fun s => .retire (s.upd i fun k =>
    { k with xacc := ((lanesOf (k.acc a)).map (valOf 0)).foldl XAcc.add k.xacc })

/-- XADDS (Table 5.8): add the value in the low bits of `r`. -/
def execXadds (i : Issue) (r : SReg) (ty : BitVec 4) (s : State) : Host.Outcome State Fault Refusal :=
  s.issue i fun s =>
    let t := ty.toNat
    if xaddTypes.contains t then
      .retire (s.upd i fun k => { k with xacc := k.xacc.add (valOf t ((k.rd r).toNat % 2 ^ typeBits t)) })
    else .trap exILLEGAL (evWord (wVX 0x39 0 r 0 ty 3 0))

/-- The readout of XACC in type `ty` with its flags (R202). -/
def XAcc.readout (x : XAcc) (ty : Nat) : Nat × Nat :=
  let f := fmtOf ty
  if x.nan || x.wrap || (x.pinf && x.ninf) then (f.nanMag, 0)
  else if x.pinf then (f.infMag, 0)
  else if x.ninf then (f.signed true f.infMag, 0)
  else encodeF ty .nearest false (.fin (decide (x.v.toInt < 0)) x.v.toInt.natAbs (-149))

/-- XRD (R202). -/
def execXrd (i : Issue) (r : SReg) (ty : BitVec 4) (s : State) : Host.Outcome State Fault Refusal :=
  s.issue i fun s =>
    let t := ty.toNat
    let w := wVX 0x39 0 r 0 ty 4 0
    if xrdTypes.contains t then
      let q := (s.ctx i.tile i.ctx).xacc.readout t
      s.fpEnd i w q.2 (·.wr r (BitVec.ofNat 64 q.1))
    else .trap exILLEGAL (evWord w)

/-! ### Bound scoring (R206) -/

/-- A product of SCOREB: a zero factor gives +0, even with an infinity. -/
def scoreMul (a b : FVal) : FVal :=
  let zero (x : FVal) : Bool := match x with
    | .fin _ m _ => m == 0
    | _ => false
  if a.isNan || b.isNan then .nan
  else if zero a || zero b then .fin false 0 0
  else (a.mul b).1

/-- The term of one channel (R206). -/
def scoreTerm (q lo hi : FVal) : FVal :=
  if hi.lt lo then .inf true
  else
    let x := scoreMul q lo
    let y := scoreMul q hi
    if x.isNan || y.isNan then .nan else if x.lt y then y else x

/-- SCOREB (R206): the bound of 32 channels is added to lane `slot`, rounded toward +infinity. -/
def execScoreb (i : Issue) (ad : AReg) (vq : VReg) (rs1 slot : SReg) (s : State) :
    Host.Outcome State Fault Refusal :=
  s.issue i fun s => s.readData i (s.rs i rs1) 128 fun s bs =>
    let k := s.ctx i.tile i.ctx
    let bf (l : List Nat) := l.map (valOf 1)
    let lo := bf ((List.range 32).map fun j => leAt bs (2 * j) 2)
    let hi := bf ((List.range 32).map fun j => leAt bs (64 + 2 * j) 2)
    let t := (bf (elemsOf 1 (k.vec vq))).zipWith (fun q (p : FVal × FVal) => scoreTerm q p.1 p.2) (lo.zip hi)
    let sum := sumV (t.map fun x => (x, false))
    let lanes := lanesOf (k.acc ad)
    let r := encodeF 0 .up false ((valOf 0 (lanes.getD slot.toNat 0)).add sum.1).1
    s.fpEnd i (wVS ad vq rs1 slot) (r.2 &&& (fNX + fOF))
      (·.setAcc ad (accOf (lanes.set slot.toNat r.1)))

/-! ### Top-k selection (R208 to R210) -/

/-- Whether the top-k unit serves the issuing context (R138). -/
def State.topkServes (s : State) (i : Issue) : Bool :=
  match i.ctx with
  | .S => s.scheduled i.tile
  | .W => !s.scheduled i.tile

/-- The rank of an FP32 score: NaN as +infinity, -0 as +0. -/
def scoreKey (b : Nat) : Int :=
  if (valOf 0 b).isNan then 0x7F800000
  else if bit b 31 then -(b % 2 ^ 31 : Nat) else (b % 2 ^ 31 : Nat)

/-- Whether a score exceeds the threshold (R210). -/
def exceedsT (b t : Nat) : Bool :=
  if (valOf 0 t).isNan then false
  else if (valOf 0 b).isNan then true
  else decide (scoreKey t < scoreKey b)

/-- Whether candidate `a` ranks before `b` (R210). -/
def ranksBefore (a b : Nat × Nat) : Bool :=
  decide (scoreKey b.1 < scoreKey a.1) || (scoreKey a.1 == scoreKey b.1 && decide (a.2 ≤ b.2))

/-- Put a candidate into a list in rank order. -/
def rankInsert (c : Nat × Nat) : List (Nat × Nat) → List (Nat × Nat)
  | [] => [c]
  | x :: xs => if ranksBefore x c then x :: rankInsert c xs else c :: x :: xs

/-- Offer one candidate (R210): the first 4,096 of all are kept. -/
def TopK.offer (u : TopK) (c : Nat × Nat) : TopK :=
  { u with m := if exceedsT c.1 u.t then u.m + 1 else u.m, list := (rankInsert c u.list).take 4096 }

/-- The list of the unit: the first min(4096, max(K, m)) candidates (R210). -/
def TopK.top (u : TopK) : List (Nat × Nat) := u.list.take (max u.k u.m)

/-- A top-k operation of word `w` (R208). -/
def State.topk (s : State) (i : Issue) (w : Nat) (f : State → Fate) : Host.Outcome State Fault Refusal :=
  s.issue i fun s => if s.topkServes i then f s else .trap exPRIV (evWord w)

/-- The top-k unit of tile `t` becomes `u`. -/
def State.setTopk (s : State) (t : Nat) (u : TopK) : State := s.setTile t { s.tile t with topk := u }

/-- TKCLR (R209): empty the list; K = rs1 and T = rs2. -/
def execTkclr (i : Issue) (rs1 rs2 : SReg) (s : State) : Host.Outcome State Fault Refusal :=
  s.topk i (wA 0x3B 0 rs1 rs2 0x000) fun s =>
    let k := (s.rs i rs1).toNat
    if k = 0 || 4096 < k then .trap exVRANGE (s.rs i rs1)
    else .retire (s.setTopk i.tile { k := k, t := (s.rs i rs2).toNat % 2 ^ 32, list := [], m := 0 })

/-- TKINS (R209): offer rs2 candidates from the lanes of `ad`. -/
def execTkins (i : Issue) (ad : AReg) (rs1 rs2 : SReg) (s : State) : Host.Outcome State Fault Refusal :=
  s.topk i (wA 0x3B 0 rs1 rs2 (0x100 + ad.toNat)) fun s =>
    let n := (s.rs i rs2).toNat
    if 32 < n then .trap exVRANGE (s.rs i rs2)
    else
      let lanes := (lanesOf ((s.ctx i.tile i.ctx).acc ad)).take n
      .retire (s.setTopk i.tile ((lanes.zipIdx).foldl
        (fun u p => u.offer (p.1, ((s.rs i rs1).toNat + p.2) % 2 ^ 32)) (s.tile i.tile).topk))

/-- Whether a long instruction of bound `b` may start now (R186). -/
def State.longFits (s : State) (i : Issue) (b : Nat) : Bool :=
  !s.scheduled i.tile || s.cyc + b ≤ s.warp.period * 125

/-- The body of TKOUT (R209, R186). -/
def tkoutBody (i : Issue) (rd rs1 rs2 : SReg) (s : State) : Fate :=
  if !s.topkServes i then .trap exPRIV (evWord (wA 0x3B rd rs1 rs2 0x200))
  else
    let r0 := (s.rs i rs2).toNat % 2 ^ 13
    let out := ((s.tile i.tile).topk.top.drop r0).take 256
    let ea := s.rs i rs1
    let body : Fate :=
      if s.longFits i (1 + 4 * ceilDiv out.length 8) then
        .retire ((s.writeLocal i ea.toNat (out.flatMap fun e => leBytes 4 e.1 ++ leBytes 4 e.2)).ws i rd
          (BitVec.ofNat 64 out.length))
      else .wait (.tkout i rd rs1 rs2)
    if out.isEmpty then body
    else match lineFault exSTORE_RANGE ea (8 * out.length) with
      | some c => .trap c ea
      | none => body

/-- TKOUT (R209): write the entries of up to 256 ranks. -/
def execTkout (i : Issue) (rd rs1 rs2 : SReg) (s : State) : Host.Outcome State Fault Refusal :=
  s.issue i (tkoutBody i rd rs1 rs2)

/-- TKCNT (R209): the count and OVER. -/
def execTkcnt (i : Issue) (rd : SReg) (s : State) : Host.Outcome State Fault Refusal :=
  s.topk i (wA 0x3B rd 0 0 0x300) fun s =>
    let u := (s.tile i.tile).topk
    .retire (s.ws i rd (BitVec.ofNat 64 (u.top.length + (if 4096 < u.m then 2 ^ 16 else 0))))

/-! ### Page conversion (R211, R212) -/

/-- The blocks of 32 elements of a list. -/
def blocks32 {α : Type} : Nat → List α → List (List α)
  | 0, _ => []
  | n + 1, l => l.take 32 :: blocks32 n (l.drop 32)

/-- The MX layout of FP8 elements (R211, R212): elements, scales, zeros; and the flags. -/
def demoteBytes (ty : Nat) (xs : List Nat) : List Byte × Nat :=
  let q := (blocks32 (xs.length / 32) xs).map fun b => mxquant 7 (b.map (valOf ty))
  (q.flatMap (fun p => leBytes 16 (packE 4 p.2.1)) ++ q.map (fun p => BitVec.ofNat 8 p.1) ++
    List.replicate (xs.length - 17 * (xs.length / 32)) 0, orFlags (q.map (·.2.2)))

/-- The FP8 layout of an MX layout of `n` elements (R211, R212), and the flags. -/
def promoteBytes (ty n : Nat) (nosat : Bool) (bs : List Byte) : List Byte × Nat :=
  let q := (List.range n).map fun k =>
    encodeF ty .nearest nosat (mxVal 7 (byteAt bs (n / 2 + k / 32))
      (bits (byteAt bs (k / 2)) (4 * (k % 2)) 4))
  (q.map (fun p => BitVec.ofNat 8 p.1), orFlags (q.map (·.2)))

/-- The body of DEMOTE and PROMOTE (R211, R212, R186): `x` is the instruction, `w` its word, `len` the
bytes of the layout it reads; `f` gives the bytes written back over the region and the flags. -/
def pageBody (x : Instr) (w : Nat) (len : Nat → Nat) (i : Issue) (rs1 rs2 : SReg) (f : State → Nat → List Byte → List Byte × Nat)
    (s : State) : Fate :=
  let n := (s.rs i rs2).toNat
  if n = 0 || n % 128 != 0 || 8192 < n then .trap exVRANGE (s.rs i rs2)
  else match lineFault exLOAD_RANGE (s.rs i rs1) n with
    | some c => .trap c (s.rs i rs1)
    | none =>
      if s.longFits i (n / 8 + 8) then
        match s.readLocal i (s.rs i rs1).toNat (len n) with
        | (_, .error o) => .ecc o
        | (s1, .ok bs) =>
          let r := f s1 n bs
          if r.2 % 2 = 1 && (s.ctx i.tile i.ctx).vcsr.getLsbD 8 then .trap exFP_INVALID (evWord w)
          else (s1.writeLocal i (s.rs i rs1).toNat r.1).fpEnd i w r.2 id
      else .wait x

/-- The type of the FP8 layout: FN[1] (R211). -/
def fp8Of (e5m2 : Bool) : Nat := if e5m2 then 4 else 3

def demoteBody (i : Issue) (rs1 rs2 : SReg) (e5m2 : Bool) : State → Fate :=
  pageBody (.demote i rs1 rs2 e5m2) (wA 0x3C 0 rs1 rs2 (if e5m2 then 2 else 0)) id i rs1 rs2
    fun _ _ bs => demoteBytes (fp8Of e5m2) (bs.map (·.toNat))

def promoteBody (i : Issue) (rs1 rs2 : SReg) (e5m2 : Bool) : State → Fate :=
  pageBody (.promote i rs1 rs2 e5m2) (wA 0x3C 0 rs1 rs2 (if e5m2 then 3 else 1)) (fun n => 17 * (n / 32))
    i rs1 rs2
    fun s n bs => promoteBytes (fp8Of e5m2) n (s.nosat i) bs

/-- DEMOTE (R212): FP8 to MXFP4 in place. -/
def execDemote (i : Issue) (rs1 rs2 : SReg) (e5m2 : Bool) (s : State) : Host.Outcome State Fault Refusal :=
  s.issue i (demoteBody i rs1 rs2 e5m2)

/-- PROMOTE (R212): MXFP4 to FP8 in place. -/
def execPromote (i : Issue) (rs1 rs2 : SReg) (e5m2 : Bool) (s : State) : Host.Outcome State Fault Refusal :=
  s.issue i (promoteBody i rs1 rs2 e5m2)

/-- LONG_INSTRUCTION_START (R186): a long instruction that waits at issue starts once it fits. -/
def execLongInstructionStart (i : Issue) (s : State) : Host.Outcome State Fault Refusal :=
  s.retry i fun x => match x with
    | .tkout _ rd rs1 rs2 => some (tkoutBody i rd rs1 rs2)
    | .demote _ rs1 rs2 e => some (demoteBody i rs1 rs2 e)
    | .promote _ rs1 rs2 e => some (promoteBody i rs1 rs2 e)
    | _ => none

/-! ### Moves (Table 5.7) -/

/-- The defined bits of VCSR (Table 5.1). -/
def vcsrMask : Word := 0x31F

/-- VMFSR (R180). -/
def execVmfsr (i : Issue) (r : SReg) (s : State) : Host.Outcome State Fault Refusal :=
  s.issue i fun s => .retire (s.ws i r (s.ctx i.tile i.ctx).vcsr)

/-- VMTSR (R180): reserved bits stay 0. -/
def execVmtsr (i : Issue) (r : SReg) (s : State) : Host.Outcome State Fault Refusal :=
  s.issue i fun s => .retire (s.upd i fun k => { k with vcsr := k.rd r &&& vcsrMask })

/-- VBCAST (Table 5.7). -/
def execVbcast (i : Issue) (v : VReg) (r : SReg) (ty : BitVec 4) (s : State) :
    Host.Outcome State Fault Refusal :=
  s.issue i fun s =>
    let t := ty.toNat
    if miscType t then
      .retire (s.upd i fun k => k.setVec v (vecOf t (List.replicate (typeCount t) (k.rd r).toNat)))
    else .trap exILLEGAL (evWord (wVX 0x3D v r 0 ty 2 0))

/-- VEXT (Table 5.7): an element, sign-extended for integer types. -/
def execVext (i : Issue) (r : SReg) (v : VReg) (ty : BitVec 4) (idx : BitVec 8) (s : State) :
    Host.Outcome State Fault Refusal :=
  s.issue i fun s =>
    let t := ty.toNat
    if miscType t && idx.toNat < typeCount t then
      let e := (elemsOf t ((s.ctx i.tile i.ctx).vec v)).getD idx.toNat 0
      .retire (s.ws i r (if typeInt t then BitVec.ofInt 64 (sgn (typeBits t) e) else BitVec.ofNat 64 e))
    else .trap exILLEGAL (evWord (wVX 0x3D v r 0 ty 3 idx.toNat))

/-- AFROMV (Table 5.7): v must be even. -/
def execAfromv (i : Issue) (a : AReg) (v : VReg) (s : State) : Host.Outcome State Fault Refusal :=
  s.issue i fun s =>
    if v.toNat % 2 = 0 then
      .retire (s.upd i fun k => k.setAcc a (k.vec (v + 1) ++ k.vec v))
    else .trap exILLEGAL (evWord (wVX 0x3D v 0 a 0 4 0))

/-- ATOV (Table 5.7): v must be even. -/
def execAtov (i : Issue) (v : VReg) (a : AReg) (s : State) : Host.Outcome State Fault Refusal :=
  s.issue i fun s =>
    if v.toNat % 2 = 0 then
      .retire (s.upd i fun k => (k.setVec v ((k.acc a).setWidth 512)).setVec (v + 1)
        ((k.acc a).extractLsb' 512 512))
    else .trap exILLEGAL (evWord (wVX 0x3D v 0 a 0 5 0))

/-- AZERO (Table 5.7). -/
def execAzero (i : Issue) (a : AReg) (s : State) : Host.Outcome State Fault Refusal :=
  s.issue i fun s => .retire (s.upd i (·.setAcc a 0))

end Sys2Proof.Machine
end

