-- ==== Sys2Proof/Machine/Skein.lean ====
section
/-! DEFINITION. Skeins, chunk queues and the check-value unit (06_skein_transfers.md, 17_check_value_units.md):
the descriptor and its checks, moving elements, signals, early ends and completion. -/
namespace Sys2Proof.Machine
open Sys2Proof

/-! ### The check-value unit (R539) -/

/-- The low `n` bits of `x` in reverse order. -/
def reflect (n x : Nat) : Nat := ((List.range n).map fun k => bits x k 1 * 2 ^ (n - 1 - k)).sum

/-- The width W. -/
def CheckImg.width (c : CheckImg) : Nat := c.widthM1 + 1

/-- One bit of a feed. -/
def CheckImg.step (c : CheckImg) (b : Bool) : CheckImg :=
  let top := bit c.run (c.width - 1) != b
  let r := (c.run * 2) % 2 ^ c.width
  { c with run := if top then r ^^^ (c.poly % 2 ^ c.width) else r }

/-- Feed one byte (R539). -/
def CheckImg.feed (c : CheckImg) (b : Nat) : CheckImg :=
  let x := if c.refin then reflect 8 b else b
  ((List.range 8).map (7 - ·)).foldl (fun c i => c.step (bit x i)) c

/-- Feed bytes in order. -/
def CheckImg.feeds (c : CheckImg) (l : List Byte) : CheckImg := l.foldl (fun c b => c.feed b.toNat) c

/-- The running value becomes the initial value (CVRST). -/
def CheckImg.reset (c : CheckImg) : CheckImg := { c with run := c.init % 2 ^ c.width }

/-- The finished value (R539). -/
def CheckImg.finish (c : CheckImg) : Nat :=
  let f := if c.refout then reflect c.width c.run else c.run
  if c.invert then f ^^^ (2 ^ c.width - 1) else f

/-! ### Descriptor fields (Tables 6.1 and 6.2) -/

def Skein.ndim (k : Skein) : Nat := bits (byteAt k.desc 0) 4 3
def Skein.srcFmt (k : Skein) : Nat := byteAt k.desc 1 % 16
def Skein.dstFmt (k : Skein) : Nat := byteAt k.desc 1 / 16
def Skein.flags (k : Skein) : Nat := leAt k.desc 2 2
def Skein.signal (k : Skein) : Bool := bit k.flags 0
def Skein.readyF (k : Skein) : Bool := bit k.flags 1
def Skein.fence (k : Skein) : Bool := bit k.flags 2
def Skein.nosat (k : Skein) : Bool := bit k.flags 3
def Skein.checked (k : Skein) : Bool := bit k.flags 4
def Skein.checkDst (k : Skein) : Bool := bit k.flags 5
def Skein.compare (k : Skein) : Bool := bit k.flags 6
def Skein.queue (k : Skein) : Nat := leAt k.desc 4 2
def Skein.readyIdx (k : Skein) : Nat := leAt k.desc 6 2 % 4096
def Skein.readyGroup (k : Skein) : Nat := leAt k.desc 6 2 / 4096
/-- The address word of a side: true the destination. -/
def Skein.word (k : Skein) (dst : Bool) : Nat := leAt k.desc (if dst then 16 else 8) 8
def Skein.addr (k : Skein) (dst : Bool) : Nat := bits (k.word dst) 0 57
/-- SPACE 1: device virtual. -/
def Skein.virt (k : Skein) (dst : Bool) : Bool := bit (k.word dst) 63
def Skein.asid (k : Skein) (dst : Bool) : Nat := leAt k.desc (if dst then 26 else 24) 2
def Skein.chunkRows (k : Skein) : Nat := leAt k.desc 28 4
def Skein.count (k : Skein) (d : Nat) : Nat := leAt k.desc (32 + 4 * d) 4
/-- COUNT, treated as 1 beyond the dimensions. -/
def Skein.cnt (k : Skein) (d : Nat) : Nat := if d < k.ndim then k.count d else 1
def Skein.stride (k : Skein) (dst : Bool) (d : Nat) : Int :=
  sgn 64 (leAt k.desc ((if dst then 96 else 64) + 8 * (d - 1)) 8)
def Skein.fmt (k : Skein) (dst : Bool) : Nat := if dst then k.dstFmt else k.srcFmt
/-- Bits of one element of a side. -/
def Skein.eb (k : Skein) (dst : Bool) : Nat := typeBits (k.fmt dst)
/-- Rows, elements, chunks (R218). -/
def Skein.rows (k : Skein) : Nat := k.cnt 1 * k.cnt 2 * k.cnt 3 * k.cnt 4
def Skein.total (k : Skein) : Nat := k.rows * k.cnt 0
def Skein.chunks (k : Skein) : Nat := ceilDiv k.rows k.chunkRows
/-- The first element of chunk `c`, or the end of the skein. -/
def Skein.chunkStart (k : Skein) (c : Nat) : Nat := min (c * k.chunkRows) k.rows * k.cnt 0
/-- The chunk that holds the cursor. -/
def Skein.curChunk (k : Skein) : Nat :=
  if k.signal then k.nextChunk else min (k.done / max 1 (k.cnt 0) / max 1 k.chunkRows) (k.chunks - 1)
/-- Index i_d of row `r`, for d from 1 (R218). -/
def Skein.rowIdx (k : Skein) (r d : Nat) : Nat :=
  match d with
  | 1 => r % k.cnt 1
  | 2 => r / k.cnt 1 % k.cnt 2
  | 3 => r / (k.cnt 1 * k.cnt 2) % k.cnt 3
  | _ => r / (k.cnt 1 * k.cnt 2 * k.cnt 3)
/-- The address of the first byte of row `r` on a side (R217). -/
def Skein.rowAddr (k : Skein) (dst : Bool) (r : Nat) : Int :=
  (k.addr dst : Int) + ((List.range 4).map fun d => (k.rowIdx r (d + 1) : Int) * k.stride dst (d + 1)).sum
/-- The bytes of one row on a side. -/
def Skein.rowBytes (k : Skein) (dst : Bool) : Nat := k.cnt 0 * k.eb dst / 8

/-! ### Descriptor checks (Table 6.3) -/

/-- The table in force of the active set (R71, R90). -/
def State.activeTable (s : State) : Option WTable :=
  match s.warp.active with
  | some w => w.tables.find? fun t => t.index == s.get WARP_STATUS_ACTIVE_TABLE
  | none => none

/-- Whether ready flag `f` of group `g` is owned by instance `i` (R167). -/
def State.flagOwned (s : State) (i g f : Nat) : Bool :=
  match s.activeTable with
  | some t => (tfind t.groups g).any fun sec => sec.txd.any fun d => d.kind != 3 && d.inst == i && d.ready == f
  | none => false

/-- Chunk queues per instance, and the owner of one (R225). -/
def State.cqOwner (s : State) (q : Nat) : Nat := q / (65536 / s.nInst)

/-- Least and greatest offset that a side's rows reach, past its address (check 0x06). -/
def Skein.extent (k : Skein) (dst : Bool) : Int × Int :=
  let spans := (List.range 4).map fun d => ((k.cnt (d + 1) : Int) - 1) * k.stride dst (d + 1)
  ((spans.map (min 0)).sum, (spans.map (max 0)).sum + k.rowBytes dst)

/-- Whether a side at SPACE 0 stays in the data store. -/
def Skein.inStore (k : Skein) (dst : Bool) : Bool :=
  let e := k.extent dst
  decide (0x8000 ≤ (k.addr dst : Int) + e.1) && decide ((k.addr dst : Int) + e.2 ≤ 0x30000)

/-- The first check of Table 6.3 that fails, and its status; 0 for none. -/
def State.skeinCheck (s : State) (t : Nat) (c : Ctx) (k : Skein) : Nat × Nat :=
  let inst := s.instOfTile t
  let sides := [false, true]
  let dims := List.range 5
  let resv := byteAt k.desc 0 % 16 != 1 || k.ndim == 0 || 5 < k.ndim || bit (byteAt k.desc 0) 7 ||
    2 ^ 7 ≤ k.flags || leAt k.desc 52 4 != 0 ||
    sides.any fun d => bits (k.word d) 57 6 != 0 || 4096 ≤ k.asid d || (!k.virt d && k.asid d != 0)
  if resv then (0x01, stMALFORMED)
  else if (dims.any fun d => if d < k.ndim then k.count d == 0 || 2 ^ 24 < k.count d else k.count d != 0) ||
      k.chunkRows == 0 || 2 ^ 24 < k.chunkRows ||
      ([1, 2, 3, 4].any fun d => k.ndim ≤ d && sides.any fun e => k.stride e d != 0) ||
      2 ^ 40 < k.total || 2 ^ 32 - 1 < k.chunks then (0x02, stMALFORMED)
  else if sides.any fun d => 12 ≤ k.fmt d || k.cnt 0 * k.eb d % 8 != 0 then (0x03, stMALFORMED)
  else if sides.any fun d => 16 ≤ k.eb d && (k.addr d % (k.eb d / 8) != 0 ||
      [1, 2, 3, 4].any fun j => k.stride d j % (k.eb d / 8 : Nat) != 0) then (0x04, stMALFORMED)
  else if !k.checked && (k.compare || k.checkDst) then (0x05, stMALFORMED)
  else if sides.any fun d => !k.virt d && !k.inStore d then (0x06, stACCESS)
  else if sides.any fun d => k.virt d && k.asid d / s.asidsPer != inst then (0x07, stACCESS)
  else if k.signal && (s.cqOwner k.queue != inst || !s.on (SKN_CQ_CFG_ENABLE k.queue)) then (0x08, stACCESS)
  else if k.readyF && (c != .S || !s.scheduled t || !s.flagOwned inst k.readyGroup k.readyIdx) then
    (0x09, stACCESS)
  else (0, stOK)

/-! ### Handles -/

/-- The skein on handle `h`. -/
def State.skein? (s : State) (t : Nat) (c : Ctx) (h : Nat) : Option Skein := tfind (s.ctx t c).handles h

/-- Handle `h` holds skein `k`. -/
def State.setSkein (s : State) (t : Nat) (c : Ctx) (h : Nat) (k : Skein) : State :=
  s.setCtx t c { s.ctx t c with handles := tput (s.ctx t c).handles h k }

/-- Handle `h` is free. -/
def State.freeHandle (s : State) (t : Nat) (c : Ctx) (h : Nat) : State :=
  s.setCtx t c { s.ctx t c with handles := tdel (s.ctx t c).handles h }

/-- ISSUER of a skein signal (Table 6.6). -/
def issuerOf (t : Nat) (c : Ctx) (h : Nat) : Nat := t + (if c = .W then 2 ^ 12 else 0) + h * 2 ^ 13

/-- The number of a handle among the sixteen of a tile (Table 6.8). -/
def handleNo (c : Ctx) (h : Nat) : Nat := if c = .W then 8 + h else h

/-! ### Chunk queues (R225 to R230) -/

/-- Depth of queue `q`. -/
def State.cqDepth (s : State) (q : Nat) : Nat := 2 ^ s.get (SKN_CQ_CFG_LOG2_DEPTH q)

/-- Signals in queue `q`. -/
def State.cqCount (s : State) (q : Nat) : Nat :=
  (s.get (SKN_CQ_PTR_TAIL q) + 2 * s.cqDepth q - s.get (SKN_CQ_PTR_HEAD q)) % (2 * s.cqDepth q)

/-- Whether queue `q` is full (Table 6.8). -/
def State.cqFull (s : State) (q : Nat) : Bool := s.cqDepth q ≤ s.cqCount q

/-- Address of entry `n` of queue `q`. -/
def State.cqSlot (s : State) (q n : Nat) : Nat :=
  s.get (SKN_CQ_BASE_BASE q) * 64 + (n % s.cqDepth q) * 64

/-- What a signal says, but for QUEUE and the overrun fields (Table 6.6). -/
structure Sig where
  flags : Nat
  status : Nat
  issuer : Nat
  cvt : Nat
  pick : Nat
  index : Nat
  count : Nat
  dst : Nat
  bytes : Nat
  missing : Nat
  first : Nat
  /-- Bytes 48 to 63. -/
  tail : Nat
  deriving DecidableEq, Repr

/-- The 64 bytes of a signal. -/
def Sig.image (g : Sig) (q lost : Nat) : List Byte :=
  leBytes 2 q ++ leBytes 1 (g.flags + (if lost = 0 then 0 else 16)) ++ leBytes 1 g.status ++
    leBytes 2 g.issuer ++ leBytes 1 (min lost 255) ++ leBytes 1 g.cvt ++ leBytes 6 g.pick ++ leBytes 2 0 ++
    leBytes 4 g.index ++ leBytes 4 g.count ++ leBytes 8 g.dst ++ leBytes 8 g.bytes ++ leBytes 4 g.missing ++
    leBytes 4 g.first ++ leBytes 16 g.tail

/-- A signal that is lost (R228). -/
def State.cqLose (s : State) (q : Nat) : State :=
  let s1 := ((s.bump (SKN_CQ_LOST_COUNT q)).bump SKN_OVERRUN_COUNT_VAL).raise SKN_EVENT_OVERRUN
  { s1 with til := { s1.til with cqLost := tput s1.til.cqLost q (mget 0 s1.til.cqLost q + 1) } }

/-- Write a signal into queue `q`, which has room. -/
def State.cqPut (s : State) (q : Nat) (g : Sig) : State :=
  let tail := s.get (SKN_CQ_PTR_TAIL q)
  let s1 := s.write (s.cqSlot q tail) (g.image q (mget 0 s.til.cqLost q))
  let s2 := s1.put (SKN_CQ_PTR_TAIL q) ((tail + 1) % (2 * s.cqDepth q))
  { s2 with til := { s2.til with cqLost := mset 0 s2.til.cqLost q 0 } }

/-- Write a signal that cannot wait: to a full or disabled queue it is lost (R228, R229). -/
def State.cqForce (s : State) (q : Nat) (g : Sig) : State :=
  if s.on (SKN_CQ_CFG_ENABLE q) && !s.cqFull q then s.cqPut q g else s.cqLose q

/-- Count a skein signal that carries HOLE (Table 6.8). -/
def State.countHole (s : State) (g : Sig) : State :=
  if bit g.flags 0 then (s.bump SKN_HOLE_COUNT_VAL).raise SKN_EVENT_HOLE else s

/-- The signal in place of a poisoned ring entry (R227). -/
def lostEntrySig : Sig := ⟨1, stHOLE, 0, 0, 0, 0xFFFFFFFF, 0, 0, 0, 0, 0, 0⟩

/-- Take the oldest signal of a queue that is not empty: its 64 bytes. -/
def State.cqTake (s : State) (q : Nat) : State × List Byte :=
  let head := s.get (SKN_CQ_PTR_HEAD q)
  let r := s.read (s.cqSlot q head) 64
  (r.1.put (SKN_CQ_PTR_HEAD q) ((head + 1) % (2 * s.cqDepth q)),
    match r.2 with
    | some bs => bs
    | none => lostEntrySig.image q 0)

/-! ### Moving elements (R217, R220, R235) -/

/-- Why the engine stops before an element: nothing, a fault or a refusal of a side at an address, or an
uncorrectable read (R233, R235 to R237). -/
inductive Stop
  | none
  | fault (side : Bool) (va : Nat)
  | access (side : Bool) (va : Nat)
  | hole
  deriving DecidableEq, Repr

/-- The device physical address of byte `a` of a side, or why there is none.  A write never reaches an
instruction store (R115). -/
def State.skeinPa (s : State) (t : Nat) (k : Skein) (dst : Bool) (a : Nat) : Except Stop Nat :=
  if k.virt dst then
    let inst := s.instOfTile t
    if 2 ^ 57 ≤ a || !s.asidOk inst (k.asid dst) then .error (.access dst a)
    else
      let h := s.walk inst (k.asid dst) a 4
      match h.kind with
      | .leaf =>
        let pa := entryAddr h.e + a % 2 ^ levelShift h.level
        let store := match winOf pa with
          | some (_, off) => dst && off < 0x8000
          | none => false
        if bit h.e (if dst then 3 else 2) && !store then .ok pa else .error (.access dst a)
      | .onHost => .error (.fault dst a)
      | .migrating => .error (.fault dst a)
      | _ => .error (.access dst a)
  else .ok (localPa t a)

/-- The first byte of element `e` on a side. -/
def Skein.elemAddr (k : Skein) (dst : Bool) (e : Nat) : Nat :=
  ((k.rowAddr dst (e / k.cnt 0)) + ((e % k.cnt 0) * k.eb dst / 8 : Nat)).toNat

/-- The bytes that element `e` touches on a side: its first, and its last where it crosses a byte. -/
def Skein.elemBytes (k : Skein) (dst : Bool) (e : Nat) : List Nat :=
  let a := k.elemAddr dst e
  let o := (e % k.cnt 0) * k.eb dst % 8
  if 8 < o + k.eb dst && k.eb dst < 8 then [a, a + 1] else [a]

/-- The addresses of those bytes, or why one has none. -/
def State.elemPas (s : State) (t : Nat) (k : Skein) (dst : Bool) : List Nat → Except Stop (List Nat)
  | [] => .ok []
  | a :: l =>
    match s.skeinPa t k dst a with
    | .error x => .error x
    | .ok pa => match s.elemPas t k dst l with
      | .error x => .error x
      | .ok ps => .ok (pa :: ps)

/-- Why the engine stops before element `e`: `bad` is an element whose local-store read fails. -/
def State.elemStop (s : State) (t : Nat) (k : Skein) (bad : Option Nat) (e : Nat) : Stop :=
  match s.elemPas t k false (k.elemBytes false e) with
  | .error x => x
  | .ok ps =>
    match s.elemPas t k true (k.elemBytes true e) with
    | .error x => x
    | .ok _ => if bad = some e || ps.any fun pa => s.anyPoison pa (max 1 (k.eb false / 8)) then .hole else .none

/-- The elements that can move from `e` on, at most `n`, and why no more. -/
def State.runOk (s : State) (t : Nat) (k : Skein) (bad : Option Nat) : Nat → Nat → Nat × Stop
  | 0, _ => (0, .none)
  | n + 1, e =>
    match s.elemStop t k bad e with
    | .none => let r := s.runOk t k bad n (e + 1); (r.1 + 1, r.2)
    | x => (0, x)

/-- The byte at address `a` of a side. -/
def State.sideByte (s : State) (t : Nat) (k : Skein) (dst : Bool) (a : Nat) : Byte :=
  match s.skeinPa t k dst a with
  | .ok pa => s.byte pa
  | .error _ => 0

/-- Write bytes from address `a` of the destination, in pieces of one line. -/
def State.sideWrite (s : State) (t : Nat) (k : Skein) : Nat → Nat → List Byte → State
  | 0, _, _ => s
  | f + 1, a, bs =>
    if bs.isEmpty then s
    else
      let n := 64 - a % 64
      let s1 := match s.skeinPa t k true a with
        | .ok pa => s.write pa (bs.take n)
        | .error _ => s
      s1.sideWrite t k f (a + min n bs.length) (bs.drop n)

/-- Whether byte `a` lies in row `r` of a side. -/
def Skein.covers (k : Skein) (dst : Bool) (r a : Nat) : Bool :=
  decide (k.rowAddr dst r ≤ a) && decide ((a : Int) < k.rowAddr dst r + k.rowBytes dst)

/-- Whether the two sides share an address space. -/
def Skein.oneSpace (k : Skein) : Bool := k.virt false == k.virt true && k.asid false == k.asid true

/-- Whether R223 leaves destination byte `a` of row `r` open: another row writes it, a source row holds it,
or the source element it comes from, at `sa`, lies in the destination. -/
def Skein.openByte (k : Skein) (r a sa : Nat) : Bool :=
  let rows := List.range k.rows
  (rows.any fun q => q != r && k.covers true q a) ||
    (k.oneSpace && rows.any fun q => k.covers false q a || k.covers true q sa)

/-- Fill the open bytes with free values (R223). -/
def State.fillOpen (k : Skein) (r : Nat) : State → List Byte → Nat → Nat → State × List Byte
  | s, [], _, _ => (s, [])
  | s, b :: bs, a, e =>
    let op := k.openByte r a ((k.rowAddr false r) + (e * k.eb false / max 1 (k.eb true) : Nat)).toNat
    let s1 := if op then s.tick else s
    let x := State.fillOpen k r s1 bs (a + 1) (e + 1)
    (x.1, (if op then Config.freeByte s.free else b) :: x.2)

/-- Move `n` elements of one row from element `e`, all of which can move. -/
def State.moveRun (s : State) (t : Nat) (k : Skein) (e n : Nat) : State × Skein :=
  let i0 := e % k.cnt 0
  let r := e / k.cnt 0
  let ws := k.eb false
  let wd := k.eb true
  let sb := i0 * ws / 8
  let sBytes := (List.range (ceilDiv (i0 * ws % 8 + n * ws) 8)).map fun j =>
    s.sideByte t k false ((k.rowAddr false r).toNat + sb + j)
  let num := leNat sBytes
  let elems := (List.range n).map fun j => bits num (i0 * ws % 8 + j * ws) ws
  let conv := elems.map (convElem k.srcFmt k.dstFmt k.nosat)
  let db := i0 * wd / 8
  let da := (k.rowAddr true r).toNat + db
  let len := ceilDiv (i0 * wd % 8 + n * wd) 8
  let old := leNat ((List.range len).map fun j => s.sideByte t k true (da + j))
  let dBytes := leBytes len (setBits old (i0 * wd % 8) (n * wd) (packE wd (conv.map (·.1))))
  let filled := State.fillOpen k r s dBytes da db
  let s1 := filled.1.sideWrite t k (len + 1) da filled.2
  let fed := if k.checkDst then dBytes.take ((i0 * wd % 8 + n * wd) / 8)
    else sBytes.take ((i0 * ws % 8 + n * ws) / 8)
  (s1, { k with
    done := k.done + n
    cvt := k.cvt ||| orFlags (conv.map (·.2))
    check := if k.checked then k.check.feeds fed else k.check })

/-- Move elements up to element `goal`, row by row, until one cannot move (R235). -/
def State.moveTo (s : State) (t : Nat) (bad : Option Nat) (goal : Nat) : Nat → Skein → State × Skein × Stop
  | 0, k => (s, k, .none)
  | f + 1, k =>
    if goal ≤ k.done then (s, k, .none)
    else
      let rowEnd := (k.done / k.cnt 0 + 1) * k.cnt 0
      let r := s.runOk t k bad (min rowEnd goal - k.done) k.done
      let m := if r.1 = 0 then (s, k) else s.moveRun t k k.done r.1
      match r.2 with
      | .none => m.1.moveTo t bad goal f m.2
      | x => (m.1, m.2, x)

/-- Move to the end of the cursor's chunk. -/
def State.moveChunk (s : State) (t : Nat) (bad : Option Nat) (k : Skein) : State × Skein × Stop :=
  s.moveTo t bad (k.chunkStart (k.curChunk + 1)) (k.chunkRows + 1) k

/-- The tile whose engine a request stalls. -/
def waiterTile : Waiter → Option Nat
  | .skein t _ _ => some t
  | .copy _ _ _ t => some t
  | .page _ t => some t
  | .collective _ t => some t
  | .transport _ _ => none

/-- Whether the skein engine of tile `t` moves elements: the tile has not failed and is not halted (R551), in mode 1 no
handle stalls it (R236), and no request of its own does (R299, R300). -/
def State.engineOk (s : State) (t : Nat) : Bool :=
  let x := s.tile t
  !x.down && !s.trc.halted && s.get (TILE_STATE_STATE t) != 7 &&
    (s.nInst != 1 || !(x.s.handles ++ x.w.handles).any fun p => p.2.state == 5) &&
    !s.xlt.parked.any fun p => p.stalled && waiterTile p.who == some t

/-! ### Signals and ends of a skein (R228, R230 to R232, R246) -/

/-- A trace record of a skein: BEGIN (1) or END (2) (Table 19.2). -/
def State.traceSkein (s : State) (kind t : Nat) (c : Ctx) (h : Nat) (k : Skein) (st : Nat) : State :=
  s.trace 2 kind t t (s.instOfTile t) st (leBytes 2 (h + (if c = .W then 8 else 0)) ++ leBytes 2 k.queue ++
    leBytes 4 k.chunks ++ leBytes 8 k.done)

/-- Whether a checked skein's finished value is wrong (R246). -/
def Skein.mismatch (k : Skein) : Bool :=
  k.checked && k.compare && k.check.finish != leAt k.desc 56 8 % 2 ^ k.check.width

/-- The signal of the chunk that ends at the cursor. -/
def State.chunkSig (s : State) (t : Nat) (c : Ctx) (h : Nat) (k : Skein) : Sig :=
  let last := k.nextChunk + 1 == k.chunks
  let bad := last && k.mismatch
  ⟨(if bad then 5 else 0) + (if last then 2 else 0), if bad then stHOLE else stOK, issuerOf t c h, k.cvt,
    s.get PICK_NUMBER_NUMBER, k.nextChunk, k.chunks,
    (k.elemAddr true (k.chunkStart k.nextChunk)),
    (k.done - k.chunkStart k.nextChunk) * k.eb true / 8,
    if bad then 1 else 0, if bad then k.nextChunk else 0, if last && k.checked then k.check.finish else 0⟩

/-- The hole signal of an early end, or of a stop at the wall, with status `st` and pick `pick` (R232,
R240): it covers the cursor's chunk and every later one. -/
def Skein.holeSig (t : Nat) (c : Ctx) (h : Nat) (k : Skein) (st pick : Nat) : Sig :=
  ⟨3, st, issuerOf t c h, k.cvt, pick, k.nextChunk, k.chunks, k.elemAddr true (k.chunkStart k.nextChunk),
    ceilDiv ((k.done - k.chunkStart k.nextChunk) * k.eb true) 8, k.chunks - k.nextChunk, k.nextChunk, 0⟩

/-- The skein completes with status `st`. -/
def State.skeinDone (s : State) (t : Nat) (c : Ctx) (h : Nat) (k : Skein) (st : Nat) : State :=
  let s1 := (s.setSkein t c h { k with state := 6, status := st, due := 0, fault := 0, side := false }).bump
    SKN_COMPLETED_VAL
  (s1.raiseIf (st == stFAULT_UNRESOLVED) SKN_EVENT_UNRESOLVED).traceSkein 2 t c h k st

/-- End a skein early with status `st` (R232): the hole signal, which waits for room (R228) and is not
written to a disabled queue (R229), then its completion. -/
def State.endEarly (s : State) (t : Nat) (c : Ctx) (h : Nat) (k : Skein) (st : Nat) : State :=
  if !k.signal || !s.on (SKN_CQ_CFG_ENABLE k.queue) then s.skeinDone t c h k st
  else if s.cqFull k.queue then
    (s.setSkein t c h { k with state := 3, status := st, due := st }).raise SKN_EVENT_QUEUE_WAIT
  else
    let g := Skein.holeSig t c h k st (s.get PICK_NUMBER_NUMBER)
    ((s.cqPut k.queue g).countHole g).skeinDone t c h k st

/-- Write the signal of the chunk that has ended, and move to the next chunk. -/
def State.endChunk (s : State) (t : Nat) (c : Ctx) (h : Nat) (k : Skein) : State :=
  if !k.signal then s.setSkein t c h { k with cvt := 0, state := 1 }
  else if !s.on (SKN_CQ_CFG_ENABLE k.queue) then
    s.skeinDone t c h k (if k.due = 0 then stACCESS else k.status)
  else if s.cqFull k.queue then
    (s.setSkein t c h { k with state := 3 }).raise SKN_EVENT_QUEUE_WAIT
  else
    let g := s.chunkSig t c h k
    ((s.cqPut k.queue g).countHole g).setSkein t c h { k with nextChunk := k.nextChunk + 1, cvt := 0, state := 1 }

/-- The finished value is judged when the last element is written (R246). -/
def State.judge (s : State) (k : Skein) : State × Skein :=
  if k.done = k.total && k.mismatch && k.status = stOK then
    ((s.bump SKN_CHECK_FAIL_VAL).raise SKN_EVENT_CHECK_FAIL, { k with status := stHOLE })
  else (s, k)

/-- SKEIN_FENCE_START (R242): a FENCE skein starts once every earlier skein of its context has completed. -/
def execSkeinFenceStart (t : Nat) (c : Ctx) (h : Nat) (s : State) : Host.Outcome State Fault Refusal :=
  match s.skein? t c h with
  | some k =>
    if k.state = 2 && !((s.ctx t c).handles.any fun p => p.2.age < k.age && p.2.state != 6) then
      .next (s.setSkein t c h { k with state := 1 })
    else .next s
  | none => .next s

/-- SKEIN_CHUNK_END (R228): the skein reaches the end of its chunk and writes its signal, or waits for
queue room. -/
def execSkeinChunkEnd (t : Nat) (c : Ctx) (h : Nat) (s : State) : Host.Outcome State Fault Refusal :=
  match s.skein? t c h with
  | some k =>
    if k.state = 1 && k.due = 0 && k.done < k.total && s.engineOk t then
      match s.moveChunk t none k with
      | (s1, k1, .none) => let j := s1.judge k1; .next (j.1.endChunk t c h j.2)
      | _ => .next s
    else .next s
  | none => .next s

/-- SKEIN_QUEUE_ROOM (R228): a skein that waits at a chunk boundary writes its signal once an entry is
free. -/
def execSkeinQueueRoom (t : Nat) (c : Ctx) (h : Nat) (s : State) : Host.Outcome State Fault Refusal :=
  match s.skein? t c h with
  | some k =>
    if k.state = 3 && s.on (SKN_CQ_CFG_ENABLE k.queue) && !s.cqFull k.queue then
      if k.due = 0 then .next (s.endChunk t c h k) else .next (s.endEarly t c h k k.due)
    else .next s
  | none => .next s

/-- SKEIN_FAULT (R236): the translation of the cursor's element meets a missing or migrating page; the
skein parks or stalls, or must end unresolved where the instance takes no faults (R293). -/
def execSkeinFault (t : Nat) (c : Ctx) (h : Nat) (s : State) : Host.Outcome State Fault Refusal :=
  match s.skein? t c h with
  | some k =>
    if k.state = 1 && k.due = 0 && k.done < k.total && s.engineOk t then
      match s.moveChunk t none k with
      | (s1, k1, .fault side va) =>
        let r := s1.translate (s.instOfTile t) (k1.asid side) va side (.skein t c h)
        let s2 := (r.1.bump SKN_FAULTED_VAL).raise SKN_EVENT_FAULT
        match r.2 with
        | .unresolved => .next (s2.setSkein t c h { k1 with due := stFAULT_UNRESOLVED })
        | _ =>
          let stall := s2.xlt.parked.any fun p => p.who == .skein t c h && p.stalled
          .next (s2.setSkein t c h { k1 with state := if stall then 5 else 4, fault := va, side := side })
      | _ => .next s
    else .next s
  | none => .next s

/-- SKEIN_EARLY_END (R232, R233, R237): the skein ends at its cursor with a status other than OK. -/
def execSkeinEarlyEnd (t : Nat) (c : Ctx) (h : Nat) (bad : Option Nat) (s : State) :
    Host.Outcome State Fault Refusal :=
  match s.skein? t c h with
  | some k =>
    if k.state = 1 && k.due != 0 then .next (s.endEarly t c h k k.due)
    else if k.state = 1 && k.done < k.total && s.engineOk t then
      match s.moveChunk t bad k with
      | (s1, k1, .access side va) =>
        let r := s1.translate (s.instOfTile t) (k1.asid side) va side (.skein t c h)
        .next (r.1.endEarly t c h k1 stACCESS)
      | (s1, k1, .hole) =>
        let s2 := match s1.elemPas t k1 false (k1.elemBytes false k1.done) with
          | .ok ps => (ps.map (· / 64)).dedup.foldl (fun (s : State) l => s.logPoison (l * 64) 1) s1
          | .error _ => s1
        .next (s2.endEarly t c h k1 stHOLE)
      | _ => .next s
    else .next s
  | none => .next s

/-- Set ready flag `f` of group `g` (R78). -/
def State.setReady (s : State) (g f : Nat) : State :=
  { s with warp := { s.warp with ready := tput s.warp.ready (g * 4096 + f) true } }

/-- SKEIN_COMPLETE (R224, R246): every element is written and every signal; the ready flag is set with a
status of OK. -/
def execSkeinComplete (t : Nat) (c : Ctx) (h : Nat) (s : State) : Host.Outcome State Fault Refusal :=
  match s.skein? t c h with
  | some k =>
    if k.state = 1 && k.due = 0 && k.done = k.total && (!k.signal || k.nextChunk = k.chunks) then
      let s1 := s.skeinDone t c h k k.status
      .next (if k.readyF && k.status = stOK then s1.setReady k.readyGroup k.readyIdx else s1)
    else .next s
  | none => .next s

/-! ### Enabling and disabling chunk queues (R229, R481) -/

/-- The body of CHTAKE and CHTAKEW (R162, R163, R227): `wait` is the instruction where it waits. -/
def chtakeBody (i : Issue) (rd rs1 rs2 : SReg) (wait : Option Instr) (s : State) : Fate :=
  let q := (s.rs i rs1).toNat % 65536
  let ea := s.rs i rs2
  match lineFault exSTORE_RANGE ea 64 with
  | some c => .trap c ea
  | none =>
    if s.cqOwner q != s.instOfTile i.tile || !s.on (SKN_CQ_CFG_ENABLE q) then
      .trap exDEV_ACCESS (BitVec.ofNat 64 q)
    else if s.cqCount q = 0 then
      match wait with
      | some x => .wait x
      | none => .retire (s.ws i rd 0)
    else
      let r := s.cqTake q
      .retire ((r.1.writeLocal i ea.toNat r.2).ws i rd 1)

/-- Every (tile, context) of the machine that has left its reset state. -/
def State.contexts (s : State) : List (Nat × Ctx) := s.til.tiles.flatMap fun p => [(p.1, .S), (p.1, .W)]

/-- A queue becomes disabled: skeins that wait on it end with ACCESS, and a waiting CHTAKEW takes
DEV_ACCESS (R229). -/
def State.disableCq (s : State) (q : Nat) : State :=
  let s1 := s.put (SKN_CQ_CFG_ENABLE q) 0
  let s2 := s1.contexts.foldl (fun s (p : Nat × Ctx) =>
    ((s.ctx p.1 p.2).handles.filter fun h => h.2.state == 3 && h.2.queue == q).foldl
      (fun s h => s.skeinDone p.1 p.2 h.1 h.2 (if h.2.due = 0 then stACCESS else h.2.status)) s) s1
  s2.contexts.foldl (fun s (p : Nat × Ctx) =>
    match (s.ctx p.1 p.2).wait with
    | some (.chtakew i rd rs1 rs2) =>
      if (s.rs i rs1).toNat % 65536 = q && s.live p.1 p.2 then
        s.finish i (chtakeBody i rd rs1 rs2 none s)
      else s
    | _ => s) s2

/-- Whether a queue's ring lies in its owner's near-tier range (R225). -/
def State.cqRingOk (s : State) (q base lg : Nat) : Bool :=
  4 ≤ lg && lg ≤ 16 && base % 64 == 0 && inside (s.nearRange (s.cqOwner q)) base (2 ^ lg * 64)

/-- A queue becomes enabled: its head and tail are 0 (R229). -/
def State.enableCq (s : State) (q : Nat) : State :=
  (s.put (SKN_CQ_CFG_ENABLE q) 1).setReg (SKN_CQ_PTR q) 0

/-- CQ_ENABLE (R481, R225, R229). -/
def execCqEnable (inst slot : Nat) (s : State) : Host.Outcome State Fault Refusal :=
  match s.entry? inst 0 slot with
  | some e =>
    let q := e.b 0 2
    let lg := e.b 2 1
    let base := e.b 8 8
    if e.op != 0x09 then .next s
    else if !e.rsvdZero [(0, 3), (8, 8)] || lg < 4 || 16 < lg || base % 64 != 0 then
      .next (s.complete inst 0 slot stMALFORMED 0)
    else if s.cqOwner q != inst || !s.cqRingOk q base lg then .next (s.complete inst 0 slot stACCESS 0)
    else if s.on (SKN_CQ_CFG_ENABLE q) then .next (s.complete inst 0 slot stBUSY 0)
    else
      .next ((((s.put (SKN_CQ_BASE_BASE q) (base / 64)).put (SKN_CQ_CFG_LOG2_DEPTH q) lg).enableCq q).complete
        inst 0 slot stOK 0)
  | none => .next s

/-- CQ_DISABLE (R481, R229). -/
def execCqDisable (inst slot : Nat) (s : State) : Host.Outcome State Fault Refusal :=
  match s.entry? inst 0 slot with
  | some e =>
    let q := e.b 0 2
    if e.op != 0x0A then .next s
    else if !e.rsvdZero [(0, 2)] then .next (s.complete inst 0 slot stMALFORMED 0)
    else if s.cqOwner q != inst then .next (s.complete inst 0 slot stACCESS 0)
    else .next ((s.disableCq q).complete inst 0 slot stOK 0)
  | none => .next s

end Sys2Proof.Machine
end

