-- ==== Sys2Proof/Machine/System.lean ====
section
/-! DEFINITION. Mesh-message, skein, check-value, pick-synchronisation and system instructions of the spindle
(04_spindle_isa_core.md R158 to R169). -/
namespace Sys2Proof.Machine
open Sys2Proof

/-! ### Mesh messages (R158 to R160) -/

/-- The message that an MSEND builds; the port clears ANY_ROLE but for a MANAGER tile (R118). -/
def State.msgOf (s : State) (t : Nat) (target len3 : Word) (weft any : Bool) (payload : List Byte) : Msg :=
  let a := target.toNat
  ⟨bits a 0 12, bits a 12 12, bits a 24 8, s.get (TILE_ROLE_EPOCH t), t, bits a 32 16, bits a 48 16,
    any && s.isManager t, if weft then 1 else 0, payload.take (len3.toNat % 512)⟩

/-- The body of MSEND (R158). -/
def msendBody (i : Issue) (rs1 rs2 rs3 : SReg) (weft any : Bool) (s : State) : Fate :=
  let len := (s.rs i rs3).toNat % 512
  let src := s.rs i rs2
  let w := wA 0x28 rs3 rs1 rs2 ((if weft then 1 else 0) + (if any then 2 else 0))
  let go (s : State) (bs : List Byte) : Fate :=
    let m := s.msgOf i.tile (s.rs i rs1) (s.rs i rs3) weft any bs
    if s.canSend m then .retire (s.sendMsg m) else .wait (.msend i rs1 rs2 rs3 weft any)
  if i.ctx = .W && !weft then .trap exPRIV (evWord w)
  else if 256 < len then .trap exMSG_LEN (s.rs i rs3)
  else if len = 0 then go s []
  else if !inData src.toNat len then .trap exLOAD_RANGE src
  else if src.toNat % 64 != 0 then .trap exMISALIGN src
  else match s.readLocal i src.toNat len with
    | (s1, .ok bs) => go s1 bs
    | (_, .error o) => .ecc o

/-- MSEND (R158). -/
def execMsend (i : Issue) (rs1 rs2 rs3 : SReg) (weft anyRole : Bool) (s : State) :
    Host.Outcome State Fault Refusal :=
  s.issue i (msendBody i rs1 rs2 rs3 weft anyRole)

/-- MSEND_BUFFER_ACCEPT (R158): a waiting MSEND retires when the injection buffer can take the whole
message. -/
def execMsendBufferAccept (i : Issue) (s : State) : Host.Outcome State Fault Refusal :=
  s.retry i fun x => match x with
    | .msend _ rs1 rs2 rs3 weft any => some (msendBody i rs1 rs2 rs3 weft any)
    | _ => none

/-- Whether filter `f` of MRECV admits class `cls` (Table 4.7). -/
def admits (f cls : Nat) : Bool := f == 0 || f == cls + 1

/-- Take the first element that satisfies `p` out of a list. -/
def takeFirst {α : Type} (p : α → Bool) : List α → Option (α × List α)
  | [] => none
  | x :: xs =>
    if p x then some (x, xs)
    else match takeFirst p xs with
      | some (y, ys) => some (y, x :: ys)
      | none => none

/-- The value of rd for a received message (R159). -/
def Msg.recvWord (m : Msg) : Word :=
  BitVec.ofNat 64 (m.src % 4096 + m.srcEpoch % 256 * 2 ^ 12 + m.len * 2 ^ 20 +
    (if m.cls = 1 then 2 ^ 29 else 0) + m.tag % 65536 * 2 ^ 32 + m.kind % 65536 * 2 ^ 48)

/-- The body of MRECV (R159). -/
def mrecvBody (i : Issue) (rd rs1 : SReg) (filter : BitVec 2) (wait : Bool) (s : State) : Fate :=
  let ea := s.rs i rs1
  if filter = 3 then .trap exILLEGAL (evWord (wA 0x28 rd rs1 0 (0x103 + (if wait then 4 else 0))))
  else match lineFault exSTORE_RANGE ea 256 with
    | some c => .trap c ea
    | none =>
      match takeFirst (fun m => admits filter.toNat m.cls) (s.tile i.tile).inq with
      | some (m, rest) =>
        let s1 := s.setTile i.tile { s.tile i.tile with inq := rest }
        .retire ((s1.writeLocal i ea.toNat m.payload).ws i rd m.recvWord)
      | none => if wait then .wait (.mrecv i rd rs1 filter wait) else .retire (s.ws i rd (BitVec.allOnes 64))

/-- MRECV (R159). -/
def execMrecv (i : Issue) (rd rs1 : SReg) (filter : BitVec 2) (wait : Bool) (s : State) :
    Host.Outcome State Fault Refusal :=
  s.issue i (mrecvBody i rd rs1 filter wait)

/-- MRECV_WAIT_TAKE (R159): a waiting MRECV takes a message when one is there. -/
def execMrecvWaitTake (i : Issue) (s : State) : Host.Outcome State Fault Refusal :=
  s.retry i fun x => match x with
    | .mrecv _ rd rs1 f w => some (mrecvBody i rd rs1 f w)
    | _ => none

/-- The body of MRET (R160). -/
def mretBody (i : Issue) (rd rs1 : SReg) (wait : Bool) (s : State) : Fate :=
  let ea := s.rs i rs1
  match lineFault exSTORE_RANGE ea 288 with
  | some c => .trap c ea
  | none =>
    match (s.tile i.tile).rmq with
    | e :: rest =>
      let s1 := s.setTile i.tile { s.tile i.tile with rmq := rest }
      .retire ((s1.writeLocal i ea.toNat e).ws i rd (BitVec.ofNat 64 (leAt e 0 8)))
    | [] => if wait then .wait (.mret i rd rs1 wait) else .retire (s.ws i rd (BitVec.allOnes 64))

/-- MRET (R160). -/
def execMret (i : Issue) (rd rs1 : SReg) (wait : Bool) (s : State) : Host.Outcome State Fault Refusal :=
  s.issue i (mretBody i rd rs1 wait)

/-- MRET_WAIT_TAKE (R160): a waiting MRET takes an entry when one is there. -/
def execMretWaitTake (i : Issue) (s : State) : Host.Outcome State Fault Refusal :=
  s.retry i fun x => match x with
    | .mret _ rd rs1 w => some (mretBody i rd rs1 w)
    | _ => none

/-! ### Skeins (R162, R163) -/

/-- The body of SKISS (R162, R163, R216, R219): the lowest free handle takes the descriptor. -/
def skissBody (i : Issue) (rd rs1 : SReg) (s : State) : Fate :=
  let ea := s.rs i rs1
  match lineFault exLOAD_RANGE ea 128 with
  | some c => .trap c ea
  | none =>
    match (List.range 8).find? fun h => (s.skein? i.tile i.ctx h).isNone with
    | none => .wait (.skiss i rd rs1)
    | some h =>
      match s.readLocal i ea.toNat 128 with
      | (_, .error o) => .ecc o
      | (s1, .ok bs) =>
        let x := s1.ctx i.tile i.ctx
        let k : Skein := ⟨1, stOK, bs, x.check.reset, 0, 0, 0, 0, false, x.issued, 0⟩
        let r := s1.skeinCheck i.tile i.ctx k
        let s2 := ((s1.upd i fun x => { x with issued := x.issued + 1 }).bump SKN_ISSUED_VAL).ws i rd
          (BitVec.ofNat 64 h)
        if r.1 = 0 then
          let waits := k.fence && x.handles.any fun p => p.2.state != 6
          .retire ((s2.traceSkein 1 i.tile i.ctx h k 0).setSkein i.tile i.ctx h { k with state := if waits then 2 else 1 })
        else
          let s3 := (s2.setReg SKN_REJECT_LOG (i.tile + (if i.ctx = .W then 2 ^ 12 else 0) + h * 2 ^ 13 +
            r.2 * 2 ^ 16 + r.1 * 2 ^ 24)).raise SKN_EVENT_REJECT
          .retire (s3.skeinDone i.tile i.ctx h k r.2)

/-- SKISS (R162). -/
def execSkiss (i : Issue) (rd rs1 : SReg) (s : State) : Host.Outcome State Fault Refusal :=
  s.issue i (skissBody i rd rs1)

/-- SKISS_HANDLE_WAIT (R162): a SKISS that waits for a handle goes on when one is free. -/
def execSkissHandleWait (i : Issue) (s : State) : Host.Outcome State Fault Refusal :=
  s.retry i fun x => match x with
    | .skiss _ rd rs1 => some (skissBody i rd rs1)
    | _ => none

/-- The body of SKWAIT and SKSTAT (Table 4.8): `wait` is the instruction where it waits. -/
def skwaitBody (i : Issue) (rd rs1 : SReg) (wait : Option Instr) (s : State) : Fate :=
  let h := (s.rs i rs1).toNat % 8
  match s.skein? i.tile i.ctx h with
  | none => .retire (s.ws i rd 0x200)
  | some k =>
    if k.state = 6 then .retire ((s.freeHandle i.tile i.ctx h).ws i rd (BitVec.ofNat 64 k.status))
    else match wait with
      | some x => .wait x
      | none => .retire (s.ws i rd 0x100)

/-- SKWAIT (R162). -/
def execSkwait (i : Issue) (rd rs1 : SReg) (s : State) : Host.Outcome State Fault Refusal :=
  s.issue i (skwaitBody i rd rs1 (some (.skwait i rd rs1)))

/-- SKWAIT_COMPLETE (R162): a waiting SKWAIT retires when its skein completes. -/
def execSkwaitComplete (i : Issue) (s : State) : Host.Outcome State Fault Refusal :=
  s.retry i fun x => match x with
    | .skwait _ rd rs1 => some (skwaitBody i rd rs1 (some (.skwait i rd rs1)))
    | _ => none

/-- SKSTAT (R162). -/
def execSkstat (i : Issue) (rd rs1 : SReg) (s : State) : Host.Outcome State Fault Refusal :=
  s.issue i (skwaitBody i rd rs1 none)

/-- CHTAKE (R162, R227). -/
def execChtake (i : Issue) (rd rs1 rs2 : SReg) (s : State) : Host.Outcome State Fault Refusal :=
  s.issue i (chtakeBody i rd rs1 rs2 none)

/-- CHTAKEW (R162, R227). -/
def execChtakew (i : Issue) (rd rs1 rs2 : SReg) (s : State) : Host.Outcome State Fault Refusal :=
  s.issue i (chtakeBody i rd rs1 rs2 (some (.chtakew i rd rs1 rs2)))

/-- CHTAKEW_WAIT_TAKE (R227): a waiting CHTAKEW takes a signal once one is written. -/
def execChtakewWaitTake (i : Issue) (s : State) : Host.Outcome State Fault Refusal :=
  s.retry i fun x => match x with
    | .chtakew _ rd rs1 rs2 => some (chtakeBody i rd rs1 rs2 (some (.chtakew i rd rs1 rs2)))
    | _ => none

/-! ### Check values (Table 4.9, R164, R537 to R543) -/

/-- An instruction on the check-value image of its context. -/
def State.checkOp (s : State) (i : Issue) (f : Context → CheckImg) : Host.Outcome State Fault Refusal :=
  s.issue i fun s => .retire (s.upd i fun k => { k with check := f k })

/-- CVFB (R540). -/
def execCvfb (i : Issue) (rs1 : SReg) (s : State) : Host.Outcome State Fault Refusal :=
  s.checkOp i fun k => k.check.feeds (leBytes 1 (k.rd rs1).toNat)

/-- CVFH (R540). -/
def execCvfh (i : Issue) (rs1 : SReg) (s : State) : Host.Outcome State Fault Refusal :=
  s.checkOp i fun k => k.check.feeds (leBytes 2 (k.rd rs1).toNat)

/-- CVFW (R540). -/
def execCvfw (i : Issue) (rs1 : SReg) (s : State) : Host.Outcome State Fault Refusal :=
  s.checkOp i fun k => k.check.feeds (leBytes 4 (k.rd rs1).toNat)

/-- CVRST (R539). -/
def execCvrst (i : Issue) (s : State) : Host.Outcome State Fault Refusal :=
  s.checkOp i fun k => k.check.reset

/-- CVRD (R543). -/
def execCvrd (i : Issue) (rd : SReg) (s : State) : Host.Outcome State Fault Refusal :=
  s.issue i fun s => .retire (s.ws i rd (BitVec.ofNat 64 (s.ctx i.tile i.ctx).check.run))

/-- CVWR (R543). -/
def execCvwr (i : Issue) (rs1 : SReg) (s : State) : Host.Outcome State Fault Refusal :=
  s.checkOp i fun k => { k.check with run := (k.rd rs1).toNat % 2 ^ k.check.width }

/-- CVFIN (R539). -/
def execCvfin (i : Issue) (rd : SReg) (s : State) : Host.Outcome State Fault Refusal :=
  s.issue i fun s => .retire (s.ws i rd (BitVec.ofNat 64 (s.ctx i.tile i.ctx).check.finish))

/-- CVCMP (R164, R546): a mismatch is counted, and with INT_EN it takes CV_MISMATCH after retiring. -/
def execCvcmp (i : Issue) (rd rs1 : SReg) (s : State) : Host.Outcome State Fault Refusal :=
  s.issue i fun s =>
    let c := (s.ctx i.tile i.ctx).check
    if c.finish = (s.rs i rs1).toNat % 2 ^ c.width then .retire (s.ws i rd 1)
    else
      let s1 := ((s.ws i rd 0).bump CRC_MISMATCH_COUNT_VAL).raise CRC_EVENT_MISMATCH
      if c.intEn then .trapAfter (s1.raise CRC_EVENT_TRAPPED) exCV_MISMATCH (BitVec.ofNat 64 c.finish)
      else .retire s1

/-- CVSET of one setting (R538). -/
def CheckImg.set (c : CheckImg) (n v : Nat) : CheckImg :=
  match n with
  | 0 => { c with poly := v }
  | 1 =>
    let w := max 1 (min 64 v)
    { c with widthM1 := w - 1, run := c.run % 2 ^ w }
  | 2 => { c with init := v }
  | _ => { c with refin := bit v 0, refout := bit v 1, invert := bit v 2, intEn := bit v 3 }

/-- CVSET (R538): settings 4 to 7 take ILLEGAL. -/
def execCvset (i : Issue) (rs1 rs2 : SReg) (s : State) : Host.Outcome State Fault Refusal :=
  s.issue i fun s =>
    let n := (s.rs i rs2).toNat % 8
    if 3 < n then .trap exILLEGAL (evWord (wA 0x2A 0 rs1 rs2 0x008))
    else .retire (s.upd i fun k => { k with check := k.check.set n (k.rd rs1).toNat })

/-! ### Pick synchronisation (R165 to R168) -/

/-- YIELD (R165): context S runs nothing until the next wall; no effect in context W. -/
def execYield (i : Issue) (s : State) : Host.Outcome State Fault Refusal :=
  s.issue i fun s =>
    match i.ctx with
    | .S =>
      let d := leBytes 6 (s.get PICK_NUMBER_NUMBER) ++ leBytes 2 (s.ctx i.tile .S).pc.toNat
      .retire ((s.upd i fun k => { k with yielded := true }).trace 1 2 i.tile i.tile (s.instOfTile i.tile) stOK d)
    | .W => .retire s

/-- The body of WAITC (R166); one of context W that a wall has abandoned waits no more. -/
def waitcBody (i : Issue) (rs1 : SReg) (s : State) : Fate :=
  if (s.rs i rs1).toNat ≤ s.cyc || (i.ctx == .W && (s.ctx i.tile .W).crossed) then .retire s else .wait (.waitc i rs1)

/-- WAITC (R166). -/
def execWaitc (i : Issue) (rs1 : SReg) (s : State) : Host.Outcome State Fault Refusal :=
  s.issue i (waitcBody i rs1)

/-- WAITC_RETIRE (R166): a WAITC retires in the first cycle at or beyond its target. -/
def execWaitcRetire (i : Issue) (s : State) : Host.Outcome State Fault Refusal :=
  s.retry i fun x => match x with
    | .waitc _ rs1 => some (waitcBody i rs1)
    | _ => none

/-- Whether a value names a ready flag (R167, check 1). -/
def namesFlag (v : Word) : Bool := bits v.toNat 16 4 ≤ 11 && bits v.toNat 12 4 == 0 && v.toNat < 2 ^ 20

/-- RDYSET (R167, R168). -/
def execRdyset (i : Issue) (rs1 : SReg) (s : State) : Host.Outcome State Fault Refusal :=
  s.issue i fun s =>
    let v := s.rs i rs1
    let g := bits v.toNat 16 4
    let f := bits v.toNat 0 12
    if !namesFlag v then .trap exILLEGAL v
    else if i.ctx != .S || !s.scheduled i.tile || !s.flagOwned (s.instOfTile i.tile) g f then
      .trap exPRIV (evWord (wA 0x2B 0 rs1 0 0x002))
    else .retire (s.setReady g f)

/-- RDYTST (R167). -/
def execRdytst (i : Issue) (rd rs1 : SReg) (s : State) : Host.Outcome State Fault Refusal :=
  s.issue i fun s =>
    let v := s.rs i rs1
    if !namesFlag v then .trap exILLEGAL v
    else .retire (s.ws i rd (flag (mget false s.warp.ready (bits v.toNat 16 4 * 4096 + bits v.toNat 0 12))))

/-! ### Special registers (Table 4.1, R141, R142) -/

/-- The value of special register `n` for the issuing context. -/
def State.special (s : State) (i : Issue) (n : Nat) : Nat :=
  let t := i.tile
  let x := s.tile t
  let k := x.ctx i.ctx
  match n with
  | 0x00 => if i.ctx = .W then 1 else 0
  | 0x01 => t + s.instOfTile t * 2 ^ 12 + t / 1024 * 2 ^ 16
  | 0x02 => s.reg (TILE_ROLE t)
  | 0x03 => s.get PICK_NUMBER_NUMBER
  | 0x04 => s.cyc
  | 0x05 => s.warp.period
  | 0x06 => if s.scheduled t then s.wakeOffset t else 0
  | 0x07 => if s.scheduled t then 1 else 0
  | 0x08 => k.epc.toNat
  | 0x09 => k.ecause.toNat
  | 0x0A => k.eval.toNat
  | 0x0B => k.evec.toNat
  | 0x0C => k.estatus.toNat
  | 0x0D => k.escratch.toNat
  | 0x0E => x.ereport
  | 0x0F => x.faults
  | 0x10 => s.time - x.since
  | 0x11 => k.retired.toNat
  | 0x12 => x.inq.length + (x.inq.filter (·.cls == 0)).length * 2 ^ 8 +
      (x.inq.filter (·.cls == 1)).length * 2 ^ 16 + x.rmq.length * 2 ^ 24
  | 0x13 => (k.handles.map fun p => 2 ^ p.1).sum
  | _ => x.lates

/-- MFS (R141, R142). -/
def execMfs (i : Issue) (rd : SReg) (n : BitVec 8) (s : State) : Host.Outcome State Fault Refusal :=
  s.issue i fun s =>
    if 0x14 < n.toNat then .trap exILLEGAL (evWord (wA 0x2C rd 0 0 n.toNat))
    else .retire (s.ws i rd (BitVec.ofNat 64 (s.special i n.toNat)))

/-- MTS (R141, R142): reserved bits stay 0, a read-only register takes PRIV. -/
def execMts (i : Issue) (rs1 : SReg) (n : BitVec 8) (s : State) : Host.Outcome State Fault Refusal :=
  s.issue i fun s =>
    let v := s.rs i rs1
    let w := evWord (wA 0x2C 0 rs1 0 (0x100 + n.toNat))
    match n.toNat with
    | 0x08 => .retire (s.upd i fun k => { k with epc := v &&& 0xFFFF })
    | 0x09 => .retire (s.upd i fun k => { k with ecause := v &&& 0xFF })
    | 0x0A => .retire (s.upd i fun k => { k with eval := v })
    | 0x0B => .retire (s.upd i fun k => { k with evec := v &&& 0x7FFD })
    | 0x0C => .retire (s.upd i fun k => { k with estatus := v &&& 1 })
    | 0x0D => .retire (s.upd i fun k => { k with escratch := v })
    | 0x0E => .retire (s.setTile i.tile { s.tile i.tile with ereport := (v &&& 0x800FFFFF).toNat })
    | m => if 0x14 < m then .trap exILLEGAL w else .trap exPRIV w

/-- ERET (R173): back to EPC; outside a trap it takes ILLEGAL. -/
def execEret (i : Issue) (s : State) : Host.Outcome State Fault Refusal :=
  s.issue i fun s =>
    let k := s.ctx i.tile i.ctx
    if k.estatus.getLsbD 0 then .jump (s.upd i fun k => { k with estatus := 0 }) k.epc
    else .trap exILLEGAL (evWord (wA 0x2C 0 0 0 0x200))

/-- TRAP (R169). -/
def execTrap (i : Issue) (code : BitVec 8) (s : State) : Host.Outcome State Fault Refusal :=
  s.issue i fun _ => .trap exTRAP (code.setWidth 64)

/-- RESERVED_ENCODING_ISSUE (R147, R183): the word takes ILLEGAL at issue; a word that encodes an instruction
is no reserved one. -/
def execReservedEncodingIssue (i : Issue) (word : BitVec 32) (s : State) :
    Host.Outcome State Fault Refusal :=
  if encodes word.toNat then .next s else s.issue i fun _ => .trap exILLEGAL (word.setWidth 64)

end Sys2Proof.Machine
end

