-- ==== Sys2Proof/Machine/Mesh.lean ====
section
/-! DEFINITION. Messages in the mesh and role assignments (03_spindle_tiles.md R118 to R134). -/
namespace Sys2Proof.Machine
open Sys2Proof

/-! ### Who may use a device-wide block (R21, R42, R136) -/

/-- Whether a requester is a MANAGER tile or the physical function's BAR2 (R42, R136), which works from the end of
start-up step 1 (R602). -/
def State.privReq (s : State) : Requester → Bool
  | .host fn bar => fn == 0 && bar == 2 && s.pow.up && decide (2 ≤ s.get PWR_BOOT_STATUS_STEP)
  | .manager t => s.isManager t && !s.trc.halted && s.pow.up
  | .other => false

/-! ### Moving messages (R119 to R122) -/

/-- The logical tile at logical coordinates (x, y) (R35). -/
def logicalOf (x y : Nat) : Nat := 1024 * (x / 16) + 16 * y + x % 16

/-- The logical tile served by the physical tile at (x, p), if one is (R122). -/
def State.logicalAt (s : State) (x p : Nat) : Option Nat :=
  let sub := s.get (TILE_SPARE_MAP_SUB_ROW x)
  if p = 64 then if sub < 64 then some (logicalOf x sub) else none
  else if p = sub then none
  else some (logicalOf x p)

/-- Whether no older message waits in the same buffer (R119). -/
def State.oldest (s : State) (f : Flight) : Bool :=
  s.til.mesh.all fun g =>
    g.id ≥ f.id || !(g.x == f.x && g.y == f.y && g.port == f.port && g.cls == f.cls && g.yx == f.yx)

/-- Take a message out of the mesh. -/
def State.dropFlight (s : State) (id : Nat) : State :=
  { s with til := { s.til with mesh := s.til.mesh.filter fun g => g.id != id } }

/-- Change message `id`. -/
def State.setFlight (s : State) (id : Nat) (f : Flight → Flight) : State :=
  { s with til := { s.til with mesh := modifyWhere (fun g => g.id == id) f s.til.mesh } }

/-- Whether a message is at the physical position of its target. -/
def State.arrived (s : State) (f : Flight) : Bool := s.phys f.target == (f.x, f.y)

/-- The next router on the way to (dx, dy) and the input port there (R120): x first on an XY route set, y
first on a YX one. -/
def nextRouter (f : Flight) (dx dy : Nat) : Nat × Nat × Nat :=
  let alongX := if f.yx then f.y == dy else f.x != dx
  if alongX then
    if f.x < dx then (f.x + 1, f.y, 4) else (f.x - 1, f.y, 3)
  else if f.y < dy then (f.x, f.y + 1, 1) else (f.x, f.y - 1, 2)

/-- Whether a router in bypass can pass the message on: it neither injects nor turns (R125). -/
def straight (port newPort : Nat) : Bool :=
  (port == 4 && newPort == 4) || (port == 3 && newPort == 3) || (port == 1 && newPort == 1) ||
    (port == 2 && newPort == 2)

/-- MESH_HOP (R119, R122, R127): the message `id` moves on by one router toward the physical position of
its target; a router that sees a bad HDR_CHECK discards it. -/
def execMeshHop (id : Nat) (good : Bool) (s : State) : Host.Outcome State Fault Refusal :=
  match s.til.mesh.find? fun f => f.id == id with
  | some f =>
    if !s.oldest f then .next s
    else if !good then
      .next (match s.logicalAt f.x f.y with
        | some t => (s.dropFlight id).bump (TILE_MSG_DISCARD_VAL t)
        | none => s.dropFlight id)
    else if s.arrived f then .next s
    else
      let d := s.phys f.target
      let n := nextRouter f d.1 d.2
      if (s.bypassed f.x f.y && !straight f.port n.2.2) || !s.bufRoom n.1 n.2.1 n.2.2 f.cls f.yx f.flits then
        .next s
      else .next (s.setFlight id fun g => { g with x := n.1, y := n.2.1, port := n.2.2 })
  | none => .next s

/-! ### Acceptance (R127, R128, R130) -/

/-- The first check of Table 3.4 that fails: status, reason, and the role and epoch found. -/
def State.acceptFault (s : State) (m : Msg) : Option (Nat × Nat × Nat × Nat) :=
  let role := s.roleOf m.dst
  let epoch := s.get (TILE_ROLE_EPOCH m.dst)
  if s.instOfTile m.src != s.instOfTile m.dst && !s.isManager m.dst then some (stACCESS, 4, 0, 0)
  else if s.get (TILE_STATE_STATE m.dst) = 7 then some (stSTALE_ROLE, 3, role, epoch)
  else if m.role != role && !m.anyRole then some (stSTALE_ROLE, 1, role, epoch)
  else if m.epoch != epoch && !m.anyRole then some (stSTALE_ROLE, 2, role, epoch)
  else none

/-- A message that passed the checks enters the inbound queue; a fault notice to a HOSTQ tile becomes an
event of its instance (R484). -/
def State.takeMsg (s : State) (m : Msg) : State :=
  let s1 := s.bump (TILE_MSG_ACCEPTED_VAL m.dst)
  if s.roleOf m.dst = 2 && m.kind = 0xFFFF && m.cls = 1 && m.len = 32 then
    s1.event (s.instOfTile m.dst) ⟨1, s.get PICK_NUMBER_NUMBER, m.payload⟩
  else
    let x := s1.tile m.dst
    s1.setTile m.dst { x with inq := x.inq ++ [m] }

/-- MESSAGE_ACCEPT (R127, R128): the target's port checks message `id` and queues it, or returns it; a post to the
pinch engine does not come to these checks (R419). -/
def execMessageAccept (id : Nat) (s : State) : Host.Outcome State Fault Refusal :=
  match s.til.mesh.find? fun f => f.id == id with
  | some f =>
    let x := s.tile f.target
    if f.cls = 2 || !s.oldest f || !s.arrived f || s.bypassed f.x f.y || x.down || s.trc.halted
        || (32 ≤ x.inq.length && s.get (TILE_STATE_STATE f.target) != 7) || f.m.isPost then
      .next s
    else
      match s.acceptFault f.m with
      | none => .next ((s.dropFlight id).takeMsg f.m)
      | some (st, reason, role, epoch) =>
        if s.bufRoom f.x f.y 0 2 f.yx (ceilDiv (32 + f.m.len) 64) then
          .next ((s.dropFlight id).returnMsg f.target st reason role epoch f.yx f.m)
        else .next s
  | none => .next s

/-- RETURNED_MESSAGE_ARRIVE (R130): a returned message enters its sender's queue, or waits while it is
full. -/
def execReturnedMessageArrive (id : Nat) (s : State) : Host.Outcome State Fault Refusal :=
  match s.til.mesh.find? fun f => f.id == id with
  | some f =>
    let x := s.tile f.target
    if f.cls != 2 || !s.oldest f || !s.arrived f || s.bypassed f.x f.y || x.down || s.trc.halted then .next s
    else if x.rmq.length < 32 then
      .next ((s.dropFlight id).pushReturned f.target (f.m.entry f.yx f.record))
    else if f.waited then .next s
    else .next ((s.setFlight id fun g => { g with waited := true }).rmqWait f.target)
  | none => .next s

/-! ### Role assignments (R126, R129, R132 to R134) -/

/-- The content of the running firmware slot (R47, R559). -/
def State.runImage (s : State) : List Byte := if s.on PWR_FW_STATUS_RUNNING_SLOT then s.rel.slotB else s.rel.slotA

/-- Whether role `r` is a service role (R47). -/
def isService (r : Nat) : Bool := 2 ≤ r && r ≤ 7

/-- Whether role `r` is a USER role (Table 1.6). -/
def isUser (r : Nat) : Bool := 0x100 ≤ r

/-- Whether another tile of the instance of tile `t` keeps role HOSTQ (R50). -/
def State.otherHostq (s : State) (t : Nat) : Bool :=
  (List.range s.blockTiles).any fun k =>
    let u := s.instOfTile t * s.blockTiles + k
    u != t && s.roleOf u == 2 && s.get (TILE_STATE_STATE u) != 7 &&
      (match (s.tile u).assign with
       | some a => a.role == 2
       | none => true)

/-- The first refusal of Table 3.6, or OK: the assignment of `role` to tile `t` with an image of `len` bytes
at `src` and entry `entry`; `fw`: firmware asks; `host`: a TILE_ASSIGN of that instance. -/
def State.assignStatus (s : State) (fw : Bool) (host : Option Nat) (t role src len entry : Nat) : Nat :=
  let st := s.get (TILE_STATE_STATE t)
  if (8 ≤ role && role < 0x100) || (role = 1 && !fw) then stACCESS
  else if host.isSome && (4096 ≤ t || host != some (s.instOfTile t) || s.heldTile t) then stACCESS
  else if s.on (TILE_STATE_SCHED_ACTIVE t) || s.on (TILE_STATE_SCHED_ARMED t) then stBUSY
  else if st = 7 || (s.tile t).assign.isSome then stBUSY
  else if host.isSome && (mget [] s.insts.resTiles (s.instOfTile t)).contains t then stBUSY
  else if s.roleOf t = 2 && role != 2 && !s.otherHostq t then stBUSY
  else if isUser role && (len < 4 || 32768 < len || len % 4 != 0 || len ≤ entry || entry % 4 != 0 ||
      src % 64 != 0) then stMALFORMED
  else if isUser role && !inside (s.nearRange (s.instOfTile t)) src len then stACCESS
  else stOK

/-- Step 1 of Table 3.7: the assignment begins. -/
def State.startAssign (s : State) (t role src len entry : Nat) (by_ : Option (Nat × Nat)) : State :=
  let img := s.runImage
  let a : Assign :=
    if isUser role then ⟨role, [], src, len, entry, by_⟩
    else if role = 0 then ⟨0, [], 0, 0, 0, by_⟩
    else ⟨role, Config.fwProgram img role, 0, 0, Config.fwEntry img role, by_⟩
  (s.setTile t { s.tile t with assign := some a }).put (TILE_STATE_STATE t) 1

/-- An assignment ends with a status other than OK (R132). -/
def State.refuseAssign (s : State) (t st : Nat) : State :=
  (s.put (TILE_STATE_ASSIGN_RESULT t) st).raise (TILE_EVENT_ASSIGN_REFUSED t)

/-- TILE_CTRL_ASSIGN (R132, R133): TILE_CTRL.ASSIGN begins the assignment in TILE_ROLE_NEXT, TILE_LOAD_SRC
and TILE_LOAD_CFG.  Only the requesters of R42 reach the register. -/
def execTileCtrlAssign (r : Requester) (t : Nat) (s : State) : Host.Outcome State Fault Refusal :=
  if 4096 ≤ t || !s.privReq r then .next s
  else
    let fw := match r with
      | .manager _ => true
      | _ => false
    let role := s.get (TILE_ROLE_NEXT_ROLE t)
    let src := s.get (TILE_LOAD_SRC_ADDR t)
    let len := s.get (TILE_LOAD_CFG_LEN t)
    let entry := s.get (TILE_LOAD_CFG_ENTRY t)
    match s.assignStatus fw none t role src len entry with
    | 0 => .next (s.startAssign t role src len entry none)
    | st => .next (s.refuseAssign t st)

/-- Whether every skein of a context has ended. -/
def Context.drained (k : Context) : Bool := k.handles.all fun p => p.2.state == 6

/-- ROLE_CHANGE_DRAINED (R133): the tile's skeins and memory requests have completed; the assignment
completes with OK and waits for the wall. -/
def execRoleChangeDrained (t : Nat) (s : State) : Host.Outcome State Fault Refusal :=
  let x := s.tile t
  match x.assign with
  | some a =>
    if s.get (TILE_STATE_STATE t) = 1 && x.s.drained && x.w.drained then
      let s1 := (s.put (TILE_STATE_STATE t) 2).put (TILE_STATE_ASSIGN_RESULT t) stOK
      .next (match a.by_ with
        | some (i, slot) => s1.complete i 0 slot stOK 0
        | none => s1)
    else .next s
  | none => .next s

/-- The value of EREPORT at a load: the lowest HOSTQ tile of the tile's instance and its epoch (R176). -/
def State.ereportOf (s : State) (t : Nat) : Nat :=
  let b := s.instOfTile t * s.blockTiles
  match (List.range s.blockTiles).find? fun k => s.roleOf (b + k) == 2 with
  | some k => b + k + s.get (TILE_ROLE_EPOCH (b + k)) * 2 ^ 12
  | none => 0x80000000

/-- The registers of a tile at step 5 of a role change (R140, R141, R176). -/
def State.clearTile (s : State) (t entry : Nat) : State :=
  let x := s.tile t
  s.setTile t { x with
    s := { pc := BitVec.ofNat 64 entry }, w := { pc := BitVec.ofNat 64 entry }, entry := entry, topk := {},
    ereport := s.ereportOf t, faults := 0, since := s.time, lates := 0, unhandled := 0, noticeAt := none }

/-- The ROUTE of a queued message: that of the route set which its sender's port uses (R120). -/
def State.routeOf (s : State) (m : Msg) : Bool := (s.routeSet m.src m.dst).getD false

/-- Step 5 of Table 3.7 at a wall: the role and the epoch change, the queued messages go back, and the
registers are cleared (R126, R129). -/
def State.roleWall (s : State) (t : Nat) : State :=
  match (s.tile t).assign with
  | some a =>
    if s.get (TILE_STATE_STATE t) = 2 then
      let epoch := (s.get (TILE_ROLE_EPOCH t) + 1) % 256
      let s1 := (s.put (TILE_ROLE_ROLE t) a.role).put (TILE_ROLE_EPOCH t) epoch
      let back := (s1.tile t).inq
      let s2 := s1.setTile t { s1.tile t with inq := [] }
      let s3 := back.foldl (fun s m => s.returnMsg t stSTALE_ROLE 2 a.role epoch (s.routeOf m) m) s2
      (s3.clearTile t a.entry).put (TILE_STATE_STATE t) 3
    else s
  | none => s

/-- A READY tile in no active and no armed scheduled set starts its program (R134). -/
def State.startReady (s : State) (t : Nat) : State :=
  if s.get (TILE_STATE_STATE t) = 4 && !s.on (TILE_STATE_SCHED_ACTIVE t) && !s.on (TILE_STATE_SCHED_ARMED t)
  then s.put (TILE_STATE_STATE t) 5 else s

/-- The image that an assignment loads (R132); every word of a poisoned line loads as 0 (R264). -/
def State.imageOf (s : State) (a : Assign) : State × List Byte :=
  if isUser a.role then
    (s.logPoison a.src a.len, (List.range a.len).map fun k =>
      if s.poisoned (a.src + k) then 0 else s.byte (a.src + k))
  else (s, a.image)

/-- The local store of tile `t` becomes all zeros, then `img` at offset 0 (Table 3.7, steps 6 and 7). -/
def State.loadStore (s : State) (t : Nat) (img : List Byte) : State :=
  { s with mem := s.mem.filter fun c => !(localPa t 0 ≤ c.1 && c.1 < localPa t 0x30000) }.setBytes
    (localPa t 0) (img.take 0x8000)

/-- TILE_LOAD_DONE (R133, R134): the data store is cleared and the image copied; the tile is READY, or IDLE
in role SPARE. -/
def execTileLoadDone (t : Nat) (s : State) : Host.Outcome State Fault Refusal :=
  let x := s.tile t
  if s.get (TILE_STATE_STATE t) != 3 then .next s
  else
    let r := match x.assign with
      | some a => s.imageOf a
      | none => (s, x.image)
    let s1 := r.1.loadStore t r.2
    let s2 := s1.setTile t { s1.tile t with assign := none, image := r.2, fresh := false }
    let s3 := s2.raise (TILE_EVENT_LOAD_DONE t)
    if s3.roleOf t = 0 then .next (s3.put (TILE_STATE_STATE t) 0)
    else .next ((s3.put (TILE_STATE_STATE t) 4).startReady t)

end Sys2Proof.Machine
end

