-- ==== Sys2Proof/Machine/Firmware.lean ====
section
/-! DEFINITION. Firmware slots and activation (18_reliability_service.md R559 to R561, 16_security.md R533). -/
namespace Sys2Proof.Machine
open Sys2Proof

/-- The running slot: 0 A, 1 B. -/
def State.runSlot (s : State) : Nat := s.get PWR_FW_STATUS_RUNNING_SLOT

/-- The field of a slot's state: 0 EMPTY, 1 STAGED, 2 TRIAL, 3 GOOD, 4 BAD (Table 18.4). -/
def slotFld (b : Nat) : RegFld := if b = 0 then PWR_FW_STATUS_A_STATE else PWR_FW_STATUS_B_STATE

/-- The field of a slot's SVN. -/
def svnFld (b : Nat) : RegFld := if b = 0 then PWR_FW_STATUS_A_SVN else PWR_FW_STATUS_B_SVN

/-- The state of a slot, its image and its SVN. -/
def State.slotState (s : State) (b : Nat) : Nat := s.get (slotFld b)
def State.slotImage (s : State) (b : Nat) : List Byte := if b = 0 then s.rel.slotA else s.rel.slotB
def State.slotSvn (s : State) (b : Nat) : Nat := s.get (svnFld b)

/-- Slot `b` runs: SEC_ARB.RUNNING_SVN follows. -/
def State.runSlotIs (s : State) (b : Nat) : State :=
  (s.put PWR_FW_STATUS_RUNNING_SLOT b).put SEC_ARB_RUNNING_SVN (s.slotSvn b)

/-- The tiles that may take over a service role of the instance of tile `t`: role SPARE, idle, not held, in
no scheduled set and not already chosen (R563). -/
def State.takers (s : State) (t : Nat) : List Nat :=
  ((List.range s.blockTiles).map fun k => s.instOfTile t * s.blockTiles + k).filter fun u =>
    s.roleOf u == 0 && !s.heldTile u && s.get (TILE_STATE_STATE u) == 0 && !(s.tile u).down &&
      (s.tile u).assign.isNone && !s.on (TILE_STATE_SCHED_ACTIVE u) && !s.on (TILE_STATE_SCHED_ARMED u) &&
      !(s.til.moves.any fun m => m.2 == u)

/-- Firmware reassigns one service-role tile at an activation (R560, step 2): a SPARE-role tile takes the role and the
old tile becomes SPARE, or the tile is reassigned in place. -/
def State.renewTile (s : State) (t : Nat) : State :=
  let role := s.roleOf t
  match s.takers t with
  | [] => s.startAssign t role 0 0 0 none
  | us =>
    let u := us.getD (Config.freeNat s.free % us.length) 0
    (s.tick.startAssign u role 0 0 0 none).startAssign t 0 0 0 0 none

/-- The service-role tiles outside the active and armed scheduled sets. -/
def State.serviceTiles (s : State) : List Nat :=
  (List.range 4096).filter fun t => isService (s.roleOf t) && !s.heldTile t && s.get (TILE_STATE_STATE t) != 7 &&
    (s.tile t).assign.isNone && !s.on (TILE_STATE_SCHED_ACTIVE t) && !s.on (TILE_STATE_SCHED_ARMED t)

/-- Step 1 of R560 on the manager pair of die `d`, where it has a partner: the partner takes over, and the other tile
becomes the partner. -/
def State.swapPair (s : State) (d : Nat) : State :=
  if s.til.mgrAlone.contains d || s.til.mgrLost.contains d then s
  else
    ({ s with til := { s.til with
      mgrSwap := if s.til.mgrSwap.contains d then s.til.mgrSwap.filter (· != d) else d :: s.til.mgrSwap } }.raise
      PWR_REL_EVENT_TAKEOVER).raise PWR_REL_EVENT_PARTNER_READY

/-- The steps of R560: the image of slot `b` becomes the running one. -/
def State.activate (s : State) (b : Nat) : State :=
  let s1 := [1, 2, 3, 0].foldl (fun s d => s.swapPair d) s
  let s2 := s1.runSlotIs b
  s2.serviceTiles.foldl (fun s t => s.renewTile t) s2

/-- The TRIAL slot is reverted: it becomes BAD, and the GOOD slot runs (Table 18.2, R561). -/
def State.fwRevert (s : State) : State :=
  let b := if s.slotState s.runSlot = 2 then s.runSlot else 1 - s.runSlot
  let s1 := if b = s.runSlot then s.activate (1 - b) else s
  (s1.put (slotFld b) 4).raise PWR_REL_EVENT_FW_REVERTED

/-- The running TRIAL slot becomes GOOD, and SEC_ARB.COUNT advances to its SVN (R561, Table 16.7). -/
def State.fwGood (s : State) : State :=
  let b := s.runSlot
  let n := s.slotSvn b
  let s1 := (s.put (slotFld b) 3).raise PWR_REL_EVENT_FW_GOOD
  if s.get SEC_ARB_COUNT < n && n ≤ 64 then s1.put SEC_ARB_COUNT n else s1

/-- The load rule of Table 16.7 for an SVN: refused below COUNT and above 64, with its event. -/
def State.svnCheck (s : State) (n : Nat) : State × Bool :=
  if n < s.get SEC_ARB_COUNT then (s.raise SEC_EVENT_ROLLBACK_REFUSED, false)
  else if 64 < n then (s.raise SEC_EVENT_ARB_END, false)
  else (s, true)

end Sys2Proof.Machine
end

