-- ==== Sys2Proof/Machine/Sparing.lean ====
section
/-! DEFINITION. Tile faults, sparing, mirrors and manager pairs (03_spindle_tiles.md R122 to R125,
18_reliability_service.md R549 to R555, R562 to R564). -/
namespace Sys2Proof.Machine
open Sys2Proof

/-- The column and logical row of tile `t` (R35). -/
def homeOf (t : Nat) : Nat × Nat := (16 * (t / 1024) + t % 16, (t % 1024) / 16)

/-- Whether the spare of column `x` can take a tile: unused, good and not about to be used (R122, R124). -/
def State.spareFree (s : State) (x : Nat) : Bool :=
  s.get (TILE_SPARE_MAP_SUB_ROW x) == 0x7F && !s.on (TILE_SPARE_MAP_SPARE_BAD x) &&
    !(s.til.spareAt.any fun p => p.1 == x)

/-- Whether tile `t` has no mirror (PWR_REL_UNMIRRORED). -/
def State.unmirrored (s : State) (t : Nat) : Bool := bit (s.reg (PWR_REL_UNMIRRORED (t / 64))) (t % 64)

/-- Set the bit of tile `t` in PWR_REL_UNMIRRORED, and MIRROR_LOST (R550, R554). -/
def State.loseMirror (s : State) (t : Nat) : State :=
  (s.setReg (PWR_REL_UNMIRRORED (t / 64)) (s.reg (PWR_REL_UNMIRRORED (t / 64)) ||| 2 ^ (t % 64))).raise
    PWR_REL_EVENT_MIRROR_LOST

/-- TILE_SPARE_CMD (R123 to R125, R136): a write of TILE_SPARE_CMD with GO by a MANAGER tile or through
BAR2 schedules a sparing, and a bypass with BYPASS, for the next wall. -/
def execTileSpareCmd (r : Requester) (val : Nat) (s : State) : Host.Outcome State Fault Refusal :=
  let x := bits val 0 6
  let row := bits val 8 6
  if !s.privReq r || !bit val 31 || s.on TILE_SPARE_STATUS_PENDING then .next s
  else if s.get (TILE_SPARE_MAP_SUB_ROW x) = row then .next (s.put TILE_SPARE_STATUS_RESULT stOK)
  else if !s.spareFree x then .next (s.put TILE_SPARE_STATUS_RESULT stBUSY)
  else
    .next ({ s with til := { s.til with
      spareAt := s.til.spareAt ++ [(x, row)]
      bypassAt := if bit val 16 then s.til.bypassAt ++ [(x, row)] else s.til.bypassAt
      spareCmd := true } }.put TILE_SPARE_STATUS_PENDING 1)

/-- Count a second fault (R562). -/
def State.secondFault (s : State) : State :=
  (s.bump PWR_REL_SECOND_FAULTS_VAL).raise PWR_REL_EVENT_SECOND_FAULT

/-- The hole signals of the weft skeins of tile `t` that are busy, whose handles then deliver no status
(R563); only a die whose manager pair lives writes them. -/
def State.weftHoles (s : State) (t : Nat) : State :=
  let k := (s.tile t).w
  let busy := k.handles.filter fun h => h.2.state != 6
  let s1 := if s.til.mgrLost.contains (t / 1024) then s else busy.foldl (fun s (h : Nat × Skein) =>
    if h.2.signal then
      let g := Skein.holeSig t .W h.1 h.2 stHOLE (s.get PICK_NUMBER_NUMBER)
      (s.cqForce h.2.queue g).countHole g
    else s) s
  s1.setTile t { s1.tile t with w := { (s1.tile t).w with
    handles := (s1.tile t).w.handles.filter fun h => h.2.state == 6 } }

/-- Every started entry of the queues of instance `i` completes with ABORTED (R563). -/
def State.abortRings (s : State) (i : Nat) : State :=
  (s.rings.queues.filter fun p => p.1 / 4096 == i).foldl (fun s p =>
    p.2.started.foldl (fun s e => s.complete i (p.1 % 4096) e.slot stABORTED 0) s) s

/-- What becomes of the role of a FAILED tile (R563): a service role moves at the next wall to a SPARE-role
tile, which one the spec leaves open; with none it is lost, and so are the entries of a last HOSTQ tile. -/
def State.failRole (s : State) (t : Nat) : State :=
  if !isService (s.roleOf t) then s
  else match s.takers t with
    | [] => if s.roleOf t = 2 && !s.otherHostq t then s.abortRings (s.instOfTile t) else s
    | us =>
      let u := us.getD (Config.freeNat s.free % us.length) 0
      { s.tick with til := { s.til with moves := s.til.moves ++ [(t, u)] } }

/-- Tile `t` becomes FAILED (R124, R562, R563). -/
def State.failTile (s : State) (t : Nat) : State :=
  let s1 := (s.put (TILE_STATE_STATE t) 7).setReg (TILE_FAILED (t / 64))
    (s.reg (TILE_FAILED (t / 64)) ||| 2 ^ (t % 64))
  let s2 := (s1.raise TILE_DEV_EVENT_SPARE_EXHAUSTED).secondFault
  let s3 := match (s2.tile t).assign with
    | some ⟨_, _, _, _, _, some (i, slot)⟩ => s2.complete i 0 slot stBUSY 0
    | _ => s2
  ((s3.setTile t { s3.tile t with assign := none }).weftHoles t).failRole t

/-- The manager pair of a die after a fault in its tile `t` (R555, R564); a trial image that it runs is reverted (R561). -/
def State.pairFault (s : State) (t : Nat) : State :=
  let d := t / 1024
  let active := (t % 1024 = 1) == s.til.mgrSwap.contains d
  if !s.isManager t then s
  else
    let s1 : State :=
      if !active then
        { s with til := { s.til with mgrAlone := if s.til.mgrAlone.contains d then s.til.mgrAlone else d :: s.til.mgrAlone } }
      else if s.til.mgrAlone.contains d then
        { s.secondFault with til := { s.til with mgrLost := d :: s.til.mgrLost } }
      else
        { s with til := { s.til with
          mgrAlone := d :: s.til.mgrAlone
          mgrSwap := if s.til.mgrSwap.contains d then s.til.mgrSwap.filter (· != d) else d :: s.til.mgrSwap } }.raise
          PWR_REL_EVENT_TAKEOVER
    if s1.slotState s1.runSlot = 2 then s1.fwRevert else s1

/-- The tile one row below the position of `t`, whose mirror the router there holds, loses it (R549, R554). -/
def State.routerMirror (s : State) (t : Nat) : State :=
  let p := s.phys t
  match s.logicalAt p.1 ((p.2 + 64) % 65) with
  | some u => s.loseMirror u
  | none => s

/-- A fault of tile `t` is detected (R551, R552, R554, R562, R564): it stops, and is spared at the wall from
its mirror, or without state when it has none, or fails. -/
def State.tileFault (s : State) (t : Nat) (router : Bool) : State :=
  let x := homeOf t
  if 4096 ≤ t || (s.tile t).down || s.get (TILE_STATE_STATE t) = 7 then s
  else
    let s1 := s.pairFault t
    if s1.til.mgrLost.contains (t / 1024) then
      let s2 := s1.setTile t { s1.tile t with down := true }
      if s.til.mgrLost.contains (t / 1024) then s2.secondFault else s2
    else if !s1.spareFree x.1 then s1.failTile t
    else
      let s2 := if s1.unmirrored t then
          let s3 := s1.secondFault.weftHoles t
          let k := s3.tile t
          s3.setTile t { k with down := true, fresh := true, s := {}, w := {}, topk := {}, inq := [], rmq := [] }
        else s1.setTile t { s1.tile t with down := true, restoring := true }
      let s4 := { s2 with til := { s2.til with
        spareAt := s2.til.spareAt ++ [x]
        bypassAt := if router then s2.til.bypassAt ++ [s2.phys t] else s2.til.bypassAt } }
      if router then s4.routerMirror t else s4

/-- TILE_FAULT_DETECT (R551, R554): a parity error, an uncorrectable local-store error or a router fault. -/
def execTileFaultDetect (t : Nat) (router : Bool) (s : State) : Host.Outcome State Fault Refusal :=
  .next (s.tileFault t router)

/-- TILE_WATCHDOG_EXPIRY (R551): a RUNNING tile, not blocked under Table 4.6, that issued nothing for 2^16
cc. -/
def execTileWatchdogExpiry (t : Nat) (s : State) : Host.Outcome State Fault Refusal :=
  if s.runs t .S || s.runs t .W then .next (s.tileFault t false) else .next s

/-- TILE_RESTORE_COMPLETE (R552): the copy of the mirror image into the spare ends. -/
def execTileRestoreComplete (t : Nat) (s : State) : Host.Outcome State Fault Refusal :=
  if (s.tile t).restoring then
    .next ((s.setTile t { s.tile t with restoring := false }).raise PWR_REL_EVENT_TILE_RESTORED)
  else .next s

/-- MIRROR_ERROR (R550): an error in a mirror store or link; the tile is unmirrored until a new copy ends. -/
def execMirrorError (t : Nat) (s : State) : Host.Outcome State Fault Refusal :=
  if 4096 ≤ t || s.unmirrored t then .next s
  else .next ({ s with til := { s.til with recopy := t :: s.til.recopy } }.loseMirror t)

/-- MIRROR_RECOPY_COMPLETE (R550): the background copy of a live tile to its mirror ends. -/
def execMirrorRecopyComplete (t : Nat) (s : State) : Host.Outcome State Fault Refusal :=
  if s.til.recopy.contains t then
    .next ({ s with til := { s.til with recopy := s.til.recopy.filter (· != t) } }.setReg
      (PWR_REL_UNMIRRORED (t / 64)) (clearMask (s.reg (PWR_REL_UNMIRRORED (t / 64))) (2 ^ (t % 64))))
  else .next s

/-- MANAGER_PARTNER_READY (R555): the spared tile has copied the active manager's state and becomes the
partner. -/
def execManagerPartnerReady (d : Nat) (s : State) : Host.Outcome State Fault Refusal :=
  let ok (t : Nat) : Bool := !(s.tile t).down && s.get (TILE_STATE_STATE t) != 7
  if s.til.mgrAlone.contains d && !s.til.mgrLost.contains d && ok (1024 * d) && ok (1024 * d + 1) then
    .next ({ s with til := { s.til with mgrAlone := s.til.mgrAlone.filter (· != d) } }.raise
      PWR_REL_EVENT_PARTNER_READY)
  else .next s

/-! ### At a wall -/

/-- One map entry changes (R123, R552, R553, Table 18.3). -/
def State.spareOne (s : State) (p : Nat × Nat) : State :=
  let t := logicalOf p.1 p.2
  let s1 := ((s.put (TILE_SPARE_MAP_SUB_ROW p.1) p.2).raise (TILE_STATE_SPARED t)).raise TILE_DEV_EVENT_SPARED
  let x := s1.tile t
  let s2 := if x.fresh then
      ((s1.setTile t { x with down := false }).clearTile t x.entry).put (TILE_STATE_STATE t) 3
    else s1.setTile t { x with down := false, restoring := x.restoring || !x.down }
  if s2.bypassed p.1 0 then s2.loseMirror t else s2

/-- A service role moves to its new tile with the mirrored state (R563, R126). -/
def State.moveRole (s : State) (m : Nat × Nat) : State :=
  let s1 := ((s.put (TILE_ROLE_ROLE m.2) (s.roleOf m.1)).put (TILE_ROLE_EPOCH m.2)
    ((s.get (TILE_ROLE_EPOCH m.2) + 1) % 256)).put (TILE_ROLE_ROLE m.1) 0
  let s2 := s1.setTile m.2 { s1.tile m.1 with down := false, restoring := false }
  let cells := s2.mem.filter fun c => localPa m.1 0 ≤ c.1 && c.1 < localPa m.1 0x30000
  let s3 := cells.foldl (fun s c => s.setByte (c.1 - localPa m.1 0 + localPa m.2 0) c.2)
    (s2.loadStore m.2 [])
  s3.put (TILE_STATE_STATE m.2) (if (s2.tile m.2).fresh then 3 else 5)

/-- The map entries, bypasses and role moves that wait for the wall take effect (R123, R125, R563). -/
def State.spareWall (s : State) : State :=
  let s1 := s.til.spareAt.foldl (fun s p => s.spareOne p) s
  let s2 := s.til.bypassAt.foldl (fun s p =>
    (s.setReg (TILE_BYPASS p.2) (s.reg (TILE_BYPASS p.2) ||| 2 ^ p.1)).raise TILE_DEV_EVENT_BYPASSED) s1
  let s3 := if s.til.spareCmd then
      (s2.put TILE_SPARE_STATUS_PENDING 0).put TILE_SPARE_STATUS_RESULT stOK else s2
  let s4 := s.til.moves.foldl (fun s m => s.moveRole m) s3
  { s4 with til := { s4.til with spareAt := [], bypassAt := [], spareCmd := false, moves := [] } }

end Sys2Proof.Machine
end

