-- ==== Sys2Proof/Machine/Pick.lean ====
section
/-! DEFINITION. The pick clock and the warp domain (02_pick_and_warp.md R61 to R64, R97 to R109): sync symbols,
the domain states, references and wall time. -/
namespace Sys2Proof.Machine
open Sys2Proof

/-! ### Small facts -/

/-- The domain state of Table 2.9: 0 OFF, 1 LISTEN, 2 ACQUIRE, 3 LOCKED, 4 MEMBER, 5 HOLDOVER. -/
def State.domState (s : State) : Nat := s.get PICK_STATUS_STATE

/-- The adapter is the master of its domain (R102, R105). -/
def State.isMaster (s : State) : Bool := s.on PICK_STATUS_IS_MASTER

/-- Scheduled programs, cells and receive records act (R104). -/
def State.domOn (s : State) : Bool := s.domState == 4 || s.domState == 5

/-- The last cycle of a pick (R63). -/
def State.edge (s : State) : Nat := s.warp.period * 125 - 1

/-- The number of the pick. -/
def State.pick (s : State) : Nat := s.get PICK_NUMBER_NUMBER

/-- Lane `l` carries traffic (Table 13.3). -/
def State.laneUp (s : State) (l : Nat) : Bool :=
  s.get (LNK_LANE_STATE l) == 2 || s.get (LNK_LANE_STATE l) == 4

/-- Group `g` is a cage enabled in the accelerator-attach role (R431). -/
def State.attachOn (s : State) (g : Nat) : Bool := s.on (LNK_CAGE_CFG_ENABLE g) && s.on (LNK_CAGE_CFG_ROLE g)

/-- The groups that carry sync symbols (R97). -/
def State.syncGroups (s : State) : List Nat :=
  match s.activeTable with
  | some t => (List.range 12).filter fun g => bit t.warpGroups g
  | none => (List.range 12).filter fun g => s.attachOn g

/-- The wall time moves on by `n` cycles of 0.5 ns (R108). -/
def State.elapse (s : State) (n : Nat) : State :=
  let h := s.dom.half + n
  let s1 := { s with time := s.time + n, dom := { s.dom with half := h % 2000000000 } }
  s1.put PICK_TOD_SEC_SEC (s.get PICK_TOD_SEC_SEC + h / 2000000000)

/-- The wall time becomes `sec` seconds and `half` half nanoseconds. -/
def State.setTod (s : State) (sec half : Nat) : State :=
  { s with dom := { s.dom with half := half % 2000000000 } }.put PICK_TOD_SEC_SEC sec

/-- A second written to PICK_TOD_SET starts; the battery-domain seconds counter takes it too (R108, R531). -/
def State.todLoad (s : State) (sec : Nat) : State :=
  { (s.setTod sec 0) with sec := { s.sec with secs := sec % 2 ^ 32, secsAt := s.time } }

/-- The battery-domain seconds counter (R531): the core counts 2 * 10^9 cycles a second. -/
def State.secsNow (s : State) : Nat := (s.sec.secs + (s.time - s.sec.secsAt) / 2000000000) % 2 ^ 32

/-! ### Sync symbols (R97 to R99, R103) -/

/-- The sync symbol for group `g` (Table 2.7). -/
def State.syncSymbol (s : State) (g : Nat) : List Byte :=
  let alert := s.on PICK_CTRL_ALERT || s.dom.alertOwn || s.dom.alertLeft != 0
  let b := ([0x5C, BitVec.ofNat 8 ((if alert then 128 else 0) + s.domState * 16 + s.get PICK_STATUS_HOPS)] :
      List Byte) ++ beBytes 2 (s.get PICK_SYNC_CFG_DOMAIN_ID) ++
    beBytes 3 (s.pick % 16 * 2 ^ 20 + mget 0 s.dom.rxOff g)
  b ++ [BitVec.ofNat 8 (crc8 b)]

/-- The adapter sends sync symbols: in ACQUIRE or higher, and in ACQUIRE only from the first pick after the
phase step (R97). -/
def State.sendsSync (s : State) : Bool :=
  2 ≤ s.domState && (s.domState != 2 || s.isMaster || (s.dom.stepped && s.dom.estimate != 0))

/-- SYNC_SYMBOL_SEND (R97): the sync symbol goes out on every lane that is up of the groups of R97. -/
def execSyncSymbolSend (s : State) : Host.Outcome State Fault Refusal :=
  if s.sendsSync then
    let ls := s.syncGroups.flatMap fun g => (List.range 8).map fun k => (g, 8 * g + k)
    let out := ls.foldl (fun m p => if s.laneUp p.2 then tput m p.2 (s.syncSymbol p.1) else m) s.warp.lane
    .next { s with warp := { s.warp with lane := out } }
  else .next s

/-- The fields of a received sync symbol whose CRC is right: ALERT, state, hops, domain, pick bits and
PEER_RX_OFFSET (Table 2.7). -/
structure SyncSym where
  alert : Bool
  state : Nat
  hops : Nat
  domain : Nat
  pick : Nat
  off : Int
  deriving DecidableEq, Repr

/-- Read a symbol; none where its code or CRC is wrong. -/
def readSync (b : List Byte) : Option SyncSym :=
  if b.length = 8 && byteAt b 0 = 0x5C && byteAt b 7 = crc8 (b.take 7) then
    let w := beAt b 4 3
    some ⟨bit (byteAt b 1) 7, bits (byteAt b 1) 4 3, byteAt b 1 % 16, beAt b 2 2, w / 2 ^ 20, sgn 20 w⟩
  else none

/-- A frequency correction held within ±50 ppm, in units of 2^-40 (R98). -/
def clampAdj (x : Int) : Int := max (-54975581) (min x 54975581)

/-- A step of the frequency correction that the spec leaves open: at most 0.1 ppm, and the whole within
±50 ppm (R98). -/
def State.servoStep (s : State) : State :=
  let d : Int := (Config.freeNat s.free % 219903 : Nat) - 109951
  s.tick.put PICK_FREQ_ADJ_ADJ (wrapI 32 (clampAdj (sgn 32 (s.get PICK_FREQ_ADJ_ADJ) + d)))

/-- Half of `x`; where it is odd, the spec does not say which neighbour the register shows: a free value. -/
def State.half (s : State) (x : Int) : State × Int :=
  if x % 2 = 0 then (s, x / 2) else (s.tick, x / 2 + (Config.freeNat s.free % 2 : Nat))

/-- The offset and the link delay measured from a parent's symbol (R98). -/
def State.measure (s : State) (g : Nat) (y : SyncSym) (a : Int) : State × Int :=
  let r := s.half (y.off - a - sgn 32 (s.get (PICK_LINK_ASYM_ASYM g)))
  let q := r.1.half (a + y.off)
  ((q.1.put PICK_OFFSET_THETA (wrapI 32 r.2)).put PICK_OFFSET_DELAY (wrapI 32 q.2), r.2)

/-- The adapter goes to LISTEN and forgets what it measured (R104). -/
def State.toListen (s : State) : State :=
  let d := { s.dom with
    count := 0, stepped := false, servo := false, estimate := 0, good := 0, lost := 0, lostAll := 0,
    holdSlots := 0 }
  (({ s with dom := d }.put PICK_STATUS_STATE 1).put PICK_STATUS_ACTIVE_PARENT
    (s.get PICK_SYNC_CFG_PARENT)).put PICK_STATUS_HOLDOVER_US 0

/-- A symbol in LISTEN (R99): `t` is its arrival time in units of 62.5 ps. -/
def State.listenSym (s : State) (y : SyncSym) (t : Int) : State :=
  let d := s.dom
  if y.domain != s.get PICK_SYNC_CFG_DOMAIN_ID || y.state != 4 || 7 < y.hops then
    { s with dom := { d with count := 0 } }
  else
    let next := { d with bitsOf := y.pick, at_ := t, hopsParent := y.hops }
    let off := t - d.at_ - d.interval
    if d.count = 0 || y.pick != (d.bitsOf + 1) % 16 ||
        (2 ≤ d.count && 512000000 + 25 * d.interval < 1000000 * (if off < 0 then -off else off)) then
      { s with dom := { next with count := 1 } }
    else
      { s with dom := { next with
        count := d.count + 1
        interval := if d.count = 1 then t - d.at_ else d.interval } }

/-- A valid symbol of the active parent, arrival offset `a` (R98, R104). -/
def State.parentSym (s : State) (g : Nat) (y : SyncSym) (a : Int) : State :=
  let m := s.measure g y a
  let th := m.2
  let abs := if th < 0 then -th else th
  let s1 := ({ m.1 with dom := { m.1.dom with parentSeen := true, hopsParent := y.hops, thetaParent := th }
    }.put PICK_STATUS_HOPS (y.hops + 1)).put PICK_STATUS_ACTIVE_PARENT g
  let s2 := if s1.dom.servo then s1.servoStep else s1
  if s.domState = 5 then
    if abs ≤ 64 then
      { s2 with dom := { s2.dom with holdSlots := 0, lost := 0, lostAll := 0 } }.put PICK_STATUS_STATE 4 |>.put
        PICK_STATUS_HOLDOVER_US 0
    else s2.toListen.raise PICK_EVENT_DOMAIN_LOST
  else s2.raiseIf (s.domState == 4 && 32 < abs) PICK_EVENT_OFFSET_ALARM

/-- SYNC_SYMBOL_RECEIVE (R98, R99, R103): the symbol `b` arrives on group `g` at offset `a` from the
adapter's own slot-0 start and at time `t`, both in units of 62.5 ps; `onTime`: within ±32 ns of the
predicted time. -/
def execSyncSymbolReceive (g : Nat) (b : List Byte) (a t : Int) (onTime : Bool) (s : State) :
    Host.Outcome State Fault Refusal :=
  match readSync b with
  | none => .next (if s.domState = 1 && g = s.get PICK_SYNC_CFG_PARENT then
      { s with dom := { s.dom with count := 0 } } else s)
  | some y =>
    let mine := y.domain == s.get PICK_SYNC_CFG_DOMAIN_ID
    let s1 := { s with dom := { s.dom with rxOff := tput s.dom.rxOff g (satI 20 a) } }
    let s2 := if mine && y.alert then
        ({ s1 with dom := { s1.dom with alertLeft := 16 } }.raise PICK_EVENT_ALERT_RX).raise
          PICK_STATUS_ALERT_SEEN
      else s1
    let parent := s2.get PICK_SYNC_CFG_PARENT
    let alt := s2.get PICK_SYNC_CFG_ALT_PARENT
    if s2.domState = 0 || s2.isMaster then .next s2
    else if s2.domState = 1 then .next (if g = parent then s2.listenSym y t else s2)
    else
      let valid := mine && y.state == 4 && y.hops ≤ 7 && onTime &&
        y.pick == (s2.pick + (if a < 0 then 1 else 0)) % 16
      if !valid || (g != parent && g != alt) then .next s2
      else if g = s2.get PICK_STATUS_ACTIVE_PARENT || s2.domState = 5 then .next (s2.parentSym g y a)
      else .next { s2 with dom := { s2.dom with altSeen := true, hopsAlt := y.hops } }

/-! ### Domain states (R101, R102, R104, R105) -/

/-- LISTEN_ACQUIRE (R104): 16 consecutive valid parent symbols take LISTEN to ACQUIRE. -/
def execListenAcquire (s : State) : Host.Outcome State Fault Refusal :=
  if s.domState = 1 && 16 ≤ s.dom.count then
    .next ((s.put PICK_STATUS_STATE 2).put PICK_STATUS_HOPS (s.dom.hopsParent + 1))
  else .next s

/-- ACQUIRE_EXCHANGE_COMPLETE (R105, R108): the reply gives the parent's pick number, its pick-relative cycle
and its wall time; the adapter steps its phase and pick number once. -/
def execAcquireExchangeComplete (pick cyc sec half : Nat) (s : State) : Host.Outcome State Fault Refusal :=
  if s.domState = 2 && !s.isMaster && !s.dom.stepped then
    .next (({ s with
      cyc := cyc % (s.warp.period * 125)
      dom := { s.dom with stepped := true } }.put PICK_NUMBER_NUMBER pick).setTod sec half)
  else .next s

/-- FREQUENCY_ESTIMATE_DONE (R105): after 1,024 picks the servo starts from the estimate `adj`. -/
def execFrequencyEstimateDone (adj : Int) (s : State) : Host.Outcome State Fault Refusal :=
  if s.domState = 2 && 1024 ≤ s.dom.estimate && !s.dom.servo then
    .next ({ s with dom := { s.dom with servo := true, good := 0 } }.put PICK_FREQ_ADJ_ADJ
      (wrapI 32 (clampAdj adj)))
  else .next s

/-- LOCK_ACQUIRED (R104): 256 consecutive walls with |θ| ≤ 1 ns take ACQUIRE to LOCKED. -/
def execLockAcquired (s : State) : Host.Outcome State Fault Refusal :=
  if s.domState = 2 && 256 ≤ s.dom.good then .next (s.put PICK_STATUS_STATE 3) else .next s

/-- PARENT_LOSS (R101, R104): no valid parent symbol at 2 consecutive walls: a member takes its alternate
parent, or enters HOLDOVER; a LOCKED adapter goes back to LISTEN. -/
def execParentLoss (s : State) : Host.Outcome State Fault Refusal :=
  if s.isMaster || s.dom.lost < 2 then .next s
  else if s.domState = 3 then .next s.toListen
  else if s.domState = 4 then
    let p := s.get PICK_SYNC_CFG_PARENT
    let other := if s.get PICK_STATUS_ACTIVE_PARENT = p then s.get PICK_SYNC_CFG_ALT_PARENT else p
    if s.dom.altOk then
      .next ((({ s with dom := { s.dom with lost := 0, altOk := false } }.put PICK_STATUS_ACTIVE_PARENT
        other).put PICK_STATUS_HOPS (s.dom.hopsAlt + 1)).raise PICK_EVENT_PARENT_SWITCH)
    else
      .next (({ s with dom := { s.dom with holdSlots := 0 } }.put PICK_STATUS_STATE 5).raise
        PICK_EVENT_HOLDOVER)
  else .next s

/-- SUCCESSOR_TAKEOVER (R102): a SUCCESSOR without a valid parent at 4 consecutive walls becomes master, with
hop count 0 and no step. -/
def execSuccessorTakeover (s : State) : Host.Outcome State Fault Refusal :=
  if s.get PICK_SYNC_CFG_ROLE = 2 && s.domOn && !s.isMaster && 4 ≤ s.dom.lostAll then
    .next ((((({ s with dom := { s.dom with succeeded := true, holdSlots := 0 } }.put PICK_STATUS_STATE 4).put
      PICK_STATUS_IS_MASTER 1).put PICK_STATUS_HOPS 0).put PICK_STATUS_ACTIVE_PARENT 0xF).put
      PICK_STATUS_HOLDOVER_US 0 |>.raise PICK_EVENT_SUCCESSOR_TOOK_OVER)
  else .next s

/-- HOLDOVER_LIMIT_EXPIRY (R104): the limit passes, and the adapter leaves HOLDOVER for LISTEN. -/
def execHoldoverLimitExpiry (s : State) : Host.Outcome State Fault Refusal :=
  if s.domState = 5 then .next (s.toListen.raise PICK_EVENT_DOMAIN_LOST) else .next s

/-- The domain part of a wall (R101 to R105): JOIN takes effect, and the walls of the counts pass. -/
def State.domWall (s : State) : State :=
  let d := s.dom
  let st := s.domState
  let th := sgn 32 (s.get PICK_OFFSET_THETA)
  let small := -16 ≤ th && th ≤ 16
  let d1 := { d with
    lost := if d.parentSeen then 0 else d.lost + 1
    lostAll := if d.parentSeen || d.altSeen then 0 else d.lostAll + 1
    altOk := d.altSeen, parentSeen := false, altSeen := false
    estimate := if st == 2 && (d.stepped || s.isMaster) && !d.servo then d.estimate + 1 else d.estimate
    good := if st == 2 && d.servo then (if small then d.good + 1 else 0) else d.good
    alertLeft := d.alertLeft - 1
    holdSlots := if st == 5 then d.holdSlots + s.warp.period else 0 }
  let s1 := ({ s with dom := d1 }.put PICK_STATUS_ALERT_SEEN (if d1.alertLeft = 0 then 0 else 1)).put
    PICK_STATUS_HOLDOVER_US (if st = 5 then min 65535 (d1.holdSlots / 16) else 0)
  if !s1.on PICK_CTRL_JOIN then
    if st = 0 then s1
    else ({ s1.toListen with dom := { s1.toListen.dom with succeeded := false } }.put PICK_STATUS_STATE 0).put
      PICK_STATUS_ACTIVE_PARENT 0xF |>.put PICK_STATUS_HOPS 0 |>.put PICK_STATUS_IS_MASTER 0
  else if st = 0 then
    let s2 := s1.toListen
    if s.get PICK_SYNC_CFG_ROLE = 1 then
      let s3 := ({ s2 with dom := { s2.dom with aligned := false } }.put PICK_STATUS_STATE 2).put
        PICK_STATUS_IS_MASTER 1 |>.put PICK_STATUS_ACTIVE_PARENT 0xF |>.put PICK_STATUS_HOPS 0 |>.setReg PICK_OFFSET 0
      if s.get PICK_SYNC_CFG_REF_SEL != 0 && !s.on PICK_STATUS_REF_OK then s3.raise PICK_EVENT_REF_LOST else s3
    else s2
  else if st = 5 && s.get PICK_HOLDOVER_LIMIT_LIMIT_US = 0 then s1.toListen.raise PICK_EVENT_DOMAIN_LOST
  else s1

/-! ### References and wall time (R105, R107 to R110) -/

/-- PPS_EDGE (R107, R108): with the 1 PPS reference, a written second starts; a master in ACQUIRE aligns a
wall with the edge once. -/
def execPpsEdge (s : State) : Host.Outcome State Fault Refusal :=
  if s.get PICK_SYNC_CFG_REF_SEL != 1 then .next s
  else
    let s1 := match s.dom.todNext with
      | some sec => State.todLoad { s with dom := { s.dom with todNext := none } } sec
      | none => s
    if s1.isMaster && s1.domState = 2 && s1.on PICK_STATUS_REF_OK && !s1.dom.aligned then
      .next { s1 with cyc := 0, dom := { s1.dom with aligned := true } }
    else .next s1

/-- REFERENCE_LOSS (R107): the master records the loss and keeps its last frequency. -/
def execReferenceLoss (s : State) : Host.Outcome State Fault Refusal :=
  if s.on PICK_STATUS_REF_OK then
    .next ((s.put PICK_STATUS_REF_OK 0).raiseIf s.isMaster PICK_EVENT_REF_LOST)
  else .next s

/-- REFERENCE_RETURN (R105): the selected reference is present again; the master steers toward it without a
phase step. -/
def execReferenceReturn (s : State) : Host.Outcome State Fault Refusal :=
  if s.get PICK_SYNC_CFG_REF_SEL = 0 then .next s
  else
    let s1 := s.put PICK_STATUS_REF_OK 1
    .next (if s.isMaster then s1.servoStep else s1)

/-- PTP_MESSAGE_RECEIVE (R109): an event message arrives at time `t`, in units of 62.5 ps; a master with
REF_SEL 2 adjusts its frequency within the limits of R98. -/
def execPtpMessageReceive (t : Nat) (s : State) : Host.Outcome State Fault Refusal :=
  let s1 := { s with dom := { s.dom with ptpAt := t } }
  if s.isMaster && s.get PICK_SYNC_CFG_REF_SEL = 2 then .next s1.servoStep else .next s1

/-- PICK_TOD_SEC_READ (R110): the seconds, and the matching nanoseconds latched. -/
def execPickTodSecRead (s : State) : Host.Outcome State Fault Refusal :=
  .next ({ s with bus := { s.bus with rdata := s.get PICK_TOD_SEC_SEC } }.put PICK_TOD_NS_NS (s.dom.half / 2))

/-- PICK_TOD_SET (R108, R110): the seconds take effect at the next PPS edge under REF_SEL 1, otherwise at
once with 0 ns. -/
def execPickTodSet (r : Requester) (sec : Nat) (s : State) : Host.Outcome State Fault Refusal :=
  if !s.privReq r then .next s
  else if s.get PICK_SYNC_CFG_REF_SEL = 1 then
    .next { s with dom := { s.dom with todNext := some (sec % 2 ^ 48) } }
  else .next (s.todLoad (sec % 2 ^ 48))

end Sys2Proof.Machine
end

