-- ==== Sys2Proof/Machine/Warp.lean ====
section
/-! DEFINITION. The warp table and its cells (02_pick_and_warp.md R65 to R91, 13_links_mac_fabric.md R431, R444):
the image and its checks, the banks, sending and receiving cells, deadlines and LATE records. -/
namespace Sys2Proof.Machine
open Sys2Proof

/-! ### Records and descriptors (R72 to R74) -/

/-- The lane position of data lane index `k` beside parity lane `p` (R73). -/
def lanePos (p k : Nat) : Nat := if k < p then k else k + 1

/-- KIND of a lane entry. -/
def entryKindOf (e : Nat) : Nat := e / 2 ^ 14

/-- Descriptor index of a lane entry. -/
def entryDesc (e : Nat) : Nat := e % 2 ^ 14

/-- The lane entries of a list of records, in slot order and lane order: (slot, lane index, entry). -/
def laneEntries (l : List SlotRec) : List (Nat × Nat × Nat) :=
  l.flatMap fun r => r.lanes.zipIdx.map fun p => (r.slot, p.2, p.1)

/-- The cells of the stream of descriptor `d`: (slot, lane index), cell 0 first (R74). -/
def streamCells (l : List SlotRec) (d : Nat) : List (Nat × Nat) :=
  ((laneEntries l).filter fun e => entryKindOf e.2.2 == 1 && entryDesc e.2.2 == d).map fun e => (e.1, e.2.1)

/-- The lane entry of `slot` at lane index `k`. -/
def entryAt (l : List SlotRec) (slot k : Nat) : Option Nat :=
  (l.find? fun r => r.slot == slot).map fun r => r.lanes.getD k 0

/-- CELL_INDEX of the cell of descriptor `d` at (slot, k) (R74). -/
def cellIndex (l : List SlotRec) (d slot k : Nat) : Nat := (streamCells l d).findIdx (· == (slot, k))

/-- Cells in a stream of `n` bytes. -/
def cellsOf (n : Nat) : Nat := ceilDiv n 1472

/-- Bytes of cell `k` of a stream of `n` bytes. -/
def cellLen (n k : Nat) : Nat := min 1472 (n - k * 1472)

/-! ### Parsing an image (Tables 2.2 to 2.5) -/

/-- The slot record at offset `o`. -/
def parseRec (img : List Byte) (o : Nat) : SlotRec :=
  ⟨leAt img o 2, (List.range 7).map fun k => leAt img (o + 2 + 2 * k) 2⟩

/-- The transmit descriptor at offset `o`. -/
def parseTx (img : List Byte) (o : Nat) : TxDesc :=
  ⟨byteAt img o, byteAt img (o + 1), leAt img (o + 2) 2 % 4096, leAt img (o + 4) 2, leAt img (o + 6) 2,
    leAt img (o + 8) 4, leAt img (o + 12) 4, leAt img (o + 16) 8, leAt img (o + 24) 2 % 4096⟩

/-- The receive descriptor at offset `o`. -/
def parseRx (img : List Byte) (o : Nat) : RxDesc :=
  ⟨byteAt img o, byteAt img (o + 1), leAt img (o + 2) 2, leAt img (o + 4) 4, leAt img (o + 8) 4,
    leAt img (o + 12) 4, bits (leAt img (o + 16) 8) 0 57, leAt img (o + 24) 2 % 4096, leAt img (o + 26) 2⟩

/-- The four counts of the group section at `o`: transmit and receive records, transmit and receive
descriptors. -/
def groupCounts (img : List Byte) (o : Nat) : Nat × Nat × Nat × Nat :=
  (leAt img (o + 4) 4, leAt img (o + 8) 4, leAt img (o + 2) 2, leAt img (o + 12) 2)

/-- Bytes of the group section at `o` (R76). -/
def groupBytes (img : List Byte) (o : Nat) : Nat :=
  let c := groupCounts img o
  32 + 16 * (c.1 + c.2.1) + 64 * (c.2.2.1 + c.2.2.2)

/-- Offsets of the transmit records, receive records, transmit and receive descriptors of the section at
`o`. -/
def groupOffs (img : List Byte) (o : Nat) : Nat × Nat × Nat × Nat :=
  let c := groupCounts img o
  (o + 32, o + 32 + 16 * c.1, o + 32 + 16 * (c.1 + c.2.1), o + 32 + 16 * (c.1 + c.2.1) + 64 * c.2.2.1)

/-- The group section at `o`, which lies inside the image. -/
def parseGroup (img : List Byte) (o : Nat) : GroupSec :=
  let c := groupCounts img o
  let f := groupOffs img o
  ⟨min 7 (byteAt img o), leAt img (o + 14) 2,
    (List.range c.1).map fun r => parseRec img (f.1 + 16 * r),
    (List.range c.2.1).map fun r => parseRec img (f.2.1 + 16 * r),
    (List.range c.2.2.1).map fun d => parseTx img (f.2.2.1 + 64 * d),
    (List.range c.2.2.2).map fun d => parseRx img (f.2.2.2 + 64 * d)⟩

/-- The offset of table header `i`, and of group `g`'s section in it (Table 2.3). -/
def tableOff (img : List Byte) (i : Nat) : Nat := leAt img 20 4 + 64 * i

def groupOff (img : List Byte) (i g : Nat) : Nat := leAt img (tableOff img i + 16 + 4 * g) 4

/-- Whether group `g` of table `i` has a section that lies inside the image. -/
def groupIn (img : List Byte) (i g : Nat) : Bool :=
  groupOff img i g != 0 && bit (leAt img (tableOff img i + 2) 2) g &&
    groupOff img i g + 32 ≤ img.length && groupOff img i g + groupBytes img (groupOff img i g) ≤ img.length

/-- Table `i` of the image. -/
def parseTable (img : List Byte) (i : Nat) : WTable :=
  ⟨i, leAt img (tableOff img i + 2) 2 % 4096, leAt img (tableOff img i + 4) 12,
    ((List.range 12).filter fun g => groupIn img i g).map fun g => (g, parseGroup img (groupOff img i g))⟩

/-- The tables to look at: TABLE_COUNT, at most 5. -/
def imageTables (img : List Byte) : Nat := min 5 (byteAt img 6)

/-- The set that the image holds. -/
def parseSet (img : List Byte) : WarpSet :=
  ⟨leAt img 8 2, leAt img 10 2 % 8192, leAt img 12 4, leNat (sliceB img (leAt img 16 4) 512),
    (List.range (imageTables img)).map fun i => parseTable img i⟩

/-! ### The load checks (R75, Table 2.6) -/

/-- A failure: code, byte offset, table and group. -/
structure Failure where
  code : Nat
  off : Nat
  table : Nat
  group : Nat
  deriving DecidableEq, Repr

/-- One failure if `c`. -/
def failIf (c : Bool) (code off : Nat) (t : Nat := 0) (g : Nat := 0) : List Failure :=
  if c then [⟨code, off, t, g⟩] else []

/-- Whether any byte of [o, o + n) is non-zero. -/
def anyByte (img : List Byte) (o n : Nat) : Bool := (sliceB img o n).any (· != 0)

/-- Failures of the image header (Tables 2.2 and 2.6). -/
def State.headFails (s : State) (img : List Byte) : List Failure :=
  let n := img.length
  let crc := crc32c (sliceB img 0 60 ++ leBytes 4 0 ++ img.drop 64)
  failIf (n < 64 || leAt img 0 4 != 0x43575431) 1 0 ++ failIf (leAt img 4 2 != 1) 1 4 ++
    failIf (byteAt img 7 != 0) 1 7 ++ failIf (leAt img 10 2 / 2 ^ 13 != 0) 1 10 ++
    failIf (n < leAt img 16 4 + 512) 1 16 ++ failIf (n < leAt img 20 4 + 64 * imageTables img) 1 20 ++
    failIf (leAt img 24 4 != n) 1 24 ++ failIf (anyByte img 28 32) 1 28 ++ failIf (leAt img 60 4 != crc) 1 60 ++
    failIf (byteAt img 6 = 0 || 5 < byteAt img 6) 2 6 ++
    failIf (leAt img 12 4 < 16 || 65536 < leAt img 12 4) 2 12 ++
    failIf (leAt img 8 2 != s.get PICK_SYNC_CFG_DOMAIN_ID) 0x0B 8

/-- The fetch lead of a source kind, in cycles (R79). -/
def fetchLead (kind : Nat) : Nat := if kind = 2 then 500 else 64

/-- Failures of the slot records at `o`: `descs` descriptors, and for transmit records their kinds. -/
def recFails (p : Nat) (o : Nat) (l : List SlotRec) (descs : Nat) (tx : Option (List TxDesc)) (t g : Nat) :
    List Failure :=
  (l.zipIdx).flatMap fun r =>
    let ro := o + 16 * r.2
    let prev := if r.2 = 0 then none else l[r.2 - 1]?
    failIf ((match prev with
      | some q => r.1.slot ≤ q.slot
      | none => false) || p ≤ r.1.slot) 3 ro t g ++
    failIf (tx.isSome && (r.1.slot == 0 || r.1.lanes.any fun e => entryKindOf e == 1 &&
      r.1.slot * 125 < fetchLead (((tx.getD []).map (·.kind)).getD (entryDesc e) 1))) 4 ro t g ++
    failIf (r.1.lanes.any fun e => 2 ≤ entryKindOf e || (entryKindOf e == 1 && descs ≤ entryDesc e)) 5 ro t g

/-- Pieces of [va, va + n) that lie in one 64 KiB page each. -/
def pagePieces : Nat → Nat → Nat → List (Nat × Nat)
  | 0, _, _ => []
  | f + 1, va, n =>
    if n = 0 then []
    else
      let k := min n (65536 - va % 65536)
      (va, k) :: pagePieces f (va + k) (n - k)

/-- Whether [va, va + n) is fully mapped for the access and lies where check 0x07 allows: the instance's
near tier, and for a placement also the data stores of its own tiles (R81). -/
def State.rangeOk (s : State) (i a va n : Nat) (wr : Bool) : Bool :=
  (pagePieces (n / 65536 + 2) va n).all fun p =>
    match s.peek i a p.1 wr with
    | some pa => inside (s.nearRange i) pa p.2 ||
        (wr && match winOf pa with
          | some (t, off) => s.instOfTile t == i && inData off p.2
          | none => false)
    | none => false

/-- Failures of the transmit descriptor at `o`. -/
def State.txFails (s : State) (img : List Byte) (o t g : Nat) : List Failure :=
  let d := parseTx img o
  let asid := leAt img (o + 24) 2
  let rdy := leAt img (o + 2) 2
  let unused := match d.kind with
    | 1 => bits d.addr 44 20 != 0 || asid != 0 || rdy / 4096 != 0
    | 2 => bits d.addr 57 7 != 0 || asid / 4096 != 0 || rdy / 4096 != 0
    | 3 => bits d.addr 4 12 != 0 || bits d.addr 30 34 != 0 || asid != 0 || rdy != 0
    | _ => false
  let tile := bits d.addr 32 12
  let range := match d.kind with
    | 1 => s.instOfTile tile == d.inst && inData (d.addr % 2 ^ 32) d.len
    | 2 => s.rangeOk d.inst d.asid d.addr d.len false
    | _ => true
  failIf (unused || anyByte img (o + 26) 38) 1 o t g ++ failIf (d.kind = 0 || 3 < d.kind) 5 o t g ++
    failIf (d.len = 0) 6 o t g ++ failIf (s.nInst ≤ d.inst || !range) 7 o t g

/-- Failures of the receive descriptor at `o`. -/
def State.rxFails (s : State) (img : List Byte) (p o t g : Nat) : List Failure :=
  let d := parseRx img o
  failIf (anyByte img (o + 28) 36 || bits (leAt img (o + 16) 8) 57 7 != 0 || leAt img (o + 24) 2 / 4096 != 0)
      1 o t g ++
    failIf (d.kind = 0 || 2 < d.kind) 5 o t g ++ failIf (d.len = 0) 6 o t g ++
    failIf (s.nInst ≤ d.inst || (d.kind == 1 && !s.rangeOk d.inst d.asid d.place d.len true)) 7 o t g ++
    failIf (d.deadline = 0 || 2 * p < d.deadline) 0x0A o t g

/-- Failures of the forward descriptor `d` at `o`, in table `tb` (checks 0x05 and 0x0C). -/
def forwardFails (tb : WTable) (tx : List SlotRec) (d : TxDesc) (k o t g : Nat) : List Failure :=
  let src := bits d.addr 0 4
  let ri := bits d.addr 16 14
  if !bit tb.warpGroups src then failIf true 0x0C o t g
  else match tfind tb.groups src with
    | none => []
    | some sec =>
      match sec.rxd[ri]? with
      | none => failIf true 5 o t g
      | some r =>
        failIf (r.kind == 1 || r.len != d.len ||
          (streamCells tx k).any fun c => c.1 * 125 < 64 + (r.deadline * 125 - 1)) 0x0C o t g

/-- Failures of the group section of group `g` in table `i`. -/
def State.groupFails (s : State) (img : List Byte) (p i g : Nat) : List Failure :=
  let o := groupOff img i g
  let sec := parseGroup img o
  let f := groupOffs img o
  let tb := parseTable img i
  failIf (7 < byteAt img o || byteAt img (o + 1) != 0 || anyByte img (o + 16) 16) 1 o i g ++
    recFails p f.1 sec.tx sec.txd.length (some sec.txd) i g ++
    recFails p f.2.1 sec.rx sec.rxd.length none i g ++
    (sec.txd.zipIdx.flatMap fun d =>
      s.txFails img (f.2.2.1 + 64 * d.2) i g ++
      failIf ((streamCells sec.tx d.2).length != cellsOf d.1.len) 6 (f.2.2.1 + 64 * d.2) i g ++
      if d.1.kind = 3 then forwardFails tb sec.tx d.1 d.2 (f.2.2.1 + 64 * d.2) i g else []) ++
    (sec.rxd.zipIdx.flatMap fun d =>
      s.rxFails img p (f.2.2.2 + 64 * d.2) i g ++
      failIf ((streamCells sec.rx d.2).length != cellsOf d.1.len) 6 (f.2.2.2 + 64 * d.2) i g)

/-- Whether a record names a descriptor on a lane of the cover (check 0x09). -/
def coveredRec (cover g parity : Nat) (r : SlotRec) : Bool :=
  r.lanes.zipIdx.any fun e => entryKindOf e.1 == 1 && bit cover (8 * g + lanePos parity e.2)

/-- Failures of table `i`. -/
def State.tableFails (s : State) (img : List Byte) (p i : Nat) : List Failure :=
  let o := tableOff img i
  let mask := leAt img (o + 2) 2
  let cover := leAt img (o + 4) 12
  failIf (byteAt img o != i || byteAt img (o + 1) != 0 || mask / 4096 != 0) 1 o i 0 ++
    failIf (i = 0 && cover != 0) 9 (o + 4) 0 0 ++
    failIf (i != 0 && mask != leAt img (tableOff img 0 + 2) 2) 9 (o + 2) i 0 ++
    (List.range 12).flatMap fun g =>
      let go := groupOff img i g
      failIf ((go != 0) != bit mask g) 1 (o + 16 + 4 * g) i g ++
      failIf (bit mask g && !s.attachOn g) 0x0D (o + 2) i g ++
      if go = 0 || !bit mask g then []
      else if !groupIn img i g then failIf true 1 (o + 16 + 4 * g) i g
      else
        let sec := parseGroup img go
        let f := groupOffs img go
        s.groupFails img p i g ++
          failIf (i != 0 && groupIn img 0 g && byteAt img (groupOff img 0 g) != byteAt img go) 9 go i g ++
          (if i = 0 then [] else
            (sec.tx.zipIdx.flatMap fun r => failIf (coveredRec cover g sec.parity r.1) 9 (f.1 + 16 * r.2) i g) ++
            sec.rx.zipIdx.flatMap fun r => failIf (coveredRec cover g sec.parity r.1) 9 (f.2.1 + 16 * r.2) i g)

/-- Whether a role may lie in the scheduled set (Table 1.6). -/
def schedRole (r : Nat) : Bool := (4 ≤ r && r ≤ 7) || 0x100 ≤ r

/-- Failures of the scheduled set (check 0x08). -/
def State.schedFails (s : State) (img : List Byte) (p : Nat) : List Failure :=
  let o := leAt img 16 4
  let m := leNat (sliceB img o 512)
  (List.range 4096).flatMap fun t =>
    failIf (bit m t && (!schedRole (s.roleOf t) || (p - 1) * 125 ≤ s.wakeOffset t)) 8 (o + t / 8)

/-- Groups whose records and descriptors over all tables exceed 1 MiB (check 0x10). -/
def sizeFails (img : List Byte) : List Failure :=
  (List.range 12).flatMap fun g =>
    let ts := (List.range (imageTables img)).filter fun i => groupIn img i g
    let size := (ts.map fun i => groupBytes img (groupOff img i g)).sum
    failIf (2 ^ 20 < size) 0x10 (groupOff img (ts.headD 0) g) (ts.headD 0) g

/-- Every failure of the image. -/
def State.imageFails (s : State) (img : List Byte) : List Failure :=
  let p := leAt img 12 4
  let head := s.headFails img
  if img.length < leAt img 16 4 + 512 || img.length < leAt img 20 4 + 64 * imageTables img then head
  else head ++ ((List.range (imageTables img)).flatMap fun i => s.tableFails img p i) ++ s.schedFails img p ++
    sizeFails img

/-- The failure that comes first: lowest code, then lowest offset (R75). -/
def firstFail : List Failure → Option Failure
  | [] => none
  | f :: l => match firstFail l with
    | none => some f
    | some h => if h.code < f.code || (h.code = f.code && h.off < f.off) then some h else some f

/-! ### Banks (R84 to R88) -/

/-- The state of the shadow bank: 0 EMPTY, 1 LOADING, 2 VALID, 3 ARMED. -/
def State.shadow (s : State) : Nat := s.get WARP_STATUS_SHADOW_STATE

/-- SCHED_ARMED of the tiles that a set schedules becomes `v` (Table 3.8). -/
def State.markArmed (s : State) (w : WarpSet) (v : Nat) : State :=
  (List.range 4096).foldl (fun s t => if bit w.sched t then s.put (TILE_STATE_SCHED_ARMED t) v else s) s

/-- SCHED_ACTIVE of the tiles that a set schedules becomes `v` (Table 3.8). -/
def State.markActive (s : State) (w : WarpSet) (v : Nat) : State :=
  (List.range 4096).foldl (fun s t => if bit w.sched t then s.put (TILE_STATE_SCHED_ACTIVE t) v else s) s

/-- READY tiles of a set that are in no active and no armed scheduled set start (R134). -/
def State.startSet (s : State) (w : WarpSet) : State :=
  (List.range 4096).foldl (fun s t => if bit w.sched t then s.startReady t else s) s

/-- The shadow becomes EMPTY. -/
def State.emptyShadow (s : State) : State :=
  ({ s with warp := { s.warp with shadow := none } }.put WARP_STATUS_SHADOW_STATE 0).put WARP_STATUS_SHADOW_GEN 0

/-- WARP_LOAD (R84, R87, R110): WARP_CTRL.LOAD starts a load into an EMPTY or VALID shadow. -/
def execWarpLoad (r : Requester) (s : State) : Host.Outcome State Fault Refusal :=
  if !s.privReq r then .next s
  else if (s.shadow != 0 && s.shadow != 2) || s.on WARP_STATUS_TRAILING || s.on WARP_STATUS_ARMED_EMPTY then
    .next (s.put WARP_STATUS_LOAD_RESULT stBUSY)
  else .next (s.emptyShadow.put WARP_STATUS_SHADOW_STATE 1)

/-- The end of a load with a result and WARP_CHECK_ERR. -/
def State.loadEnd (s : State) (st err : Nat) : State :=
  ((s.put WARP_STATUS_LOAD_RESULT st).setReg WARP_CHECK_ERR err).raise WARP_EVENT_LOAD_DONE

/-- WARP_LOAD_COMPLETE (R75): the image is validated whole; the shadow becomes VALID, or EMPTY with the first
failure. -/
def execWarpLoadComplete (img : Option (List Byte)) (s : State) : Host.Outcome State Fault Refusal :=
  if s.shadow != 1 then .next s
  else if s.detached 0 then .next (s.emptyShadow.loadEnd stDETACHED 0)
  else
    match img with
    | none => .next (s.emptyShadow.loadEnd stACCESS 0)
    | some bs =>
      let b := sliceB bs 0 (s.get WARP_LOAD_LEN_LEN)
      match firstFail (s.imageFails b) with
      | some f => .next (s.emptyShadow.loadEnd (if f.code = 0x10 then stCAPACITY else stMALFORMED)
          (f.code + f.table * 2 ^ 8 + f.group * 2 ^ 12 + f.off * 2 ^ 16))
      | none =>
        let w := parseSet b
        .next ((({ s with warp := { s.warp with shadow := some w } }.put WARP_STATUS_SHADOW_STATE 2).put
          WARP_STATUS_SHADOW_GEN w.gen).loadEnd stOK 0)

/-- Whether WARP_SWAP_PICK is late enough to be armed (R85). -/
def State.swapInTime (s : State) : Bool := s.pick + 2 ≤ s.get WARP_SWAP_PICK_PICK

/-- WARP_ARM (R85): arms a swap of a VALID shadow at WARP_SWAP_PICK, or sets MISSED. -/
def execWarpArm (r : Requester) (s : State) : Host.Outcome State Fault Refusal :=
  if !s.privReq r then .next s
  else
    match s.shadow, s.warp.shadow with
    | 2, some w =>
      if s.swapInTime then
        .next (({ s with warp := { s.warp with swapPick := s.get WARP_SWAP_PICK_PICK } }.put
          WARP_STATUS_SHADOW_STATE 3).markArmed w 1)
      else .next (s.raise WARP_EVENT_MISSED)
    | _, _ => .next (s.raise WARP_EVENT_MISSED)

/-- Whether a DISARM still takes effect: before the edge cycle of the pick before the swap (R85). -/
def State.disarmInTime (s : State) : Bool :=
  s.pick + 1 < s.warp.swapPick || (s.pick + 1 == s.warp.swapPick && s.cyc < s.edge)

/-- WARP_DISARM (R85, R87): an ARMED shadow returns to VALID, or an ARM_EMPTY is cancelled. -/
def execWarpDisarm (r : Requester) (s : State) : Host.Outcome State Fault Refusal :=
  if !s.privReq r || !s.disarmInTime then .next s
  else if s.shadow = 3 then
    match s.warp.shadow with
    | some w => .next (((s.put WARP_STATUS_SHADOW_STATE 2).markArmed w 0).startSet w)
    | none => .next s
  else .next (s.put WARP_STATUS_ARMED_EMPTY 0)

/-- WARP_CLEAR (R87): a VALID shadow becomes EMPTY. -/
def execWarpClear (r : Requester) (s : State) : Host.Outcome State Fault Refusal :=
  if !s.privReq r then .next s
  else if s.shadow = 2 && !s.on WARP_STATUS_TRAILING then .next s.emptyShadow
  else .next (s.put WARP_STATUS_LOAD_RESULT stBUSY)

/-- WARP_ARM_EMPTY (R87): arms a swap to no set. -/
def execWarpArmEmpty (r : Requester) (s : State) : Host.Outcome State Fault Refusal :=
  if !s.privReq r then .next s
  else if s.warp.active.isSome && s.shadow = 0 && !s.on WARP_STATUS_TRAILING && s.swapInTime &&
      !s.on WARP_STATUS_ARMED_EMPTY then
    .next ({ s with warp := { s.warp with swapPick := s.get WARP_SWAP_PICK_PICK } }.raise
      WARP_STATUS_ARMED_EMPTY)
  else .next (s.raise WARP_EVENT_MISSED)

/-! ### LATE records (R94, R111) -/

/-- Record LATE: kind 1 TILE, 2 SKEIN, 3 CELL (Table 2.12). -/
def State.late (s : State) (slot kind inst who group : Nat) : State :=
  let n := s.get PICK_LATE_LOG_HEAD_NEXT
  let s1 := (s.setReg (PICK_LATE_LOG n 0) (s.pick + slot * 2 ^ 48)).setReg (PICK_LATE_LOG n 1)
    (kind + inst * 2 ^ 8 + who * 2 ^ 16 + group * 2 ^ 32)
  let s2 := if mget false s.warp.unread n then s1.bump PICK_LATE_LOG_HEAD_OVERWRITTEN else s1
  let s3 := { s2 with warp := { s2.warp with unread := mset false s2.warp.unread n true } }.put
    PICK_LATE_LOG_HEAD_NEXT ((n + 1) % 64)
  ((s3.bump PICK_LATE_COUNT_VAL).bump (PICK_LATE_INST_COUNT inst)).raise PICK_EVENT_LATE

/-! ### Sending (R65, R66, R79, R80, R444) -/

/-- The header of a cell, with its CRCs (Table 2.1). -/
def cellHeader (typ flags domain pick slot src dst pkey gen stream idx : Nat) (payload : List Byte) :
    List Byte :=
  let h := leBytes 1 typ ++ leBytes 1 flags ++ beBytes 2 domain ++ beBytes 6 pick ++ beBytes 2 slot ++
    beBytes 2 src ++ beBytes 2 dst ++ beBytes 2 pkey ++ beBytes 2 gen ++ beBytes 4 stream ++ beBytes 4 idx ++
    beBytes 2 payload.length ++ List.replicate 10 0 ++ beBytes 4 (crc32c payload)
  h ++ beBytes 4 (crc32c h)

/-- The TABLE_GEN field of this adapter's cells. -/
def State.tableGen (s : State) : Nat :=
  s.get WARP_STATUS_ACTIVE_GEN * 8 + s.get WARP_STATUS_ACTIVE_TABLE

/-- A cell of this adapter. -/
def State.cell (s : State) (typ flags slot dst pkey stream idx : Nat) (payload : List Byte) : List Byte :=
  cellHeader typ flags (s.get PICK_SYNC_CFG_DOMAIN_ID) s.pick slot (s.get LNK_SELF_ID) dst pkey s.tableGen
    stream idx payload ++ payload

/-- Whether port `p` admits key `k` (R444); VC4 frames also carry 0xFFFF. -/
def State.portAdmits (s : State) (p k : Nat) (vc4 : Bool) : Bool :=
  k != 0 && ((vc4 && k == 0xFFFF) || bit (s.reg (LNK_PKEY_PORT p (k / 64))) (k % 64))

/-- Whether key `k` is in the key set of instance `i` (R444). -/
def State.instAdmits (s : State) (i k : Nat) : Bool :=
  (List.range 64).any fun n => s.on (LNK_PKEY_INST_VALID i n) && s.get (LNK_PKEY_INST_KEY i n) == k

/-- A frame fails a port's partition check (R445). -/
def State.pkeyDrop (s : State) (p : Nat) : State :=
  (s.bump (LNK_PKEY_DROP_VAL p)).raise LNK_EVENT_PKEY_DROP

/-- The bytes of cell `k` of a descriptor, or that its source is not ready (R79, R80, R264). -/
def State.fetchCell (s : State) (g : Nat) (d : TxDesc) (k : Nat) (bad : Bool) : State × Option (List Byte) :=
  let n := cellLen d.len k
  let ready := mget false s.warp.ready (g * 4096 + d.ready)
  match d.kind with
  | 1 =>
    if ready && !bad then
      (s, some (s.bytes (localPa (bits d.addr 32 12) (d.addr % 2 ^ 32 + k * 1472)) n))
    else (s, none)
  | 2 =>
    if ready then
      let src := match tfind s.page.models d.inst with
        | some m => if m.asid = d.asid then m.parityAddr s.pick d.addr else d.addr
        | none => d.addr
      let ps := pagePieces 3 (src + k * 1472) n
      ps.foldl (fun (acc : State × Option (List Byte)) p =>
        match acc.2, acc.1.peek d.inst d.asid p.1 false with
        | some l, some pa =>
          let r := acc.1.read pa p.2
          (r.1, r.2.map (l ++ ·))
        | _, _ => (acc.1, none)) (s, some [])
    else (s, none)
  | _ =>
    match s.warp.held.find? fun h => h.group == bits d.addr 0 4 && h.desc == bits d.addr 16 14 &&
        h.cell == k && h.pick == s.pick with
    | some h => (s, some h.payload)
    | none => (s, none)

/-- CELL_SAMPLE (R79, R80): the port samples the source of one cell and prepares it, or a LATE NULL cell. -/
def execCellSample (g slot k : Nat) (bad : Bool) (s : State) : Host.Outcome State Fault Refusal :=
  match s.activeTable.bind fun t => tfind t.groups g with
  | some sec =>
    match entryAt sec.tx slot k with
    | some e =>
      match sec.txd[entryDesc e]? with
      | some d =>
        if !s.warp.on || entryKindOf e != 1 || 7 ≤ k ||
            s.warp.prep.any fun p => p.group == g && p.slot == slot && p.k == k then .next s
        else
          let idx := cellIndex sec.tx (entryDesc e) slot k
          let r := s.fetchCell g d idx bad
          let mk (s : State) (bs : List Byte) : State :=
            { s with warp := { s.warp with prep := s.warp.prep ++ ([⟨g, slot, k, bs⟩] : List PrepCell) } }
          match r.2 with
          | some p => .next (mk r.1 (r.1.cell 1 0 slot d.dst d.pkey d.stream idx p))
          | none => .next ((mk r.1 (r.1.cell 2 0x80 slot d.dst d.pkey d.stream idx [])).late slot 3 d.inst
              (entryDesc e) g)
      | none => .next s
    | none => .next s
  | none => .next s

/-- XOR of cells, each taken as 1,520 bytes (R66). -/
def parityOf (l : List (List Byte)) : List Byte :=
  l.foldl (fun acc c => xorB acc (sliceB c 0 1520)) (List.replicate 1520 0)

/-- Whether the key check lets a prepared cell leave: the port, and for its own streams the instance
(R444). -/
def State.cellLeaves (s : State) (g : Nat) (d : TxDesc) : Bool :=
  s.portAdmits (2 * g) d.pkey false && (d.kind == 3 || s.instAdmits d.inst d.pkey)

/-- A trace record of cell `c` on lane `l`: SEND (3) or RECV (4) (Table 19.2). -/
def State.traceCell (s : State) (kind l st : Nat) (c : List Byte) : State :=
  s.trace 6 kind (srcLane l) l 0 st (leBytes 6 (beAt c 4 6) ++ leBytes 2 (beAt c 10 2) ++ leBytes 4 (beAt c 20 4) ++
    leBytes 4 (beAt c 24 4)) (beAt c 24 4 % 2 ^ s.get TRC_CFG_CELL_SAMPLE_LOG2 == 0)

/-- Whether lane `l` carries cells: it is up, and has not been lost since the last swap that schedules it (R435). -/
def State.cellLane (s : State) (l : Nat) : Bool := s.laneUp l && !s.warp.spent.contains l

/-- SCHEDULED_CELL_SEND (R66, R71, R73, R444): the group's lanes carry their cells, and the parity lane their
XOR.  A cell that fails its key check is dropped and left out; a covered lane sends nothing and counts as a
NULL cell. -/
def execScheduledCellSend (g slot : Nat) (s : State) : Host.Outcome State Fault Refusal :=
  match s.activeTable with
  | some t =>
    match tfind t.groups g with
    | some sec =>
      match sec.tx.find? fun r => r.slot == slot with
      | some r =>
        let preps := (List.range 7).map fun k =>
          s.warp.prep.find? fun p => p.group == g && p.slot == slot && p.k == k
        let wait := (List.range 7).any fun k =>
          entryKindOf (r.lanes.getD k 0) == 1 && (preps.getD k none).isNone
        if !s.warp.on || wait then .next s
        else
          let null := s.cell 2 0 slot sec.peer 0 0 0 []
          let res := (List.range 7).foldl (fun (acc : State × List (Nat × Option (List Byte) × Bool)) k =>
            let e := r.lanes.getD k 0
            if entryKindOf e = 1 then
              match sec.txd[entryDesc e]?, preps.getD k none with
              | some d, some p =>
                if acc.1.cellLeaves g d then (acc.1, acc.2 ++ [(k, some p.bytes, true)])
                else (acc.1.pkeyDrop (2 * g), acc.2 ++ [(k, none, false)])
              | _, _ => (acc.1, acc.2 ++ [(k, none, false)])
            else (acc.1, acc.2 ++ [(k, some null, !bit t.cover (8 * g + lanePos sec.parity k))])) (s, [])
          let par := parityOf (res.2.filterMap fun c => c.2.1)
          let cells := (res.2.filterMap fun c =>
            if c.2.2 then c.2.1.map fun b => (8 * g + lanePos sec.parity c.1, b) else none) ++
            [(8 * g + sec.parity, par)]
          let s1 := res.1
          let out := cells.foldl (fun m c => if s1.cellLane c.1 then tput m c.1 c.2 else m) s1.warp.lane
          let s2 := { s1 with warp := { s1.warp with
            lane := out
            prep := s1.warp.prep.filter (fun p => !(p.group == g && p.slot == slot)) } }
          .next (cells.foldl (fun s c => if s.cellLane c.1 && byteAt c.2 0 = 1 then s.traceCell 3 c.1 stOK c.2 else s) s2)
      | none => .next s
    | none => .next s
  | none => .next s

/-! ### Receiving (R67, R68, R81 to R83) -/

/-- The receive side of sending pick `pick`: the section of group `g` of the set that pick ran under, its
table index, generation and period (R86). -/
def State.rxSec (s : State) (g pick : Nat) : Option (GroupSec × WTable × WarpSet) :=
  let ret := s.on WARP_STATUS_TRAILING && pick + 1 == s.pick
  let w := if ret then s.warp.retained else s.warp.active
  let ix := if ret then s.warp.retTable else s.get WARP_STATUS_ACTIVE_TABLE
  w.bind fun w => (w.tables.find? fun t => t.index == ix).bind fun t =>
    (tfind t.groups g).map fun sec => (sec, t, w)

/-- Whether a cell's two CRCs are right (R67). -/
def cellGood (c : List Byte) : Bool :=
  48 ≤ c.length && beAt c 44 4 == crc32c (c.take 44) && beAt c 28 2 ≤ 1472 &&
    beAt c 40 4 == crc32c (sliceB c 48 (beAt c 28 2))

/-- The bytes of a cell that its parity covers: header and payload, the rest counting as zeros (R52, R66). -/
def cellBytes (b : List Byte) : List Byte := b.take (48 + beAt b 28 2)

/-- The seven data cells of a group-slot after R67: a single bad one is rebuilt from parity. -/
def rebuild (data : List (Option (List Byte))) (par : Option (List Byte)) : List (Option (List Byte)) :=
  let good := data.map fun c => c.bind fun b => if cellGood b then some b else none
  match (good.zipIdx.filter fun p => p.1.isNone), par with
  | [(_, k)], some p => good.set k (some (parityOf (p :: (good.filterMap id).map cellBytes)))
  | _, _ => good

/-- Cycles since the start of pick `p` on this adapter's clock; the pick before may have had the period of
the retained set. -/
def State.sincePick (s : State) (p : Nat) : Nat :=
  if p = s.pick then s.cyc
  else if p + 1 = s.pick then
    s.cyc + 125 * (match s.warp.retained with
      | some w => if s.on WARP_STATUS_TRAILING then w.period else s.warp.period
      | none => s.warp.period)
  else if s.pick < p then 0
  else s.cyc + 125 * 2 * s.warp.period * (s.pick - p)

/-- The record of a stream of a sending pick. -/
def State.rxStream (s : State) (g d pick : Nat) : RxStream :=
  (s.warp.rx.find? fun r => r.group == g && r.desc == d && r.pick == pick).getD ⟨g, d, pick, 0, false, false⟩

/-- Put the record of a stream. -/
def State.setRx (s : State) (r : RxStream) : State :=
  let rest := s.warp.rx.filter fun q => !(q.group == r.group && q.desc == r.desc && q.pick == r.pick)
  { s with warp := { s.warp with rx := r :: rest } }

/-- Write bytes from device virtual address `va` of an instance, page piece by page piece; a piece that does
not translate is dropped. -/
def State.writeVa (s : State) (i a : Nat) (va : Nat) (bs : List Byte) : State :=
  (pagePieces (bs.length / 65536 + 2) va bs.length).foldl (fun s p =>
    match s.peek i a p.1 true with
    | some pa => s.write pa (sliceB bs (p.1 - va) p.2)
    | none => s) s

/-- The chunk signal of a stream (R82, Tables 6.5 and 6.6). -/
def warpSig (d : RxDesc) (r : RxStream) : Sig :=
  let n := cellsOf d.len
  let miss := (List.range n).filter fun k => !bit r.got k
  let first := miss.headD 0
  let map := ((List.range 128).map fun k => if miss.contains (first + k) then 2 ^ k else 0).sum
  ⟨(if miss.isEmpty then 0 else 1) + 2 + 8, if miss.isEmpty then stOK else if r.late then stLATE else stHOLE,
    0xFFFF, 0, r.pick, d.stream, n, d.place, d.len, miss.length, first, if miss.isEmpty then 0 else map⟩

/-- Raise the signal of a stream once (R82, R228). -/
def State.streamSignal (s : State) (d : RxDesc) (r : RxStream) : State :=
  (s.setRx { r with done := true }).cqForce d.queue (warpSig d r)

/-- Count a discarded cell (R68). -/
def State.mismatch (s : State) : State := s.bump WARP_MISMATCH_COUNT_VAL

/-- A cell discarded under R68 or R83 on lane `l`, with its trace record. -/
def State.cellLost (s : State) (l : Nat) (c : List Byte) : State := s.mismatch.traceCell 4 l stHOLE c

/-- Whether a cell carries what its receive descriptor expects (R68). -/
def State.cellFits (s : State) (c : List Byte) (w : WarpSet) (d : RxDesc) (idx : Nat) : Bool :=
  beAt c 2 2 == s.get PICK_SYNC_CFG_DOMAIN_ID && beAt c 18 2 / 8 == w.gen && beAt c 20 4 == d.stream &&
    beAt c 24 4 == idx

/-- One cell that arrived intact or was rebuilt, at data lane index `k` (R65, R68, R80 to R83, R444). -/
def State.takeCell (s : State) (g pick slot k : Nat) (sec : GroupSec) (w : WarpSet) (c : List Byte) : State :=
  let typ := byteAt c 0
  let lateNull := typ == 2 && bit (byteAt c 1) 7
  if typ != 1 && !lateNull then s
  else if !s.portAdmits (2 * g) (beAt c 16 2) false then s.pkeyDrop (2 * g)
  else
    let e := (entryAt sec.rx slot k).getD 0
    match (if entryKindOf e = 1 then sec.rxd[entryDesc e]? else none) with
    | none => if typ = 1 then s.cellLost (8 * g + lanePos sec.parity k) c else s
    | some d =>
      let di := entryDesc e
      let idx := cellIndex sec.rx di slot k
      let r := s.rxStream g di pick
      if !s.cellFits c w d idx || beAt c 4 6 != pick then
        (if typ = 1 then s.cellLost (8 * g + lanePos sec.parity k) c else s)
      else if r.done || d.deadline * 125 ≤ s.sincePick pick then
        (if typ = 1 then s.cellLost (8 * g + lanePos sec.parity k) c else s)
      else if lateNull then s.setRx { r with late := true }
      else
        let payload := sliceB c 48 (min (beAt c 28 2) (cellLen d.len idx))
        if d.kind = 2 then
          { s with warp := { s.warp with held := s.warp.held ++ ([⟨g, di, idx, pick, payload⟩] : List HeldCell) } }
        else
          let r1 := { r with got := r.got ||| 2 ^ idx }
          let s1 := s.writeVa d.inst d.asid (d.place + idx * 1472) payload
          let s2 := s1.traceCell 4 (8 * g + lanePos sec.parity k) stOK c
          if r1.got = 2 ^ cellsOf d.len - 1 then s2.streamSignal d r1 else s2.setRx r1

/-- A cell on lane `l` that no receive record can expect: no acting set puts its group in warp mode (R68, R104,
R445). -/
def State.strayCell (s : State) (l : Nat) (c : List Byte) : State :=
  if !s.cellLane l || !cellGood c || byteAt c 0 != 1 then s
  else if !s.portAdmits (2 * (l / 8)) (beAt c 16 2) false then s.pkeyDrop (2 * (l / 8))
  else s.cellLost l c

/-- CELL_RECEIVE (R67, R68, R81, R104): the cells of a group-slot are checked, rebuilt and accepted or
discarded. -/
def execCellReceive (g pick slot : Nat) (cells : List (Option (List Byte))) (s : State) :
    Host.Outcome State Fault Refusal :=
  match (if s.warp.on then s.rxSec g pick else none) with
  | some (sec, t, w) =>
    let arrive (pos : Nat) : Option (List Byte) :=
      if s.cellLane (8 * g + pos) then cells.getD pos none else none
    let rec_ := sec.rx.find? fun r => r.slot == slot
    let null := cellHeader 2 0 (s.get PICK_SYNC_CFG_DOMAIN_ID) pick slot sec.peer (s.get LNK_SELF_ID) 0
      (w.gen * 8 + t.index) 0 0 []
    let data := (List.range 7).map fun k =>
      let pos := lanePos sec.parity k
      if bit t.cover (8 * g + pos) && entryKindOf (((rec_.map (·.lanes)).getD []).getD k 0) == 0 then
        some (null ++ List.replicate 1472 0)
      else arrive pos
    let full := rebuild data (arrive sec.parity)
    .next (full.zipIdx.foldl (fun s c => match c.1 with
      | some b => s.takeCell g pick slot c.2 sec w b
      | none => s) s)
  | none =>
    .next ((cells.take 8).zipIdx.foldl (fun s c => match c.1 with
      | some b => if g < 12 then s.strayCell (8 * g + c.2) b else s
      | none => s) s)

/-- STREAM_DEADLINE (R82): at the end of the deadline cycle a stream that lacks a cell is signalled with the
hole flag and counted. -/
def execStreamDeadline (g desc pick : Nat) (s : State) : Host.Outcome State Fault Refusal :=
  match s.rxSec g pick with
  | some (sec, _, _) =>
    match sec.rxd[desc]? with
    | some d =>
      let r := s.rxStream g desc pick
      if !s.warp.on || d.kind != 1 || r.done then .next s
      else .next (((s.streamSignal d r).bump PICK_HOLE_COUNT_VAL).raise PICK_EVENT_HOLE)
    | none => .next s
  | none => .next s

end Sys2Proof.Machine
end

