-- ==== Sys2Proof/Machine/Page.lean ====
section
/-! DEFINITION. The key-value page service, weight streaming and resharding (09_kv_page_service.md R304 to
R340). -/
namespace Sys2Proof.Machine
open Sys2Proof

/-! ### The model of an instance -/

/-- Slots of a pool that are free. -/
def Pool.free (p : Pool) : Nat := p.total - p.top + p.back.length

/-- Take a free slot of a pool. -/
def Pool.take (p : Pool) : Option (Nat × Pool) :=
  match p.back with
  | k :: l => some (k, { p with back := l })
  | [] => if p.top < p.total then some (p.top, { p with top := p.top + 1 }) else none

/-- Give slot `k` back. -/
def Pool.give (p : Pool) (k : Nat) : Pool := { p with back := p.back ++ [k] }

/-- The model that instance `i` holds. -/
def State.model? (s : State) (i : Nat) : Option Model := tfind s.page.models i

/-- Instance `i` holds model `m`; its registers show it (R339). -/
def State.setModel (s : State) (i : Nat) (m : Model) : State :=
  let s1 := { s with page := { s.page with models := tput s.page.models i m } }
  let s2 := (s1.put (PAGE_MODEL_SEQ_OPEN i) m.seqs.length).put (PAGE_MODEL_ASID i) m.asid
  let s3 := (s2.put (PAGE_POOL_NEAR_FREE i) m.nearPool.free).put (PAGE_POOL_NEAR_TOTAL i) m.nearPool.total
  let s4 := (s3.put (PAGE_POOL_FAR_FREE i) m.farPool.free).put (PAGE_POOL_FAR_TOTAL i) m.farPool.total
  let s5 := (s4.put (PAGE_RUN_STREAMING i) (if m.stream.isSome then 1 else 0)).put (PAGE_RUN_STREAM_PENDING i)
    (if m.next.isSome then 1 else 0)
  (s5.put (PAGE_RUN_RESHARDING i) (if m.reshard.isSome then 1 else 0)).put (PAGE_RUN_RESHARD_LEFT i)
    (match m.reshard with
      | some r => r.left.length
      | none => 0)

/-- Complete page command `slot` of instance `i`; PAGE_MODEL shows the status (R339). -/
def State.pageEnd (s : State) (i slot st : Nat) : State :=
  (s.complete i 0 slot st 0).put (PAGE_MODEL_LAST_RESULT i) st

/-- Free bytes: `n` bytes that the spec leaves unspecified. -/
def State.freeBytes (s : State) (n : Nat) : State × List Byte :=
  ({ s with free := s.free + n }, (List.range n).map fun k => Config.freeByte (s.free + k))

/-- Whether an instance has a tile of role `r`, in the current pick where `now`. -/
def State.hasRole (s : State) (i r : Nat) (now : Bool) : Bool :=
  s.csr.any fun p => TILE_ROLE 0 ≤ p.1 && p.1 < TILE_ROLE 4096 && (p.1 - TILE_ROLE 0) % 0x40000 == 0 &&
    p.2 % 4096 == r && s.instOfTile ((p.1 - TILE_ROLE 0) / 0x40000) == i &&
    (!now || s.inPick ((p.1 - TILE_ROLE 0) / 0x40000))

/-! ### Placement (R333 to R336) -/

def mib2 : Nat := 0x200000

/-- The 2 MiB pages of a range. -/
def pages2M (va n : Nat) : List Nat := (List.range (ceilDiv n mib2)).map fun k => va + k * mib2

/-- Whether the window [va, va + n) of ASID `a` is unmapped (R333). -/
def State.windowFree (s : State) (i a va n : Nat) : Bool :=
  (pages2M va n).all fun v => v + mib2 ≤ 2 ^ 57 && (s.walk i a v 3).kind == .absent

/-- Map [va, va + n) to [pa, pa + n) in 2 MiB pages with READ and WRITE; none where the pool cannot hold the
tables (R333, R336). -/
def State.mapPages (s : State) (i a va pa n : Nat) : Option State :=
  (pages2M va n).foldl (fun (acc : Option State) v =>
    acc.bind fun s => (s.buildTo a v 3 5 (s.walk i a v 3)).map fun p =>
      p.1.setEntry p.2 (leafEntry (pa + (v - va)) 3)) (some s)

/-- Unmap the window of a model. -/
def State.unmapPages (s : State) (i a va n : Nat) : State :=
  (pages2M va n).foldl (fun s v =>
    let h := s.walk i a v 3
    if h.kind = .leaf then s.setEntry h.epa 0 else s) s

/-- Where a load stands while it places tensors: bytes taken in each tier, and whether all fits. -/
structure Fit where
  near : Nat
  far : Nat
  ok : Bool
  done : List (Nat × Tensor)
  deriving DecidableEq, Repr

/-- Place one tensor (R335, R336): whole near, whole far, or split at a 2 MiB boundary. -/
def Fit.place (f : Fit) (nearPa nearLen farPa farLen : Nat) (k : Nat) (t : Tensor) : Fit :=
  let n0 := alignUp f.near 64
  let f0 := alignUp f.far 64
  if n0 + t.bytes ≤ nearLen then
    { f with near := n0 + t.bytes, done := f.done ++ [(k, { t with near := t.bytes, nearPa := nearPa + n0 })] }
  else if f0 + t.bytes ≤ farLen then
    { f with far := f0 + t.bytes, done := f.done ++ [(k, { t with near := 0, farPa := farPa + f0 })] }
  else
    let head := nearLen - n0
    { near := nearLen, far := f0 + (t.bytes - head), ok := f.ok && n0 ≤ nearLen && f0 + (t.bytes - head) ≤ farLen
      done := f.done ++ [(k, { t with near := head, nearPa := nearPa + n0, farPa := farPa + f0 })] }

/-- The order of placement (R336): PIN_NEAR, then HEAT descending, then record order. -/
def placeOrder (ts : List Tensor) : List (Nat × Tensor) :=
  let l := ts.zipIdx.map fun p => (p.2, p.1)
  l.filter (fun p => bit p.2.flags 0) ++
    sortBy (fun a b => decide (b.2.heat ≤ a.2.heat)) (l.filter fun p => !bit p.2.flags 0)

/-- Place every tensor of a manifest; the tensors in record order with their addresses, VA_BASE + the offset
in the near tier, or past it in the far tier. -/
def placeAll (g : Geometry) (ts : List Tensor) (va nearPa nearLen farPa farLen : Nat) : Fit × List Tensor :=
  let f0 : Fit := ⟨g.nearRes, g.farRes, decide (g.nearRes ≤ nearLen) && decide (g.farRes ≤ farLen), []⟩
  let f := (placeOrder ts).foldl (fun f p => f.place nearPa nearLen farPa farLen p.1 p.2) f0
  let nl := alignUp f.near mib2
  let l := (sortBy (fun a b => decide (a.1 ≤ b.1)) f.done).map fun p =>
    { p.2 with va := if p.2.near = 0 then va + nl + (p.2.farPa - farPa) else va + (p.2.nearPa - nearPa) }
  (f, l)

/-! ### The manifest (R334, R337, R338) -/

/-- The parameters of manifest `b`. -/
def parseGeo (b : List Byte) : Geometry :=
  ⟨leAt b 6 2, byteAt b 8, byteAt b 9, leAt b 10 2, leAt b 12 2, byteAt b 14, byteAt b 15, byteAt b 16,
    byteAt b 17, leAt b 18 2, leAt b 20 8, leAt b 28 8, leAt b 36 4, leAt b 40 2, leAt b 42 2, leAt b 44 4,
    leAt b 48 4, leAt b 52 4⟩

/-- Whether every parameter is in its range (Tables 9.1 and 9.11). -/
def Geometry.ok (g : Geometry) : Bool :=
  let rng (x lo hi : Nat) : Bool := lo ≤ x && x ≤ hi
  rng g.layers 1 256 && rng g.heads 1 64 && rng g.group 1 16 && rng g.dim 32 256 && g.dim % 32 == 0 &&
    [64, 128, 256, 512, 1024].contains g.pt && g.kind ≤ 1 && rng g.window 1 64 && g.sinks ≤ 16 &&
    rng g.farShare 1 7 && rng g.seqs 1 4096 && g.gatherBytes % 64 == 0 && g.gatherEntries % 4 == 0 &&
    rng g.steps 1 256

/-- Whether the sink and window pages always fit (R316). -/
def Geometry.fits (g : Geometry) : Bool :=
  let n := (g.sinks + g.window) * g.heads
  64 + 16 * g.gatherEntries + n * g.nearSlot ≤ g.gatherBytes && n ≤ g.gatherEntries

/-- Tensor record `k`. -/
def parseTensor (b : List Byte) (k : Nat) : Tensor :=
  let o := 128 + 32 * k
  ⟨leAt b o 8, leAt b (o + 8) 8, leAt b (o + 16) 2, byteAt b (o + 18), byteAt b (o + 19), 0, 0, 0, 0⟩

/-- The layer records: (LAYER, BUDGET_PICKS). -/
def layerRecs (b : List Byte) : List (Nat × Nat) :=
  (List.range (leAt b 60 2)).map fun k =>
    let o := 128 + 32 * leAt b 56 4 + 16 * k
    (leAt b o 2, leAt b (o + 2) 2)

/-- Whether a manifest of `len` bytes is well formed (R334, R316). -/
def manifestOk (b : List Byte) (len : Nat) : Bool :=
  let g := parseGeo b
  let nt := leAt b 56 4
  let nl := leAt b 60 2
  b.length == len && 128 ≤ len && leAt b 0 4 == 0x434D4E31 && leAt b 4 2 == 1 && len == 128 + 32 * nt + 16 * nl &&
    crc32c (spliceB b 124 [0, 0, 0, 0]) == leAt b 124 4 && !anyByte b 62 62 && g.ok && g.fits &&
    ((List.range nt).all fun k =>
      let t := parseTensor b k
      (t.layer < g.layers || t.layer == 0xFFFF) && t.flags < 4 && !anyByte b (128 + 32 * k + 20) 12) &&
    ((List.range nl).all fun k =>
      let o := 128 + 32 * nt + 16 * k
      leAt b o 2 < g.layers && !anyByte b (o + 4) 12)

/-- The picks that a layer's STREAMED tensors need (R337); a free value where STREAM_BYTES is 0 and there are
bytes to stream. -/
def State.needed (s : State) (g : Geometry) (ts : List Tensor) (layer : Nat) : Nat :=
  let l := ts.filter fun t => t.layer == layer && bit t.flags 1
  let near := (l.map (·.near)).sum
  let far := (l.map fun t => t.bytes - t.near).sum
  let perPick := g.farShare * 24000 * g.period
  if near + far = 0 then 0
  else if g.streamBytes = 0 || (perPick = 0 && far != 0) then Config.freeNat s.free
  else Nat.max (ceilDiv (near + far) g.streamBytes) (if far = 0 then 0 else ceilDiv (far * s.nInst) perPick)

/-- The fit report (R338). -/
def State.report (s : State) (g : Geometry) (ts : List Tensor) (recs : List (Nat × Nat)) (st flags slow : Nat)
    (nearNeed farNeed nearLen farLen : Nat) : List Byte :=
  leBytes 1 st ++ leBytes 1 flags ++ leBytes 2 slow ++ leBytes 4 0 ++ leBytes 8 nearNeed ++ leBytes 8 farNeed ++
    leBytes 8 nearLen ++ leBytes 8 farLen ++ leBytes 8 (ts.map (·.bytes)).sum ++
    leBytes 8 (g.summaries * g.entryBytes) ++ leBytes 8 0 ++
    (ts.flatMap fun t => leBytes 8 t.va ++
      leBytes 1 (if t.near = t.bytes then 0 else if t.near = 0 then 1 else 2) ++ leBytes 1 0 ++ leBytes 6 t.near) ++
    (recs.flatMap fun r =>
      let n := s.needed g ts r.1
      leBytes 2 r.1 ++ leBytes 2 r.2 ++ leBytes 2 (min n 65535) ++ leBytes 2 (min (n - r.2) 65535) ++ leBytes 8 0)

/-- The state field of PAGE_MODEL. -/
def State.modelState (s : State) (i : Nat) : Nat := s.get (PAGE_MODEL_STATE i)

/-- A page command of opcode `op` at `slot`, accepted in model state `st` (Table 9.10): `named` lists its body
fields. -/
def State.pageCmd (s : State) (i slot op st : Nat) (named : List (Nat × Nat)) (f : Entry → State) :
    Host.Outcome State Fault Refusal :=
  match s.entry? i 0 slot with
  | some e =>
    if e.op != op then .next s
    else if !e.rsvdZero named then .next (s.pageEnd i slot stMALFORMED)
    else if s.modelState i != st then .next (s.pageEnd i slot stBUSY)
    else .next (f e)
  | none => .next s

/-- A load completes (PAGE_EVENT). -/
def State.loadDone (s : State) (i slot st : Nat) : State :=
  ((s.pageEnd i slot st).raise PAGE_EVENT_LOAD_DONE).raiseIf (st == stCAPACITY) PAGE_EVENT_CAPACITY

/-- MODEL_LOAD (R333 to R338): the manifest is read and checked, the placement planned, the report written and
the window mapped; the copies then run. -/
def execModelLoad (i slot : Nat) (man : Option (List Byte)) (s : State) : Host.Outcome State Fault Refusal :=
  if s.model? i |>.any (·.slot == slot) then .next s
  else s.pageCmd i slot 0x30 0 [(0, 3), (8, 64)] fun e =>
    let a := e.b 0 2
    let va := e.b 8 8
    let nearPa := e.b 16 8
    let nearLen := e.b 24 8
    let farPa := e.b 32 8
    let farLen := e.b 40 8
    let planOnly := bit (e.b 2 1) 0
    if 2 ≤ e.b 2 1 || va % mib2 != 0 || nearPa % mib2 != 0 || nearLen % mib2 != 0 || farPa % mib2 != 0 ||
        farLen % mib2 != 0 then s.loadDone i slot stMALFORMED
    else if !s.asidOk i a || 2 ^ 57 ≤ va || !inside (s.nearRange i) nearPa nearLen || !inside (s.farRange i) farPa farLen then
      s.loadDone i slot stACCESS
    else match man with
      | none => s.loadDone i slot stACCESS
      | some b =>
        if !manifestOk b (e.b 56 8) then s.loadDone i slot stMALFORMED
        else
          let g := parseGeo b
          let recs := layerRecs b
          let p := placeAll g ((List.range (leAt b 56 4)).map (parseTensor b)) va nearPa nearLen farPa farLen
          let nl := alignUp p.1.near mib2
          let fl := alignUp p.1.far mib2
          let slow := (recs.filter fun r => r.2 < s.needed g p.2 r.1).length
          let flags := (if planOnly then 1 else 0) + (if slow = 0 then 0 else 2)
          let s1 := (s.tick.put (PAGE_MODEL_SLOW_LAYERS i) slow).raiseIf (slow != 0) PAGE_EVENT_SLOW
          let rep (st : Nat) (s : State) : State := s.hostPut i (e.b 64 8) (s.report g p.2 recs st flags slow nl fl nearLen farLen)
          if 2 ^ 57 < va + nl + fl then s.loadDone i slot stACCESS
          else if !s.windowFree i a va (nl + fl) then s.loadDone i slot stBUSY
          else if !p.1.ok then (rep stCAPACITY s1).loadDone i slot stCAPACITY
          else match (s1.mapPages i a va nearPa nl).bind fun s => s.mapPages i a (va + nl) farPa fl with
            | none => (rep stCAPACITY s1).loadDone i slot stCAPACITY
            | some s2 =>
              if planOnly then (rep stOK s1).loadDone i slot stOK
              else
                let m : Model := {
                  slot := slot, asid := a, va := va, nearPa := nearPa, farPa := farPa, nearLen := nl, farLen := fl
                  geo := g, tensors := p.2, nearPool := ⟨g.ns, 0, []⟩, farPool := ⟨g.fs, 0, []⟩
                  entries := ⟨g.summaries, 0, []⟩ }
                ((rep stOK s2).setModel i m).put (PAGE_MODEL_STATE i) 2

/-- The registers and the table of instance `i` without a model. -/
def State.noModel (s : State) (i : Nat) : State :=
  let s1 := { s with page := { s.page with models := tdel s.page.models i } }
  let s2 := ((s1.put (PAGE_MODEL_STATE i) 0).put (PAGE_MODEL_ASID i) 0).put (PAGE_MODEL_SEQ_OPEN i) 0
  ((s2.setReg (PAGE_POOL_NEAR i) 0).setReg (PAGE_POOL_FAR i) 0).setReg (PAGE_RUN i) 0

/-- Everything that the model of instance `i` placed is freed (R332). -/
def State.dropModel (s : State) (i : Nat) : State :=
  match s.model? i with
  | some m => (s.unmapPages i m.asid m.va (m.nearLen + m.farLen)).noModel i
  | none => s

/-- A load under way ends with `st` and nothing placed (R338). -/
def State.abortLoad (s : State) (i st : Nat) : State :=
  match s.model? i with
  | some m => if s.modelState i = 2 then (s.dropModel i).loadDone i m.slot st else s
  | none => s

/-- Read `n` bytes from device virtual address `va` of ASID `a`: a poison indication, or a refusal. -/
def State.readVa (s : State) (i a va n : Nat) : State × Except Nat (List Byte) :=
  (pagePieces (n / 65536 + 2) va n).foldl (fun (acc : State × Except Nat (List Byte)) p =>
    match acc.2, acc.1.peek i a p.1 false with
    | .ok l, some pa =>
      match acc.1.read pa p.2 with
      | (s1, some bs) => (s1, .ok (l ++ bs))
      | (s1, none) => (s1, .error stHOLE)
    | .ok _, none => (acc.1, .error stACCESS)
    | .error x, _ => (acc.1, .error x)) (s, .ok [])

/-- The bytes of a tensor go to its place. -/
def State.putTensor (s : State) (t : Tensor) (bs : List Byte) : State :=
  let b := sliceB bs 0 t.bytes
  (s.write t.nearPa (b.take t.near)).write t.farPa (b.drop t.near)

/-! ### Pages (R305 to R307) -/

/-- A page header (Table 9.3). -/
structure Hdr where
  slotVa : Nat := 0
  state : Nat := 0
  flags : Nat := 0
  tokens : Nat := 0
  index : Nat := 0
  seq : Nat := 0
  layer : Nat := 0
  head : Nat := 0
  heat : Nat := 0
  last : Nat := 0
  deriving DecidableEq, Repr

/-- The 64 bytes of a header. -/
def Hdr.image (h : Hdr) : List Byte :=
  leBytes 8 (h.slotVa % 2 ^ 57) ++ leBytes 1 h.state ++ leBytes 1 h.flags ++ leBytes 2 h.tokens ++ leBytes 4 h.index ++
    leBytes 2 h.seq ++ leBytes 2 h.layer ++ leBytes 1 h.head ++ leBytes 1 0 ++ leBytes 2 h.heat ++ leBytes 6 h.last ++
    List.replicate 34 0

/-- The device physical address of summary entry `e`. -/
def Model.entryPa (m : Model) (e : Nat) : Nat := m.nearPa + e * m.geo.entryBytes

/-- The device physical address of a slot of the near pool, or of the far pool. -/
def Model.slotPa (m : Model) (far : Bool) (k : Nat) : Nat :=
  if far then m.farPa + k * m.geo.farSlot else m.nearPa + m.geo.poolOff + k * m.geo.nearSlot

/-- Its device virtual address. -/
def Model.slotVa (m : Model) (far : Bool) (k : Nat) : Nat :=
  if far then m.va + m.nearLen + k * m.geo.farSlot else m.va + m.geo.poolOff + k * m.geo.nearSlot

/-- The slot at a device virtual address. -/
def Model.slotAt (m : Model) (far : Bool) (va : Nat) : Nat :=
  if far then (va - (m.va + m.nearLen)) / m.geo.farSlot else (va - (m.va + m.geo.poolOff)) / m.geo.nearSlot

/-- The header of summary entry `e`. -/
def State.hdr (s : State) (m : Model) (e : Nat) : Hdr :=
  let b := s.bytes (m.entryPa e) 64
  ⟨leAt b 0 8, byteAt b 8, byteAt b 9, leAt b 10 2, leAt b 12 4, leAt b 16 2, leAt b 18 2, byteAt b 20, leAt b 22 2,
    leAt b 24 6⟩

/-- Write the header, one whole line (R306). -/
def State.setHdr (s : State) (m : Model) (e : Nat) (h : Hdr) : State := s.write (m.entryPa e) h.image

/-- The bounds of entry `e`: the lo and hi of every channel, BF16 (R205, R306). -/
def State.bounds (s : State) (m : Model) (e : Nat) : List Nat × List Nat :=
  let at_ (o c : Nat) : Nat := s.num (m.entryPa e + 64 + c / 32 * 128 + o + c % 32 * 2) 2
  ((List.range m.geo.dim).map (at_ 0), (List.range m.geo.dim).map (at_ 64))

/-- Write the bounds. -/
def State.setBounds (s : State) (m : Model) (e : Nat) (b : List Nat × List Nat) : State :=
  s.write (m.entryPa e + 64) ((List.range (m.geo.dim / 32)).flatMap fun k =>
    (sl b.1 k).flatMap (leBytes 2) ++ (sl b.2 k).flatMap (leBytes 2))
where sl (l : List Nat) (k : Nat) : List Nat := (l.drop (32 * k)).take 32

/-- The bounds of a page without tokens (R307). -/
def emptyBounds (d : Nat) : List Nat × List Nat := (List.replicate d 0x7F80, List.replicate d 0xFF80)

/-- Widen one channel's bounds with stored key `b` of type `ty` (R307). -/
def widenChan (ty : Nat) (p : Nat × Nat) (b : Nat) : Nat × Nat :=
  let v := valOf ty b
  if v.isNan then (0xFF80, 0x7F80)
  else (if v.lt (valOf 1 p.1) then (encodeF 1 .nearest false v).1 else p.1,
    if (valOf 1 p.2).lt v then (encodeF 1 .nearest false v).1 else p.2)

/-- Widen a page's bounds with the stored keys of one token; whether one is NaN (R307). -/
def widen (ty : Nat) (b : List Nat × List Nat) (keys : List Nat) : (List Nat × List Nat) × Bool :=
  let r := (b.1.zip b.2).zipWith (widenChan ty) keys
  ((r.map (·.1), r.map (·.2)), keys.any fun k => (valOf ty k).isNan)

/-- The union of two bounds (Table 9.8, step 5). -/
def unionBounds (a b : List Nat × List Nat) : List Nat × List Nat :=
  (a.1.zipWith (fun x y => if (valOf 1 y).lt (valOf 1 x) then y else x) b.1,
    a.2.zipWith (fun x y => if (valOf 1 x).lt (valOf 1 y) then y else x) b.2)

/-- The type of FP8_KIND. -/
def Geometry.fp8 (g : Geometry) : Nat := fp8Of (g.kind == 1)

/-- The pages of one sequence, layer and head, by index. -/
def Model.pagesOf (m : Model) (q l h : Nat) : List PageRef :=
  sortBy (fun a b => decide (a.index ≤ b.index)) (m.pages.filter fun p => p.seq == q && p.layer == l && p.head == h)

/-- Whether the near pool is below LOW_PCT (R321), counting slots that `extra` moves will free. -/
def State.lowNear (s : State) (m : Model) (extra : Nat) : Bool :=
  (m.nearPool.free + extra) * 100 < min 50 (bits s.page.ageCfg 24 7) * m.nearPool.total

/-- Take a near slot; LOW_NEAR where the pool falls below LOW_PCT by it. -/
def State.takeNear (s : State) (m : Model) : Option (State × Model × Nat) :=
  match m.nearPool.take with
  | some (k, p) =>
    let m1 := { m with nearPool := p }
    some (s.raiseIf (s.lowNear m1 0 && !s.lowNear m 0) PAGE_EVENT_LOW_NEAR, m1, k)
  | none => none

/-- Open page `n` of (q, l, h) in near slot `k` (R309, R310). -/
def State.openPage (s : State) (m : Model) (q l h n k : Nat) : State × Model :=
  match m.entries.take with
  | some (e, p) =>
    let m1 := { m with entries := p, pages := m.pages ++ ([⟨q, l, h, n, e⟩] : List PageRef) }
    let s1 := s.setHdr m1 e { slotVa := m.slotVa false k, state := 1, index := n, seq := q, layer := l, head := h }
    (s1.setBounds m1 e (emptyBounds m.geo.dim), m1)
  | none => (s, m)

/-- The reserve slot of (q, l, h). -/
def Model.reserveOf (m : Model) (q l h : Nat) : Option Nat :=
  (m.reserve.find? fun r => r.1 == q && r.2.1 == l && r.2.2.1 == h).map (·.2.2.2)

/-- The OPEN page of (q, l, h). -/
def State.openOf (s : State) (m : Model) (q l h : Nat) : Option PageRef :=
  (m.pagesOf q l h).find? fun p => (s.hdr m p.entry).state == 1

/-- The reserve slot becomes the next OPEN page (R310). -/
def State.openReserve (s : State) (m : Model) (q l h n : Nat) : State × Model :=
  match m.reserveOf q l h with
  | some k => s.openPage { m with reserve := m.reserve.filter fun r => !(r.1 == q && r.2.1 == l && r.2.2.1 == h) } q l h n k
  | none => (s, m)

/-- Take a reserve slot for (q, l, h), or open its next page with it where none is open (R310). -/
def State.refill (s : State) (m : Model) (q l h : Nat) : State × Model :=
  if (m.reserveOf q l h).isSome then (s, m)
  else match s.takeNear m with
    | some (s1, m1, k) =>
      if (s.openOf m q l h).isSome then (s1, { m1 with reserve := m1.reserve ++ [(q, l, h, k)] })
      else s1.openPage m1 q l h (m.pagesOf q l h).length k
    | none => (s, m)

/-- Append one token's stored key and value elements to the OPEN page of a head (R310). -/
def State.appendHead (s : State) (m : Model) (q l h : Nat) (key val : List Nat) : State × Model :=
  match s.openOf m q l h with
  | none => (s, m)
  | some p =>
    let x := s.hdr m p.entry
    let pa := m.slotPa false (m.slotAt false x.slotVa)
    let g := m.geo
    let s1 := s.write (pa + x.tokens * g.dim) (key.map fun b => BitVec.ofNat 8 b)
    let s2 := s1.write (pa + g.pt * g.dim + x.tokens * g.dim) (val.map fun b => BitVec.ofNat 8 b)
    let w := widen g.fp8 (s2.bounds m p.entry) key
    let s3 := s2.setBounds m p.entry w.1
    let full := x.tokens + 1 == g.pt
    let s4 := s3.setHdr m p.entry { x with
      tokens := x.tokens + 1
      state := if full then 2 else 1
      flags := if w.2 then x.flags ||| 4 else x.flags }
    if full then s4.openReserve m q l h (p.index + 1) else (s4, m)

/-- Append one token to every head of a layer; `kv` gives each head's stored key and value (R310). -/
def State.appendToken (s : State) (m : Model) (q l : Nat) (kv : Nat → List Nat × List Nat) : State × Model :=
  let r := (List.range m.geo.heads).foldl (fun (a : State × Model) h => a.1.appendHead a.2 q l h (kv h).1 (kv h).2) (s, m)
  (r.1, { r.2 with seqs := r.2.seqs.map fun p =>
    if p.1 = q then (p.1, { p.2 with stored := tput p.2.stored l (mget 0 p.2.stored l + 1) }) else p })

/-! ### Moves between the tiers (R211, R212, R320 to R325) -/

/-- Pieces of a half of a page: lengths of at most 8,192 elements (R305). -/
def pieces : Nat → Nat → List Nat
  | 0, _ => []
  | f + 1, n => if n = 0 then [] else min n 8192 :: pieces f (n - 8192)

/-- The FP8 elements of one half of a near slot in the MX layout, piece by piece. -/
def demoteHalf (ty : Nat) : List Nat → List Nat → List Byte
  | [], _ => []
  | n :: ns, xs => (demoteBytes ty (xs.take n)).1.take (17 * n / 32) ++ demoteHalf ty ns (xs.drop n)

/-- The FP8 bytes of one half of a far slot, piece by piece. -/
def promoteHalf (ty : Nat) : List Nat → List Byte → List Byte
  | [], _ => []
  | n :: ns, bs => (promoteBytes ty n false (bs.take (17 * n / 32))).1 ++ promoteHalf ty ns (bs.drop (17 * n / 32))

/-- The key values of a half in the MX layout, as exact values. -/
def mxKeys : List Nat → List Byte → List FVal
  | [], _ => []
  | n :: ns, bs => ((List.range n).map fun k =>
      mxVal 7 (byteAt bs (n / 2 + k / 32)) (bits (byteAt bs (k / 2)) (4 * (k % 2)) 4)) ++
    mxKeys ns (bs.drop (17 * n / 32))

/-- The bounds of key values in token order (R307), and whether one is NaN. -/
def boundsOf (d : Nat) (vs : List FVal) : (List Nat × List Nat) × Bool :=
  let chan (c : Nat) : Nat × Nat := ((List.range (vs.length / d)).map fun t => vs.getD (t * d + c) .nan).foldl
    (fun (p : Nat × Nat) v =>
      if v.isNan then (0xFF80, 0x7F80)
      else (if v.lt (valOf 1 p.1) then (encodeF 1 .nearest false v).1 else p.1,
        if (valOf 1 p.2).lt v then (encodeF 1 .nearest false v).1 else p.2)) (0x7F80, 0xFF80)
  let r := (List.range d).map chan
  ((r.map (·.1), r.map (·.2)), vs.any (·.isNan))

/-- Mark a page POISONED (R318, R325). -/
def State.markPoison (s : State) (m : Model) (e : Nat) : State :=
  let x := s.hdr m e
  let s1 := if bit x.flags 3 then s else s.bump PAGE_POISON_VAL
  (s1.setHdr m e { x with flags := x.flags ||| 8 }).raise PAGE_EVENT_POISON

/-- Start the move of a page (Table 9.8, steps 1 to 5; R325). -/
def State.startMove (s : State) (m : Model) (p : PageRef) (up : Bool) (new : Nat) : State × Model :=
  let x := s.hdr m p.entry
  let g := m.geo
  let old := m.slotAt up x.slotVa
  let ps := pieces (g.pt * g.dim) (g.pt * g.dim)
  match s.read (m.slotPa up old) (if up then g.farSlot else g.nearSlot) with
  | (s1, none) =>
    (s1.markPoison m p.entry,
      if up then { m with nearPool := m.nearPool.give new } else { m with farPool := m.farPool.give new })
  | (s1, some bs) =>
    let half := if up then g.farSlot / 2 else g.pt * g.dim
    let k := bs.take half
    let v := bs.drop half
    let out := if up then promoteHalf g.fp8 ps k ++ promoteHalf g.fp8 ps v
      else demoteHalf g.fp8 ps (k.map (·.toNat)) ++ demoteHalf g.fp8 ps (v.map (·.toNat))
    let keys := if up then (out.take (g.pt * g.dim)).map fun b => valOf g.fp8 b.toNat else mxKeys ps out
    let nb := boundsOf g.dim (keys.take (x.tokens * g.dim))
    let s2 := s1.write (m.slotPa (!up) new) out
    let s3 := s2.setBounds m p.entry (unionBounds (s2.bounds m p.entry) nb.1)
    (s3.setHdr m p.entry { x with flags := x.flags ||| 3 ||| (if nb.2 then 4 else 0) },
      { m with moves := m.moves ++ ([⟨p.entry, up, old, new, nb.1.1, nb.1.2, nb.2, false⟩] : List Move) })

/-- The switch of a move (Table 9.8, step 6). -/
def State.switchMove (s : State) (m : Model) (v : Move) : State × Model :=
  let x := s.hdr m v.entry
  (s.setHdr m v.entry { x with
      slotVa := m.slotVa (!v.up) v.new
      state := if v.up then 2 else 3
      flags := (x.flags ||| 2) &&& 0xFE },
    { m with moves := m.moves.map fun w => if w = v then { v with switched := true } else w })

/-- The end of a move at the wall (Table 9.8, step 7). -/
def State.endMove (s : State) (m : Model) (v : Move) : State × Model :=
  let x := s.hdr m v.entry
  let s1 := (s.setBounds m v.entry (v.lo, v.hi)).setHdr m v.entry { x with flags := x.flags &&& 0xFD }
  let m1 := { m with moves := m.moves.filter (· != v) }
  if v.up then (s1.bump PAGE_PROMOTED_VAL, { m1 with farPool := m1.farPool.give v.old })
  else (s1.bump PAGE_DEMOTED_VAL, { m1 with nearPool := m1.nearPool.give v.old })

/-- HEAT halved once for every AGE_PICKS picks since LAST_PICK (R320). -/
def State.heatNow (s : State) (x : Hdr) : Nat :=
  x.heat / 2 ^ min 16 (((s.get PICK_NUMBER_NUMBER + 2 ^ 48 - x.last) % 2 ^ 48) / Nat.max 1 (s.page.ageCfg % 2 ^ 16))

/-- Whether a page of a head is a sink, or a window page (R314). -/
def Model.isSink (m : Model) (p : PageRef) : Bool := p.index < m.geo.sinks
def Model.isWindow (m : Model) (n : Nat) (p : PageRef) : Bool := n < p.index + m.geo.window

/-- The index of the OPEN page of (q, l, h): its last page. -/
def Model.openIdx (m : Model) (q l h : Nat) : Nat := (m.pagesOf q l h).length - 1

/-- The pages that may be demoted, coldest first (R321). -/
def State.coldest (s : State) (m : Model) : List PageRef :=
  let ok (p : PageRef) : Bool :=
    (s.hdr m p.entry).state == 2 && !m.isSink p && !m.isWindow (m.openIdx p.seq p.layer p.head) p &&
      !m.moves.any fun v => v.entry == p.entry
  let key (p : PageRef) : List Nat := [s.heatNow (s.hdr m p.entry), p.seq, p.layer, p.head, p.index]
  sortBy (fun a b => decide (key a ≤ key b)) (m.pages.filter ok)

/-- MODEL_LOAD_COMPLETE (R338): every tensor is copied and the model enters LOADED; a source read that fails
ends the load. -/
def execModelLoadComplete (i slot : Nat) (data : Option (List (List Byte))) (s : State) :
    Host.Outcome State Fault Refusal :=
  match s.model? i with
  | some m =>
    if s.modelState i != 2 || m.slot != slot then .next s
    else match data with
      | none => .next (s.abortLoad i stACCESS)
      | some d =>
        let r := m.tensors.zipIdx.foldl (fun (acc : State × Nat) p =>
          if acc.2 != stOK then acc
          else if bit p.1.source 63 then
            match acc.1.readVa i m.asid (p.1.source % 2 ^ 63) p.1.bytes with
            | (s1, .ok bs) => (s1.putTensor p.1 bs, stOK)
            | (s1, .error st) => (s1, st)
          else (acc.1.putTensor p.1 (d.getD p.2 []), stOK)) (s, stOK)
        if r.2 != stOK then .next (r.1.abortLoad i r.2)
        else
          let s1 := (List.range m.geo.summaries).foldl (fun s e =>
            (s.setHdr m e {}).setBounds m e (emptyBounds m.geo.dim)) r.1
          .next ((s1.put (PAGE_MODEL_STATE i) 3).loadDone i slot stOK)
  | none => .next s

/-- MODEL_UNLOAD (R332). -/
def execModelUnload (i slot : Nat) (s : State) : Host.Outcome State Fault Refusal :=
  s.pageCmd i slot 0x31 3 [] fun _ =>
    match s.model? i with
    | some m =>
      if s.warpPinned m.asid m.va (m.nearLen + m.farLen) || m.stream.isSome || m.next.isSome || m.reshard.isSome then
        s.pageEnd i slot stBUSY
      else (s.dropModel i).pageEnd i slot stOK
    | none => s

/-! ### Sequences (R309) -/

/-- SEQ_OPEN (R309). -/
def execSeqOpen (i slot : Nat) (s : State) : Host.Outcome State Fault Refusal :=
  s.pageCmd i slot 0x32 3 [(0, 2), (8, 8)] fun e =>
    match s.model? i with
    | some m =>
      let q := e.b 0 2
      let n := e.b 8 8
      if m.geo.seqs ≤ q then s.pageEnd i slot stMALFORMED
      else if m.geo.total < (m.seqs.map (·.2.max)).sum + n then s.pageEnd i slot stCAPACITY
      else if (tfind m.seqs q).isSome then s.pageEnd i slot stBUSY
      else
        let m1 := { m with seqs := tput m.seqs q { max := n } }
        let r := (List.range m.geo.layers).foldl (fun (a : State × Model) l =>
          (List.range m.geo.heads).foldl (fun (a : State × Model) h =>
            let b := a.1.refill a.2 q l h
            b.1.refill b.2 q l h) a) (s, m1)
        (r.1.setModel i r.2).pageEnd i slot stOK
    | none => s

/-- SEQ_CLOSE (R309): the sequence closes at the next wall. -/
def execSeqClose (i slot : Nat) (s : State) : Host.Outcome State Fault Refusal :=
  s.pageCmd i slot 0x33 3 [(0, 2)] fun e =>
    match s.model? i with
    | some m =>
      match tfind m.seqs (e.b 0 2) with
      | some q => (s.setModel i { m with seqs := tput m.seqs (e.b 0 2) { q with closing := true } }).pageEnd i slot stOK
      | none => s.pageEnd i slot stBUSY
    | none => s

/-- A closed sequence gives back its slots and summary entries (R309). -/
def State.closeSeq (s : State) (m : Model) (q : Nat) : State × Model :=
  let gone := m.pages.filter (·.seq == q)
  let r := gone.foldl (fun (a : State × Model) p =>
    let x := s.hdr m p.entry
    let far := x.state == 3
    let k := m.slotAt far x.slotVa
    let m1 := if far then { a.2 with farPool := a.2.farPool.give k } else { a.2 with nearPool := a.2.nearPool.give k }
    ((a.1.setHdr m p.entry {}).setBounds m p.entry (emptyBounds m.geo.dim),
      { m1 with entries := m1.entries.give p.entry })) (s, m)
  let mv := m.moves.filter fun v => gone.any fun p => p.entry == v.entry
  let m2 := mv.foldl (fun m v =>
    let k := if v.switched then v.old else v.new
    if v.up == v.switched then { m with farPool := m.farPool.give k } else { m with nearPool := m.nearPool.give k }) r.2
  let m3 := (m.reserve.filter (·.1 == q)).foldl (fun m x => { m with nearPool := m.nearPool.give x.2.2.2 }) m2
  (r.1, { m3 with
    pages := m3.pages.filter (·.seq != q)
    moves := m3.moves.filter fun v => !mv.contains v
    due := m3.due.filter fun e => !gone.any fun p => p.entry == e
    reserve := m3.reserve.filter (·.1 != q)
    seqs := tdel m3.seqs q })

/-! ### The decode step (R312 to R320) -/

/-- What a query record asks (Table 9.4). -/
structure Query where
  seq : Nat
  layer : Nat
  pos : Nat
  k : Nat
  append : Bool
  noSelect : Bool
  rsvd : Bool
  t : List Nat
  q : List Nat
  kn : List Nat
  vn : List Nat
  deriving DecidableEq, Repr

/-- Bytes of the record's header, and of the whole record (R312). -/
def Geometry.qh (g : Geometry) : Nat := 64 * ceilDiv (16 + 4 * g.heads) 64
def Geometry.recordLen (g : Geometry) (app : Bool) : Nat :=
  g.qh + 2 * g.heads * g.group * g.dim + (if app then 4 * g.heads * g.dim else 0)

/-- Read a query record. -/
def parseQuery (g : Geometry) (b : List Byte) : Query :=
  let u16 (o n : Nat) : List Nat := (List.range n).map fun k => leAt b (o + 2 * k) 2
  let hd := g.heads * g.dim
  let fl := byteAt b 10
  ⟨leAt b 0 2, leAt b 2 2, leAt b 4 4, leAt b 8 2, bit fl 0, bit fl 1,
    4 ≤ fl || anyByte b 11 5 || anyByte b (16 + 4 * g.heads) (g.qh - (16 + 4 * g.heads)),
    (List.range g.heads).map fun h => leAt b (16 + 4 * h) 4,
    u16 g.qh (g.heads * g.group * g.dim), u16 (g.qh + 2 * g.group * hd) hd, u16 (g.qh + 2 * g.group * hd + 2 * hd) hd⟩

/-- The FP32 bound of one page for one query: every block through SCOREB, from +0 (R206, R314). -/
def scorePage (b : List Nat × List Nat) (q : List Nat) : Nat :=
  let bf (l : List Nat) : List FVal := l.map (valOf 1)
  (List.range (q.length / 32)).foldl (fun acc k =>
    let part (l : List Nat) : List FVal := bf ((l.drop (32 * k)).take 32)
    let t := (part q).zipWith (fun q (p : FVal × FVal) => scoreTerm q p.1 p.2) ((part b.1).zip (part b.2))
    (encodeF 0 .up false ((valOf 0 acc).add (sumV (t.map fun x => (x, false))).1).1).1) 0

/-- The bound of a page for the queries of a head: the largest of the G values (R314). -/
def headBound (b : List Nat × List Nat) (qs : List (List Nat)) : Nat :=
  match qs.map (scorePage b) with
  | [] => 0
  | x :: l => l.foldl (fun a y => if scoreKey a < scoreKey y then y else a) x

/-- The candidates of a head (R314). -/
def State.candidates (s : State) (m : Model) (q l h : Nat) : List PageRef :=
  (m.pagesOf q l h).filter fun p =>
    let st := (s.hdr m p.entry).state
    (st == 2 || st == 3) && !m.isSink p && !m.isWindow (m.openIdx q l h) p

/-- The selection of head `h` (R314): the list, bound and page index in rank order, and OVER. -/
def State.select (s : State) (m : Model) (r : Query) (h : Nat) : List (Nat × PageRef) × Bool :=
  let g := m.geo
  let qs := (List.range g.group).map fun j => (r.q.drop ((h * g.group + j) * g.dim)).take g.dim
  let cs := s.candidates m r.seq r.layer h
  let u := cs.foldl (fun (u : TopK) p => u.offer (headBound (s.bounds m p.entry) qs, p.index))
    { k := r.k, t := r.t.getD h 0 }
  (u.top.filterMap fun c => (cs.find? fun p => p.index == c.2).map fun p => (c.1, p), 4096 < u.m)

/-- A page to deliver: its kind (0 SINK, 1 WINDOW, 2 SELECTED), its bound and the page (R315). -/
abbrev Pick3 := Nat × Nat × PageRef

/-- The sink and window pages of a step, in order (R315). -/
def Model.fixedPages (m : Model) (q l : Nat) : List Pick3 :=
  let heads := (List.range m.geo.heads).map fun h => (m.pagesOf q l h, m.openIdx q l h)
  let all := heads.flatMap fun p => p.1.map fun x => (x, p.2)
  let ord (l : List (PageRef × Nat)) := sortBy (fun a b => decide (a.1.index * 64 + a.1.head ≤ b.1.index * 64 + b.1.head)) l
  ((ord (all.filter fun x => m.isSink x.1)).map fun x => (0, 0, x.1)) ++
    ((ord (all.filter fun x => !m.isSink x.1 && m.isWindow x.2 x.1)).map fun x => (1, 0, x.1))

/-- Interleave the selections round by round (R315). -/
def rounds (sel : List (List (Nat × PageRef))) : List Pick3 :=
  let n := (sel.map (·.length)).foldl Nat.max 0
  (List.range n).flatMap fun k => sel.filterMap fun l => (l[k]?).map fun c => (2, c.1, c.2)

/-- Bytes of a page's slot. -/
def State.slotLen (s : State) (m : Model) (p : PageRef) : Nat :=
  if (s.hdr m p.entry).state = 3 then m.geo.farSlot else m.geo.nearSlot

/-- Pack selected pages until one does not fit (R316): those packed and the number dropped. -/
def State.pack (s : State) (m : Model) : List Pick3 → Nat → Nat → List Pick3 × Nat
  | [], _, _ => ([], 0)
  | c :: l, off, n =>
    let len := s.slotLen m c.2.2
    if m.geo.gatherBytes < off + len || m.geo.gatherEntries ≤ n then ([], l.length + 1)
    else
      let r := s.pack m l (off + len) (n + 1)
      (c :: r.1, r.2)

/-- Copy one page into the gather stream (R315, R318): the stream's bytes so far, the index entries, POISON. -/
def State.gatherPage (m : Model) (a : State × List Byte × List Byte × Bool) (c : Pick3) :
    State × List Byte × List Byte × Bool :=
  let s := a.1
  let p := c.2.2
  let x := s.hdr m p.entry
  let far := x.state == 3
  let len := s.slotLen m p
  let off := 64 + 16 * m.geo.gatherEntries + a.2.1.length
  let rd := s.read (m.slotPa far (m.slotAt far x.slotVa)) len
  let bad := rd.2.isNone
  let fb := rd.1.freeBytes len
  let s1 := if bad then fb.1.markPoison m p.entry else rd.1
  let ent := leBytes 4 p.index ++ leBytes 1 p.head ++
    leBytes 1 (c.1 + (if far then 4 else 0) + (if bad then 8 else 0)) ++ leBytes 2 x.tokens ++ leBytes 4 off ++
    leBytes 4 (if c.1 = 2 then c.2.1 else 0)
  (s1, a.2.1 ++ rd.2.getD fb.2, a.2.2.1 ++ ent, a.2.2.2 || bad)

/-- The gather header (Table 9.6). -/
def gatherHeader (r : Query) (entries flags payload pick dropped : Nat) : List Byte :=
  leBytes 2 r.seq ++ leBytes 2 r.layer ++ leBytes 4 r.pos ++ leBytes 2 entries ++ leBytes 1 flags ++ leBytes 1 0 ++
    leBytes 4 payload ++ leBytes 6 pick ++ leBytes 2 (min dropped 65535) ++ List.replicate 40 0

/-- Count one more delivery of a selected page; a FAR page that reaches PROMOTE_HEAT is due (R320, R322). -/
def State.heat (s : State) (m : Model) (p : PageRef) : State × Model :=
  let x := s.hdr m p.entry
  let h := min 65535 (s.heatNow x + 1)
  let want := bits s.page.ageCfg 16 8
  (s.setHdr m p.entry { x with heat := h, last := s.get PICK_NUMBER_NUMBER },
    if x.state = 3 && want != 0 && want ≤ h && !m.due.contains p.entry then { m with due := m.due ++ [p.entry] } else m)

/-- A trace record of a page step whose fields `hd` gives in the form of a gather header (Table 19.2). -/
def State.tracePage (s : State) (i kind : Nat) (hd : List Byte) : State :=
  s.traceBy 9 kind i 4 (s.serving i 4) 0 (sliceB hd 0 11)

/-- Write a gather stream and set its ready flag (R78, R315): bytes beyond the payload are free. -/
def State.sendGather (s : State) (i : Nat) (m : Model) (g : Nat) (d : TxDesc) (bs : List Byte) : State :=
  let f := s.freeBytes (m.geo.gatherBytes - bs.length)
  ((f.1.writeVa i d.asid (m.parityAddr (s.get PICK_NUMBER_NUMBER) d.addr) (bs ++ f.2)).setReady g d.ready).tracePage i 2 bs

/-- Serve a step whose record is good (R314 to R318, R320): `sel` allows selected pages. -/
def State.serve (s : State) (i : Nat) (m : Model) (g : Nat) (d : TxDesc) (r : Query) (sel : Bool) (flags : Nat) :
    State × Model :=
  let picks := if sel then (List.range m.geo.heads).map (s.select m r) else []
  let fixed := m.fixedPages r.seq r.layer
  let off := 64 + 16 * m.geo.gatherEntries + (fixed.map fun c => s.slotLen m c.2.2).sum
  let pk := s.pack m (rounds (picks.map (·.1))) off fixed.length
  let all := fixed ++ pk.1
  let a := all.foldl (State.gatherPage m) (s, [], [], false)
  let fl := flags + (if pk.2 = 0 then 0 else 1) + (if picks.any (·.2) then 2 else 0) + (if a.2.2.2 then 32 else 0)
  let idx := a.2.2.1 ++ List.replicate (16 * m.geo.gatherEntries - a.2.2.1.length) 0
  let payload := 64 + 16 * m.geo.gatherEntries + a.2.1.length
  let hd := gatherHeader r all.length fl payload (s.get PICK_NUMBER_NUMBER) pk.2
  let s1 := a.1.sendGather i m g d (hd ++ idx ++ a.2.1)
  let s2 := if pk.2 = 0 then s1 else (s1.bump PAGE_TRUNC_COUNT_VAL).raise PAGE_EVENT_TRUNC
  pk.1.foldl (fun (a : State × Model) c => a.1.heat a.2 c.2.2) (s2, m)

/-- Whether a BF16 pattern is NaN or infinite. -/
def bfBad (b : Nat) : Bool := bits b 7 8 == 255

/-- The stored elements of BF16 values (R310). -/
def Geometry.store (g : Geometry) (l : List Nat) : List Nat := l.map fun b => (convElem 1 g.fp8 false b).1

/-- Test and serve a step (Table 9.5): `rec_` is the record, none on poison. -/
def State.pageStep (s : State) (i : Nat) (m : Model) (g : Nat) (d : TxDesc) (hole : Bool) (b : Option (List Byte)) :
    State × Model :=
  match hole, b with
  | false, some b =>
    let r := parseQuery m.geo b
    let stored := match tfind m.seqs r.seq with
      | some q => mget 0 q.stored r.layer
      | none => 0
    if (tfind m.seqs r.seq).isNone || m.geo.layers ≤ r.layer || r.rsvd ||
        (!r.noSelect && (r.k = 0 || 4096 < r.k)) || r.pos != stored then
      let f := s.sendGather i m g d (gatherHeader r 0 16 64 (s.get PICK_NUMBER_NUMBER) 0)
      ((f.bump PAGE_BAD_RECORD_VAL).raise PAGE_EVENT_QUERY_BAD, m)
    else
      let lost := r.append && (match tfind m.seqs r.seq with
        | some q => r.pos == q.max
        | none => false)
      let bad := !lost && r.q.any bfBad
      let x := s.serve i m g d r (!bad && !r.noSelect) (if lost then 8 else if bad then 4 else 0)
      let s1 := if lost then (x.1.bump PAGE_APPEND_LOST_VAL).raise PAGE_EVENT_APPEND_LOST
        else if bad then (x.1.bump PAGE_QUERY_BAD_VAL).raise PAGE_EVENT_QUERY_BAD
        else x.1.bump PAGE_STEPS_VAL
      let ready := (List.range m.geo.heads).all fun h => (s1.openOf x.2 r.seq r.layer h).isSome
      if r.append && !lost && ready then
        s1.appendToken x.2 r.seq r.layer fun h =>
          (m.geo.store ((r.kn.drop (h * m.geo.dim)).take m.geo.dim), m.geo.store ((r.vn.drop (h * m.geo.dim)).take m.geo.dim))
      else (s1, x.2)
  | _, _ => (((s.bump PAGE_QUERY_HOLE_VAL).raise PAGE_EVENT_QUERY_HOLE).tracePage i 2 (b.getD []), m)

/-- Whether a summary entry of (q, l) is poisoned: the step cannot read it (R264). -/
def State.badSummary (s : State) (m : Model) (q l : Nat) : Bool :=
  m.pages.any fun p => p.seq == q && p.layer == l && s.anyPoison (m.entryPa p.entry) m.geo.entryBytes

/-- PAGE_STEP (R313): the PAGE tiles take the query's signal, and test, score, select and gather. -/
def execPageStep (i q g desc : Nat) (s : State) : Host.Outcome State Fault Refusal :=
  let tx := (s.activeTable.bind fun t => tfind t.groups g).bind fun sec => sec.txd[desc]?
  match s.model? i, tx with
  | some m, some d =>
    if s.modelState i != 3 || !s.warp.on || !s.hasRole i 4 true || s.cqOwner q != i || !s.on (SKN_CQ_CFG_ENABLE q) ||
        s.cqCount q = 0 || d.inst != i || d.kind != 2 || d.asid != m.asid then .next s
    else
      let sig := s.cqTake q
      let place := leAt sig.2 24 8
      let rd := sig.1.readVa i m.asid place (m.geo.recordLen false)
      let rec_ : State × Option (List Byte) := match rd with
        | (s1, .ok b) =>
          if bit (byteAt b 10) 0 then
            match s1.readVa i m.asid place (m.geo.recordLen true) with
            | (s2, .ok b) => (s2, some b)
            | (s2, .error _) => (s2, none)
          else (s1, some b)
        | (s1, .error _) => (s1, none)
      let b := if (rec_.2.any fun b => s.badSummary m (leAt b 0 2) (leAt b 2 2)) then none else rec_.2
      let r := (rec_.1.tracePage i 1 (sliceB (b.getD []) 0 8)).pageStep i m g d (bit (byteAt sig.2 2) 0) b
      .next (r.1.setModel i r.2)
  | _, _ => .next s

/-! ### Background work of the page service (R310, R321 to R325) -/

/-- PAGE_RESERVE_REFILL (R310): a new reserve slot is taken from the near pool. -/
def execPageReserveRefill (i q l h : Nat) (s : State) : Host.Outcome State Fault Refusal :=
  match s.model? i with
  | some m =>
    if s.modelState i = 3 && (tfind m.seqs q).isSome && l < m.geo.layers && h < m.geo.heads then
      let r := s.refill m q l h
      .next (r.1.setModel i r.2)
    else .next s
  | none => .next s

/-- PAGE_DEMOTION (R321, R323): the coldest NEAR page starts its move to the far tier. -/
def execPageDemotion (i : Nat) (s : State) : Host.Outcome State Fault Refusal :=
  match s.model? i with
  | some m =>
    let freeing := (m.moves.filter fun v => !v.up).length
    if s.modelState i = 3 && bit s.page.ageCfg 31 && s.lowNear m freeing then
      match s.coldest m, m.farPool.take with
      | p :: _, some (k, fp) =>
        let r := s.startMove { m with farPool := fp } p false k
        .next (r.1.setModel i r.2)
      | _, _ => .next s
    else .next s
  | none => .next s

/-- The page (q, l, h, n) of a model. -/
def Model.page? (m : Model) (q l h n : Nat) : Option PageRef :=
  m.pages.find? fun p => p.seq == q && p.layer == l && p.head == h && p.index == n

/-- PAGE_PROMOTION (R322, R323): a FAR page that has reached PROMOTE_HEAT starts its move to the near tier, or
is dropped for lack of room. -/
def execPagePromotion (i q l h n : Nat) (s : State) : Host.Outcome State Fault Refusal :=
  match s.model? i with
  | some m =>
    match m.page? q l h n with
    | some p =>
      if s.modelState i = 3 && bit s.page.ageCfg 31 && m.due.contains p.entry &&
          (s.hdr m p.entry).state = 3 && !(m.moves.any fun v => v.entry == p.entry) then
        let m0 := { m with due := m.due.filter (· != p.entry) }
        match m0.nearPool.take with
        | some (k, np) =>
          let m1 := { m0 with nearPool := np }
          if s.lowNear m1 0 then .next (s.setModel i m0)
          else
            let r := s.startMove m1 p true k
            .next (r.1.setModel i r.2)
        | none => .next (s.setModel i m0)
      else .next s
    | none => .next s
  | none => .next s

/-- PAGE_MOVE_SWITCH (R323): the header is switched to the new slot. -/
def execPageMoveSwitch (i q l h n : Nat) (s : State) : Host.Outcome State Fault Refusal :=
  match s.model? i with
  | some m =>
    match (m.page? q l h n).bind fun p => m.moves.find? fun v => v.entry == p.entry && !v.switched with
    | some v =>
      let r := s.switchMove m v
      .next (r.1.setModel i r.2)
    | none => .next s
  | none => .next s

/-! ### Weight streaming (R326 to R328) -/

/-- Whether a plan address and `n` bytes of plan lie in the model's near-tier range; the physical address. -/
def State.planPa (s : State) (i : Nat) (m : Model) (va n : Nat) : Option Nat :=
  match s.peek i m.asid va false with
  | some pa => if inside (m.nearPa, m.nearLen) pa n then some pa else none
  | none => none

/-- A stream plan entry (Table 9.9), or none where it is malformed. -/
def Model.planEntry (m : Model) (cycle : Nat) (b : List Byte) : Option PlanEntry :=
  let e : PlanEntry := ⟨leAt b 0 4, byteAt b 4, leAt b 6 2, leAt b 8 4, leAt b 12 4, leAt b 16 8⟩
  match m.tensors[e.tensor]? with
  | some t =>
    if e.pick < cycle && e.group < 12 && byteAt b 5 = 0 && e.len ≤ m.geo.stageBytes && e.off + e.len ≤ t.bytes &&
        !anyByte b 24 8 then some e else none
  | none => none

/-- Whether START_PICK is at least the current pick + 2 (R326). -/
def State.startOk (s : State) (p : Nat) : Bool := s.get PICK_NUMBER_NUMBER + 2 ≤ p && p < 2 ^ 48

/-- STREAM_START (R326). -/
def execStreamStart (i slot : Nat) (s : State) : Host.Outcome State Fault Refusal :=
  s.pageCmd i slot 0x34 3 [(0, 24)] fun e =>
    match s.model? i with
    | some m =>
      let cycle := e.b 0 4
      let n := e.b 4 4
      let start := e.b 16 8
      if cycle = 0 || 65536 < cycle then s.pageEnd i slot stMALFORMED
      else if 2 ^ 57 ≤ e.b 8 8 then s.pageEnd i slot stACCESS
      else match s.planPa i m (e.b 8 8) (32 * n) with
        | none => s.pageEnd i slot stACCESS
        | some pa =>
          let es := (List.range n).map fun k => m.planEntry cycle (s.bytes (pa + 32 * k) 32)
          if s.anyPoison pa (32 * n) then (s.logPoison pa (32 * n)).pageEnd i slot stHOLE
          else if es.any (·.isNone) then s.pageEnd i slot stMALFORMED
          else if m.next.isSome || !s.startOk start then s.pageEnd i slot stBUSY
          else
            let p : StreamPlan := ⟨cycle, start, es.filterMap id⟩
            let m1 := if m.stream.isSome then { m with next := some p } else { m with stream := some p }
            (s.setModel i m1).pageEnd i slot stOK
    | none => s

/-- STREAM_STOP (R326). -/
def execStreamStop (i slot : Nat) (s : State) : Host.Outcome State Fault Refusal :=
  s.pageCmd i slot 0x35 3 [] fun _ =>
    match s.model? i with
    | some m => (s.setModel i { m with stopping := m.stream.isSome, next := none }).pageEnd i slot stOK
    | none => s

/-- The plan of pick `p`: the running one, or its replacement from START_PICK on (R326). -/
def Model.planAt (m : Model) (p : Nat) : Option StreamPlan :=
  match m.next with
  | some n => if n.start ≤ p then some n else m.stream
  | none => m.stream

/-- The bytes of a tensor from `off`, wherever it stands (R327). -/
def State.tensorBytes (s : State) (t : Tensor) (off n : Nat) : State × Option (List Byte) :=
  let a := min n (t.near - off)
  let r1 := s.read (t.nearPa + off) a
  let r2 := r1.1.read (t.farPa + (off + a - t.near)) (n - a)
  (r2.1, match r1.2, r2.2 with
    | some x, some y => some ((x.take a) ++ (y.take (n - a)))
    | _, _ => none)

/-- The work of a STREAM tile at its wake (R327, R328): set the ready flags of this pick's fills, then fill the
staging buffers of the next pick, unless the wall stops the fills (`stopped`). -/
def State.streamWake (s : State) (i : Nat) (m : Model) (stopped : Bool) : State × Model :=
  let p := s.get PICK_NUMBER_NUMBER
  let descOf (g d : Nat) : Option TxDesc :=
    (s.activeTable.bind fun t => tfind t.groups g).bind fun sec => sec.txd[d]?
  let s1 := (m.filled.filter fun f => f.2.2 == p).foldl (fun s f =>
    match descOf f.1 f.2.1 with
    | some d => if d.inst = i then s.setReady f.1 d.ready else s
    | none => s) s
  let m1 := { m with filled := m.filled.filter fun f => p < f.2.2 }
  match m.planAt (p + 1) with
  | some pl =>
    if stopped || p + 1 < pl.start || m.stopping || m1.filled != [] then (s1, m1)
    else
      (pl.entries.filter fun e => e.pick == (p + 1 - pl.start) % pl.cycle).foldl (fun (a : State × Model) e =>
        match descOf e.group e.desc, m.tensors[e.tensor]? with
        | some d, some t =>
          if d.inst != i || d.kind != 2 then a
          else match a.1.tensorBytes t e.off e.len with
            | (s2, some bs) => (s2.writeVa i d.asid (m.parityAddr (p + 1) d.addr) bs,
                { a.2 with filled := a.2.filled ++ [(e.group, e.desc, p + 1)] })
            | (s2, none) => (s2, a.2)
        | _, _ => a) (s1, m1)
  | none => (s1, m1)

/-! ### Resharding (R329 to R331) -/

/-- RESHARD_RUN (R329): `plan` holds the entries; the entry completes with the plan. -/
def execReshardRun (i slot : Nat) (plan : List ReshardEntry) (s : State) : Host.Outcome State Fault Refusal :=
  match s.model? i with
  | some m =>
    if m.reshard.any (·.slot == slot) then .next s
    else s.pageCmd i slot 0x36 3 [(0, 4), (8, 16)] fun e =>
      if plan.length != e.b 0 4 then s.pageEnd i slot stMALFORMED
      else if 2 ^ 57 ≤ e.b 8 8 || (s.planPa i m (e.b 8 8) 1).isNone then s.pageEnd i slot stACCESS
      else if m.reshard.isSome || !s.startOk (e.b 16 8) then s.pageEnd i slot stBUSY
      else s.setModel i { m with reshard := some { slot := slot, start := e.b 16 8, left := plan } }
  | none => s.pageCmd i slot 0x36 3 [(0, 4), (8, 16)] fun _ => s

/-- The pages of a sequence and layer beyond its near share, in ascending order, not sink or window (R330). -/
def State.beyondShare (s : State) (m : Model) (q l : Nat) (seq : Seq) : List PageRef :=
  let share := m.geo.near * seq.max / Nat.max 1 m.geo.total / m.geo.pt
  (List.range m.geo.heads).flatMap fun h =>
    let near := (m.pagesOf q l h).filter fun p =>
      (s.hdr m p.entry).state == 2 && !(m.moves.any fun v => v.entry == p.entry)
    let cand := near.filter fun p => !m.isSink p && !m.isWindow (m.openIdx q l h) p
    cand.take (near.length - share)

/-- Demote a page from start to switch, as far as the pool allows. -/
def State.demoteNow (s : State) (m : Model) (p : PageRef) : State × Model :=
  match m.farPool.take with
  | some (k, fp) =>
    let r := s.startMove { m with farPool := fp } p false k
    match r.2.moves.find? fun v => v.entry == p.entry with
    | some v =>
      let w := r.1.switchMove r.2 v
      w.1.endMove w.2 { v with switched := true }
    | none => r
  | none => (s, m)

/-- Import one token of a prefill cache: append it, replace spent reserves, demote beyond the share (R330). -/
def State.importToken (m0 : Model) (q l : Nat) (seq : Seq) (a : State × Model) (kv : Nat → List Nat × List Nat) :
    State × Model :=
  let b := a.1.appendToken a.2 q l kv
  let c := (List.range m0.geo.heads).foldl (fun (a : State × Model) h => a.1.refill a.2 q l h) b
  (c.1.beyondShare c.2 q l seq).foldl (fun a p => a.1.demoteNow a.2 p) c

/-- What came of an entry. -/
inductive RunEnd
  | ok
  | stopped
  | refused
  | failed
  deriving DecidableEq, Repr

/-- Run a CACHE entry (R330). -/
def State.runCache (s : State) (i : Nat) (m : Model) (q l src : Nat) (fp8 : Bool) (first count : Nat) :
    State × Model × RunEnd :=
  match tfind m.seqs q with
  | some seq =>
    let g := m.geo
    let hd := g.heads * g.dim
    let eb := if fp8 then 1 else 2
    if g.layers ≤ l || mget 0 seq.stored l != first then (s, m, .failed)
    else if seq.max < first + count then (s, m, .refused)
    else match s.readVa i m.asid src (2 * count * hd * eb) with
      | (s1, .error _) => (s1, m, .failed)
      | (s1, .ok bs) =>
        let elem (o : Nat) : Nat := if fp8 then byteAt bs o else (convElem 1 g.fp8 false (leAt bs (2 * o) 2)).1
        let vec (o : Nat) : List Nat := (List.range g.dim).map fun c => elem (o + c)
        let r := (List.range count).foldl (fun a t => State.importToken m q l seq a fun h =>
          (vec (t * hd + h * g.dim), vec (count * hd + t * hd + h * g.dim))) (s1, m)
        (r.1, r.2, .ok)
  | none => (s, m, .failed)

/-- Run the chunks of a skein on handle `h`. -/
def State.runChunks (t h : Nat) : Nat → State → State
  | 0, s => s
  | f + 1, s =>
    match s.skein? t .S h with
    | some k =>
      if k.state != 1 || k.done = k.total then s
      else match s.moveChunk t none k with
        | (s1, k1, .none) => let j := s1.judge k1; State.runChunks t h f (j.1.endChunk t .S h j.2)
        | (s1, k1, .access ..) => s1.endEarly t .S h k1 stACCESS
        | (s1, k1, .fault ..) => s1.endEarly t .S h k1 stACCESS
        | (s1, k1, .hole) => s1.endEarly t .S h k1 stHOLE
    | none => s

/-- Run a TENSOR entry as a scheduled skein of tile `t` (R329). -/
def State.runTensor (s : State) (t : Nat) (desc : List Byte) : State × RunEnd :=
  match (List.range 8).find? fun h => (s.skein? t .S h).isNone with
  | none => (s, .stopped)
  | some h =>
    let x := s.ctx t .S
    let k : Skein := ⟨1, stOK, sliceB desc 0 128, x.check.reset, 0, 0, 0, 0, false, x.issued, 0⟩
    if (s.skeinCheck t .S k).1 != 0 then (s, .failed)
    else
      let s1 := (s.setCtx t .S { x with issued := x.issued + 1 }).bump SKN_ISSUED_VAL
      let s2 := State.runChunks t h (k.chunks + 1) (s1.setSkein t .S h k)
      match s2.skein? t .S h with
      | some k2 =>
        if k2.done = k2.total && k2.status = stOK && k2.state = 1 then
          let s3 := s2.bump SKN_COMPLETED_VAL
          ((if k2.readyF then s3.setReady k2.readyGroup k2.readyIdx else s3).freeHandle t .S h, .ok)
        else (s2.freeHandle t .S h, .stopped)
      | none => (s2, .stopped)

/-- The work of a RESHARD tile at its wake: it runs the first entry left (R329 to R331). -/
def State.reshardWake (s : State) (i t : Nat) (m : Model) (stopped : Bool) : State × Model :=
  match m.reshard with
  | some r =>
    match r.left with
    | e :: rest =>
      let p := s.get PICK_NUMBER_NUMBER
      if p < r.start || r.stopAt == some p then (s, m)
      else
        let x : State × Model × RunEnd :=
          if stopped then (s, m, .stopped)
          else match e with
            | .tensor d => let y := s.runTensor t d; (y.1, m, y.2)
            | .cache q l src fp8 first count => s.runCache i m q l src fp8 first count
        let done (r : ReshardPlan) : ReshardPlan := { r with left := rest, stops := 0, stopAt := none }
        let r1 : ReshardPlan := match x.2.2 with
          | .ok => done r
          | .refused => { done r with refused := true }
          | .failed => { done r with hole := true }
          | .stopped => if r.stops = 2 then { done r with hole := true } else { r with stops := r.stops + 1, stopAt := some p }
        (x.1, { x.2.1 with reshard := some r1 })
    | [] => (s, m)
  | none => (s, m)

/-- RESHARD_PLAN_COMPLETE (R330, R331). -/
def execReshardPlanComplete (i : Nat) (s : State) : Host.Outcome State Fault Refusal :=
  match s.model? i with
  | some m =>
    match m.reshard with
    | some r =>
      if r.left = [] then
        let st := if r.refused then stCAPACITY else if r.hole then stHOLE else stOK
        .next (((s.setModel i { m with reshard := none }).pageEnd i r.slot st).raise PAGE_EVENT_RESHARD_DONE
          |>.raiseIf (st == stHOLE) PAGE_EVENT_RESHARD_HOLE)
      else .next s
    | none => .next s
  | none => .next s

/-! ### The wall -/

/-- The wall's part for one model: finished moves, closed sequences, streams (R309, R323, R326). -/
def State.modelWall (s : State) (i : Nat) (m : Model) : State :=
  let a := (m.moves.filter (·.switched)).foldl (fun (a : State × Model) v => a.1.endMove a.2 v) (s, m)
  let b := (a.2.seqs.filter (·.2.closing)).foldl (fun (a : State × Model) q => a.1.closeSeq a.2 q.1) a
  let p := s.get PICK_NUMBER_NUMBER
  let m1 := if b.2.stopping then { b.2 with stream := none, stopping := false, filled := [] } else b.2
  let m2 := match m1.next with
    | some n => if n.start ≤ p then { m1 with stream := some n, next := none } else m1
    | none => m1
  b.1.setModel i m2

/-- The page service's part of a wall; PICK_NUMBER is the new pick's (R32, R309, R323, R326, R339). -/
def State.pageWall (s : State) : State :=
  let s1 := { s with page := { s.page with ageCfg := s.reg PAGE_AGE_CFG } }
  s1.page.models.foldl (fun s p => s.modelWall p.1 p.2) s1

end Sys2Proof.Machine
end

