-- ==== Sys2Proof/Machine/Net.lean ====
section
/-! DEFINITION. Ports and what they share (11_weft_and_congestion.md, 13_links_mac_fabric.md): which ports exist,
transport packets and fabric headers as bytes, wire encryption, the class FIFOs and their fair queueing, the shared
receive buffer and flow control. -/
namespace Sys2Proof.Machine
open Sys2Proof

/-! ### Ports (R430 to R432, R436) -/

/-- The logical lanes of external port `p`; none where the cage's configuration does not create it (Table 13.1). -/
def State.portLanes (s : State) (p : Nat) : List Nat :=
  let c := p / 2
  let pos : List Nat :=
    if 24 ≤ p || !s.on (LNK_CAGE_CFG_ENABLE c) then []
    else if s.on (LNK_CAGE_CFG_ROLE c) || s.get (LNK_CAGE_CFG_SPLIT c) = 0 then
      if p % 2 = 0 then [0, 1, 2, 3, 4, 5, 6, 7] else []
    else match s.get (LNK_CAGE_CFG_SPLIT c), p % 2 with
      | 1, 0 => [0, 1, 2, 3]
      | 1, _ => [4, 5, 6, 7]
      | 2, 0 => [0, 1, 2, 3]
      | 2, _ => [4, 5]
      | 3, 0 => [0, 1]
      | 3, _ => [4, 5, 6, 7]
      | 4, 0 => [0, 1]
      | 4, _ => [4, 5]
      | _, _ => []
  pos.map (8 * c + ·)

/-- Whether port `p` exists. -/
def State.portExists (s : State) (p : Nat) : Bool := s.portLanes p != []

/-- Whether port `p` belongs to a cage in the accelerator-attach role. -/
def State.portAttach (s : State) (p : Nat) : Bool := s.on (LNK_CAGE_CFG_ROLE (p / 2))

/-- The status bit of port `p` (LNK_CAGE_STATUS). -/
def portUpFld (p : Nat) : RegFld :=
  if p % 2 = 0 then LNK_CAGE_STATUS_PORT0_UP (p / 2) else LNK_CAGE_STATUS_PORT1_UP (p / 2)

/-- Whether port `p` exists and is up (R436). -/
def State.portUp (s : State) (p : Nat) : Bool := s.portExists p && s.on (portUpFld p)

/-- The wall time in nanoseconds. -/
def State.ns (s : State) : Nat := s.get PICK_TOD_SEC_SEC * 1000000000 + s.dom.half / 2

/-- The active section of the group of port `p`, where its group is in warp mode. -/
def State.portSec (s : State) (p : Nat) : Option GroupSec :=
  match s.activeTable with
  | some t => if s.portAttach p && bit t.warpGroups (p / 2) then tfind t.groups (p / 2) else none
  | none => none

/-- Whether the warp owns slot `k` on the group (R51). -/
def GroupSec.owns (g : GroupSec) (k : Nat) : Bool := g.tx.any (·.slot == k)

/-- Free slots of a pick of `per` slots from slot `k` on, up to the next that the warp owns. -/
def GroupSec.freeRun (g : GroupSec) (per k : Nat) : Nat :=
  ((List.range (per - k)).takeWhile fun j => !g.owns (k + j)).length

/-- Units of 16 bytes that the longest free run of port `p` carries, none where nothing limits it (R380, R440):
97 units on each lane of a slot. -/
def State.longestRun (s : State) (p : Nat) : Option Nat :=
  (s.portSec p).map fun g =>
    ((List.range s.warp.period).map fun k => g.freeRun s.warp.period k).foldl max 0 * 97 *
      ((s.portLanes p).filter s.laneUp).length

/-- Units of a fabric frame of `n` payload bytes: the header, and the payload with its CRC (R440). -/
def frameUnits (n : Nat) : Nat := 1 + ceilDiv (n + 4) 16

/-! ### Transport packets and fabric headers as bytes (Tables 10.5, 10.6, 13.5, 16.4) -/

/-- The base header. -/
def TPkt.base (p : TPkt) : List Byte :=
  ([BitVec.ofNat 8 p.op, BitVec.ofNat 8 p.flags] : List Byte) ++ beBytes 2 p.pkey ++ beBytes 4 (p.tenant * 4096) ++
    beBytes 4 p.dst ++ beBytes 4 (p.psn % 2 ^ 24) ++ beBytes 4 p.tx ++ beBytes 4 p.echo

/-- Whether the packet is encrypted (FLAGS.ENC). -/
def TPkt.enc (p : TPkt) : Bool := bit p.flags 6

/-- The ENC extension. -/
def TPkt.encExt (p : TPkt) : List Byte :=
  if p.enc then ([BitVec.ofNat 8 p.phase, 0] : List Byte) ++ beBytes 2 p.hi ++ beBytes 4 0 ++ beBytes 8 p.txc else []

/-- The additional authenticated data (R521). -/
def TPkt.aad (p : TPkt) : List Byte := p.base ++ p.encExt ++ p.ext

/-- The packet from its base header through its PCRC. -/
def TPkt.bytes (p : TPkt) : List Byte :=
  let b := p.aad ++ p.payload ++ p.tag
  b ++ beBytes 4 (crc32c b)

/-- Bytes of the opcode extension; none for a reserved opcode. -/
def extLen : Nat → Option Nat
  | 0x01 => some 16
  | 0x02 => some 16
  | 0x03 => some 0
  | 0x10 => some 20
  | 0x11 => some 4
  | 0x12 => some 4
  | 0x20 => some 16
  | _ => none

/-- Read a packet: none where check 1 of Table 10.7 fails (too short, PCRC, reserved opcode or NAK code). -/
def parsePkt (b : List Byte) : Option TPkt :=
  let enc := bit (byteAt b 1) 6
  let h := if enc then 40 else 24
  let n := b.length
  match extLen (byteAt b 0) with
  | none => none
  | some e =>
    let ovh := h + e + (if enc then 16 else 0) + 4
    let body := b.take (n - 4)
    if n < ovh || beAt b (n - 4) 4 != crc32c body then none
    else
      let p : TPkt := {
        op := byteAt b 0, flags := byteAt b 1, pkey := beAt b 2 2, tenant := beAt b 4 4 / 4096
        dst := beAt b 8 4 % 2 ^ 20, psn := beAt b 12 4 % 2 ^ 24, tx := beAt b 16 4, echo := beAt b 20 4
        ext := sliceB b h e, payload := sliceB b (h + e) (n - ovh)
        phase := if enc then byteAt b 24 % 2 else 0, hi := if enc then beAt b 26 2 else 0
        txc := if enc then beAt b 32 8 else 0, tag := if enc then sliceB b (n - 20) 16 else [] }
      if p.op = 0x11 && !(1 ≤ byteAt p.ext 0 && byteAt p.ext 0 ≤ 4) then none else some p

/-- The CRC-16 of the fabric header (Table 13.5): polynomial x^16 + x^12 + x^5 + 1, initial value 0xFFFF. -/
def crc16 (l : List Byte) : Nat :=
  l.foldl (fun c b => iterN (fun c => if 0x8000 ≤ c then ((2 * c) % 65536) ^^^ 0x1021 else 2 * c) 8
    (c ^^^ (b.toNat * 256))) 0xFFFF

/-- A fabric header with its HCRC (Table 13.5). -/
def fabricHeader (vcFlags len dst src pkey hops path : Nat) : List Byte :=
  let b := ([1, BitVec.ofNat 8 vcFlags] : List Byte) ++ beBytes 2 len ++ beBytes 2 dst ++ beBytes 2 src ++ beBytes 2 pkey ++
    ([BitVec.ofNat 8 hops, BitVec.ofNat 8 path] : List Byte) ++ beBytes 2 0
  b ++ beBytes 2 (crc16 b)

/-- A fabric header with other HOPS and VC_FLAGS. -/
def reheader (h : List Byte) (vcFlags hops : Nat) : List Byte :=
  let b := spliceB (spliceB (h.take 14) 1 [BitVec.ofNat 8 vcFlags]) 10 [BitVec.ofNat 8 hops]
  b ++ beBytes 2 (crc16 b)

/-! ### Wire encryption (R517 to R523) -/

/-- The label that names a wire key under a domain secret: TENANT, GROUP, KEY_GEN and DIR (R518). -/
def wireLabel (tenant group gen dir : Nat) : Nat := ((tenant * 2 ^ 16 + group) * 2 ^ 16 + gen) * 2 ^ 8 + dir

/-- Key context `c`. -/
def State.keyCtx (s : State) (c : Nat) : KeyCtx := mget {} s.sec.ctxs c

/-- Phase `k` of a key context, where it is valid. -/
def KeyCtx.phase (c : KeyCtx) (k : Nat) : Option KeyPhase := if k = 0 then c.p0 else c.p1

/-- The context with phase `k` set. -/
def KeyCtx.setPhase (c : KeyCtx) (k : Nat) (p : Option KeyPhase) : KeyCtx :=
  if k = 0 then { c with p0 := p } else { c with p1 := p }

/-- The payload `bs` under the key that `label` names, with counter `txc` (the cipher is its own inverse). -/
def State.crypt (s : State) (label txc : Nat) (bs : List Byte) : List Byte :=
  xorB bs ((List.range bs.length).map fun k => Config.keystream s.sec.ds label txc k)

/-- The tag of a packet. -/
def State.tagOf (s : State) (label : Nat) (p : TPkt) : List Byte :=
  sliceB (Config.wireTag s.sec.ds label p.txc p.aad p.payload) 0 16

/-- The cipher engines work: not stopped, keys not zeroized (R527 to R529). -/
def State.cipherOn (s : State) : Bool :=
  !s.sec.drbgStopped && !s.sec.zeroing && s.get SEC_STATE_KEYS != 2

/-- Encrypt a packet with context `c` as it leaves, taking the next TXC; none where the context can send nothing
(R521, R529). -/
def State.encrypt (s : State) (c : Nat) (p : TPkt) : State × Option TPkt :=
  let k := s.keyCtx c
  match k.phase k.tx with
  | none => (s, none)
  | some ph =>
    if 2 ^ 48 ≤ ph.txc + 1 || s.get SEC_STATE_KEYS = 2 || s.sec.zeroing then (s, none)
    else
      let label := wireLabel ph.tenant ph.group ph.gen ph.dir
      let p1 := { p with phase := k.tx, txc := ph.txc, payload := s.crypt label ph.txc p.payload }
      let p2 := { p1 with tag := s.tagOf label p1 }
      let k1 := k.setPhase k.tx (some { ph with txc := ph.txc + 1 })
      let s1 := { s with sec := { s.sec with ctxs := tput s.sec.ctxs c k1 } }
      (s1.raiseIf (2 ^ 47 < ph.txc + 1) SEC_EVENT_TXC_HIGH, some p2)

/-- Log a packet discarded under R522. -/
def State.logRx (s : State) (qpn st : Nat) (p : TPkt) : State :=
  s.setReg SEC_RX_LOG (qpn + st * 2 ^ 20 + p.phase * 2 ^ 28 + s.pick % 2 ^ 32 * 2 ^ 32)

/-- Check 5 of Table 10.7 (R522): the packet with its payload in clear, or none where it is discarded. -/
def State.encCheck (s : State) (qpn c : Nat) (p : TPkt) : State × Option TPkt :=
  if p.enc != (c != 0) then
    (((s.bump SEC_ENC_MISMATCH_VAL).raise SEC_EVENT_ENC_MISMATCH).logRx qpn stACCESS p, none)
  else if c = 0 then (s, some p)
  else
    let k := s.keyCtx c
    let keys := s.get SEC_STATE_KEYS != 2 && !s.sec.zeroing
    match (if keys then k.phase p.phase else none) with
    | none => ((s.bump SEC_TAG_FAIL_VAL).logRx qpn stTAG_FAIL p, none)
    | some ph =>
      let label := wireLabel ph.tenant ph.group ph.gen (1 - ph.dir)
      if p.tag = s.tagOf label p then (s, some { p with payload := s.crypt label p.txc p.payload })
      else (((s.bump SEC_TAG_FAIL_VAL).raise SEC_EVENT_TAG_FAIL).logRx qpn stTAG_FAIL p, none)

/-- A trace record of a packet: SEND (3) or RECV (4) at port `p` (Table 19.2). -/
def State.tracePkt (s : State) (kind p path : Nat) (t : TPkt) : State :=
  s.trace 5 kind (srcPort p) p 0 0 (leBytes 4 t.dst ++ leBytes 4 (t.psn % 2 ^ 24) ++ leBytes 4 t.tx ++
    ([BitVec.ofNat 8 t.op, BitVec.ofNat 8 t.flags, BitVec.ofNat 8 path] : List Byte))
    (t.psn % 2 ^ s.get TRC_CFG_PKT_SAMPLE_LOG2 == 0)

/-! ### Counting frames (Table 13.10, R488) -/

/-- Advance counter `k` of MAC_STATS of a network port. -/
def State.stat (s : State) (p k : Nat) (n : Nat := 1) : State := s.bump (MAC_STATS_VAL p k) n

/-- Advance the total that GET_PORT_COUNTERS shows. -/
def State.total (s : State) (p k n : Nat) : State :=
  { s with rings := { s.rings with portTotals := tput s.rings.portTotals (p * 8 + k) (mget 0 s.rings.portTotals (p * 8 + k) + n) } }

/-- A port has sent a frame of `n` octets. -/
def State.countTx (s : State) (p n : Nat) (mcast : Bool) : State :=
  let s1 := (s.total p 0 1).total p 1 n
  if s.portAttach p then s1
  else
    let s2 := (s1.stat p 0).stat p 1 n
    if mcast then s2.stat p 4 else s2

/-- A port has accepted a frame of `n` octets. -/
def State.countRx (s : State) (p n : Nat) (mcast : Bool) : State :=
  let s1 := (s.total p 2 1).total p 3 n
  if s.portAttach p then s1
  else
    let s2 := (s1.stat p 2).stat p 3 n
    if mcast then s2.stat p 5 else s2

/-- The port has sent `f`. -/
def State.setSent (s : State) (p : Nat) (f : SentFrame) : State :=
  { s with net := { s.net with sent := tput s.net.sent p f } }

/-! ### The class FIFOs (R376 to R379) -/

/-- The queue of port `p`. -/
def State.fifo (s : State) (p : Nat) : List OutPkt := mget [] s.net.queues p

/-- The queue of port `p` becomes `l`. -/
def State.setFifo (s : State) (p : Nat) (l : List OutPkt) : State :=
  { s with net := { s.net with queues := mset [] s.net.queues p l } }

/-- INC of a VC: floor(65,536 / weight), a weight of 0 acting as 1 (R377). -/
def State.inc (s : State) (vc : Nat) : Nat :=
  65536 / max 1 (s.get (if vc = 1 then CC_VC_WEIGHT_VC1 else if vc = 2 then CC_VC_WEIGHT_VC2 else CC_VC_WEIGHT_VC4))

/-- Put a packet at the tail of its class FIFO; a packet that becomes head of an empty VC, or of an empty instance
of its VC, takes a new finish tag (R377, R378). -/
def State.enqueue (s : State) (p : Nat) (k : OutPkt) : State :=
  let l := s.fifo p
  let w := mget {} s.net.wfq p
  let key := k.vc * 32 + k.inst
  let w1 := if l.any (·.vc == k.vc) then w
    else { w with f := tput w.f k.vc (max w.v (mget 0 w.f k.vc) + s.inc k.vc) }
  let w2 := if l.any fun x => x.vc == k.vc && x.inst == k.inst then w1
    else { w1 with f2 := tput w1.f2 key (max (mget 0 w1.v2 k.vc) (mget 0 w1.f2 key) + 65536) }
  { s.setFifo p (l ++ [k]) with net := { (s.setFifo p (l ++ [k])).net with wfq := tput s.net.wfq p w2 } }

/-- The scheduler's tags after a packet of a VC and instance has left, with `l` what still waits (R377, R378). -/
def State.wfqSent (s : State) (p vc inst : Nat) (l : List OutPkt) : State :=
  let w := mget {} s.net.wfq p
  let key := vc * 32 + inst
  let f := mget 0 w.f vc
  let f2 := mget 0 w.f2 key
  let w1 := { w with
    v := f
    f := if l.any (·.vc == vc) then tput w.f vc (f + s.inc vc) else w.f
    v2 := tput w.v2 vc f2
    f2 := if l.any fun x => x.vc == vc && x.inst == inst then tput w.f2 key (f2 + 65536) else w.f2 }
  { s with net := { s.net with wfq := tput s.net.wfq p w1 } }

/-- The least element of a list under a measure, the first on a tie. -/
def leastBy {α : Type} (m : α → Nat) : List α → Option α
  | [] => none
  | x :: xs =>
    match leastBy m xs with
    | none => some x
    | some y => if m y < m x then some y else some x

/-- The packet that VC `vc` of port `p` would send: of the instance with the smallest tag, its oldest (R376). -/
def State.headOf (s : State) (p vc : Nat) : Option OutPkt :=
  let l := (s.fifo p).filter (·.vc == vc)
  let w := mget {} s.net.wfq p
  match leastBy (fun i => mget 0 w.f2 (vc * 32 + i)) ((List.range 17).filter fun i => l.any (·.inst == i)) with
  | some i => l.find? (·.inst == i)
  | none => none

/-! ### The shared receive buffer (R395 to R398, R451) -/

/-- Bytes that cage `c` holds in the buffer. -/
def State.cageUse (s : State) (c : Nat) : Nat := ((s.net.srb.filter (·.cage == c)).map (·.len)).sum

/-- Bytes that wait for an egress queue. -/
def State.egressUse (s : State) (e : Nat) : Nat := ((s.net.srb.filter (·.egress == e)).map (·.len)).sum

/-- PORT_MIN_KB in bytes. -/
def State.cageReserve (s : State) : Nat := min 2048 (s.get CC_SRB_CFG_PORT_MIN_KB) * 1024

/-- Free bytes of the shared part. -/
def State.sharedFree (s : State) : Nat :=
  (0x4000000 - 12 * s.cageReserve - 0x80000) - ((s.net.srb.filter (·.part == 1)).map (·.len)).sum

/-- Where a packet of `n` bytes is admitted (R396): 0 the cage's reserve, 1 the shared part, 2 the VC4 reserve. -/
def State.spaceFor (s : State) (cage egress vc n : Nat) : Option Nat :=
  if s.cageUse cage < s.cageReserve then some 0
  else if n ≤ s.sharedFree && 8 * s.egressUse egress < 2 ^ s.get CC_SRB_CFG_DT_ALPHA * s.sharedFree then some 1
  else if vc = 4 && n + ((s.net.srb.filter (·.part == 2)).map (·.len)).sum ≤ 0x80000 then some 2
  else none

/-- Show the buffer's occupancy. -/
def State.showSrb (s : State) : State :=
  let k := ceilDiv ((s.net.srb.map (·.len)).sum) 1024
  (s.put CC_SRB_STATUS_OCC_KB k).put CC_SRB_PEAK_VAL (max k (s.get CC_SRB_PEAK_VAL))

/-- A frame that is ready ends low-power idle (R454). -/
def State.lpiExit (s : State) (p : Nat) : State :=
  if s.on (MAC_STATUS_LPI_TX p) then
    (s.put (MAC_STATUS_LPI_TX p) 0).stat p 13 ((s.time - mget 0 s.net.lpiAt p) / 2000)
  else s

/-- A MAC control frame of port `p` (R451): PAUSE, or PFC for the priorities in `mask`, with pause time `t`. -/
def State.sendXoff (s : State) (p mode mask t : Nat) : State :=
  let data := if mode = 1 then beBytes 2 1 ++ beBytes 2 t
    else beBytes 2 0x0101 ++ beBytes 2 mask ++
      ((List.range 8).map fun k => beBytes 2 (if bit mask k then t else 0)).flatten
  let f : Frame := ⟨0x0180C2000001, s.get (MAC_ADDR_VAL p), none, 0x8808, 64, true, none, data⟩
  ((((s.setSent p (.ethernet f)).countTx p 64 true).stat p 10).lpiExit p).raiseIf (t != 0) MAC_EVENT_XOFF_TX

/-- FC_MODE in force on a network port, 0 for none (R451). -/
def State.fcMode (s : State) (p : Nat) : Nat :=
  if s.portExists p && !s.portAttach p && s.get (MAC_PORT_CFG_FC_MODE p) != 3 then s.get (MAC_PORT_CFG_FC_MODE p) else 0

/-- LOW_KB in force, in bytes: a value of HIGH_KB or above acts as HIGH_KB - 1. -/
def State.lowMark (s : State) (p : Nat) : Nat :=
  min (s.get (MAC_FC_CFG_LOW_KB p)) (s.get (MAC_FC_CFG_HIGH_KB p) - 1) * 1024

/-- Port `p` acts on the buffer use of its cage: XOFF at the high watermark, pause time 0 at the low one (R451). -/
def State.flowControl (s : State) (p : Nat) : State :=
  let m := s.fcMode p
  let use := s.cageUse (p / 2)
  let mask := s.get (MAC_FC_CFG_PFC_MASK p)
  if m = 0 then s
  else if !s.on (MAC_STATUS_XOFF_OUT p) && s.get (MAC_FC_CFG_HIGH_KB p) * 1024 ≤ use then
    (s.sendXoff p m mask (s.get (MAC_FC_CFG_QUANTA p))).put (MAC_STATUS_XOFF_OUT p) 1
  else if s.on (MAC_STATUS_XOFF_OUT p) && use ≤ s.lowMark p then
    (s.sendXoff p m mask 0).put (MAC_STATUS_XOFF_OUT p) 0
  else s

/-- Both ports of cage `c` act on its buffer use. -/
def State.cageFlow (s : State) (c : Nat) : State := (s.flowControl (2 * c)).flowControl (2 * c + 1)

/-- A packet leaves the buffer: its space, and on an attach port its credit, is freed (R397, R442). -/
def State.srbFree (s : State) (id : Nat) : State :=
  match s.net.srb.find? (·.id == id) with
  | none => s
  | some k =>
    let key := 2 * k.cage * 8 + k.vc
    let freed := if s.attachOn k.cage then
      tput s.net.freed key ((mget 0 s.net.freed key + frameUnits (k.len - 16)) % 2 ^ 32) else s.net.freed
    (({ s with net := { s.net with srb := s.net.srb.filter (·.id != id), freed := freed } }).showSrb).cageFlow k.cage

/-- A packet that the buffer does not take (R396). -/
def State.srbDrop (s : State) : State := (s.bump CC_SRB_DROPS_VAL).raise CC_EVENT_SRB_DROP

/-- Store a packet in the buffer, if it is admitted: the state and its number there. -/
def State.srbStore (s : State) (cage egress vc len : Nat) (ce ect : Bool) (path : Nat) (data : List Byte) :
    State × Option Nat :=
  match s.spaceFor cage egress vc len with
  | none => (s.srbDrop, none)
  | some part =>
    let id := s.net.nextId
    let k : SrbPkt := ⟨id, cage, egress, vc, len, part, ce, ect, path, data⟩
    ((({ s with net := { s.net with srb := s.net.srb ++ [k], nextId := id + 1 } }).showSrb).cageFlow cage, some id)

/-- The ECN mark of a packet of an egress queue that holds `q` bytes (R390, R527). -/
def State.mark (s : State) (q : Nat) (ect : Bool) : State × Bool :=
  let lo := s.get CC_ECN_CFG_ECN_MIN_KB
  let hi := if s.get CC_ECN_CFG_ECN_MAX_KB ≤ lo then lo + 1 else s.get CC_ECN_CFG_ECN_MAX_KB
  if !s.on CC_ECN_CFG_MARK_EN || !ect || q < lo * 1024 then (s, false)
  else if hi * 1024 ≤ q then (s.bump CC_CE_MARKED_VAL, true)
  else if s.sec.drbgStopped then (s, false)
  else if Config.freeNat s.free % ((hi - lo) * 1024) < q - lo * 1024 then (s.tick.bump CC_CE_MARKED_VAL, true)
  else (s.tick, false)

/-! ### Buckets (R381 to R384) -/

/-- The settings of a bucket as its register holds them, and its token count: key `n` of a shaper, 64 + `n` of a
policer, n = cage * 4 + class. -/
def bucketCfg (k : Nat) : Nat :=
  if k < 64 then CC_SHAPER_CFG (k / 4) (k % 4) else CC_POLICER_CFG ((k - 64) / 4) (k % 4)
def bucketTokens (k : Nat) : RegFld :=
  if k < 64 then CC_SHAPER_TOKENS_TOKENS (k / 4) (k % 4) else CC_POLICER_TOKENS_TOKENS ((k - 64) / 4) (k % 4)

/-- The settings in force. -/
def State.bucket (s : State) (k : Nat) : Nat := mget 0 s.net.buckets k

/-- Whether the bucket is in force. -/
def State.bucketOn (s : State) (k : Nat) : Bool := bit (s.bucket k) 48

/-- Class of a VC in a bucket set. -/
def classOf (vc : Nat) : Nat := if vc = 4 then 2 else vc - 1

/-- A bucket that is in force holds a token. -/
def State.bucketOk (s : State) (k : Nat) : Bool := !s.bucketOn k || s.get (bucketTokens k) != 0

/-- Take a token. -/
def State.takeToken (s : State) (k : Nat) : State :=
  if s.bucketOn k then s.put (bucketTokens k) (s.get (bucketTokens k) - 1) else s

/-- The policer of a cage for a received packet (R383): none where it is dropped, else whether CE is set. -/
def State.police (s : State) (cage vc : Nat) (ect ce : Bool) : State × Option Bool :=
  let k := 64 + cage * 4 + classOf vc
  if s.bucketOk k then (s.takeToken k, some ce)
  else if bit (s.bucket k) 49 && (ect || ce) then (s, some true)
  else ((s.bump CC_POLICE_DROPS_VAL).raise CC_EVENT_POLICE_DROP, none)

/-- A fabric frame waits in the class FIFO of port `p`, from place `srb` of the buffer; frames that belong to no
instance share the place of a member 16 of the second level (R378). -/
def State.enqueueFabric (s : State) (p vc path : Nat) (hdr payload : List Byte) (srb : Option Nat) : State :=
  s.enqueue p ⟨vc, 16, path, .fabric hdr payload, srb⟩

end Sys2Proof.Machine
end

