-- ==== Sys2Proof/Machine/ColBase.lean ====
section
/-! DEFINITION. Collective groups, the pinch engine and the ends of weft collectives (12_collectives.md R403 to
R429). -/
namespace Sys2Proof.Machine
open Sys2Proof

/-! ### Groups (R403, R405) -/

/-- Device group `g`. -/
def State.group (s : State) (g : Nat) : Group := mget {} s.col.groups g

/-- Device group `g` becomes `x`. -/
def State.setGroup (s : State) (g : Nat) (x : Group) : State :=
  { s with col := { s.col with groups := mset {} s.col.groups g x } }

/-- Groups of an instance, the instance of a group, and a device group number (R403). -/
def State.groupShare (s : State) : Nat := 1024 / s.nInst
def State.groupInst (s : State) (g : Nat) : Nat := g / s.groupShare
def State.groupNo (s : State) (i k : Nat) : Nat := i * s.groupShare + k

/-- The pinch child ports of a group: the external ports of its multicast group that exist (R403, R430). -/
def State.children (s : State) (x : Group) : List Nat :=
  (List.range 24).filter fun p => bit (s.get (LNK_MCAST_MASK x.mcast)) p && s.portExists p

/-- The group enters ERROR (R405). -/
def State.groupError (s : State) (g : Nat) : State :=
  (s.setGroup g { s.group g with state := 2 }).raise COL_EVENT_GROUP_ERROR

/-! ### Pinch values (R417, R422) -/

/-- Element width of a pinch type in bits (Table 12.6). -/
def pinchBits (ty : Nat) : Nat := if ty ≤ 2 then 64 else if ty ≤ 4 then 32 else 16

/-- Whether an operation takes a type (R417). -/
def pinchOk (op ty : Nat) : Bool :=
  if op = 0 then ty == 0
  else if op ≤ 3 then 1 ≤ ty && ty ≤ 5
  else op ≤ 6 && 1 ≤ ty && ty ≤ 3

/-- The lesser of two floating-point elements: NaN over every value, -0 below +0 (R195, R410). -/
def fMin (ty a b : Nat) : Nat :=
  let x := valOf ty a
  let y := valOf ty b
  if x.isNan || y.isNan then (fmtOf ty).nanMag
  else if x.lt y then a else if y.lt x then b else if x.sign then a else b

/-- The greater of two floating-point elements. -/
def fMax (ty a b : Nat) : Nat :=
  let x := valOf ty a
  let y := valOf ty b
  if x.isNan || y.isNan then (fmtOf ty).nanMag
  else if x.lt y then b else if y.lt x then a else if x.sign then b else a

/-- The exact sum of floating-point elements, rounded once to nearest even (R201, R202, R422). -/
def fSum (ty : Nat) (l : List Nat) : Nat := (((l.map (valOf ty)).foldl XAcc.add {}).readout ty).1

/-- Combine integer or floating-point elements pairwise over a list. -/
def fold1 (f : Nat → Nat → Nat) : List Nat → Nat
  | [] => 0
  | x :: xs => xs.foldl f x

/-- One element of the combination of a list (R417, R422). -/
def pinchElem (op ty : Nat) (l : List Nat) : Nat :=
  let w := pinchBits ty
  let ft := if ty = 4 then 0 else 1
  let key (x : Nat) : Int := if ty = 2 then (x : Int) else sgn w x
  match op with
  | 1 => if 4 ≤ ty then fSum ft l else l.sum % 2 ^ w
  | 2 => fold1 (fun a b => if 4 ≤ ty then fMin ft a b else if key b < key a then b else a) l
  | 3 => fold1 (fun a b => if 4 ≤ ty then fMax ft a b else if key a < key b then b else a) l
  | 4 => fold1 (· &&& ·) l
  | 5 => fold1 (· ||| ·) l
  | 6 => fold1 (· ^^^ ·) l
  | _ => 0

/-- The combination of 16-byte values, a number (R422); 0 for a BARRIER. -/
def pinchValue (op ty : Nat) (vals : List Nat) : Nat :=
  if op = 0 then 0
  else
    let w := pinchBits ty
    packE w ((List.range (128 / w)).map fun k => pinchElem op ty (vals.map fun v => bits v (w * k) w))

/-! ### Pinch frames (Table 12.7, R424, R425) -/

/-- The 32-byte header; `value` is the value's number, its elements from byte 0 (R417). -/
def pinchFrame (typ flags : Nat) (x : Group) (optype seq count value : Nat) : List Byte :=
  ([BitVec.ofNat 8 typ, BitVec.ofNat 8 flags] : List Byte) ++ beBytes 2 x.pkey ++ beBytes 2 x.tag ++
    ([BitVec.ofNat 8 optype, BitVec.ofNat 8 x.gen] : List Byte) ++ beBytes 4 seq ++ beBytes 4 count ++ leBytes 16 value

/-- A frame of group `g` waits on port `p` for a token. -/
def State.pinchQueue (s : State) (g p : Nat) (f : List Byte) : State :=
  { s with col := { s.col with out := tput s.col.out p (mget [] s.col.out p ++ [(g, f)]) } }

/-- Send an ARRIVE or a RELEASE: the sender keeps it until it is acknowledged (R425). -/
def State.pinchSend (s : State) (g p : Nat) (f : List Byte) : State :=
  let s1 := s.pinchQueue g p f
  { s1 with col := { s1.col with kept := s1.col.kept ++ ([⟨p, g, f, 0⟩] : List Kept) } }

/-- Tokens of a port's pinch bucket now (R424): RATE per microsecond up to BURST. -/
def State.pinchTokens (s : State) (p : Nat) : Nat :=
  let miss := mget 0 s.col.spent p - (s.time / 2000 - mget 0 s.col.filled p) * max 1 (s.get COL_PINCH_CAP_RATE)
  max 1 (s.get COL_PINCH_CAP_BURST) - miss

/-- Take a token. -/
def State.pinchTake (s : State) (p : Nat) : State :=
  let miss := mget 0 s.col.spent p - (s.time / 2000 - mget 0 s.col.filled p) * max 1 (s.get COL_PINCH_CAP_RATE)
  { s with col := { s.col with spent := tput s.col.spent p (miss + 1), filled := tput s.col.filled p (s.time / 2000) } }

/-- Whether PAUSE or PFC of the peer stops frames of VC `vc` on port `p` (R452). -/
def State.paused (s : State) (p vc : Nat) : Bool :=
  let pcp := s.get (match vc with
    | 1 => MAC_VC_PCP_VC1
    | 2 => MAC_VC_PCP_VC2
    | 3 => MAC_VC_PCP_VC3
    | _ => MAC_VC_PCP_VC4)
  !s.portAttach p && bit (s.get (MAC_STATUS_PAUSED p)) pcp

/-- The tag of a frame of a VC on port `p` (R450). -/
def State.vlanTag (s : State) (p vc : Nat) : Option (Nat × Nat) :=
  if s.on (MAC_PORT_CFG_VLAN_EN p) then
    some (s.get (match vc with
      | 1 => MAC_VC_PCP_VC1
      | 2 => MAC_VC_PCP_VC2
      | 3 => MAC_VC_PCP_VC3
      | _ => MAC_VC_PCP_VC4), s.get (MAC_PORT_CFG_VID p))
  else none

/-- Send an Ethernet frame to the link peer of port `p`. -/
def State.sendEth (s : State) (p vc etype : Nat) (ip : Option Ip) (n : Nat) (data : List Byte) : State :=
  let t := s.vlanTag p vc
  let len := max 64 (18 + (if t.isSome then 4 else 0) + n)
  let f : Frame := ⟨s.get (MAC_PEER_ADDR_VAL p), s.get (MAC_ADDR_VAL p), t, etype, len, true, ip, data⟩
  ((s.setSent p (.ethernet f)).countTx p len false).lpiExit p

/-- Credits of an attach port for `n` units of VC `vc` (R442). -/
def State.creditOk (s : State) (p vc n : Nat) : Bool :=
  n ≤ (mget 0 s.net.credit (p * 8 + vc) + 2 ^ 32 - mget 0 s.net.units (p * 8 + vc)) % 2 ^ 32

/-- Spend them. -/
def State.spendUnits (s : State) (p vc n : Nat) : State :=
  { s with net := { s.net with units := tput s.net.units (p * 8 + vc) ((mget 0 s.net.units (p * 8 + vc) + n) % 2 ^ 32) } }

/-- Send an attach frame of VC `vc` with its frame CRC (R440). -/
def State.sendAttach (s : State) (p vc : Nat) (hdr payload : List Byte) : State :=
  let b := hdr ++ payload
  (((s.setSent p (.attach (b ++ beBytes 4 (crc32c b)))).countTx p (b.length + 4) false).spendUnits p vc
    (frameUnits payload.length))

/-- Whether a pinch frame may be sent on port `p` now: one waits, the port is up, a token and, on an attach port,
credit is there, and no flow control stops it (R424, R442, R452). -/
def State.pinchReady (s : State) (p : Nat) : Bool :=
  mget [] s.col.out p != [] && s.portUp p && s.pinchTokens p != 0 &&
    (if s.portAttach p then s.creditOk p 3 4 else !s.paused p 3)

/-- A trace record of pinch frame `f`: SEND (3) or RECV (4) at port `p` (Table 19.2). -/
def State.tracePinch (s : State) (kind p : Nat) (f : List Byte) : State :=
  s.trace 7 kind (srcPort p) p 0 0 (leBytes 2 (beAt f 4 2) ++ sliceB f 0 2 ++ leBytes 4 (beAt f 8 4) ++ sliceB f 7 1)

/-- Send the first waiting pinch frame of port `p`: its key is checked on leaving (R421, R444). -/
def State.pinchSendFront (s : State) (p : Nat) : State :=
  match mget [] s.col.out p with
  | [] => s
  | (g, f) :: rest =>
    let s1 := ({ s with col := { s.col with out := mset [] s.col.out p rest } } : State).pinchTake p
    let key := beAt f 2 2
    if !(s1.portAdmits p key false && s1.instAdmits (s1.groupInst g) key) then s1.pkeyDrop p
    else if s1.portAttach p then
      (s1.tick.sendAttach p 3 (fabricHeader 3 32 (Config.freeNat s1.free % 65536) (s1.get LNK_SELF_ID) key
        (s1.get LNK_DOWN_CFG_HOP_LIMIT) 0) f).tracePinch 3 p f
    else (s1.sendEth p 3 (s1.get COL_PINCH_CFG_ETHERTYPE) none 46 (f ++ List.replicate 14 0)).tracePinch 3 p f

/-! ### Delivery, combination and failure (R420, R422, R423, R426) -/

/-- Deliver a result at this member (R423): COUNT and value, or a failure. -/
def State.pinchDeliver (s : State) (g : Nat) (x : Group) (failed : Bool) (count value : Nat) : State :=
  let sig : Sig := ⟨(if failed then 1 else 0) + 2 + 3 * 32, if failed then stHOLE else stOK, 0xFFFC, 0, s.pick, x.seq, count,
    0, 16, 0, 0, if failed then 0 else value⟩
  let i := s.groupInst g
  let s1 := if bit x.deliver 0 then s.cqForce x.resultQ sig else s
  let s2 := if bit x.deliver 1 then s1.hostPut i (x.hostResult + x.seq % 2 * 64) (sig.image x.resultQ 0) else s1
  let s3 := s2.bump COL_PINCH_OPS_VAL
  let s4 := if failed then (s3.bump COL_PINCH_FAILED_VAL).raise COL_EVENT_PINCH_FAILED else s3
  if x.s0.posts.isEmpty then s4
  else s4.put COL_PINCH_LAT_MAX_VAL (max (s4.get COL_PINCH_LAT_MAX_VAL) (s.ns - x.s0.at_))

/-- Send RELEASE to every child port of the group that is up. -/
def State.releaseDown (s : State) (g : Nat) (x : Group) (failed : Bool) (optype count value : Nat) : State :=
  ((s.children x).filter s.portUp).foldl (fun s p =>
    s.pinchSend g p (pinchFrame 2 (if failed then 1 else 0) x optype x.seq count value)) s

/-- The lowest slot is released at this member: delivered, sent down, and reopened for SEQ s + 2 (R420, R422). -/
def State.release (s : State) (g : Nat) (failed : Bool) (optype count value : Nat) : State :=
  let x := s.group g
  let s1 := s.pinchDeliver g x failed count value
  let s2 := s1.releaseDown g x failed optype (if failed then 0 else count) (if failed then 0 else value)
  s2.setGroup g { x with seq := (x.seq + 1) % 2 ^ 32, s0 := x.s1, s1 := {} }

/-- A node fails its open operation (R426). -/
def State.pinchFail (s : State) (g : Nat) : State :=
  let x := s.group g
  if x.state != 1 then s
  else
    let ot := match x.s0.posts with
      | c :: _ => c.optype
      | [] => 0
    let s1 := if x.parent < 24 && s.portUp x.parent then s.pinchSend g x.parent (pinchFrame 1 1 x ot x.seq 0 0) else s
    let s2 := s1.releaseDown g x true ot 0 0
    let s3 := (s2.pinchDeliver g x true 0 0).setGroup g { x with s0 := {}, s1 := {} }
    s3.groupError g

/-- Whether every input of a slot is there (R422). -/
def State.slotFull (s : State) (x : Group) (k : PinchSlot) : Bool :=
  k.posts.length == x.local_ && (s.children x).all fun p => (tfind k.kids p).isSome

/-- The combination of a slot's posts and child values: COUNT and value. -/
def slotResult (k : PinchSlot) : Nat × Nat :=
  let l := k.posts ++ k.kids.map (·.2)
  let ot := match l with
    | c :: _ => c.optype
    | [] => 0
  ((l.map (·.count)).sum, pinchValue (ot % 16) (ot / 16) (l.map fun c => leNat c.value))

/-- OP and TYPE of a slot: those of its first post. -/
def PinchSlot.optype (k : PinchSlot) : Nat :=
  match k.posts with
  | c :: _ => c.optype
  | [] => match k.kids with
    | c :: _ => c.2.optype
    | [] => 0

/-- Slots that are full combine: ARRIVE goes up, or the root releases (R422). -/
def State.combine (s : State) (g : Nat) : Nat → State
  | 0 => s
  | f + 1 =>
    let x := s.group g
    if x.state != 1 then s
    else if x.parent = 0x1F then
      if x.s0.bad then (s.release g true x.s0.optype 0 0).combine g f
      else if s.slotFull x x.s0 then
        let r := slotResult x.s0
        let bad := r.1 != x.total
        ((s.raiseIf bad COL_EVENT_COUNT_MISMATCH).release g bad x.s0.optype r.1 r.2).combine g f
      else s
    else if s.slotFull x x.s0 && !x.s0.up then
      let r := slotResult x.s0
      ((s.pinchSend g x.parent (pinchFrame 1 0 x x.s0.optype x.seq r.1 r.2)).setGroup g
        { x with s0 := { x.s0 with up := true } }).combine g f
    else if s.slotFull x x.s1 && !x.s1.up then
      let r := slotResult x.s1
      (s.pinchSend g x.parent (pinchFrame 1 0 x x.s1.optype ((x.seq + 1) % 2 ^ 32) r.1 r.2)).setGroup g
        { x with s1 := { x.s1 with up := true } }
    else s

/-! ### Posts (R419, R420) -/

/-- Add a post to a slot. -/
def PinchSlot.post (k : PinchSlot) (c : Contrib) (now : Nat) : PinchSlot :=
  { k with posts := k.posts ++ [c], at_ := if k.posts.isEmpty then now else k.at_ }

/-- A post of the queue counts toward its group's lower open slot, or none while both are full. -/
def State.placePost (s : State) (q : Post) : Option State :=
  let x := s.group q.group
  if x.state != 1 then some ((s.bump COL_POST_REFUSED_VAL).raise COL_EVENT_POST_REFUSED)
  else
    let put (low : Bool) : State :=
      let k := if low then x.s0 else x.s1
      let k1 := k.post q.c s.ns
      let s1 := s.setGroup q.group (if low then { x with s0 := k1 } else { x with s1 := k1 })
      if (k.posts ++ k.kids.map (·.2)).any (·.optype != q.c.optype) then s1.pinchFail q.group else s1.combine q.group 4
    if x.s0.posts.length < x.local_ then some (put true)
    else if x.s1.posts.length < x.local_ then some (put false)
    else none

/-- The posts at the head of a die's queue take their slots (R420). -/
def State.drainPosts (s : State) (d : Nat) : Nat → State
  | 0 => s
  | f + 1 =>
    match mget [] s.col.posts d with
    | [] => s
    | q :: rest =>
      match s.placePost q with
      | none => s
      | some s1 =>
        ({ s1 with col := { s1.col with posts := mset [] s1.col.posts d rest } } : State).drainPosts d f

/-- Every die's queue. -/
def State.drainAll (s : State) : State := [0, 1, 2, 3].foldl (fun s d => s.drainPosts d 65) s

/-- Post to local group `k` of instance `i` through the queue of die `d`; the RESULT: OK, ACCESS or BUSY (R419). -/
def State.post (s : State) (i d k op ty : Nat) (rsvd : Bool) (value : List Byte) : State × Nat :=
  let g := s.groupNo i k
  if s.groupShare ≤ k || (s.group g).state != 1 || rsvd || !pinchOk op ty then
    ((s.bump COL_POST_REFUSED_VAL).raise COL_EVENT_POST_REFUSED, stACCESS)
  else if 64 ≤ (mget [] s.col.posts d).length then (s, stBUSY)
  else
    let w := pinchBits ty
    let v := if op = 0 then List.replicate 16 0 else sliceB value 0 (128 / w * w / 8)
    let q : Post := ⟨g, ⟨op + 16 * ty, 1, v⟩⟩
    (({ s with col := { s.col with posts := tput s.col.posts d (mget [] s.col.posts d ++ [q]) } } : State).drainPosts d 65, stOK)

/-! ### Weft collectives end (R405, R411, R413) -/

/-- Bits of output elements and count of them at this member (R407). -/
def ColOp.op (o : ColOp) : Nat := byteAt o.desc 2
def ColOp.redop (o : ColOp) : Nat := byteAt o.desc 3 % 16
def ColOp.repro (o : ColOp) : Bool := byteAt o.desc 3 / 16 == 1
def ColOp.inTy (o : ColOp) : Nat := byteAt o.desc 4 % 16
def ColOp.outTy (o : ColOp) : Nat := byteAt o.desc 4 / 16
def ColOp.root (o : ColOp) : Nat := leAt o.desc 6 2
def ColOp.count (o : ColOp) : Nat := leAt o.desc 8 4
def ColOp.chunk (o : ColOp) : Nat := leAt o.desc 12 4
def ColOp.src (o : ColOp) : Nat := leAt o.desc 16 8 % 2 ^ 57
def ColOp.dst (o : ColOp) : Nat := leAt o.desc 24 8 % 2 ^ 57
def ColOp.queue (o : ColOp) : Nat := leAt o.desc 32 2

/-- Output elements at a member of a group of `n` with rank `r`. -/
def ColOp.outs (o : ColOp) (n r : Nat) : Nat :=
  match o.op with
  | 1 => o.count
  | 2 => o.count / n
  | 3 => o.count * n
  | 4 => o.count
  | _ => if o.root = r then o.count else 0

/-- Chunks of output, one signal each; a member without output writes one (R411). -/
def ColOp.chunks (o : ColOp) (x : Group) : Nat := max 1 (ceilDiv (o.outs x.size x.rank) (max 1 o.chunk))

/-- The chunk signal of chunk `k` of an operation, `flags` beside SOURCE 2 (R411, R413). -/
def State.colSig (s : State) (o : ColOp) (x : Group) (k flags st cvt bytes miss : Nat) : Sig :=
  let w := typeBits o.outTy
  let n := o.outs x.size x.rank
  ⟨flags + 64, st, 0xFFFD, cvt, s.pick, k, o.chunks x, if n = 0 then 0 else o.dst + k * o.chunk * w / 8, bytes, miss,
    if miss = 0 then 0 else k, 0⟩

/-- A trace record of a collective: BEGIN (1) or END (2) (Table 19.2). -/
def State.traceCol (s : State) (g : Nat) (d : List Byte) (kind st : Nat) : State :=
  s.traceBy 8 kind (s.groupInst g) 5 g st (sliceB d 2 2 ++ leBytes 2 0 ++ sliceB d 8 4)

/-- A weft collective completes with status `st` (R411): its counters, its ring entry. -/
def State.colComplete (s : State) (g : Nat) (o : ColOp) (st : Nat) : State :=
  let s1 := s.bump COL_RUNS_VAL
  let s2 := (if st = stOK then s1 else (s1.bump COL_RUN_HOLE_VAL).raise COL_EVENT_RUN_HOLE).traceCol g o.desc 2 st
  match o.ring with
  | some (q, slot) => s2.complete (s.groupInst g) q slot st 0
  | none => s2

/-- The hole signal of an early end, of the first unsignalled chunk and every later one, in the form of R232. -/
def State.colHole (s : State) (o : ColOp) (x : Group) (st : Nat) : Sig :=
  s.colSig o x o.next 3 st 0 0 (o.chunks x - o.next)

/-- End an operation early (R413): the signal waits for room in its queue. -/
def State.colEndOp (s : State) (g : Nat) (x : Group) (o : ColOp) (st : Nat) : State × Option ColOp :=
  if s.on (SKN_CQ_CFG_ENABLE o.queue) && s.cqFull o.queue then (s, some { o with due := st })
  else if s.on (SKN_CQ_CFG_ENABLE o.queue) then ((s.cqPut o.queue (s.colHole o x st)).colComplete g o st, none)
  else (s.colComplete g o st, none)

/-- A member cannot obtain data: every collective of the group that has not ended ends early at this member, and the
group enters ERROR (R413). -/
def State.colEarlyEnd (s : State) (g st : Nat) : State :=
  let x := s.group g
  if x.state = 0 then s
  else
    let r := x.ops.foldl (fun (acc : State × List ColOp) o =>
      if o.due != 0 then (acc.1, acc.2 ++ [o])
      else
        let e := acc.1.colEndOp g x o st
        (e.1, acc.2 ++ e.2.toList)) (s, [])
    let s1 := r.1.setGroup g { r.1.group g with ops := r.2 }
    if x.state = 1 then s1.groupError g else s1

/-- Every outstanding weft collective of the group completes ABORTED, and its pinch slots, kept frames and waiting
frames are dropped (R405). -/
def State.groupAbort (s : State) (g : Nat) : State :=
  let x := s.group g
  let s1 := x.ops.foldl (fun s o =>
    (if s.on (SKN_CQ_CFG_ENABLE o.queue) then s.cqForce o.queue (s.colHole o x stABORTED) else s).colComplete g o stABORTED) s
  let s2 := s1.setGroup g { s1.group g with ops := [], s0 := {}, s1 := {} }
  { s2 with col := { s2.col with
      kept := s2.col.kept.filter (·.group != g)
      out := s2.col.out.map fun p => (p.1, p.2.filter (·.1 != g))
      posts := s2.col.posts.map fun p => (p.1, p.2.filter (·.group != g)) } }

/-- A group becomes FREE and its queue pairs are unbound (R404, R405). -/
def State.groupDestroy (s : State) (g : Nat) : State :=
  let s1 := s.groupAbort g
  { s1.setGroup g {} with qp := { (s1.setGroup g {}).qp with
      qps := s1.qp.qps.map fun p => (p.1, if p.2.group = some g then { p.2 with group := none } else p.2) } }

/-- A port goes down: open pinch operations that use it fail (R426, R436). -/
def State.pinchPortDown (s : State) (p : Nat) : State :=
  ((List.range 1024).filter fun g =>
    let x := s.group g
    x.state == 1 && (x.parent == p || (s.children x).contains p)).foldl (fun s g => s.pinchFail g) s

end Sys2Proof.Machine
end

