-- ==== Sys2Proof/Machine/Transport.lean ====
section
/-! DEFINITION. Queue pairs and reliable transport (10_transport.md R341 to R375) and the rate and path rules of a queue
pair (11_weft_and_congestion.md R386 to R394): the shared operations. -/
namespace Sys2Proof.Machine
open Sys2Proof

/-! ### Queue pairs (R341 to R343) -/

/-- Queue pair `n`, where it has been created. -/
def State.qp? (s : State) (n : Nat) : Option Qp := tfind s.qp.qps n

/-- Queue pair `n` becomes `x`. -/
def State.setQp (s : State) (n : Nat) (x : Qp) : State := { s with qp := { s.qp with qps := tput s.qp.qps n x } }

/-- The instance that owns queue pair `n` (R341). -/
def State.qpInst (s : State) (n : Nat) : Nat := n / (2 ^ 20 / s.nInst)

/-- Payload bytes of a packet, and packets in flight (Table 10.1). -/
def Qp.mtuB (x : Qp) : Nat := 512 * 2 ^ x.mtu
def Qp.win (x : Qp) : Nat := 2 ^ (8 + x.window)

/-- The packets of a message (R348, R357). -/
def Qp.pkts (x : Qp) (len : Nat) : Nat := max 1 (ceilDiv len x.mtuB)

/-- The request that holds PSN `p`. -/
def Qp.holder (x : Qp) (p : Nat) : Option Req :=
  x.reqs.find? fun r => match r.first with
    | some f => f ≤ p && p < f + r.built
    | none => false

/-- Whether PSN `p` belongs to a READ. -/
def Qp.isRead (x : Qp) (p : Nat) : Bool :=
  match x.holder p with
  | some r => r.read
  | none => false

/-- Some PSN is unacknowledged and not in FAULT_WAIT (R361). -/
def Qp.live (x : Qp) : Bool := x.acked.length + x.wait.length < x.sndNxt - x.sndUna

/-- Something waits for the pacer. -/
def Qp.waiting (x : Qp) : Bool :=
  !x.resp.isEmpty || !x.retx.isEmpty || x.reqs.any fun r => r.built < x.pkts r.len

/-- A queue pair with nothing waiting that gets a packet has its release time raised to now (R386). -/
def Qp.gets (x : Qp) (now : Nat) (y : Qp) : Qp := if x.waiting then y else { y with release := max y.release now }

/-! ### Arriving PSNs (R353, R522) -/

/-- Where an arriving PSN lies from `base` with a window of `win`: the PSN without the modulus and whether it is before
`base`; none out of window. -/
def psnFrom (base win : Nat) (p : TPkt) : Option (Nat × Bool) :=
  let m := if p.enc then 2 ^ 40 else 2 ^ 24
  let w := if p.enc then p.hi * 2 ^ 24 + p.psn else p.psn
  let d := (w + m - base % m) % m
  let e := (m - d) % m
  if d < win then some (base + d, false)
  else if e < 2 ^ 23 then some (base - e, true)
  else none

/-- A 24-bit PSN field counted from `base`, before it or after it. -/
def psnField (base w : Nat) : Nat :=
  let d := (w + 2 ^ 24 - base % 2 ^ 24) % 2 ^ 24
  if d < 2 ^ 23 then base + d else base - (2 ^ 24 - d)

/-! ### Timer and rate settings (R360, R387, R388) -/

/-- Limits of RTO in units of 1/1024 ns (QP_TIMER_CFG counts 0.25 µs). -/
def rtoUnit : Nat := 250 * 1024
def State.rtoMin (s : State) : Nat := max 1 (s.get QP_TIMER_CFG_RTO_MIN) * rtoUnit
def State.rtoMax (s : State) : Nat := max (s.get QP_TIMER_CFG_RTO_MAX * rtoUnit) s.rtoMin

/-- RTO of a queue pair without doublings (R360). -/
def State.rtoOf (s : State) (x : Qp) : Nat :=
  if x.sampled then max s.rtoMin (min (x.srtt + 4 * x.rttvar) s.rtoMax)
  else max 1 (s.get QP_TIMER_CFG_RTO_INIT) * rtoUnit

/-- The timer is started, or stops when nothing is left for it (R361). -/
def State.startTimer (s : State) (x : Qp) : Qp :=
  if x.live then { x with timer := true, rto := if x.retry = 0 then s.rtoOf x else x.rto }
  else { x with timer := false }

/-- Floor of R in Mb/s. -/
def State.rateMin (s : State) : Nat := max 1 (s.get CC_RATE_CFG_RATE_MIN) * 100

/-- R_MAX in Mb/s (R387). -/
def rateMax : Nat := 1600000

/-- R becomes `r`, held to its limits; reaching the floor raises RATE_FLOOR (R387, R389). -/
def State.setRate (s : State) (x : Qp) (r : Nat) : State × Qp :=
  let r1 := max s.rateMin (min r rateMax)
  (s.raiseIf (r1 == s.rateMin && s.rateMin < x.rate) CC_EVENT_RATE_FLOOR, { x with rate := r1 })

/-- BASE_RTT: the smallest sample of the last BASE_WINDOW_MS ms, ns (R388). -/
def State.baseRtt (s : State) (x : Qp) : Nat :=
  let l := (x.rtts.filter fun p => s.ns ≤ p.1 + max 1 (s.get CC_ALGO_CFG_BASE_WINDOW_MS) * 1000000).map (·.2)
  match l with
  | [] => 0
  | a :: as => as.foldl min a

/-! ### Paths (R392 to R394) -/

/-- PATHS. -/
def State.paths (s : State) : Nat := max 1 (min 16 (s.get CC_SPRAY_CFG_PATHS))

/-- The egress port that path `p` takes, if it can be used now: for an IP-routed queue pair the (p mod n)-th port of
its instance (R450), else the route of its endpoint (R447). -/
def State.pathPort (s : State) (i : Nat) (x : Qp) (p : Nat) : Option Nat :=
  if x.peer.kind = 1 then
    let e := LNK_ROUTE x.peer.ep
    let n := min 8 (s.get (LNK_ROUTE_COUNT x.peer.ep))
    ((List.range n).map fun k => bits (s.reg e) (5 * ((p + k) % n)) 5).find? s.portUp
  else
    let l := (List.range 24).filter fun k => bit (s.reg (MAC_IP_EGRESS i)) k
    let en := s.on (if x.peer.kind = 4 then QP_UDP_CFG_IPV4_EN else QP_UDP_CFG_IPV6_EN)
    match l[p % l.length]? with
    | some q => if en && s.portUp q && !s.portAttach q then some q else none
    | none => none

/-- Whether path `p` has a port that can carry a packet of `n` bytes (R380, R393). -/
def State.pathCarries (s : State) (i : Nat) (x : Qp) (n p : Nat) : Bool :=
  match s.pathPort i x p with
  | some q => match s.longestRun q with
    | some r => frameUnits n ≤ r
    | none => true
  | none => false

/-- The path for a packet of `n` bytes, avoiding that of the copy it replaces (R393). -/
def State.choosePath (s : State) (i : Nat) (x : Qp) (n : Nat) (avoid : Option Nat) : Option Nat :=
  let all := (List.range s.paths).filter (s.pathCarries i x n)
  let clear := all.filter fun p => !x.quar.contains p
  let other := clear.filter fun p => some p != avoid
  let pool := if other.isEmpty then clear else other
  let after (p : Nat) : Nat := (p + 2 * s.paths - x.lastPath % s.paths - 1) % s.paths
  match leastBy (fun p => x.scores.getD p 0 * 16 + after p) pool with
  | some p => some p
  | none => x.quar.find? fun p => all.contains p

/-- The PSNs that a packet covers: a READ_REQ those of the packets it asks for (R357, R394). -/
def TPkt.span (p : TPkt) (x : Qp) : Nat := if p.op = 2 then x.pkts (beAt p.ext 12 4) else 1

/-- A packet of queue pair `n` enters the class FIFO of the port of path `path` (R379, R404). -/
def State.pushOwn (s : State) (n : Nat) (x : Qp) (path : Nat) (p : TPkt) : State :=
  let i := s.qpInst n
  let x1 := { x with
    lastPath := path
    copies := if p.op ≤ 2 then (List.range (p.span x)).foldl (fun m j => tput m (p.psn + j) path) x.copies else x.copies }
  let s1 := s.setQp n x1
  match s1.pathPort i x path with
  | some q => s1.enqueue q ⟨if x.group.isSome then 1 else 2, i, path, .own n p, none⟩
  | none => s1

/-- A packet of queue pair `x` without its extension (Table 10.5). -/
def Qp.pkt (x : Qp) (op flags psn hi echo : Nat) (ext payload : List Byte) : TPkt := {
  op := op, flags := flags + (if x.cipher = 0 then 0 else 64), pkey := x.pkey, tenant := x.tenant, dst := x.dst
  psn := psn, tx := 0, echo := echo, ext := ext, payload := payload, hi := hi % 65536 }

/-- Send an ACK, NAK, RESUME or CE_ECHO, which are not paced (R386); where no path can carry it, it waits (R393). -/
def State.sendCtl (s : State) (n : Nat) (p : TPkt) : State :=
  match s.qp? n with
  | none => s
  | some x =>
    match s.choosePath (s.qpInst n) x p.bytes.length none with
    | some path => s.pushOwn n x path p
    | none => (s.setQp n { x with ctl := x.ctl ++ [p] }).raise CC_EVENT_NO_FIT

/-! ### Acknowledgement (R358) -/

/-- Send an ACK that answers a packet with PSN `psn` and timestamp `ts`. -/
def State.sendAck (s : State) (n psn hi ts : Nat) : State :=
  match s.qp? n with
  | none => s
  | some x =>
    let sack := ((List.range 128).map fun k => if x.got.contains (x.cum + 1 + k) then 2 ^ k else 0).sum
    (s.setQp n { x with ackNew := 0, ackOwed := false }).sendCtl n
      (x.pkt 0x10 0 psn hi ts (beBytes 4 (x.cum % 2 ^ 24) ++ beBytes 16 sack) [])

/-- Send a NAK with a code (Table 10.6) for the packet `p`. -/
def State.sendNak (s : State) (n code : Nat) (p : TPkt) : State :=
  match s.qp? n with
  | none => s
  | some x =>
    let s1 := if code = 1 then (s.bump QP_ACCESS_NAK_VAL).raise QP_EVENT_ACCESS_NAK_TX
      else if code = 2 then (s.bump QP_FAULT_WAIT_VAL).raise QP_EVENT_FAULT_WAIT else s
    s1.sendCtl n (x.pkt 0x11 0 p.psn p.hi p.tx (beBytes 4 (code * 2 ^ 24 + p.psn % 2 ^ 24)) [])

/-- CUM moves past the received PSNs that follow it, but not past a LAST packet whose notification is still to be written
(R354, R356). -/
def Qp.moveCum : Nat → Qp → Qp
  | 0, x => x
  | f + 1, x =>
    let owes := x.recs.any fun r => r.psn == x.cum && r.last && r.note && !x.noted.contains x.cum
    if x.got.contains x.cum && !owes then
      Qp.moveCum f { x with cum := x.cum + 1, got := x.got.filter (· != x.cum), noted := x.noted.filter (· != x.cum) }
    else x

/-- Forget what the receiver kept of messages that CUM has passed. -/
def Qp.prune (x : Qp) : Qp :=
  let done := ((x.recs.filter fun r => r.last && r.psn < x.cum).map fun r => r.psn + 1).foldl max 0
  { x with recs := x.recs.filter fun r => done ≤ r.psn }

/-- PSNs are received (R354): CUM moves, and an ACK is owed. -/
def Qp.receive (x : Qp) (psns : List Nat) : Qp :=
  let y := { x with got := x.got ++ psns.filter fun p => x.cum ≤ p && !x.got.contains p }
  (Qp.moveCum (y.got.length + 1) y).prune

/-- Whether the bitmap has a gap. -/
def Qp.hasGap (x : Qp) : Bool := x.got.any fun p => x.cum < p

/-! ### Completion and failure (R344, R345, R349) -/

/-- A trace record of a request: BEGIN (1) or END (2) (Table 19.2). -/
def State.traceQp (s : State) (kind n : Nat) (r : Req) (st : Nat) : State :=
  s.traceBy 4 kind (s.qpInst n) 3 (n % 65536) st (leBytes 4 n ++ leBytes 4 (r.first.getD 0 % 2 ^ 24) ++ leBytes 4 r.len ++
    leBytes 4 (if r.read then 2 else 1))

/-- Requests that are whole complete with OK, in the order they were taken (R349). -/
def State.settleReqs (s : State) (n : Nat) : Nat → State
  | 0 => s
  | f + 1 =>
    match s.qp? n with
    | none => s
    | some x =>
      match x.reqs with
      | [] => s
      | r :: rest =>
        match r.first with
        | none => s
        | some p =>
          if r.built = x.pkts r.len && p + r.built ≤ x.sndUna then
            let s1 := ((s.setQp n { x with reqs := rest, lastStatus := stOK }).complete (s.qpInst n) r.queue r.slot stOK 0).traceQp
              2 n r stOK
            (s1.raiseIf (rest.isEmpty && x.state == 4) QP_EVENT_DRAINED).settleReqs n f
          else s

/-- Packets of requests of queue pair `n` leave the class FIFOs. -/
def State.purgeOwn (s : State) (n : Nat) : State :=
  let gone (k : OutPkt) : Bool := match k.load with
    | .own m p => m == n && p.op ≤ 2
    | .fabric .. => false
  { s with net := { s.net with queues := (s.net.queues.map fun q => (q.1, q.2.filter fun k => !gone k)).filter (·.2 != []) } }

/-- Requests complete: the one that holds `psn` with `st`, the others with FLUSHED (R344). -/
def State.flushReqs (s : State) (n : Nat) (x : Qp) (named : Option Req) (st : Nat) : State :=
  x.reqs.foldl (fun s r =>
    let c := if some r = named then st else stFLUSHED
    (s.complete (s.qpInst n) r.queue r.slot c 0).traceQp 2 n r c) s

/-- The queue pair stops sending: no requests, no timer, no local fault. -/
def Qp.halt (x : Qp) (st : Nat) : Qp :=
  { x with state := st, reqs := [], retx := [], wait := [], sacked := [], timer := false, local_ := none }

/-- A local or remote fault of the queue pair no longer waits. -/
def State.dropWaiters (s : State) (n : Nat) (sel : Nat → Bool) : State :=
  { s with xlt := { s.xlt with parked := s.xlt.parked.filter fun p => match p.who with
      | .transport m q => !(m == n && sel q)
      | _ => true } }

/-- The waiter of a local buffer for PSN p is p beyond this (R367): PSNs of the responder's side lie below it. -/
def localTag : Nat := 2 ^ 40

/-- The device moves a queue pair to QPS_ERROR on its own (R344, Table 10.3). -/
def State.qpFail (s : State) (n psn st : Nat) : State :=
  match s.qp? n with
  | none => s
  | some x =>
    if x.state != 3 && x.state != 4 then s
    else
      let named := match x.holder psn with
        | some r => some r
        | none => x.reqs.head?
      let s1 := (s.flushReqs n x named st).purgeOwn n
      let x1 := { x.halt 5 with lastStatus := if x.reqs.isEmpty then x.lastStatus
        else if x.reqs.getLast? == named then st else stFLUSHED }
      let s2 := ((s1.setQp n x1).raise QP_EVENT_QP_ERROR).dropWaiters n (localTag ≤ ·)
      match x.group with
      | some g => s2.colEarlyEnd g st
      | none => s2

/-- Places of the shared receive buffer that a queue pair holds are freed. -/
def State.freeHeld (s : State) (x : Qp) : State := (x.fenced ++ x.held).foldl (fun s p => s.srbFree p.1) s

/-- Software moves a queue pair to QPS_RESET (R344, R346, R400): outstanding requests complete with `st`; placements that
passed their check and reads being answered run on. -/
def State.qpReset (s : State) (n st : Nat) : State :=
  match s.qp? n with
  | none => s
  | some x =>
    let s1 := ((x.reqs.foldl (fun s r => s.complete (s.qpInst n) r.queue r.slot st 0) s).purgeOwn n).freeHeld x
    let x1 : Qp := {
      asid := x.asid, sendQ := x.sendQ, notifyQ := x.notifyQ, tenant := x.tenant, pkey := x.pkey, mtu := x.mtu
      window := x.window, peer := x.peer, dst := x.dst, rqPsn := x.rqPsn, sqPsn := x.sqPsn, cipher := x.cipher
      lastStatus := if x.reqs.isEmpty then x.lastStatus else st
      placing := x.placing.map fun p => { p with live := false }
      resp := x.resp, ctl := x.ctl, release := x.release, group := x.group, lastPath := 15 }
    let s2 := (s1.setQp n x1).dropWaiters n fun _ => true
    match x.group with
    | some g => if x.state = 0 then s2 else s2.colEarlyEnd g stFLUSHED
    | none => s2

/-! ### RTT samples (R360, R361, R394) -/

/-- A sample from ECHO_TS `echo`, credited to the path of the copy of PSN `psn`. -/
def State.sample (s : State) (n psn echo : Nat) : State :=
  match s.qp? n with
  | none => s
  | some x =>
    let d := (s.ns + 2 ^ 32 - echo % 2 ^ 32) % 2 ^ 32
    let d10 := d * 1024
    let var := if x.sampled then (3 * x.rttvar + (if x.srtt ≤ d10 then d10 - x.srtt else x.srtt - d10)) / 4 else d10 / 2
    let srtt := if x.sampled then (7 * x.srtt + d10) / 8 else d10
    let x1 := { x with
      sampled := true, srtt := srtt, rttvar := var
      rtts := (s.ns, d) :: x.rtts.filter fun p => s.ns ≤ p.1 + 256000000
      least := some (match x.least with
        | some l => min l d
        | none => d) }
    let rto := max s.rtoMin (min (srtt + 4 * var) s.rtoMax)
    let x2 := if rto = x.rto then x1 else { x1 with rto := rto, timer := x1.live }
    let base := s.baseRtt x2
    let load := min 15 (4 * (d - base) / max 1 (s.get CC_ALGO_CFG_DELAY_TARGET_NS))
    match tfind x.copies psn with
    | some p =>
      let old := x2.scores.getD p 0
      let pad := x2.scores ++ List.replicate (16 - x2.scores.length) 0
      s.setQp n { x2 with scores := modifyAt (fun _ => (3 * old + load) / 4) p pad }
    | none => s.setQp n x2

/-- SND_UNA moves past the acknowledged PSNs that follow it. -/
def Qp.moveUna : Nat → Qp → Qp
  | 0, x => x
  | f + 1, x =>
    if x.acked.contains x.sndUna then
      Qp.moveUna f { x with
        sndUna := x.sndUna + 1, acked := x.acked.filter (· != x.sndUna)
        copies := tdel x.copies x.sndUna, sacked := x.sacked.filter (· != x.sndUna) }
    else x

/-- PSNs are acknowledged (R359, R361, R362): SND_UNA advances, RETRY and the timer follow, requests complete. -/
def State.ackPsns (s : State) (n : Nat) (l : List Nat) : State :=
  match s.qp? n with
  | none => s
  | some x =>
    let new := l.filter fun p => x.sndUna ≤ p && p < x.sndNxt && !x.acked.contains p
    let x1 := { x with
      acked := x.acked ++ new.eraseDups, wait := x.wait.filter fun p => !new.contains p
      retx := x.retx.filter fun p => !new.contains p }
    let x2 := Qp.moveUna (x1.acked.length + 1) x1
    let x3 := if x2.sndUna = x.sndUna then (if x2.live then x2 else { x2 with timer := false })
      else s.startTimer { x2 with retry := 0 }
    (s.setQp n x3).settleReqs n (x3.reqs.length + 1)

/-! ### Local buffers (R367) -/

/-- Read `m` bytes at `va` of the local buffers of queue pair `n` for PSN `psn`: the bytes, 0 for a wait on a fault, or the status of
Table 10.3. -/
def State.qpRead (s : State) (n psn asid va m : Nat) : State × Except Nat (List Byte) :=
  (pagePieces (m / 65536 + 2) va m).foldl (fun (acc : State × Except Nat (List Byte)) p =>
    match acc.2 with
    | .error e => (acc.1, .error e)
    | .ok bs =>
      let t := acc.1.translate (acc.1.qpInst n) asid p.1 false (.transport n (localTag + psn))
      match t.2 with
      | .ok pa =>
        let r := t.1.read pa p.2
        match r.2 with
        | some b => (r.1, .ok (bs ++ b))
        | none => (r.1, .error stHOLE)
      | .access => (t.1, .error stACCESS)
      | .unresolved => (t.1, .error stFAULT_UNRESOLVED)
      | .fault => (t.1, .error 0)
      | .waiting => (t.1, .error 0)) (s, .ok [])

/-- Translate the pieces of [va, va + m) for writing or reading for request `who` of instance `i`: the physical pieces
(address, offset, length), or what the walk found. -/
def State.pieces (s : State) (i asid va m : Nat) (wr : Bool) (who : Waiter) :
    State × Except XRes (List (Nat × Nat × Nat)) :=
  (pagePieces (m / 65536 + 2) va m).foldl (fun (acc : State × Except XRes (List (Nat × Nat × Nat))) p =>
    match acc.2 with
    | .error e => (acc.1, .error e)
    | .ok l =>
      let t := acc.1.translate i asid p.1 wr who
      match t.2 with
      | .ok pa => (t.1, .ok (l ++ [(pa, p.1 - va, p.2)]))
      | e => (t.1, .error e)) (s, .ok [])

/-! ### Regions (R368 to R372) -/

/-- Region entries of an instance. -/
def State.regionShare (s : State) : Nat := 2 ^ 24 / s.nInst

/-- The key of a region entry in the table of regions. -/
def regionKey (i idx : Nat) : Nat := i * 2 ^ 24 + idx

/-- Region entry `idx` of instance `i`. -/
def State.region (s : State) (i idx : Nat) : Region := mget {} s.qp.regions (regionKey i idx)

/-- It becomes `r`. -/
def State.setRegion (s : State) (i idx : Nat) (r : Region) : State :=
  { s with qp := { s.qp with regions := mset {} s.qp.regions (regionKey i idx) r } }

/-- The region check but for its translation (R368): [va, va + m) with tenant `t`. -/
def Region.admits (r : Region) (epoch t va m : Nat) (wr : Bool) : Bool :=
  r.state == 1 && r.epoch == epoch && r.tenant == t && (if wr then r.wr else r.rd) && r.base ≤ va && va + m ≤ r.base + r.len

/-- Refuse a packet with PSN `psn` (R369). -/
def State.refuse (s : State) (n psn : Nat) (p : TPkt) : State :=
  match s.qp? n with
  | none => s
  | some x =>
    (s.setQp n { x with refused := some (match x.refused with
      | some r => min r psn
      | none => psn) }).sendNak n 1 p

/-- Whether a PSN falls under a refusal (R369). -/
def Qp.isRefused (x : Qp) (psn : Nat) : Bool :=
  match x.refused with
  | some r => r ≤ psn
  | none => false

/-- Place a WRITE packet from place `id` of the shared receive buffer (R355, R365, R368). -/
def State.place (s : State) (n id psn : Nat) (p : TPkt) : State :=
  match s.qp? n with
  | none => s.srbFree id
  | some x =>
    let i := s.qpInst n
    let idx := beAt p.ext 8 4 / 256
    let va := beAt p.ext 0 8
    let m := p.payload.length
    let r := s.region i idx
    if s.regionShare ≤ idx || (r.state != 1 && r.state != 2) then (s.refuse n psn p).srbFree id
    else if x.faulted.contains psn && s.xlt.parked.any fun q => q.who == .transport n psn && !q.ready then
      (s.sendNak n 2 p).srbFree id
    else
      let t := s.pieces i r.asid va m true (.transport n psn)
      match t.2 with
      | .ok l =>
        if r.admits (beAt p.ext 8 4 % 256) p.tenant va m true then
          let k : Placing := ⟨psn, p, l.map fun q => (q.1, sliceB p.payload q.2.1 q.2.2), regionKey i idx, true⟩
          ((t.1.setRegion i idx { r with inflight := r.inflight + 1 }).setQp n { x with
            placing := x.placing ++ [k], faulted := x.faulted.filter (· != psn) }).srbFree id
        else (t.1.refuse n psn p).srbFree id
      | .error .access => (t.1.refuse n psn p).srbFree id
      | .error .unresolved => (t.1.sendNak n 3 p).srbFree id
      | .error _ =>
        if s.nInst = 1 then (t.1.setQp n { x with held := [(id, psn, p)], faulted := x.faulted ++ [psn] }).sendNak n 2 p
        else ((t.1.setQp n { x with faulted := x.faulted.filter (· != psn) ++ [psn] }).sendNak n 2 p).srbFree id

/-- Execute a READ_REQ (R357, R368): read the region and queue its responses; `new`: its PSNs become received. -/
def State.serveRead (s : State) (n id psn : Nat) (new : Bool) (p : TPkt) : State :=
  match s.qp? n with
  | none => s.srbFree id
  | some x =>
    let i := s.qpInst n
    let idx := beAt p.ext 8 4 / 256
    let va := beAt p.ext 0 8
    let m := beAt p.ext 12 4
    let r := s.region i idx
    if s.regionShare ≤ idx || (r.state != 1 && r.state != 2) then (s.refuse n psn p).srbFree id
    else if x.faulted.contains psn && s.xlt.parked.any fun q => q.who == .transport n psn && !q.ready then
      (s.sendNak n 2 p).srbFree id
    else
      let t := s.pieces i r.asid va m false (.transport n psn)
      match t.2 with
      | .ok l =>
        if r.admits (beAt p.ext 8 4 % 256) p.tenant va m false then
          let rd := l.foldl (fun (acc : State × Option (List Byte)) q =>
            match acc.2 with
            | none => acc
            | some bs =>
              let k := acc.1.read q.1 q.2.2
              (k.1, k.2.map (bs ++ ·))) (t.1, some [])
          match rd.2 with
          | none => rd.1.srbFree id
          | some bs =>
            let cnt := x.pkts m
            let rs : List (Nat × Nat × List Byte) := (List.range cnt).map fun k =>
              (psn + k, p.tx, (bs.drop (k * x.mtuB)).take x.mtuB)
            let y := { x with resp := x.resp ++ rs, faulted := x.faulted.filter (· != psn) }
            let y1 := if new then y.receive ((List.range cnt).map (psn + ·)) else y
            (rd.1.setQp n (x.gets s.time y1)).srbFree id
        else (t.1.refuse n psn p).srbFree id
      | .error .access => (t.1.refuse n psn p).srbFree id
      | .error .unresolved => (t.1.sendNak n 3 p).srbFree id
      | .error _ =>
        if s.nInst = 1 then (t.1.setQp n { x with held := [(id, psn, p)], faulted := x.faulted ++ [psn] }).sendNak n 2 p
        else ((t.1.setQp n { x with faulted := x.faulted.filter (· != psn) ++ [psn] }).sendNak n 2 p).srbFree id

/-! ### The end of a page's service (R365, R367, R292, R293) -/

/-- The service of the page that PSN `psn` of queue pair `n` waits on has ended: the local request goes on; in modes 16
and 4 a RESUME is sent; in mode 1 the held packet is placed. -/
def State.qpResume (s : State) (n psn : Nat) : State :=
  match s.qp? n with
  | none => s
  | some x =>
    if localTag ≤ psn then s.setQp n { x with local_ := if x.local_ = some (psn - localTag) then none else x.local_ }
    else if !x.faulted.contains psn then s
    else match x.held with
      | (id, q, p) :: _ =>
        let s1 := s.setQp n { x with held := [], faulted := x.faulted.filter (· != q) }
        if p.op = 1 then s1.place n id q p else s1.serveRead n id q (q == x.cum) p
      | [] =>
        (s.setQp n { x with faulted := x.faulted.filter (· != psn) }).sendCtl n
          (x.pkt 0x12 0 psn (psn / 2 ^ 24) 0 (beBytes 4 (psn % 2 ^ 24)) [])

/-- The page's faults end unresolved: NAK FAULT_UNRESOLVED for the PSN, or the local request fails. -/
def State.qpUnresolved (s : State) (n psn : Nat) : State :=
  match s.qp? n with
  | none => s
  | some x =>
    if localTag ≤ psn then s.qpFail n (psn - localTag) stFAULT_UNRESOLVED
    else
      let s1 := (s.setQp n { x with faulted := x.faulted.filter (· != psn), held := [] }).freeHeld { x with fenced := [] }
      s1.sendCtl n (x.pkt 0x11 0 psn (psn / 2 ^ 24) 0 (beBytes 4 (3 * 2 ^ 24 + psn % 2 ^ 24)) [])

/-! ### Receiving (R351, R391) -/

/-- A packet of the queue pair has arrived, with CE or without: the counts of R391, and a CE_ECHO at once where none has
been sent in the last ECHO_NS. -/
def State.ceCount (s : State) (n path : Nat) (ce : Bool) (p : TPkt) : State :=
  match s.qp? n with
  | none => s
  | some x =>
    let x1 := { x with arrived := x.arrived + 1 }
    if !ce then s.setQp n x1
    else
      let mask := x1.mask ||| 2 ^ path
      if x1.echoed then
        s.setQp n { x1 with marked := x1.marked + 1, mask := mask, cePsn := p.psn + p.hi * 2 ^ 24, ceTs := p.tx }
      else
        (s.setQp n { x1 with marked := 0, arrived := 0, mask := 0, echoed := true }).sendCtl n
          (x.pkt 0x20 0 p.psn p.hi p.tx
            (beBytes 4 (x1.marked + 1) ++ beBytes 4 x1.arrived ++ beBytes 2 mask ++ beBytes 6 0) [])

/-- A transport packet with opcode `op` in place `id` of the buffer, bound for local placement. -/
def State.rxPacket (s : State) (id op : Nat) : Option (SrbPkt × TPkt) :=
  match s.net.srb.find? fun k => k.id == id && 32 ≤ k.egress with
  | none => none
  | some k =>
    match parsePkt k.data with
    | some p => if p.op = op then some (k, p) else none
    | none => none

/-- Checks 3 to 5 of Table 10.7 and the counts of R390 and R391: the packet in clear, or none where it is discarded. -/
def State.rxChecks (s : State) (k : SrbPkt) (p : TPkt) : State × Option TPkt :=
  let s0 := s.bump QP_RX_PKTS_VAL
  match s0.qp? p.dst with
  | none => ((s0.bump QP_RX_BAD_VAL).srbFree k.id, none)
  | some x =>
    if x.state ≤ 1 then ((s0.bump QP_RX_BAD_VAL).srbFree k.id, none)
    else if x.state = 5 then ((s0.sendNak p.dst 4 p).srbFree k.id, none)
    else if p.tenant != x.tenant then
      (((s0.bump QP_TENANT_DROP_VAL).raise QP_EVENT_TENANT_DROP).srbFree k.id, none)
    else
      let e := s0.encCheck p.dst x.cipher p
      match e.2 with
      | none => (e.1.srbFree k.id, none)
      | some q =>
        let m := e.1.mark (e.1.egressUse k.egress) k.ect
        (m.1.ceCount p.dst k.path (k.ce || m.2) q, some q)

/-! ### What the QP_CTX_ and CC_QP_ registers show (R374, R399) -/

/-- QP_CTX_STATE of queue pair `n`. -/
def State.qpCtxState (s : State) (n : Nat) : Nat :=
  match s.qp? n with
  | none => 0
  | some x => x.state + x.retry * 8 + (if x.wait.isEmpty then 0 else 64) + (if x.refused.isSome then 128 else 0) +
      x.lastStatus * 2 ^ 8 + x.tenant * 2 ^ 16

/-- QP_CTX_TX. -/
def State.qpCtxTx (s : State) (n : Nat) : Nat :=
  match s.qp? n with
  | none => 0
  | some x => x.sndNxt % 2 ^ 24 + x.sndUna % 2 ^ 24 * 2 ^ 32

/-- QP_CTX_RX. -/
def State.qpCtxRx (s : State) (n : Nat) : Nat :=
  match s.qp? n with
  | none => 0
  | some x => x.cum % 2 ^ 24 + x.refused.getD 0 % 2 ^ 24 * 2 ^ 32

/-- QP_CTX_RTT. -/
def State.qpCtxRtt (s : State) (n : Nat) : Nat :=
  match s.qp? n with
  | none => 0
  | some x => x.srtt / 1024 % 2 ^ 32 + (if x.rto = 0 then s.rtoOf x else x.rto) / 1024 % 2 ^ 32 * 2 ^ 32

/-- CC_QP_RATE. -/
def State.ccQpRate (s : State) (n : Nat) : Nat :=
  match s.qp? n with
  | none => 0
  | some x => x.rate / 100 % 2 ^ 16 + (x.quar.eraseDups.map fun p => 2 ^ p).sum % 2 ^ 16 * 2 ^ 16 + s.baseRtt x % 2 ^ 32 * 2 ^ 32

/-- CC_QP_PATHS. -/
def State.ccQpPaths (s : State) (n : Nat) : Nat :=
  match s.qp? n with
  | none => 0
  | some x => packE 4 ((List.range 16).map fun p => x.scores.getD p 0)

/-- QP_RGN_DATA of region entry `idx` of instance `i`. -/
def State.rgnData (s : State) (i idx : Nat) : Nat :=
  let r := s.region i idx
  r.state + r.epoch * 4 + r.inflight % 2 ^ 16 * 2 ^ 10 + (if r.rd then 2 ^ 26 else 0) + (if r.wr then 2 ^ 27 else 0) +
    r.tenant * 2 ^ 28

end Sys2Proof.Machine
end

