-- ==== Sys2Proof/Machine/Weft.lean ====
section
/-! DEFINITION. The commands of queue pairs, regions and weft scheduling (10_transport.md R341 to R375,
11_weft_and_congestion.md R376 to R400). -/
namespace Sys2Proof.Machine
open Sys2Proof

/-- Run admin command `op`, taken at `slot` of queue 0 of instance `i`. -/
def State.adminCmd (s : State) (i slot op : Nat) (f : Entry → State) : Host.Outcome State Fault Refusal :=
  match s.entry? i 0 slot with
  | some e => if e.op = op then .next (f e) else .next s
  | none => .next s

/-- It completes with status `st`. -/
def State.adminEnd (s : State) (i slot st : Nat) (res : Nat := 0) : State := s.complete i 0 slot st res

/-- The status that an ill queue-pair number gives, 0 for none: `need`: the queue pair must exist. -/
def State.qpnFault (s : State) (i n : Nat) (need : Bool) : Nat :=
  if 2 ^ 20 ≤ n then stMALFORMED
  else if s.qpInst n != i then stACCESS
  else if need && (s.qp? n).isNone then stMALFORMED
  else 0

/-! ### Queue pairs (R342 to R346) -/

/-- QP_CREATE (R342, R343): a queue pair in QPS_RESET. -/
def execQpCreate (i slot : Nat) (s : State) : Host.Outcome State Fault Refusal :=
  s.adminCmd i slot 0x20 fun e =>
    let n := e.b 0 4
    let nq := e.b 8 4
    let bad := s.qpnFault i n false
    let q := nq % 65536
    if !e.rsvdZero [(0, 4), (4, 2), (6, 2), (8, 4)] || 4096 ≤ e.b 4 2 || 4096 ≤ e.b 6 2 || e.b 6 2 = 0 || 2 ^ 17 ≤ nq ||
        (nq < 65536 && 4096 ≤ q) then s.adminEnd i slot stMALFORMED
    else if bad != 0 then s.adminEnd i slot bad
    else if !s.asidOk i (e.b 4 2) || (65536 ≤ nq && s.cqOwner q != i) then s.adminEnd i slot stACCESS
    else if (s.qp? n).isSome then s.adminEnd i slot stBUSY
    else (s.setQp n { asid := e.b 4 2, sendQ := e.b 6 2, notifyQ := nq }).adminEnd i slot stOK

/-- The transitions of Table 10.2. -/
def qpMoves : List (Nat × Nat) :=
  [(0, 1), (1, 2), (1, 0), (1, 5), (2, 3), (2, 0), (2, 5), (3, 4), (3, 0), (3, 5), (4, 3), (4, 0), (4, 5), (5, 0)]

/-- The PEER field (R482); none where it is out of range. -/
def parsePeer (b : List Byte) : Option Peer :=
  let k := byteAt b 0
  let p : Peer := ⟨k, leAt b 2 2, beAt b 4 16, beAt b 20 16, leAt b 36 2⟩
  if byteAt b 1 != 0 || anyByte b 38 2 then none
  else if k = 1 then if anyByte b 2 34 || 0xF000 ≤ p.ep then none else some { p with base := 0, src := 0, dst := 0 }
  else if k = 4 then
    if anyByte b 36 2 || p.src / 2 ^ 32 != 0xFFFF || p.dst / 2 ^ 32 != 0xFFFF then none else some p
  else if k = 6 then if anyByte b 36 2 then none else some p
  else none

/-- The bytes of a PEER field. -/
def Peer.bytes (p : Peer) : List Byte :=
  ([BitVec.ofNat 8 p.kind, 0] : List Byte) ++ leBytes 2 p.base ++ beBytes 16 p.src ++ beBytes 16 p.dst ++ leBytes 2 p.ep ++
    leBytes 2 0

/-- The status that the cipher of a queue pair of tenant `t` gives at INIT to RTR, 0 for none (R519). -/
def State.cipherFault (s : State) (i t c : Nat) : Nat :=
  let k := s.keyCtx c
  if c = 0 then 0
  else if c / (65536 / s.nInst) != i then stACCESS
  else if k.p0.isNone && k.p1.isNone then stBUSY
  else if k.tenant != t then stACCESS
  else 0

/-- QPS_RESET to QPS_INIT (Table 10.1, R445). -/
def State.qpInit (s : State) (i : Nat) (e : Entry) (x : Qp) : Except Nat Qp :=
  let t := e.b 8 4
  let m := e.b 14 1
  let w := e.b 15 1
  if 2 ^ 20 ≤ t || m = 0 || 3 < m || 6 < w then .error stMALFORMED
  else if !s.instAdmits i (e.b 12 2) then .error stPARTITION
  else .ok { x with state := 1, tenant := t, pkey := e.b 12 2, mtu := m, window := w }

/-- QPS_INIT to QPS_RTR: the rate starts at INIT_PCT percent of R_MAX (Table 10.1, R387, R519). -/
def State.qpRtr (s : State) (i : Nat) (e : Entry) (x : Qp) : Except Nat Qp :=
  match parsePeer (sliceB e.raw 48 40) with
  | none => .error stMALFORMED
  | some p =>
    if 2 ^ 20 ≤ e.b 16 4 || 2 ^ 24 ≤ e.b 20 4 then .error stMALFORMED
    else
      let f := s.cipherFault i x.tenant (e.b 28 2)
      if f != 0 then .error f
      else
        let pct := max 1 (min 100 (s.get CC_RATE_CFG_INIT_PCT))
        .ok { x with
          state := 2, peer := p, dst := e.b 16 4, rqPsn := e.b 20 4, cipher := e.b 28 2, cum := e.b 20 4
          rate := max s.rateMin (rateMax * pct / 100), run := 0 }

/-- QP_MODIFY (R342 to R346): a transition of Table 10.2 with its attributes. -/
def execQpModify (i slot : Nat) (s : State) : Host.Outcome State Fault Refusal :=
  s.adminCmd i slot 0x21 fun e =>
    let n := e.b 0 4
    let bad := s.qpnFault i n true
    let t := e.b 4 4
    let named : List (Nat × Nat) := [(0, 30), (32, 40)]
    if !e.rsvdZero named || 5 < t then s.adminEnd i slot stMALFORMED
    else if bad != 0 then s.adminEnd i slot bad
    else match s.qp? n with
      | none => s
      | some x =>
        if !qpMoves.contains (x.state, t) then s.adminEnd i slot stBUSY
        else match x.state, t with
          | 0, 1 => match s.qpInit i e x with
            | .ok y => (s.setQp n y).adminEnd i slot stOK
            | .error st => s.adminEnd i slot st
          | 1, 2 => match s.qpRtr i e x with
            | .ok y => (s.setQp n y).adminEnd i slot stOK
            | .error st => s.adminEnd i slot st
          | 2, 3 =>
            if 2 ^ 24 ≤ e.b 24 4 then s.adminEnd i slot stMALFORMED
            else (s.setQp n { x with state := 3, sqPsn := e.b 24 4, sndNxt := e.b 24 4, sndUna := e.b 24 4 }).adminEnd i slot stOK
          | 3, 4 => ((s.setQp n { x with state := 4 }).raiseIf x.reqs.isEmpty QP_EVENT_DRAINED).adminEnd i slot stOK
          | 4, 3 => (s.setQp n { x with state := 3 }).adminEnd i slot stOK
          | _, 5 =>
            let s1 := (s.flushReqs n x none stFLUSHED).purgeOwn n
            let s2 := (s1.setQp n { x.halt 5 with
              lastStatus := if x.reqs.isEmpty then x.lastStatus else stFLUSHED }).dropWaiters n (localTag ≤ ·)
            (match x.group with
              | some g => s2.colEarlyEnd g stFLUSHED
              | none => s2).adminEnd i slot stOK
          | _, _ => (s.qpReset n stFLUSHED).adminEnd i slot stOK

/-- The 128 bytes of QP_QUERY (Table 14.8). -/
def State.qpImage (s : State) (n : Nat) (x : Qp) : List Byte :=
  leBytes 4 n ++ leBytes 4 x.state ++ leBytes 4 x.tenant ++ leBytes 2 x.pkey ++ leBytes 1 x.mtu ++ leBytes 1 x.window ++
    leBytes 4 x.dst ++ leBytes 4 x.rqPsn ++ leBytes 4 x.sqPsn ++ leBytes 2 x.cipher ++ leBytes 2 0 ++ x.peer.bytes ++
    leBytes 8 (s.qpCtxState n) ++ leBytes 8 (s.qpCtxTx n) ++ leBytes 8 (s.qpCtxRx n) ++ leBytes 8 (s.qpCtxRtt n) ++
    leBytes 24 0

/-- Write a response buffer of `n` bytes whose contents a poisoned line leaves unspecified (R483). -/
def State.badResponse (s : State) (i slot a n : Nat) : State :=
  let f := s.freeBytes n
  (f.1.hostPut i a f.2).adminEnd i slot stHOLE

/-- QP_QUERY (R342, R483): the attributes and the state go to the host. -/
def execQpQuery (i slot : Nat) (bad : Bool) (s : State) : Host.Outcome State Fault Refusal :=
  s.adminCmd i slot 0x22 fun e =>
    let n := e.b 0 4
    let f := s.qpnFault i n true
    if !e.rsvdZero [(0, 4), (8, 8)] then s.adminEnd i slot stMALFORMED
    else if f != 0 then s.adminEnd i slot f
    else if bad then s.badResponse i slot (e.b 8 8) 128
    else match s.qp? n with
      | some x => (s.hostPut i (e.b 8 8) (s.qpImage n x)).adminEnd i slot stOK
      | none => s

/-- QP_DESTROY (R343): a move to QPS_RESET, then the context is released. -/
def execQpDestroy (i slot : Nat) (s : State) : Host.Outcome State Fault Refusal :=
  s.adminCmd i slot 0x23 fun e =>
    let n := e.b 0 4
    let f := s.qpnFault i n true
    if !e.rsvdZero [(0, 4)] then s.adminEnd i slot stMALFORMED
    else if f != 0 then s.adminEnd i slot f
    else
      let s1 := s.qpReset n stFLUSHED
      let x := (s1.qp? n).getD {}
      let s2 := x.placing.foldl (fun s p => p.pieces.foldl (fun s q => s.write q.1 q.2) (s.setRegion (p.region / 2 ^ 24)
        (p.region % 2 ^ 24) { s.region (p.region / 2 ^ 24) (p.region % 2 ^ 24) with
          inflight := (s.region (p.region / 2 ^ 24) (p.region % 2 ^ 24)).inflight - 1 })) s1
      ({ s2 with qp := { s2.qp with qps := tdel s2.qp.qps n } }).adminEnd i slot stOK

/-! ### Work requests (R347 to R349) -/

/-- The body of a work request (Table 10.4), or none where it is ill formed. -/
def parseWork (q slot : Nat) (e : Entry) : Option Req :=
  let len := e.b 4 4
  let op := e.b 32 1
  let fl := e.b 33 1
  let inl := bit fl 2
  if 2 ^ 20 ≤ e.b 0 4 || 0x80000000 < len || (op != 1 && op != 2) || 8 ≤ fl ||
      anyByte e.raw 50 14 || (inl && (op == 2 || 3968 < len)) then none
  else some { queue := q, slot := slot, read := op == 2, len := len, lva := e.b 8 8, rva := e.b 16 8, rkey := e.b 24 4
              imm := e.b 28 4, flags := fl, inl := if inl then sliceB e.raw 64 len else [] }

/-- The oldest work request of queue pair `n` in its send queue that the queue pair has not taken. -/
def State.nextWork (s : State) (i q n : Nat) (x : Qp) : Option Nat :=
  (((s.queue i q).window.filter fun e => e.op == 0x41 && !e.done && e.b 0 4 == n && !x.reqs.any fun r => r.queue == q &&
    r.slot == e.slot).map (·.slot)).head?

/-- WORK_REQUEST (R343, R347): the queue pair takes the entry. -/
def execWorkRequest (i q slot : Nat) (s : State) : Host.Outcome State Fault Refusal :=
  match s.entry? i q slot with
  | none => .next s
  | some e =>
    let n := e.b 0 4
    let f := s.qpnFault i n true
    if e.op != 0x41 then .next s
    else match parseWork q slot e with
      | none => .next (s.complete i q slot stMALFORMED 0)
      | some r =>
        if f != 0 then .next (s.complete i q slot f 0)
        else if 2 ^ 57 ≤ r.rva || (!bit r.flags 2 && 2 ^ 57 ≤ r.lva) then .next (s.complete i q slot stACCESS 0)
        else match s.qp? n with
          | none => .next s
          | some x =>
            if x.sendQ != q then .next (s.complete i q slot stACCESS 0)
            else if s.nextWork i q n x != some slot || x.group.isSome then .next s
            else if x.state = 5 then .next ((s.setQp n { x with lastStatus := stFLUSHED }).complete i q slot stFLUSHED 0)
            else if x.state = 3 then .next ((s.setQp n (x.gets s.time { x with reqs := x.reqs ++ [r] })).traceQp 1 n r 0)
            else .next s

/-! ### Regions (R370 to R372) -/

/-- The lowest FREE index from `k` on. -/
def State.freeRegion (s : State) (i : Nat) : Nat → Nat → Option Nat
  | 0, _ => none
  | f + 1, k =>
    if s.regionShare ≤ k then none
    else if (s.region i k).state = 0 then some k
    else s.freeRegion i f (k + 1)

/-- REGION_REGISTER (R370). -/
def execRegionRegister (i slot : Nat) (s : State) : Host.Outcome State Fault Refusal :=
  s.adminCmd i slot 0x24 fun e =>
    let len := e.b 16 8
    if !e.rsvdZero [(0, 2), (2, 1), (4, 4), (8, 8), (16, 8)] || 4 ≤ e.b 2 1 || 2 ^ 20 ≤ e.b 4 4 || len = 0 ||
        2 ^ 56 < len then s.adminEnd i slot stMALFORMED
    else if 2 ^ 57 ≤ e.b 8 8 || !s.asidOk i (e.b 0 2) then s.adminEnd i slot stACCESS
    else match s.freeRegion i (s.qp.regions.length + 1) 0 with
      | none => s.adminEnd i slot stCAPACITY
      | some k =>
        let r := s.region i k
        (s.setRegion i k { r with
          state := 1, asid := e.b 0 2, base := e.b 8 8, len := len, rd := bit (e.b 2 1) 0, wr := bit (e.b 2 1) 1
          tenant := e.b 4 4 }).adminEnd i slot stOK (k * 256 + r.epoch)

/-- REGION_REVOKE (R370, R371): the entry moves to REVOKING. -/
def execRegionRevoke (i slot : Nat) (s : State) : Host.Outcome State Fault Refusal :=
  s.adminCmd i slot 0x25 fun e =>
    let k := e.b 0 4 / 256
    let r := s.region i k
    if !e.rsvdZero [(0, 4)] then s.adminEnd i slot stMALFORMED
    else if r.state = 2 && r.slot = slot then s
    else if s.regionShare ≤ k || r.state = 0 || r.state = 3 || r.epoch != e.b 0 4 % 256 then s.adminEnd i slot stACCESS
    else if r.state = 2 then s.adminEnd i slot stBUSY
    else s.setRegion i k { r with state := 2, slot := slot }

/-- REGION_REVOKE_COMPLETE (R371, R372): nothing is in flight; the entry becomes FREE, or RETIRED. -/
def execRegionRevokeComplete (i slot : Nat) (s : State) : Host.Outcome State Fault Refusal :=
  match s.qp.regions.find? fun p => p.1 / 2 ^ 24 == i && p.2.state == 2 && p.2.slot == slot && p.2.inflight == 0 with
  | none => .next s
  | some (k, r) =>
    let idx := k % 2 ^ 24
    let s1 := if r.epoch = 255 then (s.setRegion i idx { state := 3, epoch := 255 }).raise QP_EVENT_INDEX_RETIRED
      else s.setRegion i idx { epoch := r.epoch + 1 }
    .next ((s1.raise QP_EVENT_REVOKE_DONE).adminEnd i slot stOK)

/-- REGION_QUERY (R370): state, epoch, bounds and in-flight count. -/
def execRegionQuery (i slot : Nat) (bad : Bool) (s : State) : Host.Outcome State Fault Refusal :=
  s.adminCmd i slot 0x26 fun e =>
    let k := e.b 0 4 / 256
    let r := s.region i k
    if !e.rsvdZero [(0, 4), (8, 8)] || s.regionShare ≤ k then s.adminEnd i slot stMALFORMED
    else if bad then s.badResponse i slot (e.b 8 8) 32
    else (s.hostPut i (e.b 8 8) (leBytes 8 (s.rgnData i k) ++ leBytes 8 r.base ++ leBytes 8 r.len ++ leBytes 8 0)).adminEnd
      i slot stOK

/-! ### The pacer (R386, R393) -/

/-- Bits that a packet of `n` bytes takes on the wire, with its outer headers (Example 11.1). -/
def wireBits (n : Nat) : Nat := 8 * (n + 40)

/-- Release a packet of `bits` wire bits on its path; where no path can carry it, it waits (R393). -/
def State.releaseOwn (s : State) (n : Nat) (x : Qp) (p : TPkt) (bits_ : Nat) (avoid : Option Nat) (f : Qp → Qp) :
    State :=
  match s.choosePath (s.qpInst n) x (p.bytes.length + (if p.enc then 16 else 0)) avoid with
  | none => s.raise CC_EVENT_NO_FIT
  | some path =>
    let y := f x
    s.pushOwn n { y with release := x.release + ceilDiv (bits_ * 2000) (max 1 x.rate) } path p

/-- FLAGS of packet `j` of `k` packets of a WRITE. -/
def Req.pktFlags (r : Req) (j k : Nat) : Nat :=
  (if j = 0 then 1 else 0) + (if j + 1 = k then 2 + (r.flags % 2) * 4 + (r.flags / 2 % 2) * 8 else 0)

/-- Send the packet that holds PSN `psn` of request `r`, whose packets up to `upTo` are assigned: for a READ a READ_REQ from
that PSN on (R348, R357). -/
def State.sendReq (s : State) (n : Nat) (x : Qp) (r : Req) (first psn upTo : Nat) (retx : Bool) (f : Qp → Qp) : State :=
  let k := x.pkts r.len
  let j := psn - first
  let fl := if retx then 32 else 0
  let avoid := if retx then tfind x.copies psn else none
  let key := beBytes 4 r.rkey
  if r.read then
    let stop := min r.len (upTo * x.mtuB)
    let m := stop - j * x.mtuB
    let p := x.pkt 2 (1 + fl) psn (psn / 2 ^ 24) 0 (beBytes 8 (r.rva + j * x.mtuB) ++ key ++ beBytes 4 m) []
    let resp := ((List.range (upTo - j)).map fun c =>
      wireBits (28 + min x.mtuB (m - c * x.mtuB) + (if x.cipher = 0 then 0 else 32))).sum
    s.releaseOwn n x p resp avoid f
  else
    let m := min x.mtuB (r.len - j * x.mtuB)
    let src := if bit r.flags 2 then (s, .ok (sliceB r.inl (j * x.mtuB) m)) else s.qpRead n psn x.asid (r.lva + j * x.mtuB) m
    match src.2 with
    | .ok bs =>
      let p := x.pkt 1 (r.pktFlags j k + fl) psn (psn / 2 ^ 24) 0 (beBytes 8 (r.rva + j * x.mtuB) ++ key ++ beBytes 4 r.imm) bs
      src.1.releaseOwn n x p (wireBits (p.bytes.length + (if x.cipher = 0 then 0 else 16))) avoid f
    | .error st =>
      if st = 0 then src.1.setQp n { x with local_ := some psn }
      else
        let y := { x with reqs := x.reqs.map fun q => if q.slot = r.slot && q.queue = r.queue then
          { q with first := some first, built := max q.built (j + 1) } else q }
        (src.1.setQp n y).qpFail n psn st

/-- Send the next new packet, as far as the window admits (R352). -/
def State.sendNew (s : State) (n : Nat) (x : Qp) : State :=
  match x.reqs.find? fun r => r.built < x.pkts r.len with
  | none => s
  | some r =>
    let room := x.win - (x.sndNxt - x.sndUna)
    if room = 0 then s
    else
      let first := r.first.getD x.sndNxt
      let cnt := if r.read then min room (x.pkts r.len - r.built) else 1
      s.sendReq n x r first x.sndNxt (r.built + cnt) false fun y =>
        let z := { y with
          sndNxt := y.sndNxt + cnt
          reqs := y.reqs.map fun q => if q.slot = r.slot && q.queue = r.queue then
            { q with first := some first, built := q.built + cnt } else q }
        if y.timer then z else s.startTimer z

/-- PACER_RELEASE (R386): the queue pair's next packet enters its class FIFO. -/
def execPacerRelease (n : Nat) (s : State) : Host.Outcome State Fault Refusal :=
  match s.qp? n with
  | none => .next s
  | some x =>
    match x.ctl with
    | p :: rest =>
      match s.choosePath (s.qpInst n) x p.bytes.length none with
      | some path => .next (s.pushOwn n { x with ctl := rest } path p)
      | none => .next (s.raise CC_EVENT_NO_FIT)
    | [] =>
      if s.time < x.release || (x.cipher != 0 && s.sec.drbgStopped) then .next s
      else match x.resp with
        | (psn, ts, bs) :: rest =>
          let p := x.pkt 3 0 psn (psn / 2 ^ 24) ts [] bs
          .next (s.releaseOwn n x p (wireBits (p.bytes.length + (if x.cipher = 0 then 0 else 16))) none
            fun y => { y with resp := rest })
        | [] =>
          if (x.state != 3 && x.state != 4) || x.local_.isSome then .next s
          else match x.retx with
            | psn :: rest =>
              match x.holder psn with
              | some r => .next (s.sendReq n x r (r.first.getD psn) psn r.built true fun y => { y with retx := rest })
              | none => .next (s.setQp n { x with retx := rest })
            | [] => .next (s.sendNew n x)

/-! ### Starting weft packets (R376 to R380, R390) -/

/-- The transport packet of queue pair `n` leaves port `p`: its timestamp, its tag, its headers. -/
def State.departOwn (s : State) (p : Nat) (k : OutPkt) (n : Nat) (t : TPkt) : State :=
  match s.qp? n with
  | none => s
  | some x =>
    if !(s.portAdmits p t.pkey false && s.instAdmits k.inst t.pkey) then s.pkeyDrop p
    else
      let t1 := { t with tx := s.ns % 2 ^ 32 }
      let e := if t.enc then s.encrypt x.cipher t1 else (s, some t1)
      match e.2 with
      | none => e.1
      | some q =>
        let b := q.bytes
        let s1 := e.1.bump QP_TX_PKTS_VAL
        if x.peer.kind = 1 then
          let h := fabricHeader (k.vc + 8) b.length x.peer.ep (s.get LNK_SELF_ID) t.pkey (s.get LNK_DOWN_CFG_HOP_LIMIT) k.path
          if s.portAttach p then (s1.sendAttach p k.vc h b).tracePkt 3 p k.path q
          else (s1.sendEth p k.vc (s.get MAC_ETYPE_ETYPE) none (16 + b.length) (h ++ b)).tracePkt 3 p k.path q
        else
          let v6 := x.peer.kind == 6
          let ip : Ip := ⟨v6, x.peer.src, x.peer.dst, 17, (x.peer.base + k.path) % 65536, s.get QP_UDP_CFG_DST_PORT, 2,
            false, true⟩
          (s1.sendEth p k.vc (if v6 then 0x86DD else 0x0800) (some ip) ((if v6 then 48 else 28) + b.length) b).tracePkt 3 p
            k.path q

/-- A forwarded frame leaves port `p`: marked by its egress queue, its key checked, its place in the buffer freed. -/
def State.departFabric (s : State) (p : Nat) (k : OutPkt) (hdr payload : List Byte) : State :=
  let fl := byteAt hdr 1
  let m := if k.srb.isSome then s.mark (s.egressUse p) (bit fl 3) else (s, false)
  let h := if m.2 then reheader hdr (fl ||| 16) (byteAt hdr 10) else hdr
  let s1 := match k.srb with
    | some id => m.1.srbFree id
    | none => m.1
  if !s1.portAdmits p (beAt hdr 8 2) (k.vc == 4) then s1.pkeyDrop p
  else if s1.portAttach p then s1.sendAttach p k.vc h payload
  else s1.sendEth p k.vc (s1.get MAC_ETYPE_ETYPE) none (16 + payload.length) (h ++ payload)

/-- Payload bytes of a queued packet as a frame. -/
def OutPkt.size (k : OutPkt) : Nat :=
  match k.load with
  | .own _ p => p.bytes.length + (if p.enc then 16 else 0)
  | .fabric _ b => b.length

/-- Whether VC `vc` of port `p` may send its head now (R376, steps 1, 3 and 4). -/
def State.vcReady (s : State) (p room : Nat) (spent : Bool) (vc : Nat) : Bool :=
  match s.headOf p vc with
  | none => false
  | some k =>
    let flow := if s.portAttach p then frameUnits k.size ≤ room && s.creditOk p vc (frameUnits k.size) else !s.paused p vc
    let cipher := match k.load with
      | .own _ t => !(t.enc && s.sec.drbgStopped)
      | .fabric .. => true
    flow && cipher && s.bucketOk (p / 2 * 4 + classOf vc) && !(vc ≤ 2 && spent && s.get CC_THROTTLE_WEFT_PCT < 100)

/-- Units that port `p` may use now: what the warp leaves free from this cycle on, in a free slot (R51, R52). -/
def State.roomOf (s : State) (p room : Nat) : Nat :=
  match s.portSec p with
  | none => room
  | some g =>
    let k := s.cyc / 125
    if g.owns k then min room 97
    else min room (g.freeRun s.warp.period k * 97 * ((s.portLanes p).filter s.laneUp).length)

/-- Remove a packet from a queue. -/
def dropOne (k : OutPkt) : List OutPkt → List OutPkt
  | [] => []
  | x :: xs => if x = k then xs else x :: dropOne k xs

/-- WEFT_PACKET_START (R51 to R53, R376 to R380): the port starts a waiting pinch frame, else the packet of the eligible VC
with the smallest finish tag. -/
def execWeftPacketStart (p room : Nat) (spent : Bool) (s : State) : Host.Outcome State Fault Refusal :=
  let r := s.roomOf p room
  if !s.portUp p then .next s
  else if s.pinchReady p && (4 ≤ r || !s.portAttach p) then .next (s.pinchSendFront p)
  else
    let w := mget {} s.net.wfq p
    match leastBy (fun c => mget 0 w.f c) ([1, 2, 4].filter (s.vcReady p r spent)) with
    | none => .next s
    | some vc =>
      match s.headOf p vc with
      | none => .next s
      | some k =>
        let l := dropOne k (s.fifo p)
        let s1 := ((s.setFifo p l).wfqSent p vc k.inst l).takeToken (p / 2 * 4 + classOf vc)
        match k.load with
        | .own n t => .next (s1.departOwn p k n t)
        | .fabric h b => .next (s1.departFabric p k h b)

/-! ### Placement (R353 to R358, R365 to R369) -/

/-- The placing engine of the queue pair is stalled in mode 1 (R365). -/
def State.stalled (s : State) (p : TPkt) : Bool :=
  match s.qp? p.dst with
  | some x => s.nInst == 1 && !x.held.isEmpty
  | none => false

/-- A duplicate is discarded and acknowledged (R353, R358). -/
def State.duplicate (s : State) (id : Nat) (p : TPkt) : State :=
  ((s.bump QP_DUP_RX_VAL).srbFree id).sendAck p.dst p.psn p.hi p.tx

/-- WRITE_PACKET_RECEIVE (R351, R353, R355, R369). -/
def execWritePacketReceive (id : Nat) (s : State) : Host.Outcome State Fault Refusal :=
  match s.rxPacket id 1 with
  | none => .next s
  | some (k, p0) =>
    if s.stalled p0 then .next s
    else
      let c := s.rxChecks k p0
      match c.2, c.1.qp? p0.dst with
      | some p, some x =>
        let n := p.dst
        match psnFrom x.cum x.win p with
        | none => .next ((c.1.bump QP_RX_BAD_VAL).srbFree id)
        | some (psn, before) =>
          if before || x.got.contains psn || (x.placing.any fun q => q.psn == psn && q.live) || x.fenced.any (·.2.1 == psn) then
            .next (c.1.duplicate id p)
          else if x.isRefused psn then .next ((c.1.refuse n psn p).srbFree id)
          else if bit p.flags 1 && bit p.flags 2 && psn != x.cum then
            .next (c.1.setQp n { x with fenced := x.fenced ++ [(id, psn, p)] })
          else .next (c.1.place n id psn p)
      | _, _ => .next c.1

/-- FENCE_LAST_PLACE (R355): the waiting packet whose earlier PSNs have all been received is placed. -/
def execFenceLastPlace (n : Nat) (s : State) : Host.Outcome State Fault Refusal :=
  match s.qp? n with
  | none => .next s
  | some x =>
    match x.fenced.find? fun f => f.2.1 == x.cum with
    | some (id, psn, p) =>
      if s.stalled p then .next s
      else
        let s1 := s.setQp n { x with fenced := x.fenced.filter fun f => f.2.1 != psn }
        if x.isRefused psn then .next ((s1.refuse n psn p).srbFree id) else .next (s1.place n id psn p)
    | none => .next s

/-- PLACEMENT_VISIBLE (R354, R358, R371): the write is visible, its PSN is received, and an ACK goes out where R358 asks
for one. -/
def execPlacementVisible (n psn : Nat) (s : State) : Host.Outcome State Fault Refusal :=
  match s.qp? n with
  | none => .next s
  | some x =>
    match x.placing.find? fun q => q.psn == psn with
    | none => .next s
    | some q =>
      let s1 := q.pieces.foldl (fun s w => s.write w.1 w.2) s
      let r := s1.region (q.region / 2 ^ 24) (q.region % 2 ^ 24)
      let s2 := s1.setRegion (q.region / 2 ^ 24) (q.region % 2 ^ 24) { r with inflight := r.inflight - 1 }
      let x0 := { x with placing := dropFirst (fun w => w == q) x.placing }
      if !q.live then .next (s2.setQp n x0)
      else
        let p := q.pkt
        let rec1 : RxRec := ⟨psn, bit p.flags 0, bit p.flags 1, bit p.flags 3, beAt p.ext 12 4, beAt p.ext 0 8, p.payload.length⟩
        let x1 := ({ x0 with recs := x0.recs ++ [rec1] } : Qp).receive [psn]
        let x2 := { x1 with ackNew := x0.ackNew + 1, ackOwed := true, lastPsn := psn, lastTs := p.tx, gap := x1.hasGap }
        let now := max 1 (s.get QP_ACK_CFG_ACK_EVERY) ≤ x2.ackNew || bit p.flags 1 || bit p.flags 4 || (x1.hasGap && !x0.gap)
        let s3 := s2.setQp n x2
        .next (if now then s3.sendAck n psn (psn / 2 ^ 24) p.tx else s3)
where
  /-- Remove the first element that satisfies `c`. -/
  dropFirst {α : Type} (c : α → Bool) : List α → List α
    | [] => []
    | y :: ys => if c y then ys else y :: dropFirst c ys

/-- ACK_DELAY_EXPIRY (R358): ACK_DELAY after the oldest PSN received and not acknowledged. -/
def execAckDelayExpiry (n : Nat) (s : State) : Host.Outcome State Fault Refusal :=
  match s.qp? n with
  | none => .next s
  | some x => if x.ackOwed then .next (s.sendAck n x.lastPsn (x.lastPsn / 2 ^ 24) x.lastTs) else .next s

/-- The records of the message that ends with LAST PSN `l`, where every one of its PSNs has been received. -/
def Qp.message (x : Qp) : Nat → Nat → Option (List RxRec)
  | 0, _ => none
  | f + 1, l =>
    match x.recs.find? (·.psn == l) with
    | none => none
    | some r => if r.first then some [r] else if l = 0 then none else (x.message f (l - 1)).map (· ++ [r])

/-- The oldest notification that is owed: its LAST record and the records of its message (R356). -/
def Qp.owed (x : Qp) : Option (RxRec × List RxRec) :=
  (((x.recs.filter fun r => r.last && r.note && !x.noted.contains r.psn).map fun r =>
    (x.message (x.recs.length + 1) r.psn).map fun l => (r, l)).filterMap id).head?

/-- IMMEDIATE_NOTIFICATION (R356): the notification of a message that is received whole; it waits for room. -/
def execImmediateNotification (n : Nat) (s : State) : Host.Outcome State Fault Refusal :=
  match s.qp? n with
  | none => .next s
  | some x =>
    match x.owed with
    | none => .next s
    | some (r, l) =>
      let len := (l.map (·.len)).sum
      let va := match l with
        | a :: _ => a.va
        | [] => r.va
      let x1 := (({ x with noted := x.noted ++ [r.psn] } : Qp).receive [])
      let x2 := { x1 with ackOwed := x1.ackOwed || x1.cum != x.cum, lastPsn := r.psn }
      let q := x.notifyQ % 65536
      if 65536 ≤ x.notifyQ then
        if !s.on (SKN_CQ_CFG_ENABLE q) || s.cqFull q then .next s
        else .next ((s.cqPut q ⟨32, stOK, 0xFFFE, 0, s.pick, r.imm, 0, va, len, 0, 0, 0⟩).setQp n x2)
      else
        let k := s.qpInst n * 4096 + q
        .next ({ s with qp := { s.qp with notes := tput s.qp.notes k (mget [] s.qp.notes k ++
          [(n, r.imm, len, r.psn % 2 ^ 24)]) } }.setQp n x2)

/-- READ_REQ_RECEIVE (R355, R357): executed after every earlier PSN has been received; until then it waits in the buffer. -/
def execReadReqReceive (id : Nat) (s : State) : Host.Outcome State Fault Refusal :=
  match s.rxPacket id 2 with
  | none => .next s
  | some (k, p0) =>
    let early := match s.qp? p0.dst with
      | some x => match psnFrom x.cum x.win p0 with
        | some (psn, before) => !before && psn != x.cum && !x.got.contains psn && 2 ≤ x.state && x.state != 5
            && !x.isRefused psn
        | none => false
      | none => false
    if s.stalled p0 || early then .next s
    else
      let c := s.rxChecks k p0
      match c.2, c.1.qp? p0.dst with
      | some p, some x =>
        match psnFrom x.cum x.win p with
        | none => .next ((c.1.bump QP_RX_BAD_VAL).srbFree id)
        | some (psn, before) =>
          if x.isRefused psn then .next ((c.1.refuse p.dst psn p).srbFree id)
          else .next (c.1.serveRead p.dst id psn (!before && psn == x.cum && !x.got.contains psn) p)
      | _, _ => .next c.1

/-- Whether the local placement of READ `r` waits on a fault (R367). -/
def State.localWait (s : State) (n : Nat) (x : Qp) (r : Req) : Bool :=
  s.xlt.parked.any fun p => match p.who with
    | .transport m q => m == n && localTag ≤ q && (x.holder (q - localTag)).any fun h => h.slot == r.slot && h.queue == r.queue
    | _ => false

/-- READ_RESP_RECEIVE (R353, R357, R360, R367): the data is placed in the local buffer. -/
def execReadRespReceive (id : Nat) (s : State) : Host.Outcome State Fault Refusal :=
  match s.rxPacket id 3 with
  | none => .next s
  | some (k, p0) =>
    let c := s.rxChecks k p0
    match c.2, c.1.qp? p0.dst with
    | some p, some x =>
      let n := p.dst
      let s0 := c.1.srbFree id
      match psnFrom x.sndUna x.win p with
      | none => .next (s0.bump QP_RX_BAD_VAL)
      | some (psn, before) =>
        if before || x.acked.contains psn then .next ((s0.bump QP_DUP_RX_VAL).sample n psn p.echo)
        else match x.holder psn with
          | none => .next (s0.bump QP_RX_BAD_VAL)
          | some r =>
            let j := psn - r.first.getD psn
            let m := min x.mtuB (r.len - j * x.mtuB)
            if !r.read || p.payload.length != m then .next (s0.bump QP_RX_BAD_VAL)
            else if s.localWait n x r then .next (s0.sample n psn p.echo)
            else
              let s1 := s0.sample n psn p.echo
              let t := s1.pieces (s.qpInst n) x.asid (r.lva + j * x.mtuB) m true (.transport n (localTag + psn))
              match t.2 with
              | .ok l =>
                let s2 := l.foldl (fun s q => s.write q.1 (sliceB p.payload q.2.1 q.2.2)) t.1
                .next (s2.ackPsns n [psn])
              | .error .access => .next (t.1.qpFail n psn stACCESS)
              | .error .unresolved => .next (t.1.qpFail n psn stFAULT_UNRESOLVED)
              | .error _ => .next t.1
    | _, _ => .next c.1

/-! ### The sender (R359 to R366) -/

/-- The checks of a packet that answers one of this queue pair's PSNs (check 6 against SND_UNA): the packet and that
PSN. -/
def State.rxAnswer (s : State) (id op : Nat) : State × Option (TPkt × Nat) :=
  match s.rxPacket id op with
  | none => (s, none)
  | some (k, p0) =>
    let c := s.rxChecks k p0
    match c.2, c.1.qp? p0.dst with
    | some p, some x =>
      let s0 := c.1.srbFree id
      match psnFrom x.sndUna x.win p with
      | none => (s0.bump QP_RX_BAD_VAL, none)
      | some (psn, _) => (s0, some (p, psn))
    | _, _ => (c.1, none)

/-- PSNs to be sent again, each READ at its first missing PSN only (R357). -/
def Qp.resend (x : Qp) (l : List Nat) : List Nat :=
  (l.map fun p => if x.isRead p then
    match x.holder p with
    | some r =>
      let f := r.first.getD p
      (((List.range r.built).map (f + ·)).find? fun q => x.sndUna ≤ q && !x.acked.contains q).getD p
    | none => p
  else p).eraseDups

/-- Retransmit what the bitmap shows as lost (R359). -/
def State.sackRetx (s : State) (n : Nat) : State :=
  match s.qp? n with
  | none => s
  | some x =>
    let th := max 1 (min 128 (s.get QP_ACK_CFG_DUP_THRESH))
    let lost := ((List.range (x.sndNxt - x.sndUna)).map (x.sndUna + ·)).filter fun p =>
      !x.acked.contains p && !x.wait.contains p && !x.sacked.contains p && !x.retx.contains p &&
        th ≤ (x.acked.filter (p < ·)).length
    let go := x.resend lost
    if lost.isEmpty then s
    else (s.setQp n (x.gets s.time { x with retx := x.retx ++ go, sacked := x.sacked ++ lost })).bump QP_RETRANS_VAL go.length

/-- ACK_RECEIVE (R349, R359 to R362, R364, R366). -/
def execAckReceive (id : Nat) (s : State) : Host.Outcome State Fault Refusal :=
  let a := s.rxAnswer id 0x10
  match a.2 with
  | none => .next a.1
  | some (p, psn) =>
    let n := p.dst
    let s1 := a.1.sample n psn p.echo
    match s1.qp? n with
    | none => .next s1
    | some x =>
      let cum := psnField x.sndUna (beAt p.ext 0 4 % 2 ^ 24)
      let sack := beAt p.ext 4 16
      let before := (List.range (min cum x.sndNxt - x.sndUna)).map (x.sndUna + ·)
      let bitsL := ((List.range 128).filter (bit sack ·)).map fun k => cum + 1 + k
      let l := (before ++ bitsL).filter fun q => !x.isRead q
      .next ((s1.ackPsns n l).sackRetx n)

/-- NAK_RECEIVE (R344, R360, R366). -/
def execNakReceive (id : Nat) (s : State) : Host.Outcome State Fault Refusal :=
  let a := s.rxAnswer id 0x11
  match a.2 with
  | none => .next a.1
  | some (p, psn) =>
    let n := p.dst
    let s1 := a.1.sample n psn p.echo
    match s1.qp? n with
    | none => .next s1
    | some x =>
      let q := psnField x.sndUna (beAt p.ext 1 3)
      match byteAt p.ext 0 with
      | 2 =>
        if x.sndUna ≤ q && q < x.sndNxt && !x.acked.contains q && !x.wait.contains q then
          .next (s1.setQp n (s1.startTimer { x with wait := x.wait ++ [q], retx := x.retx.filter (· != q) }))
        else .next s1
      | 3 => .next (s1.qpFail n q stFAULT_UNRESOLVED)
      | _ => .next ((s1.raise QP_EVENT_ACCESS_NAK_RX).qpFail n q stREMOTE_ACCESS)

/-- RESUME_RECEIVE (R366): the PSN leaves FAULT_WAIT and is sent again at once. -/
def execResumeReceive (id : Nat) (s : State) : Host.Outcome State Fault Refusal :=
  let a := s.rxAnswer id 0x12
  match a.2 with
  | none => .next a.1
  | some (p, _) =>
    let n := p.dst
    match a.1.qp? n with
    | none => .next a.1
    | some x =>
      let q := psnField x.sndUna (beAt p.ext 1 3)
      if x.wait.contains q then
        let y := { x with wait := x.wait.filter (· != q), retx := x.resend [q] ++ x.retx }
        .next (a.1.setQp n (x.gets s.time (if x.timer then y else a.1.startTimer y)))
      else .next a.1

/-- CE_ECHO_RECEIVE (R388, R391, R394). -/
def execCeEchoReceive (id : Nat) (s : State) : Host.Outcome State Fault Refusal :=
  let a := s.rxAnswer id 0x20
  match a.2 with
  | none => .next a.1
  | some (p, _) =>
    let n := p.dst
    match a.1.qp? n with
    | none => .next a.1
    | some x =>
      let mask := beAt p.ext 8 2
      let scores := (List.range 16).map fun k => min 15 (x.scores.getD k 0 + (if bit mask k then 4 else 0))
      .next ((a.1.setQp n { x with
        ceM := x.ceM + beAt p.ext 0 4, ceA := x.ceA + beAt p.ext 4 4, ceSeen := true, scores := scores }).bump
        CC_CE_ECHO_RX_VAL)

/-- CE_ECHO_TIMER (R391): ECHO_NS after the last echo the accumulated counts are sent, where a CE packet has arrived. -/
def execCeEchoTimer (n : Nat) (s : State) : Host.Outcome State Fault Refusal :=
  match s.qp? n with
  | none => .next s
  | some x =>
    if !x.echoed then .next s
    else if x.marked = 0 then .next (s.setQp n { x with echoed := false })
    else .next ((s.setQp n { x with marked := 0, arrived := 0, mask := 0 }).sendCtl n
      (x.pkt 0x20 0 x.cePsn (x.cePsn / 2 ^ 24) x.ceTs
        (beBytes 4 x.marked ++ beBytes 4 x.arrived ++ beBytes 2 x.mask ++ beBytes 6 0) []))

/-- Queue pair `n` becomes `x` with rate `r`, held to its limits; a decrease is counted (R388, R389). -/
def State.cutRate (s : State) (n : Nat) (x : Qp) (r : Nat) : State :=
  let t := s.setRate x r
  let s1 := t.1.setQp n t.2
  if t.2.rate < x.rate then s1.bump CC_RATE_CUTS_VAL else s1

/-- RETRANSMIT_TIMER_EXPIRY (R362, R363, R389, R394). -/
def execRetransmitTimerExpiry (n : Nat) (s : State) : Host.Outcome State Fault Refusal :=
  match s.qp? n with
  | none => .next s
  | some x =>
    if !x.timer || !x.live then .next s
    else if x.retry = 7 then .next ((s.qpFail n x.sndUna stRETRY_EXCEEDED).raise QP_EVENT_RETRY_EXCEEDED)
    else
      let all := ((List.range (x.sndNxt - x.sndUna)).map (x.sndUna + ·)).filter fun p => !x.acked.contains p && !x.wait.contains p
      let go := x.resend all
      let q := tfind x.copies x.sndUna
      let x1 := { x with
        retry := x.retry + 1, rto := min (2 * x.rto) s.rtoMax, retx := go, run := 0
        quar := match q with
          | some p => x.quar.filter (· != p) ++ [p]
          | none => x.quar }
      let s1 := ((s.cutRate n (x.gets s.time x1) (x.rate / 2)).bump QP_TIMEOUTS_VAL).bump QP_RETRANS_VAL go.length
      .next (if q.isSome then (s1.bump CC_QUARANTINES_VAL).raise CC_EVENT_PATH_QUARANTINE else s1)

/-- FAULT_WAIT_PROBE (R366): the PSN is sent again, and this counts no retry. -/
def execFaultWaitProbe (n psn : Nat) (s : State) : Host.Outcome State Fault Refusal :=
  match s.qp? n with
  | none => .next s
  | some x =>
    if x.wait.contains psn then .next (s.setQp n (x.gets s.time { x with retx := x.retx ++ x.resend [psn] })) else .next s

/-- RATE_UPDATE (R388): one update from the inputs of the period. -/
def execRateUpdate (n : Nat) (s : State) : Host.Outcome State Fault Refusal :=
  match s.qp? n with
  | none => .next s
  | some x =>
    if x.state < 2 || 4 < x.state then .next s
    else
      let y := { x with least := none, ceM := 0, ceA := 0, ceSeen := false }
      if x.ceSeen then
        let a := max 1 x.ceA
        let m := if x.ceA = 0 then 1 else min x.ceM x.ceA
        .next (s.cutRate n { y with run := 0 } (x.rate * (256 * a - s.get CC_ALGO_CFG_ECN_MD * m) / (256 * a)))
      else match x.least with
        | none => .next (s.setQp n y)
        | some l =>
          let d := l - s.baseRtt x
          let t := max 1 (s.get CC_ALGO_CFG_DELAY_TARGET_NS)
          if t < d then
            .next (s.cutRate n { y with run := 0 } (x.rate * (256 * d - s.get CC_ALGO_CFG_DELAY_MD * (d - t)) / (256 * d)))
          else
            let run := x.run + 1
            let mult := if s.get CC_RATE_CFG_HAI_AFTER < run then max 1 (s.get CC_RATE_CFG_HAI_MULT) else 1
            let r := s.setRate { y with run := run } (x.rate + s.get CC_RATE_CFG_AI * 100 * mult)
            .next (r.1.setQp n r.2)

/-- QUARANTINE_EXPIRY (R394): the path returns to use. -/
def execQuarantineExpiry (n path : Nat) (s : State) : Host.Outcome State Fault Refusal :=
  match s.qp? n with
  | none => .next s
  | some x => .next (s.setQp n { x with quar := x.quar.filter (· != path) })

/-- BUCKET_REFILL (R381, R384): the pending configuration applies, then an enabled bucket gains RATE tokens. -/
def execBucketRefill (k : Nat) (s : State) : Host.Outcome State Fault Refusal :=
  let n := k % 64
  if 128 ≤ k || 48 ≤ n || n % 4 = 3 then .next s
  else
    let c := s.reg (bucketCfg k)
    let depth := bits c 16 16
    let s1 := { s with net := { s.net with buckets := mset 0 s.net.buckets k c } }
    if !bit c 48 then .next s1
    else
      let t0 := if s.bucketOn k then min depth (s.get (bucketTokens k)) else depth
      .next (s1.put (bucketTokens k) (min depth (t0 + bits c 0 16)))

end Sys2Proof.Machine
end

