-- ==== Sys2Proof/Machine/Collective.lean ====
section
/-! DEFINITION. The commands of collectives (12_collectives.md R403 to R429): groups, weft collectives, the pinch path. -/
namespace Sys2Proof.Machine
open Sys2Proof

/-! ### Groups (R403 to R405) -/

/-- A group as COL_GROUP_CREATE names it (Table 12.3). -/
def groupOf (e : Entry) (qps : List Nat) : Group := {
  state := 1, tag := e.b 2 2, gen := e.b 4 1, deliver := e.b 5 1, size := e.b 6 2, rank := e.b 8 2, asid := e.b 10 2
  parent := e.b 12 1, local_ := e.b 13 1, mcast := e.b 14 2, total := e.b 16 2, pkey := e.b 18 2, resultQ := e.b 20 2
  hostResult := e.b 32 8, qps := qps }

/-- Whether an operand of COL_GROUP_CREATE is out of range (R403). -/
def State.groupBad (s : State) (e : Entry) (x : Group) : Bool :=
  !e.rsvdZero [(0, 22), (24, 16)] || s.groupShare ≤ e.b 0 2 || x.size < 2 || 1024 < x.size || x.size ≤ x.rank ||
    (23 < x.parent && x.parent != 0x1F) || 4096 ≤ x.mcast || x.local_ = 0 || 64 < x.local_ ||
    (x.parent == 0x1F && x.total == 0) || 4 ≤ x.deliver || e.b 24 8 % 4096 != 0 || x.hostResult % 128 != 0

/-- COL_GROUP_CREATE (R403, R404). -/
def execColGroupCreate (i slot : Nat) (list : Option (List Nat)) (s : State) : Host.Outcome State Fault Refusal :=
  s.adminCmd i slot 0x38 fun e =>
    let x := groupOf e []
    let g := s.groupNo i (e.b 0 2)
    if s.groupBad e x then s.adminEnd i slot stMALFORMED
    else match list with
      | none => s.adminEnd i slot stACCESS
      | some l =>
        let all := (List.range x.size).map fun k => l.getD k 0 % 2 ^ 32
        let qps := (all.zipIdx.filter (·.2 != x.rank)).map (·.1)
        if qps.any (2 ^ 20 ≤ ·) then s.adminEnd i slot stMALFORMED
        else if qps.any (fun q => s.qpInst q != i) || !s.asidOk i x.asid || (bit x.deliver 0 && s.cqOwner x.resultQ != i) then
          s.adminEnd i slot stACCESS
        else if (s.group g).state != 0 || qps.any fun q => match s.qp? q with
            | some y => y.state != 3 || y.group.isSome
            | none => true then s.adminEnd i slot stBUSY
        else
          let s1 := qps.foldl (fun s q => match s.qp? q with
            | some y => s.setQp q { y with group := some g }
            | none => s) s
          (s1.setGroup g { x with qps := all }).adminEnd i slot stOK

/-- COL_GROUP_RESET (R405). -/
def execColGroupReset (i slot : Nat) (s : State) : Host.Outcome State Fault Refusal :=
  s.adminCmd i slot 0x39 fun e =>
    let g := s.groupNo i (e.b 0 2)
    if !e.rsvdZero [(0, 2), (2, 1)] || s.groupShare ≤ e.b 0 2 then s.adminEnd i slot stMALFORMED
    else if (s.group g).state = 0 then s.adminEnd i slot stBUSY
    else
      let s1 := s.groupAbort g
      (s1.setGroup g { s1.group g with state := 1, seq := 0, gen := e.b 2 1 }).adminEnd i slot stOK

/-- COL_GROUP_DESTROY (R405). -/
def execColGroupDestroy (i slot : Nat) (s : State) : Host.Outcome State Fault Refusal :=
  s.adminCmd i slot 0x3A fun e =>
    let g := s.groupNo i (e.b 0 2)
    if !e.rsvdZero [(0, 2)] || s.groupShare ≤ e.b 0 2 then s.adminEnd i slot stMALFORMED
    else if (s.group g).state = 0 then s.adminEnd i slot stBUSY
    else (s.groupDestroy g).adminEnd i slot stOK

/-! ### Weft collectives (R406 to R413) -/

/-- Whether the types fit the operation (Table 12.5). -/
def ColOp.typesOk (o : ColOp) : Bool :=
  match o.redop with
  | 0 => o.inTy < 12 && o.outTy < 12
  | 1 => (o.inTy == 10 && o.outTy == 10) ||
      (xaddTypes.contains o.inTy && (if o.repro then xrdTypes else xaddTypes).contains o.outTy)
  | _ => o.inTy < 12 && !([5, 6, 9].contains o.inTy) && o.outTy == o.inTy

/-- The status with which a descriptor completes at once, 0 where it starts (R405, R406). -/
def State.colFault (s : State) (i : Nat) (d : List Byte) (x : Group) : Nat :=
  let o : ColOp := ⟨d, none, 0, 0⟩
  let red := o.op = 1 || o.op = 2 || o.op = 5
  if o.op = 0 || 5 < o.op || 3 < o.redop || 1 < byteAt d 3 / 16 || byteAt d 5 != 0 || anyByte d 34 30 || o.count = 0 ||
      o.chunk = 0 || (o.redop == 0) == red || !o.typesOk ||
      (x.state != 0 && (((o.op == 4 || o.op == 5) && x.size ≤ o.root) || (o.op == 2 && o.count % x.size != 0))) ||
      s.groupShare ≤ leAt d 0 2 then stMALFORMED
  else if 2 ^ 57 ≤ leAt d 16 8 || 2 ^ 57 ≤ leAt d 24 8 || s.cqOwner o.queue != i then stACCESS
  else if x.state != 1 then stBUSY
  else 0

/-- COL_RUN (R406). -/
def execColRun (i q slot : Nat) (s : State) : Host.Outcome State Fault Refusal :=
  match s.entry? i q slot with
  | none => .next s
  | some e =>
    if e.op != 0x42 then .next s
    else
      let d := sliceB e.raw 16 64
      let g := s.groupNo i (leAt d 0 2)
      let x := s.group g
      if x.ops.any fun o => o.ring == some (q, slot) then .next s
      else
        let f := if anyByte e.raw 80 48 then stMALFORMED else s.colFault i d x
        if f != 0 then .next (s.complete i q slot f 0)
        else .next ((s.setGroup g { x with ops := x.ops ++ ([⟨d, some (q, slot), 0, 0⟩] : List ColOp) }).traceCol g d 1 0)

/-- TILE_COL_RUN (R406): a REDUCE tile takes the oldest message of KIND 0x0C01 of its queue; one that cannot start is
reported by its LAST signal. -/
def execTileColRun (t : Nat) (s : State) : Host.Outcome State Fault Refusal :=
  let i := s.instOfTile t
  if s.roleOf t != 5 then .next s
  else match takeFirst (fun (m : Msg) => m.kind == 0x0C01 && m.len == 64) (s.tile t).inq with
    | none => .next s
    | some (m, rest) =>
      let s1 := s.setTile t { s.tile t with inq := rest }
      let d := sliceB m.payload 0 64
      let g := s.groupNo i (leAt d 0 2)
      let x := s1.group g
      let o : ColOp := ⟨d, none, 0, 0⟩
      let f := s1.colFault i d x
      if f = 0 then .next ((s1.setGroup g { x with ops := x.ops ++ [o] }).traceCol g d 1 0)
      else if f = stACCESS || s1.cqOwner o.queue != i then .next s1
      else .next ((s1.cqForce o.queue (s1.colHole o x f)).colComplete g o f)

/-- Elements `a` to `a + n - 1` of width `w` in bytes that begin `off` bits before the first. -/
def elemsIn (w off n : Nat) (b : List Byte) : List Nat :=
  let v := leNat b
  (List.range n).map fun k => bits v (off + w * k) w

/-- One element of a reduction that combines in FP32, in INT32, or by comparison, in the order of the tree (R408, R410). -/
def partialFast (op ty : Nat) (own : List Nat) (n k : Nat) : Partial → Nat
  | .own => if op = 1 && ty != 10 then (convElem ty 0 true (own.getD k 0)).1 else own.getD k 0
  | .peer b =>
    let v := (elemsIn (typeBits ty) 0 n b).getD k 0
    if op = 1 && ty != 10 then (convElem ty 0 true v).1 else v
  | .join a b =>
    let x := partialFast op ty own n k a
    let y := partialFast op ty own n k b
    if op = 1 then
      if ty = 10 then (x + y) % 2 ^ 32 else (encodeF 0 .nearest false ((valOf 0 x).add (valOf 0 y)).1).1
    else if typeInt ty then
      let less := decide (sgn (typeBits ty) x < sgn (typeBits ty) y)
      if (op == 2) == less then x else y
    else if op = 2 then fMin ty x y else fMax ty x y

/-- The inputs of the tree, element `k` of each. -/
def partialLeaves (ty : Nat) (own : List Nat) (n k : Nat) : Partial → List Nat
  | .own => [own.getD k 0]
  | .peer b => [(elemsIn (typeBits ty) 0 n b).getD k 0]
  | .join a b => partialLeaves ty own n k a ++ partialLeaves ty own n k b

/-- Output elements of a chunk with the conversion flags they set (R407 to R410, R220): `own` the member's input. -/
def ColOp.result (o : ColOp) (data : Partial) (own : List Nat) (n : Nat) : List (Nat × Nat) :=
  (List.range n).map fun k =>
    if o.redop = 0 then convElem o.inTy o.outTy false ((partialLeaves o.inTy own n k data).headD 0)
    else if o.redop = 1 && o.inTy != 10 then
      if o.repro then (((partialLeaves o.inTy own n k data).map (valOf o.inTy)).foldl XAcc.add {}).readout o.outTy
      else convElem 0 o.outTy false (partialFast 1 o.inTy own n k data)
    else (partialFast o.redop o.inTy own n k data, 0)

/-- Bytes that hold elements `a` to `a + n - 1` of width `w`, from `va`: address, length and bit offset. -/
def spanOf (va w a n : Nat) : Nat × Nat × Nat :=
  let lo := a * w / 8
  (va + lo, ceilDiv ((a + n) * w) 8 - lo, a * w % 8)

/-- Read elements of a collective's buffer: the elements, 0 for a wait on a fault, or the status of R413. -/
def State.colRead (s : State) (g t asid va w a n : Nat) : State × Except Nat (List Nat) :=
  let sp := spanOf va w a n
  let p := s.pieces (s.groupInst g) asid sp.1 sp.2.1 false (.collective g t)
  match p.2 with
  | .error .access => (p.1, .error stACCESS)
  | .error .unresolved => (p.1, .error stFAULT_UNRESOLVED)
  | .error _ => (p.1, .error 0)
  | .ok l =>
    let r := l.foldl (fun (acc : State × Option (List Byte)) q =>
      match acc.2 with
      | none => acc
      | some bs =>
        let k := acc.1.read q.1 q.2.2
        (k.1, k.2.map (bs ++ ·))) (p.1, some [])
    match r.2 with
    | some bs => (r.1, .ok (elemsIn w sp.2.2 n bs))
    | none => (r.1, .error stHOLE)

/-- Write elements of a collective's buffer; bits outside them keep their value. -/
def State.colWrite (s : State) (g t asid va w a : Nat) (l : List Nat) : State × Except Nat Unit :=
  let sp := spanOf va w a l.length
  let p := s.pieces (s.groupInst g) asid sp.1 sp.2.1 true (.collective g t)
  match p.2 with
  | .error .access => (p.1, .error stACCESS)
  | .error .unresolved => (p.1, .error stFAULT_UNRESOLVED)
  | .error _ => (p.1, .error 0)
  | .ok ps =>
    let old := leNat (ps.flatMap fun q => p.1.bytes q.1 q.2.2)
    let new := leBytes sp.2.1 (setBits old sp.2.2 (w * l.length) (packE w l))
    (ps.foldl (fun s q => s.write q.1 (sliceB new q.2.1 q.2.2)) p.1, .ok ())

/-- The member's own input elements for output elements `a` to `a + n - 1`: where they begin in its buffer (R407). -/
def ColOp.ownFrom (o : ColOp) (x : Group) (a : Nat) : Nat :=
  match o.op with
  | 2 => x.rank * (o.count / x.size) + a
  | 3 => a - x.rank * o.count
  | _ => a

/-- Whether the chunk needs the member's own input. -/
def partialUsesOwn : Partial → Bool
  | .own => true
  | .peer _ => false
  | .join a b => partialUsesOwn a || partialUsesOwn b

/-- The first operation of the group goes on without `o`, or with it changed to `o`. -/
def State.setHead (s : State) (g : Nat) (o : Option ColOp) : State :=
  let x := s.group g
  s.setGroup g { x with ops := o.toList ++ x.ops.drop 1 }

/-- Finish chunk `o.next`, of `bytes` bytes with conversion flags `cvt`: its signal, and the completion behind the last. -/
def State.colChunk (s : State) (g : Nat) (x : Group) (o : ColOp) (cvt bytes : Nat) : State :=
  let last := o.next + 1 == o.chunks x
  let s1 := s.cqPut o.queue (s.colSig o x o.next (if last then 2 else 0) stOK cvt bytes 0)
  if last then (s1.colComplete g o stOK).setHead g none else s1.setHead g (some { o with next := o.next + 1 })

/-- Own input for a chunk of a gather: element `k` is the member's where its output index lies in its block. -/
def ColOp.gather (o : ColOp) (x : Group) (a n : Nat) (own : List Nat) (data : List Nat) : List Nat :=
  (List.range n).map fun k =>
    if (a + k) / o.count = x.rank then own.getD ((a + k) % o.count - (max a (x.rank * o.count) - x.rank * o.count)) 0
    else data.getD k 0

/-- Data of one chunk: output elements `a` to `a + n - 1`, moved and combined. -/
def State.colMove (s : State) (g t : Nat) (x : Group) (o : ColOp) (a n : Nat) (data : Partial) :
    State × Except Nat Nat :=
  let iw := typeBits o.inTy
  let lo := if o.op = 3 then max a (x.rank * o.count) else a
  let hi := if o.op = 3 then min (a + n) ((x.rank + 1) * o.count) else a + n
  let need := if o.op = 3 then decide (lo < hi) else partialUsesOwn data
  let r : State × Except Nat (List Nat) :=
    if need then s.colRead g t x.asid o.src iw (o.ownFrom x lo) (hi - lo) else (s, .ok [])
  match r.2 with
  | .error st => (r.1, .error st)
  | .ok own =>
    let out := if o.op = 3 then
      (o.gather x a n own ((List.range n).map fun k => (partialLeaves o.inTy [] n k data).headD 0)).map
        (convElem o.inTy o.outTy false)
      else o.result data own n
    let w := r.1.colWrite g t x.asid o.dst (typeBits o.outTy) a (out.map (·.1))
    match w.2 with
    | .error st => (w.1, .error st)
    | .ok _ => (w.1, .ok (orFlags (out.map (·.2))))

/-- COL_CHUNK_SIGNAL (R407 to R413): the next chunk of the group's oldest collective is written and signalled; its signal
waits for room in its queue. -/
def execColChunkSignal (g t : Nat) (data : Partial) (differs : Bool) (s : State) : Host.Outcome State Fault Refusal :=
  let x := s.group g
  match x.ops with
  | [] => .next s
  | o :: _ =>
    let on := s.on (SKN_CQ_CFG_ENABLE o.queue)
    if on && s.cqFull o.queue then .next s
    else if o.due != 0 then
      .next (((if on then s.cqPut o.queue (s.colHole o x o.due) else s).colComplete g o o.due).setHead g none)
    else if differs then .next (s.colEarlyEnd g stMALFORMED)
    else if !on then .next (s.colEarlyEnd g stACCESS)
    else if s.xlt.parked.any fun p => match p.who with
        | .collective h _ => h == g
        | _ => false then .next s
    else
      let total := o.outs x.size x.rank
      if total = 0 then .next (s.colChunk g x o 0 0)
      else
        let a := o.next * o.chunk
        let n := min o.chunk (total - a)
        let m := s.colMove g t x o a n data
        match m.2 with
        | .error st => if st = 0 then .next m.1 else .next (m.1.colEarlyEnd g st)
        | .ok cvt => .next (m.1.colChunk g x o cvt (n * typeBits o.outTy / 8))

/-! ### The pinch path (R419 to R426) -/

/-- PINCH_HOST_POST (R419): a write of COL_POST_CMD with GO. -/
def execPinchHostPost (i val : Nat) (s : State) : Host.Outcome State Fault Refusal :=
  if !s.instExists i || !bit val 31 then .next s
  else
    let v := leBytes 8 (s.reg (COL_POST_VAL_LO i)) ++ leBytes 8 (s.reg (COL_POST_VAL_HI i))
    let r := s.post i (i * 4 / s.nInst) (bits val 0 10) (bits val 12 4) (bits val 16 4)
      (bits val 10 2 != 0 || bits val 20 11 != 0) v
    let s1 := r.1.put (COL_POST_STATUS_RESULT i) r.2
    .next (if r.2 = stOK then s1.bump (COL_POST_STATUS_ACCEPTED i) else s1)

/-- PINCH_TILE_POST (R419): the mesh port diverts a self-addressed message of KIND 0xFFF0. -/
def execPinchTilePost (id : Nat) (s : State) : Host.Outcome State Fault Refusal :=
  match s.til.mesh.find? fun f => f.id == id with
  | none => .next s
  | some f =>
    if f.cls = 2 || !f.m.isPost || !s.oldest f || !s.arrived f then .next s
    else
      let p := f.m.payload
      let r := (s.dropFlight id).post (s.instOfTile f.m.dst) (f.m.dst / 1024) (leAt p 0 2) (byteAt p 2) (byteAt p 3)
        (anyByte p 4 12) (sliceB p 16 16)
      if r.2 = stBUSY then .next s else .next r.1

/-- A pinch frame is discarded (R421). -/
def State.pinchDiscard (s : State) : State := s.bump COL_PINCH_DISCARDS_VAL

/-- Take the oldest VC3 frame of port `p`: its buffer is freed (R424, R442). -/
def State.takeVc3 (s : State) (p : Nat) : State :=
  let l := mget [] s.net.vc3 p
  let key := p * 8 + 3
  { s with net := { s.net with
      vc3 := mset [] s.net.vc3 p (l.drop 1)
      freed := if s.portAttach p then tput s.net.freed key ((mget 0 s.net.freed key + 4) % 2 ^ 32) else s.net.freed } }

/-- The ACTIVE group that a frame names with the right generation (R421). -/
def State.pinchGroup (s : State) (f : List Byte) : Option Nat :=
  match s.col.groups.find? fun q => q.2.state == 1 && q.2.tag == beAt f 4 2 with
  | some q => if q.2.gen = byteAt f 7 then some q.1 else none
  | none => none

/-- Handle the oldest frame of port `p` as a frame of type `typ`: a frame of a reserved type or of no ACTIVE group is
discarded. -/
def State.pinchRx (s : State) (p typ : Nat) (f : State → Nat → List Byte → State) :
    Host.Outcome State Fault Refusal :=
  match mget [] s.net.vc3 p with
  | [] => .next s
  | b :: _ =>
    let t := byteAt b 0
    if 1 ≤ t && t ≤ 3 && t != typ then .next s
    else
      let s1 := s.takeVc3 p
      if t != typ then .next s1.pinchDiscard
      else match s1.pinchGroup b with
        | none => .next s1.pinchDiscard
        | some g => .next (f s1 g b)

/-- Acknowledge a frame on its port (R425). -/
def State.pinchAck (s : State) (g p : Nat) (b : List Byte) : State :=
  s.pinchQueue g p (pinchFrame 3 0 (s.group g) (byteAt b 6) (beAt b 8 4) (byteAt b 0) 0)

/-- An ARRIVE from child port `p` enters slot `low` (s) or s + 1 (R420, R422, R426). -/
def State.arriveIn (s : State) (g p : Nat) (b : List Byte) (low : Bool) : State :=
  let x := s.group g
  let k := if low then x.s0 else x.s1
  let put (s : State) (k : PinchSlot) : State := s.setGroup g (if low then { x with s0 := k } else { x with s1 := k })
  let c : Contrib := ⟨byteAt b 6, beAt b 12 4, sliceB b 16 16⟩
  let s1 := s.pinchAck g p b
  if (tfind k.kids p).isSome then s1
  else if bit (byteAt b 1) 0 then
    if x.parent = 0x1F then (put s1 { k with kids := tput k.kids p c, bad := true }).combine g 4
    else put (s1.pinchSend g x.parent (pinchFrame 1 1 x (byteAt b 6) (beAt b 8 4) 0 0)) { k with
      kids := tput k.kids p c, up := true }
  else if (k.posts ++ k.kids.map (·.2)).any (·.optype != c.optype) then (put s1 { k with kids := tput k.kids p c }).pinchFail g
  else (put s1 { k with kids := tput k.kids p c }).combine g 4

/-- PINCH_ARRIVE_RECEIVE (R421, R422, R425, R426). -/
def execPinchArriveReceive (p : Nat) (s : State) : Host.Outcome State Fault Refusal :=
  s.pinchRx p 1 fun s g b =>
    let x := s.group g
    let q := beAt b 8 4
    if !(s.children x).contains p then s.pinchDiscard
    else if q = x.seq then (s.arriveIn g p b true).drainAll
    else if q = (x.seq + 1) % 2 ^ 32 then (s.arriveIn g p b false).drainAll
    else s.pinchDiscard

/-- PINCH_RELEASE_RECEIVE (R422, R423, R425): delivered, acknowledged and sent on; the slot reopens. -/
def execPinchReleaseReceive (p : Nat) (s : State) : Host.Outcome State Fault Refusal :=
  s.pinchRx p 2 fun s g b =>
    let x := s.group g
    let q := beAt b 8 4
    let back := (x.seq + 2 ^ 32 - q) % 2 ^ 32
    if p != x.parent then s.pinchDiscard
    else if q = x.seq then
      (((s.pinchAck g p b).release g (bit (byteAt b 1) 0) (byteAt b 6) (beAt b 12 4) (leAt b 16 16)).combine g 4).drainAll
    else if 1 ≤ back && back < 2 ^ 31 then s.pinchAck g p b
    else s.pinchDiscard

/-- PINCH_ACK_RECEIVE (R425): the frame that the ACK names is kept no longer. -/
def execPinchAckReceive (p : Nat) (s : State) : Host.Outcome State Fault Refusal :=
  s.pinchRx p 3 fun s g b =>
    { s with col := { s.col with kept := s.col.kept.filter fun k =>
        !(k.port == p && k.group == g && beAt k.frame 8 4 == beAt b 8 4 && byteAt k.frame 0 == beAt b 12 4 % 256) } }

/-- PINCH_REPLAY_TIMEOUT (R425): the frame is sent again with REPLAY, or its hop has failed. -/
def execPinchReplayTimeout (p g : Nat) (s : State) : Host.Outcome State Fault Refusal :=
  match s.col.kept.find? fun k => k.port == p && k.group == g with
  | none => .next s
  | some k =>
    let rest := dropKept k s.col.kept
    if max 1 (s.get COL_PINCH_CFG_REPLAYS) ≤ k.tries then
      .next (((({ s with col := { s.col with kept := rest } } : State).raise COL_EVENT_REPLAY_EXHAUSTED).pinchFail g).drainAll)
    else
      let f := spliceB k.frame 1 [BitVec.ofNat 8 (byteAt k.frame 1 ||| 2)]
      .next ((({ s with col := { s.col with kept := rest ++ [{ k with tries := k.tries + 1 }] } } : State).bump
        COL_PINCH_REPLAYS_VAL).pinchQueue g p f)
where
  /-- Remove the first frame equal to `k`. -/
  dropKept (k : Kept) : List Kept → List Kept
    | [] => []
    | x :: xs => if x = k then xs else x :: dropKept k xs

/-- PINCH_OP_TIMEOUT (R426): the lowest slot has been open for TIMEOUT_US. -/
def execPinchOpTimeout (g : Nat) (s : State) : Host.Outcome State Fault Refusal :=
  if s.get COL_PINCH_CFG_TIMEOUT_US = 0 || (s.group g).state != 1 then .next s
  else .next (((s.raise COL_EVENT_PINCH_TIMEOUT).pinchFail g).drainAll)

/-- PINCH_FRAME_SEND (R424): a waiting frame leaves when its port has a token. -/
def execPinchFrameSend (p : Nat) (s : State) : Host.Outcome State Fault Refusal :=
  .next (if s.pinchReady p then s.pinchSendFront p else s)

end Sys2Proof.Machine
end

