-- ==== Sys2Proof/Machine/Copies.lean ====
section
/-! DEFINITION. Copy commands (14_host_interface.md R483): the bytes they move and how they end. -/
namespace Sys2Proof.Machine
open Sys2Proof

/-- The copy command under way in an entry. -/
def State.copy? (s : State) (i q slot : Nat) : Option Copy :=
  s.rings.copies.find? fun c => c.inst == i && c.queue == q && c.slot == slot

/-- Whether a parked request belongs to a copy command. -/
def Parked.ofCopy (p : Parked) (i q slot : Nat) : Bool :=
  match p.who with
  | .copy j r k _ => i == j && q == r && slot == k
  | _ => false

/-- Forget a copy command and the request of it that waits. -/
def State.dropCopy (s : State) (i q slot : Nat) : State :=
  { s with
    rings := { s.rings with copies := s.rings.copies.filter fun c => !(c.inst == i && c.queue == q && c.slot == slot) }
    xlt := { s.xlt with parked := s.xlt.parked.filter fun p => !p.ofCopy i q slot } }

/-- A copy command ends with status `st` and the bytes moved (R483, R238). -/
def State.copyDone (s : State) (i q slot st : Nat) : State :=
  match s.copy? i q slot with
  | some c => (s.dropCopy i q slot).complete i q slot st c.moved
  | none => s

/-- How far a copy has come in one run: the bytes it has still to take from the host, the copy, and, once it stops, the
status it ends with (none: it waits on a fault). -/
structure CopyRun where
  data : List Byte
  copy : Copy
  stop : Option (Option Nat) := none

/-- Write `n` bytes of device memory from `pa` to the host at `a`, line by line; a poisoned line as a poisoned posted write
(R483). -/
def State.linesOut (s : State) (i pa a n : Nat) : Nat → State
  | 0 => s
  | f + 1 =>
    if n = 0 then s
    else
      let k := min n (64 - pa % 64)
      let s1 := if s.poisoned pa then ((s.logPoison pa k).hostPoison i a).hostPoison i (a + k - 1)
        else s.hostPut i a (s.bytes pa k)
      s1.linesOut i (pa + k) (a + k) (n - k) f

/-- Move one page's piece of a copy: `m` bytes at device virtual address `va` of ASID `a`; `out`: to the host at `host`. -/
def State.copyPiece (s : State) (r : CopyRun) (who : Waiter) (asid va m : Nat) (out : Bool) (host : Nat) : State × CopyRun :=
  let i := r.copy.inst
  let t := s.translate i asid va (!out) who
  match t.2 with
  | .ok pa =>
    if out then
      (t.1.linesOut i pa host m (m / 64 + 2),
        { r with copy := { r.copy with moved := r.copy.moved + m, hole := r.copy.hole || t.1.anyPoison pa m } })
    else if (winOf pa).any fun w => w.2 < 0x8000 then (t.1, { r with stop := some (some stACCESS) })
    else
      let k := min m r.data.length
      (t.1.write pa (r.data.take k), { r with
        data := r.data.drop k
        copy := { r.copy with moved := r.copy.moved + k }
        stop := if k < m then some (some stACCESS) else none })
  | .access => (t.1, { r with stop := some (some stACCESS) })
  | .unresolved => (t.1, { r with stop := some (some stFAULT_UNRESOLVED) })
  | _ => (t.1, { r with stop := some none })

/-- Run the copy in an entry from its cursor on HOSTQ tile `tile`: `len` bytes at `va`, the host's bytes from the cursor on
in `data`. -/
def State.runCopy (s : State) (c : Copy) (tile asid va len : Nat) (out : Bool) (host : Nat) (data : List Byte) : State :=
  let who : Waiter := .copy c.inst c.queue c.slot tile
  let r := (pagePieces (len / 65536 + 2) (va + c.moved) (len - c.moved)).foldl (fun (acc : State × CopyRun) p =>
    match acc.2.stop with
    | some _ => acc
    | none => acc.1.copyPiece acc.2 who asid p.1 p.2 out (host + (p.1 - va))) (s, { data := data, copy := c })
  let s1 : State := { r.1 with rings := { r.1.rings with
    copies := modifyWhere (fun x => x.inst == c.inst && x.queue == c.queue && x.slot == c.slot) (fun _ => r.2.copy)
      r.1.rings.copies } }
  match r.2.stop with
  | some (some st) => s1.copyDone c.inst c.queue c.slot st
  | some none => s1
  | none => s1.copyDone c.inst c.queue c.slot (if r.2.copy.hole then stHOLE else stOK)

end Sys2Proof.Machine
end

