-- ==== Sys2Proof/Machine/Waiters.lean ====
section
/-! DEFINITION. What the engines do when a request of theirs leaves the park list: to be translated again (R292), or with
FAULT_UNRESOLVED (R238, R293, R365, R413, R483). -/
namespace Sys2Proof.Machine
open Sys2Proof

/-- A request's faults have ended unresolved: its engine ends the work with status `st`. -/
def State.deliver (s : State) (who : Waiter) (st : Nat) : State :=
  match who with
  | .skein t c h =>
    match s.skein? t c h with
    | some k => if k.state = 4 || k.state = 5 then s.setSkein t c h { k with state := 1, due := st } else s
    | none => s
  | .transport n psn => s.qpUnresolved n psn
  | .copy i q slot _ => s.copyDone i q slot st
  | .page i _ => s.abortLoad i stACCESS
  | .collective g _ => s.colEarlyEnd g st

/-- The requests that have left the park list with a status go to their engines (R293). -/
def State.deliverEnded (s : State) : State :=
  s.xlt.ended.foldl (fun s p => s.deliver p.1 p.2) { s with xlt := { s.xlt with ended := [] } }

/-- The page of request `p` has been served: its engine goes on from where it stopped (R236, R292, R365, R367); a copy, the
page service and a collective translate again when they next run. -/
def State.resume (s : State) (p : Parked) : State :=
  match p.who with
  | .skein t c h =>
    match s.skein? t c h with
    | some k =>
      if k.state = 4 || k.state = 5 then
        (s.setSkein t c h { k with state := 1, fault := 0, side := false }).bump SKN_RESUMED_VAL
      else s
    | none => s
  | .transport n psn => s.qpResume n psn
  | _ => s

end Sys2Proof.Machine
end

