-- ==== Sys2Proof/Machine/Faults.lean ====
section
/-! DEFINITION. Translation commands, migrations and fault service (08_translation_faults.md R281 to R299). -/
namespace Sys2Proof.Machine
open Sys2Proof

/-! ### The command body (R287, Table 14.8) -/

/-- The shift of a page of SIZE `z`. -/
def sizeShift (z : Nat) : Nat := if z = 0 then 16 else if z = 1 then 21 else 30

/-- The level whose entries span a page of SIZE `z` (Table 8.1). -/
def sizeLevel (z : Nat) : Nat := 4 - z

def Entry.xAsid (e : Entry) : Nat := e.b 0 2
def Entry.xSize (e : Entry) : Nat := e.b 2 1
def Entry.xPerm (e : Entry) : Nat := e.b 3 1
def Entry.xVa (e : Entry) : Nat := e.b 8 8
def Entry.xPa (e : Entry) : Nat := e.b 16 8
def Entry.xHost (e : Entry) : Nat := e.b 24 8

/-- Whether the operands are well formed: `named` lists the body fields that the command uses; `pa`, `host`:
it has those operands (R287, R288). -/
def Entry.xWell (e : Entry) (named : List (Nat × Nat)) (pa host : Bool) : Bool :=
  e.rsvdZero named && e.xSize < 3 && e.xPerm < 4 && e.xVa % 2 ^ sizeShift e.xSize == 0 &&
    (!pa || e.xPa % 2 ^ sizeShift e.xSize == 0) && (!host || e.xHost % 4096 == 0)

/-- Whether a translation command of instance `i` is still running (R287: one at a time). -/
def State.xltBusy (s : State) (i : Nat) : Bool :=
  s.xlt.inval.any (·.1 == i) || s.xlt.migs.any (·.inst == i)

/-- Run translation command `op`, taken at `slot` of instance `i`, when none before it runs (R287). -/
def State.xltCmd (s : State) (i slot op : Nat) (f : Entry → State) : Host.Outcome State Fault Refusal :=
  match s.entry? i 0 slot with
  | some e => if e.op != op || s.xltBusy i then .next s else .next (f e)
  | none => .next s

/-- The command completes with `st`. -/
def State.xltEnd (s : State) (i slot st : Nat) : State := s.complete i 0 slot st 0

/-- The command has made its switch; it completes when the caches have dropped the old entry (R284). -/
def State.xltSwitch (s : State) (i slot : Nat) : State :=
  { s with xlt := { s.xlt with inval := s.xlt.inval ++ [(i, slot)] } }

/-- What a command finds at its entry: the address of the entry where the command may write it (tables built
as R287 says), or the status it completes with.  `valid`: the command needs a VALID leaf; `ow`: it
overwrites a VALID leaf. -/
def State.xltTarget (s : State) (a va z : Nat) (h : Hit) (valid ow : Bool) : State × Except Nat (Nat × Nat) :=
  let lv := sizeLevel z
  match h.kind with
  | .bad => (s.badEntry a h, .error stACCESS)
  | .pointer => (s, .error stBUSY)
  | .migrating => (s, .error stBUSY)
  | .leaf => if h.level = lv && (valid || ow) then (s, .ok (h.epa, h.e)) else (s, .error stBUSY)
  | _ =>
    if valid then (s, .error stBUSY)
    else match s.buildTo a va lv 5 h with
      | some (s1, epa) => (s1, .ok (epa, h.e))
      | none => (s, .error stCAPACITY)

/-- The shared order of checks of the page commands (R276, R287): operands, ASID and page, pins, entry. -/
def State.xltPage (s : State) (i slot : Nat) (e : Entry) (well : Bool) (pa pin valid ow : Bool)
    (f : State → Nat → Nat → State) : State :=
  let sh := sizeShift e.xSize
  if !well then s.xltEnd i slot stMALFORMED
  else if 2 ^ 57 ≤ e.xVa || !s.asidOk i e.xAsid || (pa && !s.pageOk i e.xPa sh) then s.xltEnd i slot stACCESS
  else if pin && s.pinned e.xAsid e.xVa (2 ^ sh) then s.xltEnd i slot stBUSY
  else
    let h := s.walk i e.xAsid e.xVa (sizeLevel e.xSize)
    match s.xltTarget e.xAsid e.xVa e.xSize h valid ow with
    | (s1, .error st) => s1.xltEnd i slot st
    | (s1, .ok (epa, old)) => f s1 epa old

/-! ### Commands (Table 8.3) -/

/-- XLT_ASID_CREATE (R285, R287): an empty level-0 table in the pool; the ASID becomes usable. -/
def execXltAsidCreate (i slot : Nat) (s : State) : Host.Outcome State Fault Refusal :=
  s.xltCmd i slot 0x10 fun e =>
    let a := e.b 0 2
    let mirror := e.b 2 1
    let pa := e.b 8 8
    let len := e.b 16 8
    if !e.rsvdZero [(0, 3), (8, 16)] || 1 < mirror || pa % 4096 != 0 || len % 4096 != 0 then
      s.xltEnd i slot stMALFORMED
    else if 4096 ≤ a || a / s.asidsPer != i || !inside (s.nearRange i) pa len || (mirror = 1 && i != 0) then
      s.xltEnd i slot stACCESS
    else if s.on (XLT_ROOT_USABLE a) then s.xltEnd i slot stBUSY
    else if len = 0 || (mirror = 1 && 8 ≤ s.get XLT_MIRRORS_VAL) then s.xltEnd i slot stCAPACITY
    else
      let s1 := s.write pa (List.replicate 4096 0)
      let s2 := ((s1.put (XLT_ROOT_ROOT a) (pa / 4096)).put (XLT_ROOT_USABLE a) 1).put (XLT_ROOT_MIRROR a) mirror
      let s3 := (s2.put (XLT_POOL_LEN_4K a) (len / 4096)).put (XLT_POOL_USED_4K a) 1
      let s4 := { s3 with xlt := { s3.xlt with used := tput s3.xlt.used a 4096 } }
      (s4.put XLT_MIRRORS_VAL (s4.get XLT_MIRRORS_VAL + mirror)).xltEnd i slot stOK

/-- ASID `a` of instance `i` becomes unusable, its pool goes back and its requests end (R287, R293). -/
def State.dropAsid (s : State) (i a : Nat) : State :=
  let m := s.get (XLT_ROOT_MIRROR a)
  let s1 := s.endUnresolved i fun o => o.asid == a
  let s2 := ((s1.setReg (XLT_ROOT a) (regReset (XLT_ROOT a))).setReg (XLT_POOL a) (regReset (XLT_POOL a)))
  let s3 := { s2 with xlt := { s2.xlt with
    used := tdel s2.xlt.used a
    parked := modifyWhere (fun p => p.inst == i && p.asid == a) (fun p => { p with ready := true })
      s2.xlt.parked } }
  (s3.put XLT_MIRRORS_VAL (s3.get XLT_MIRRORS_VAL - m)).deliverEnded

/-- XLT_ASID_DESTROY (R287, R297): every entry of the ASID goes, and the ASID becomes unusable. -/
def execXltAsidDestroy (i slot : Nat) (s : State) : Host.Outcome State Fault Refusal :=
  s.xltCmd i slot 0x11 fun e =>
    if !e.rsvdZero [(0, 2)] then s.xltEnd i slot stMALFORMED
    else if !s.asidOk i e.xAsid then s.xltEnd i slot stACCESS
    else if s.pinned e.xAsid 0 (2 ^ 57) then s.xltEnd i slot stBUSY
    else (s.dropAsid i e.xAsid).xltSwitch i slot

/-- XLT_MAP (R287, R292): makes a VALID leaf. -/
def execXltMap (i slot : Nat) (s : State) : Host.Outcome State Fault Refusal :=
  s.xltCmd i slot 0x12 fun e =>
    s.xltPage i slot e (e.xWell [(0, 4), (8, 16)] true false) true false false false fun s1 epa _ =>
      ((s1.setEntry epa (leafEntry e.xPa e.xPerm)).endService i e.xAsid e.xVa
        (2 ^ sizeShift e.xSize)).xltSwitch i slot

/-- XLT_UNMAP (R287, R292): sets the leaf NONE. -/
def execXltUnmap (i slot : Nat) (s : State) : Host.Outcome State Fault Refusal :=
  s.xltCmd i slot 0x13 fun e =>
    s.xltPage i slot e (e.xWell [(0, 3), (8, 8)] false false) false true false true fun s1 epa _ =>
      ((s1.setEntry epa 0).endService i e.xAsid e.xVa (2 ^ sizeShift e.xSize)).xltSwitch i slot

/-- XLT_PROTECT (R287): changes a VALID leaf's permissions. -/
def execXltProtect (i slot : Nat) (s : State) : Host.Outcome State Fault Refusal :=
  s.xltCmd i slot 0x14 fun e =>
    s.xltPage i slot e (e.xWell [(0, 4), (8, 8)] false false) false true true false fun s1 epa old =>
      (s1.setEntry epa (leafEntry (entryAddr old) e.xPerm)).xltSwitch i slot

/-- XLT_SET_HOST (R287, R292): sets the entry HOST. -/
def execXltSetHost (i slot : Nat) (s : State) : Host.Outcome State Fault Refusal :=
  s.xltCmd i slot 0x15 fun e =>
    s.xltPage i slot e (e.xWell [(0, 3), (8, 8)] false false) false false false false fun s1 epa _ =>
      ((s1.setEntry epa (kindEntry 1)).endService i e.xAsid e.xVa (2 ^ sizeShift e.xSize)).xltSwitch i slot

/-- XLT_INVALIDATE_COMPLETE (R284): the caches have dropped the old entry and its accesses have drained. -/
def execXltInvalidateComplete (i slot : Nat) (s : State) : Host.Outcome State Fault Refusal :=
  if s.xlt.inval.contains (i, slot) then
    .next ({ s with xlt := { s.xlt with inval := s.xlt.inval.filter fun p => p != (i, slot) } }.xltEnd i slot stOK)
  else .next s

/-! ### Migration (R295 to R297) -/

/-- MIGRATE_IN (R295): the entry becomes MIGRATING and the copy starts. -/
def execMigrateIn (i slot : Nat) (s : State) : Host.Outcome State Fault Refusal :=
  s.xltCmd i slot 0x16 fun e =>
    s.xltPage i slot e (e.xWell [(0, 4), (8, 24)] true true) true false false false fun s1 epa old =>
      let m : Migration := ⟨i, slot, e.xAsid, e.xVa, sizeShift e.xSize, e.xPa, e.xPerm, e.xHost, bits old 1 2, false⟩
      let s2 := s1.setEntry epa (kindEntry 2)
      { s2 with xlt := { s2.xlt with migs := s2.xlt.migs ++ [m] } }

/-- The migration of (i, slot), of direction `out`. -/
def State.mig? (s : State) (i slot : Nat) (out : Bool) : Option Migration :=
  s.xlt.migs.find? fun m => m.inst == i && m.slot == slot && m.out == out

/-- The migration ends: its entry becomes `e` in a switch that ends the page's service (R292), and the
command completes. -/
def State.endMig (s : State) (m : Migration) (e st : Nat) : State :=
  let h := s.walk m.inst m.asid m.va (4 - (if m.shift = 16 then 0 else if m.shift = 21 then 1 else 2))
  let s1 := (s.setEntry h.epa e).endService m.inst m.asid m.va (2 ^ m.shift)
  { s1 with xlt := { s1.xlt with migs := s1.xlt.migs.filter (· != m) } }.xltEnd m.inst m.slot st

/-- MIGRATE_IN_COMPLETE (R295): the page is in device memory and the leaf becomes VALID; a failed host read
restores the old kind. -/
def execMigrateInComplete (i slot : Nat) (data : Option (List Byte)) (s : State) :
    Host.Outcome State Fault Refusal :=
  match s.mig? i slot false with
  | some m =>
    match data with
    | some bs => .next ((s.write m.pa (sliceB bs 0 (2 ^ m.shift))).endMig m (leafEntry m.pa m.perm) stOK)
    | none => .next ((s.endMig m (kindEntry m.oldKind) stACCESS).raise XLT_EVENT_MIGRATE_ERR)
  | none => .next s

/-- MIGRATE_OUT (R296): a VALID page becomes MIGRATING. -/
def execMigrateOut (i slot : Nat) (s : State) : Host.Outcome State Fault Refusal :=
  s.xltCmd i slot 0x17 fun e =>
    s.xltPage i slot e (e.xWell [(0, 3), (8, 8), (24, 8)] false true) false true true false fun s1 epa old =>
      if (winOf (entryAddr old)).isSome then s1.xltEnd i slot stBUSY
      else
        let m : Migration := ⟨i, slot, e.xAsid, e.xVa, sizeShift e.xSize, entryAddr old, bits old 2 2, e.xHost, 0, true⟩
        let s2 := s1.setEntry epa (kindEntry 2)
        { s2 with xlt := { s2.xlt with migs := s2.xlt.migs ++ [m] } }

/-- Write the lines of a page to host memory; a poisoned line as a poisoned posted write (R296). -/
def State.pageToHost (s : State) (i pa host : Nat) : Nat → State
  | 0 => s
  | n + 1 =>
    let s1 := s.pageToHost i pa host n
    if s1.poisoned (pa + 64 * n) then (s1.logPoison (pa + 64 * n) 64).hostPoison i (host + 64 * n)
    else s1.hostPut i (host + 64 * n) (s1.bytes (pa + 64 * n) 64)

/-- MIGRATE_OUT_COMPLETE (R296): the page is written and the entry becomes HOST. -/
def execMigrateOutComplete (i slot : Nat) (s : State) : Host.Outcome State Fault Refusal :=
  match s.mig? i slot true with
  | some m =>
    let bad := s.anyPoison m.pa (2 ^ m.shift)
    .next ((s.pageToHost i m.pa m.host (2 ^ m.shift / 64)).endMig m (kindEntry 1) (if bad then stHOLE else stOK))
  | none => .next s

/-! ### Fault service (R289 to R294, R298, R299) -/

/-- FAULT_FAIL (R293): the page's faults end unresolved. -/
def execFaultFail (i slot : Nat) (s : State) : Host.Outcome State Fault Refusal :=
  s.xltCmd i slot 0x18 fun e =>
    if !e.rsvdZero [(0, 2), (8, 8)] then s.xltEnd i slot stMALFORMED
    else if 2 ^ 57 ≤ e.xVa || !s.asidOk i e.xAsid then s.xltEnd i slot stACCESS
    else ((s.endUnresolved i fun o => o.asid == e.xAsid && o.base ≤ e.xVa &&
      e.xVa < o.base + 2 ^ o.shift).deliverEnded).xltEnd i slot stOK

/-- TRANSLATION_WALK (R276, R281, R289): an engine request translates; the outcome stands in `xlt.last`. -/
def execTranslationWalk (i a va : Nat) (wr : Bool) (who : Waiter) (s : State) :
    Host.Outcome State Fault Refusal :=
  let r := s.translate i a va wr who
  .next { r.1 with xlt := { r.1.xlt with last := r.2 } }

/-- FAULT_BATCH_SEND (R291): the open batch is written to the fault ring and published. -/
def execFaultBatchSend (i : Nat) (s : State) : Host.Outcome State Fault Refusal :=
  if mget [] s.xlt.openB i = [] then .next s else .next ((s.sendBatch i).settle i)

/-- PARKED_REQUEST_RETRY (R292): the requests that waited on the page translate again. -/
def execParkedRequestRetry (i a va : Nat) (s : State) : Host.Outcome State Fault Refusal :=
  let hit (p : Parked) : Bool :=
    p.inst == i && p.asid == a && p.ready && p.base ≤ va && va < p.base + 2 ^ p.shift
  let l := s.xlt.parked.filter hit
  if l.isEmpty then .next s
  else
    let s1 := { s with xlt := { s.xlt with parked := s.xlt.parked.filter fun p => !hit p } }
    .next ((l.foldl (fun s p => s.resume p) s1).settle i)

/-- FAULT_TIMEOUT (R293): TIMEOUT_MS has passed since the page's record was created. -/
def execFaultTimeout (i a va : Nat) (s : State) : Host.Outcome State Fault Refusal :=
  if s.get (XLT_FR_CFG_TIMEOUT_MS i) = 0 then .next s
  else .next (s.endUnresolved i fun o => o.asid == a && o.base ≤ va && va < o.base + 2 ^ o.shift).deliverEnded

/-- XLT_FR_CONS_WRITE (R298, R299): ring room is freed, and held records are written. -/
def execXltFrConsWrite (i val : Nat) (s : State) : Host.Outcome State Fault Refusal :=
  let c := val % 2 ^ 32
  if 4096 < (s.get (XLT_FR_PROD_PROD i) + 2 ^ 32 - c) % 2 ^ 32 then .next s
  else .next (((s.put (XLT_FR_CONS_CONS i) c).flushHeld i).settle i)

/-- XLT_FR_ENABLE_WRITE (R293, R302): setting ENABLE starts the ring at 0; clearing it ends every outstanding
fault and discards the records not written. -/
def execXltFrEnableWrite (i val : Nat) (s : State) : Host.Outcome State Fault Refusal :=
  let s1 := s.put (XLT_FR_CFG_TIMEOUT_MS i) (bits val 16 16)
  if bit val 0 then
    if s.on (XLT_FR_CFG_ENABLE i) then .next s1
    else .next (((s1.put (XLT_FR_CFG_ENABLE i) 1).put (XLT_FR_PROD_PROD i) 0).put (XLT_FR_CONS_CONS i) 0)
  else if s.on (XLT_FR_CFG_ENABLE i) then
    .next ((s1.put (XLT_FR_CFG_ENABLE i) 0).endAllFaults i).deliverEnded
  else .next s1

end Sys2Proof.Machine
end

