-- ==== Sys2Proof/Machine/Host.lean ====
section
/-! DEFINITION. The host link, queues, copies, detachment, reattachment and the D640 mailbox
(14_host_interface.md R458 to R489). -/
namespace Sys2Proof.Machine
open Sys2Proof

/-! ### Ending entries early (R480) -/

/-- A queue pair whose work requests were aborted: they complete with ABORTED, and it enters QPS_ERROR (R344, R480). -/
def State.qpAbort (s : State) (n : Nat) : State :=
  match s.qp? n with
  | none => s
  | some x =>
    if x.state != 3 && x.state != 4 then s
    else
      let s1 := x.reqs.foldl (fun s r => (s.complete (s.qpInst n) r.queue r.slot stABORTED 0).traceQp 2 n r stABORTED) s
      (s1.setQp n { x with reqs := [], lastStatus := stABORTED }).qpFail n 0 stABORTED

/-- The migration ends without its switch: its entry is as it was before (R295, R296, R486). -/
def State.undoMig (s : State) (m : Migration) (st : Nat) : State :=
  s.endMig m (if m.out then leafEntry m.pa m.perm else kindEntry m.oldKind) st

/-- What a started entry `e` of queue `q` of instance `i` has under way stops (R480): nothing is completed here but what
the entry's own engine completes. -/
def State.stopWork (s : State) (i q : Nat) (e : Entry) : State :=
  match e.op with
  | 0x41 => s.qpAbort (e.b 0 4 % 2 ^ 20)
  | 0x42 =>
    match s.col.groups.find? fun g => s.groupInst g.1 == i && g.2.ops.any fun o => o.ring == some (q, e.slot) with
    | some g => s.colEarlyEnd g.1 stABORTED
    | none => s
  | 0x16 => (s.xlt.migs.filter fun m => m.inst == i && m.slot == e.slot && q == 0).foldl (fun s m => s.undoMig m stABORTED) s
  | 0x17 => (s.xlt.migs.filter fun m => m.inst == i && m.slot == e.slot && q == 0).foldl (fun s m => s.undoMig m stABORTED) s
  | 0x30 => if (s.model? i).any fun m => m.slot == e.slot then s.abortLoad i stABORTED else s
  | 0x36 =>
    match s.model? i with
    | some m => if m.reshard.any fun r => r.slot == e.slot then s.setModel i { m with reshard := none } else s
    | none => s
  | _ =>
    if e.op ≤ 0x18 && q = 0 then
      { s with xlt := { s.xlt with inval := s.xlt.inval.filter fun p => p != (i, e.slot) } }.dropCopy i q e.slot
    else s.dropCopy i q e.slot

/-- A started entry completes with ABORTED and its work stops (R480): the RESULT of a copy is the bytes it moved. -/
def State.abortEntry (s : State) (i q : Nat) (e : Entry) : State :=
  let moved := match s.copy? i q e.slot with
    | some c => c.moved
    | none => 0
  (s.complete i q e.slot stABORTED moved).stopWork i q e

/-- Entries before the tail that have not been taken, from the bytes of their slots: one with OWN 1 completes with ABORTED,
one with OWN 0 is passed over (R480). -/
def State.abortUntaken (s : State) (i q : Nat) (x : Queue) (n : Nat) (ring : List Byte) : Nat → State
  | 0 => s
  | f + 1 =>
    if slotMod (x.tail + 2 ^ 32 - n) = 0 || 2 ^ 31 ≤ slotMod (x.tail + 2 ^ 32 - n) then s
    else
      let raw := sliceB ring 0 64
      if bit (byteAt raw 0) 0 then
        let e : Entry := ⟨n, byteAt raw 2, byteAt raw 1, leAt raw 4 2, byteAt raw 3, raw, false, 0, 0⟩
        let k := max 1 (byteAt raw 2)
        (s.ringPut i q (x.slotAddr n) (e.header stABORTED 0)).abortUntaken i q x (slotMod (n + k)) (ring.drop (64 * k)) f
      else s.abortUntaken i q x (slotMod (n + 1)) (ring.drop 64) f

/-- The bit of queue `q` in RING_QERR clears. -/
def State.clearQerr (s : State) (i q : Nat) : State :=
  s.setReg (RING_QERR i (q / 64)) (clearMask (s.reg (RING_QERR i (q / 64))) (2 ^ (q % 64)))

/-- QUEUE_RESET or QUEUE_DESTROY of queue `q` (R480): its entries end, the head is published at the tail, and the queue's
state becomes `st`.  `ring` holds the slots from the next entry to be taken on. -/
def State.resetQueue (s : State) (i q st : Nat) (ring : List Byte) : State :=
  let x := s.queue i q
  let s1 := x.started.foldl (fun s e => s.abortEntry i q e) s
  let s2 := (s1.abortUntaken i q x x.take ring (ring.length / 64 + 1)).clearQerr i q
  let s3 := s2.ringPut i q x.headAddr (leBytes 8 (x.tail + st * 2 ^ 32))
  s3.setQueue i q (if st = 0 then {} else { x with
    state := st, head := x.tail, take := x.tail, pub := x.tail, window := [], waitOwn := false, retry := false
    errReason := 0, errSlot := 0, uncovered := 0, notify := false })

/-! ### The admin queue (R461, R487) -/

/-- Whether registers of instance `i` act: it exists and is not in a reset. -/
def State.instLive (s : State) (i : Nat) : Bool := s.instExists i && (tfind s.insts.resets i).isNone

/-- Queue 0 becomes ACTIVE with head and tail 0; entries still started of a HELD queue 0 run on without it. -/
def State.enableAdmin (s : State) (i : Nat) : State :=
  let x := s.queue i 0
  let s1 : State := { s with rings := { s.rings with
    orphans := mset [] s.rings.orphans (i * 4096) (mget [] s.rings.orphans (i * 4096) ++ x.started)
    bmeOff := s.rings.bmeOff.filter (· != i) } }
  (s1.put (RING_ADMIN_CFG_ENABLE i) 1).setQueue i 0 {
    state := 1, log2 := s1.get (RING_ADMIN_CFG_LOG2_SLOTS i), weight := 255, vector := s1.get (RING_ADMIN_CFG_VECTOR i)
    flush := s1.on (RING_ADMIN_CFG_FLUSH_ON_PUBLISH i), base := s1.get (RING_ADMIN_BASE_BASE i) * 4096
    headAddr := s1.get (RING_ADMIN_HEAD_ADDR_ADDR i) * 8 }

/-- A write of RING_ADMIN_CFG (R461). -/
def State.adminCfgWrite (s : State) (i val : Nat) (ring : List Byte) : State :=
  if !s.instLive i then s
  else if s.on (RING_ADMIN_CFG_ENABLE i) then
    let s1 := s.put (RING_ADMIN_CFG_VECTOR i) (bits val 16 11)
    let s2 := s1.setQueue i 0 { s1.queue i 0 with vector := bits val 16 11 }
    if bit val 0 then s2 else (s2.resetQueue i 0 0 ring).put (RING_ADMIN_CFG_ENABLE i) 0
  else if bit val 0 && (bits val 1 4 < 4 || 12 < bits val 1 4) then s
  else
    let s1 := ((s.put (RING_ADMIN_CFG_LOG2_SLOTS i) (bits val 1 4)).put (RING_ADMIN_CFG_FLUSH_ON_PUBLISH i)
      (bits val 5 1)).put (RING_ADMIN_CFG_VECTOR i) (bits val 16 11)
    if bit val 0 then s1.enableAdmin i else s1

/-- ADMIN_QUEUE_ENABLE (R461, R487): a write of RING_ADMIN_CFG that sets ENABLE. -/
def execAdminQueueEnable (i cfg : Nat) (s : State) : Host.Outcome State Fault Refusal :=
  .next (if bit cfg 0 then s.adminCfgWrite i cfg [] else s)

/-- ADMIN_QUEUE_DISABLE (R461): a write that clears ENABLE. -/
def execAdminQueueDisable (i : Nat) (ring : List Byte) (s : State) : Host.Outcome State Fault Refusal :=
  .next (if s.on (RING_ADMIN_CFG_ENABLE i) then
    s.adminCfgWrite i (clearMask (s.reg (RING_ADMIN_CFG i)) 1) ring else s)

/-! ### Admin commands (R478 to R481) -/

/-- Instance `i`'s share of a device-wide count `n`: its first number and how many. -/
def State.shareOf (s : State) (i n : Nat) : Nat × Nat := (i * (n / s.nInst), n / s.nInst)

/-- HOSTQ tiles of instance `i` that work. -/
def State.hostqs (s : State) (i : Nat) : Nat :=
  ((List.range s.blockTiles).filter fun k =>
    let t := i * s.blockTiles + k
    s.roleOf t == 2 && s.get (TILE_STATE_STATE t) != 7).length

/-- The IDENTIFY response (Table 14.9). -/
def State.identity (s : State) (i : Nat) : List Byte :=
  let pair (w : Nat) (p : Nat × Nat) : List Byte := leBytes w p.1 ++ leBytes w p.2
  let cq := s.shareOf i 65536
  sliceB (leBytes 4 0x44343936 ++ leBytes 4 (Config.fwVersion s.runImage) ++
    ([BitVec.ofNat 8 s.nInst, BitVec.ofNat 8 i] : List Byte) ++ leBytes 2 (s.hostqs i) ++ leBytes 4 0x06400003 ++
    pair 8 (s.nearRange i) ++ pair 8 (s.farRange i) ++ pair 2 (s.shareOf i 4096) ++ pair 4 (s.shareOf i (2 ^ 20)) ++
    leBytes 2 cq.1 ++ leBytes 2 0 ++ pair 2 (s.shareOf i 1024) ++ leBytes 4 s.regionShare ++
    leBytes 4 (s.get (RING_ATTACH_ATTACH_GEN i)) ++ leBytes 4 cq.2) 0 256

/-- IDENTIFY (R481, Table 14.9). -/
def execIdentify (i slot : Nat) (s : State) : Host.Outcome State Fault Refusal :=
  s.adminCmd i slot 0x01 fun e =>
    if !e.rsvdZero [(0, 8)] || e.b 0 8 % 64 != 0 then s.adminEnd i slot stMALFORMED
    else (s.ringPut i 0 (e.b 0 8) (s.identity i)).adminEnd i slot stOK

/-- QUEUE_CREATE (R477, R478, R481). -/
def execQueueCreate (i slot : Nat) (s : State) : Host.Outcome State Fault Refusal :=
  s.adminCmd i slot 0x02 fun e =>
    let q := e.b 0 2
    let w := e.b 3 1
    let n := e.b 7 1
    let us := e.b 24 2
    if !e.rsvdZero [(0, 26)] || q = 0 || 4096 ≤ q || e.b 2 1 < 4 || 16 < e.b 2 1 || 2048 ≤ e.b 4 2 || 4 ≤ e.b 6 1 ||
        e.b 8 8 % 4096 != 0 || e.b 16 8 % 8 != 0 then s.adminEnd i slot stMALFORMED
    else if (s.queue i q).state != 0 then s.adminEnd i slot stBUSY
    else
      let s1 := if w = 0 || n = 0 || 1000 < us then s.bump (RING_CLAMP_COUNT_VAL i) else s
      (s1.setQueue i q {
        state := 1, log2 := e.b 2 1, weight := max 1 w, vector := e.b 4 2, flush := bit (e.b 6 1) 0, noIrq := bit (e.b 6 1) 1
        coalN := max 1 n, coalUs := min us 1000, base := e.b 8 8, headAddr := e.b 16 8 }).adminEnd i slot stOK

/-- The checks that QUEUE_DESTROY and QUEUE_RESET share. -/
def State.queueCmd (s : State) (i slot op : Nat) (f : Nat → State) : Host.Outcome State Fault Refusal :=
  s.adminCmd i slot op fun e =>
    let q := e.b 0 2
    if !e.rsvdZero [(0, 2)] || q = 0 || 4096 ≤ q then s.adminEnd i slot stMALFORMED
    else if (s.queue i q).state = 0 then s.adminEnd i slot stBUSY
    else f q

/-- QUEUE_DESTROY (R480). -/
def execQueueDestroy (i slot : Nat) (ring : List Byte) (s : State) : Host.Outcome State Fault Refusal :=
  s.queueCmd i slot 0x03 fun q =>
    if s.qp.qps.any fun p => s.qpInst p.1 == i && (p.2.sendQ == q || p.2.notifyQ == q) then s.adminEnd i slot stBUSY
    else (s.resetQueue i q 0 ring).adminEnd i slot stOK

/-- QUEUE_RESET (R480). -/
def execQueueReset (i slot : Nat) (ring : List Byte) (s : State) : Host.Outcome State Fault Refusal :=
  s.queueCmd i slot 0x04 fun q => (s.resetQueue i q 1 ring).adminEnd i slot stOK

/-- TILE_ASSIGN (R132, R133, R481): the entry completes when the tile has drained. -/
def execTileAssign (i slot : Nat) (s : State) : Host.Outcome State Fault Refusal :=
  s.adminCmd i slot 0x08 fun e =>
    let t := e.b 0 2
    let a := (s.tile t).assign
    if t < 4096 && a.any (fun x => x.by_ == some (i, slot)) then s
    else if !e.rsvdZero [(0, 20)] then s.adminEnd i slot stMALFORMED
    else
      match s.assignStatus false (some i) t (e.b 2 2) (e.b 8 8) (e.b 4 4) (e.b 16 4) with
      | 0 => s.startAssign t (e.b 2 2) (e.b 8 8) (e.b 4 4) (e.b 16 4) (some (i, slot))
      | st =>
        let own := t < 4096 && s.instOfTile t == i && !s.heldTile t
        (if own then s.refuseAssign t st else s).adminEnd i slot st

/-! ### Copies (R483) -/

/-- Start a copy in an entry. -/
def State.startCopy (s : State) (i q slot : Nat) : State :=
  { s with rings := { s.rings with copies := s.rings.copies ++ ([{ inst := i, queue := q, slot := slot }] : List Copy) } }

/-- HOST_TO_DEV or DEV_TO_HOST is checked and its copy begins. -/
def State.copyCmd (s : State) (i q slot op : Nat) : State :=
  match s.entry? i q slot with
  | some e =>
    if e.op != op || (s.copy? i q slot).isSome then s
    else if !e.rsvdZero [(0, 18), (20, 4)] || e.b 20 4 = 0 || 2 ^ 31 < e.b 20 4 || 4096 ≤ e.b 16 2 then
      s.complete i q slot stMALFORMED 0
    else if 2 ^ 57 ≤ e.b 8 8 || !s.asidOk i (e.b 16 2) then s.complete i q slot stACCESS 0
    else s.startCopy i q slot
  | none => s

/-- HOST_TO_DEV (R483). -/
def execHostToDev (i q slot : Nat) (s : State) : Host.Outcome State Fault Refusal := .next (s.copyCmd i q slot 0x43)

/-- DEV_TO_HOST (R483). -/
def execDevToHost (i q slot : Nat) (s : State) : Host.Outcome State Fault Refusal := .next (s.copyCmd i q slot 0x44)

/-- INLINE_TO_DEV (R481, R483). -/
def execInlineToDev (i q slot : Nat) (s : State) : Host.Outcome State Fault Refusal :=
  match s.entry? i q slot with
  | some e =>
    let n := e.b 12 4
    if e.op != 0x45 || (s.copy? i q slot).isSome then .next s
    else if !e.rsvdZero [(0, 10), (12, 4), (48, n)] || n = 0 || 3968 < n || 4096 ≤ e.b 8 2 then
      .next (s.complete i q slot stMALFORMED 0)
    else if 2 ^ 57 ≤ e.b 0 8 || !s.asidOk i (e.b 8 2) then .next (s.complete i q slot stACCESS 0)
    else .next (s.startCopy i q slot)
  | none => .next s

/-- COPY_COMPLETE (R483): the copy in an entry runs from its cursor on HOSTQ tile `tile`, to its end or to a fault. -/
def execCopyComplete (i q slot tile : Nat) (data : List Byte) (s : State) : Host.Outcome State Fault Refusal :=
  match s.copy? i q slot, s.entry? i q slot with
  | some c, some e =>
    if 4096 ≤ tile || s.instOfTile tile != i || s.roleOf tile != 2 || !s.engineOk tile ||
        s.xlt.parked.any (·.ofCopy i q slot) then .next s
    else if e.op = 0x45 then
      .next (s.runCopy c tile (e.b 8 2) (e.b 0 8) (e.b 12 4) false 0 ((e.raw.drop (64 + c.moved)).take (e.b 12 4 - c.moved)))
    else .next (s.runCopy c tile (e.b 16 2) (e.b 8 8) (e.b 20 4) (e.op == 0x44) (e.b 0 8) data)
  | _, _ => .next s

/-! ### Heartbeats and detachment (R485, R486) -/

/-- HEARTBEAT_WRITE (R485): the timeout starts anew. -/
def execHeartbeatWrite (i : Nat) (s : State) : Host.Outcome State Fault Refusal :=
  .next (if s.instLive i then { s with rings := { s.rings with beat := tput s.rings.beat i s.time } } else s)

/-- Instance `i` becomes DETACHED with a cause of Table 14.10, in one switch cycle (R485, R486). -/
def State.detach (s : State) (i cause : Nat) : State :=
  if !s.instLive i || s.detached i then s
  else
    let s1 := (((s.put (RING_ATTACH_DETACHED i) 1).put (RING_ATTACH_CAUSE i) cause).put (RING_ADMIN_CFG_ENABLE i) 0)
    let s2 : State := { s1 with rings := { s1.rings with
      queues := s1.rings.queues.map fun p => if p.1 / 4096 = i then (p.1, { p.2 with state := 3 }) else p
      detachPick := tput s1.rings.detachPick i (s1.get PICK_NUMBER_NUMBER) } }
    let hostCopy (c : Copy) : Bool := c.inst == i && match s2.entry? i c.queue c.slot with
      | some e => e.op != 0x45
      | none => true
    let s3 := (s2.rings.copies.filter hostCopy).foldl (fun s c => s.copyDone i c.queue c.slot stDETACHED) s2
    let s4 := (s3.xlt.migs.filter (·.inst == i)).foldl (fun s m => s.undoMig m stDETACHED) s3
    ((s4.abortLoad i stDETACHED).endAllFaults i).deliverEnded

/-- HEARTBEAT_TIMEOUT (R485): no heartbeat within TIMEOUT_MS; one in the cycle of the expiry is honoured. -/
def execHeartbeatTimeout (i : Nat) (s : State) : Host.Outcome State Fault Refusal :=
  .next (if s.get (RING_HB_CFG_TIMEOUT_MS i) != 0 && tfind s.rings.beat i != some s.time then s.detach i 3 else s)

/-- The PCIe interface is reset: every instance is detached (R485). -/
def State.hostDown (s : State) : State :=
  (List.range s.nInst).foldl (fun s i => s.detach i 1) { s with rings := { s.rings with linkDown := true, bmeOff := [] } }

/-- PCIE_LINK_DOWN (R485). -/
def execPcieLinkDown (s : State) : Host.Outcome State Fault Refusal := .next s.hostDown

/-- PERST_ASSERT (R599): as a hot reset under R485. -/
def execPerstAssert (s : State) : Host.Outcome State Fault Refusal := .next s.hostDown

/-- PCIE_LINK_UP (R485): retraining completes; a heartbeat timeout in the same cycle is not acted on. -/
def execPcieLinkUp (s : State) : Host.Outcome State Fault Refusal :=
  .next { s with rings := { s.rings with
    linkDown := false
    beat := (List.range s.nInst).foldl (fun m i => tput m i s.time) s.rings.beat } }

/-- BME_CLEAR (R485, R491): Bus Master Enable of a function is cleared; the instance it owns is detached. -/
def execBmeClear (fn : Nat) (s : State) : Host.Outcome State Fault Refusal :=
  if s.nInst ≤ fn then .next s
  else
    let s1 := if s.instExists fn then s.detach fn 2 else s
    .next { s1 with rings := { s1.rings with bmeOff := if s1.rings.bmeOff.contains fn then s1.rings.bmeOff else fn :: s1.rings.bmeOff } }

/-- A record of the reattach report (Table 14.11). -/
def HeldRec.bytes (r : HeldRec) : List Byte :=
  leBytes 2 r.qid ++ leBytes 2 0 ++ leBytes 4 r.slot ++ leBytes 2 r.tag ++ ([BitVec.ofNat 8 r.op, BitVec.ofNat 8 r.status] : List Byte) ++
    leBytes 4 0 ++ leBytes 8 r.result ++ leBytes 8 0

/-- The reattach report (Table 14.11), and the records it holds. -/
def State.reattachReport (s : State) (i len : Nat) : List Byte × Nat :=
  let l := mget [] s.rings.held i
  let n := min l.length ((len - 64) / 32)
  let h := leBytes 4 n ++ leBytes 4 (mget 0 s.rings.heldLost i) ++ leBytes 6 (mget 0 s.rings.detachPick i) ++ leBytes 2 0 ++
    leBytes 4 (s.get (RING_ATTACH_ATTACH_GEN i) + 1) ++
    ([BitVec.ofNat 8 (s.get (RING_ATTACH_CAUSE i)), if n < l.length then 1 else 0] : List Byte)
  ((sliceB h 0 64 ++ ((l.take n).map HeldRec.bytes).flatten).take len, n)

/-- Every I/O queue of instance `i` is destroyed without touching its ring, and the held log is emptied. -/
def State.dropQueues (s : State) (i : Nat) : State :=
  let s1 := (List.range 64).foldl (fun s n => s.setReg (RING_QERR i n) (if n = 0 then s.reg (RING_QERR i 0) % 2 else 0)) s
  { s1 with rings := { s1.rings with
      queues := s1.rings.queues.filter fun p => !(p.1 / 4096 == i && p.1 % 4096 != 0)
      orphans := s1.rings.orphans.filter fun p => p.1 / 4096 != i
      held := tdel s1.rings.held i, heldLost := tdel s1.rings.heldLost i, detachPick := tdel s1.rings.detachPick i } }

/-- The entries of instance `i` that were started before it was detached, with their queues. -/
def State.heldEntries (s : State) (i : Nat) : List (Nat × Entry) :=
  let l := s.rings.queues.filter fun p => p.1 / 4096 == i && p.2.state == 3
  let o := s.rings.orphans.filter fun p => p.1 / 4096 == i
  (l.flatMap fun p => p.2.started.map fun e => (p.1 % 4096, e)) ++
    o.flatMap fun p => (p.2.filter (!·.done)).map fun e => (p.1 % 4096, e)

/-- REATTACH (R487). -/
def execReattach (i slot : Nat) (s : State) : Host.Outcome State Fault Refusal :=
  s.adminCmd i slot 0x06 fun e =>
    let len := e.b 16 4
    if !e.rsvdZero [(0, 4), (8, 12)] || e.b 8 8 % 64 != 0 then s.adminEnd i slot stMALFORMED
    else if !s.detached i then s.adminEnd i slot stBUSY
    else if e.b 0 4 != s.get (RING_ATTACH_ATTACH_GEN i) then s.adminEnd i slot stACCESS
    else
      let s1 := (s.heldEntries i).foldl (fun s p => s.abortEntry i p.1 p.2) s
      let r := s1.reattachReport i len
      let s2 := (s1.ringPut i 0 (e.b 8 8) r.1).dropQueues i
      ((s2.put (RING_ATTACH_ATTACH_GEN i) (s2.get (RING_ATTACH_ATTACH_GEN i) + 1)).put (RING_ATTACH_DETACHED i) 0).adminEnd
        i slot stOK r.2

/-! ### The D640 mailbox (R488) -/

/-- The commands of Table 14.13. -/
def d640Cmds : List Nat := [1, 2, 3, 4, 6, 7]

/-- Put a command of the D640 mailbox to firmware: a write of RING_D640_CMD. -/
def State.d640Write (s : State) (i val : Nat) : State :=
  if !s.instLive i || s.on (RING_D640_STATUS_BUSY i) then s
  else
    let s1 := s.put (RING_D640_CMD_CMD i) val
    if bit val 31 then
      ((s1.put (RING_D640_CMD_GO i) 1).setReg (RING_D640_STATUS i) 1).traceMgmt 1 5 (val % 256) 0
    else s1

/-- Firmware ends the D640 command of instance `i` with a code and the data words. -/
def State.d640End (s : State) (i code : Nat) (data : List Nat) : State :=
  let s1 := data.zipIdx.foldl (fun s p => s.setReg (RING_D640_DATA i p.2) (p.1 % 2 ^ 64)) s
  ((s1.put (RING_D640_CMD_GO i) 0).setReg (RING_D640_STATUS i) (code * 256)).traceMgmt 2 5 (s.get (RING_D640_CMD_CMD i)) code

/-- Firmware serves the D640 command of instance `i`, if its number satisfies `p`. -/
def State.d640 (s : State) (i : Nat) (p : Nat → Bool) (f : State) : Host.Outcome State Fault Refusal :=
  .next (if s.instLive i && s.on (RING_D640_STATUS_BUSY i) && p (s.get (RING_D640_CMD_CMD i)) && !s.trc.halted &&
      !s.til.mgrLost.contains 0 then f else s)

/-- D640_GET_VERSION (Table 14.13). -/
def execD640GetVersion (i : Nat) (s : State) : Host.Outcome State Fault Refusal :=
  s.d640 i (· == 1) (s.d640End i 0 [Config.fwVersion s.runImage, 0x06400003])

/-- D640_GET_PORT (Table 14.13). -/
def execD640GetPort (i : Nat) (s : State) : Host.Outcome State Fault Refusal :=
  let p := s.reg (RING_D640_ARG i 0)
  s.d640 i (· == 2) (if s.portExists p then
    s.d640End i 0 [(if s.portUp p then 1 else 0) + (s.portLanes p).length * 256] else s.d640End i 2 [])

/-- D640_GET_PORT_COUNTERS (Table 14.13). -/
def execD640GetPortCounters (i : Nat) (s : State) : Host.Outcome State Fault Refusal :=
  let p := s.reg (RING_D640_ARG i 0)
  s.d640 i (· == 3) (if s.portExists p then
    s.d640End i 0 ((List.range 5).map fun k =>
      mget 0 s.rings.portTotals (p * 8 + k) - mget 0 s.rings.portBase ((i * 32 + p) * 8 + k))
    else s.d640End i 2 [])

/-- D640_GET_TEMP (Table 14.13). -/
def execD640GetTemp (i : Nat) (temps : List Nat) (s : State) : Host.Outcome State Fault Refusal :=
  s.d640 i (· == 4) (s.d640End i 0 [leAt ((temps.take 4).flatMap (leBytes 2)) 0 8])

/-- D640_GET_MAC (Table 14.13). -/
def execD640GetMac (i : Nat) (s : State) : Host.Outcome State Fault Refusal :=
  s.d640 i (· == 6) (s.d640End i 0 [match (List.range 24).find? fun p => bit (s.reg (MAC_IP_EGRESS i)) p with
    | some p => s.get (MAC_ADDR_VAL p)
    | none => 0])

/-- D640_ECHO (Table 14.13). -/
def execD640Echo (i : Nat) (s : State) : Host.Outcome State Fault Refusal :=
  s.d640 i (· == 7) (s.d640End i 0 [s.reg (RING_D640_ARG i 0)])

/-- D640_UNSUPPORTED (R488). -/
def execD640Unsupported (i : Nat) (s : State) : Host.Outcome State Fault Refusal :=
  s.d640 i (fun c => !(d640Cmds.contains c)) (s.d640End i 1 [])

end Sys2Proof.Machine
end

