-- ==== Sys2Proof/Machine/Instance.lean ====
section
/-! DEFINITION. Instances, their resets and their mailboxes (15_instances_mailboxes.md R490 to R510). -/
namespace Sys2Proof.Machine
open Sys2Proof

/-! ### What an instance holds -/

/-- The logical tiles of the block of instance `i` (Table 1.7). -/
def State.block (s : State) (i : Nat) : List Nat := (List.range s.blockTiles).map (i * s.blockTiles + ·)

/-- Whether tile `t` is in the active or an armed scheduled set. -/
def State.schedTile (s : State) (t : Nat) : Bool := s.on (TILE_STATE_SCHED_ACTIVE t) || s.on (TILE_STATE_SCHED_ARMED t)

/-- Whether a descriptor of a set in either bank names instance `i` (R495, R502). -/
def State.namedBySet (s : State) (i : Nat) : Bool := s.warp.sets.any fun w => w.insts.contains i

/-- The started entries of every queue of instance `i`. -/
def State.entriesOf (s : State) (i : Nat) : List (Nat × Entry) :=
  ((s.rings.queues.filter fun p => p.1 / 4096 == i).flatMap fun p => p.2.started.map fun e => (p.1 % 4096, e)) ++
    (s.rings.orphans.filter fun p => p.1 / 4096 == i).flatMap fun p => (p.2.filter (!·.done)).map fun e => (p.1 % 4096, e)

/-- The queue pairs of instance `i`. -/
def State.qpsOf (s : State) (i : Nat) : List (Nat × Qp) := s.qp.qps.filter fun p => s.qpInst p.1 == i

/-- The registers from address `a` to below `b` return to their reset values. -/
def State.resetRange (s : State) (a b : Nat) : State :=
  let out (p : Nat × Nat) : Bool := !(a ≤ p.1 && p.1 < b)
  { s with csr := s.csr.filter out, later := s.later.filter out }

/-! ### Quiesce and resume (R496 to R498) -/

/-- The switch cycle of a quiesce (R496): queue pairs in QPS_RTS drain, and USER tiles stop. -/
def State.quiesce (s : State) (i : Nat) : State :=
  let l := (s.qpsOf i).filter fun p => p.2.state == 3
  let s1 := l.foldl (fun s (p : Nat × Qp) => s.setQp p.1 { p.2 with state := 4 }) s
  let s2 := ((s1.block i).filter fun t => isUser (s1.roleOf t) && s1.get (TILE_STATE_STATE t) == 5).foldl
    (fun s t => s.put (TILE_STATE_STATE t) 1) s1
  ({ s2 with insts := { s2.insts with marked := s2.insts.marked ++ l.map Prod.fst } }).put (INST_STATE_STATE i) 2

/-- Whether the work of instance `i` has ended (R497). -/
def State.quiet (s : State) (i : Nat) : Bool :=
  (s.entriesOf i).isEmpty && (s.qpsOf i).all (fun p => p.2.reqs.isEmpty) && !(s.xlt.migs.any (·.inst == i)) &&
    s.contexts.all fun (p : Nat × Ctx) => s.instOfTile p.1 != i || (s.ctx p.1 p.2).drained

/-- An instance command ends with a status (R495). -/
def State.instEnd (s : State) (st : Nat) : State :=
  match s.insts.cmd with
  | some (op, i) =>
    let s1 := (s.put INST_CMD_STATUS_PENDING 0).put INST_CMD_STATUS_RESULT st
    let s2 := if op != 6 && i < s.nInst then s1.put (INST_STATE_LAST_RESULT i) st else s1
    ({ s2 with insts := { s2.insts with cmd := none, begun := false } }).traceMgmt 2 1 op st
  | none => s

/-- A command on instance `i` that has begun ends with OK. -/
def State.instEndOf (s : State) (i : Nat) : State :=
  if s.insts.begun && s.insts.cmd.any (fun p => p.2 == i) then s.instEnd stOK else s

/-- The instance becomes QUIESCED (R497). -/
def State.quiesced (s : State) (i : Nat) (forced : Bool) : State :=
  let s1 := ((s.put (INST_STATE_STATE i) 3).put (INST_STATE_FORCED i) (if forced then 1 else 0)).raise INST_EVENT_QUIESCED
  (s1.raiseIf forced INST_EVENT_FORCED).instEndOf i

/-- A quiesce is forced (R497): work requests that queue pairs hold complete with FLUSHED, every other started entry with
ABORTED, and the instance's faults end. -/
def State.forceQuiesce (s : State) (i : Nat) : State :=
  let l := s.entriesOf i
  let s1 := (l.filter fun p => p.2.op != 0x41).foldl (fun s p => s.abortEntry i p.1 p.2) s
  let s2 := ((s1.qpsOf i).filter fun p => !p.2.reqs.isEmpty).foldl (fun s p => s.qpFail p.1 0 stFLUSHED) s1
  let s3 := l.foldl (fun s p => s.complete i p.1 p.2.slot stABORTED 0) s2
  ((s3.endAllFaults i).deliverEnded).quiesced i true

/-- RESUME (R498): the marked queue pairs send again, and the stopped USER tiles run. -/
def State.resumeInst (s : State) (i : Nat) : State :=
  let l := (s.qpsOf i).filter fun p => s.insts.marked.contains p.1 && p.2.state == 4
  let s1 := l.foldl (fun s (p : Nat × Qp) => s.setQp p.1 { p.2 with state := 3 }) s
  let s2 := ((s1.block i).filter fun t => s1.get (TILE_STATE_STATE t) == 1 && (s1.tile t).assign.isNone).foldl
    (fun s t => s.put (TILE_STATE_STATE t) 5) s1
  ({ s2 with insts := { s2.insts with marked := s2.insts.marked.filter fun n => s2.qpInst n != i } }).put (INST_STATE_STATE i) 1

/-! ### The steps of a reset (Table 15.3) -/

/-- Step 2: an untaken message to the manager is withdrawn, a taken one marked; REMOVE empties both directions (R506). -/
def State.resetMailbox (s : State) (i : Nat) (remove : Bool) : State :=
  if remove then
    (((({ s with insts := { s.insts with
      lostByReset := s.insts.lostByReset.filter (· != i)
      lateAck := tdel s.insts.lateAck i } }).setReg (MBX_TX_STATUS i) 0).setReg
      (MBXM_RX_STATUS i) 0).setReg (MBXM_TX_STATUS i) 0).setReg (MBX_RX_STATUS i) 0
  else
    match s.get (MBX_TX_STATUS_STATE i) with
    | 1 => (s.setReg (MBX_TX_STATUS i) 4).setReg (MBXM_RX_STATUS i) 0
    | 2 => { s with insts := { s.insts with lostByReset := if s.insts.lostByReset.contains i then s.insts.lostByReset else i :: s.insts.lostByReset } }
    | _ => s

/-- Step 3: entries complete with ABORTED, queues go, queue pairs move to QPS_RESET, groups are destroyed (R373, R429,
R489).  REMOVE also unallocates the queue pairs. -/
def State.resetRings (s : State) (i : Nat) (remove : Bool) : State :=
  let s1 := (s.entriesOf i).foldl (fun s p =>
    if p.2.op = 0x41 then s.complete i p.1 p.2.slot stABORTED 0 else s.abortEntry i p.1 p.2) s
  let s2 := (s1.qpsOf i).foldl (fun s p => s.qpReset p.1 stFLUSHED) s1
  let s3 := ((s2.col.groups.filter fun g => s2.groupInst g.1 == i).map (·.1)).foldl (fun s g => s.groupDestroy g) s2
  let one (s : State) (a : Nat) : State := s.resetRange a (a + 1)
  let s4 := ((one (one (one s3 (RING_ADMIN_CFG i)) (RING_VEC_CFG i)) (RING_HB_CFG i)).put
    (RING_EVENT_STATUS_HELD i) 0).resetRange (RING_QERR i 0) (RING_QERR i 64)
  { s4 with
    rings := { s4.rings with
      queues := s4.rings.queues.filter fun p => p.1 / 4096 != i
      orphans := s4.rings.orphans.filter fun p => p.1 / 4096 != i
      held := tdel s4.rings.held i, heldLost := tdel s4.rings.heldLost i, detachPick := tdel s4.rings.detachPick i
      events := tdel s4.rings.events i, beat := tdel s4.rings.beat i
      copies := s4.rings.copies.filter (·.inst != i) }
    insts := { s4.insts with marked := s4.insts.marked.filter fun n => s4.qpInst n != i }
    qp := { s4.qp with qps := if remove then s4.qp.qps.filter fun p => s4.qpInst p.1 != i else s4.qp.qps } }

/-- Step 5: faults end, the fault ring is disabled, and the ASIDs go, but for those that hold pinned pages (R303, R502). -/
def State.resetXlt (s : State) (i : Nat) : State :=
  let s1 := ((s.endAllFaults i).deliverEnded).put (XLT_FR_CFG_ENABLE i) 0
  let s2 := { s1 with xlt := { s1.xlt with inval := s1.xlt.inval.filter (·.1 != i) } }
  let l := ((List.range s2.asidsPer).map (i * s2.asidsPer + ·)).filter fun a => s2.on (XLT_ROOT_USABLE a)
  let keep := l.filter fun a => s2.warpPinned a 0 (2 ^ 57)
  let s3 := (l.filter fun a => !(keep.contains a)).foldl (fun s a => s.dropAsid i a) s2
  { s3 with insts := { s3.insts with resAsids := mset [] s3.insts.resAsids i keep } }

/-- Both phases of a key context become invalid (CLEAR, Table 16.3). -/
def State.clearCtx (s : State) (c : Nat) : State := { s with sec := { s.sec with ctxs := tdel s.sec.ctxs c } }

/-- Step 6: chunk queues, partition keys, the egress port and the key contexts of the instance (R249, R457, R536). -/
def State.resetShares (s : State) (i : Nat) : State :=
  let n := 65536 / s.nInst
  let mine (q : Nat) : Bool := q / n == i
  let s1 := ((s.csr.filter fun p => SKN_CQ_BASE (i * n) ≤ p.1 && p.1 < SKN_CQ_BASE (i * n + n) && (p.1 - SKN_CQ_BASE 0) % 0x20 == 8).map
    fun p => (p.1 - SKN_CQ_BASE 0) / 0x20).foldl (fun s q => s.disableCq q) s
  let s2 := ((s1.resetRange (SKN_CQ_BASE (i * n)) (SKN_CQ_BASE (i * n + n))).resetRange (LNK_PKEY_INST i 0)
    (LNK_PKEY_INST i 64)).resetRange (MAC_IP_EGRESS i) (MAC_IP_EGRESS i + 1)
  let s3 := { s2 with til := { s2.til with cqLost := s2.til.cqLost.filter fun p => !(mine p.1) } }
  ((s3.sec.ctxs.filter fun p => mine p.1).map (·.1)).foldl (fun s c => s.clearCtx c) s3

/-- Firmware reassigns tile `t` under R50: HOSTQ for the first assignable tile of its block, SPARE for the others. -/
def State.reassign (s : State) (t : Nat) : State :=
  let s1 := s.startAssign t (if t % s.blockTiles = 2 then 2 else 0) 0 0 0 none
  if (s1.tile t).s.drained && (s1.tile t).w.drained then s1.put (TILE_STATE_STATE t) 2 else s1

/-- Step 7: every assignable tile outside the scheduled sets is reassigned; the others are held (R50, R502). -/
def State.resetTiles (s : State) (i : Nat) : State :=
  let l := (s.block i).filter fun t => !s.heldTile t && s.get (TILE_STATE_STATE t) != 7
  let keep := l.filter fun t => s.schedTile t
  let s1 := (l.filter fun t => !s.schedTile t).foldl (fun s t => s.reassign t) s
  let s2 := { s1 with insts := { s1.insts with resTiles := mset [] s1.insts.resTiles i keep } }
  s2.put (INST_STATE_RESIDUE i) (if keep.isEmpty && (mget [] s2.insts.resAsids i).isEmpty then 0 else 1)

/-- The physical ranges that step 8 leaves (R500, R502): pinned pages, and the tables that map them. -/
def State.keptRanges (s : State) (i : Nat) : List (Nat × Nat) :=
  let l := mget [] s.insts.resAsids i
  (l.map fun a => (s.get (XLT_ROOT_ROOT a) * 4096, s.get (XLT_POOL_LEN_4K a) * 4096)) ++
    (s.warp.pins.filter fun p => l.contains p.1).flatMap fun p =>
      (List.range (p.2.2 / 65536 + 2)).filterMap fun k =>
        let h := s.walk i p.1 (p.2.1 / 65536 * 65536 + k * 65536) 4
        if h.kind = .leaf && p.2.1 / 65536 * 65536 + k * 65536 < p.2.1 + p.2.2 then
          some (entryAddr h.e, 2 ^ levelShift h.level) else none

/-- Step 8: both memory ranges become zeros, and their lines clean (R500). -/
def State.zeroFill (s : State) (i : Nat) : State :=
  let kept := s.keptRanges i
  let gone (a : Nat) : Bool := (inside (s.nearRange i) a 1 || inside (s.farRange i) a 1) && !(kept.any fun r => inside r a 1)
  { s with
    mem := s.mem.filter fun c => !(gone c.1)
    poison := s.poison.filter fun p => !(gone (p.1 * 64)) }

/-- The base of the GET_PORT_COUNTERS counts of instance `i` moves to the present totals (R488). -/
def State.rebasePorts (s : State) (i : Nat) : State :=
  let l := s.rings.portTotals.foldl (fun m p => tput m (i * 256 + p.1) p.2) s.rings.portBase
  { s with rings := { s.rings with portBase := l } }

/-! ### Mailboxes (R503 to R508) -/

/-- The status registers of a message direction: of the sender and of the receiver.  `host`: the host sends. -/
def mbxTx (host : Bool) (i : Nat) : Nat := if host then MBX_TX_STATUS i else MBXM_TX_STATUS i
def mbxRx (host : Bool) (i : Nat) : Nat := if host then MBXM_RX_STATUS i else MBX_RX_STATUS i

/-- The data words of a direction, at the sender and at the receiver. -/
def mbxOut (host : Bool) (i k : Nat) : Nat := if host then MBX_TX_DATA i k else MBXM_TX_DATA i k
def mbxIn (host : Bool) (i k : Nat) : Nat := if host then MBXM_RX_DATA i k else MBX_RX_DATA i k

/-- STATE of the sender's status and of the receiver's (Table 15.6). -/
def State.mbxTxState (s : State) (host : Bool) (i : Nat) : Nat := s.reg (mbxTx host i) % 4
def State.mbxRxState (s : State) (host : Bool) (i : Nat) : Nat := s.reg (mbxRx host i) % 4

/-- Which side of the mailbox of instance `i` a requester stands on: the host's (true), the manager's, or neither
(R491, R508). -/
def State.mbxSide (s : State) (r : Requester) (i : Nat) : Option Bool :=
  if s.nInst ≤ i || !s.pow.up then none
  else match r with
    | .host fn 0 => if fn = i then some true else none
    | r => if s.privReq r then some false else none

/-- The interrupt of a side: the host's vector, or a bit of MBX_EVENT. -/
def State.mbxIntr (s : State) (toHost : Bool) (i b : Nat) : State :=
  if toHost then if s.on (MBX_VEC_ENABLE i) then s.irq i (s.get (MBX_VEC_VECTOR i)) else s
  else s.setReg MBX_EVENT (s.reg MBX_EVENT ||| 2 ^ b)

/-- A message of `len` bytes becomes PENDING, stamped with its sender (R503, R504). -/
def State.mbxPost (s : State) (host : Bool) (i len sender : Nat) : State :=
  let s1 := (List.range (ceilDiv len 8)).foldl (fun s k =>
    s.setReg (mbxIn host i k) (s.reg (mbxOut host i k) % 2 ^ (8 * min 8 (len - 8 * k)))) s
  ((s1.setReg (mbxTx host i) 1).setReg (mbxRx host i) (1 + len * 2 ^ 16 + sender * 2 ^ 32)).mbxIntr (!host) i i

/-- The stamp of a sender (R503, R508): which tile stands behind BAR2 the spec does not say. -/
def State.stamp (s : State) (r : Requester) (i : Nat) : State × Nat :=
  match r with
  | .host fn 0 => (s, fn + i * 256)
  | .manager t => (s, t)
  | _ => (s.tick, Config.freeNat s.free % 65536)

/-- Whether a direction can take a new message (R504). -/
def State.mbxFree (s : State) (host : Bool) (i : Nat) : Bool := s.mbxTxState host i == 0 || s.mbxTxState host i == 3

/-- MBX_SEND (R504). -/
def execMbxSend (r : Requester) (i len : Nat) (s : State) : Host.Outcome State Fault Refusal :=
  match s.mbxSide r i with
  | some host =>
    if len = 0 || 256 < len || !s.mbxFree host i then .next s
    else
      let t := s.stamp r i
      .next (t.1.mbxPost host i len t.2)
  | none => .next s

/-- MBX_WITHDRAW (R505). -/
def execMbxWithdraw (r : Requester) (i : Nat) (s : State) : Host.Outcome State Fault Refusal :=
  match s.mbxSide r i with
  | some host =>
    .next (if s.mbxTxState host i = 1 then (s.setReg (mbxTx host i) 4).setReg (mbxRx host i) 0 else s)
  | none => .next s

/-- TYPE of the message that direction `host` holds (R507). -/
def State.mbxType (s : State) (host : Bool) (i : Nat) : Nat := s.reg (mbxIn host i 0) % 65536

/-- The receiver takes a PENDING message (R504). -/
def State.mbxTake (s : State) (host : Bool) (i : Nat) : State :=
  let s1 := (s.setReg (mbxRx host i) (setBits (s.reg (mbxRx host i)) 0 2 2)).setReg (mbxTx host i) 2
  if host then s1.traceMgmt 1 6 (s.mbxType true i % 256) 0 else s1

/-- MBX_TAKE (R504). -/
def execMbxTake (r : Requester) (i : Nat) (s : State) : Host.Outcome State Fault Refusal :=
  match s.mbxSide r i with
  | some host => .next (if s.mbxRxState (!host) i = 1 then s.mbxTake (!host) i else s)
  | none => .next s

/-- The acknowledgement of a message reaches its sender, whose status becomes ACKED (R504, R506). -/
def State.mbxAcked (s : State) (host : Bool) (i code : Nat) : State :=
  let lost := host && s.insts.lostByReset.contains i
  let s1 := (s.setReg (mbxTx host i) (3 + (if lost then 8 else 0) + code % 65536 * 2 ^ 16)).mbxIntr host i (16 + i)
  if host then { s1 with insts := { s1.insts with
    lostByReset := s1.insts.lostByReset.filter (· != i)
    lateAck := tdel s1.insts.lateAck i } }
  else s1

/-- The receiver acknowledges a TAKEN message; that of a message of an instance in reset waits for the end of the reset
(R504, R506). -/
def State.mbxAck (s : State) (host : Bool) (i code : Nat) : State :=
  let s1 := s.setReg (mbxRx host i) 0
  let wait := host && s.insts.lostByReset.contains i && (tfind s.insts.resets i).isSome
  let s2 := if wait then { s1 with insts := { s1.insts with lateAck := tput s1.insts.lateAck i code } } else s1.mbxAcked host i code
  if host then s2.traceMgmt 2 6 (s.mbxType true i % 256) 0 else s2

/-- MBX_ACK (R504). -/
def execMbxAck (r : Requester) (i code : Nat) (s : State) : Host.Outcome State Fault Refusal :=
  match s.mbxSide r i with
  | some host => .next (if s.mbxRxState (!host) i = 2 then s.mbxAck (!host) i code else s)
  | none => .next s

/-- Firmware acts: neither halted nor lost with the manager pair of die 0 (R564, R578). -/
def State.firmware (s : State) : Bool := !s.trc.halted && !s.til.mgrLost.contains 0

/-- The active manager of die 0. -/
def State.manager0 (s : State) : Nat := if s.til.mgrSwap.contains 0 then 1 else 0

/-- The manager sends `bs` to the host of instance `i`. -/
def State.mbxReply (s : State) (i : Nat) (bs : List Byte) : State :=
  let s1 := (List.range (ceilDiv bs.length 8)).foldl (fun s k => s.setReg (MBXM_TX_DATA i k) (leAt bs (8 * k) 8)) s
  s1.mbxPost false i bs.length s1.manager0

/-- The manager answers a message of type `ty` from the host of instance `i`, taking it if it is PENDING. -/
def State.mbxServe (s : State) (i ty : Nat) (f : State → Nat → State) : Host.Outcome State Fault Refusal :=
  let st := s.mbxRxState true i
  if s.nInst ≤ i || !s.firmware || st = 0 || s.mbxType true i != ty then .next s
  else
    let s1 := if st = 1 then s.mbxTake true i else s
    if s.get (MBXM_RX_STATUS_LEN i) < 4 then .next (s1.mbxAck true i 2)
    else .next (f s1 (bits (s.reg (MBXM_RX_DATA i 0)) 16 16))

/-- MBX_HELLO (R507): a reply with the firmware version and the IDENTIFY response bytes 8 to 79; the manager waits until
its own direction is free. -/
def execMbxHello (i : Nat) (s : State) : Host.Outcome State Fault Refusal :=
  if !s.mbxFree false i then .next s
  else s.mbxServe i 1 fun s1 token =>
    (s1.mbxAck true i 0).mbxReply i (leBytes 2 0x8003 ++ leBytes 2 token ++ leBytes 4 (Config.fwVersion s.runImage) ++
      sliceB (s.identity i) 8 72)

/-! ### A reset as a whole (R499 to R502) -/

/-- Step 9: the instance becomes ACTIVE, or ABSENT after REMOVE. -/
def State.resetDone (s : State) (i : Nat) (r : Resetting) : State :=
  let s1 := { s with insts := { s.insts with resets := tdel s.insts.resets i } }
  let s2 := (((s1.put (INST_STATE_STATE i) (if r.remove then 0 else 1)).bump (INST_STATE_RESETS i)).raise
    INST_EVENT_RESET_DONE).rebasePorts i
  let s2 := match tfind s2.insts.lateAck i with
    | some code => s2.mbxAcked true i code
    | none => s2
  let s3 := match r.ask with
    | some token => if s2.mbxFree false i then s2.mbxReply i (leBytes 2 0x8002 ++ leBytes 2 token ++ ([0] : List Byte)) else s2
    | none => s2
  s3.instEndOf i

/-- Steps 1 to 7, and steps 8 and 9 where no zero fill is due (Table 15.3). -/
def State.startReset (s : State) (i : Nat) (r : Resetting) : State :=
  let s1 := ({ s with
    insts := { s.insts with resets := tput s.insts.resets i r }
    qp := { s.qp with regions := s.qp.regions.filter fun p => p.1 / 2 ^ 24 != i } }).put (INST_STATE_STATE i) 4
  let s2 := (s1.resetMailbox i r.remove).resetRings i r.remove
  let s3 := ((((s2.dropModel i).noModel i).resetXlt i).resetShares i).resetTiles i
  if r.zero || r.remove then s3 else s3.resetDone i r

/-- INSTANCE_RESET_DONE (R499, R500): the zero fill of a RESET with ZERO or of a REMOVE ends. -/
def execInstanceResetDone (i : Nat) (s : State) : Host.Outcome State Fault Refusal :=
  match tfind s.insts.resets i with
  | some r => .next ((s.zeroFill i).resetDone i r)
  | none => .next s

/-- FUNCTION_LEVEL_RESET (R501): the quiesce is forced, and the reset runs without a zero fill; it joins a reset under
way.  A function that owns no instance resets its PCIe state only (R491). -/
def execFunctionLevelReset (fn : Nat) (s : State) : Host.Outcome State Fault Refusal :=
  if !s.instExists fn then .next s
  else
    let s1 := s.raise INST_EVENT_FLR
    if (tfind s.insts.resets fn).isSome then .next s1
    else
      let off : State := { s1 with insts := { s1.insts with resets := tput s1.insts.resets fn ⟨false, false, none⟩ } }
      .next ((if s.get (INST_STATE_STATE fn) = 3 then s1 else off.forceQuiesce fn).startReset fn ⟨false, false, none⟩)

/-! ### INST_CMD (R493 to R495) -/

/-- Commands that firmware executes complete with BUSY: manager pair 0 is lost (R564), or start-up has not ended step 6
(R602). -/
def State.noFirmware (s : State) : Bool := s.til.mgrLost.contains 0 || s.get PWR_BOOT_STATUS_STEP < 7

/-- A write of INST_CMD (R495, R509). -/
def State.instCmdWrite (s : State) (r : Requester) (val : Nat) : State :=
  let op := bits val 0 3
  if !s.privReq r || !bit val 63 || s.on INST_CMD_STATUS_PENDING then s
  else if s.noFirmware then s.put INST_CMD_STATUS_RESULT stBUSY
  else
    let s1 := ((s.setReg INST_CMD val).put INST_CMD_STATUS_PENDING 1).traceMgmt 1 1 op 0
    let s2 := { s1 with insts := { s1.insts with cmd := some (op, bits val 4 4), begun := false } }
    if op = 0 || op = 7 then s2.instEnd stMALFORMED else s2

/-- Firmware carries out the pending command `op`, when it has not begun: on an instance of the mode that is in one of
`states` (Table 15.2), else MALFORMED or BUSY. -/
def State.instCmd (s : State) (op : Nat) (states : List Nat) (f : Nat → State) : Host.Outcome State Fault Refusal :=
  match s.insts.cmd with
  | some (o, i) =>
    if o != op || s.insts.begun || !s.firmware then .next s
    else if s.nInst ≤ i then .next (s.instEnd stMALFORMED)
    else if !(states.contains (s.get (INST_STATE_STATE i))) then .next (s.instEnd stBUSY)
    else .next (f i)
  | none => .next s

/-- The pending command has begun. -/
def State.instBegin (s : State) : State := { s with insts := { s.insts with begun := true } }

/-- An instance is set up under R49, R50 and R495: its block is reassigned and every queue is FREE. -/
def State.createInst (s : State) (i : Nat) : State :=
  let s1 := (((s.put (INST_STATE_STATE i) 1).put (INST_STATE_FUNCTION i) i).setReg (RING_ATTACH i) 0)
  let s2 := ({ s1 with rings := { s1.rings with queues := s1.rings.queues.filter fun p => p.1 / 4096 != i } }).resetTiles i
  if s2.rings.bmeOff.contains i then s2.detach i 2 else s2

/-- INST_CREATE (R495, R50, R525). -/
def execInstCreate (s : State) : Host.Outcome State Fault Refusal :=
  s.instCmd 1 [0] fun i =>
    ({ s with sec := { s.sec with createGen := tput s.sec.createGen i (mget 0 s.sec.createGen i + 1) } }.createInst i).instEnd stOK

/-- Whether a QUIESCE of instance `i` would wait for scheduled work (R495). -/
def State.schedBusy (s : State) (i : Nat) : Bool := ((s.block i).any fun t => s.schedTile t) || s.namedBySet i

/-- INST_QUIESCE (R495, R496). -/
def execInstQuiesce (s : State) : Host.Outcome State Fault Refusal :=
  s.instCmd 2 [1] fun i => if s.schedBusy i then s.instEnd stBUSY else (s.quiesce i).instBegin

/-- QUIESCE_COMPLETE (R497): no work remains. -/
def execQuiesceComplete (i : Nat) (s : State) : Host.Outcome State Fault Refusal :=
  if i < s.nInst && s.get (INST_STATE_STATE i) = 2 && s.quiet i then .next (s.quiesced i false) else .next s

/-- QUIESCE_LIMIT_EXPIRY (R497): LIMIT_MS passes; work that has finished by then counts as finished. -/
def execQuiesceLimitExpiry (i : Nat) (s : State) : Host.Outcome State Fault Refusal :=
  if i < s.nInst && s.get (INST_STATE_STATE i) = 2 then
    .next (if s.quiet i then s.quiesced i false else s.forceQuiesce i)
  else .next s

/-- INST_RESUME (R498). -/
def execInstResume (s : State) : Host.Outcome State Fault Refusal :=
  s.instCmd 3 [3] fun i => (s.resumeInst i).instEnd stOK

/-- INST_RESET (R499, R500). -/
def execInstReset (s : State) : Host.Outcome State Fault Refusal :=
  s.instCmd 4 [3] fun i => s.instBegin.startReset i ⟨false, s.on INST_CMD_ZERO, none⟩

/-- INST_REMOVE (R499, R500). -/
def execInstRemove (s : State) : Host.Outcome State Fault Refusal :=
  s.instCmd 5 [3] fun i => s.instBegin.startReset i ⟨true, true, none⟩

/-- INST_SET_MODE (R493). -/
def execInstSetMode (s : State) : Host.Outcome State Fault Refusal :=
  match s.insts.cmd with
  | some (6, _) =>
    let m := s.get INST_CMD_MODE
    if !s.firmware then .next s
    else if m = 3 then .next (s.instEnd stMALFORMED)
    else if ((List.range s.nInst).any fun i => s.get (INST_STATE_STATE i) != 0) || s.on WARP_STATUS_HAS_ACTIVE ||
        s.get WARP_STATUS_SHADOW_STATE != 0 then .next (s.instEnd stBUSY)
    else .next ((s.put INST_CFG_MODE m).instEnd stOK)
  | _ => .next s

/-- MBX_RESET_REQUEST (R507): BUSY where no quiesce could be made now; otherwise the manager decides, which way the spec
leaves to it, and a reset that it grants runs with the quiesce forced. -/
def execMbxResetRequest (i : Nat) (s : State) : Host.Outcome State Fault Refusal :=
  s.mbxServe i 2 fun s1 token =>
    let zero := 4 < s.get (MBXM_RX_STATUS_LEN i) && bit (s.reg (MBXM_RX_DATA i 0)) 32
    let st := s1.get (INST_STATE_STATE i)
    if (st != 1 && st != 3) || s1.schedBusy i || s1.insts.cmd.any (·.2 == i) then s1.mbxAck true i 3
    else if Config.freeNat s1.free % 2 = 1 then s1.tick.mbxAck true i 4
    else
      let s2 := s1.tick.mbxAck true i 0
      (if st = 1 then (s2.quiesce i).forceQuiesce i else s2).startReset i ⟨false, zero, some token⟩

end Sys2Proof.Machine
end

