-- ==== Sys2Proof/Machine/Link.lean ====
section
/-! DEFINITION. Lanes, cages, ports, the attach link layer, fabric forwarding and the Ethernet MAC
(13_links_mac_fabric.md R430 to R457): the operations of rows CAGE_CFG_WRITE to LLDP_RECEIVE. -/
namespace Sys2Proof.Machine
open Sys2Proof

/-! ### Lanes and ports (R432 to R436) -/

/-- The lanes that cage `c`'s configuration uses (R432). -/
def State.cageLanes (s : State) (c : Nat) : List Nat := s.portLanes (2 * c) ++ s.portLanes (2 * c + 1)

/-- Show LNK_CAGE_STATUS.LANES_UP of cage `c`. -/
def State.showLanes (s : State) (c : Nat) : State :=
  s.put (LNK_CAGE_STATUS_LANES_UP c) (((List.range 8).map fun k => if s.laneUp (8 * c + k) then 2 ^ k else 0).sum)

/-- Whether a set in either bank puts group `c` in warp mode (R431). -/
def State.warpUses (s : State) (c : Nat) : Bool := s.warp.sets.any fun w => w.tables.any fun t => bit t.warpGroups c

/-- The CRC-8 of a sideband word (R439). -/
def sideWord (data : List Byte) : List Byte := sliceB data 0 7 ++ ([BitVec.ofNat 8 (crc8 (sliceB data 0 7))] : List Byte)

/-- Send a sideband word on lane `l`. -/
def State.sendSide (s : State) (l : Nat) (data : List Byte) : State :=
  { s with net := { s.net with sideband := tput s.net.sideband l (sideWord data) } }

/-- The allotment of VC `vc` of cage `c` in units (R442). -/
def State.allotment (s : State) (c vc : Nat) : Nat :=
  match vc with
  | 1 => s.get (LNK_CREDIT_CFG_VC1 c)
  | 2 => s.get (LNK_CREDIT_CFG_VC2 c)
  | 3 => 256
  | _ => s.get (LNK_CREDIT_CFG_VC4 c)

/-- The CREDIT word of VC `vc` of port `p` (R439). -/
def State.creditWord (s : State) (p vc : Nat) : List Byte :=
  ([1, BitVec.ofNat 8 vc] : List Byte) ++ beBytes 4 (mget 0 s.net.freed (p * 8 + vc)) ++ ([0] : List Byte)

/-- A port comes up (R436, R442, R456): an attach port starts its credit counts and advertises its allotments. -/
def State.portRise (s : State) (p phy : Nat) (lpi : Bool) : State :=
  let s1 := (s.put (portUpFld p) 1).raise LNK_EVENT_PORT_UP
  if s.portAttach p then
    let c := p / 2
    let s2 := [1, 2, 3, 4].foldl (fun (s : State) vc => { s with net := { s.net with
      credit := tput s.net.credit (p * 8 + vc) 0
      units := tput s.net.units (p * 8 + vc) 0
      freed := tput s.net.freed (p * 8 + vc) (s.allotment c vc) } }) s1
    (((s2.portLanes p).filter s2.laneUp).zip [1, 2, 3, 4]).foldl (fun s q => s.sendSide q.1 (s.creditWord p q.2)) s2
  else
    (((s1.put (MAC_STATUS_LINK_UP p) 1).put (MAC_STATUS_PHY_TYPE p) phy).put (MAC_STATUS_LPI_CAPABLE p)
      (if lpi then 1 else 0)).raise MAC_EVENT_LINK_CHANGE

/-- A port goes down (R426, R436, Table 13.10): its queued frames are abandoned, and pinch operations that use it fail. -/
def State.portFall (s : State) (p : Nat) : State :=
  let l := s.fifo p
  let s1 := (s.put (portUpFld p) 0).raise LNK_EVENT_PORT_DOWN
  let s2 := (l.filterMap (·.srb)).foldl (fun s id => s.srbFree id) (s1.setFifo p [])
  let s3 := if s.portAttach p then s2
    else (((((((s2.stat p 15 (l.length + (mget [] s.col.out p).length)).put (MAC_STATUS_LINK_UP p) 0).put (MAC_STATUS_PHY_TYPE p) 0).put
      (MAC_STATUS_LPI_TX p) 0).put (MAC_STATUS_LPI_RX p) 0).put (MAC_STATUS_PAUSED p) 0).put (MAC_STATUS_XOFF_OUT p) 0).raise
      MAC_EVENT_LINK_CHANGE
  ({ s3 with col := { s3.col with out := mset [] s3.col.out p [] } } : State).pinchPortDown p

/-- Whether the lanes of port `p` let it be up (R436). -/
def State.lanesCarry (s : State) (p : Nat) : Bool :=
  let l := s.portLanes p
  if s.portAttach p then 4 ≤ (l.filter s.laneUp).length else l != [] && l.all s.laneUp

/-- Port `p` goes down where its lanes no longer carry it, and comes up where they do and `ok` holds: its PCS is aligned
and it receives no remote fault, or its sideband words pass (R436). -/
def State.judgePort (s : State) (p : Nat) (ok : Bool) (phy : Nat) (lpi : Bool) : State :=
  if s.on (portUpFld p) then (if s.lanesCarry p then s else s.portFall p)
  else if s.portExists p && s.lanesCarry p && ok then s.portRise p phy lpi else s

/-- A detection point of lane `l`: the earlier of this one and one already held (R89). -/
def State.addLoss (s : State) (l pick slot : Nat) : State :=
  let at_ (x : Nat × Nat × Nat) : Nat := x.2.1 * 65536 + x.2.2
  let old := s.warp.lossAt.find? (·.1 == l)
  let new := (l, pick, slot)
  let keep := match old with
    | some o => if at_ o ≤ at_ new then o else new
    | none => new
  { s with warp := { s.warp with lossAt := (s.warp.lossAt.filter (·.1 != l)) ++ [keep] } }

/-- The handling of R89 for lane `l` of a warp-mode group: the detection point, the loss notice on every lane of the group
that is up, and a second fault where another lane is down that no alternate in force covers (R90, Table 18.3). -/
def State.laneLoss (s : State) (l : Nat) : State :=
  let g := l / 8
  match s.activeTable with
  | none => s
  | some t =>
    if !bit t.warpGroups g then s
    else
      let slot := s.cyc / 125
      let s0 : State := { s with warp := { s.warp with spent := if s.warp.spent.contains l then s.warp.spent else s.warp.spent ++ [l] } }
      let s1 := s0.addLoss l s.pick slot
      let word := ([2, BitVec.ofNat 8 (l % 8)] : List Byte) ++ beBytes 3 (s.pick % 2 ^ 24) ++ beBytes 2 slot
      let s2 := ((List.range 8).map (8 * g + ·)).foldl (fun s k => if s.laneUp k then s.sendSide k word else s) s1
      if (List.range 8).any fun k => 8 * g + k != l && !s.laneUp (8 * g + k) && !bit t.cover (8 * g + k) then s2.secondFault
      else s2

/-- A lane that is UP or CAL is declared DOWN with a cause of Table 13.2 (R434, R557). -/
def State.dropLane (s : State) (l cause : Nat) : State :=
  if !s.laneUp l then s
  else
    let c := l / 8
    let s1 := (((s.put (LNK_LANE_STATE l) 3).put (LNK_LANE_CAUSE l) cause).raise LNK_EVENT_LANE_DOWN).showLanes c
    let s2 : State := { s1 with rel := { s1.rel with cal := tdel s1.rel.cal l } }
    ((s2.laneLoss l).judgePort (2 * c) false 0 false).judgePort (2 * c + 1) false 0 false

/-- Whether the module of cage `c` is admitted and reports ready (R617, R618). -/
def State.moduleReady (s : State) (c : Nat) : Bool :=
  match tfind s.pow.modules c with
  | some m => m.admitted && m.ready
  | none => false

/-- The lanes of cage `c` whose port is enabled begin to train (Table 13.3, R617). -/
def State.trainCage (s : State) (c : Nat) : State :=
  if s.moduleReady c then
    (s.cageLanes c).foldl (fun s l => if s.get (LNK_LANE_STATE l) = 0 then s.put (LNK_LANE_STATE l) 1 else s) s
  else s

/-- Cage `c` is disabled: its lanes go DOWN with cause COMMAND and are then DISABLED (Tables 13.2 and 13.3). -/
def State.idleCage (s : State) (c : Nat) : State :=
  (s.cageLanes c).foldl (fun s l =>
    let up := s.laneUp l
    let s1 := s.dropLane l 5
    if s1.get (LNK_LANE_STATE l) = 5 then s1
    else (s1.put (LNK_LANE_STATE l) 0).put (LNK_LANE_CAUSE l) (if up then 5 else s1.get (LNK_LANE_CAUSE l))) s

/-- A write of LNK_CAGE_CFG[c] (R431, R432). -/
def State.cageWrite (s : State) (c val : Nat) : State :=
  let en := bit val 0
  let role := bits val 1 1
  let split := bits val 2 3
  let was := s.on (LNK_CAGE_CFG_ENABLE c)
  let oldRole := s.get (LNK_CAGE_CFG_ROLE c)
  let moved := role != oldRole || split != s.get (LNK_CAGE_CFG_SPLIT c)
  if s.warpUses c && ((was && !en) || role != oldRole) then s.raise LNK_EVENT_CFG_REFUSED
  else if 5 ≤ split || (was && moved) then s
  else
    let s1 := if was && !en then s.idleCage c else s
    let s2 := ((s1.put (LNK_CAGE_CFG_ENABLE c) (if en then 1 else 0)).put (LNK_CAGE_CFG_ROLE c) role).put (LNK_CAGE_CFG_SPLIT c) split
    if en && !was then s2.trainCage c else s2

/-- CAGE_CFG_WRITE (R431). -/
def execCageCfgWrite (r : Requester) (c val : Nat) (s : State) : Host.Outcome State Fault Refusal :=
  .next (if c < 12 && s.privReq r then s.cageWrite c val else s)

/-- LANE_DOWN (R434): causes 1 to 4 of Table 13.2, 4 in the attach role only. -/
def execLaneDown (l cause : Nat) (s : State) : Host.Outcome State Fault Refusal :=
  .next (if l < 96 && 1 ≤ cause && cause ≤ 4 && (cause != 4 || s.attachOn (l / 8)) then s.dropLane l cause else s)

/-- LANE_TRAINING_COMPLETE (R435, R436). -/
def execLaneTrainingComplete (l : Nat) (linkOk : Bool) (phy : Nat) (lpi : Bool) (s : State) :
    Host.Outcome State Fault Refusal :=
  let c := l / 8
  if l < 96 && s.get (LNK_LANE_STATE l) = 1 then
    let s1 := (((s.put (LNK_LANE_STATE l) 2).put (LNK_LANE_CAUSE l) 0).raise LNK_EVENT_LANE_UP).showLanes c
    let s2 : State := { s1 with warp := { s1.warp with noticed := s1.warp.noticed.filter (· != l) } }
    let p := if (s2.portLanes (2 * c)).contains l then 2 * c else 2 * c + 1
    .next (s2.judgePort p linkOk phy lpi)
  else .next s

/-- LANE_TRAINING_TIMEOUT (Table 13.3). -/
def execLaneTrainingTimeout (l : Nat) (s : State) : Host.Outcome State Fault Refusal :=
  .next (if l < 96 && s.get (LNK_LANE_STATE l) = 1 then s.put (LNK_LANE_STATE l) 3 else s)

/-! ### Spare-lane shift (R437) -/

/-- The die and the macro position of lane `l`. -/
def laneHome (l : Nat) : Nat × Nat := (l / 24, l % 24)

/-- The spare of die `d` that can be used: 0 or 1. -/
def State.laneSpare (s : State) (d : Nat) : Option Nat :=
  if s.get (LNK_SHIFT_MAP_SPARE0_POS d) = 0x1F && !s.on (LNK_SHIFT_MAP_SPARE0_BAD d) then some 0
  else if s.get (LNK_SHIFT_MAP_SPARE1_POS d) = 0x1F && !s.on (LNK_SHIFT_MAP_SPARE1_BAD d) then some 1
  else none

/-- Spare `j` of its die takes the place of lane `l`. -/
def State.takeSpare (s : State) (l j : Nat) : State :=
  let h := laneHome l
  let s1 := if j = 0 then s.put (LNK_SHIFT_MAP_SPARE0_POS h.1) h.2 else s.put (LNK_SHIFT_MAP_SPARE1_POS h.1) h.2
  (s1.put (LNK_LANE_MACRO l) (24 + j)).put (LNK_LANE_SPARED l) 1

/-- LANE_SHIFT_CMD (R437): a write of LNK_SHIFT_CMD with GO. -/
def execLaneShiftCmd (r : Requester) (val : Nat) (s : State) : Host.Outcome State Fault Refusal :=
  let l := bits val 0 7
  if !s.privReq r || !bit val 31 || s.on LNK_SHIFT_STATUS_PENDING then .next s
  else if l < 96 && s.on (LNK_LANE_SPARED l) then .next (s.put LNK_SHIFT_STATUS_RESULT stOK)
  else if 96 ≤ l || (s.laneSpare (laneHome l).1).isNone then
    .next ((s.put LNK_SHIFT_STATUS_RESULT stBUSY).raise LNK_EVENT_SPARE_EXHAUSTED)
  else
    .next ((((s.dropLane l 5).put (LNK_LANE_STATE l) 5).put (LNK_LANE_CAUSE l) 5).put LNK_SHIFT_STATUS_PENDING 1)

/-- SHIFT_SPARE_READY (R437): the spare serves the lane, which trains where its cage is enabled. -/
def execShiftSpareReady (l : Nat) (s : State) : Host.Outcome State Fault Refusal :=
  if 96 ≤ l || s.get (LNK_LANE_STATE l) != 5 then .next s
  else
    match s.laneSpare (laneHome l).1 with
    | none => .next s
    | some j =>
      let train := (s.cageLanes (l / 8)).contains l && s.moduleReady (l / 8)
      .next (((((s.takeSpare l j).put (LNK_LANE_STATE l) (if train then 1 else 0)).put LNK_SHIFT_STATUS_PENDING 0).put
        LNK_SHIFT_STATUS_RESULT stOK).raise LNK_EVENT_SHIFT_DONE)

/-! ### Sideband words (R439, R442, R89) -/

/-- Whether a sideband word is good: 8 bytes with the right CRC. -/
def sideOk (w : List Byte) : Bool := w.length == 8 && byteAt w 7 == crc8 (w.take 7)

/-- CREDIT_WORD_RECEIVE (R439, R442): the latest count of a VC of the port. -/
def execCreditWordReceive (l : Nat) (w : List Byte) (s : State) : Host.Outcome State Fault Refusal :=
  let p := 2 * (l / 8)
  if l < 96 && s.laneUp l && s.portAttach p && sideOk w && byteAt w 0 == 1 && 1 ≤ byteAt w 1 && byteAt w 1 ≤ 4 then
    .next { s with net := { s.net with credit := tput s.net.credit (p * 8 + byteAt w 1) (beAt w 2 4) } }
  else .next s

/-- The pick whose low 24 bits are `n` and that lies nearest the current one. -/
def State.nearPick (s : State) (n : Nat) : Nat :=
  let d := (n + 2 ^ 24 - s.pick % 2 ^ 24) % 2 ^ 24
  if d < 2 ^ 23 then s.pick + d else s.pick - (2 ^ 24 - d)

/-- LOSS_WORD_RECEIVE (R89, R439): the far end's detection point of a lane. -/
def execLossWordReceive (l : Nat) (w : List Byte) (s : State) : Host.Outcome State Fault Refusal :=
  let lost := 8 * (l / 8) + byteAt w 1
  match s.activeTable with
  | some t =>
    if l < 96 && s.laneUp l && bit t.warpGroups (l / 8) && sideOk w && byteAt w 0 == 2 && byteAt w 1 ≤ 7 then
      let s1 := s.addLoss lost (s.nearPick (beAt w 2 3)) (beAt w 5 2)
      .next { s1 with warp := { s1.warp with
        noticed := if s1.warp.noticed.contains lost then s1.warp.noticed else s1.warp.noticed ++ [lost] } }
    else .next s
  | none => .next s

/-! ### Fabric frames (R441, R444, R447 to R449) -/

/-- Whether a fabric header is right (R441). -/
def fabricOk (h : List Byte) : Bool :=
  h.length == 16 && byteAt h 0 == 1 && 1 ≤ byteAt h 1 % 8 && byteAt h 1 % 8 ≤ 4 && byteAt h 1 < 32 &&
    1 ≤ beAt h 2 2 && beAt h 2 2 ≤ 4352 && byteAt h 11 < 16 && beAt h 12 2 == 0 && beAt h 14 2 == crc16 (h.take 14)

/-- Deliver management data to the MANAGER pair of die `d`. -/
def State.toManager (s : State) (d : Nat) (data : List Byte) : State :=
  { s with net := { s.net with mgmt := tput s.net.mgmt d (mget [] s.net.mgmt d ++ [data]) } }

/-- A VC3 frame enters one of the 64 buffers of port `p`, or is discarded (R424). -/
def State.vc3In (s : State) (p : Nat) (f : List Byte) : State :=
  let l := mget [] s.net.vc3 p
  if 64 ≤ l.length then s.bump COL_PINCH_DISCARDS_VAL
  else ({ s with net := { s.net with vc3 := tput s.net.vc3 p (l ++ [f]) } } : State).tracePinch 4 p f

/-- A packet waits to be placed on die `c` div 3 of its cage (R395, R396); check 1 of Table 10.7 is made on it. -/
def State.toTransport (s : State) (c p vc len path : Nat) (ce ect : Bool) (data : List Byte) : State :=
  let st := s.srbStore c (32 + c / 3) vc len ce ect path data
  match st.2 with
  | none => st.1
  | some id =>
    match parsePkt data with
    | some t => st.1.tracePkt 4 p path t
    | none => (st.1.bump QP_RX_BAD_VAL).srbFree id

/-- A VC4 frame is admitted, and firmware of the MANAGER pairs in `dies` takes it. -/
def State.manage (s : State) (c len : Nat) (dies : List Nat) (data : List Byte) : State :=
  dies.foldl (fun s d =>
    let st := s.srbStore c (32 + d) 4 len false false 0 data
    match st.2 with
    | some id => (st.1.srbFree id).toManager d data
    | none => st.1) s

/-- A frame without a usable route (R447, R449). -/
def State.noRoute (s : State) : State := (s.bump LNK_NOROUTE_VAL).raise LNK_EVENT_NOROUTE

/-- The port that route entry `e` gives a frame with path `path` (R447). -/
def State.route (s : State) (e path : Nat) : Option Nat :=
  let n := min 8 (s.get (LNK_ROUTE_COUNT e))
  ((List.range n).map fun k => bits (s.reg (LNK_ROUTE e)) (5 * ((path + k) % n)) 5).find? s.portUp

/-- A fabric frame that port `p` has accepted (R444, R447, R449). -/
def State.fabricIn (s : State) (p : Nat) (h payload : List Byte) : State :=
  let c := p / 2
  let fl := byteAt h 1
  let vc := fl % 8
  let dst := beAt h 4 2
  let key := beAt h 8 2
  let path := byteAt h 11 % 16
  let len := 16 + payload.length
  let mcast := 0xF000 ≤ dst
  if !s.portAdmits p key (vc == 4) then s.pkeyDrop p
  else if vc = 3 then (if mcast then s.noRoute else s.vc3In p payload)
  else
    let pol := s.police c vc (bit fl 3) (bit fl 4)
    match pol.2 with
    | none => pol.1
    | some ce =>
      let s1 := pol.1
      let fl1 := if ce then fl ||| 16 else fl
      if mcast then
        if vc != 4 || !s.on (LNK_MCAST_VALID (dst - 0xF000)) then s1.noRoute
        else
          let mask := s.get (LNK_MCAST_MASK (dst - 0xF000))
          if byteAt h 10 = 0 then (s1.bump LNK_TTL_DROP_VAL).raise LNK_EVENT_TTL_DROP
          else
            let s2 := ((List.range 24).filter fun q => bit mask q && q != p && s.portUp q).foldl (fun s q =>
              let st := s.srbStore c q 4 len ce (bit fl 3) path []
              match st.2 with
              | some id => st.1.enqueueFabric q 4 path (reheader h fl1 (byteAt h 10 - 1)) payload (some id)
              | none => st.1) s1
            s2.manage c len ([0, 1, 2, 3].filter fun d => bit mask (24 + d)) payload
      else if dst = s.get LNK_SELF_ID then
        if vc = 4 then s1.manage c len [c / 3] payload else s1.toTransport c p vc len path ce (bit fl 3) payload
      else if byteAt h 10 = 0 then (s1.bump LNK_TTL_DROP_VAL).raise LNK_EVENT_TTL_DROP
      else
        match s.route dst path with
        | none => s1.noRoute
        | some q =>
          let st := s1.srbStore c q vc len ce (bit fl 3) path []
          match st.2 with
          | some id => st.1.enqueueFabric q vc path (reheader h fl1 (byteAt h 10 - 1)) payload (some id)
          | none => st.1

/-- FABRIC_FRAME_RECEIVE (R440, R441, R444, R447, R449): a frame of an attach port. -/
def execFabricFrameReceive (l : Nat) (b : List Byte) (s : State) : Host.Outcome State Fault Refusal :=
  let p := 2 * (l / 8)
  let n := beAt b 2 2
  if 96 ≤ l || !s.laneUp l || !s.portUp p || !s.portAttach p then .next s
  else if !fabricOk (b.take 16) || b.length != 20 + n || beAt b (16 + n) 4 != crc32c (b.take (16 + n)) then
    .next (s.bump (LNK_FEC_UNCORR_VAL l))
  else .next ((s.countRx p b.length false).fabricIn p (b.take 16) (sliceB b 16 n))

/-! ### Ethernet frames (R450, Table 13.7) -/

/-- A group address that IEEE 802.1 and 802.3 reserve. -/
def reservedGroup (a : Nat) : Bool := 0x0180C2000000 ≤ a && a ≤ 0x0180C20000FF

/-- Whether a port accepts a frame's destination: its address, a reserved group address, or, for address resolution, the
broadcast address and the solicited-node groups. -/
def State.dstOk (s : State) (p : Nat) (f : Frame) : Bool :=
  f.dst == s.get (MAC_ADDR_VAL p) || reservedGroup f.dst || (f.etype == 0x0806 && f.dst == 0xFFFFFFFFFFFF) ||
    (f.etype == 0x86DD && f.dst / 2 ^ 24 == 0x3333FF) || f.dst == 0x011B19000000

/-- Whether a port accepts a frame's tag. -/
def State.tagOk (s : State) (p : Nat) (f : Frame) : Bool :=
  match f.tag with
  | none => true
  | some (_, vid) => vid == 0 || (s.on (MAC_PORT_CFG_VLAN_EN p) && vid == s.get (MAC_PORT_CFG_VID p))

/-- Whether an address is in MAC_IPADDR. -/
def State.ourIp (s : State) (a : Nat) : Bool :=
  a != 0 && (List.range 16).any fun k => s.get (MAC_IPADDR_VAL k 0) + s.get (MAC_IPADDR_VAL k 1) * 2 ^ 64 == a

/-- An answer to an address-resolution request, sent to its sender (R450). -/
def State.answer (s : State) (p : Nat) (f : Frame) (ip : Option Ip) (n : Nat) (data : List Byte) : State :=
  let t := s.vlanTag p 4
  let len := max 64 (18 + (if t.isSome then 4 else 0) + n)
  let g : Frame := ⟨f.src, s.get (MAC_ADDR_VAL p), t, f.etype, len, true, ip, data⟩
  ((s.setSent p (.ethernet g)).countTx p len false).lpiExit p

/-- An IPv4 address in mapped form. -/
def mapped (a : Nat) : Nat := 0xFFFF * 2 ^ 32 + a

/-- An ARP frame: a request for one of the adapter's addresses is answered (R450; the layout is that of RFC 826). -/
def State.arp (s : State) (p : Nat) (f : Frame) : State :=
  if beAt f.data 6 2 = 1 && s.ourIp (mapped (beAt f.data 24 4)) then
    s.answer p f none 28 (sliceB f.data 0 6 ++ beBytes 2 2 ++ beBytes 6 (s.get (MAC_ADDR_VAL p)) ++ sliceB f.data 24 4 ++
      sliceB f.data 8 10)
  else s

/-- A neighbour solicitation for one of the adapter's addresses is answered (R450; the layout is that of RFC 4861); other
ICMP goes to MANAGER firmware. -/
def State.icmp (s : State) (p : Nat) (f : Frame) (ip : Ip) : State :=
  if ip.v6 && byteAt f.data 0 = 135 && s.ourIp (beAt f.data 8 16) then
    s.answer p f (some { ip with src := beAt f.data 8 16, dst := ip.src }) 72
      (([136, 0] : List Byte) ++ beBytes 2 0 ++ beBytes 4 0x60000000 ++ sliceB f.data 8 16 ++ ([2, 1] : List Byte) ++
        beBytes 6 (s.get (MAC_ADDR_VAL p)))
  else s.manage (p / 2) f.len [p / 6] f.data

/-- A PTP message (R109): an event message is timestamped. -/
def State.ptp (s : State) (p : Nat) (event : Bool) (f : Frame) : State :=
  let s1 := s.manage (p / 2) f.len [p / 6] f.data
  if event then { s1 with dom := { s1.dom with ptpAt := s.ns * 16 } } else s1

/-- A transport datagram: check 1 of Table 10.7, the partition key of its base header, admission (R350, R351, R444). -/
def State.udpTransport (s : State) (p : Nat) (f : Frame) (ip : Ip) : State :=
  let c := p / 2
  let ect := ip.ecn == 1 || ip.ecn == 2
  let pol := s.police c 2 ect (ip.ecn == 3)
  match pol.2 with
  | none => pol.1
  | some ce =>
    if ip.frag || !ip.sum then pol.1.bump QP_RX_BAD_VAL
    else if !s.ourIp ip.dst then pol.1.stat p 9
    else
      let key := beAt f.data 2 2
      match parsePkt f.data with
      | none => pol.1.bump QP_RX_BAD_VAL
      | some _ =>
        if !s.portAdmits p key false then pol.1.pkeyDrop p
        else pol.1.toTransport c p 2 f.len (ip.sport % s.paths) ce ect f.data

/-- Whether the IP version of a datagram is enabled for transport. -/
def State.ipOn (s : State) (ip : Ip) : Bool := s.on (if ip.v6 then QP_UDP_CFG_IPV6_EN else QP_UDP_CFG_IPV4_EN)

/-- PAUSE and PFC (R452): the priorities that they stop, or, with time 0, let go. -/
def State.pauseIn (s : State) (p : Nat) (f : Frame) : State :=
  let op := beAt f.data 0 2
  let old := s.get (MAC_STATUS_PAUSED p)
  if op = 1 then
    let t := beAt f.data 2 2
    ((s.stat p 11).put (MAC_STATUS_PAUSED p) (if t = 0 then 0 else 0xFF)).raiseIf (t != 0) MAC_EVENT_PAUSED_RX
  else if op = 0x0101 then
    let en := beAt f.data 2 2
    let new := ((List.range 8).map fun k =>
      let v := if bit en k then beAt f.data (4 + 2 * k) 2 != 0 else bit old k
      if v then 2 ^ k else 0).sum
    let stop := (List.range 8).any fun k => bit en k && beAt f.data (4 + 2 * k) 2 != 0
    ((s.stat p 11).put (MAC_STATUS_PAUSED p) new).raiseIf stop MAC_EVENT_PAUSED_RX
  else s.stat p 9

/-- The receive wake time of the EEE TLV of an LLDPDU, us (R454; type 127, OUI 00-12-0F, subtype 5 of IEEE 802.3 Clause
79: the transmit, then the receive time). -/
def eeeTime (f : Nat) (d : List Byte) : Option Nat :=
  match f with
  | 0 => none
  | g + 1 =>
    let h := beAt d 0 2
    let n := h % 512
    if d.length < 2 || h / 512 = 0 then none
    else if h / 512 = 127 && 8 ≤ n && beAt d 2 3 = 0x00120F && byteAt d 5 = 5 then some (beAt d 8 2)
    else eeeTime g (d.drop (2 + n))

/-- A received LLDPDU (R454): the agreed wake time is the larger of the two requests. -/
def State.lldpIn (s : State) (p : Nat) (f : Frame) : State :=
  match eeeTime (f.data.length + 1) f.data with
  | none => s
  | some t =>
    let tw := max (s.get (MAC_LPI_CFG_TW_REQ_US p)) t
    (s.put (MAC_LPI_CFG_TW_AGREED_US p) tw).raiseIf (tw != s.get (MAC_LPI_CFG_TW_AGREED_US p)) MAC_EVENT_LLDP_CHANGE

/-- Whether a network port accepts a frame: its length, FCS, destination and tag, with the counters of Table 13.10. -/
def State.accept (s : State) (p : Nat) (f : Frame) : State × Bool :=
  if f.len < 64 || s.get (MAC_PORT_CFG_MAX_FRAME p) < f.len then (s.stat p 8, false)
  else if !f.fcs then ((s.stat p 6).total p 4 1, false)
  else if !s.tagOk p f then ((s.stat p 7).stat p 9, false)
  else if !s.dstOk p f then (s.stat p 9, false)
  else
    let s1 := s.countRx p f.len (bit (f.dst / 2 ^ 40) 0)
    let ce := match f.ip with
      | some ip => ip.ecn == 3
      | none => f.etype == s.get MAC_ETYPE_ETYPE && bit (byteAt f.data 1) 4
    (if ce then s1.stat p 14 else s1, true)

/-- An accepted frame goes where its EtherType says (Table 13.7). -/
def State.dispatch (s : State) (p : Nat) (f : Frame) : State :=
  if f.etype = 0x8808 then s.pauseIn p f
  else if f.etype = 0x88CC then s.lldpIn p f
  else if f.etype = 0x88F7 then s.ptp p (byteAt f.data 0 % 16 < 4) f
  else if f.etype = 0x0806 then s.arp p f
  else if f.etype = 0x0800 || f.etype = 0x86DD then
    match f.ip with
    | none => s.stat p 9
    | some ip =>
      if ip.proto = 17 && (ip.dport = 319 || ip.dport = 320) then s.ptp p (ip.dport == 319) f
      else if ip.proto = 17 && ip.dport = s.get QP_UDP_CFG_DST_PORT && s.ipOn ip then s.udpTransport p f ip
      else if ip.proto = 1 || ip.proto = 58 then s.icmp p f ip
      else s.stat p 9
  else if f.etype = s.get COL_PINCH_CFG_ETHERTYPE then
    if s.portAdmits p (beAt f.data 2 2) false then s.vc3In p (sliceB f.data 0 32) else s.pkeyDrop p
  else if f.etype = s.get MAC_ETYPE_ETYPE then
    let n := beAt f.data 2 2
    if fabricOk (f.data.take 16) && 16 + n ≤ f.data.length then s.fabricIn p (f.data.take 16) (sliceB f.data 16 n)
    else s.bump (LNK_FEC_UNCORR_VAL ((s.portLanes p).headD 0))
  else s.stat p 9

/-- A frame arrives at a network port that is up. -/
def State.etherIn (s : State) (p : Nat) (f : Frame) : State :=
  if !s.portUp p || s.portAttach p then s
  else
    let a := s.accept p f
    if a.2 then a.1.dispatch p f else a.1

/-- ETHERNET_FRAME_RECEIVE (R450). -/
def execEthernetFrameReceive (p : Nat) (f : Frame) (s : State) : Host.Outcome State Fault Refusal := .next (s.etherIn p f)

/-! ### PAUSE, PFC, low-power idle and LLDP (R451 to R455) -/

/-- XOFF_REFRESH (R451): half the pause time has elapsed. -/
def execXoffRefresh (p : Nat) (s : State) : Host.Outcome State Fault Refusal :=
  .next (if s.fcMode p != 0 && s.on (MAC_STATUS_XOFF_OUT p) && s.lowMark p < s.cageUse (p / 2) then
    s.sendXoff p (s.fcMode p) (s.get (MAC_FC_CFG_PFC_MASK p)) (s.get (MAC_FC_CFG_QUANTA p))
  else s)

/-- PAUSE_FRAME_RECEIVE (R452). -/
def execPauseFrameReceive (p : Nat) (f : Frame) (s : State) : Host.Outcome State Fault Refusal :=
  .next (if f.etype = 0x8808 then s.etherIn p f else s)

/-- PAUSE_EXPIRY (R452). -/
def execPauseExpiry (p prios : Nat) (s : State) : Host.Outcome State Fault Refusal :=
  .next (if p < 24 then s.put (MAC_STATUS_PAUSED p) (clearMask (s.get (MAC_STATUS_PAUSED p)) (prios % 256)) else s)

/-- LPI_ENTRY (R454): LPI_EN on a PHY that defines it, nothing to send, no XOFF outstanding, a wake time agreed. -/
def execLpiEntry (p : Nat) (s : State) : Host.Outcome State Fault Refusal :=
  if s.portUp p && !s.portAttach p && s.on (MAC_PORT_CFG_LPI_EN p) && s.on (MAC_STATUS_LPI_CAPABLE p) &&
      !s.on (MAC_STATUS_LPI_TX p) && s.fifo p == [] && mget [] s.col.out p == [] && !s.on (MAC_STATUS_XOFF_OUT p) &&
      s.get (MAC_LPI_CFG_TW_AGREED_US p) != 0 then
    let s1 := (s.put (MAC_STATUS_LPI_TX p) 1).stat p 12
    .next { s1 with net := { s1.net with lpiAt := tput s1.net.lpiAt p s1.time } }
  else .next s

/-- A TLV of LLDP: its type, its length and its value. -/
def tlv (t : Nat) (v : List Byte) : List Byte := beBytes 2 (t * 512 + v.length) ++ v

/-- LLDP_SEND (R455): chassis ID, port ID, TTL, which the spec leaves open, and the EEE TLV with the wake time requested. -/
def execLldpSend (p : Nat) (s : State) : Host.Outcome State Fault Refusal :=
  if s.portUp p && !s.portAttach p && !s.til.mgrLost.contains (p / 6) && !s.trc.halted then
    let tw := s.get (MAC_LPI_CFG_TW_REQ_US p)
    let data := tlv 1 (([4] : List Byte) ++ beBytes 6 (s.get (MAC_ADDR_VAL 0))) ++
      tlv 2 (([3] : List Byte) ++ beBytes 6 (s.get (MAC_ADDR_VAL p))) ++ tlv 3 (beBytes 2 (Config.freeNat s.free % 65536)) ++
      tlv 127 (beBytes 3 0x00120F ++ ([5] : List Byte) ++ beBytes 2 tw ++ beBytes 2 tw ++ beBytes 2 tw ++ beBytes 2 tw ++
        beBytes 2 tw) ++ beBytes 2 0
    let f : Frame := ⟨0x0180C200000E, s.get (MAC_ADDR_VAL p), none, 0x88CC, max 64 (18 + data.length), true, none, data⟩
    let s1 := ((s.tick.setSent p (.ethernet f)).countTx p f.len true).lpiExit p
    .next { s1 with net := { s1.net with lldp := tput s1.net.lldp p tw } }
  else .next s

/-- LLDP_RECEIVE (R454). -/
def execLldpReceive (p : Nat) (f : Frame) (s : State) : Host.Outcome State Fault Refusal :=
  .next (if f.etype = 0x88CC then s.etherIn p f else s)

/-- A write of MAC_PORT_CFG: a change of FC_MODE that ends flow control first sends pause time 0 (R451). -/
def State.portCfgWrite (s : State) (p val : Nat) : State :=
  let s1 := if s.fcMode p != 0 && bits val 14 2 != s.fcMode p && s.on (MAC_STATUS_XOFF_OUT p) then
      (s.sendXoff p (s.fcMode p) (s.get (MAC_FC_CFG_PFC_MASK p)) 0).put (MAC_STATUS_XOFF_OUT p) 0
    else s
  (s1.setReg (MAC_PORT_CFG p) val).flowControl p

/-- Every LANE in DOWN of an enabled cage with a ready module trains again (R435). -/
def State.retrain (s : State) : State :=
  if s.on LNK_DOWN_CFG_AUTO_RETRAIN then
    (List.range 96).foldl (fun s l =>
      if s.get (LNK_LANE_STATE l) = 3 && s.moduleReady (l / 8) && s.on (LNK_CAGE_CFG_ENABLE (l / 8)) then s.put (LNK_LANE_STATE l) 1
      else s) s
  else s

end Sys2Proof.Machine
end

