-- ==== Sys2Proof/Machine/Memory.lean ====
section
/-! DEFINITION. The near and far memory tiers (07_memory_tiers.md): line reads and writes, the imbalance
monitor and re-salting, sparing and repair, scrubbing, and the manual memory commands. -/
namespace Sys2Proof.Machine
open Sys2Proof

/-! ### The sampler and the line operations (R255, R261 to R265) -/

/-- The sampler's channel key: near 0 to 255, far 256 to 303, as MEM_OCC numbers them. -/
def chanKey (pa ch : Nat) : Nat := if isFar pa then 256 + ch else ch

/-- A channel accepts one request for `pa`: one in every 2^SAMPLE_LOG2 is sampled (R255). -/
def State.memSample (s : State) (pa : Nat) : State :=
  let k := chanKey pa (s.chanOf pa)
  let n := mget 0 s.memu.reqs k
  let period := 2 ^ max 4 (bits s.memu.hotCfg 16 3)
  let hit := (n + 1) % period = 0
  let ring := mget [] s.memu.samples k
  { s with memu := { s.memu with
      reqs := mset 0 s.memu.reqs k ((n + 1) % period)
      samples := if hit then
          mset [] s.memu.samples k (((regionOf pa, lineOf pa) :: ring).take 256)
        else s.memu.samples } }

/-- The unit key of a die of a stack or a device of a channel, for the line at `pa` (R268, R269). -/
def unitKey (pa ch unit : Nat) : Nat := if isFar pa then (16 + ch) * 32 + unit else (ch / 16) * 32 + unit

/-- Count a corrected error of `row` and `unit` for the line at `pa` (R267, R268). -/
def State.countCe (s : State) (pa unit row : Nat) : State :=
  let ch := s.chanOf pa
  let k := chanKey pa ch * 2 ^ 32 + row
  let u := unitKey pa ch unit
  let rows := mget [] s.memu.unitRows u
  let mark := ch * 2 ^ 32 + row
  { s with memu := { s.memu with
      rowCe := mset 0 s.memu.rowCe k (mget 0 s.memu.rowCe k + 1)
      unitRows := if rows.contains mark then s.memu.unitRows
        else mset [] s.memu.unitRows u (mark :: rows) } }

/-- What a line operation does with the line at `pa` when it finds `f` (Table 7.3), and whether the data
is good.  `src` is the record's SOURCE; a mover does not count or log a poisoned line (R259), and a far line without keys
reads as poison and is not logged (R529). -/
def State.lineFound (s : State) (pa : Nat) (f : Found) (unit row src : Nat) : State × Bool :=
  let ch := s.chanOf pa
  if s.poisoned pa then
    (if src = 3 || (isFar pa && s.farDark) then s else s.memLog 3 pa ch 0xFF src row, false)
  else match f with
    | .good => (s, true)
    | .erased => (s, true)
    | .correctable =>
      ((((s.bump (if isFar pa then MEM_CE_FAR_VAL else MEM_CE_NEAR_VAL)).raise MEM_EVENT_CE).memLog
        1 pa ch unit src row).countCe pa unit row, true)
    | .uncorrectable =>
      ((((s.bump (if isFar pa then MEM_UE_FAR_VAL else MEM_UE_NEAR_VAL)).raise MEM_EVENT_UE).memLog
        2 pa ch unit src row).setPoison pa true, false)

/-- Whether `pa` lies in one of the tiers. -/
def inTier (pa : Nat) : Bool := isNear pa || isFar pa

/-- MEMORY_READ (R262): the channel reads the line of `pa`, corrects or poisons it, and returns the data
or a poison indication. -/
def execMemoryRead (pa : Nat) (f : Found) (unit row : Nat) (s : State) :
    Host.Outcome State Fault Refusal :=
  if inTier pa then
    let r := (s.memSample pa).lineFound pa f unit row 1
    .next { r.1 with bus := { r.1.bus with
      line := if r.2 then some (r.1.bytes (pa / 64 * 64) 64) else none } }
  else .next s

/-- MEMORY_WRITE (R263): a write inside one line.  A whole line replaces the line and its poison; a part is
merged into the corrected line, or dropped on poison.  A write to a far tier without keys is discarded (R529). -/
def execMemoryWrite (pa : Nat) (data : List Byte) (f : Found) (unit row : Nat) (s : State) :
    Host.Outcome State Fault Refusal :=
  if inTier pa && pa % 64 + data.length ≤ 64 then
    let s1 := s.memSample pa
    if isFar pa && s.farDark then .next s1
    else if data.length = 64 then .next ((s1.setBytes pa data).setPoison pa false)
    else if s1.poisoned pa then
      .next ((s1.memLog 4 pa (s1.chanOf pa) 0xFF 1 row).raise MEM_EVENT_POISON_WRITE_DROP)
    else
      let r := s1.lineFound pa f unit row 1
      if r.2 then .next (r.1.setBytes pa data)
      else .next ((r.1.memLog 4 pa (r.1.chanOf pa) 0xFF 1 row).raise MEM_EVENT_POISON_WRITE_DROP)
  else .next s

/-! ### Re-salting (R256 to R258) -/

/-- The tier of a global region: true for the far tier. -/
def regionFar (rg : Nat) : Bool := 262144 ≤ rg

/-- The migrations under way in a tier. -/
def State.migrating (s : State) (far : Bool) : Nat :=
  (s.memu.salts.filter fun p => p.2.migrating && regionFar p.1 == far).length

/-- MEM_MIG_CFG.IN_FLIGHT as used: 0 acts as 1, values above 8 as 8. -/
def State.inFlight (s : State) : Nat := max 1 (min 8 (s.get MEM_MIG_CFG_IN_FLIGHT))

/-- The salt entry of region `rg` becomes `e`. -/
def State.setSalt (s : State) (rg : Nat) (e : Salt) : State :=
  { s with memu := { s.memu with salts := tput s.memu.salts rg e } }

/-- The channel, 0 to 303, of line `o` of region `rg` under salt `t`: the far channels follow the near ones. -/
def chanNo (rg o t : Nat) : Nat := (if 262144 ≤ rg then 256 else 0) + channelOf rg o t

/-- Re-salt region `rg` to salt `t`: record both salts and set the cursor to 0 (R258). -/
def State.resalt (s : State) (rg t : Nat) : State :=
  let e := s.saltOf rg
  (((s.setSalt rg { e with salt := t, migrating := true, old := e.salt, cursor := 0 }).bump
    MEM_RESALT_COUNT_VAL).raise MEM_EVENT_RESALT).traceMem 1 (chanNo rg 0 t) 1 rg

/-- The largest number of the samples of `rg` that one channel would hold under salt `t` (R257). -/
def loadUnder (rg t : Nat) (lines : List Nat) : Nat :=
  let cs := lines.map fun o => channelOf rg o t
  cs.foldl (fun m c => max m (cs.count c)) 0

/-- The salt with the smallest load among 0 to 15 without the current one, the smallest on a tie (R257). -/
def bestSalt (rg cur : Nat) (lines : List Nat) : Nat × Nat :=
  ((List.range 16).filter (· != cur)).foldl
    (fun (b : Nat × Nat) t => let l := loadUnder rg t lines; if l < b.2 then (t, l) else b)
    (16, lines.length + 1)

/-- Regions of a ring with their counts, by count descending and then by number (R257). -/
def rankRegions (ring : List (Nat × Nat)) : List (Nat × Nat) :=
  let rs := (ring.map (·.1)).dedup.map fun r => (r, (ring.map (·.1)).count r)
  sortBy (fun a b => decide (b.2 < a.2) || (a.2 == b.2 && decide (a.1 ≤ b.1))) rs

/-- Evaluate one region of a hot channel; `left` re-salts may still start (R257). -/
def State.evalRegion (far : Bool) (ring : List (Nat × Nat)) (p : State × Nat) (rc : Nat × Nat) :
    State × Nat :=
  let s := p.1
  let e := s.saltOf rc.1
  if p.2 = 0 || rc.2 < 4 || e.migrating || e.hold || s.inFlight ≤ s.migrating far then p
  else
    let lines := (ring.filter (·.1 == rc.1)).map (·.2)
    let b := bestSalt rc.1 e.salt lines
    if 2 * b.2 ≤ rc.2 then (s.resalt rc.1 b.1, p.2 - 1)
    else (((s.setSalt rc.1 { e with hold := true }).bump MEM_RESALT_NOGAIN_VAL).raise MEM_EVENT_NOGAIN, p.2)

/-- The channels of a tier, as MEM_OCC numbers them. -/
def tierChans (far : Bool) : List Nat := if far then (List.range 48).map (· + 256) else List.range 256

/-- Whether channel `i` is never marked hot: it is moving (R269) or its stack rebuilds (R268). -/
def State.neverHot (s : State) (i : Nat) : Bool :=
  if 256 ≤ i then s.on (MEM_FAR_MOVING (i - 256)) else s.on (MEM_STACK_REBUILDING (i / 16))

/-- Mark one channel at the end of a window whose tier's occupancies sum to `sum` over `n` channels (R256). -/
def State.markHot (sum n : Nat) (s : State) (im : Nat × Nat) : State :=
  let s1 := s.put (MEM_OCC_MEAN im.1) im.2
  let hot := !s.neverHot im.1 && bits s.memu.hotCfg 0 8 * 16 ≤ im.2
      && max 1 (bits s.memu.hotCfg 8 4) * sum ≤ im.2 * n
  let streak := if hot then satAdd 8 (s.get (MEM_OCC_HOT_STREAK im.1)) 1 else 0
  (s1.put (MEM_OCC_HOT_STREAK im.1) streak).raiseIf
    (hot && streak = max 1 (bits s.memu.hotCfg 12 4)) MEM_EVENT_HOT

/-- End one tier's window: mark the channels, then act on the hot ones in descending occupancy (R257). -/
def State.windowTier (occ : SMap Nat) (far : Bool) (s : State) : State :=
  let chans := tierChans far
  let means := chans.map fun i => (i, min (mget 0 occ i) 65535)
  let sum := (means.map (·.2)).sum
  let s1 := means.foldl (State.markHot sum chans.length) s
  let act := sortBy (fun a b => decide (b.2 ≤ a.2))
    (means.filter fun p => max 1 (bits s.memu.hotCfg 12 4) ≤ s1.get (MEM_OCC_HOT_STREAK p.1))
  let quota := max 1 (min 8 (bits s.memu.hotCfg 20 4))
  if bits s.memu.hotCfg 24 1 = 1 then
    (act.foldl (fun p im =>
      let ring := mget [] p.1.memu.samples im.1
      (rankRegions ring).foldl (State.evalRegion far ring) p) (s1, quota)).1
  else s1

/-- MONITOR_WINDOW_END (R256, R257): `occ` gives each channel's mean occupancy over the window, in 1/16
entries.  MEM_HOT_CFG as written takes effect from this boundary on (R273). -/
def execMonitorWindowEnd (occ : List (Nat × Nat)) (s : State) : Host.Outcome State Fault Refusal :=
  let s1 := { s with memu := { s.memu with hotCfg := s.reg MEM_HOT_CFG } }
  let m : SMap Nat := occ.foldl (fun m p => tput m p.1 p.2) []
  .next ((s1.windowTier m false).windowTier m true)

/-- MIGRATION_LINE_MOVE (R258): one line of a re-salting region moves and the cursor advances. -/
def execMigrationLineMove (rg : Nat) (s : State) : Host.Outcome State Fault Refusal :=
  let e := s.saltOf rg
  if e.migrating && e.cursor < 32768 then .next (s.setSalt rg { e with cursor := e.cursor + 1 })
  else .next s

/-- MIGRATION_COMPLETE (R258): at cursor 32,768 the new salt is the only one, and HOLD starts. -/
def execMigrationComplete (rg : Nat) (s : State) : Host.Outcome State Fault Refusal :=
  let e := s.saltOf rg
  if e.migrating && e.cursor = 32768 then
    .next ((s.setSalt rg { salt := e.salt, migrating := false, old := 0, cursor := 0, hold := true }).traceMem 2
      (chanNo rg 0 e.salt) 1 rg)
  else .next s

/-- HOLD_EXPIRY (R258): HOLD_MS after HOLD began the region leaves it. -/
def execHoldExpiry (rg : Nat) (s : State) : Host.Outcome State Fault Refusal :=
  let e := s.saltOf rg
  if e.hold then .next (s.setSalt rg { e with hold := false }) else .next s

/-! ### Sparing and repair (R267 to R270) -/

/-- ROW_REPAIR_START (R267): with AUTO set, a row with ROW_CE corrected errors starts its repair into a
spare row of its bank (`free`: the bank has one). -/
def execRowRepairStart (chan row : Nat) (free : Bool) (s : State) : Host.Outcome State Fault Refusal :=
  let due := max 1 (s.get MEM_REPAIR_CFG_ROW_CE) ≤ mget 0 s.memu.rowCe (chan * 2 ^ 32 + row)
  if s.on MEM_REPAIR_CFG_AUTO && due && free
      && !(s.memu.repairs.any fun r => r.chan == chan && r.row == row)
      && !s.memu.repaired.contains (chan, row) then
    .next (({ s with memu := { s.memu with repairs := ⟨chan, row, 0⟩ :: s.memu.repairs } } : State).traceMem 1 chan 4 0)
  else .next s

/-- ROW_REPAIR_LINE_STEP (R267): one line of the row, at `pa`, is copied under the cursor; with the last
one the row is repaired, and a KIND 5 record is logged. -/
def execRowRepairLineStep (chan row pa : Nat) (last : Bool) (s : State) :
    Host.Outcome State Fault Refusal :=
  if s.memu.repairs.any fun r => r.chan == chan && r.row == row then
    if last then
      let s1 := { s with memu := { s.memu with
        repairs := s.memu.repairs.filter fun r => !(r.chan == chan && r.row == row)
        repaired := (chan, row) :: s.memu.repaired
        rowCe := mset 0 s.memu.rowCe (chan * 2 ^ 32 + row) 0 } }
      .next (((s1.memLog 5 pa (if 256 ≤ chan then chan - 256 else chan) 0xFF 3 row).raise
        MEM_EVENT_ROW_REPAIR).traceMem 2 chan 4 0)
    else .next { s with memu := { s.memu with
      repairs := modifyWhere (fun r => r.chan == chan && r.row == row)
        (fun r => { r with cursor := r.cursor + 1 }) s.memu.repairs } }
  else .next s

/-- Start or move the line cursor of a rebuild (key k) or a channel move (key 16 + c). -/
def State.setCursor (s : State) (key cur : Nat) : State :=
  let s1 := { s with memu := { s.memu with rebuild := tput s.memu.rebuild key cur } }
  if key < 16 then s1.put (MEM_STACK_REBUILD_CURSOR key) cur
  else s1.put (MEM_FAR_MOVE_CURSOR (key - 16)) cur

/-- Mark a near-tier die failed: its symbols are erased from now on, and the stack rebuilds to its spare
die, or stays in ERASURE when the spare is used (R268, Table 7.4). -/
def State.markDie (s : State) (k die src : Nat) : State :=
  let u := k * 32 + die
  if s.memu.failedUnits.contains u then s
  else
    let s1 := { s with memu := { s.memu with failedUnits := u :: s.memu.failedUnits } }
    let s2 := ((s1.memLog 6 0 (k * 16) die src 0xFFFFFFFF).raise MEM_EVENT_DIE_FAILED).put
      (MEM_STACK_FAILED_DIE k) die
    if s.on (MEM_STACK_SPARE_USED k) then
      if s.on (MEM_STACK_REBUILDING k) then s2
      else (s2.raise (MEM_STACK_ERASURE k)).raise MEM_EVENT_SPARE_EXHAUSTED
    else (((s2.raise (MEM_STACK_SPARE_USED k)).raise (MEM_STACK_REBUILDING k)).setCursor k 0).traceMem 1 (16 * k) 2 0

/-- DIE_MARK_FAILED (R268): with AUTO set, a die whose corrected errors touch DIE_ROWS distinct rows within
one scrub pass is marked failed. -/
def execDieMarkFailed (k die : Nat) (s : State) : Host.Outcome State Fault Refusal :=
  if s.on MEM_REPAIR_CFG_AUTO && k < 16 && die ≤ 10 && max 1 (s.get MEM_REPAIR_CFG_DIE_ROWS) ≤
      (mget [] s.memu.unitRows (k * 32 + die)).length then
    .next (s.markDie k die 1)
  else .next s

/-- The number of lines of a stack or of a far channel: 32 GiB of 64-byte lines (Table 7.1). -/
def unitLines : Nat := 536870912

/-- REBUILD_LINE_STEP (R268, R270): one line of a stack, at `pa`, is rebuilt to the spare die. -/
def execRebuildLineStep (k pa : Nat) (f : Found) (unit row : Nat) (s : State) :
    Host.Outcome State Fault Refusal :=
  match tfind s.memu.rebuild k with
  | some c =>
    if k < 16 && c < unitLines then .next ((s.lineFound pa f unit row 3).1.setCursor k (c + 1))
    else .next s
  | none => .next s

/-- REBUILD_COMPLETE (R268, R270): the stack's rebuild ends; where a second die failed meanwhile the stack is then in
ERASURE. -/
def execRebuildComplete (k : Nat) (s : State) : Host.Outcome State Fault Refusal :=
  if k < 16 && tfind s.memu.rebuild k = some unitLines then
    let s1 := (({ s with memu := { s.memu with rebuild := tdel s.memu.rebuild k } }.put
      (MEM_STACK_REBUILDING k) 0).put (MEM_STACK_REBUILD_CURSOR k) 0).raise MEM_EVENT_REBUILD_DONE
    let again := decide (2 ≤ (s.memu.failedUnits.filter fun u => u / 32 == k).length)
    .next (((s1.raiseIf again (MEM_STACK_ERASURE k)).raiseIf again MEM_EVENT_SPARE_EXHAUSTED).traceMem 2 (16 * k) 2 0)
  else .next s

/-- Whether the spare channel of the die of far channel `c` is in use (R250, R269). -/
def State.farSpareUsed (s : State) (c : Nat) : Bool :=
  (List.range 12).any fun j => s.on (MEM_FAR_SPARE_USED (c / 12 * 12 + j))

/-- Show that the spare channel of `c`'s die is in use, in every MEM_FAR of the die. -/
def State.useFarSpare (s : State) (c : Nat) : State :=
  (List.range 12).foldl (fun s j => s.raise (MEM_FAR_SPARE_USED (c / 12 * 12 + j))) s

/-- Mark a far-tier device failed: erased, and the channel moves to its die's spare, or stays in ERASURE
(R269, Table 7.4). -/
def State.markDevice (s : State) (c dev src : Nat) : State :=
  let u := (16 + c) * 32 + dev
  if s.memu.failedUnits.contains u then s
  else
    let s1 := { s with memu := { s.memu with failedUnits := u :: s.memu.failedUnits } }
    let s2 := ((s1.memLog 7 0 c dev src 0xFFFFFFFF).raise MEM_EVENT_CHAN_FAILED).put
      (MEM_FAR_FAILED_DEV c) dev
    if s.farSpareUsed c then
      if s.on (MEM_FAR_MOVING c) then s2
      else (s2.raise (MEM_FAR_ERASURE c)).raise MEM_EVENT_SPARE_EXHAUSTED
    else (((s2.useFarSpare c).raise (MEM_FAR_MOVING c)).setCursor (16 + c) 0).traceMem 1 (256 + c) 3 0

/-- DEVICE_MARK_FAILED (R269): the far-tier rule, the same as a die's. -/
def execDeviceMarkFailed (c dev : Nat) (s : State) : Host.Outcome State Fault Refusal :=
  if s.on MEM_REPAIR_CFG_AUTO && c < 48 && dev < 20 && max 1 (s.get MEM_REPAIR_CFG_DIE_ROWS) ≤
      (mget [] s.memu.unitRows ((16 + c) * 32 + dev)).length then
    .next (s.markDevice c dev 1)
  else .next s

/-- CHANNEL_MOVE_LINE_STEP (R269): one line of a far channel, at `pa`, is copied to the spare channel. -/
def execChannelMoveLineStep (c pa : Nat) (f : Found) (unit row : Nat) (s : State) :
    Host.Outcome State Fault Refusal :=
  match tfind s.memu.rebuild (16 + c) with
  | some cur =>
    if cur < unitLines then .next ((s.lineFound pa f unit row 3).1.setCursor (16 + c) (cur + 1))
    else .next s
  | none => .next s

/-- CHANNEL_MOVE_COMPLETE (R269): MEM_FAR.PHYS names the spare channel 13 d + 12 (R250), whose devices are
good. -/
def execChannelMoveComplete (c : Nat) (s : State) : Host.Outcome State Fault Refusal :=
  if tfind s.memu.rebuild (16 + c) = some unitLines then
    .next (((((({ s with memu := { s.memu with
        rebuild := tdel s.memu.rebuild (16 + c)
        failedUnits := s.memu.failedUnits.filter fun u => u / 32 != 16 + c } }.put
      (MEM_FAR_MOVING c) 0).put (MEM_FAR_MOVE_CURSOR c) 0).put
      (MEM_FAR_PHYS c) (13 * (c / 12) + 12)).put (MEM_FAR_FAILED_DEV c) 0x1F).raise
      MEM_EVENT_CHAN_MOVE_DONE).traceMem 2 (256 + c) 3 0)
  else .next s

/-! ### Scrubbing (R271) and commands (R273) -/

/-- SCRUB_LINE (R271): the scrubber reads one line as a line operation; its records have SOURCE 2. -/
def execScrubLine (pa : Nat) (f : Found) (unit row : Nat) (s : State) :
    Host.Outcome State Fault Refusal :=
  if s.on MEM_SCRUB_CFG_ENABLE && inTier pa then .next (s.lineFound pa f unit row 2).1 else .next s

/-- SCRUB_PASS_COMPLETE (R267, R271): the pass count advances and the tier's row counts clear. -/
def execScrubPassComplete (far : Bool) (s : State) : Host.Outcome State Fault Refusal :=
  if s.on MEM_SCRUB_CFG_ENABLE then
    let s1 := s.bump (if far then MEM_SCRUB_STATUS_FAR_PASSES else MEM_SCRUB_STATUS_NEAR_PASSES)
    .next { s1 with memu := { s1.memu with
      rowCe := s1.memu.rowCe.filter fun p => (256 ≤ p.1 / 2 ^ 32) != far
      unitRows := s1.memu.unitRows.filter fun p => (512 ≤ p.1) != far } }
  else .next s

/-- The result of a memory command: MEM_CMD_STATUS.RESULT. -/
def State.memCmd (s : State) (st : Nat) : State :=
  (s.put MEM_CMD_STATUS_RESULT st).put MEM_CMD_STATUS_PENDING 0

/-- MEM_MARK_NEAR_DIE: MEM_CMD OP 1 (R268, R273). -/
def execMemMarkNearDie (k die : Nat) (s : State) : Host.Outcome State Fault Refusal :=
  if k < 16 && die ≤ 10 then .next ((s.markDie k die 4).memCmd stOK) else .next (s.memCmd stMALFORMED)

/-- MEM_MARK_FAR_DEVICE: MEM_CMD OP 2 (R269, R273). -/
def execMemMarkFarDevice (c dev : Nat) (s : State) : Host.Outcome State Fault Refusal :=
  if c < 48 && dev < 20 then .next ((s.markDevice c dev 4).memCmd stOK)
  else .next (s.memCmd stMALFORMED)

/-- MEM_RESALT_REGION: MEM_CMD OP 3, which ignores HOLD (R258, R273). -/
def execMemResaltRegion (rg t : Nat) (s : State) : Host.Outcome State Fault Refusal :=
  if 1048576 ≤ rg || 16 ≤ t then .next (s.memCmd stMALFORMED)
  else if (s.saltOf rg).migrating || (s.saltOf rg).salt = t || s.inFlight ≤ s.migrating (regionFar rg) then
    .next (s.memCmd stBUSY)
  else .next ((s.resalt rg t).memCmd stOK)

end Sys2Proof.Machine
end

