-- ==== Sys2Proof/Machine/Reliability.lean ====
section
/-! DEFINITION. Lane calibration and firmware commands (18_reliability_service.md R556 to R561). -/
namespace Sys2Proof.Machine
open Sys2Proof

/-! ### Calibration (R556, R557) -/

/-- CAL_START (R556): an attach lane that is UP, alone in its group, enters CAL from a pick at least 16 ahead. -/
def execCalStart (l pick : Nat) (s : State) : Host.Outcome State Fault Refusal :=
  let others := (List.range 8).map (l / 8 * 8 + ·)
  if l < 96 && s.get (LNK_LANE_STATE l) = 2 && s.attachOn (l / 8) && s.pick + 16 ≤ pick && !s.trc.halted &&
      !s.til.mgrLost.contains (l / 24) &&
      others.all fun k => k == l || (s.get (LNK_LANE_STATE k) != 3 && s.get (LNK_LANE_STATE k) != 4) then
    .next (({ s with rel := { s.rel with cal := tput s.rel.cal l (pick, 0) } }.put (LNK_LANE_STATE l) 4).raise
      PWR_REL_EVENT_CAL_START)
  else .next s

/-- Whether slot `k` of the active table has a cell on lane `l`: a record of its group, in either direction, fills the
slot on every lane (R73). -/
def State.cellOn (s : State) (l k : Nat) : Bool :=
  match s.activeTable with
  | none => false
  | some t =>
    match tfind t.groups (l / 8) with
    | none => false
    | some g => (g.tx ++ g.rx).any fun r => r.slot == k

/-- The slot of a calibration step: the highest-numbered one, other than slot 0, without a cell on the lane (R557). -/
def State.calSlot (s : State) (l : Nat) : Option Nat :=
  ((List.range s.warp.period).filter fun k => k != 0 && !s.cellOn l k).getLast?

/-- CAL_STEP (R557): one step in a pick from the starting pick on; a pick without a free slot takes none. -/
def execCalStep (l : Nat) (s : State) : Host.Outcome State Fault Refusal :=
  match tfind s.rel.cal l with
  | some (p, n) =>
    if p ≤ s.pick && n < 64 && (s.calSlot l).isSome then
      .next { s with rel := { s.rel with cal := tput s.rel.cal l (s.pick + 1, n + 1) } }
    else .next s
  | none => .next s

/-- CAL_COMPLETE (R557): after the 64th step the lane is UP. -/
def execCalComplete (l : Nat) (s : State) : Host.Outcome State Fault Refusal :=
  match tfind s.rel.cal l with
  | some (_, n) =>
    if n = 64 then
      .next (({ s with rel := { s.rel with cal := tdel s.rel.cal l } }.put (LNK_LANE_STATE l) 2).raise PWR_REL_EVENT_CAL_DONE)
    else .next s
  | none => .next s

/-! ### Firmware slots (R559 to R561) -/

/-- A write of PWR_FW_CMD. -/
def State.fwCmdWrite (s : State) (r : Requester) (val : Nat) : State :=
  let op := bits val 0 3
  if !s.privReq r || !bit val 63 || s.on PWR_FW_CMD_STATUS_PENDING then s
  else if s.noFirmware then s.put PWR_FW_CMD_STATUS_RESULT stBUSY
  else if op = 0 || 5 ≤ op then s.setReg PWR_FW_CMD_STATUS (stMALFORMED * 256)
  else ((s.setReg PWR_FW_CMD val).put PWR_FW_CMD_STATUS_PENDING 1).traceMgmt 1 4 op 0

/-- A firmware operation completes. -/
def State.fwEnd (s : State) (st : Nat) : State :=
  (s.setReg PWR_FW_CMD_STATUS (st * 256)).traceMgmt 2 4 (s.get PWR_FW_CMD_OP) st

/-- Firmware carries out the pending operation `op` where `ok` holds, else it is BUSY (Table 18.2). -/
def State.fwCmd (s : State) (op : Nat) (ok : Bool) (f : State) : Host.Outcome State Fault Refusal :=
  if !s.on PWR_FW_CMD_STATUS_PENDING || s.get PWR_FW_CMD_OP != op || !s.firmware then .next s
  else .next (if ok then f else s.fwEnd stBUSY)

/-- FW_STAGE (R559, R533): the image goes to the other slot. -/
def execFwStage (img : Option (List Byte)) (sig : Bool) (s : State) : Host.Outcome State Fault Refusal :=
  let b := 1 - s.runSlot
  s.fwCmd 1 (s.slotState s.runSlot == 3) (
    if 2 ^ 25 < s.get PWR_FW_STAGE_LEN_LEN then s.fwEnd stMALFORMED
    else match img with
      | none => s.fwEnd stACCESS
      | some im =>
        if !sig then s.fwEnd stACCESS
        else
          let n := Config.fwSvn im % 256
          let c := s.svnCheck n
          if !c.2 then c.1.fwEnd stACCESS
          else
            let s1 : State := { s with rel := if b = 0 then { s.rel with slotA := im } else { s.rel with slotB := im } }
            (((s1.put (slotFld b) 1).put (svnFld b) n).raise PWR_REL_EVENT_FW_STAGED).fwEnd stOK)

/-- FW_ACTIVATE (R559, R560): with live takeover the staged image runs; without, the next reset boots it. -/
def execFwActivate (s : State) : Host.Outcome State Fault Refusal :=
  let b := 1 - s.runSlot
  s.fwCmd 2 (s.slotState b == 1) (
    let s1 := if Config.fwLive (s.slotImage b) then
        { (s.activate b) with rel := { s.rel with trialAt := s.time } } else s
    ((s1.put (slotFld b) 2).raise PWR_REL_EVENT_FW_TRIAL).fwEnd stOK)

/-- FW_CONFIRM (R559, R561). -/
def execFwConfirm (s : State) : Host.Outcome State Fault Refusal :=
  s.fwCmd 3 (s.slotState s.runSlot == 2) (s.fwGood.fwEnd stOK)

/-- FW_REVERT (R559). -/
def execFwRevert (s : State) : Host.Outcome State Fault Refusal :=
  s.fwCmd 4 (s.slotState 0 == 2 || s.slotState 1 == 2) (s.fwRevert.fwEnd stOK)

/-- FW_TRIAL_EXPIRY (R561): TRIAL_S seconds have passed without a takeover. -/
def execFwTrialExpiry (s : State) : Host.Outcome State Fault Refusal :=
  if s.slotState s.runSlot = 2 && s.get PWR_FW_CFG_TRIAL_S != 0 && s.firmware then .next s.fwGood else .next s

/-- PWR_FW_STATUS.TRIAL_LEFT_S: seconds left of a running trial. -/
def State.trialLeft (s : State) : Nat :=
  if s.slotState s.runSlot = 2 then s.get PWR_FW_CFG_TRIAL_S - (s.time - s.rel.trialAt) / 2000000000 else 0

end Sys2Proof.Machine
end

