-- ==== Sys2Proof/Machine/Security.lean ====
section
/-! DEFINITION. Keys, provisioning, debug unlock, tamper and the cell (16_security.md R511 to R536). -/
namespace Sys2Proof.Machine
open Sys2Proof

/-! ### Provisioning (R515, R516) -/

/-- Whether any key context has a valid phase (R516). -/
def State.anyKey (s : State) : Bool := s.sec.ctxs.any fun p => p.2.p0.isSome || p.2.p1.isSome

/-- A write of SEC_PROV_CMD. -/
def State.provCmdWrite (s : State) (r : Requester) (val : Nat) : State :=
  let op := bits val 0 2
  if !s.privReq r || !bit val 63 || s.on SEC_PROV_STATUS_PENDING then s
  else if s.noFirmware then s.put SEC_PROV_STATUS_RESULT stBUSY
  else if op = 0 || op = 3 then (s.setReg SEC_PROV_STATUS (stMALFORMED * 256)).raise SEC_EVENT_PROV_DONE
  else ((s.setReg SEC_PROV_CMD val).put SEC_PROV_STATUS_PENDING 1).traceMgmt 1 3 op 0

/-- A provisioning command completes. -/
def State.provEnd (s : State) (st : Nat) : State :=
  ((s.setReg SEC_PROV_STATUS (st * 256)).raise SEC_EVENT_PROV_DONE).traceMgmt 2 3 (s.get SEC_PROV_CMD_OP) st

/-- Firmware carries out the pending provisioning command `op`: BUSY while a phase is valid, or in ZEROIZED (R516). -/
def State.provCmd (s : State) (op : Nat) (f : State) : Host.Outcome State Fault Refusal :=
  if !s.on SEC_PROV_STATUS_PENDING || s.get SEC_PROV_CMD_OP != op || !s.firmware then .next s
  else if s.anyKey || s.farDark then .next (s.provEnd stBUSY)
  else .next f

/-- Whether a provisioning blob passes step 1 of R515 (Table 16.2). -/
def blobOk (b : List Byte) : Bool :=
  leAt b 0 4 == 0x43505231 && (sliceB b 105 7).all (· == 0) && (sliceB b 152 104).all (· == 0) && byteAt b 8 == 4 &&
    Config.pointOk (sliceB b 9 96)

/-- PROVISION (R515, R516, R527): `blob` is none where the host read fails. -/
def execProvision (blob : Option (List Byte)) (s : State) : Host.Outcome State Fault Refusal :=
  s.provCmd 1 (
    if s.sec.drbgStopped then s.provEnd stBUSY
    else match blob with
      | none => s.provEnd stMALFORMED
      | some b =>
        if !blobOk b then s.provEnd stMALFORMED
        else match Config.unwrapDs (sliceB b 0 256) with
          | none => s.provEnd stTAG_FAIL
          | some ds =>
            let s1 := { s.tick with sec := { s.sec with ds := ds, bkek := Config.freeNat s.free } }
            ((s1.put SEC_STATE_KEYS 1).put SEC_STATE_DOMAIN_ID (leAt b 4 4)).provEnd stOK)

/-- The domain secret and BKEK are gone. -/
def State.dropSecret (s : State) : State := { s with sec := { s.sec with ds := 0, bkek := 0 } }

/-- FORGET (R516). -/
def execForget (s : State) : Host.Outcome State Fault Refusal :=
  s.provCmd 2 (((s.dropSecret.put SEC_STATE_KEYS 0).put SEC_STATE_DOMAIN_ID 0).provEnd stOK)

/-! ### Key contexts (R518) -/

/-- A write of SEC_KEY_CMD. -/
def State.keyCmdWrite (s : State) (r : Requester) (val : Nat) : State :=
  let op := bits val 0 3
  if !s.privReq r || !bit val 63 || s.on SEC_KEY_STATUS_PENDING then s
  else if s.noFirmware then s.put SEC_KEY_STATUS_RESULT stBUSY
  else if op = 0 || 5 ≤ op then s.setReg SEC_KEY_STATUS (stMALFORMED * 256)
  else ((s.setReg SEC_KEY_CMD val).put SEC_KEY_STATUS_PENDING 1).traceMgmt 1 2 op 0

/-- A key command completes. -/
def State.keyEnd (s : State) (st : Nat) : State :=
  (s.setReg SEC_KEY_STATUS (st * 256)).traceMgmt 2 2 (s.get SEC_KEY_CMD_OP) st

/-- Firmware carries out the pending key command `op` on its context and phase; `busy`: when it is BUSY. -/
def State.keyCmd (s : State) (op : Nat) (busy : Nat → KeyCtx → Nat → Bool) (f : Nat → KeyCtx → Nat → State) :
    Host.Outcome State Fault Refusal :=
  let c := s.get SEC_KEY_CMD_CTX
  let k := s.keyCtx c
  let ph := s.get SEC_KEY_CMD_PHASE
  if !s.on SEC_KEY_STATUS_PENDING || s.get SEC_KEY_CMD_OP != op || !s.firmware then .next s
  else if c = 0 then .next (s.keyEnd stMALFORMED)
  else if busy c k ph then .next (s.keyEnd stBUSY)
  else .next ((f c k ph).keyEnd stOK)

/-- Key context `c` becomes `k`. -/
def State.setKeyCtx (s : State) (c : Nat) (k : KeyCtx) : State := { s with sec := { s.sec with ctxs := tput s.sec.ctxs c k } }

/-- KEY_INSTALL (R518, Table 16.3); it waits while the DRBG is stopped (R527). -/
def execKeyInstall (s : State) : Host.Outcome State Fault Refusal :=
  let gen := s.get SEC_KEY_ARG_KEY_GEN
  if s.sec.drbgStopped then .next s
  else
    s.keyCmd 1 (fun _ k ph => s.get SEC_STATE_KEYS != 1 || s.sec.zeroing || ((k.phase ph).isSome && k.tx == ph) ||
        ([k.p0, k.p1].any fun p => p.any fun x => gen ≤ x.gen)) fun c k ph =>
      let t := s.get SEC_KEY_ARG_TENANT
      let g := s.get SEC_KEY_ARG_GROUP
      let k1 := k.setPhase ph (some ⟨t, g, gen, s.get SEC_KEY_ARG_DIR, 0⟩)
      s.setKeyCtx c { k1 with tenant := t, group := g, tx := if k.p0.isNone && k.p1.isNone then ph else k.tx }

/-- KEY_SWITCH (R518, Table 16.3). -/
def execKeySwitch (s : State) : Host.Outcome State Fault Refusal :=
  s.keyCmd 2 (fun _ k ph => (k.phase ph).isNone) fun c k ph => s.setKeyCtx c { k with tx := ph }

/-- KEY_RETIRE (R518, Table 16.3). -/
def execKeyRetire (s : State) : Host.Outcome State Fault Refusal :=
  s.keyCmd 3 (fun _ k ph => k.tx == ph) fun c k ph => s.setKeyCtx c (k.setPhase ph none)

/-- KEY_CLEAR (R518, Table 16.3). -/
def execKeyClear (s : State) : Host.Outcome State Fault Refusal :=
  s.keyCmd 4 (fun c _ _ => s.qp.qps.any fun p => p.2.cipher == c && 2 ≤ p.2.state && p.2.state ≤ 4) fun c _ _ => s.clearCtx c

/-- SEC_KEY_DATA: the selected context (Table 16.8). -/
def State.keyData (s : State) : Nat :=
  let k := s.keyCtx (s.get SEC_KEY_SEL_CTX)
  let x := k.phase k.tx
  (if k.p0.isSome then 1 else 0) + (if k.p1.isSome then 2 else 0) + k.tx * 4 + (x.elim 0 (·.dir)) * 8 + k.tenant * 2 ^ 4 +
    k.group * 2 ^ 24 + (x.elim 0 (·.gen)) * 2 ^ 40

/-! ### Zeroization (R528 to R532) -/

/-- Every key is overwritten, and the RK read latch is set (Table 16.5); `opens`: debug is to open at its end. -/
def State.zeroize (s : State) (opens : Bool) : State :=
  { s with sec := { s.sec with
      ctxs := [], ds := 0, bkek := 0, rkLatch := true, zeroing := true, opening := s.sec.opening || opens } }

/-- An unlock request (R528): from JTAG, or through SEC_DEBUG_CTRL. -/
def State.unlock (s : State) : State := if s.on SEC_STATE_DEBUG_OPEN || !s.pow.up then s else s.zeroize true

/-- DEBUG_UNLOCK (R528): a write of SEC_DEBUG_CTRL. -/
def execDebugUnlock (r : Requester) (val : Nat) (s : State) : Host.Outcome State Fault Refusal :=
  .next (if s.privReq r && val % 256 = 0xD4 then s.unlock else s)

/-- DEBUG_OPEN (R528, R530): zeroization is done; debug opens unless an alarm alone asked for it. -/
def execDebugOpen (s : State) : Host.Outcome State Fault Refusal :=
  if !s.sec.zeroing then .next s
  else
    let s1 := { s with sec := { s.sec with zeroing := false, opening := false } }
    let s2 := (s1.put SEC_STATE_KEYS 2).put SEC_STATE_DOMAIN_ID 0
    .next (if s.sec.opening then (s2.put SEC_STATE_DEBUG_OPEN 1).raise SEC_EVENT_DEBUG_OPEN else s2)

/-- A tamper record is written, or counted where 16 are held (R531, Table 16.6).  How long the card has been without power
is not the model's to know: SECONDS is free then. -/
def State.tamperLog (s : State) (sources : Nat) : State :=
  let n := s.get SEC_TAMPER_STATUS_RECORDS
  let s1 := { s.tick with sec := { s.sec with tamperSeq := s.sec.tamperSeq + 1 } }
  let secs := if s.pow.up then s.secsNow else Config.freeNat s.free % 2 ^ 32
  if 16 ≤ n then s1.bump SEC_TAMPER_STATUS_OVERFLOW
  else
    ((s1.setReg (SEC_TAMPER_LOG n 0) (secs + sources % 16 * 2 ^ 32 + (if s.pow.up then 0 else 2 ^ 40))).setReg
      (SEC_TAMPER_LOG n 1) (s1.sec.tamperSeq % 2 ^ 32)).put SEC_TAMPER_STATUS_RECORDS (n + 1)

/-- TAMPER_ALARM (R530): with main power every key goes; on the cell alone BKEK goes; with neither nothing is logged
(R626). -/
def execTamperAlarm (sources : Nat) (s : State) : Host.Outcome State Fault Refusal :=
  if sources % 16 = 0 || (!s.pow.up && s.sec.cellGone) then .next s
  else
    let s1 := s.tamperLog sources
    .next (if s.pow.up then (s1.zeroize false).raise SEC_EVENT_TAMPER
      else { s1 with sec := { s1.sec with bkek := 0 } })

/-- SEC_TAMPER_CLEAR (R531): the log becomes empty. -/
def execSecTamperClear (r : Requester) (val : Nat) (s : State) : Host.Outcome State Fault Refusal :=
  .next (if s.privReq r && val % 65536 = 0xC1EA then
    (s.setReg SEC_TAMPER_STATUS 0).resetRange (SEC_TAMPER_LOG 0 0) (SEC_TAMPER_LOG 16 0) else s)

/-- CELL_LOW (R532). -/
def execCellLow (s : State) : Host.Outcome State Fault Refusal :=
  .next (if s.pow.up then (s.put SEC_STATE_CELL_OK 0).raise SEC_EVENT_CELL_LOW else s)

/-- CELL_REPLACE (R626): a good cell is fitted. -/
def execCellReplace (s : State) : Host.Outcome State Fault Refusal :=
  .next (({ s with sec := { s.sec with cellGone := false } }).put SEC_STATE_CELL_OK 1)

/-- CELL_EXHAUSTED (R532): the cell runs out, or is removed, without main power, and BKEK goes. -/
def execCellExhausted (s : State) : Host.Outcome State Fault Refusal :=
  .next (if s.pow.up then s else ({ s with sec := { s.sec with bkek := 0, cellGone := true } }).put SEC_STATE_CELL_OK 0)

/-! ### Entropy (R526, R527) -/

/-- ENTROPY_HEALTH_FAIL (R527). -/
def execEntropyHealthFail (s : State) : Host.Outcome State Fault Refusal :=
  .next ((s.put SEC_STATE_DRBG_OK 0).raise SEC_EVENT_ENTROPY_FAIL)

/-- NOISE_RETEST (R527): at the first pass the DRBG reseeds and resumes. -/
def execNoiseRetest (pass : Bool) (s : State) : Host.Outcome State Fault Refusal :=
  .next (if pass && !s.on SEC_STATE_DRBG_OK then
    ({ s with sec := { s.sec with drbgStopped := false } }).put SEC_STATE_DRBG_OK 1 else s)

/-- DRBG_RESEED (R526, R527): a reseed that falls due without a good noise source stops the DRBG. -/
def execDrbgReseed (s : State) : Host.Outcome State Fault Refusal :=
  .next (if s.on SEC_STATE_DRBG_OK then s else { s with sec := { s.sec with drbgStopped := true } })

end Sys2Proof.Machine
end

