-- ==== Sys2Proof/Machine/RegView.lean ====
section
/-! DEFINITION. What a read of a register shows where the register follows from other state: the views of
tiles, cursors, salts, fault rings, queues, groups, keys and check-value images. -/
namespace Sys2Proof.Machine
open Sys2Proof

/-- TILE_STATE (Table 3.8): the position follows sparing (R122), and a halted tile shows HALTED (R578). -/
def State.tileStateView (s : State) (t : Nat) : Nat :=
  let v := s.reg (TILE_STATE t)
  let p := s.phys t
  let v1 := if s.on TRC_HALT_STATUS_ALL && s.get (TILE_STATE_STATE t) != 7 then setBits v 0 3 6 else v
  setBits (setBits v1 16 6 p.1) 22 7 p.2

/-- TILE_QUEUES (Table 3.9). -/
def State.tileQueuesView (s : State) (t : Nat) : Nat :=
  (s.tile t).inq.length + (s.tile t).rmq.length * 2 ^ 8 + s.get (TILE_QUEUES_RMQ_WAITS t) * 2 ^ 16

/-- What holds the skein of handle `h` (0 to 15) of tile `t`: PARKED 4, STALLED 5, or 0 (R233, R236). -/
def State.skeinHeld (s : State) (t h : Nat) : Nat :=
  let c : Ctx := if h < 8 then .S else .W
  match s.xlt.parked.find? fun p => p.who == .skein t c (h % 8) with
  | some p => if p.stalled then 5 else 4
  | none => 0

/-- SKN_CUR word `w` (0 to 7) of handle `h` of tile `t` (Table 6.9). -/
def State.cursorView (s : State) (t h w : Nat) : Nat :=
  let c : Ctx := if h < 8 then .S else .W
  match s.skein? t c (h % 8) with
  | none => 0
  | some k =>
    let st := if s.skeinHeld t h = 0 then k.state else s.skeinHeld t h
    let r := k.done / max 1 (k.cnt 0)
    let i (d : Nat) : Nat := k.rowIdx r d % 2 ^ 32
    match w with
    | 0 => st + k.status * 2 ^ 8 + k.queue * 2 ^ 16
    | 1 => k.done % max 1 (k.cnt 0) + i 1 * 2 ^ 32
    | 2 => i 2 + i 3 * 2 ^ 32
    | 3 => i 4 + k.nextChunk * 2 ^ 32
    | 4 => k.done
    | 5 => if st = 4 || st = 5 then k.fault + (if k.side then 2 ^ 63 else 0) else 0
    | 6 => k.check.run
    | _ => 0

/-- MEM_SALT_DATA: the region of MEM_SALT_SEL (Table 7.8). -/
def State.saltView (s : State) : Nat :=
  let e := s.saltOf (s.get MEM_SALT_SEL_REGION)
  e.salt + (if e.migrating then 2 ^ 4 + e.old * 2 ^ 5 + e.cursor % 2 ^ 15 * 2 ^ 10 else 0) + (if e.hold then 2 ^ 9 else 0)

/-- XLT_FR_STATUS of instance `i` (R302). -/
def State.frStatus (s : State) (i : Nat) : Nat :=
  let open_ := (mget [] s.xlt.openB i).length
  s.parkedCount i + open_ * 2 ^ 10 + (if mget [] s.xlt.heldB i != [] then 2 ^ 17 else 0) +
    (if s.xlt.parked.any fun p => p.inst == i && p.stalled && (p.needRec || s.nInst != 1) then 2 ^ 18 else 0)

/-- RING_Q_STATUS and RING_Q_PTR (Table 14.4); a FREE queue reads 0 (R473). -/
def State.qStatus (s : State) (i q : Nat) : Nat :=
  let x := s.queue i q
  if x.state = 0 then 0
  else x.state + (if x.waitOwn then 8 else 0) + (if x.dbBad then 16 else 0) + x.errReason * 2 ^ 8 + x.errSlot * 2 ^ 32
def State.qPtr (s : State) (i q : Nat) : Nat :=
  let x := s.queue i q
  if x.state = 0 then 0 else x.head % 2 ^ 32 + x.tail % 2 ^ 32 * 2 ^ 32

/-- RING_INST_ID (Table 14.2): instance `i` belongs to function `i` (R491). -/
def State.instId (s : State) (i : Nat) : Nat := i + s.get INST_CFG_MODE * 2 ^ 4 + i * 2 ^ 8

/-- COL_GRP_STATE and COL_GRP_TREE of the selected group (Table 12.9). -/
def State.grpState (s : State) : Nat :=
  let x := s.group (s.get COL_GRP_SEL_GROUP)
  x.state + x.gen * 2 ^ 8 + x.tag * 2 ^ 16 + x.seq % 2 ^ 32 * 2 ^ 32
def State.grpTree (s : State) : Nat :=
  let x := s.group (s.get COL_GRP_SEL_GROUP)
  x.parent % 2 ^ 5 + x.mcast % 2 ^ 12 * 2 ^ 8 + x.local_ % 2 ^ 7 * 2 ^ 20 + (s.children x).length % 2 ^ 5 * 2 ^ 27 +
    x.rank % 2 ^ 10 * 2 ^ 32 + (x.size - 1) % 2 ^ 10 * 2 ^ 42

/-- WIDTH_M1 and the mode bits of a state image, as CRC_VIEW_CFG lays them out. -/
def CheckImg.cfg (c : CheckImg) : Nat :=
  c.widthM1 + (if c.refin then 2 ^ 8 else 0) + (if c.refout then 2 ^ 9 else 0) + (if c.invert then 2 ^ 10 else 0) +
    (if c.intEn then 2 ^ 11 else 0)

/-- The state image that CRC_SEL selects (R545). -/
def State.crcImage (s : State) : CheckImg :=
  (s.ctx (s.get CRC_SEL_TILE) (if s.on CRC_SEL_CTX then .W else .S)).check

/-- The first entry of a list of (register, value) whose register is `a`. -/
def viewOf (a : Nat) (l : List (Nat × (Unit → Nat))) : Option Nat := (l.find? fun p => p.1 == a).map fun p => p.2 ()

/-- The single registers whose value follows from other state. -/
def State.viewOne (s : State) (a : Nat) : Option Nat :=
  viewOf a [(MEM_SALT_DATA, fun _ => s.saltView),
    (QP_CTX_STATE, fun _ => s.qpCtxState (s.get QP_CTX_SEL_QPN)), (QP_CTX_TX, fun _ => s.qpCtxTx (s.get QP_CTX_SEL_QPN)),
    (QP_CTX_RX, fun _ => s.qpCtxRx (s.get QP_CTX_SEL_QPN)), (QP_CTX_RTT, fun _ => s.qpCtxRtt (s.get QP_CTX_SEL_QPN)),
    (QP_RGN_DATA, fun _ => s.rgnData (s.get QP_RGN_SEL_INSTANCE) (s.get QP_RGN_SEL_INDEX)),
    (CC_QP_RATE, fun _ => s.ccQpRate (s.get CC_QP_SEL_QPN)), (CC_QP_PATHS, fun _ => s.ccQpPaths (s.get CC_QP_SEL_QPN)),
    (COL_GRP_STATE, fun _ => s.grpState), (COL_GRP_TREE, fun _ => s.grpTree),
    (SEC_KEY_DATA, fun _ => s.keyData),
    (CRC_VIEW_POLY, fun _ => s.crcImage.poly), (CRC_VIEW_CFG, fun _ => s.crcImage.cfg),
    (CRC_VIEW_INIT, fun _ => s.crcImage.init), (CRC_VIEW_RUN, fun _ => s.crcImage.run),
    (TRC_TS, fun _ => s.ts),
    (TRC_STATUS, fun _ => setBits (s.reg TRC_STATUS) 16 16 s.trc.buf.length),
    (PWR_FW_STATUS, fun _ => setBits (s.reg PWR_FW_STATUS) 32 16 s.trialLeft)]

/-- What the register at key `a` shows (R18); a write-only field shows 0 in `regRead`. -/
def State.regView (s : State) (a : Nat) : Nat :=
  if TILE_ROLE 0 ≤ a && a < tileWin 4096 then
    let t := (a - tileWin 0) / 0x40000
    if a = TILE_STATE t then s.tileStateView t else if a = TILE_QUEUES t then s.tileQueuesView t else s.reg a
  else if SKN_CUR_STATE 0 0 ≤ a && a < SKN_CUR_STATE 4096 0 then
    let o := a - SKN_CUR_STATE 0 0
    s.cursorView (o / 1024) (o / 64 % 16) (o / 8 % 8)
  else if XLT_FR_BASE 0 ≤ a && a < XLT_FR_BASE 16 then
    let i := (a - XLT_FR_BASE 0) / 256
    if a = XLT_FR_STATUS i then s.frStatus i else s.reg a
  else if SEC_ID_PUB 0 ≤ a && a < SEC_ID_PUB 13 then
    if s.get SEC_STATE_KEYS = 2 then 0 else let k := (a - SEC_ID_PUB 0) / 8; Config.idPub k % (if k = 12 then 2 ^ 8 else 2 ^ 64)
  else if RING_INST_ID 0 ≤ a && a < RING_INST_ID 16 then
    let i := (a - RING_INST_ID 0) / 0x100000
    let o := (a - RING_INST_ID 0) % 0x100000
    if o = 0 then s.instId i
    else if 0x40000 ≤ o && o < 0x80000 then
      if o % 64 = 8 then s.qStatus i ((o - 0x40000) / 64)
      else if o % 64 = 16 then s.qPtr i ((o - 0x40000) / 64)
      else s.reg a
    else s.reg a
  else (s.viewOne a).getD (s.reg a)

end Sys2Proof.Machine
end

