-- ==== Sys2Proof/Machine/Trace.lean ====
section
/-! DEFINITION. Collecting and sending trace records, the trigger, the counter freeze, HALT_ALL, scan-out and the
JTAG instructions (19_debug_trace.md R571 to R582). -/
namespace Sys2Proof.Machine
open Sys2Proof

/-! ### The trace path (R571 to R575) -/

/-- SOURCE of a trace source (Table 19.2). -/
def sourceNo (key : Nat) : Nat :=
  if key < 4096 then key
  else if key < 4224 then key - 4096
  else if key < 4352 then key - 4224
  else if key < 4672 then key - 4352
  else 0

/-- The source of die `d` that its collector takes next: in turn, one whose slot holds a record (R573). -/
def State.nextSource (s : State) (d : Nat) : Option (Nat × TrcSlot) :=
  let l := s.trc.slots.filter fun p => sourceDie p.1 == d && p.2.rec_.isSome
  match tfind s.trc.turn d with
  | some t => (l.find? fun p => t < p.1).or l.head?
  | none => l.head?

/-- DETAIL of an OVERFLOW record (R571). -/
def TrcSlot.lost (x : TrcSlot) : List Byte := leBytes 4 x.drops ++ leBytes 6 x.first ++ leBytes 6 x.last

/-- A slot that has emptied: an OVERFLOW record comes first where events were dropped (R571). -/
def State.slotRefill (s : State) (key : Nat) (x : TrcSlot) : State :=
  if x.drops = 0 || !s.traceOn 14 0 then s.setTraceSlot key { x with rec_ := none }
  else
    (s.setTraceSlot key {
      rec_ := some (traceRec s.ts 14 5 (sourceNo key) 0 key 0 x.seq x.lost)
      seq := (x.seq + 1) % 65536 }).raise TRC_EVENT_OVERFLOW

/-- TRACE_COLLECT (R573): the collector of die `d` takes one record; a full buffer takes none. -/
def execTraceCollect (d : Nat) (s : State) : Host.Outcome State Fault Refusal :=
  if 32768 ≤ s.trc.buf.length then .next s
  else match s.nextSource d with
    | some (key, x) =>
      .next ({ s with trc := { s.trc with
        buf := s.trc.buf ++ x.rec_.toList
        turn := tput s.trc.turn d key } }.slotRefill key x)
    | none => .next s

/-- CRC-32 of IEEE 802.3, the FCS of a frame. -/
def crc32 (l : List Byte) : Nat :=
  (l.foldl (fun c b => iterN (crcStepR 0xEDB88320) 8 (c ^^^ b.toNat)) 0xFFFFFFFF) ^^^ 0xFFFFFFFF

/-- A Saffron frame on lane `l` (R575, Table 19.3). -/
def State.saffronFrame (s : State) (typ l count tile off len : Nat) (body : List Byte) : List Byte :=
  let f := beBytes 6 (s.get TRC_SAFFRON_CFG_DST_MAC) ++ beBytes 6 (s.get TRC_SAFFRON_SRC_SRC_MAC) ++
    beBytes 2 (s.get TRC_SAFFRON_SRC_ETYPE) ++ beBytes 2 typ ++ beBytes 2 (s.get LNK_SELF_ID) ++ beBytes 1 l ++
    beBytes 1 count ++ beBytes 2 0 ++ beBytes 4 (mget 0 s.trc.seqs l % 2 ^ 32) ++ beBytes 8 s.ts ++ beBytes 2 tile ++
    beBytes 2 0 ++ beBytes 4 off ++ beBytes 2 len ++ beBytes 2 0 ++ body
  f ++ leBytes 4 (crc32 f)

/-- The next lane, in turn, that is up and enabled (R575). -/
def State.saffronLane (s : State) : Option Nat :=
  ([1, 2, 3, 4].map fun k => (s.trc.lane + k) % 4).find? fun l =>
    bit (s.get TRC_STATUS_LANES_UP) l && bit (s.get TRC_SAFFRON_CFG_LANE_EN) l

/-- A frame goes out on lane `l`. -/
def State.saffronPut (s : State) (l : Nat) (f : List Byte) : State :=
  { s with trc := { s.trc with
      lane := l, frames := tput s.trc.frames l f, seqs := tput s.trc.seqs l ((mget 0 s.trc.seqs l + 1) % 2 ^ 32) } }

/-! ### The scan image (R581, Table 19.4) -/

/-- Bytes of one tile's image. -/
def imageSize : Nat := 278528

/-- Byte `k` of the number `n`, stored little-endian. -/
def byteOf (n k : Nat) : Byte := BitVec.ofNat 8 (n / 2 ^ (8 * k))

/-- Special register `n` as an image shows it; bit and number as MFS reads it. -/
def State.specialOf (s : State) (t : Nat) (c : Ctx) (n : Nat) : Nat := s.special { tile := t, ctx := c } n

/-- Byte `o` of the area of context `c`. -/
def State.ctxByte (s : State) (t : Nat) (c : Ctx) (o : Nat) : Byte :=
  let k := s.ctx t c
  if o < 0x100 then byteOf (k.rd (BitVec.ofNat 5 (o / 8))).toNat (o % 8)
  else if o < 0x200 then
    let j := (o - 0x100) / 8
    byteOf (if j = 0 then k.pc.toNat else match ([0x00, 0x08, 0x09, 0x0A, 0x0B, 0x0C, 0x0D, 0x11, 0x13] : List Nat)[j - 1]? with
      | some n => s.specialOf t c n
      | none => 0) (o % 8)
  else if o < 0x600 then byteOf (k.vec (BitVec.ofNat 4 ((o - 0x200) / 64))).toNat (o % 64)
  else if o < 0x800 then byteOf (k.acc (BitVec.ofNat 2 ((o - 0x600) / 128))).toNat (o % 128)
  else if o < 0x880 then k.xacc.image.getD (o - 0x800) 0
  else if o < 0x888 then byteOf k.vcsr.toNat (o % 8)
  else if o < 0x8A8 then
    byteOf (([k.check.poly, k.check.init, k.check.run, k.check.cfg] : List Nat).getD ((o - 0x888) / 8) 0) (o % 8)
  else if 0x900 ≤ o && o < 0xB00 then
    byteOf (s.cursorView t (handleNo c ((o - 0x900) / 64)) (o / 8 % 8)) (o % 8)
  else 0

/-- A register of the tile's control range as an image shows it: a write-only one as 0. -/
def State.tileRegByte (s : State) (t o : Nat) : Byte :=
  if o / 8 = 4 then 0 else byteOf (s.regView (TILE_ROLE t + o / 8 * 8)) (o % 8)

/-- Byte `o` of the tile-wide area. -/
def State.wideByte (s : State) (t o : Nat) : Byte :=
  let u := (s.tile t).topk
  if o < 0x100 then
    match ([0x01, 0x02, 0x03, 0x04, 0x05, 0x06, 0x07, 0x0E, 0x0F, 0x10, 0x12, 0x14] : List Nat)[o / 8]? with
    | some n => byteOf (s.specialOf t .S n) (o % 8)
    | none => 0
  else if o < 0x178 then s.tileRegByte t (o - 0x100)
  else if 0x200 ≤ o && o < 0x220 then
    byteOf (([u.k, u.t, u.top.length, if 4096 < u.m then 1 else 0] : List Nat).getD ((o - 0x200) / 8) 0) (o % 8)
  else 0

/-- Byte `o` of the image of tile `t`. -/
def State.scanByte (s : State) (t o : Nat) : Byte :=
  if o < 0x30000 then s.byte (localPa t o)
  else if o < 0x31000 then s.ctxByte t .S (o - 0x30000)
  else if o < 0x32000 then s.ctxByte t .W (o - 0x31000)
  else if o < 0x3A000 then
    match (s.tile t).topk.top[(o - 0x32000) / 8]? with
    | some p => byteOf (p.1 % 2 ^ 32 + p.2 % 2 ^ 32 * 2 ^ 32) (o % 8)
    | none => 0
  else if o < 0x3E000 then
    match (s.tile t).inq[(o - 0x3A000) / 512]? with
    | some m => (m.header (s.routeOf m) ++ m.payload).getD (o % 512) 0
    | none => 0
  else if o < 0x42000 then ((s.tile t).rmq.getD ((o - 0x3E000) / 512) []).getD (o % 512) 0
  else if o < imageSize then s.wideByte t (o - 0x42000)
  else 0

/-- The `n` bytes of the image of tile `t` from offset `o`. -/
def State.scanBytes (s : State) (t o n : Nat) : List Byte := (List.range n).map fun k => s.scanByte t (o + k)

/-! ### Scans (R581) -/

/-- A scan of `count` tiles from `first` starts, or completes with the status of the check that fails. -/
def State.scanBegin (s : State) (first count : Nat) (saffron : Bool) : State :=
  if !s.on SEC_STATE_DEBUG_OPEN then s.put TRC_SCAN_STATUS_RESULT stACCESS
  else if s.trc.scan.isSome || !(s.trc.halted && s.on TRC_HALT_STATUS_ALL) then s.put TRC_SCAN_STATUS_RESULT stBUSY
  else
    let n := min (max 1 count) (4096 - first)
    let s1 := ((s.put TRC_SCAN_STATUS_BUSY 1).put TRC_SCAN_STATUS_TILE first).put TRC_STATUS_SCAN_BUSY 1
    { s1 with trc := { s1.trc with scan := some ⟨first, n, 0, saffron⟩ } }

/-- SCAN_START (R581): a write of TRC_SCAN_CMD with GO. -/
def execScanStart (r : Requester) (s : State) : Host.Outcome State Fault Refusal :=
  if s.privReq r then
    .next (s.scanBegin (s.get TRC_SCAN_CFG_FIRST) (s.get TRC_SCAN_CFG_COUNT) (s.on TRC_SCAN_CFG_TARGET))
  else .next s

/-- SCAN_COMPLETE (R581): every image has gone out. -/
def execScanComplete (s : State) : Host.Outcome State Fault Refusal :=
  match s.trc.scan with
  | some x =>
    if x.left = 0 then
      let s1 := (((s.put TRC_SCAN_STATUS_BUSY 0).put TRC_SCAN_STATUS_RESULT stOK).put TRC_STATUS_SCAN_BUSY 0).raise
        TRC_EVENT_SCAN_DONE
      .next { s1 with trc := { s1.trc with scan := none } }
    else .next s
  | none => .next s

/-- The scan has passed `n` units of an image of `size` units. -/
def State.scanStep (s : State) (x : Scan) (n size : Nat) : State :=
  if x.offset + n < size then { s with trc := { s.trc with scan := some { x with offset := x.offset + n } } }
  else
    let s1 := if x.left = 1 then s else s.put TRC_SCAN_STATUS_TILE (x.tile + 1)
    { s1 with trc := { s1.trc with scan := some { x with tile := x.tile + 1, left := x.left - 1, offset := 0 } } }

/-- SAFFRON_FRAME_SEND (R572, R575): a SCAN frame if a scan to the port has bytes left, else a TRACE frame of up to 31
records. -/
def execSaffronFrameSend (s : State) : Host.Outcome State Fault Refusal :=
  match s.saffronLane with
  | none => .next s
  | some l =>
    match s.trc.scan.filter fun x => x.saffron && 0 < x.left with
    | some x =>
      let n := min 992 (imageSize - x.offset)
      .next ((s.saffronPut l (s.saffronFrame 2 l 0 x.tile x.offset n (s.scanBytes x.tile x.offset n))).scanStep x n imageSize)
    | none =>
      if s.trc.buf.isEmpty then .next s
      else
        let rs := s.trc.buf.take 31
        let s1 := (s.saffronPut l (s.saffronFrame 1 l rs.length 0 0 0 rs.flatten)).bump TRC_RECORDS_VAL rs.length
        .next { s1 with trc := { s1.trc with buf := s.trc.buf.drop 31 } }

/-- SAFFRON_LANE_DOWN (R575). -/
def execSaffronLaneDown (l : Nat) (s : State) : Host.Outcome State Fault Refusal :=
  if bit (s.get TRC_STATUS_LANES_UP) l then
    .next ((s.put TRC_STATUS_LANES_UP (clearMask (s.get TRC_STATUS_LANES_UP) (2 ^ l))).raise TRC_EVENT_LANE_DOWN)
  else .next s

/-- TRACE_MARK (R567, Table 19.2): a write of TRC_MARK. -/
def execTraceMark (r : Requester) (val : Nat) (s : State) : Host.Outcome State Fault Refusal :=
  if s.privReq r then .next (s.trace 13 6 srcUnit 0 0 0 (leBytes 8 val)) else .next s

/-! ### The trigger (R576, R577, R580) -/

/-- Whether counters are frozen. -/
def State.frozen (s : State) : Bool := s.on TRC_STATUS_FROZEN

/-- The fired unit returns to IDLE where no tile is halted and the counters are not frozen (R580). -/
def State.trigIdle (s : State) : State :=
  if s.get TRC_TRIG_STATUS_STATE = 2 && !s.trc.halted && !s.trc.haltDue && !s.frozen && !s.trc.freezeDue then
    s.put TRC_TRIG_STATUS_STATE 0
  else s

/-- A write of TRC_TRIG_CFG (R576). -/
def State.trigCfgWrite (s : State) (val : Nat) : State :=
  let v := val &&& 0x70F
  if bit val 0 then
    if s.frozen || s.trc.halted then s
    else
      let s1 := (s.setReg TRC_TRIG_CFG v).setReg TRC_TRIG_STATUS 1
      s1.raiseIf (bit val 2 && s.get TRC_TRIG_PICK_VAL ≤ s.get PICK_NUMBER_NUMBER) TRC_EVENT_TRIG_MISSED
  else s.setReg TRC_TRIG_CFG v

/-- TRIGGER_ARM (R576): a write of TRC_TRIG_CFG. -/
def execTriggerArm (r : Requester) (val : Nat) (s : State) : Host.Outcome State Fault Refusal :=
  if s.privReq r then .next (s.trigCfgWrite val) else .next s

/-- FIRE of the armed trigger. -/
def State.trigFire (s : State) : State := if s.get TRC_TRIG_STATUS_STATE = 1 then s.fire 1 else s

/-- THAW (R577): the freeze ends. -/
def State.thaw (s : State) : State :=
  if s.frozen then
    let s1 := s.put TRC_STATUS_FROZEN 0
    ({ s1 with trc := { s1.trc with snap := [] } }).trigIdle
  else s

/-- RESUME (R580): halted tiles are released at the next wall. -/
def State.trigResume (s : State) : State :=
  if s.trc.halted || s.trc.haltDue then { s with trc := { s.trc with resumeDue := true } } else s

/-- TRIGGER_CMD_FIRE (R576). -/
def execTriggerCmdFire (r : Requester) (s : State) : Host.Outcome State Fault Refusal :=
  if s.privReq r then .next s.trigFire else .next s

/-- TRIGGER_CMD_THAW (R577). -/
def execTriggerCmdThaw (r : Requester) (s : State) : Host.Outcome State Fault Refusal :=
  if s.privReq r then .next s.thaw else .next s

/-- TRIGGER_CMD_RESUME (R580). -/
def execTriggerCmdResume (r : Requester) (s : State) : Host.Outcome State Fault Refusal :=
  if s.privReq r then .next s.trigResume else .next s

/-- FREEZE_PIN_EDGE (R576): a falling edge on FREEZE_N. -/
def execFreezePinEdge (s : State) : Host.Outcome State Fault Refusal :=
  if s.get TRC_TRIG_STATUS_STATE = 1 && s.on TRC_TRIG_CFG_SRC_PIN then .next (s.fire 2) else .next s

/-- Every counter is captured (R577): the registers, and the DB_BAD bits of the queues. -/
def State.snapshot (s : State) : State :=
  let bad := s.rings.queues.filter fun p => p.2.dbBad && p.2.state != 0
  let m := bad.foldl (fun m p => tput m (RING_Q_STATUS (p.1 / 4096) (p.1 % 4096)) 16) s.csr
  let s1 := s.put TRC_STATUS_FROZEN 1
  { s1 with trc := { s1.trc with snap := m, freezeDue := false } }

/-- FREEZE_SNAPSHOT (R577). -/
def execFreezeSnapshot (s : State) : Host.Outcome State Fault Refusal :=
  if s.trc.freezeDue then .next s.snapshot else .next s

/-! ### HALT_ALL (R578) -/

/-- No tile issues an instruction from here on. -/
def State.haltNow (s : State) : State := { s with trc := { s.trc with halted := true, haltDue := false } }

/-- HALT_ALL (R578): the halt that a trigger or JTAG has ordered. -/
def execHaltAll (s : State) : Host.Outcome State Fault Refusal := if s.trc.haltDue then .next s.haltNow else .next s

/-- HALT_COMPLETE (R578): every tile, spares included, shows HALTED. -/
def execHaltComplete (s : State) : Host.Outcome State Fault Refusal :=
  if s.trc.halted && s.on TRC_HALT_STATUS_HALTING then
    .next ((s.setReg TRC_HALT_STATUS (4160 + 2 ^ 13)).raise TRC_EVENT_HALTED)
  else .next s

/-- A HALT is ordered. -/
def State.haltOrder (s : State) : State :=
  if s.trc.halted then s
  else
    let s1 := s.put TRC_HALT_STATUS_HALTING 1
    { s1 with trc := { s1.trc with haltDue := true } }

/-! ### JTAG (R582, R528) -/

/-- The TAP takes instruction `ir`, and shifts `tdo` out. -/
def State.jtag (s : State) (ir tdo : Nat) : State := { s with trc := { s.trc with ir := ir, tdo := tdo } }

/-- An instruction that acts only once debug is open (R528): until then it acts as BYPASS. -/
def State.jtagOpen (s : State) (ir : Nat) (f : State → State) : Host.Outcome State Fault Refusal :=
  if s.on SEC_STATE_DEBUG_OPEN then .next (f (s.jtag ir 0)) else .next (s.jtag ir 0)

/-- JTAG_IDCODE (Table 19.5). -/
def execJtagIdcode (s : State) : Host.Outcome State Fault Refusal :=
  .next (s.jtag 0x01 (1 + Config.jtagMaker % 2 ^ 11 * 2 + 0xD409 * 2 ^ 12 + Config.siliconRev % 16 * 2 ^ 28))

/-- JTAG_UNLOCK (R528). -/
def execJtagUnlock (s : State) : Host.Outcome State Fault Refusal := .next (s.jtag 0x10 0).unlock

/-- JTAG_HALT (R578). -/
def execJtagHalt (s : State) : Host.Outcome State Fault Refusal := s.jtagOpen 0x11 (·.haltOrder)

/-- JTAG_RESUME (R580). -/
def execJtagResume (s : State) : Host.Outcome State Fault Refusal := s.jtagOpen 0x12 (·.trigResume)

/-- JTAG_SCAN_SEL (R581): FIRST and COUNT, and a scan to SCAN_DATA. -/
def execJtagScanSel (val : Nat) (s : State) : Host.Outcome State Fault Refusal :=
  s.jtagOpen 0x20 (·.scanBegin (bits val 0 12) (bits val 12 13) false)

/-- Shift `n` bits of the image stream out, lowest first. -/
def State.scanShift : Nat → State → State × List Bool
  | 0, s => (s, [])
  | n + 1, s =>
    match s.trc.scan.filter fun x => !x.saffron && 0 < x.left with
    | some x =>
      let b := (s.scanByte x.tile (x.offset / 8)).getLsbD (x.offset % 8)
      let r := State.scanShift n (s.scanStep x 1 (8 * imageSize))
      (r.1, b :: r.2)
    | none => (s, [])

/-- JTAG_SCAN_DATA (Table 19.5): `n` bits, byte 0 first, the least significant bit first. -/
def execJtagScanData (n : Nat) (s : State) : Host.Outcome State Fault Refusal :=
  s.jtagOpen 0x21 fun s =>
    let r := State.scanShift n s
    r.1.jtag 0x21 ((r.2.zipIdx.map fun p => if p.1 then 2 ^ p.2 else 0).sum)

/-- JTAG_BYPASS. -/
def execJtagBypass (s : State) : Host.Outcome State Fault Refusal := .next (s.jtag 0xFF 0)

end Sys2Proof.Machine
end

