-- ==== Sys2Proof/Machine/Power.lean ====
section
/-! DEFINITION. Resets and start-up, trips, the power controller, pacing registers, modules and the management bus
(20_power_clocks_startup.md R586 to R605, 21_connectors_mechanical.md R614 to R618). -/
namespace Sys2Proof.Machine
open Sys2Proof

/-! ### What a reset keeps (R137, R275, R457, R510, R536, R597, R598) -/

/-- The bits of the fields of the given access types. -/
def RegDef.mask (d : RegDef) (p : Acc → Bool) : Nat := ((d.flds.filter fun f => p f.acc).map fun f => ones f.lo f.w).sum

/-- The bits of a register in fields of the given access types. -/
def accMask (a : Nat) (p : Acc → Bool) : Nat := ((regFind a).map fun d => d.mask p).getD 0

/-- The RWS bits of a register, and the bits that a write sets. -/
def rwsMask (a : Nat) : Nat := accMask a (· == .rws)
def rwMask (a : Nat) : Nat := accMask a fun x => x == .rw || x == .rws

/-- The written bits that wait for the wall stand in their registers (R32). -/
def State.foldLater (s : State) : State :=
  { s.later.foldl (fun s p => s.setReg p.1 (clearMask (s.reg p.1) (rwMask p.1) ||| (p.2 &&& rwMask p.1))) s with later := [] }

/-- The bits of a register that stand in fuses, flash or the battery-backed store: they survive every reset. -/
def storeMask (a : Nat) : Nat :=
  if a = SEC_STATE then 2 ^ 64 - 1 - 4
  else if a = SEC_ARB || a = SEC_TAMPER_STATUS || (SEC_TAMPER_LOG 0 0 ≤ a && a < SEC_TAMPER_LOG 16 0) ||
      a = PWR_FW_STATUS || a = PWR_LAST_TRIP then 2 ^ 64 - 1
  else 0

/-- The bits of a register that a warm reset keeps: RWS fields, the stores, the sparing and shift state, the memory
markings, the roots of translation and the partition mode. -/
def warmMask (a : Nat) : Nat :=
  if (TILE_SPARE_MAP 0 ≤ a && a < TILE_BYPASS 65) || (TILE_FAILED 0 ≤ a && a < TILE_FAILED 64) ||
      (LNK_SHIFT_MAP 0 ≤ a && a < LNK_SHIFT_MAP 4) || a = INST_CFG || (MEM_STACK 0 ≤ a && a < MEM_STACK 16) ||
      (MEM_FAR 0 ≤ a && a < MEM_FAR 48) || (XLT_ROOT 0 ≤ a && a < XLT_ROOT 4096) then 2 ^ 64 - 1
  else if LNK_LANE 0 ≤ a && a < LNK_LANE 96 then ones 7 6
  else storeMask a ||| rwsMask a

/-- The registers after a reset that keeps the bits of `mask`. -/
def State.keptCsr (s : State) (mask : Nat → Nat) : SMap Nat :=
  s.csr.filterMap fun p =>
    let v := (p.2 &&& mask p.1) ||| clearMask (regReset p.1) (mask p.1)
    if v = regReset p.1 then none else some (p.1, v)

/-- Everything volatile is gone; what stays: kept registers, flash slots, the modules, the security block's stores, and
what lies outside the card. -/
def State.blank (s : State) (mask : Nat → Nat) : State := {
  pending := s.pending, hostMem := s.hostMem, hostBad := s.hostBad, free := s.free, time := s.time, bus := s.bus
  csr := s.keptCsr mask
  rel := { slotA := s.rel.slotA, slotB := s.rel.slotB }
  sec := { s.sec with ctxs := [] }
  pow := { up := s.pow.up, modules := s.pow.modules } }

/-! ### Start-up (R601 to R604) -/

/-- Start-up stops at a step with a code of Table 20.7. -/
def State.bootFail (s : State) (step code : Nat) : State :=
  (((s.put PWR_BOOT_STATUS_STEP step).put PWR_BOOT_STATUS_FAIL 1).put PWR_BOOT_STATUS_CODE code).raise PWR_EVENT_BOOT_FAIL

/-- Step 2: the result of the checkers (R272); which one failed first, and on which pattern, is not the model's to know. -/
def State.selfTest (s : State) (ok : Bool) : State :=
  if ok then s.setReg MEM_SELFTEST 3
  else (s.setReg MEM_SELFTEST (1 + Config.freeNat s.free % 2 ^ 9 * 4 + Config.freeNat (s.free + 1) % 2 ^ 16 * 2 ^ 16)).tick.tick

/-- Step 5, tiles (R123): the spare of a column stands in for its bad tile. -/
def State.spareTile (s : State) (p : Nat × Nat) : State :=
  if p.2 = 64 then s.put (TILE_SPARE_MAP_SPARE_BAD p.1) 1 else s.put (TILE_SPARE_MAP_SUB_ROW p.1) p.2

/-- The tiles served by a spare show SPARED; FAILED tiles stay FAILED (R137); a mirror whose router is in bypass stays
lost (R554). -/
def State.showSpares (s : State) : State :=
  let s1 := (List.range 64).foldl (fun s x =>
    let y := s.get (TILE_SPARE_MAP_SUB_ROW x)
    if y < 64 then s.raise (TILE_STATE_SPARED (logicalOf x y)) else s) s
  let s2 := (List.range 64).foldl (fun s n =>
    let w := s.reg (TILE_FAILED n)
    if w = 0 then s
    else ((List.range 64).filter fun k => bit w k).foldl (fun s k => s.put (TILE_STATE_STATE (64 * n + k)) 7) s) s1
  (List.range 65).foldl (fun s y =>
    let w := s.reg (TILE_BYPASS y)
    if w = 0 then s
    else ((List.range 64).filter fun k => bit w k).foldl (fun s x =>
      match s.logicalAt x ((y + 64) % 65) with
      | some u => s.setReg (PWR_REL_UNMIRRORED (u / 64)) (s.reg (PWR_REL_UNMIRRORED (u / 64)) ||| 2 ^ (u % 64))
      | none => s) s) s2

/-- Step 5, a near-tier stack with `l` its bad dies (R266, Table 20.7): the state, and whether it is in ERASURE. -/
def State.spareStack (s : State) (k : Nat) (l : List Nat) : State :=
  let mark (s : State) (d : Nat) : State :=
    ({ s with memu := { s.memu with failedUnits := (k * 32 + d) :: s.memu.failedUnits } }.put (MEM_STACK_FAILED_DIE k) d).raise
      (MEM_STACK_SPARE_USED k)
  match l with
  | [] => s
  | [d] => mark s d
  | d :: e :: _ => (mark (mark s d) e).raise (MEM_STACK_ERASURE k)

/-- Step 5, memory: none where a stack or a channel cannot be made usable (code 0x04), else the state and the DEGRADED
code, or 0. -/
def State.spareMemory (s : State) (b : Boot) : Option (State × Nat) :=
  let dies (k : Nat) : List Nat := ((b.dies.filter fun p => p.1 == k).map (·.2)).eraseDups
  let devs (c : Nat) : List Nat := ((b.devices.filter fun p => p.1 == c).map (·.2)).eraseDups
  let stks := List.range 16
  let chans := (List.range 48).filter fun c => devs c != []
  if (stks.any fun k => 3 ≤ (dies k).length) || ([0, 1, 2, 3].any fun d => 2 ≤ (chans.filter fun c => c / 12 == d).length) then
    none
  else
    let s1 := stks.foldl (fun s k => s.spareStack k (dies k)) s
    let s2 := chans.foldl (fun s c => (s.useFarSpare c).put (MEM_FAR_PHYS c) (13 * (c / 12) + 12)) s1
    some (s2, if stks.any fun k => (dies k).length == 2 then 3 else if chans.any fun c => 2 ≤ (devs c).length then 5 else 0)

/-- Step 6: whether slot `k` passes its signature and the load rule (R533). -/
def State.slotOk (s : State) (b : Boot) (k : Nat) : State × Bool :=
  if (if k = 0 then b.sigA else b.sigB) then s.svnCheck (s.slotSvn k) else (s, false)

/-- Step 6: the slot to boot (R561): one marked TRIAL that has not run, else a GOOD one, the running one first. -/
def State.pickSlot (s : State) (b : Boot) : State × Option Nat :=
  let r := s.runSlot
  let l := ((if s.slotState (1 - r) = 2 then [1 - r] else []) ++ ([r, 1 - r].filter fun k => s.slotState k == 3))
  l.foldl (fun (a : State × Option Nat) k =>
    match a.2 with
    | some _ => a
    | none =>
      let x := a.1.slotOk b k
      (x.1, if x.2 then some k else none)) (s, none)

/-- Slot `k` is booted; a TRIAL slot runs as such from now on (R561). -/
def State.bootSlot (s : State) (k : Nat) : State :=
  let s1 := (s.runSlotIs k).put PWR_BOOT_STATUS_SLOT k
  { s1 with rel := { s1.rel with trialAt := s1.time } }

/-- Start-up gives tile `t` a role, without an advance of its epoch (R126). -/
def State.bootRole (s : State) (t role : Nat) : State :=
  if s.get (TILE_STATE_STATE t) = 7 then s
  else
    let p := Config.fwProgram s.runImage role
    let s1 := ((s.put (TILE_ROLE_ROLE t) role).clearTile t (Config.fwEntry s.runImage role)).loadStore t p
    (s1.setTile t { s1.tile t with image := p }).put (TILE_STATE_STATE t) 5

/-- The manager pairs are loaded (R38): a FAILED tile takes no part. -/
def State.bootPairs (s : State) : State :=
  let bad (t : Nat) : Bool := s.get (TILE_STATE_STATE t) == 7
  let s1 := [0, 1, 2, 3].foldl (fun s d => (s.bootRole (1024 * d) 1).bootRole (1024 * d + 1) 1) s
  { s1 with til := { s1.til with
    mgrAlone := [0, 1, 2, 3].filter fun d => bad (1024 * d) || bad (1024 * d + 1)
    mgrSwap := [0, 1, 2, 3].filter fun d => bad (1024 * d)
    mgrLost := [0, 1, 2, 3].filter fun d => bad (1024 * d) && bad (1024 * d + 1) } }

/-- Step 7 (R437): a spare takes the place of each lane position whose macro fails; a position with none left is DOWN
with cause COMMAND. -/
def State.bootMacro (s : State) (p : Nat × Nat) : State :=
  match (List.range 24).find? fun k => s.get (LNK_LANE_MACRO (24 * p.1 + k)) == p.2 with
  | none => s
  | some k =>
    match s.laneSpare p.1 with
    | some j => s.takeSpare (24 * p.1 + k) j
    | none => (s.put (LNK_LANE_STATE (24 * p.1 + k)) 3).put (LNK_LANE_CAUSE (24 * p.1 + k)) 5

/-- Step 7 as a whole. -/
def State.bootLanes (s : State) (l : List (Nat × Nat)) : State :=
  let s1 := (l.filter fun p => 24 ≤ p.2).foldl (fun s p =>
    if p.2 = 24 then s.raise (LNK_SHIFT_MAP_SPARE0_BAD p.1) else s.raise (LNK_SHIFT_MAP_SPARE1_BAD p.1)) s
  l.foldl (fun s p => s.bootMacro p) s1

/-- Step 8: the instances of the mode are created (R50, R510). -/
def State.bootInst (s : State) (i : Nat) : State :=
  ((s.put (INST_STATE_STATE i) 1).put (INST_STATE_FUNCTION i) i).bootRole (i * s.blockTiles + 2) 2

/-- READY: the cages that are enabled train, Saffron lanes are up, and the adapter joins where AUTO_JOIN says so (R604). -/
def State.bootReady (s : State) (b : Boot) (code : Nat) : State :=
  let s1 := ((s.put PWR_BOOT_STATUS_STEP 8).put PWR_BOOT_STATUS_READY 1).raise PWR_EVENT_READY
  let s2 := if code = 0 then s1
    else ((s1.put PWR_BOOT_STATUS_DEGRADED 1).put PWR_BOOT_STATUS_CODE code).raise PWR_EVENT_DEGRADED
  let s3 := (s2.pow.modules.foldl (fun s m => s.put (LNK_CAGE_STATUS_MODULE m.1) 1) s2).put TRC_STATUS_LANES_UP b.saffron
  let s4 := (List.range 12).foldl (fun s c => if s.on (LNK_CAGE_CFG_ENABLE c) then s.trainCage c else s) s3
  if s4.on PWR_BOOT_CFG_AUTO_JOIN && s4.get PICK_SYNC_CFG_DOMAIN_ID != 0 then s4.put PICK_CTRL_JOIN 1 else s4

/-- Whether a column has two bad tiles, or a router failed (code 0x06). -/
def bootColumnBad (b : Boot) : Bool :=
  b.router || (List.range 64).any fun x => 2 ≤ ((b.tiles.filter fun p => p.1 == x).eraseDups).length

/-- The start-up sequence (Table 20.6), from step 2 on, with what it finds. -/
def State.startUp (s : State) (b : Boot) (cold : Bool) : State :=
  let s1 := s.selfTest b.checkers
  if !b.checkers then s1.bootFail 2 1
  else if !b.trained then s1.bootFail 3 2
  else if cold && bootColumnBad b then s1.bootFail 5 6
  else
    let s2 := (if cold then b.tiles.foldl (fun s p => s.spareTile p) s1 else s1).showSpares
    match if cold then s2.spareMemory b else some (s2, 0) with
    | none => s2.bootFail 5 4
    | some (s3, code) =>
      match s3.pickSlot b with
      | (s4, none) => s4.bootFail 6 8
      | (s4, some k) =>
        let s5 := ((s4.bootSlot k).bootPairs).bootLanes b.macros
        let dark := (List.range 96).any fun l => s5.get (LNK_LANE_STATE l) == 3
        let s6 := (List.range s5.nInst).foldl (fun s i => s.bootInst i) s5
        s6.bootReady b (if code = 0 && dark then 7 else code)

/-! ### Resets (R596 to R600) -/

/-- A running TRIAL slot is reverted by any reset (R561). -/
def State.dropTrial (s : State) : State := if s.slotState s.runSlot = 2 then s.put (slotFld s.runSlot) 4 else s

/-- FW_REVERTED, where the reset has reverted a trial. -/
def State.showRevert (s old : State) : State := s.raiseIf (old.slotState old.runSlot == 2) PWR_REL_EVENT_FW_REVERTED

/-- The keys at power-up (R514, R529): ZEROIZED ends; without a good BKEK the card must be provisioned again. -/
def State.keysAtPower (s : State) (good : Bool) : State :=
  let had := s.get SEC_STATE_KEYS != 0 || s.sec.ds != 0
  let ok := good && s.sec.bkek != 0 && s.get SEC_STATE_KEYS != 2
  let s1 : State := { s.tick with sec := { s.sec with
    zeroing := false, opening := false, rkLatch := false, drbgStopped := false
    secs := Config.freeNat s.free, secsAt := s.time } }
  let s2 := s1.put SEC_STATE_DRBG_OK 1
  if ok then s2.put SEC_STATE_KEYS 1
  else
    ((({ s2 with sec := { s2.sec with ds := 0, bkek := 0 } }).put SEC_STATE_KEYS 0).put SEC_STATE_DOMAIN_ID 0).raiseIf
      (had || !good) SEC_EVENT_KEY_LOST

/-- A cold reset: memory contents are lost, and TS starts again (R567, R597). -/
def State.coldState (s : State) : State :=
  let k := s.dropTrial.blank storeMask
  { k with
    trc := { zero := s.time }
    sec := { k.sec with createGen := [] } }

/-- A cold reset with its start-up; `last` is PWR_BOOT_STATUS.LAST_RESET. -/
def State.coldBoot (s : State) (b : Boot) (last : Nat) : State :=
  (s.coldState.put PWR_BOOT_STATUS_LAST_RESET last |>.startUp b true).showRevert s

/-- A warm reset: steps 1 to 7 of Table 15.3 for every instance, and memory and the state of R275 kept. -/
def State.warmState (s : State) : State :=
  let s0 : State := { s.dropTrial with warp := {}, rings := { s.rings with linkDown := true } }
  let s1 := ((List.range s0.nInst).filter fun i => s0.instExists i).foldl (fun s i => s.startReset i ⟨false, false, none⟩) s0
  let k := s1.foldLater.blank warmMask
  { k with
    mem := s1.mem.filter fun c => c.1 < 0x0F0000000000
    poison := s1.poison
    memu := {
      salts := s1.memu.salts, repairs := s1.memu.repairs, repaired := s1.memu.repaired
      rebuild := s1.memu.rebuild, failedUnits := s1.memu.failedUnits }
    xlt := { used := s1.xlt.used }
    qp := { s1.qp with notes := [] }
    trc := { zero := s1.trc.zero } }

/-- A warm reset with its start-up. -/
def State.warmBoot (s : State) (b : Boot) : State :=
  (s.warmState.put PWR_BOOT_STATUS_LAST_RESET 2 |>.startUp b false).showRevert s

/-- POWER_ON_RESET (R586, R601): the input is applied and power-good comes; keys and the TS start anew. -/
def execPowerOnReset (b : Boot) (s : State) : Host.Outcome State Fault Refusal :=
  let k := s.coldState
  let k1 : State := { k with pow := { k.pow with up := true } }
  .next (((k1.keysAtPower b.bkek).put PWR_BOOT_STATUS_LAST_RESET 0 |>.startUp b true).showRevert s)

/-- Whether a write of PWR_RESET_CMD asks for a reset of kind `k` (Table 20.8). -/
def State.resetAsked (s : State) (r : Requester) (val k : Nat) : Bool :=
  s.privReq r && bits val 16 16 == 0xA55A && bit val 63 && val % 4 == k

/-- COLD_RESET (R597, R598). -/
def execColdReset (r : Requester) (val : Nat) (b : Boot) (s : State) : Host.Outcome State Fault Refusal :=
  if s.resetAsked r val 2 then .next (s.coldBoot b 1) else .next s

/-- WARM_RESET (R597, R598, R600). -/
def execWarmReset (r : Requester) (val : Nat) (b : Boot) (s : State) : Host.Outcome State Fault Refusal :=
  if s.resetAsked r val 1 then .next (s.warmBoot b) else .next s

/-- PLL_LOCK_LOSS (R596). -/
def execPllLockLoss (b : Boot) (s : State) : Host.Outcome State Fault Refusal :=
  if s.pow.up then .next (s.coldBoot b 3) else .next s

/-! ### Power (R587, R591 to R593) -/

/-- POWER_TRIP (R587): the cause is recorded, and every rail but the battery domain goes down. -/
def execPowerTrip (cause value : Nat) (s : State) : Host.Outcome State Fault Refusal :=
  if !s.pow.up || cause = 0 || 6 < cause then .next s
  else
    let k := s.coldState
    .next ({ k with pow := { k.pow with up := false } }.setReg PWR_LAST_TRIP
      (cause + value % 2 ^ 16 * 2 ^ 16 + s.secsNow * 2 ^ 32))

/-- The alert and the throttle threshold in force of sensor class `k` (0 dies, 1 stacks, 2 far tier) (R593). -/
def State.alertAt (s : State) (k : Nat) : Nat :=
  match k with
  | 0 => min (s.get PWR_THERM_CFG_DIE_ALERT) 110
  | 1 => min (s.get PWR_THERM_CFG_STACK_ALERT) 100
  | _ => min (s.get PWR_THERM_CFG_FAR_ALERT) 105
def State.throttleAt (s : State) (k : Nat) : Nat :=
  let t := match k with
    | 0 => s.get PWR_THERM_CFG_DIE_THROTTLE
    | 1 => s.get PWR_THERM_CFG_STACK_THROTTLE
    | _ => s.get PWR_THERM_CFG_FAR_THROTTLE
  if s.alertAt k ≤ t then s.alertAt k - 1 else t

/-- The limit in force, in W (Table 20.8). -/
def State.limitW (s : State) : Nat := max 300 (min 700 (s.get PWR_LIMIT_CFG_LIMIT_W))

/-- The hottest reading of class `k`. -/
def hottest (m : Reading) (k : Nat) : Nat :=
  match k with
  | 0 => m.dies.foldl max 0
  | 1 => m.stack
  | _ => m.far

/-- A demand after a 100 us window: down by 10, up by 5, or as it was. -/
def demand (d : Nat) (down up : Bool) : Nat := if down then d - 10 else if up then min 100 (d + 5) else d

/-- What the registers show of a measurement. -/
def State.measured (s : State) (m : Reading) : State :=
  let s1 := (s.setReg PWR_STATUS (m.vin % 2 ^ 16 + m.pin % 2 ^ 16 * 2 ^ 16)).setReg PWR_TEMP
    (leNat ((List.range 4).map fun d => BitVec.ofNat 8 (m.dies.getD d 0)) + m.stack % 2 ^ 8 * 2 ^ 32 + m.far % 2 ^ 8 * 2 ^ 40)
  (s1.put PWR_SLEW_MAX_MA_PER_US (max (s1.get PWR_SLEW_MAX_MA_PER_US) (min m.slew 65535))).bump PWR_ENERGY_VAL m.joules

/-- POWER_CONTROL_TICK (R591, R592): the demands, CC_THROTTLE.WEFT_PCT and ALERT. -/
def execPowerControlTick (m : Reading) (s : State) : Host.Outcome State Fault Refusal :=
  if !s.pow.up then .next s
  else
    let p := s.pow
    let old := s.get CC_THROTTLE_WEFT_PCT
    let over_ := s.limitW * 10 < m.pin
    let calm := if m.pin < (s.limitW - s.get PWR_LIMIT_CFG_HYST_W) * 10 then p.calm + 1 else 0
    let hot := [0, 1, 2].any fun k => s.throttleAt k ≤ hottest m k
    let cool := [0, 1, 2].map fun k => (k, if hottest m k + 3 ≤ s.throttleAt k then mget 0 p.cool k + 1 else 0)
    let rested := cool.all fun c => 10 ≤ c.2
    let power := demand p.power over_ (10 ≤ calm)
    let heat := demand p.heat hot rested
    let pct := min power heat
    let spent := if old = 0 then p.spent + 1 else 0
    let alert := (10 ≤ spent && over_) || [0, 1, 2].any fun k => s.alertAt k ≤ hottest m k
    let member := s.get PICK_STATUS_STATE == 4 || s.get PICK_STATUS_STATE == 5
    let s1 := ((s.measured m).put CC_THROTTLE_WEFT_PCT pct).raiseIf (old == 100 && pct < 100) PWR_EVENT_THROTTLE
    let s2 := if old < 100 then s1.bump PWR_THROTTLE_US_VAL 100 else s1
    let s3 := s2.raiseIf (alert && !p.alert) PWR_EVENT_ALERT
    .next { s3 with
      pow := { s3.pow with
        power := power, heat := heat, calm := if 10 ≤ calm then 0 else calm
        cool := if rested then [] else cool.filter fun c => c.2 != 0
        spent := spent, alert := alert }
      dom := { s3.dom with alertOwn := alert && member } }

/-! ### Pacing (R588) -/

/-- A write of PWR_PACE_CFG. -/
def State.paceCfgWrite (s : State) (val : Nat) : State :=
  let v := val &&& 0x1FFF003F
  if v != s.reg PWR_PACE_CFG && (s.on WARP_STATUS_HAS_ACTIVE || s.get WARP_STATUS_SHADOW_STATE != 0) then
    s.raise PWR_EVENT_PACE_REFUSED
  else s.setReg PWR_PACE_CFG v

/-- PACE_CFG_WRITE (R588). -/
def execPaceCfgWrite (r : Requester) (val : Nat) (s : State) : Host.Outcome State Fault Refusal :=
  .next (if s.privReq r then s.paceCfgWrite val else s)

/-- Bytes `lo` to `lo + k - 1` of PWR_PACE_MAP[n] are written from those of `val`: the byte of a tile in the scheduled set
of a bank stays. -/
def State.paceMapWrite (s : State) (n val lo k : Nat) : State :=
  ((List.range k).map (lo + ·)).foldl (fun s j =>
    if s.warp.sets.any fun w => bit w.sched (8 * n + j) then s.raise PWR_EVENT_PACE_REFUSED
    else s.setReg (PWR_PACE_MAP n) (setBits (s.reg (PWR_PACE_MAP n)) (8 * j) 8 (bits val (8 * j) 6))) s

/-- PACE_MAP_WRITE (R588). -/
def execPaceMapWrite (r : Requester) (n val : Nat) (s : State) : Host.Outcome State Fault Refusal :=
  .next (if s.privReq r && n < 512 then s.paceMapWrite n val 0 8 else s)

/-! ### Modules (R617, R618) -/

/-- MODULE_INSERT (R617): at most 16 W, and at most 96 W admitted in all. -/
def execModuleInsert (c watts : Nat) (ready : Bool) (s : State) : Host.Outcome State Fault Refusal :=
  if 12 ≤ c || (tfind s.pow.modules c).isSome then .next s
  else
    let used := ((s.pow.modules.filter (·.2.admitted)).map fun p => p.2.watts).sum
    let ok := watts ≤ 16 && used + watts ≤ 96
    let s1 : State := { s with pow := { s.pow with modules := tput s.pow.modules c ⟨watts, ok, ready⟩ } }
    if s1.pow.up then
      let s2 := s1.put (LNK_CAGE_STATUS_MODULE c) 1
      .next (if s2.on (LNK_CAGE_CFG_ENABLE c) then s2.trainCage c else s2)
    else .next s1

/-- MODULE_REMOVE (R618): the lanes of the cage go DOWN with cause LOS. -/
def execModuleRemove (c : Nat) (s : State) : Host.Outcome State Fault Refusal :=
  if (tfind s.pow.modules c).isNone then .next s
  else
    let s1 := (List.range 8).foldl (fun s k => s.dropLane (8 * c + k) 1) s
    let s2 := (List.range 8).foldl (fun s k =>
      if s.get (LNK_LANE_STATE (8 * c + k)) = 1 then s.put (LNK_LANE_STATE (8 * c + k)) 0 else s) s1
    .next (({ s2 with pow := { s2.pow with modules := tdel s2.pow.modules c } }).put (LNK_CAGE_STATUS_MODULE c) 0)

/-! ### The management bus (R614) -/

/-- A command of Table 21.5 returns `v`; without the standby rail the bus target does not answer. -/
def State.smb (s : State) (v : Nat) : Host.Outcome State Fault Refusal :=
  .next (if s.pow.up then { s with bus := { s.bus with rdata := v, nack := false } } else s)

/-- SMB_READ_VIN, SMB_READ_PIN, SMB_READ_DIE_TEMP, SMB_READ_MEM_TEMP, SMB_READ_BOOT_STATUS, SMB_READ_LAST_TRIP and
SMB_READ_SEC_STATE (Table 21.5). -/
def execSmbReadVin (s : State) : Host.Outcome State Fault Refusal := s.smb (s.get PWR_STATUS_VIN)
def execSmbReadPin (s : State) : Host.Outcome State Fault Refusal := s.smb (s.get PWR_STATUS_PIN)
def execSmbReadDieTemp (s : State) : Host.Outcome State Fault Refusal :=
  s.smb (([0, 1, 2, 3].map fun d => bits (s.get PWR_TEMP_DIE) (8 * d) 8).foldl max 0)
def execSmbReadMemTemp (s : State) : Host.Outcome State Fault Refusal :=
  s.smb (s.get PWR_TEMP_STACK + s.get PWR_TEMP_FAR * 2 ^ 8)
def execSmbReadBootStatus (s : State) : Host.Outcome State Fault Refusal := s.smb (s.reg PWR_BOOT_STATUS % 2 ^ 16)
def execSmbReadLastTrip (s : State) : Host.Outcome State Fault Refusal := s.smb (s.get PWR_LAST_TRIP_CAUSE)
def execSmbReadSecState (s : State) : Host.Outcome State Fault Refusal :=
  s.smb (s.get SEC_STATE_KEYS + s.get SEC_STATE_CELL_OK * 4 + (if s.get SEC_TAMPER_STATUS_RECORDS = 0 then 0 else 8))

/-- "CN-D4096-2T" padded to 16 bytes, and the serial number. -/
def cardIdentity : List Byte :=
  sliceB ([0x43, 0x4E, 0x2D, 0x44, 0x34, 0x30, 0x39, 0x36, 0x2D, 0x32, 0x54] : List Byte) 0 16 ++
    (List.range 16).map Config.serial

/-- SMB_READ_IDENTITY (Table 21.5). -/
def execSmbReadIdentity (s : State) : Host.Outcome State Fault Refusal := s.smb (leNat cardIdentity)

/-- SMB_UNKNOWN_COMMAND (R614): any other command is answered with a NACK. -/
def execSmbUnknownCommand (code : Nat) (s : State) : Host.Outcome State Fault Refusal :=
  if ([1, 2, 3, 4, 5, 6, 7, 0x10] : List Nat).contains code then .next s
  else .next (if s.pow.up then { s with bus := { s.bus with nack := true } } else s)

end Sys2Proof.Machine
end

