-- ==== Sys2Proof/Machine/Wall.lean ====
section
/-! DEFINITION. The pick wall and the wake of context S (02_pick_and_warp.md R86 to R94, R106, R112; 04 R143, R145,
R166, R178; 06 R240, R241; 15 R502; 19 R569, R576 to R580). -/
namespace Sys2Proof.Machine
open Sys2Proof

/-! ### The work of the ending pick (R93, R94, R178) -/

/-- The tiles of the active scheduled set. -/
def State.schedList (s : State) : List Nat :=
  match s.warp.active with
  | some w => (List.range 4096).filter fun t => bit w.sched t
  | none => []

/-- The LATE record of tile `t`, whose scheduled program has not yielded (R94, Table 4.1 LATES, Table 19.2). -/
def State.lateTile (s : State) (t : Nat) : State :=
  let s1 := s.late 0xFFFF 1 (s.instOfTile t) t 0xFF
  let s2 := s1.setTile t { s1.tile t with lates := satAdd 32 (s1.tile t).lates 1 }
  s2.trace 1 2 t t (s.instOfTile t) stLATE (leBytes 6 s.pick ++ leBytes 2 0xFFFF)

/-- The hole signal of a stopped skein (R228, R229, R240): to a full queue it is lost, and none goes to a disabled one. -/
def State.stopSignal (s : State) (t h : Nat) (k : Skein) : State :=
  let g := Skein.holeSig t .S h k stLATE s.pick
  if !k.signal || !s.on (SKN_CQ_CFG_ENABLE k.queue) then s
  else if !s.cqFull k.queue then (s.cqPut k.queue g).countHole g
  else s.cqLose k.queue

/-- Whether every element and signal of a skein has been written (R224). -/
def Skein.finished (k : Skein) : Bool := k.state == 1 && k.due == 0 && k.done == k.total && (!k.signal || k.nextChunk == k.chunks)

/-- An incomplete skein of context S stops at the wall (R224, R240, R241, R301). -/
def State.stopSkein (s : State) (t h : Nat) (k : Skein) : State :=
  if k.finished then s.skeinDone t .S h k k.status
  else
    let s1 := s.stopSignal t h k
    let s2 := { s1 with xlt := { s1.xlt with parked := s1.xlt.parked.filter fun p => p.who != Waiter.skein t .S h } }
    (s2.late 0xFFFF 2 (s.instOfTile t) t 0xFF).traceSkein 2 t .S h k stLATE

/-- R178 for tile `t`: its skeins stop, its handles are freed and context S is cleared. -/
def State.clearS (s : State) (t : Nat) : State :=
  let s1 := ((s.tile t).s.handles.filter fun h => h.2.state != 6).foldl (fun s h => s.stopSkein t h.1 h.2) s
  let x := s1.tile t
  s1.setTile t { x with s := { pc := BitVec.ofNat 64 x.entry } }

/-- Whether a waiting instruction is a WAITC. -/
def isWaitc (x : Option Instr) : Bool :=
  match x with
  | some (.waitc ..) => true
  | _ => false

/-- Context W of tile `t` is suspended: its unretired instruction is abandoned (R145); a WAITC will not wait across a
second wall (R166). -/
def State.suspendW (s : State) (t : Nat) : State :=
  let x := s.tile t
  s.setTile t { x with w := { x.w with wait := none, crossed := x.w.crossed || isWaitc x.w.wait } }

/-- The drop rule for tile `t` of the scheduled set (R93); `held`: it was halted in the ending pick, `act`: the tile
actions of R178 apply (R579, R580). -/
def State.dropTile (s : State) (held act : Bool) (t : Nat) : State :=
  let s1 := if held || !(s.tile t).s.yielded then s.lateTile t else s
  if act then s1.clearS t else s1

/-- The scheduled work of the ending pick is dropped (R93). -/
def State.dropWork (s : State) (act : Bool) : State :=
  if s.warp.on then s.schedList.foldl (fun s t => s.dropTile s.trc.halted act t) s else s

/-- The ready flags are cleared, and the cells and streams of picks that are over are forgotten (R78, R93). -/
def State.clearFlags (s : State) : State :=
  { s with warp := { s.warp with
    ready := [], prep := [],
    rx := s.warp.rx.filter fun r => s.pick ≤ r.pick + 1,
    held := s.warp.held.filter fun h => s.pick ≤ h.pick } }

/-! ### Sets and tables (R86 to R90, R112) -/

/-- The retained set becomes the VALID shadow (R86). -/
def State.retireTrailing (s : State) : State :=
  if s.on WARP_STATUS_TRAILING then
    match s.warp.retained with
    | some w =>
      let s1 := { s with warp := { s.warp with shadow := some w, retained := none } }
      ((s1.put WARP_STATUS_SHADOW_STATE 2).put WARP_STATUS_SHADOW_GEN w.gen).put WARP_STATUS_TRAILING 0
    | none => s.put WARP_STATUS_TRAILING 0
  else s

/-- The lost lanes that carry no cells under set `w` either: those still down, and those it does not schedule (R435). -/
def State.stillSpent (s : State) (w : WarpSet) : List Nat :=
  let warp (l : Nat) : Bool := match w.tables with
    | t :: _ => bit t.warpGroups (l / 8)
    | [] => false
  s.warp.spent.filter fun l => !s.laneUp l || !warp l

/-- A swap to `new`, or to no set (R86, R87). -/
def State.swapTo (s : State) (new : Option WarpSet) : State :=
  let old := s.warp.active
  let s1 := old.elim s fun w => s.markActive w 0
  let s2 := new.elim s1 fun w => (s1.markArmed w 0).markActive w 1
  let s3 := old.elim s2 fun w => s2.startSet w
  let s4 := { s3 with warp := { s3.warp with
    active := new, shadow := none, retained := old
    retTable := s.get WARP_STATUS_ACTIVE_TABLE
    spent := (new.map s.stillSpent).getD s3.warp.spent
    period := (new.map WarpSet.period).getD s3.warp.period } }
  let s5 := ((s4.put WARP_STATUS_SHADOW_STATE 0).put WARP_STATUS_SHADOW_GEN 0).put WARP_STATUS_ACTIVE_BANK
    (1 - s.get WARP_STATUS_ACTIVE_BANK)
  let s6 := ((s5.put WARP_STATUS_ACTIVE_TABLE 0).put WARP_STATUS_TRAILING (if old.isSome then 1 else 0)).put
    WARP_STATUS_HAS_ACTIVE (if new.isSome then 1 else 0)
  ((s6.put WARP_STATUS_ACTIVE_GEN ((new.map WarpSet.gen).getD 0)).put WARP_STATUS_ARMED_EMPTY 0).raise WARP_EVENT_SWAPPED

/-- The armed wall (R86, R87, R112), judged by the domain state of the edge cycle: a LOCKED adapter enters MEMBER, and
one that is below LOCKED misses the join. -/
def State.swapWall (s : State) : State :=
  if s.warp.swapPick != s.pick then s
  else match s.shadow, s.warp.shadow with
    | 3, some w =>
      if 3 ≤ s.domState then
        let s1 := s.swapTo (some w)
        if s.domState = 3 then s1.put PICK_STATUS_STATE 4 else s1
      else ((((s.put WARP_STATUS_SHADOW_STATE 2).markArmed w 0).startSet w)).raise WARP_EVENT_MISSED
    | _, _ => if s.on WARP_STATUS_ARMED_EMPTY then s.swapTo none else s

/-- The lanes of the warp-mode groups that are down, here or by a notice of the far end (R89, R90). -/
def State.lanesLost (s : State) (t : WTable) : List Nat :=
  (List.range 96).filter fun l => bit t.warpGroups (l / 8) && (!s.laneUp l || s.warp.noticed.contains l)

/-- The alternate with the lowest INDEX whose COVER contains every lane that is down (R90). -/
def State.alternate (s : State) (w : WarpSet) : Option Nat :=
  ([1, 2, 3, 4] : List Nat).find? fun k => w.tables.any fun t =>
    t.index == k && (s.lanesLost t).all fun l => bit t.cover l

/-- The switching wall of lane losses at least 32 slots back, with `old` the period of the ended pick (R89, R90). -/
def State.altWall (s : State) (old : Nat) : State :=
  let due (x : Nat × Nat × Nat) : Bool := x.2.2 + 32 ≤ (s.pick - x.2.1) * old
  if !s.warp.lossAt.any due then s
  else
    let s1 := { s with warp := { s.warp with lossAt := s.warp.lossAt.filter fun x => !due x } }
    match s1.warp.active with
    | some w =>
      match s1.alternate w with
      | some k => (s1.put WARP_STATUS_ACTIVE_TABLE k).raise WARP_EVENT_ALT_SELECTED
      | none => s1.raise WARP_EVENT_NO_ALT
    | none => s1

/-! ### Settings (R32) -/

/-- The index of register `a` in an array of `n` registers, `stride` bytes apart from `base`. -/
def ixOf (base stride n a : Nat) : Option Nat :=
  if base ≤ a && (a - base) % stride == 0 && (a - base) / stride < n then some ((a - base) / stride) else none

/-- The bits `v` written to register `a` take effect; a port's settings act by their own rules. -/
def State.takeLater (s : State) (a v : Nat) : State :=
  match ixOf (MAC_PORT_CFG 0) 8 24 a, ixOf (MAC_FC_CFG 0) 8 24 a with
  | some p, _ => s.portCfgWrite p v
  | _, some p => (s.setReg a v).flowControl p
  | none, none => s.setReg a (clearMask (s.reg a) (rwMask a) ||| (v &&& rwMask a))

/-- The settings written since the last wall take effect (R32). -/
def State.applyLater (s : State) : State :=
  { s.later.foldl (fun s p => s.takeLater p.1 p.2) s with later := [] }

/-! ### What else the wall does -/

/-- The SYNC record of a pick (R569). -/
def State.syncRecord (s : State) : State :=
  if s.pick % 2 ^ s.get TRC_CFG_SYNC_LOG2 = 0 then
    s.trace 14 7 srcUnit 0 0 0 (leBytes 6 s.pick ++ leBytes 2 0 ++
      leBytes 8 (s.get PICK_TOD_SEC_SEC * 1000000000 + s.dom.half / 2))
  else s

/-- Whether a set in either bank names a tile or a descriptor of instance `i` (R502). -/
def State.setNames (s : State) (i : Nat) : Bool :=
  s.namedBySet i || s.warp.sets.any fun w => (s.block i).any fun t => bit w.sched t

/-- The residue of instance `i` clears where no set names it (R502). -/
def State.residueClear (s : State) (i : Nat) : State :=
  if !s.on (INST_STATE_RESIDUE i) || s.setNames i then s
  else
    let s1 := (mget [] s.insts.resTiles i).foldl (fun s t => s.reassign t) s
    let s2 := (mget [] s.insts.resAsids i).foldl (fun s a => s.dropAsid i a) s1
    let s3 := { s2 with insts := { s2.insts with
      resTiles := tdel s2.insts.resTiles i, resAsids := tdel s2.insts.resAsids i } }
    (s3.put (INST_STATE_RESIDUE i) 0).raise INST_EVENT_RESIDUE_CLEARED

/-- The residues at a wall (R502). -/
def State.residueWall (s : State) : State :=
  (s.insts.resTiles.map Prod.fst ++ s.insts.resAsids.map Prod.fst).foldl (fun s i => s.residueClear i) s

/-- Halted tiles are released (R580). -/
def State.haltRelease (s : State) : State :=
  let s1 := { s with trc := { s.trc with halted := false, haltDue := false, resumeDue := false } }
  ((s1.setReg TRC_HALT_STATUS 0).raise TRC_EVENT_RESUMED).trigIdle

/-- A WAITC of context W of a tile that starts the pick in context W retires in cycle 0 (R166). -/
def State.waitcWall (s : State) (t : Nat) : State :=
  match (s.ctx t .W).wait with
  | some (.waitc i _) => if s.live t .W then s.finish i (.retire s) else s
  | _ => s

/-- The tiles of the set: READY ones start (R134), and context W of those that run a scheduled program is suspended
(R178). -/
def State.startPick (s : State) (t : Nat) : State :=
  let s1 := if s.get (TILE_STATE_STATE t) = 4 then s.put (TILE_STATE_STATE t) 5 else s
  if s1.warp.on then s1.suspendW t else s1

/-- The tile actions of a wall: role changes, the start of the scheduled set and the WAITC of the other tiles (R48,
R133, R166, R178). -/
def State.tileWall (s : State) : State :=
  let s1 := (s.til.tiles.map Prod.fst).foldl (fun s t => s.roleWall t) s
  let s2 := s1.schedList.foldl (fun s t => s.startPick t) s1
  (s2.til.tiles.map Prod.fst).foldl (fun s t => s.waitcWall t) s2

/-- Whether the armed trigger's PICK source names the pick that begins (R576). -/
def State.trigPick (s : State) : Bool :=
  s.get TRC_TRIG_STATUS_STATE == 1 && s.on TRC_TRIG_CFG_SRC_PICK &&
    s.get TRC_TRIG_PICK_VAL == (s.pick + 1) % 2 ^ 48

/-- The PICK source fires (R576 to R578); its snapshot was taken in the edge cycle before. -/
def State.pickFire (s : State) : State :=
  if s.get TRC_TRIG_STATUS_STATE != 1 then s
  else
    let s1 := s.fire 4
    let s2 := { s1 with trc := { s1.trc with freezeDue := s.trc.freezeDue } }
    if s.on TRC_TRIG_CFG_HALT then s2.haltNow else s2

/-- The pick clock passes the wall: cycle 0 of the next pick (R61, R63). -/
def State.nextPick (s : State) : State :=
  { s.put PICK_NUMBER_NUMBER ((s.pick + 1) % 2 ^ 48) with cyc := 0 }

/-- PICK_WALL (R93): the rest of the pick passes, unfinished scheduled work is dropped, and every change that waits for
a wall takes effect. -/
def execPickWall (s : State) : Host.Outcome State Fault Refusal :=
  let act := !s.trc.halted || s.trc.resumeDue
  let s0 := (s.elapse (s.warp.period * 125 - s.cyc)).dropWork act
  let fires := s0.trigPick
  let s1 := if fires && s0.on TRC_TRIG_CFG_FREEZE then s0.snapshot else s0
  let s2 := s1.nextPick.clearFlags.applyLater
  let s3 := if s.trc.resumeDue then s2.haltRelease else s2
  let s4 := (s3.retireTrailing.swapWall.altWall s.warp.period).domWall
  let s5 := { s4 with warp := { s4.warp with on := s4.domOn && s4.warp.active.isSome } }
  let s6 := s5.syncRecord.spareWall.residueWall
  let s7 := if act then s6.tileWall else s6
  let s8 := s7.pageWall.retrain
  .next (if fires then s8.pickFire else s8)

/-! ### The wake (R143, R327, R330) -/

/-- The service program of a STREAM or RESHARD tile in its scheduled pick; it then yields (R327, R330). -/
def State.serviceWake (s : State) (t : Nat) (stopped : Bool) : State :=
  let i := s.instOfTile t
  match s.model? i with
  | some m =>
    let r := if s.roleOf t = 6 then s.streamWake i m stopped else s.reshardWake i t m stopped
    let s1 := r.1.setModel i r.2
    let x := s1.tile t
    if stopped then s1 else s1.setTile t { x with s := { x.s with yielded := true } }
  | none =>
    let x := s.tile t
    s.setTile t { x with s := { x.s with yielded := true } }

/-- CONTEXT_S_WAKE (R143, R96): context S of a scheduled tile starts at its entry point, from its wake offset on;
`stopped`: a service entry does not complete before the wall. -/
def execContextSWake (t : Nat) (stopped : Bool) (s : State) : Host.Outcome State Fault Refusal :=
  let x := s.tile t
  if 4096 ≤ t || s.get (TILE_STATE_STATE t) != 5 || !s.inPick t || s.trc.halted || x.down || x.s.awake ||
      s.cyc < s.wakeOffset t then .next s
  else
    let s1 := (s.setTile t { x with s := { x.s with awake := true } }).trace 1 1 t t (s.instOfTile t) 0
      (leBytes 6 s.pick ++ leBytes 2 0xFFFF)
    .next (if s.roleOf t = 6 || s.roleOf t = 7 then s1.serviceWake t stopped else s1)

end Sys2Proof.Machine
end

