-- ==== Sys2Proof/Machine/RegWrite.lean ====
section
/-! DEFINITION. Register accesses: what an address reaches, writes by access type, reads that clear counters, and the
MGMT instructions (00_scope.md R18 to R23, 04 R170, 14 R460, R461, 20 R602). -/
namespace Sys2Proof.Machine
open Sys2Proof

/-! ### What an access reaches -/

/-- Whether a device physical address lies in CSR space or in the control range of a tile window (R42, R170, R460). -/
def regSpace (a : Nat) : Bool := rowOf a == 4 || (rowOf a == 3 && 0x30000 ≤ a % 0x40000)

/-- The register byte at offset `o` of the BAR0 of function `fn` (R461, R490, R491, R602). -/
def State.bar0 (s : State) (fn o : Nat) : Option Nat :=
  if !s.pow.up || !s.on PWR_BOOT_STATUS_READY || s.nInst ≤ fn || 0x100000 ≤ o then none
  else if s.get (INST_STATE_STATE fn) = 0 && !(o < 8 || (0x1000 ≤ o && o < 0x2000)) then none
  else if 0x100 ≤ o && o < 0x128 then some (XLT_FR_BASE fn + (o - 0x100))
  else if 0x180 ≤ o && o < 0x1A0 then some (COL_POST_VAL_LO fn + (o - 0x180))
  else some (RING_INST_ID fn + o)

/-- The register byte that address `a` of requester `r` reaches: for a host function an offset in its BAR, for a MANAGER
tile a device physical address. -/
def State.reach (s : State) (r : Requester) (a : Nat) : Option Nat :=
  match r with
  | .host fn 0 => s.bar0 fn a
  | .host fn bar =>
    if !s.privReq (.host fn bar) then none
    else if a < 8 then some (RING_BAR2_WIN + a)
    else if 0x800000 ≤ a && a < 0x1000000 then
      let pa := s.get RING_BAR2_WIN_WIN_BASE * 2 ^ 23 + (a - 0x800000)
      if regSpace pa then some pa else none
    else none
  | .manager t => if s.privReq (.manager t) && regSpace a then some a else none
  | .other => none

/-- The register that an access of `w` bits at byte `a` reaches, and the lowest bit of it: none for an unoccupied offset
(R22), and for a width or an alignment that R21 does not allow. -/
def regAt (a w : Nat) : Option (RegDef × Nat × Nat) :=
  let k := a / 8 * 8
  if (w != 32 && w != 64) || a % (w / 8) != 0 then none
  else match regFind k with
    | some d => if 8 * (a - k) + w ≤ d.width then some (d, k, 8 * (a - k)) else none
    | none => none

/-! ### Writes -/

/-- The single registers for which no chapter names the point at which a written value takes effect: it is the next wall
(R32). -/
def wallRegs : List Nat := [PICK_CTRL, PICK_SYNC_CFG, PICK_HOLDOVER_LIMIT, LNK_SELF, LNK_DOWN_CFG, MAC_VC_PCP, MAC_ETYPE,
  INST_QUIESCE_CFG, PWR_FW_CFG, PWR_LIMIT_CFG, PWR_THERM_CFG, TRC_CFG, TRC_CLASS_EN, TRC_INST_MASK, TRC_SAFFRON_CFG,
  TRC_SAFFRON_SRC]

/-- The event registers of the blocks, each with its enables (Tables 2.10 and 3.9 and the maps of the other blocks). -/
def eventRegs : List (Nat × Nat) := [(PICK_EVENT, PICK_EVENT_EN), (TILE_DEV_EVENT, TILE_DEV_EVENT_EN),
  (SKN_EVENT, SKN_EVENT_EN), (MEM_EVENT, MEM_EVENT_EN), (XLT_EVENT, XLT_EVENT_EN), (PAGE_EVENT, PAGE_EVENT_EN),
  (QP_EVENT, QP_EVENT_EN), (CC_EVENT, CC_EVENT_EN), (COL_EVENT, COL_EVENT_EN), (LNK_EVENT, LNK_EVENT_EN),
  (MAC_EVENT, MAC_EVENT_EN), (INST_EVENT, INST_EVENT_EN), (SEC_EVENT, SEC_EVENT_EN), (CRC_EVENT, CRC_EVENT_EN),
  (PWR_REL_EVENT, PWR_REL_EVENT_EN), (TRC_EVENT, TRC_EVENT_EN), (PWR_EVENT, PWR_EVENT_EN)]

/-- Whether the events of register `ev` request an interrupt: one is set whose enable in `en` is in force. -/
def State.eventIrq (s : State) (ev en : Nat) : Bool := s.reg ev &&& s.reg en != 0

/-- Whether a value written to register `a` takes effect at the next wall (R32). -/
def wallReg (a : Nat) : Bool :=
  wallRegs.contains a || (eventRegs.any fun p => p.2 == a) || (ixOf (TILE_EVENT_EN 0) 0x40000 4096 a).isSome ||
    (PICK_LINK_ASYM 0 ≤ a && a < PICK_LINK_ASYM 12) || (LNK_PKEY_PORT 0 0 ≤ a && a < LNK_PKEY_INST 16 0) ||
    (LNK_MCAST 0 ≤ a && a < LNK_MCAST 4096) || (MAC_ADDR 0 ≤ a && a < MAC_ADDR 24) ||
    (MAC_PEER_ADDR 0 ≤ a && a < MAC_PEER_ADDR 24) || (MAC_PORT_CFG 0 ≤ a && a < MAC_PORT_CFG 24) ||
    (MAC_FC_CFG 0 ≤ a && a < MAC_FC_CFG 24) || (MAC_LPI_CFG 0 ≤ a && a < MAC_LPI_CFG 24) ||
    (MAC_IP_EGRESS 0 ≤ a && a < MAC_IP_EGRESS 16) || (MAC_IPADDR 0 0 ≤ a && a < MAC_IPADDR 16 0) ||
    (ixOf (RING_HB_CFG 0) 0x100000 16 a).isSome || (ixOf (RING_VEC_CFG 0) 0x100000 16 a).isSome ||
    (ixOf (MBX_VEC 0) 0x100000 16 a).isSome || (ixOf (MBXM_VEC 0) 0x1000 16 a).isSome

/-- A value written to register `a` waits for the wall. -/
def State.setLater (s : State) (a v : Nat) : State := { s with later := tput s.later a v }

/-- The value last written to register `a`, in force or not, where `v` is in force (R18, R32). -/
def State.written (s : State) (a v : Nat) : Nat :=
  match tfind s.later a with
  | some x => clearMask v (rwMask a) ||| (x &&& rwMask a)
  | none => v

/-- The state of an outcome; a meaning that a register write calls always answers a next state. -/
def State.after (s : State) (o : Host.Outcome State Fault Refusal) : State :=
  match o with
  | .next t => t
  | _ => s

/-- WARP_CTRL (R84 to R87): a write with more than one bit set is ignored. -/
def State.warpCtrl (s : State) (r : Requester) (v : Nat) : State :=
  match v with
  | 1 => s.after (execWarpLoad r s)
  | 2 => s.after (execWarpArm r s)
  | 4 => s.after (execWarpDisarm r s)
  | 8 => s.after (execWarpClear r s)
  | 16 => s.after (execWarpArmEmpty r s)
  | _ => s

/-- MEM_CMD (R273, Table 7.9). -/
def State.memCmdWrite (s : State) (v : Nat) : State :=
  if !bit v 63 || s.on MEM_CMD_STATUS_PENDING then s
  else match bits v 0 3 with
    | 1 => s.after (execMemMarkNearDie (bits v 8 8) (bits v 3 5) s)
    | 2 => s.after (execMemMarkFarDevice (bits v 8 8) (bits v 3 5) s)
    | 3 => s.after (execMemResaltRegion (bits v 16 20) (bits v 36 4) s)
    | _ => s.memCmd stMALFORMED

/-- MEM_HOT_CFG: RATIO and HOT_WINDOWS are held within 1 to 15 (R273). -/
def hotClamp (v : Nat) : Nat := setBits (setBits v 8 4 (max 1 (bits v 8 4))) 12 4 (max 1 (bits v 12 4))

/-- TRC_TRIG_CMD (R576, R577, R580). -/
def State.trigCmd (s : State) (v : Nat) : State :=
  let s1 := if bit v 0 then s.trigFire else s
  let s2 := if bit v 1 then s1.thaw else s1
  if bit v 2 then s2.trigResume else s2

/-- SKN_CQ_CFG of queue `q` (R229, R248): while the queue is enabled only ENABLE takes a write. -/
def State.cqCfgWrite (s : State) (q v : Nat) : State :=
  if s.on (SKN_CQ_CFG_ENABLE q) then (if bit v 0 then s else s.disableCq q)
  else
    let s1 := s.put (SKN_CQ_CFG_LOG2_DEPTH q) (bits v 1 5)
    if bit v 0 && s.cqRingOk q (s.get (SKN_CQ_BASE_BASE q) * 64) (bits v 1 5) then s1.enableCq q else s1

/-- MBX_TX_CTRL (R504, R505): a write with both bits set is ignored. -/
def State.mbxTxCtrl (s : State) (r : Requester) (i v : Nat) : State :=
  match bit v 16, bit v 17 with
  | true, false => s.after (execMbxSend r i (v % 512) s)
  | false, true => s.after (execMbxWithdraw r i s)
  | _, _ => s

/-- A write of value `v` to a register of the device as a whole that acts by a rule of its own: `rw` holds the bits of the
register that a write sets, and the write covers `w` bits from bit `lo`. -/
def State.devWrite (s : State) (r : Requester) (a v rw : Nat) : Option State :=
  if a = PICK_SYNC_CFG then
    some (if s.domState != 0 || v % 4 = 3 || bits v 12 2 = 3 then s else s.setLater a (v &&& rw))
  else if a = PICK_TOD_SET then some (s.after (execPickTodSet r v s))
  else if a = WARP_CTRL then some (s.warpCtrl r v)
  else if a = TILE_SPARE_CMD then some (s.after (execTileSpareCmd r v s))
  else if a = MEM_HOT_CFG then some (s.setReg a (hotClamp (v &&& rw)))
  else if a = MEM_CMD then some (s.memCmdWrite v)
  else if a = LNK_SHIFT_CMD then some (s.after (execLaneShiftCmd r v s))
  else if a = INST_CMD then some (s.instCmdWrite r v)
  else if a = SEC_KEY_CMD then some (s.keyCmdWrite r v)
  else if a = SEC_PROV_CMD then some (s.provCmdWrite r v)
  else if a = SEC_DEBUG_CTRL then some (s.after (execDebugUnlock r v s))
  else if a = SEC_TAMPER_CLEAR then some (s.after (execSecTamperClear r v s))
  else if a = PWR_FW_CMD then some (s.fwCmdWrite r v)
  else if a = PWR_PACE_CFG then some (s.paceCfgWrite v)
  else if a = PWR_RESET_CMD then some s
  else if a = TRC_TRIG_CFG then some (s.trigCfgWrite v)
  else if a = TRC_TRIG_CMD then some (s.trigCmd v)
  else if a = TRC_MARK then some (s.after (execTraceMark r v s))
  else if a = TRC_SCAN_CMD then some (if bit v 0 then s.after (execScanStart r s) else s)
  else none

/-- The same for the arrays of the device: tile control ranges, chunk queues, fault rings, posts, cages, ports, mailboxes
and pace groups. -/
def State.arrayWrite (s : State) (r : Requester) (a v rw lo w : Nat) : Option State :=
  match ixOf (TILE_CTRL 0) 0x40000 4096 a, ixOf (SKN_CQ_BASE 0) 32 65536 a, ixOf (SKN_CQ_CFG 0) 32 65536 a with
  | some t, _, _ => some (if bit v 0 then s.after (execTileCtrlAssign r t s) else s)
  | _, some q, _ => some (if s.on (SKN_CQ_CFG_ENABLE q) then s else s.setReg a (v &&& rw))
  | _, _, some q => some (s.cqCfgWrite q v)
  | none, none, none =>
    match ixOf (XLT_FR_BASE 0) 256 16 a, ixOf (XLT_FR_CONS 0) 256 16 a, ixOf (XLT_FR_CFG 0) 256 16 a,
        ixOf (COL_POST_CMD 0) 256 16 a with
    | some i, _, _, _ => some (if s.on (XLT_FR_CFG_ENABLE i) then s else s.setReg a (v &&& rw))
    | _, some i, _, _ => some (s.after (execXltFrConsWrite i v s))
    | _, _, some i, _ => some (s.after (execXltFrEnableWrite i v s))
    | _, _, _, some i => some (s.after (execPinchHostPost i v s))
    | none, none, none, none =>
      match ixOf (LNK_CAGE_CFG 0) 8 12 a, ixOf (PWR_PACE_MAP 0) 8 512 a with
      | some c, _ => some (s.cageWrite c v)
      | _, some n => some (s.paceMapWrite n v (lo / 8) (w / 8))
      | none, none =>
        match ixOf (MBXM_TX_CTRL 0) 0x1000 16 a, ixOf (MBXM_RX_CTRL 0) 0x1000 16 a, ixOf (MBXM_RX_ACK 0) 0x1000 16 a with
        | some i, _, _ => some (s.mbxTxCtrl r i v)
        | _, some i, _ => some (if bit v 0 then s.after (execMbxTake r i s) else s)
        | _, _, some i => some (if bit v 31 then s.after (execMbxAck r i (v % 65536) s) else s)
        | none, none, none => none

/-- The same for the registers of an instance's BAR0 page (R461, R464, R485, R488, R504). -/
def State.instWrite (s : State) (r : Requester) (a v rw : Nat) : Option State :=
  if a < RING_INST_ID 0 || RING_INST_ID 16 ≤ a then none
  else
    let i := (a - RING_INST_ID 0) / 0x100000
    let o := (a - RING_INST_ID 0) % 0x100000
    if 0x40000 ≤ o then (if o % 64 = 0 then some (s.after (execDoorbellWrite i ((o - 0x40000) / 64) v s)) else none)
    else if o = 0x10 then some (s.after (execHeartbeatWrite i s))
    else if o = 0x40 || o = 0x48 then some (if s.on (RING_ADMIN_CFG_ENABLE i) then s else s.setReg a (v &&& rw))
    else if o = 0x50 then some (s.adminCfgWrite i v [])
    else if o = 0x2000 then some (s.d640Write i v)
    else if 0x2008 ≤ o && o < 0x2028 then some (if s.on (RING_D640_STATUS_BUSY i) then s else s.setReg a v)
    else if o = 0x1100 then some (s.mbxTxCtrl r i v)
    else if o = 0x1308 then some (if bit v 0 then s.after (execMbxTake r i s) else s)
    else if o = 0x1310 then some (if bit v 31 then s.after (execMbxAck r i (v % 65536) s) else s)
    else none

/-- A write of the bits `val` over `w` bits from bit `lo` of register `a` (R18 to R21, R32). -/
def State.regWrite (s : State) (r : Requester) (d : RegDef) (a lo w val : Nat) : State :=
  let cov := ones lo w
  let new := (val * 2 ^ lo) &&& cov
  let rw := d.mask fun x => x == .rw || x == .rws
  let old := s.written a (s.reg a)
  let v := (clearMask old cov &&& rw) ||| new
  match (s.devWrite r a v rw).or ((s.arrayWrite r a v rw lo w).or (s.instWrite r a v rw)) with
  | some t => t
  | none =>
    if wallReg a then s.setLater a (v &&& rw)
    else s.setReg a (clearMask (clearMask old rw) (new &&& d.mask (· == .w1c)) ||| (v &&& rw))

/-- A write of `w` bits by requester `r` at its address `a`; an access that reaches no register is ignored (R22). -/
def State.writeAt (s : State) (r : Requester) (a w val : Nat) : State :=
  match (s.reach r a).bind fun k => regAt k w with
  | some (d, k, lo) => s.regWrite r d k lo w (val % 2 ^ w)
  | none => s

/-- REGISTER_WRITE (R18, R20 to R23). -/
def execRegisterWrite (r : Requester) (addr width val : Nat) (s : State) : Host.Outcome State Fault Refusal :=
  .next (s.writeAt r addr width val)

/-! ### Reads -/

/-- What register `a` shows: the value last written to it, its write-only fields as 0, and its counters from the snapshot
while they are frozen (R18, R32, R577). -/
def State.shown (s : State) (d : RegDef) (a : Nat) : Nat :=
  let v := clearMask (s.written a (s.regView a)) (d.mask (· == .wo))
  if s.frozen then
    let m := d.mask (· == .rc)
    clearMask v m ||| ((tfind s.trc.snap a).getD (regReset a) &&& m)
  else v

/-- The field of register `a` with `w` bits from `lo`. -/
def FldDef.at_ (f : FldDef) (a : Nat) : RegFld := ⟨a, f.lo, f.w⟩

/-- A counter field that has been read returns to its reset value, or to a count of 1 where an event falls in the same
cycle (R19). -/
def State.clearRc (s : State) (a : Nat) (again : Bool) (f : FldDef) : State :=
  let i := (a - RING_INST_ID 0) / 0x100000
  let o := (a - RING_INST_ID 0) % 0x100000
  if RING_INST_ID 0 ≤ a && a < RING_INST_ID 16 && 0x40000 ≤ o then
    let q := (o - 0x40000) / 64
    s.setQueue i q { s.queue i q with dbBad := again }
  else s.put (f.at_ a) (if again then 1 else bits (regReset a) f.lo f.w)

/-- What else a read does: PICK_TOD_SEC latches the nanoseconds, a log record counts as read, and TILE_EVENT starts
RMQ_WAITS anew (R110, R111, R274, Table 3.8). -/
def State.readEffects (s : State) (a : Nat) : State :=
  if a = PICK_TOD_SEC then s.put PICK_TOD_NS_NS (s.dom.half / 2)
  else if PICK_LATE_LOG 0 0 ≤ a && a < PICK_LATE_LOG 64 0 then
    { s with warp := { s.warp with unread := mset false s.warp.unread ((a - PICK_LATE_LOG 0 0) / 16) false } }
  else if MEM_ERR_LOG 0 0 ≤ a && a < MEM_ERR_LOG 64 0 then
    { s with memu := { s.memu with unread := mset false s.memu.unread ((a - MEM_ERR_LOG 0 0) / 32) false } }
  else match ixOf (TILE_EVENT 0) 0x40000 4096 a with
    | some t => s.put (TILE_QUEUES_RMQ_WAITS t) 0
    | none => s

/-- A read of `w` bits by requester `r` at its address `a`: the state after it and the value; an access that reaches no
register reads 0 (R21, R22). -/
def State.readAt (s : State) (r : Requester) (a w : Nat) (again : Bool) : State × Nat :=
  match (s.reach r a).bind fun k => regAt k w with
  | some (d, k, lo) =>
    let whole (f : FldDef) : Bool := f.acc == .rc && lo ≤ f.lo && f.lo + f.w ≤ lo + w
    let s1 := if s.frozen then s else (d.flds.filter whole).foldl (fun s f => s.clearRc k again f) s
    (s1.readEffects k, bits (s.shown d k) lo w)
  | none => (s, 0)

/-- RC_COUNTER_READ (R19, R21): a register read; it clears each counter that it covers whole. -/
def execRcCounterRead (r : Requester) (addr width : Nat) (again : Bool) (s : State) : Host.Outcome State Fault Refusal :=
  let x := s.readAt r addr width again
  .next { x.1 with bus := { x.1.bus with rdata := x.2 } }

/-! ### The MGMT instructions (R170) -/

/-- The trap of an MGMT instruction of `n` bytes with instruction word `w`, if it takes one: PRIV, MISALIGN or
DEV_ACCESS. -/
def State.mgmtTrap (s : State) (i : Issue) (a : Word) (n w : Nat) : Option (Nat × Word) :=
  if !s.isManager i.tile then some (exPRIV, evWord w)
  else if a.toNat % n != 0 then some (exMISALIGN, a)
  else if !regSpace a.toNat then some (exDEV_ACCESS, a)
  else none

/-- RGLD32 and RGLD64. -/
def rgldBody (i : Issue) (rd rs1 : SReg) (width fn : Nat) (s : State) : Fate :=
  let a := s.rs i rs1
  match s.mgmtTrap i a (width / 8) (wA 0x2D rd rs1 0 fn) with
  | some (c, v) => .trap c v
  | none =>
    let x := s.readAt (.manager i.tile) a.toNat width false
    .retire (x.1.ws i rd (BitVec.ofNat 64 x.2))

/-- RGST32 and RGST64. -/
def rgstBody (i : Issue) (rs1 rs2 : SReg) (width fn : Nat) (s : State) : Fate :=
  let a := s.rs i rs1
  match s.mgmtTrap i a (width / 8) (wA 0x2D 0 rs1 rs2 fn) with
  | some (c, v) => .trap c v
  | none => .retire (s.writeAt (.manager i.tile) a.toNat width (s.rs i rs2).toNat)

/-- RGLD32 (R170). -/
def execRgld32 (i : Issue) (rd rs1 : SReg) (s : State) : Host.Outcome State Fault Refusal :=
  s.issue i (rgldBody i rd rs1 32 0x000)

/-- RGLD64 (R170). -/
def execRgld64 (i : Issue) (rd rs1 : SReg) (s : State) : Host.Outcome State Fault Refusal :=
  s.issue i (rgldBody i rd rs1 64 0x001)

/-- RGST32 (R170). -/
def execRgst32 (i : Issue) (rs1 rs2 : SReg) (s : State) : Host.Outcome State Fault Refusal :=
  s.issue i (rgstBody i rs1 rs2 32 0x002)

/-- RGST64 (R170). -/
def execRgst64 (i : Issue) (rs1 rs2 : SReg) (s : State) : Host.Outcome State Fault Refusal :=
  s.issue i (rgstBody i rs1 rs2 64 0x003)

end Sys2Proof.Machine
end

