-- ==== Sys2Proof/Machine/Dispatch.lean ====
section
/-! DEFINITION. One arm per command of the table: each calls its meaning. -/
namespace Sys2Proof.Machine
open Sys2Proof

def exec (i : Instr) (s : State) : Host.Outcome State Fault Refusal :=
  match i with
  | .registerWrite r addr width val => Sys2Proof.Machine.execRegisterWrite r addr width val s
  | .rcCounterRead r addr width again => Sys2Proof.Machine.execRcCounterRead r addr width again s
  | .pickTodSecRead => Sys2Proof.Machine.execPickTodSecRead s
  | .pickTodSet r sec => Sys2Proof.Machine.execPickTodSet r sec s
  | .pickWall => Sys2Proof.Machine.execPickWall s
  | .contextSWake tile stopped => Sys2Proof.Machine.execContextSWake tile stopped s
  | .cellSample g slot k bad => Sys2Proof.Machine.execCellSample g slot k bad s
  | .scheduledCellSend g slot => Sys2Proof.Machine.execScheduledCellSend g slot s
  | .syncSymbolSend => Sys2Proof.Machine.execSyncSymbolSend s
  | .syncSymbolReceive g b a t onTime => Sys2Proof.Machine.execSyncSymbolReceive g b a t onTime s
  | .listenAcquire => Sys2Proof.Machine.execListenAcquire s
  | .acquireExchangeComplete pick cyc sec half => Sys2Proof.Machine.execAcquireExchangeComplete pick cyc sec half s
  | .frequencyEstimateDone adj => Sys2Proof.Machine.execFrequencyEstimateDone adj s
  | .lockAcquired => Sys2Proof.Machine.execLockAcquired s
  | .parentLoss => Sys2Proof.Machine.execParentLoss s
  | .successorTakeover => Sys2Proof.Machine.execSuccessorTakeover s
  | .holdoverLimitExpiry => Sys2Proof.Machine.execHoldoverLimitExpiry s
  | .ppsEdge => Sys2Proof.Machine.execPpsEdge s
  | .referenceLoss => Sys2Proof.Machine.execReferenceLoss s
  | .referenceReturn => Sys2Proof.Machine.execReferenceReturn s
  | .ptpMessageReceive t => Sys2Proof.Machine.execPtpMessageReceive t s
  | .cellReceive g pick slot cells => Sys2Proof.Machine.execCellReceive g pick slot cells s
  | .streamDeadline g desc pick => Sys2Proof.Machine.execStreamDeadline g desc pick s
  | .warpLoad r => Sys2Proof.Machine.execWarpLoad r s
  | .warpLoadComplete img => Sys2Proof.Machine.execWarpLoadComplete img s
  | .warpArm r => Sys2Proof.Machine.execWarpArm r s
  | .warpDisarm r => Sys2Proof.Machine.execWarpDisarm r s
  | .warpClear r => Sys2Proof.Machine.execWarpClear r s
  | .warpArmEmpty r => Sys2Proof.Machine.execWarpArmEmpty r s
  | .messageAccept id => Sys2Proof.Machine.execMessageAccept id s
  | .meshHop id good => Sys2Proof.Machine.execMeshHop id good s
  | .returnedMessageArrive id => Sys2Proof.Machine.execReturnedMessageArrive id s
  | .tileCtrlAssign r tile => Sys2Proof.Machine.execTileCtrlAssign r tile s
  | .roleChangeDrained tile => Sys2Proof.Machine.execRoleChangeDrained tile s
  | .tileLoadDone tile => Sys2Proof.Machine.execTileLoadDone tile s
  | .tileSpareCmd r val => Sys2Proof.Machine.execTileSpareCmd r val s
  | .tileFaultDetect tile router => Sys2Proof.Machine.execTileFaultDetect tile router s
  | .tileWatchdogExpiry tile => Sys2Proof.Machine.execTileWatchdogExpiry tile s
  | .tileRestoreComplete tile => Sys2Proof.Machine.execTileRestoreComplete tile s
  | .mirrorError tile => Sys2Proof.Machine.execMirrorError tile s
  | .mirrorRecopyComplete tile => Sys2Proof.Machine.execMirrorRecopyComplete tile s
  | .managerPartnerReady die => Sys2Proof.Machine.execManagerPartnerReady die s
  | .add io rd rs1 rs2 => Sys2Proof.Machine.execAdd io rd rs1 rs2 s
  | .sub io rd rs1 rs2 => Sys2Proof.Machine.execSub io rd rs1 rs2 s
  | .and io rd rs1 rs2 => Sys2Proof.Machine.execAnd io rd rs1 rs2 s
  | .or io rd rs1 rs2 => Sys2Proof.Machine.execOr io rd rs1 rs2 s
  | .xor io rd rs1 rs2 => Sys2Proof.Machine.execXor io rd rs1 rs2 s
  | .sll io rd rs1 rs2 => Sys2Proof.Machine.execSll io rd rs1 rs2 s
  | .srl io rd rs1 rs2 => Sys2Proof.Machine.execSrl io rd rs1 rs2 s
  | .sra io rd rs1 rs2 => Sys2Proof.Machine.execSra io rd rs1 rs2 s
  | .slt io rd rs1 rs2 => Sys2Proof.Machine.execSlt io rd rs1 rs2 s
  | .sltu io rd rs1 rs2 => Sys2Proof.Machine.execSltu io rd rs1 rs2 s
  | .min io rd rs1 rs2 => Sys2Proof.Machine.execMin io rd rs1 rs2 s
  | .max io rd rs1 rs2 => Sys2Proof.Machine.execMax io rd rs1 rs2 s
  | .minu io rd rs1 rs2 => Sys2Proof.Machine.execMinu io rd rs1 rs2 s
  | .maxu io rd rs1 rs2 => Sys2Proof.Machine.execMaxu io rd rs1 rs2 s
  | .mul io rd rs1 rs2 => Sys2Proof.Machine.execMul io rd rs1 rs2 s
  | .mulh io rd rs1 rs2 => Sys2Proof.Machine.execMulh io rd rs1 rs2 s
  | .mulhu io rd rs1 rs2 => Sys2Proof.Machine.execMulhu io rd rs1 rs2 s
  | .mulhsu io rd rs1 rs2 => Sys2Proof.Machine.execMulhsu io rd rs1 rs2 s
  | .div io rd rs1 rs2 => Sys2Proof.Machine.execDiv io rd rs1 rs2 s
  | .divu io rd rs1 rs2 => Sys2Proof.Machine.execDivu io rd rs1 rs2 s
  | .rem io rd rs1 rs2 => Sys2Proof.Machine.execRem io rd rs1 rs2 s
  | .remu io rd rs1 rs2 => Sys2Proof.Machine.execRemu io rd rs1 rs2 s
  | .clz io rd rs1 => Sys2Proof.Machine.execClz io rd rs1 s
  | .ctz io rd rs1 => Sys2Proof.Machine.execCtz io rd rs1 s
  | .popc io rd rs1 => Sys2Proof.Machine.execPopc io rd rs1 s
  | .addw io rd rs1 rs2 => Sys2Proof.Machine.execAddw io rd rs1 rs2 s
  | .subw io rd rs1 rs2 => Sys2Proof.Machine.execSubw io rd rs1 rs2 s
  | .sllw io rd rs1 rs2 => Sys2Proof.Machine.execSllw io rd rs1 rs2 s
  | .srlw io rd rs1 rs2 => Sys2Proof.Machine.execSrlw io rd rs1 rs2 s
  | .sraw io rd rs1 rs2 => Sys2Proof.Machine.execSraw io rd rs1 rs2 s
  | .mulw io rd rs1 rs2 => Sys2Proof.Machine.execMulw io rd rs1 rs2 s
  | .divw io rd rs1 rs2 => Sys2Proof.Machine.execDivw io rd rs1 rs2 s
  | .divuw io rd rs1 rs2 => Sys2Proof.Machine.execDivuw io rd rs1 rs2 s
  | .remw io rd rs1 rs2 => Sys2Proof.Machine.execRemw io rd rs1 rs2 s
  | .remuw io rd rs1 rs2 => Sys2Proof.Machine.execRemuw io rd rs1 rs2 s
  | .addi io rd rs1 imm => Sys2Proof.Machine.execAddi io rd rs1 imm s
  | .andi io rd rs1 imm => Sys2Proof.Machine.execAndi io rd rs1 imm s
  | .ori io rd rs1 imm => Sys2Proof.Machine.execOri io rd rs1 imm s
  | .xori io rd rs1 imm => Sys2Proof.Machine.execXori io rd rs1 imm s
  | .slti io rd rs1 imm => Sys2Proof.Machine.execSlti io rd rs1 imm s
  | .sltiu io rd rs1 imm => Sys2Proof.Machine.execSltiu io rd rs1 imm s
  | .slli io rd rs1 sh => Sys2Proof.Machine.execSlli io rd rs1 sh s
  | .srli io rd rs1 sh => Sys2Proof.Machine.execSrli io rd rs1 sh s
  | .srai io rd rs1 sh => Sys2Proof.Machine.execSrai io rd rs1 sh s
  | .lui io rd imm => Sys2Proof.Machine.execLui io rd imm s
  | .addiw io rd rs1 imm => Sys2Proof.Machine.execAddiw io rd rs1 imm s
  | .lb io rd rs1 imm => Sys2Proof.Machine.execLb io rd rs1 imm s
  | .lbu io rd rs1 imm => Sys2Proof.Machine.execLbu io rd rs1 imm s
  | .lh io rd rs1 imm => Sys2Proof.Machine.execLh io rd rs1 imm s
  | .lhu io rd rs1 imm => Sys2Proof.Machine.execLhu io rd rs1 imm s
  | .lw io rd rs1 imm => Sys2Proof.Machine.execLw io rd rs1 imm s
  | .lwu io rd rs1 imm => Sys2Proof.Machine.execLwu io rd rs1 imm s
  | .ld io rd rs1 imm => Sys2Proof.Machine.execLd io rd rs1 imm s
  | .sb io rs2 rs1 imm => Sys2Proof.Machine.execSb io rs2 rs1 imm s
  | .sh io rs2 rs1 imm => Sys2Proof.Machine.execSh io rs2 rs1 imm s
  | .sw io rs2 rs1 imm => Sys2Proof.Machine.execSw io rs2 rs1 imm s
  | .sd io rs2 rs1 imm => Sys2Proof.Machine.execSd io rs2 rs1 imm s
  | .beq io rs1 rs2 off => Sys2Proof.Machine.execBeq io rs1 rs2 off s
  | .bne io rs1 rs2 off => Sys2Proof.Machine.execBne io rs1 rs2 off s
  | .blt io rs1 rs2 off => Sys2Proof.Machine.execBlt io rs1 rs2 off s
  | .bge io rs1 rs2 off => Sys2Proof.Machine.execBge io rs1 rs2 off s
  | .bltu io rs1 rs2 off => Sys2Proof.Machine.execBltu io rs1 rs2 off s
  | .bgeu io rs1 rs2 off => Sys2Proof.Machine.execBgeu io rs1 rs2 off s
  | .jal io rd off => Sys2Proof.Machine.execJal io rd off s
  | .jalr io rd rs1 imm => Sys2Proof.Machine.execJalr io rd rs1 imm s
  | .msend io rs1 rs2 rs3 weft anyRole => Sys2Proof.Machine.execMsend io rs1 rs2 rs3 weft anyRole s
  | .msendBufferAccept io => Sys2Proof.Machine.execMsendBufferAccept io s
  | .mrecv io rd rs1 filter wait => Sys2Proof.Machine.execMrecv io rd rs1 filter wait s
  | .mrecvWaitTake io => Sys2Proof.Machine.execMrecvWaitTake io s
  | .mret io rd rs1 wait => Sys2Proof.Machine.execMret io rd rs1 wait s
  | .mretWaitTake io => Sys2Proof.Machine.execMretWaitTake io s
  | .skiss io rd rs1 => Sys2Proof.Machine.execSkiss io rd rs1 s
  | .skissHandleWait io => Sys2Proof.Machine.execSkissHandleWait io s
  | .skwait io rd rs1 => Sys2Proof.Machine.execSkwait io rd rs1 s
  | .skwaitComplete io => Sys2Proof.Machine.execSkwaitComplete io s
  | .skstat io rd rs1 => Sys2Proof.Machine.execSkstat io rd rs1 s
  | .chtake io rd rs1 rs2 => Sys2Proof.Machine.execChtake io rd rs1 rs2 s
  | .chtakew io rd rs1 rs2 => Sys2Proof.Machine.execChtakew io rd rs1 rs2 s
  | .chtakewWaitTake io => Sys2Proof.Machine.execChtakewWaitTake io s
  | .cvfb io rs1 => Sys2Proof.Machine.execCvfb io rs1 s
  | .cvfh io rs1 => Sys2Proof.Machine.execCvfh io rs1 s
  | .cvfw io rs1 => Sys2Proof.Machine.execCvfw io rs1 s
  | .cvrst io => Sys2Proof.Machine.execCvrst io s
  | .cvrd io rd => Sys2Proof.Machine.execCvrd io rd s
  | .cvwr io rs1 => Sys2Proof.Machine.execCvwr io rs1 s
  | .cvfin io rd => Sys2Proof.Machine.execCvfin io rd s
  | .cvcmp io rd rs1 => Sys2Proof.Machine.execCvcmp io rd rs1 s
  | .cvset io rs1 rs2 => Sys2Proof.Machine.execCvset io rs1 rs2 s
  | .yield io => Sys2Proof.Machine.execYield io s
  | .waitc io rs1 => Sys2Proof.Machine.execWaitc io rs1 s
  | .waitcRetire io => Sys2Proof.Machine.execWaitcRetire io s
  | .rdyset io rs1 => Sys2Proof.Machine.execRdyset io rs1 s
  | .rdytst io rd rs1 => Sys2Proof.Machine.execRdytst io rd rs1 s
  | .mfs io rd n => Sys2Proof.Machine.execMfs io rd n s
  | .mts io rs1 n => Sys2Proof.Machine.execMts io rs1 n s
  | .eret io => Sys2Proof.Machine.execEret io s
  | .trap io code => Sys2Proof.Machine.execTrap io code s
  | .rgld32 io rd rs1 => Sys2Proof.Machine.execRgld32 io rd rs1 s
  | .rgld64 io rd rs1 => Sys2Proof.Machine.execRgld64 io rd rs1 s
  | .rgst32 io rs1 rs2 => Sys2Proof.Machine.execRgst32 io rs1 rs2 s
  | .rgst64 io rs1 rs2 => Sys2Proof.Machine.execRgst64 io rs1 rs2 s
  | .vld io v rs1 imm => Sys2Proof.Machine.execVld io v rs1 imm s
  | .vst io v rs1 imm => Sys2Proof.Machine.execVst io v rs1 imm s
  | .ald io a rs1 imm => Sys2Proof.Machine.execAld io a rs1 imm s
  | .ast io a rs1 imm => Sys2Proof.Machine.execAst io a rs1 imm s
  | .xst io rs1 imm => Sys2Proof.Machine.execXst io rs1 imm s
  | .xldi io rs1 imm => Sys2Proof.Machine.execXldi io rs1 imm s
  | .xmrg io rs1 imm => Sys2Proof.Machine.execXmrg io rs1 imm s
  | .vadd io vd vs1 vs2 ty => Sys2Proof.Machine.execVadd io vd vs1 vs2 ty s
  | .vsub io vd vs1 vs2 ty => Sys2Proof.Machine.execVsub io vd vs1 vs2 ty s
  | .vmul io vd vs1 vs2 ty => Sys2Proof.Machine.execVmul io vd vs1 vs2 ty s
  | .vfma io vd vs1 vs2 ty => Sys2Proof.Machine.execVfma io vd vs1 vs2 ty s
  | .vmin io vd vs1 vs2 ty => Sys2Proof.Machine.execVmin io vd vs1 vs2 ty s
  | .vmax io vd vs1 vs2 ty => Sys2Proof.Machine.execVmax io vd vs1 vs2 ty s
  | .vabs io vd vs1 ty => Sys2Proof.Machine.execVabs io vd vs1 ty s
  | .vneg io vd vs1 ty => Sys2Proof.Machine.execVneg io vd vs1 ty s
  | .vand io vd vs1 vs2 => Sys2Proof.Machine.execVand io vd vs1 vs2 s
  | .vor io vd vs1 vs2 => Sys2Proof.Machine.execVor io vd vs1 vs2 s
  | .vxor io vd vs1 vs2 => Sys2Proof.Machine.execVxor io vd vs1 vs2 s
  | .vmov io vd vs1 => Sys2Proof.Machine.execVmov io vd vs1 s
  | .vdot io ad vs1 vs2 ty mx rs => Sys2Proof.Machine.execVdot io ad vs1 vs2 ty mx rs s
  | .vcvt io vd vs src dst part => Sys2Proof.Machine.execVcvt io vd vs src dst part s
  | .vqnt io v r a ty part => Sys2Proof.Machine.execVqnt io v r a ty part s
  | .vdq io v r a ty part => Sys2Proof.Machine.execVdq io v r a ty part s
  | .xclr io => Sys2Proof.Machine.execXclr io s
  | .xaddv io v ty => Sys2Proof.Machine.execXaddv io v ty s
  | .xadda io a => Sys2Proof.Machine.execXadda io a s
  | .xadds io r ty => Sys2Proof.Machine.execXadds io r ty s
  | .xrd io r ty => Sys2Proof.Machine.execXrd io r ty s
  | .scoreb io ad vq rs1 slot => Sys2Proof.Machine.execScoreb io ad vq rs1 slot s
  | .tkclr io rs1 rs2 => Sys2Proof.Machine.execTkclr io rs1 rs2 s
  | .tkins io ad rs1 rs2 => Sys2Proof.Machine.execTkins io ad rs1 rs2 s
  | .tkout io rd rs1 rs2 => Sys2Proof.Machine.execTkout io rd rs1 rs2 s
  | .tkcnt io rd => Sys2Proof.Machine.execTkcnt io rd s
  | .demote io rs1 rs2 e5m2 => Sys2Proof.Machine.execDemote io rs1 rs2 e5m2 s
  | .promote io rs1 rs2 e5m2 => Sys2Proof.Machine.execPromote io rs1 rs2 e5m2 s
  | .vmfsr io r => Sys2Proof.Machine.execVmfsr io r s
  | .vmtsr io r => Sys2Proof.Machine.execVmtsr io r s
  | .vbcast io v r ty => Sys2Proof.Machine.execVbcast io v r ty s
  | .vext io r v ty idx => Sys2Proof.Machine.execVext io r v ty idx s
  | .afromv io a v => Sys2Proof.Machine.execAfromv io a v s
  | .atov io v a => Sys2Proof.Machine.execAtov io v a s
  | .azero io a => Sys2Proof.Machine.execAzero io a s
  | .longInstructionStart io => Sys2Proof.Machine.execLongInstructionStart io s
  | .reservedEncodingIssue io word => Sys2Proof.Machine.execReservedEncodingIssue io word s
  | .skeinFenceStart t c h => Sys2Proof.Machine.execSkeinFenceStart t c h s
  | .skeinChunkEnd t c h => Sys2Proof.Machine.execSkeinChunkEnd t c h s
  | .skeinQueueRoom t c h => Sys2Proof.Machine.execSkeinQueueRoom t c h s
  | .skeinFault t c h => Sys2Proof.Machine.execSkeinFault t c h s
  | .skeinEarlyEnd t c h bad => Sys2Proof.Machine.execSkeinEarlyEnd t c h bad s
  | .skeinComplete t c h => Sys2Proof.Machine.execSkeinComplete t c h s
  | .cqEnable inst slot => Sys2Proof.Machine.execCqEnable inst slot s
  | .cqDisable inst slot => Sys2Proof.Machine.execCqDisable inst slot s
  | .memoryRead pa f unit row => Sys2Proof.Machine.execMemoryRead pa f unit row s
  | .memoryWrite pa data f unit row => Sys2Proof.Machine.execMemoryWrite pa data f unit row s
  | .monitorWindowEnd occ => Sys2Proof.Machine.execMonitorWindowEnd occ s
  | .migrationLineMove region => Sys2Proof.Machine.execMigrationLineMove region s
  | .migrationComplete region => Sys2Proof.Machine.execMigrationComplete region s
  | .holdExpiry region => Sys2Proof.Machine.execHoldExpiry region s
  | .rowRepairStart chan row free => Sys2Proof.Machine.execRowRepairStart chan row free s
  | .rowRepairLineStep chan row pa last => Sys2Proof.Machine.execRowRepairLineStep chan row pa last s
  | .dieMarkFailed stack die => Sys2Proof.Machine.execDieMarkFailed stack die s
  | .rebuildLineStep stack pa f unit row => Sys2Proof.Machine.execRebuildLineStep stack pa f unit row s
  | .rebuildComplete stack => Sys2Proof.Machine.execRebuildComplete stack s
  | .deviceMarkFailed chan dev => Sys2Proof.Machine.execDeviceMarkFailed chan dev s
  | .channelMoveLineStep chan pa f unit row => Sys2Proof.Machine.execChannelMoveLineStep chan pa f unit row s
  | .channelMoveComplete chan => Sys2Proof.Machine.execChannelMoveComplete chan s
  | .scrubLine pa f unit row => Sys2Proof.Machine.execScrubLine pa f unit row s
  | .scrubPassComplete far => Sys2Proof.Machine.execScrubPassComplete far s
  | .memMarkNearDie stack die => Sys2Proof.Machine.execMemMarkNearDie stack die s
  | .memMarkFarDevice chan dev => Sys2Proof.Machine.execMemMarkFarDevice chan dev s
  | .memResaltRegion region salt => Sys2Proof.Machine.execMemResaltRegion region salt s
  | .xltAsidCreate inst slot => Sys2Proof.Machine.execXltAsidCreate inst slot s
  | .xltAsidDestroy inst slot => Sys2Proof.Machine.execXltAsidDestroy inst slot s
  | .xltMap inst slot => Sys2Proof.Machine.execXltMap inst slot s
  | .xltUnmap inst slot => Sys2Proof.Machine.execXltUnmap inst slot s
  | .xltProtect inst slot => Sys2Proof.Machine.execXltProtect inst slot s
  | .xltSetHost inst slot => Sys2Proof.Machine.execXltSetHost inst slot s
  | .migrateIn inst slot => Sys2Proof.Machine.execMigrateIn inst slot s
  | .migrateInComplete inst slot data => Sys2Proof.Machine.execMigrateInComplete inst slot data s
  | .migrateOut inst slot => Sys2Proof.Machine.execMigrateOut inst slot s
  | .migrateOutComplete inst slot => Sys2Proof.Machine.execMigrateOutComplete inst slot s
  | .faultFail inst slot => Sys2Proof.Machine.execFaultFail inst slot s
  | .xltInvalidateComplete inst slot => Sys2Proof.Machine.execXltInvalidateComplete inst slot s
  | .translationWalk inst asid va wr who => Sys2Proof.Machine.execTranslationWalk inst asid va wr who s
  | .faultBatchSend inst => Sys2Proof.Machine.execFaultBatchSend inst s
  | .parkedRequestRetry inst asid va => Sys2Proof.Machine.execParkedRequestRetry inst asid va s
  | .faultTimeout inst asid va => Sys2Proof.Machine.execFaultTimeout inst asid va s
  | .xltFrConsWrite inst val => Sys2Proof.Machine.execXltFrConsWrite inst val s
  | .xltFrEnableWrite inst val => Sys2Proof.Machine.execXltFrEnableWrite inst val s
  | .modelLoad inst slot man => Sys2Proof.Machine.execModelLoad inst slot man s
  | .modelLoadComplete inst slot data => Sys2Proof.Machine.execModelLoadComplete inst slot data s
  | .modelUnload inst slot => Sys2Proof.Machine.execModelUnload inst slot s
  | .seqOpen inst slot => Sys2Proof.Machine.execSeqOpen inst slot s
  | .seqClose inst slot => Sys2Proof.Machine.execSeqClose inst slot s
  | .streamStart inst slot => Sys2Proof.Machine.execStreamStart inst slot s
  | .streamStop inst slot => Sys2Proof.Machine.execStreamStop inst slot s
  | .reshardRun inst slot plan => Sys2Proof.Machine.execReshardRun inst slot plan s
  | .reshardPlanComplete inst => Sys2Proof.Machine.execReshardPlanComplete inst s
  | .pageStep inst queue group desc => Sys2Proof.Machine.execPageStep inst queue group desc s
  | .pageReserveRefill inst seq layer head => Sys2Proof.Machine.execPageReserveRefill inst seq layer head s
  | .pageDemotion inst => Sys2Proof.Machine.execPageDemotion inst s
  | .pagePromotion inst seq layer head index => Sys2Proof.Machine.execPagePromotion inst seq layer head index s
  | .pageMoveSwitch inst seq layer head index => Sys2Proof.Machine.execPageMoveSwitch inst seq layer head index s
  | .qpCreate inst slot => Sys2Proof.Machine.execQpCreate inst slot s
  | .qpModify inst slot => Sys2Proof.Machine.execQpModify inst slot s
  | .qpQuery inst slot bad => Sys2Proof.Machine.execQpQuery inst slot bad s
  | .qpDestroy inst slot => Sys2Proof.Machine.execQpDestroy inst slot s
  | .workRequest inst queue slot => Sys2Proof.Machine.execWorkRequest inst queue slot s
  | .regionRegister inst slot => Sys2Proof.Machine.execRegionRegister inst slot s
  | .regionRevoke inst slot => Sys2Proof.Machine.execRegionRevoke inst slot s
  | .regionRevokeComplete inst slot => Sys2Proof.Machine.execRegionRevokeComplete inst slot s
  | .regionQuery inst slot bad => Sys2Proof.Machine.execRegionQuery inst slot bad s
  | .pacerRelease qpn => Sys2Proof.Machine.execPacerRelease qpn s
  | .weftPacketStart port room spent => Sys2Proof.Machine.execWeftPacketStart port room spent s
  | .writePacketReceive id => Sys2Proof.Machine.execWritePacketReceive id s
  | .fenceLastPlace qpn => Sys2Proof.Machine.execFenceLastPlace qpn s
  | .placementVisible qpn psn => Sys2Proof.Machine.execPlacementVisible qpn psn s
  | .ackDelayExpiry qpn => Sys2Proof.Machine.execAckDelayExpiry qpn s
  | .immediateNotification qpn => Sys2Proof.Machine.execImmediateNotification qpn s
  | .readReqReceive id => Sys2Proof.Machine.execReadReqReceive id s
  | .readRespReceive id => Sys2Proof.Machine.execReadRespReceive id s
  | .ackReceive id => Sys2Proof.Machine.execAckReceive id s
  | .nakReceive id => Sys2Proof.Machine.execNakReceive id s
  | .resumeReceive id => Sys2Proof.Machine.execResumeReceive id s
  | .ceEchoReceive id => Sys2Proof.Machine.execCeEchoReceive id s
  | .ceEchoTimer qpn => Sys2Proof.Machine.execCeEchoTimer qpn s
  | .retransmitTimerExpiry qpn => Sys2Proof.Machine.execRetransmitTimerExpiry qpn s
  | .faultWaitProbe qpn psn => Sys2Proof.Machine.execFaultWaitProbe qpn psn s
  | .rateUpdate qpn => Sys2Proof.Machine.execRateUpdate qpn s
  | .quarantineExpiry qpn path => Sys2Proof.Machine.execQuarantineExpiry qpn path s
  | .bucketRefill bucket => Sys2Proof.Machine.execBucketRefill bucket s
  | .colGroupCreate inst slot list => Sys2Proof.Machine.execColGroupCreate inst slot list s
  | .colGroupReset inst slot => Sys2Proof.Machine.execColGroupReset inst slot s
  | .colGroupDestroy inst slot => Sys2Proof.Machine.execColGroupDestroy inst slot s
  | .colRun inst queue slot => Sys2Proof.Machine.execColRun inst queue slot s
  | .tileColRun tile => Sys2Proof.Machine.execTileColRun tile s
  | .colChunkSignal group tile data differs => Sys2Proof.Machine.execColChunkSignal group tile data differs s
  | .pinchHostPost inst val => Sys2Proof.Machine.execPinchHostPost inst val s
  | .pinchTilePost id => Sys2Proof.Machine.execPinchTilePost id s
  | .pinchArriveReceive port => Sys2Proof.Machine.execPinchArriveReceive port s
  | .pinchReleaseReceive port => Sys2Proof.Machine.execPinchReleaseReceive port s
  | .pinchAckReceive port => Sys2Proof.Machine.execPinchAckReceive port s
  | .pinchReplayTimeout port group => Sys2Proof.Machine.execPinchReplayTimeout port group s
  | .pinchOpTimeout group => Sys2Proof.Machine.execPinchOpTimeout group s
  | .pinchFrameSend port => Sys2Proof.Machine.execPinchFrameSend port s
  | .cageCfgWrite r cage val => Sys2Proof.Machine.execCageCfgWrite r cage val s
  | .laneDown lane cause => Sys2Proof.Machine.execLaneDown lane cause s
  | .laneTrainingComplete lane linkOk phy lpi => Sys2Proof.Machine.execLaneTrainingComplete lane linkOk phy lpi s
  | .laneTrainingTimeout lane => Sys2Proof.Machine.execLaneTrainingTimeout lane s
  | .laneShiftCmd r val => Sys2Proof.Machine.execLaneShiftCmd r val s
  | .shiftSpareReady lane => Sys2Proof.Machine.execShiftSpareReady lane s
  | .creditWordReceive lane word => Sys2Proof.Machine.execCreditWordReceive lane word s
  | .lossWordReceive lane word => Sys2Proof.Machine.execLossWordReceive lane word s
  | .fabricFrameReceive lane bytes => Sys2Proof.Machine.execFabricFrameReceive lane bytes s
  | .ethernetFrameReceive port f => Sys2Proof.Machine.execEthernetFrameReceive port f s
  | .xoffRefresh port => Sys2Proof.Machine.execXoffRefresh port s
  | .pauseFrameReceive port f => Sys2Proof.Machine.execPauseFrameReceive port f s
  | .pauseExpiry port prios => Sys2Proof.Machine.execPauseExpiry port prios s
  | .lpiEntry port => Sys2Proof.Machine.execLpiEntry port s
  | .lldpSend port => Sys2Proof.Machine.execLldpSend port s
  | .lldpReceive port f => Sys2Proof.Machine.execLldpReceive port f s
  | .doorbellWrite inst queue tail => Sys2Proof.Machine.execDoorbellWrite inst queue tail s
  | .ringEntryTake inst queue raw => Sys2Proof.Machine.execRingEntryTake inst queue raw s
  | .ownPoll inst queue raw => Sys2Proof.Machine.execOwnPoll inst queue raw s
  | .ringReadRetry inst queue raw => Sys2Proof.Machine.execRingReadRetry inst queue raw s
  | .headPublish inst queue => Sys2Proof.Machine.execHeadPublish inst queue s
  | .coalesceTimer inst queue => Sys2Proof.Machine.execCoalesceTimer inst queue s
  | .ringSyncRead inst => Sys2Proof.Machine.execRingSyncRead inst s
  | .heartbeatWrite inst => Sys2Proof.Machine.execHeartbeatWrite inst s
  | .heartbeatTimeout inst => Sys2Proof.Machine.execHeartbeatTimeout inst s
  | .adminQueueEnable inst cfg => Sys2Proof.Machine.execAdminQueueEnable inst cfg s
  | .adminQueueDisable inst ring => Sys2Proof.Machine.execAdminQueueDisable inst ring s
  | .nop inst queue slot => Sys2Proof.Machine.execNop inst queue slot s
  | .identify inst slot => Sys2Proof.Machine.execIdentify inst slot s
  | .queueCreate inst slot => Sys2Proof.Machine.execQueueCreate inst slot s
  | .queueDestroy inst slot ring => Sys2Proof.Machine.execQueueDestroy inst slot ring s
  | .queueReset inst slot ring => Sys2Proof.Machine.execQueueReset inst slot ring s
  | .asyncEvent inst slot => Sys2Proof.Machine.execAsyncEvent inst slot s
  | .reattach inst slot => Sys2Proof.Machine.execReattach inst slot s
  | .tileAssign inst slot => Sys2Proof.Machine.execTileAssign inst slot s
  | .hostToDev inst queue slot => Sys2Proof.Machine.execHostToDev inst queue slot s
  | .devToHost inst queue slot => Sys2Proof.Machine.execDevToHost inst queue slot s
  | .inlineToDev inst queue slot => Sys2Proof.Machine.execInlineToDev inst queue slot s
  | .copyComplete inst queue slot tile data => Sys2Proof.Machine.execCopyComplete inst queue slot tile data s
  | .pcieLinkDown => Sys2Proof.Machine.execPcieLinkDown s
  | .perstAssert => Sys2Proof.Machine.execPerstAssert s
  | .bmeClear fn => Sys2Proof.Machine.execBmeClear fn s
  | .d640GetVersion inst => Sys2Proof.Machine.execD640GetVersion inst s
  | .d640GetPort inst => Sys2Proof.Machine.execD640GetPort inst s
  | .d640GetPortCounters inst => Sys2Proof.Machine.execD640GetPortCounters inst s
  | .d640GetTemp inst temps => Sys2Proof.Machine.execD640GetTemp inst temps s
  | .d640GetMac inst => Sys2Proof.Machine.execD640GetMac inst s
  | .d640Echo inst => Sys2Proof.Machine.execD640Echo inst s
  | .d640Unsupported inst => Sys2Proof.Machine.execD640Unsupported inst s
  | .instCreate => Sys2Proof.Machine.execInstCreate s
  | .instQuiesce => Sys2Proof.Machine.execInstQuiesce s
  | .quiesceComplete inst => Sys2Proof.Machine.execQuiesceComplete inst s
  | .quiesceLimitExpiry inst => Sys2Proof.Machine.execQuiesceLimitExpiry inst s
  | .instResume => Sys2Proof.Machine.execInstResume s
  | .instReset => Sys2Proof.Machine.execInstReset s
  | .instRemove => Sys2Proof.Machine.execInstRemove s
  | .instSetMode => Sys2Proof.Machine.execInstSetMode s
  | .functionLevelReset fn => Sys2Proof.Machine.execFunctionLevelReset fn s
  | .mbxSend r inst len => Sys2Proof.Machine.execMbxSend r inst len s
  | .mbxWithdraw r inst => Sys2Proof.Machine.execMbxWithdraw r inst s
  | .mbxTake r inst => Sys2Proof.Machine.execMbxTake r inst s
  | .mbxAck r inst code => Sys2Proof.Machine.execMbxAck r inst code s
  | .mbxHello inst => Sys2Proof.Machine.execMbxHello inst s
  | .mbxResetRequest inst => Sys2Proof.Machine.execMbxResetRequest inst s
  | .provision blob => Sys2Proof.Machine.execProvision blob s
  | .forget => Sys2Proof.Machine.execForget s
  | .keyInstall => Sys2Proof.Machine.execKeyInstall s
  | .keySwitch => Sys2Proof.Machine.execKeySwitch s
  | .keyRetire => Sys2Proof.Machine.execKeyRetire s
  | .keyClear => Sys2Proof.Machine.execKeyClear s
  | .debugUnlock r val => Sys2Proof.Machine.execDebugUnlock r val s
  | .debugOpen => Sys2Proof.Machine.execDebugOpen s
  | .tamperAlarm sources => Sys2Proof.Machine.execTamperAlarm sources s
  | .secTamperClear r val => Sys2Proof.Machine.execSecTamperClear r val s
  | .cellLow => Sys2Proof.Machine.execCellLow s
  | .entropyHealthFail => Sys2Proof.Machine.execEntropyHealthFail s
  | .noiseRetest pass => Sys2Proof.Machine.execNoiseRetest pass s
  | .drbgReseed => Sys2Proof.Machine.execDrbgReseed s
  | .calStart lane pick => Sys2Proof.Machine.execCalStart lane pick s
  | .calStep lane => Sys2Proof.Machine.execCalStep lane s
  | .calComplete lane => Sys2Proof.Machine.execCalComplete lane s
  | .fwStage img sig => Sys2Proof.Machine.execFwStage img sig s
  | .fwActivate => Sys2Proof.Machine.execFwActivate s
  | .fwConfirm => Sys2Proof.Machine.execFwConfirm s
  | .fwRevert => Sys2Proof.Machine.execFwRevert s
  | .fwTrialExpiry => Sys2Proof.Machine.execFwTrialExpiry s
  | .traceCollect die => Sys2Proof.Machine.execTraceCollect die s
  | .saffronFrameSend => Sys2Proof.Machine.execSaffronFrameSend s
  | .saffronLaneDown lane => Sys2Proof.Machine.execSaffronLaneDown lane s
  | .traceMark r val => Sys2Proof.Machine.execTraceMark r val s
  | .triggerArm r val => Sys2Proof.Machine.execTriggerArm r val s
  | .triggerCmdFire r => Sys2Proof.Machine.execTriggerCmdFire r s
  | .freezePinEdge => Sys2Proof.Machine.execFreezePinEdge s
  | .freezeSnapshot => Sys2Proof.Machine.execFreezeSnapshot s
  | .triggerCmdThaw r => Sys2Proof.Machine.execTriggerCmdThaw r s
  | .triggerCmdResume r => Sys2Proof.Machine.execTriggerCmdResume r s
  | .haltAll => Sys2Proof.Machine.execHaltAll s
  | .haltComplete => Sys2Proof.Machine.execHaltComplete s
  | .scanStart r => Sys2Proof.Machine.execScanStart r s
  | .scanComplete => Sys2Proof.Machine.execScanComplete s
  | .jtagIdcode => Sys2Proof.Machine.execJtagIdcode s
  | .jtagUnlock => Sys2Proof.Machine.execJtagUnlock s
  | .jtagHalt => Sys2Proof.Machine.execJtagHalt s
  | .jtagResume => Sys2Proof.Machine.execJtagResume s
  | .jtagScanSel val => Sys2Proof.Machine.execJtagScanSel val s
  | .jtagScanData bits => Sys2Proof.Machine.execJtagScanData bits s
  | .jtagBypass => Sys2Proof.Machine.execJtagBypass s
  | .powerOnReset b => Sys2Proof.Machine.execPowerOnReset b s
  | .coldReset r val b => Sys2Proof.Machine.execColdReset r val b s
  | .warmReset r val b => Sys2Proof.Machine.execWarmReset r val b s
  | .pllLockLoss b => Sys2Proof.Machine.execPllLockLoss b s
  | .powerTrip cause value => Sys2Proof.Machine.execPowerTrip cause value s
  | .powerControlTick m => Sys2Proof.Machine.execPowerControlTick m s
  | .paceCfgWrite r val => Sys2Proof.Machine.execPaceCfgWrite r val s
  | .paceMapWrite r n val => Sys2Proof.Machine.execPaceMapWrite r n val s
  | .moduleInsert cage watts ready => Sys2Proof.Machine.execModuleInsert cage watts ready s
  | .moduleRemove cage => Sys2Proof.Machine.execModuleRemove cage s
  | .smbReadVin => Sys2Proof.Machine.execSmbReadVin s
  | .smbReadPin => Sys2Proof.Machine.execSmbReadPin s
  | .smbReadDieTemp => Sys2Proof.Machine.execSmbReadDieTemp s
  | .smbReadMemTemp => Sys2Proof.Machine.execSmbReadMemTemp s
  | .smbReadBootStatus => Sys2Proof.Machine.execSmbReadBootStatus s
  | .smbReadLastTrip => Sys2Proof.Machine.execSmbReadLastTrip s
  | .smbReadSecState => Sys2Proof.Machine.execSmbReadSecState s
  | .smbReadIdentity => Sys2Proof.Machine.execSmbReadIdentity s
  | .smbUnknownCommand code => Sys2Proof.Machine.execSmbUnknownCommand code s
  | .cellReplace => Sys2Proof.Machine.execCellReplace s
  | .cellExhausted => Sys2Proof.Machine.execCellExhausted s
  | .pcieLinkUp => Sys2Proof.Machine.execPcieLinkUp s
  | .instanceResetDone inst => Sys2Proof.Machine.execInstanceResetDone inst s

end Sys2Proof.Machine
end

