-- ==== Sys2Proof/Machine/Step.lean ====
section
/-! DEFINITION. One step: the command at the front of the queue, or a cycle of the pick clock when none waits. -/
namespace Sys2Proof.Machine
open Sys2Proof

/-- What the adapter does while no command waits: the cycle counters move on by one, up to the edge cycle of the pick
(R61, R63); the wall itself is a command of the table.  DESIGN CHOICE (log 3). -/
def State.idle (s : State) : State := if s.cyc < s.edge then { s.elapse 1 with cyc := s.cyc + 1 } else s

/-- Take the command at the front of the queue and run it with the queue's rest. -/
def step (s : State) : Host.Outcome State Fault Refusal :=
  match s.pending with
  | c :: rest => exec c { s with pending := rest }
  | [] => .next s.idle

/-- The state with the command that a word spells put at the front of its queue. -/
def State.withFetchWord (s : State) (nbits w : Nat) : State :=
  match decodeTableWord nbits w with
  | some c => { s with pending := c :: s.pending }
  | none => s

end Sys2Proof.Machine
end

