-- ==== Sys2Proof/Safety.lean ====
section
/-! DEFINITION. What a well-kept state is, and when a tile may issue an instruction: the terms the statements use. -/
namespace Sys2Proof.Machine
open Sys2Proof

/-- The canonical form of device memory: addresses strictly rising, and no entry equal to what an unlisted address reads
as. -/
abbrev Memory.wf (m : List Host.Cell) : Bool := canonical 0 m

/-- The register files of a context are in canonical form, and s0 is never listed, so that it reads as 0 (R139). -/
def Context.ok (k : Context) : Bool :=
  canonical 0 k.s && k.s.all (fun p => p.1 != 0) && canonical 0 k.v && canonical 0 k.a && sortedKeys k.handles

/-- Both contexts of a tile are well kept. -/
def Tile.ok (x : Tile) : Bool := x.s.ok && x.w.ok

/-- The registers are in canonical form: keys rising, and no register listed at its reset value. -/
def csrOk (m : SMap Nat) : Prop := sortedKeys m = true ∧ ∀ p ∈ m, p.2 ≠ regReset p.1

/-- The state is well kept: device memory, the poison marks, the registers and the tiles are in canonical form, so that
equal contents are equal data and a read gives what was last written. -/
structure State.Sound (s : State) : Prop where
  mem : Memory.wf s.mem = true
  poison : canonical false s.poison = true
  csr : csrOk s.csr
  tiles : canonical {} s.til.tiles = true
  tilesOk : ∀ p ∈ s.til.tiles, p.2.ok = true

/-- Whether an instruction may issue and its fetch meets no error: its context runs (R143), and the word is good (R117). -/
def State.ready (s : State) (i : Issue) : Prop := s.runs i.tile i.ctx = true ∧ i.fetch = .good

/-- Whether the context of `i` runs and waits in the blocking instruction `x` (Table 4.6). -/
def State.waitsOn (s : State) (i : Issue) (x : Instr) : Prop :=
  s.live i.tile i.ctx = true ∧ (s.ctx i.tile i.ctx).wait = some x

/-- The PC of the issuing context. -/
abbrev State.pcOf (s : State) (i : Issue) : Word := (s.ctx i.tile i.ctx).pc

/-- A command completes in the state `t`. -/
abbrev done (t : State) : Host.Outcome State Fault Refusal := .next t

/-- An instruction that changes its context by `f` and retires. -/
abbrev State.effect (s : State) (i : Issue) (f : Context → Context) : State := (s.upd i f).advance i

/-- An instruction that writes `v` to scalar register `rd` and retires. -/
abbrev State.result (s : State) (i : Issue) (rd : SReg) (v : Word) : State := (s.ws i rd v).advance i

/-- The exception `c` with value `v` of an instruction that has had no effect (R171). -/
abbrev State.traps (s : State) (i : Issue) (c : Nat) (v : Word) : State := s.except i.tile i.ctx c v (s.pcOf i)

/-- Whether `n` bytes at `ea` are an aligned line of the data store: what a 64-byte access asks (R158 to R163, R193). -/
def lineOk (ea : Word) (n : Nat) : Prop := inData ea.toNat n = true ∧ ea.toNat % 64 = 0

/-- The `n` bytes that the issuing core reads at offset `ea` of its local store. -/
abbrev State.localBytes (s : State) (i : Issue) (ea : Word) (n : Nat) : List Byte := s.bytes (localPa i.tile ea.toNat) n

/-- Two register fields share no bit. -/
def apart (f g : RegFld) : Prop := f.reg ≠ g.reg ∨ f.lo + f.w ≤ g.lo ∨ g.lo + g.w ≤ f.lo

/-- The outcome `o` is `u` but for the listed register fields: each reads as the low bits of its listed value, every field
that shares no bit with them as in `u`, and all else of the machine is that of `u`. -/
def State.sets (u : State) (o : Host.Outcome State Fault Refusal) (l : List (RegFld × Nat)) : Prop :=
  ∃ t, o = done t ∧ t = { u with csr := t.csr } ∧ (∀ p ∈ l, t.get p.1 = p.2 % 2 ^ p.1.w) ∧
    ∀ f : RegFld, (∀ p ∈ l, apart p.1 f) → t.get f = u.get f

end Sys2Proof.Machine
end

