-- ==== Sys2Proof/Certificates/Slice0/Obligations.lean ====
section
/-! DEFINITION. The statements about the adapter, by chapter of the spec: what each command does, what it leaves alone, and
what every step keeps. -/
open Sys2Proof Sys2Proof.Machine


/-! ### The machine -/

/-- A step takes the command at the front of the queue and runs it with the queue's rest. On an empty queue a cycle of
the pick clock passes, up to the edge cycle of the pick, and the counter never goes past it (the model's choice, log 3;
the cycle counter is that of R61 and R63). -/
def Obligations.StepRunsFrontCommand : Prop :=
  (∀ (c : Instr) (s : State), step { s with pending := c :: s.pending } = exec c s) ∧
  (∀ s : State, s.pending = [] → ∃ t, step s = done t ∧ t.pending = [] ∧ t.mem = s.mem ∧ t.til = s.til ∧
    (s.cyc < s.edge → t.cyc = s.cyc + 1 ∧ t.time = s.time + 1) ∧ (s.edge ≤ s.cyc → t = s) ∧
    (s.cyc ≤ s.edge → t.cyc ≤ t.edge))

/-- The state after reset is well kept. -/
def Obligations.ResetIsSound : Prop :=
  State.reset.Sound

/-- Every command keeps a well-kept state well kept: device memory, the poison marks, the registers and every tile's
register files stay in canonical form, and s0 reads as 0. -/
def Obligations.StepKeepsSound : Prop :=
  ∀ s t : State, s.Sound → step s = done t → t.Sound

/-! ### Scalar integer instructions (Tables 4.4 and 4.5) -/

/-- ALU operations: rd takes the result of Table 4.4, division by Table 4.5. CLZ and CTZ count the zeros above the
highest and below the lowest one bit, 64 for 0; POPC counts the one bits. The W forms: the operation on the low 32 bits,
its 32-bit result sign-extended (R150, R151). -/
def Obligations.AluResults : Prop :=
  (∀ (s : State) (i : Issue) (rd a b : SReg), s.ready i →
    let x := s.rs i a
    let y := s.rs i b
    exec (.add i rd a b) s = done (s.result i rd (x + y)) ∧
    exec (.sub i rd a b) s = done (s.result i rd (x - y)) ∧
    exec (.and i rd a b) s = done (s.result i rd (x &&& y)) ∧
    exec (.or i rd a b) s = done (s.result i rd (x ||| y)) ∧
    exec (.xor i rd a b) s = done (s.result i rd (x ^^^ y)) ∧
    exec (.sll i rd a b) s = done (s.result i rd (x <<< (y.toNat % 64))) ∧
    exec (.srl i rd a b) s = done (s.result i rd (x >>> (y.toNat % 64))) ∧
    exec (.sra i rd a b) s = done (s.result i rd (x.sshiftRight (y.toNat % 64))) ∧
    exec (.slt i rd a b) s = done (s.result i rd (if x.toInt < y.toInt then 1 else 0)) ∧
    exec (.sltu i rd a b) s = done (s.result i rd (if x.toNat < y.toNat then 1 else 0)) ∧
    exec (.min i rd a b) s = done (s.result i rd (BitVec.ofInt 64 (min x.toInt y.toInt))) ∧
    exec (.max i rd a b) s = done (s.result i rd (BitVec.ofInt 64 (max x.toInt y.toInt))) ∧
    exec (.minu i rd a b) s = done (s.result i rd (BitVec.ofNat 64 (min x.toNat y.toNat))) ∧
    exec (.maxu i rd a b) s = done (s.result i rd (BitVec.ofNat 64 (max x.toNat y.toNat))) ∧
    exec (.mul i rd a b) s = done (s.result i rd (x * y)) ∧
    exec (.mulh i rd a b) s = done (s.result i rd (BitVec.ofInt 64 (x.toInt * y.toInt / 2 ^ 64))) ∧
    exec (.mulhu i rd a b) s = done (s.result i rd (BitVec.ofNat 64 (x.toNat * y.toNat / 2 ^ 64))) ∧
    exec (.mulhsu i rd a b) s = done (s.result i rd (BitVec.ofInt 64 (x.toInt * y.toNat / 2 ^ 64))) ∧
    exec (.div i rd a b) s = done (s.result i rd (if y = 0 then -1 else BitVec.ofInt 64 (x.toInt.tdiv y.toInt))) ∧
    exec (.divu i rd a b) s = done (s.result i rd (if y = 0 then -1 else BitVec.ofNat 64 (x.toNat / y.toNat))) ∧
    exec (.rem i rd a b) s = done (s.result i rd (if y = 0 then x else BitVec.ofInt 64 (x.toInt.tmod y.toInt))) ∧
    exec (.remu i rd a b) s = done (s.result i rd (if y = 0 then x else BitVec.ofNat 64 (x.toNat % y.toNat)))) ∧
  (∀ (s : State) (i : Issue) (rd a : SReg), s.ready i →
    let x := s.rs i a
    (∃ n : Nat, exec (.clz i rd a) s = done (s.result i rd (BitVec.ofNat 64 n)) ∧ n ≤ 64 ∧
      (∀ k, 64 - n ≤ k → x.getLsbD k = false) ∧ (n < 64 → x.getLsbD (63 - n) = true)) ∧
    (∃ n : Nat, exec (.ctz i rd a) s = done (s.result i rd (BitVec.ofNat 64 n)) ∧ n ≤ 64 ∧
      (∀ k, k < n → x.getLsbD k = false) ∧ (n < 64 → x.getLsbD n = true)) ∧
    exec (.popc i rd a) s = done (s.result i rd (BitVec.ofNat 64 ((List.range 64).countP x.getLsbD)))) ∧
  (∀ (s : State) (i : Issue) (rd a b : SReg), s.ready i →
    let x : BitVec 32 := (s.rs i a).setWidth 32
    let y : BitVec 32 := (s.rs i b).setWidth 32
    let w (v : BitVec 32) := done (s.result i rd (v.signExtend 64))
    exec (.addw i rd a b) s = w (x + y) ∧
    exec (.subw i rd a b) s = w (x - y) ∧
    exec (.sllw i rd a b) s = w (x <<< (y.toNat % 32)) ∧
    exec (.srlw i rd a b) s = w (x >>> (y.toNat % 32)) ∧
    exec (.sraw i rd a b) s = w (x.sshiftRight (y.toNat % 32)) ∧
    exec (.mulw i rd a b) s = w (x * y) ∧
    exec (.divw i rd a b) s = w (if y = 0 then -1 else BitVec.ofInt 32 (x.toInt.tdiv y.toInt)) ∧
    exec (.divuw i rd a b) s = w (if y = 0 then -1 else BitVec.ofNat 32 (x.toNat / y.toNat)) ∧
    exec (.remw i rd a b) s = w (if y = 0 then x else BitVec.ofInt 32 (x.toInt.tmod y.toInt)) ∧
    exec (.remuw i rd a b) s = w (if y = 0 then x else BitVec.ofNat 32 (x.toNat % y.toNat)))

/-- The immediate operations (R148, R152): IMM16 sign-extended for ADDI, ADDIW, SLTI and SLTIU, zero-extended for ANDI,
ORI and XORI. -/
def Obligations.ImmediateResults : Prop :=
  ∀ (s : State) (i : Issue) (rd a : SReg) (imm : BitVec 16) (u : BitVec 21) (sh : BitVec 6), s.ready i →
    let x := s.rs i a
    let m := BitVec.ofInt 64 imm.toInt
    let z := BitVec.ofNat 64 imm.toNat
    exec (.addi i rd a imm) s = done (s.result i rd (x + m)) ∧
    exec (.andi i rd a imm) s = done (s.result i rd (x &&& z)) ∧
    exec (.ori i rd a imm) s = done (s.result i rd (x ||| z)) ∧
    exec (.xori i rd a imm) s = done (s.result i rd (x ^^^ z)) ∧
    exec (.slti i rd a imm) s = done (s.result i rd (if x.toInt < imm.toInt then 1 else 0)) ∧
    exec (.sltiu i rd a imm) s = done (s.result i rd (if x.toNat < m.toNat then 1 else 0)) ∧
    exec (.slli i rd a sh) s = done (s.result i rd (BitVec.ofNat 64 (x.toNat * 2 ^ sh.toNat))) ∧
    exec (.srli i rd a sh) s = done (s.result i rd (BitVec.ofNat 64 (x.toNat / 2 ^ sh.toNat))) ∧
    exec (.srai i rd a sh) s = done (s.result i rd (BitVec.ofInt 64 (x.toInt / 2 ^ sh.toNat))) ∧
    exec (.lui i rd u) s = done (s.result i rd (BitVec.ofInt 64 (u.toInt * 2 ^ 16))) ∧
    exec (.addiw i rd a imm) s = done (s.result i rd ((x + m).setWidth 32 |>.signExtend 64))

/-- What the ALU, immediate and load instructions leave: rd holds the result (s0 still reads 0), the PC and RETIRED move
on, and every other register of the context, the other context and all else of the machine stay (R139). -/
def Obligations.ScalarResultFrame : Prop :=
  ∀ (s : State) (i : Issue) (rd : SReg) (v : Word), s.Sound → s.pcOf i ≠ 0x7FFC →
    let t := s.result i rd v
    let k := s.ctx i.tile i.ctx
    (∀ r, t.rs i r = if r = 0 then 0 else if r = rd then v else s.rs i r) ∧
    t.ctx i.tile i.ctx = { k with pc := k.pc + 4, retired := k.retired + 1, wait := none, crossed := false,
                                  s := (t.ctx i.tile i.ctx).s } ∧
    (∀ u c, (u, c) ≠ (i.tile, i.ctx) → t.ctx u c = s.ctx u c) ∧
    t = { s with til := { s.til with tiles := t.til.tiles } }

/-! ### Loads and stores (R154, R155) -/

/-- Loads from a valid, aligned address: rd takes the little-endian bytes, sign- or zero-extended. Stores to a valid,
aligned address: the low bytes of rs2 stand at EA, lowest first, every other byte of memory and every register of the
context stays, and nothing else of the machine changes but the PC and RETIRED. -/
def Obligations.LoadAndStoreResults : Prop :=
  (∀ (s : State) (i : Issue) (rd a : SReg) (imm : BitVec 16), s.ready i → i.read = .good →
    let ea := s.rs i a + BitVec.ofInt 64 imm.toInt
    let b (k : Nat) : Nat := (s.byte (localPa i.tile (ea.toNat + k))).toNat
    let h := b 0 + 2 ^ 8 * b 1
    let w := h + 2 ^ 16 * b 2 + 2 ^ 24 * b 3
    ea.toNat ≤ 0x2FFFF →
    exec (.lb i rd a imm) s = done (s.result i rd ((BitVec.ofNat 8 (b 0)).signExtend 64)) ∧
    exec (.lbu i rd a imm) s = done (s.result i rd (BitVec.ofNat 64 (b 0))) ∧
    (ea.toNat % 2 = 0 → exec (.lh i rd a imm) s = done (s.result i rd ((BitVec.ofNat 16 h).signExtend 64)) ∧
      exec (.lhu i rd a imm) s = done (s.result i rd (BitVec.ofNat 64 h))) ∧
    (ea.toNat % 4 = 0 → exec (.lw i rd a imm) s = done (s.result i rd ((BitVec.ofNat 32 w).signExtend 64)) ∧
      exec (.lwu i rd a imm) s = done (s.result i rd (BitVec.ofNat 64 w))) ∧
    (ea.toNat % 8 = 0 → exec (.ld i rd a imm) s = done (s.result i rd (BitVec.ofNat 64
      (w + 2 ^ 32 * b 4 + 2 ^ 40 * b 5 + 2 ^ 48 * b 6 + 2 ^ 56 * b 7))))) ∧
  (∀ (s : State) (i : Issue) (src a : SReg) (imm : BitVec 16), s.Sound → s.ready i → s.pcOf i ≠ 0x7FFC →
    let ea := s.rs i a + BitVec.ofInt 64 imm.toInt
    let pa := localPa i.tile ea.toNat
    let k := s.ctx i.tile i.ctx
    let stored (n : Nat) (o : Host.Outcome State Fault Refusal) : Prop := ∃ t, o = done t ∧
      (∀ j, j < n → t.byte (pa + j) = BitVec.ofNat 8 ((s.rs i src).toNat / 2 ^ (8 * j))) ∧
      (∀ p, p < pa ∨ pa + n ≤ p → t.byte p = s.byte p) ∧
      t.ctx i.tile i.ctx = { k with pc := k.pc + 4, retired := k.retired + 1, wait := none, crossed := false } ∧
      (∀ u c, (u, c) ≠ (i.tile, i.ctx) → t.ctx u c = s.ctx u c) ∧
      t = { s with mem := t.mem, til := { s.til with tiles := t.til.tiles } }
    0x8000 ≤ ea.toNat → ea.toNat ≤ 0x2FFFF →
    stored 1 (exec (.sb i src a imm) s) ∧
    (ea.toNat % 2 = 0 → stored 2 (exec (.sh i src a imm) s)) ∧
    (ea.toNat % 4 = 0 → stored 4 (exec (.sw i src a imm) s)) ∧
    (ea.toNat % 8 = 0 → stored 8 (exec (.sd i src a imm) s)))

/-- Loads and stores outside the local store take LOAD_RANGE and STORE_RANGE, and misaligned ones MISALIGN, with EVAL
the effective address and no other effect; the range comes first. -/
def Obligations.LoadStoreTraps : Prop :=
  ∀ (s : State) (i : Issue) (r a : SReg) (imm : BitVec 16), s.ready i →
    let ea := s.rs i a + BitVec.ofInt 64 imm.toInt
    let loads (n : Nat) : List Instr := if n = 1 then [.lb i r a imm, .lbu i r a imm]
      else if n = 2 then [.lh i r a imm, .lhu i r a imm] else if n = 4 then [.lw i r a imm, .lwu i r a imm] else [.ld i r a imm]
    let stores (n : Nat) : List Instr := if n = 1 then [.sb i r a imm] else if n = 2 then [.sh i r a imm]
      else if n = 4 then [.sw i r a imm] else [.sd i r a imm]
    ∀ n ∈ [1, 2, 4, 8],
      (0x2FFFF < ea.toNat → ∀ c ∈ loads n, exec c s = done (s.traps i exLOAD_RANGE ea)) ∧
      (ea.toNat < 0x8000 ∨ 0x2FFFF < ea.toNat → ∀ c ∈ stores n, exec c s = done (s.traps i exSTORE_RANGE ea)) ∧
      (ea.toNat ≤ 0x2FFFF → ea.toNat % n ≠ 0 → ∀ c ∈ loads n, exec c s = done (s.traps i exMISALIGN ea)) ∧
      (0x8000 ≤ ea.toNat → ea.toNat ≤ 0x2FFFF → ea.toNat % n ≠ 0 →
        ∀ c ∈ stores n, exec c s = done (s.traps i exMISALIGN ea))

/-! ### Branches, jumps, exceptions (R157, R171 to R174) -/

/-- Branches and jumps (R157): the condition, the target and the link; a bad target takes FETCH_RANGE at the instruction
itself, with EVAL the target. -/
def Obligations.BranchesAndJumps : Prop :=
  ∀ (s : State) (i : Issue) (rd a b : SReg) (off : BitVec 16) (o21 : BitVec 21), s.ready i →
    let x := s.rs i a
    let y := s.rs i b
    let pc := s.pcOf i
    let goes (s1 : State) (t : Word) : Host.Outcome State Fault Refusal :=
      if t.toNat % 4 = 0 ∧ t.toNat ≤ 0x7FFC then done (s1.upd i (·.next t)) else done (s.traps i exFETCH_RANGE t)
    let br (c : Bool) : Host.Outcome State Fault Refusal :=
      if c then goes s (pc + BitVec.ofInt 64 (off.toInt * 4)) else done (s.advance i)
    exec (.beq i a b off) s = br (x = y) ∧
    exec (.bne i a b off) s = br (x ≠ y) ∧
    exec (.blt i a b off) s = br (x.toInt < y.toInt) ∧
    exec (.bge i a b off) s = br (y.toInt ≤ x.toInt) ∧
    exec (.bltu i a b off) s = br (x.toNat < y.toNat) ∧
    exec (.bgeu i a b off) s = br (y.toNat ≤ x.toNat) ∧
    exec (.jal i rd o21) s = goes (s.ws i rd (pc + 4)) (pc + BitVec.ofInt 64 (o21.toInt * 4)) ∧
    exec (.jalr i rd a off) s = goes (s.ws i rd (pc + 4)) (x + BitVec.ofInt 64 off.toInt)

/-- Trap entry (R173) and an unhandled exception (R174): EPC, ECAUSE and EVAL are written in both; with EVEC.ENABLE set
outside a trap the context goes on at EVEC.OFFSET in the trap, else it stops. Its registers, RETIRED and device memory
stay, and the other context is not touched. ERET goes back to EPC and leaves the trap; outside a trap it takes ILLEGAL.
TRAP takes TRAP with its code, and a reserved word takes ILLEGAL with the word (R147, R169, R173). -/
def Obligations.ExceptionEntryAndTraps : Prop :=
  (∀ (s : State) (n : Nat) (x : Ctx) (c : Nat) (v a : Word), s.Sound → c < 2 ^ 64 → a.toNat < 2 ^ 16 →
    let t := s.except n x c v a
    let k := s.ctx n x
    let q := t.ctx n x
    q.epc = a ∧ q.ecause.toNat = c ∧ q.eval = v ∧ q.s = k.s ∧ q.v = k.v ∧ q.a = k.a ∧ q.retired = k.retired ∧ t.mem = s.mem ∧
    (k.evec.getLsbD 0 = true → k.estatus.getLsbD 0 = false →
      q.estatus = 1 ∧ q.pc = k.evec &&& 0x7FFC ∧ q.stopped = k.stopped ∧ t.csr = s.csr) ∧
    (k.evec.getLsbD 0 = false ∨ k.estatus.getLsbD 0 = true →
      q.stopped = true ∧ q.pc = k.pc ∧ q.estatus = k.estatus ∧ (t.tile n).unhandled = (s.tile n).unhandled + 1) ∧
    (∀ y, y ≠ x → t.ctx n y = s.ctx n y)) ∧
  (∀ (s : State) (i : Issue) (code : BitVec 8) (word : BitVec 32), s.ready i →
    let k := s.ctx i.tile i.ctx
    (k.estatus.getLsbD 0 = true → k.epc.toNat % 4 = 0 → k.epc.toNat ≤ 0x7FFC →
      exec (.eret i) s = done ((s.upd i fun k => { k with estatus := 0 }).upd i (·.next k.epc))) ∧
    (k.estatus.getLsbD 0 = false → exec (.eret i) s = done (s.traps i exILLEGAL 0xB0000200)) ∧
    exec (.trap i code) s = done (s.traps i exTRAP (code.setWidth 64)) ∧
    (encodes word.toNat = false → exec (.reservedEncodingIssue i word) s = done (s.traps i exILLEGAL (word.setWidth 64))))

/-- MFS and MTS (R142): the special registers of Table 4.1 are read and written, reserved bits stay 0; a number from
0x15 takes ILLEGAL, and a write of a read-only register PRIV. -/
def Obligations.SpecialRegisters : Prop :=
  ∀ (s : State) (i : Issue) (rd a : SReg) (n : BitVec 8), s.ready i →
    let v := s.rs i a
    let mts (m : BitVec 8) := exec (.mts i a m) s
    (n.toNat ≤ 0x14 → exec (.mfs i rd n) s = done (s.result i rd (BitVec.ofNat 64 (s.special i n.toNat)))) ∧
    (0x15 ≤ n.toNat → exec (.mfs i rd n) s = done (s.traps i exILLEGAL (evWord (wA 0x2C rd 0 0 n.toNat))) ∧
      mts n = done (s.traps i exILLEGAL (evWord (wA 0x2C 0 a 0 (0x100 + n.toNat))))) ∧
    (n.toNat < 8 ∨ (0xF ≤ n.toNat ∧ n.toNat ≤ 0x14) →
      mts n = done (s.traps i exPRIV (evWord (wA 0x2C 0 a 0 (0x100 + n.toNat))))) ∧
    mts 0x08 = done (s.effect i fun k => { k with epc := v &&& 0xFFFF }) ∧
    mts 0x09 = done (s.effect i fun k => { k with ecause := v &&& 0xFF }) ∧
    mts 0x0A = done (s.effect i fun k => { k with eval := v }) ∧
    mts 0x0B = done (s.effect i fun k => { k with evec := v &&& 0x7FFD }) ∧
    mts 0x0C = done (s.effect i fun k => { k with estatus := v &&& 1 }) ∧
    mts 0x0D = done (s.effect i fun k => { k with escratch := v }) ∧
    mts 0x0E = done ((s.setTile i.tile { s.tile i.tile with ereport := (v &&& 0x800FFFFF).toNat }).advance i)

/-! ### Vector instructions (R193 to R214) -/

/-- Loads and stores of vector registers, accumulators and the XACC image at an aligned line of the data store (R193,
R203): bytes lowest first; a store changes those bytes of memory and nothing else but the PC and RETIRED. The image of
XACC (Table 5.9) gives the accumulator back, and a merge (R203) adds the sums and takes every flag, with WRAP where the
true sum lies outside V's range. -/
def Obligations.VectorLoadsAndStores : Prop :=
  (∀ (s : State) (i : Issue) (v : VReg) (q : AReg) (a : SReg) (imm : BitVec 16), s.ready i → i.read = .good →
    let ea := s.rs i a + BitVec.ofInt 64 imm.toInt
    let k := s.ctx i.tile i.ctx
    let put (bs : List Byte) := done ((s.setBytes (localPa i.tile ea.toNat) bs).advance i)
    (lineOk ea 64 →
      exec (.vld i v a imm) s = done (s.effect i (·.setVec v (BitVec.ofNat 512 (leNat (s.localBytes i ea 64))))) ∧
      exec (.vst i v a imm) s = put (leBytes 64 (k.vec v).toNat)) ∧
    (lineOk ea 128 →
      exec (.ald i q a imm) s = done (s.effect i (·.setAcc q (BitVec.ofNat 1024 (leNat (s.localBytes i ea 128))))) ∧
      exec (.ast i q a imm) s = put (leBytes 128 (k.acc q).toNat) ∧
      exec (.xst i a imm) s = put k.xacc.image ∧
      exec (.xldi i a imm) s = done (s.effect i fun k => { k with xacc := imageXAcc (s.localBytes i ea 128) }) ∧
      exec (.xmrg i a imm) s = done (s.effect i fun k => { k with xacc := k.xacc.merge (imageXAcc (s.localBytes i ea 128)) }))) ∧
  ((∀ x : XAcc, imageXAcc x.image = x ∧ x.image.length = 128) ∧
  ∀ x y : XAcc, (x.merge y).v = x.v + y.v ∧ (x.merge y).nan = (x.nan || y.nan) ∧ (x.merge y).pinf = (x.pinf || y.pinf) ∧
    (x.merge y).ninf = (x.ninf || y.ninf) ∧
    ((x.merge y).wrap = true ↔ x.wrap = true ∨ y.wrap = true ∨ x.v.toInt + y.v.toInt < -(2 ^ 639) ∨
      2 ^ 639 ≤ x.v.toInt + y.v.toInt))

/-- VOP on an accepted type with TRAP_NV clear (R184, R194, R195): every element of vd is the operation on the elements
in its place, VCSR gathers the flags, and nothing else of the context changes. The bitwise forms set no flag. R184: with
TRAP_NV set, an operation that would set NV takes FP_INVALID with the instruction word and changes nothing else; a type
that VOP does not accept takes ILLEGAL. Integer elements (R195): sums, differences and products modulo 2^w, the signed
minimum and maximum, with no flag; VABS and VNEG of a floating-point element change its sign bit alone. -/
def Obligations.VectorArithmetic : Prop :=
  (∀ (s : State) (i : Issue) (d a b : VReg) (ty : BitVec 4), s.ready i →
    let k := s.ctx i.tile i.ctx
    let n := ty.toNat
    let el (r : VReg) (j : Nat) : Nat := bits (k.vec r).toNat (typeBits n * j) (typeBits n)
    let out (f : Nat → Nat × Nat) :=
      let l := (List.range (typeCount n)).map f
      done (s.effect i fun k => { k.setVec d (vecOf n (l.map (·.1))) with
        vcsr := k.vcsr ||| BitVec.ofNat 64 (orFlags (l.map (·.2))) })
    (n ∈ vopTypes → k.vcsr.getLsbD 8 = false →
      exec (.vadd i d a b ty) s = out (fun j => elemAdd n (el a j) (el b j)) ∧
      exec (.vsub i d a b ty) s = out (fun j => elemSub n (el a j) (el b j)) ∧
      exec (.vmul i d a b ty) s = out (fun j => elemMul n (el a j) (el b j)) ∧
      exec (.vfma i d a b ty) s = out (fun j => elemFma n (el a j) (el b j) (el d j)) ∧
      exec (.vmin i d a b ty) s = out (fun j => elemMin n (el a j) (el b j)) ∧
      exec (.vmax i d a b ty) s = out (fun j => elemMax n (el a j) (el b j)) ∧
      exec (.vabs i d a ty) s = out (fun j => elemAbs n (el a j)) ∧
      exec (.vneg i d a ty) s = out (fun j => elemNeg n (el a j))) ∧
    exec (.vand i d a b) s = done (s.effect i (·.setVec d (k.vec a &&& k.vec b))) ∧
    exec (.vor i d a b) s = done (s.effect i (·.setVec d (k.vec a ||| k.vec b))) ∧
    exec (.vxor i d a b) s = done (s.effect i (·.setVec d (k.vec a ^^^ k.vec b))) ∧
    exec (.vmov i d a) s = done (s.effect i (·.setVec d (k.vec a)))) ∧
  (∀ (s : State) (i : Issue) (d a b : VReg) (ty : BitVec 4), s.ready i →
    let k := s.ctx i.tile i.ctx
    let n := ty.toNat
    let el (r : VReg) (j : Nat) : Nat := bits (k.vec r).toNat (typeBits n * j) (typeBits n)
    (n ∉ vopTypes → exec (.vadd i d a b ty) s = done (s.traps i exILLEGAL (evWord (wVA d a b ty 0)))) ∧
    (n ∈ vopTypes → k.vcsr.getLsbD 8 = true →
      (∃ j < typeCount n, (elemAdd n (el a j) (el b j)).2 % 2 = 1) →
      exec (.vadd i d a b ty) s = done (s.traps i exFP_INVALID (evWord (wVA d a b ty 0)))) ∧
    (n ∈ vopTypes → k.vcsr.getLsbD 8 = true →
      (∃ j < typeCount n, (elemMul n (el a j) (el b j)).2 % 2 = 1) →
      exec (.vmul i d a b ty) s = done (s.traps i exFP_INVALID (evWord (wVA d a b ty 2))))) ∧
  ((∀ ty a b c : Nat, ty ∈ [8, 10, 11] →
    let w := typeBits ty
    elemAdd ty a b = ((a + b) % 2 ^ w, 0) ∧ elemMul ty a b = (a * b % 2 ^ w, 0) ∧
    elemFma ty a b c = ((a * b + c) % 2 ^ w, 0) ∧ elemSub ty (a + b) b = (a % 2 ^ w, 0) ∧
    (elemMin ty a b).2 = 0 ∧ intOf ty (elemMin ty a b).1 = min (intOf ty a) (intOf ty b) ∧
    (elemMax ty a b).2 = 0 ∧ intOf ty (elemMax ty a b).1 = max (intOf ty a) (intOf ty b)) ∧
  (∀ ty a : Nat, ty ∈ [0, 1, 2] → a < 2 ^ typeBits ty →
    (elemAbs ty a).2 = 0 ∧ (elemNeg ty a).2 = 0 ∧
    (∀ k, (elemAbs ty a).1.testBit k = (a.testBit k && k != typeBits ty - 1)) ∧
    (∀ k, (elemNeg ty a).1.testBit k = (a.testBit k ^^ (k == typeBits ty - 1)))))

/-- VDOT, VCVT, VQNT, VDQ, SCOREB and XRD with TRAP_NV clear (R196 to R202, R206): the result goes to its register, VCSR
gathers the flags, and nothing else of the context changes. -/
def Obligations.ConversionAndDotResults : Prop :=
  ∀ (s : State) (i : Issue) (v d : VReg) (q : AReg) (r p : SReg) (ty src dst : BitVec 4) (mx : Bool) (part : BitVec 3)
    (blk : BitVec 2) (slot : SReg), s.ready i → i.read = .good →
    let k := s.ctx i.tile i.ctx
    let n := ty.toNat
    let fl (f : Context → Context) (x : Nat) :=
      done (s.effect i fun k => { f k with vcsr := k.vcsr ||| BitVec.ofNat 64 x })
    k.vcsr.getLsbD 8 = false →
    (n ∈ dotTypes mx → (mx = true ∨ r = 0) →
      let l := (lanesOf (k.acc q)).zipIdx.map fun x =>
        dotLane n mx (k.rd r).toNat (elemsOf n (k.vec v)) (elemsOf n (k.vec d)) x.1 x.2
      exec (.vdot i q v d ty mx r) s = fl (·.setAcc q (accOf (l.map (·.1)))) (orFlags (l.map (·.2)))) ∧
    (cvtOk src.toNat dst.toNat part.toNat = true →
      let a := src.toNat
      let b := dst.toNat
      let n := min (typeCount a) (typeCount b)
      let x (j : Nat) : Nat × Nat := convElem a b (s.nosat i)
        (bits (k.vec v).toNat (typeBits a * (if typeCount b ≤ typeCount a then part.toNat * n + j else j)) (typeBits a))
      let old (j : Nat) : Nat := bits (k.vec d).toNat (typeBits b * j) (typeBits b)
      exec (.vcvt i d v src dst part) s = fl (·.setVec d (vecOf b (if typeCount b ≤ typeCount a
        then (List.range n).map fun j => (x j).1
        else (List.range (typeCount b)).map fun j =>
          if part.toNat * n ≤ j ∧ j < part.toNat * n + n then (x (j - part.toNat * n)).1 else old j)))
        (orFlags ((List.range n).map fun j => (x j).2))) ∧
    (n ∈ mxTypes → blk.toNat < mxParts n →
      (let m := mxquant n ((lanesOf (k.acc q)).map (valOf 0))
       let w := 32 * typeBits n
       exec (.vqnt i v r q ty blk) s = fl (fun k => (k.setVec v (BitVec.ofNat 512 (setBits (k.vec v).toNat (w * blk.toNat) w
         (packE (typeBits n) m.2.1)))).wr r (BitVec.ofNat 64 m.1)) m.2.2) ∧
      (let m := (((elemsOf n (k.vec v)).drop (32 * blk.toNat)).take 32).map fun x =>
         encodeF 0 .nearest (s.nosat i) (mxVal n ((k.rd r).toNat % 256) x)
       exec (.vdq i v r q ty blk) s = fl (·.setAcc q (accOf (m.map (·.1)))) (orFlags (m.map (·.2))))) ∧
    (n ∈ xrdTypes → exec (.xrd i r ty) s =
      fl (·.wr r (BitVec.ofNat 64 (k.xacc.readout n).1)) (k.xacc.readout n).2) ∧
    (lineOk (s.rs i p) 128 →
      let bs := s.localBytes i (s.rs i p) 128
      let term (j : Nat) : FVal := scoreTerm (valOf 1 (bits (k.vec v).toNat (16 * j) 16)) (valOf 1 (leAt bs (2 * j) 2))
        (valOf 1 (leAt bs (64 + 2 * j) 2))
      let x := encodeF 0 .up false ((valOf 0 (bits (k.acc q).toNat (32 * slot.toNat) 32)).add
        (sumV ((List.range 32).map fun j => (term j, false))).1).1
      exec (.scoreb i q v p slot) s = fl (·.setAcc q (accOf ((lanesOf (k.acc q)).set slot.toNat x.1))) (x.2 &&& (fNX + fOF)))

/-- The exact accumulator and the moves between register files (Tables 5.7 and 5.8). -/
def Obligations.AccumulatorsAndMoves : Prop :=
  ∀ (s : State) (i : Issue) (v : VReg) (q : AReg) (r : SReg) (ty : BitVec 4) (idx : BitVec 8), s.ready i →
    let k := s.ctx i.tile i.ctx
    let n := ty.toNat
    exec (.xclr i) s = done (s.effect i fun k => { k with xacc := {} }) ∧
    (n ∈ xaddTypes →
      exec (.xaddv i v ty) s = done (s.effect i fun k =>
        { k with xacc := ((elemsOf n (k.vec v)).map (valOf n)).foldl XAcc.add k.xacc }) ∧
      exec (.xadds i r ty) s = done (s.effect i fun k =>
        { k with xacc := k.xacc.add (valOf n ((k.rd r).toNat % 2 ^ typeBits n)) })) ∧
    exec (.xadda i q) s = done (s.effect i fun k =>
      { k with xacc := ((lanesOf (k.acc q)).map (valOf 0)).foldl XAcc.add k.xacc }) ∧
    exec (.vmfsr i r) s = done (s.result i r k.vcsr) ∧
    exec (.vmtsr i r) s = done (s.effect i fun k => { k with vcsr := k.rd r &&& 0x31F }) ∧
    (miscType n = true →
      exec (.vbcast i v r ty) s = done (s.effect i fun k =>
        k.setVec v (vecOf n ((List.range (typeCount n)).map fun _ => (k.rd r).toNat))) ∧
      (idx.toNat < typeCount n →
        let e := bits (k.vec v).toNat (typeBits n * idx.toNat) (typeBits n)
        exec (.vext i r v ty idx) s = done (s.result i r
          (if typeInt n then BitVec.ofInt 64 (sgn (typeBits n) e) else BitVec.ofNat 64 e)))) ∧
    (v.toNat % 2 = 0 →
      exec (.afromv i q v) s = done (s.effect i fun k =>
        k.setAcc q (BitVec.ofNat 1024 ((k.vec v).toNat + 2 ^ 512 * (k.vec (v + 1)).toNat))) ∧
      exec (.atov i v q) s = done (s.effect i fun k => (k.setVec v (BitVec.ofNat 512 (k.acc q).toNat)).setVec (v + 1)
        (BitVec.ofNat 512 ((k.acc q).toNat / 2 ^ 512)))) ∧
    exec (.azero i q) s = done (s.effect i (·.setAcc q 0))

/-- Top-k selection and page conversion (R208 to R212, R186) in a context that the unit serves, with operands in range
and time left in the pick; a long instruction that waited completes as it would have at issue. -/
def Obligations.TopkAndPageConversion : Prop :=
  ∀ (s : State) (i : Issue) (q : AReg) (rd a b : SReg) (e5 : Bool), i.read = .good →
    let k := s.ctx i.tile i.ctx
    let u := (s.tile i.tile).topk
    let x := s.rs i a
    let n := (s.rs i b).toNat
    let out := (u.top.drop (n % 2 ^ 13)).take 256
    let tkout := done (((s.setBytes (localPa i.tile x.toNat) (out.flatMap fun e => leBytes 4 e.1 ++ leBytes 4 e.2)).ws i rd
      (BitVec.ofNat 64 out.length)).advance i)
    let page (f : List Byte × Nat) := done (((s.setBytes (localPa i.tile x.toNat) f.1).upd i fun k =>
      { k with vcsr := k.vcsr ||| BitVec.ofNat 64 f.2 }).advance i)
    let demote := page (demoteBytes (fp8Of e5) ((s.localBytes i x n).map (·.toNat)))
    let promote := page (promoteBytes (fp8Of e5) n (s.nosat i) (s.localBytes i x (17 * (n / 32))))
    let pageOk := n ≠ 0 ∧ n % 128 = 0 ∧ n ≤ 8192 ∧ lineOk x n ∧ s.longFits i (n / 8 + 8) = true ∧ k.vcsr.getLsbD 8 = false
    let outOk := s.topkServes i = true ∧ (out = [] ∨ lineOk x (8 * out.length)) ∧
      s.longFits i (1 + 4 * ceilDiv out.length 8) = true
    (s.ready i → s.topkServes i = true →
      (x.toNat ≠ 0 → x.toNat ≤ 4096 → exec (.tkclr i a b) s =
        done ((s.setTopk i.tile { k := x.toNat, t := n % 2 ^ 32, list := [], m := 0 }).advance i)) ∧
      (n ≤ 32 → exec (.tkins i q a b) s = done ((s.setTopk i.tile ((List.range n).foldl (fun u j =>
        u.offer (bits (k.acc q).toNat (32 * j) 32, (x.toNat + j) % 2 ^ 32)) u)).advance i)) ∧
      exec (.tkcnt i rd) s = done (s.result i rd (BitVec.ofNat 64 (u.top.length + if 4096 < u.m then 2 ^ 16 else 0)))) ∧
    (s.ready i → outOk → exec (.tkout i rd a b) s = tkout) ∧
    (s.waitsOn i (.tkout i rd a b) → outOk → exec (.longInstructionStart i) s = tkout) ∧
    (s.ready i → pageOk → exec (.demote i a b e5) s = demote ∧ exec (.promote i a b e5) s = promote) ∧
    (s.waitsOn i (.demote i a b e5) → pageOk → exec (.longInstructionStart i) s = demote) ∧
    (s.waitsOn i (.promote i a b e5) → pageOk → exec (.longInstructionStart i) s = promote)

/-- What TKINS keeps (R210): the unit holds candidates in rank order, at most 4,096; its list is the first max(K, m) of
them; a candidate offered is held with every one held before while there is room, and one left out ranks after all that
are held. -/
def Obligations.TopkListStaysRanked : Prop :=
  ∀ (u : TopK) (c : Nat × Nat), u.list.Pairwise (fun a b => ranksBefore a b = true) →
    let t := u.offer c
    t.list.Pairwise (fun a b => ranksBefore a b = true) ∧ t.list.length ≤ 4096 ∧
    t.top.length = min t.list.length (max t.k t.m) ∧ (∀ n < t.top.length, t.top[n]? = t.list[n]?) ∧
    t.m = u.m + (if exceedsT c.1 u.t then 1 else 0) ∧ t.k = u.k ∧ t.t = u.t ∧
    (∀ x ∈ t.list, x = c ∨ x ∈ u.list) ∧
    (u.list.length < 4096 → c ∈ t.list ∧ ∀ x ∈ u.list, x ∈ t.list) ∧
    (u.list.length ≤ 4096 → ∀ x, (x = c ∨ x ∈ u.list) → x ∉ t.list → ∀ y ∈ t.list, ranksBefore y x = true)

/-! ### Mesh messages, skeins, check values, pick synchronisation, management (R158 to R170) -/

/-- MSEND (R158) in a context that may send the class: the message of the target, length and payload goes to the port
when its buffers can take it, at once or when a waiting MSEND is accepted; a context W that sends SCHED takes PRIV, a
length above 256 MSG_LEN. MRECV (R159) takes the oldest message that its filter admits out of the inbound queue, and
MRET (R160) the oldest returned entry: the payload or the entry stands at rs1, rd describes it; on an empty queue a form
that does not wait gives all ones. A waiting form completes in the same way when something is there. -/
def Obligations.Messages : Prop :=
  (∀ (s : State) (i : Issue) (a b c : SReg) (weft any : Bool), i.read = .good →
    let x := (s.rs i a).toNat
    let src := s.rs i b
    let len := (s.rs i c).toNat % 512
    let m : Msg := { dst := x % 2 ^ 12, role := x / 2 ^ 12 % 2 ^ 12, epoch := x / 2 ^ 24 % 2 ^ 8,
                     srcEpoch := s.get (TILE_ROLE_EPOCH i.tile), src := i.tile, tag := x / 2 ^ 32 % 2 ^ 16,
                     kind := x / 2 ^ 48 % 2 ^ 16, anyRole := any && s.isManager i.tile,
                     cls := if weft then 1 else 0, payload := s.localBytes i src len }
    let ok := (i.ctx = .S ∨ weft = true) ∧ len ≤ 256 ∧ (len = 0 ∨ lineOk src len) ∧ s.canSend m = true
    (s.ready i → ok → exec (.msend i a b c weft any) s = done ((s.sendMsg m).advance i)) ∧
    (s.waitsOn i (.msend i a b c weft any) → ok → exec (.msendBufferAccept i) s = done ((s.sendMsg m).advance i)) ∧
    (s.ready i → i.ctx = .W → exec (.msend i a b c false any) s =
      done (s.traps i exPRIV (evWord (wA 0x28 c a b (if any then 2 else 0))))) ∧
    (s.ready i → (i.ctx = .S ∨ weft = true) → 256 < len →
      exec (.msend i a b c weft any) s = done (s.traps i exMSG_LEN (s.rs i c)))) ∧
  (∀ (s : State) (i : Issue) (rd a : SReg) (f : BitVec 2) (wait : Bool), i.read = .good →
    let ea := s.rs i a
    let x := s.tile i.tile
    let takes (pre : List Msg) (m : Msg) (post : List Msg) : Prop := x.inq = pre ++ m :: post ∧
      (f = 0 ∨ f.toNat = m.cls + 1) ∧ (f = 0 → pre = []) ∧ ∀ q ∈ pre, f.toNat ≠ q.cls + 1
    let got (m : Msg) (rest : List Msg) := done ((((s.setTile i.tile { x with inq := rest }).setBytes
      (localPa i.tile ea.toNat) m.payload).ws i rd (BitVec.ofNat 64 (m.src % 4096 + m.srcEpoch % 256 * 2 ^ 12 +
        m.payload.length * 2 ^ 20 + (if m.cls = 1 then 2 ^ 29 else 0) + m.tag % 65536 * 2 ^ 32 +
        m.kind % 65536 * 2 ^ 48))).advance i)
    let back (e : List Byte) (rest : List (List Byte)) := done ((((s.setTile i.tile { x with rmq := rest }).setBytes
      (localPa i.tile ea.toNat) e).ws i rd (BitVec.ofNat 64 (leAt e 0 8))).advance i)
    (f ≠ 3 → lineOk ea 256 →
      (∀ pre m post, takes pre m post →
        (s.ready i → exec (.mrecv i rd a f wait) s = got m (pre ++ post)) ∧
        (s.waitsOn i (.mrecv i rd a f wait) → exec (.mrecvWaitTake i) s = got m (pre ++ post))) ∧
      (s.ready i → (∀ m ∈ x.inq, f ≠ 0 ∧ f.toNat ≠ m.cls + 1) →
        exec (.mrecv i rd a f false) s = done (s.result i rd (BitVec.allOnes 64)))) ∧
    (lineOk ea 288 →
      (∀ e rest, x.rmq = e :: rest →
        (s.ready i → exec (.mret i rd a wait) s = back e rest) ∧
        (s.waitsOn i (.mret i rd a wait) → exec (.mretWaitTake i) s = back e rest)) ∧
      (s.ready i → x.rmq = [] → exec (.mret i rd a false) s = done (s.result i rd (BitVec.allOnes 64)))))

/-- SKISS (R162, R163, R216) with a free handle: the lowest one takes the descriptor, rd names it, and the skein waits
for earlier ones only where its descriptor has FENCE; a descriptor that fails a check of Table 6.3 completes with the
status of that check and raises no exception. SKWAIT and SKSTAT give the status of a completed skein and free its
handle, 0x200 for a free handle; SKSTAT gives 0x100 for one that runs (Table 4.8). CHTAKE and CHTAKEW take the oldest
signal of a queue of the tile's instance; CHTAKE of an empty one gives 0, and a queue that is not enabled or not the
instance's takes DEV_ACCESS (R163). -/
def Obligations.SkeinInstructions : Prop :=
  (∀ (s : State) (i : Issue) (rd a : SReg) (h : Nat), i.read = .good → lineOk (s.rs i a) 128 →
    h < 8 → s.skein? i.tile i.ctx h = none → (∀ g < h, s.skein? i.tile i.ctx g ≠ none) →
    let x := s.ctx i.tile i.ctx
    let k : Skein := { state := 1, status := stOK, desc := s.localBytes i (s.rs i a) 128, check := x.check.reset, done := 0,
                       nextChunk := 0, cvt := 0, fault := 0, side := false, age := x.issued, due := 0 }
    let r := s.skeinCheck i.tile i.ctx k
    let s1 := ((s.upd i fun x => { x with issued := x.issued + 1 }).bump SKN_ISSUED_VAL).ws i rd (BitVec.ofNat 64 h)
    let good := done (((s1.traceSkein 1 i.tile i.ctx h k 0).setSkein i.tile i.ctx h
      { k with state := if k.fence ∧ ∃ p ∈ x.handles, p.2.state ≠ 6 then 2 else 1 }).advance i)
    let bad := done ((((s1.setReg SKN_REJECT_LOG (i.tile + (if i.ctx = .W then 2 ^ 12 else 0) + h * 2 ^ 13 + r.2 * 2 ^ 16 +
      r.1 * 2 ^ 24)).raise SKN_EVENT_REJECT).skeinDone i.tile i.ctx h k r.2).advance i)
    (s.ready i → exec (.skiss i rd a) s = if r.1 = 0 then good else bad) ∧
    (s.waitsOn i (.skiss i rd a) → exec (.skissHandleWait i) s = if r.1 = 0 then good else bad)) ∧
  (∀ (s : State) (i : Issue) (rd a b : SReg),
    let h := (s.rs i a).toNat % 8
    let q := (s.rs i a).toNat % 65536
    let ea := s.rs i b
    let status (k : Skein) := done (((s.freeHandle i.tile i.ctx h).ws i rd (BitVec.ofNat 64 k.status)).advance i)
    let mine := s.cqOwner q = s.instOfTile i.tile ∧ s.on (SKN_CQ_CFG_ENABLE q) = true
    let took := done ((((s.cqTake q).1.setBytes (localPa i.tile ea.toNat) (s.cqTake q).2).ws i rd 1).advance i)
    (s.ready i →
      (∀ k, s.skein? i.tile i.ctx h = some k → k.state = 6 →
        exec (.skwait i rd a) s = status k ∧ exec (.skstat i rd a) s = status k) ∧
      (∀ k, s.skein? i.tile i.ctx h = some k → k.state ≠ 6 → exec (.skstat i rd a) s = done (s.result i rd 0x100)) ∧
      (s.skein? i.tile i.ctx h = none →
        exec (.skwait i rd a) s = done (s.result i rd 0x200) ∧ exec (.skstat i rd a) s = done (s.result i rd 0x200)) ∧
      (lineOk ea 64 →
        (mine → s.cqCount q ≠ 0 → exec (.chtake i rd a b) s = took ∧ exec (.chtakew i rd a b) s = took) ∧
        (mine → s.cqCount q = 0 → exec (.chtake i rd a b) s = done (s.result i rd 0)) ∧
        (¬ mine → exec (.chtake i rd a b) s = done (s.traps i exDEV_ACCESS (BitVec.ofNat 64 q)) ∧
          exec (.chtakew i rd a b) s = done (s.traps i exDEV_ACCESS (BitVec.ofNat 64 q))))) ∧
    (∀ k, s.waitsOn i (.skwait i rd a) → s.skein? i.tile i.ctx h = some k → k.state = 6 →
      exec (.skwaitComplete i) s = status k) ∧
    (s.waitsOn i (.chtakew i rd a b) → lineOk ea 64 → mine → s.cqCount q ≠ 0 → exec (.chtakewWaitTake i) s = took))

/-- The check-value instructions (Table 4.9, R538, R539, R543): they act on the image of the issuing context alone; a
mismatch of CVCMP is counted, writes 0 and, with the interrupt enabled, traps after retiring (R164). -/
def Obligations.CheckValueInstructions : Prop :=
  ∀ (s : State) (i : Issue) (rd a b : SReg), s.ready i →
    let x := (s.rs i a).toNat
    let c := (s.ctx i.tile i.ctx).check
    let fed (n : Nat) := done (s.effect i fun k => { k with
      check := c.feeds ((List.range n).map fun j => BitVec.ofNat 8 (x / 2 ^ (8 * j))) })
    let set (f : CheckImg) := done (s.effect i fun k => { k with check := f })
    let fails := ((s.ws i rd 0).bump CRC_MISMATCH_COUNT_VAL).raise CRC_EVENT_MISMATCH
    exec (.cvfb i a) s = fed 1 ∧ exec (.cvfh i a) s = fed 2 ∧ exec (.cvfw i a) s = fed 4 ∧
    exec (.cvrst i) s = set { c with run := c.init % 2 ^ c.width } ∧
    exec (.cvrd i rd) s = done (s.result i rd (BitVec.ofNat 64 c.run)) ∧
    exec (.cvwr i a) s = set { c with run := x % 2 ^ c.width } ∧
    exec (.cvfin i rd) s = done (s.result i rd (BitVec.ofNat 64 c.finish)) ∧
    (c.finish = x % 2 ^ c.width → exec (.cvcmp i rd a) s = done (s.result i rd 1)) ∧
    (c.finish ≠ x % 2 ^ c.width → c.intEn = false → exec (.cvcmp i rd a) s = done (fails.advance i)) ∧
    (c.finish ≠ x % 2 ^ c.width → c.intEn = true → exec (.cvcmp i rd a) s =
      done (((fails.raise CRC_EVENT_TRAPPED).upd i (·.next (s.pcOf i + 4))).except i.tile i.ctx exCV_MISMATCH
        (BitVec.ofNat 64 c.finish) (s.pcOf i + 4))) ∧
    ((s.rs i b).toNat % 8 = 0 → exec (.cvset i a b) s = set { c with poly := x }) ∧
    ((s.rs i b).toNat % 8 = 1 → 1 ≤ x → x ≤ 64 → exec (.cvset i a b) s = set { c with widthM1 := x - 1, run := c.run % 2 ^ x }) ∧
    ((s.rs i b).toNat % 8 = 2 → exec (.cvset i a b) s = set { c with init := x }) ∧
    ((s.rs i b).toNat % 8 = 3 → exec (.cvset i a b) s = set { c with
      refin := x.testBit 0, refout := x.testBit 1, invert := x.testBit 2, intEn := x.testBit 3 }) ∧
    (4 ≤ (s.rs i b).toNat % 8 → exec (.cvset i a b) s = done (s.traps i exILLEGAL (evWord (wA 0x2A 0 a b 8))))

/-- YIELD ends the scheduled part of the pick in context S and does nothing in W; WAITC retires once the cycle counter
is at or beyond rs1, at issue or while it waits; RDYSET sets a flag that the tile's instance owns, and RDYTST reads one
(R165 to R168). The MGMT instructions (R170) of a MANAGER tile read and write the register at an aligned address of CSR
space or of a tile's control range; on any other tile they take PRIV, a misaligned address takes MISALIGN and any other
one DEV_ACCESS. -/
def Obligations.PickAndManagementInstructions : Prop :=
  (∀ (s : State) (i : Issue) (rd a : SReg),
    let v := s.rs i a
    let g := v.toNat / 2 ^ 16 % 16
    let f := v.toNat % 4096
    let names := g ≤ 11 ∧ v.toNat / 2 ^ 12 % 16 = 0 ∧ v.toNat < 2 ^ 20
    let may := i.ctx = .S ∧ s.scheduled i.tile = true ∧ s.flagOwned (s.instOfTile i.tile) g f = true
    (s.ready i →
      (i.ctx = .W → exec (.yield i) s = done (s.advance i)) ∧
      (i.ctx = .S → exec (.yield i) s = done (((s.upd i fun k => { k with yielded := true }).trace 1 2 i.tile i.tile
        (s.instOfTile i.tile) stOK (leBytes 6 (s.get PICK_NUMBER_NUMBER) ++ leBytes 2 (s.pcOf i).toNat)).advance i)) ∧
      (v.toNat ≤ s.cyc → exec (.waitc i a) s = done (s.advance i)) ∧
      (names → may → exec (.rdyset i a) s = done (({ s with warp := { s.warp with
        ready := tput s.warp.ready (g * 4096 + f) true } } : State).advance i)) ∧
      (names → ¬ may → exec (.rdyset i a) s = done (s.traps i exPRIV (evWord (wA 0x2B 0 a 0 2)))) ∧
      (names → exec (.rdytst i rd a) s = done (s.result i rd (if mget false s.warp.ready (g * 4096 + f) then 1 else 0))) ∧
      (¬ names → exec (.rdyset i a) s = done (s.traps i exILLEGAL v) ∧ exec (.rdytst i rd a) s = done (s.traps i exILLEGAL v))) ∧
    (s.waitsOn i (.waitc i a) → v.toNat ≤ s.cyc → exec (.waitcRetire i) s = done (s.advance i))) ∧
  (∀ (s : State) (i : Issue) (rd a b : SReg), s.ready i →
    let x := s.rs i a
    let p := x.toNat
    let mgr := s.isManager i.tile = true
    let window := (0x0F0000000000 ≤ p ∧ p < 0x0F0040000000 ∧ 0x30000 ≤ p % 0x40000) ∨ (0x0FF000000000 ≤ p ∧ p < 0x100000000000)
    let read (w : Nat) := done (((s.readAt (.manager i.tile) p w false).1.ws i rd
      (BitVec.ofNat 64 (s.readAt (.manager i.tile) p w false).2)).advance i)
    let write (w : Nat) := done ((s.writeAt (.manager i.tile) p w (s.rs i b).toNat).advance i)
    (mgr → window → p % 4 = 0 → exec (.rgld32 i rd a) s = read 32 ∧ exec (.rgst32 i a b) s = write 32) ∧
    (mgr → window → p % 8 = 0 → exec (.rgld64 i rd a) s = read 64 ∧ exec (.rgst64 i a b) s = write 64) ∧
    (¬ mgr → exec (.rgld32 i rd a) s = done (s.traps i exPRIV (evWord (wA 0x2D rd a 0 0))) ∧
      exec (.rgld64 i rd a) s = done (s.traps i exPRIV (evWord (wA 0x2D rd a 0 1))) ∧
      exec (.rgst32 i a b) s = done (s.traps i exPRIV (evWord (wA 0x2D 0 a b 2))) ∧
      exec (.rgst64 i a b) s = done (s.traps i exPRIV (evWord (wA 0x2D 0 a b 3)))) ∧
    (mgr → p % 4 ≠ 0 → exec (.rgld32 i rd a) s = done (s.traps i exMISALIGN x) ∧
      exec (.rgst32 i a b) s = done (s.traps i exMISALIGN x)) ∧
    (mgr → p % 8 ≠ 0 → exec (.rgld64 i rd a) s = done (s.traps i exMISALIGN x) ∧
      exec (.rgst64 i a b) s = done (s.traps i exMISALIGN x)) ∧
    (mgr → p % 8 = 0 → ¬ window → exec (.rgld32 i rd a) s = done (s.traps i exDEV_ACCESS x) ∧
      exec (.rgld64 i rd a) s = done (s.traps i exDEV_ACCESS x) ∧ exec (.rgst32 i a b) s = done (s.traps i exDEV_ACCESS x) ∧
      exec (.rgst64 i a b) s = done (s.traps i exDEV_ACCESS x)))

/-! ### The pick clock, the domain and the warp store (02_pick_and_warp.md) -/

/-- LISTEN_ACQUIRE, LOCK_ACQUIRED, HOLDOVER_LIMIT_EXPIRY, PARENT_LOSS, SUCCESSOR_TAKEOVER: the moves of Table 2.9, each
under its condition, with the registers it writes and no other effect. SYNC_SYMBOL_SEND and SYNC_SYMBOL_RECEIVE (R97 to
R99): every lane that is up of the groups of R97 carries the group's symbol, and nothing else changes; a symbol that
does not read is dropped, and in LISTEN breaks the count of the parent's. -/
def Obligations.DomainStateMoves : Prop :=
  (∀ s : State, s.Sound →
    let d := s.dom
    let listens : DomS := { d with count := 0, stepped := false, servo := false, estimate := 0, good := 0, lost := 0,
                                   lostAll := 0, holdSlots := 0 }
    let parent := s.get PICK_SYNC_CFG_PARENT
    let listening := [(PICK_STATUS_STATE, 1), (PICK_STATUS_ACTIVE_PARENT, parent), (PICK_STATUS_HOLDOVER_US, 0)]
    (s.domState = 1 → 16 ≤ d.count →
      s.sets (exec .listenAcquire s) [(PICK_STATUS_STATE, 2), (PICK_STATUS_HOPS, d.hopsParent + 1)]) ∧
    (s.domState = 2 → 256 ≤ d.good → s.sets (exec .lockAcquired s) [(PICK_STATUS_STATE, 3)]) ∧
    (s.domState = 5 → State.sets { s with dom := listens } (exec .holdoverLimitExpiry s)
      (listening ++ [(PICK_EVENT_DOMAIN_LOST, 1)])) ∧
    (s.isMaster = false → 2 ≤ d.lost →
      (s.domState = 3 → State.sets { s with dom := listens } (exec .parentLoss s) listening) ∧
      (s.domState = 4 → d.altOk = true → State.sets { s with dom := { d with lost := 0, altOk := false } } (exec .parentLoss s)
        [(PICK_STATUS_ACTIVE_PARENT, if s.get PICK_STATUS_ACTIVE_PARENT = parent then s.get PICK_SYNC_CFG_ALT_PARENT
            else parent), (PICK_STATUS_HOPS, d.hopsAlt + 1), (PICK_EVENT_PARENT_SWITCH, 1)]) ∧
      (s.domState = 4 → d.altOk = false → State.sets { s with dom := { d with holdSlots := 0 } } (exec .parentLoss s)
        [(PICK_STATUS_STATE, 5), (PICK_EVENT_HOLDOVER, 1)])) ∧
    (s.get PICK_SYNC_CFG_ROLE = 2 → (s.domState = 4 ∨ s.domState = 5) → s.isMaster = false → 4 ≤ d.lostAll →
      State.sets { s with dom := { d with succeeded := true, holdSlots := 0 } } (exec .successorTakeover s)
        [(PICK_STATUS_STATE, 4), (PICK_STATUS_IS_MASTER, 1), (PICK_STATUS_HOPS, 0), (PICK_STATUS_ACTIVE_PARENT, 0xF),
         (PICK_STATUS_HOLDOVER_US, 0), (PICK_EVENT_SUCCESSOR_TOOK_OVER, 1)])) ∧
  (∀ s : State,
    (s.sendsSync = true → ∃ t, exec .syncSymbolSend s = done t ∧ t = { s with warp := { s.warp with lane := t.warp.lane } } ∧
      ∀ l, tfind t.warp.lane l = if s.syncGroups.contains (l / 8) && s.laneUp l then some (s.syncSymbol (l / 8))
        else tfind s.warp.lane l) ∧
    ∀ (g : Nat) (b : List Byte) (a t : Int) (on : Bool),
      (readSync b = none → s.domState = 1 → g = s.get PICK_SYNC_CFG_PARENT →
        exec (.syncSymbolReceive g b a t on) s = done { s with dom := { s.dom with count := 0 } }) ∧
      (readSync b = none → s.domState ≠ 1 → exec (.syncSymbolReceive g b a t on) s = done s) ∧
      ∀ y, readSync b = some y → s.domState = 0 ∨ s.isMaster = true → y.alert = false →
        exec (.syncSymbolReceive g b a t on) s =
          done { s with dom := { s.dom with rxOff := tput s.dom.rxOff g (satI 20 a) } })

/-- ACQUIRE_EXCHANGE_COMPLETE, FREQUENCY_ESTIMATE_DONE, PPS_EDGE, REFERENCE_LOSS, REFERENCE_RETURN, PTP_MESSAGE_RECEIVE,
PICK_TOD_SEC_READ, PICK_TOD_SET and CONTEXT_S_WAKE: phase, frequency and wall time (R98, R105 to R110). A servo step is
a free value within its limits: the statement bounds the correction and gives no value for it. -/
def Obligations.ReferencesAndWallTime : Prop :=
  ∀ (s : State) (pick cyc sec half t : Nat) (adj : Int) (r : Requester), s.Sound →
    let d := s.dom
    (s.domState = 2 → s.isMaster = false → d.stepped = false →
      State.sets { s with cyc := cyc % (s.warp.period * 125), dom := { d with stepped := true, half := half % 2000000000 } }
        (exec (.acquireExchangeComplete pick cyc sec half) s) [(PICK_NUMBER_NUMBER, pick), (PICK_TOD_SEC_SEC, sec)]) ∧
    (s.domState = 2 → 1024 ≤ d.estimate → d.servo = false →
      State.sets { s with dom := { d with servo := true, good := 0 } } (exec (.frequencyEstimateDone adj) s)
        [(PICK_FREQ_ADJ_ADJ, (max (-54975581) (min adj 54975581) % 2 ^ 32).toNat)]) ∧
    (s.get PICK_SYNC_CFG_REF_SEL = 1 → s.isMaster = true → s.domState = 2 → s.on PICK_STATUS_REF_OK = true →
      d.aligned = false → d.todNext = none →
      exec .ppsEdge s = done { s with cyc := 0, dom := { d with aligned := true } }) ∧
    (s.get PICK_SYNC_CFG_REF_SEL = 1 → s.isMaster = false → d.todNext = some sec →
      State.sets { s with dom := { d with todNext := none, half := 0 },
                          sec := { s.sec with secs := sec % 2 ^ 32, secsAt := s.time } }
        (exec .ppsEdge s) [(PICK_TOD_SEC_SEC, sec)]) ∧
    (s.on PICK_STATUS_REF_OK = true → s.isMaster = true →
      s.sets (exec .referenceLoss s) [(PICK_STATUS_REF_OK, 0), (PICK_EVENT_REF_LOST, 1)]) ∧
    (s.on PICK_STATUS_REF_OK = true → s.isMaster = false → s.sets (exec .referenceLoss s) [(PICK_STATUS_REF_OK, 0)]) ∧
    (s.get PICK_SYNC_CFG_REF_SEL ≠ 0 → s.isMaster = false → s.sets (exec .referenceReturn s) [(PICK_STATUS_REF_OK, 1)]) ∧
    (s.isMaster = false → exec (.ptpMessageReceive t) s = done { s with dom := { d with ptpAt := t } }) ∧
    (s.isMaster = true → s.get PICK_SYNC_CFG_REF_SEL = 2 → ∃ (u : State) (x : Int), exec (.ptpMessageReceive t) s = done u ∧
      -54975581 ≤ x ∧ x ≤ 54975581 ∧ u.dom.ptpAt = t ∧ u.get PICK_FREQ_ADJ_ADJ = (x % 2 ^ 32).toNat) ∧
    State.sets { s with bus := { s.bus with rdata := s.get PICK_TOD_SEC_SEC } } (exec .pickTodSecRead s)
      [(PICK_TOD_NS_NS, d.half / 2)] ∧
    (s.privReq r = true → s.get PICK_SYNC_CFG_REF_SEL = 1 →
      exec (.pickTodSet r sec) s = done { s with dom := { d with todNext := some (sec % 2 ^ 48) } }) ∧
    (s.privReq r = true → s.get PICK_SYNC_CFG_REF_SEL ≠ 1 →
      State.sets { s with dom := { d with half := 0 }, sec := { s.sec with secs := sec % 2 ^ 48 % 2 ^ 32, secsAt := s.time } }
        (exec (.pickTodSet r sec) s) [(PICK_TOD_SEC_SEC, sec % 2 ^ 48)]) ∧
    (t < 4096 → s.get (TILE_STATE_STATE t) = 5 → s.inPick t = true → s.trc.halted = false → (s.tile t).down = false →
      (s.tile t).s.awake = false → s.wakeOffset t ≤ s.cyc → s.roleOf t ≠ 6 → s.roleOf t ≠ 7 →
      exec (.contextSWake t false) s = done ((s.setTile t { s.tile t with s := { (s.tile t).s with awake := true } }).trace 1 1
        t t (s.instOfTile t) 0 (leBytes 6 (s.get PICK_NUMBER_NUMBER) ++ leBytes 2 0xFFFF)))

/-- A sync symbol says what Table 2.7 lists: reading the symbol that an adapter sends gives its alert, state, hop count,
domain, pick bits and the offset it last measured on the group. -/
def Obligations.SyncSymbolReadsBack : Prop :=
  ∀ (s : State) (g : Nat), mget 0 s.dom.rxOff g < 2 ^ 20 →
    readSync (s.syncSymbol g) = some {
      alert := s.on PICK_CTRL_ALERT || s.dom.alertOwn || s.dom.alertLeft != 0
      state := s.get PICK_STATUS_STATE, hops := s.get PICK_STATUS_HOPS, domain := s.get PICK_SYNC_CFG_DOMAIN_ID
      pick := s.get PICK_NUMBER_NUMBER % 16, off := sgn 20 (mget 0 s.dom.rxOff g) }

/-- The warp store (R84 to R87): WARP_LOAD, WARP_LOAD_COMPLETE, WARP_ARM, WARP_DISARM, WARP_CLEAR and WARP_ARM_EMPTY of
a privileged requester, each where its rule accepts it. The swap of R86: the shadow set becomes active with its period,
the set that was active is retained for the trailing pick, and the shadow is EMPTY. -/
def Obligations.WarpStoreCommands : Prop :=
  (∀ (s : State) (r : Requester) (w : WarpSet), s.Sound → s.privReq r = true →
    let empty := { s with warp := { s.warp with shadow := none } }
    let still := s.on WARP_STATUS_TRAILING = false
    (s.shadow = 0 ∨ s.shadow = 2 → still → s.on WARP_STATUS_ARMED_EMPTY = false →
      empty.sets (exec (.warpLoad r) s) [(WARP_STATUS_SHADOW_GEN, 0), (WARP_STATUS_SHADOW_STATE, 1)]) ∧
    (s.shadow = 1 ∨ s.shadow = 3 → s.sets (exec (.warpLoad r) s) [(WARP_STATUS_LOAD_RESULT, stBUSY)]) ∧
    (s.shadow = 1 → s.detached 0 = false → (∃ t, exec (.warpLoadComplete none) s = done t ∧ t.shadow = 0 ∧
      t.warp.shadow = none ∧ t.get WARP_STATUS_LOAD_RESULT = stACCESS ∧ t.get WARP_EVENT_LOAD_DONE = 1) ∧
      ∀ bs : List Byte, let b := sliceB bs 0 (s.get WARP_LOAD_LEN_LEN)
        (firstFail (s.imageFails b) = none → ∃ t, exec (.warpLoadComplete (some bs)) s = done t ∧ t.shadow = 2 ∧
          t.warp.shadow = some (parseSet b) ∧ t.get WARP_STATUS_SHADOW_GEN = (parseSet b).gen % 2 ^ 13 ∧
          t.get WARP_STATUS_LOAD_RESULT = stOK ∧ t.reg WARP_CHECK_ERR = 0 ∧ t.get WARP_EVENT_LOAD_DONE = 1 ∧
          t.warp.active = s.warp.active) ∧
        ∀ f, firstFail (s.imageFails b) = some f → ∃ t, exec (.warpLoadComplete (some bs)) s = done t ∧ t.shadow = 0 ∧
          t.warp.shadow = none ∧ t.get WARP_STATUS_LOAD_RESULT = (if f.code = 0x10 then stCAPACITY else stMALFORMED) ∧
          t.reg WARP_CHECK_ERR = f.code + f.table * 2 ^ 8 + f.group * 2 ^ 12 + f.off * 2 ^ 16) ∧
    (s.shadow = 2 → s.warp.shadow = some w → s.get PICK_NUMBER_NUMBER + 2 ≤ s.get WARP_SWAP_PICK_PICK →
      exec (.warpArm r) s = done (({ s with warp := { s.warp with swapPick := s.get WARP_SWAP_PICK_PICK } }.put
        WARP_STATUS_SHADOW_STATE 3).markArmed w 1)) ∧
    (s.shadow ≠ 2 ∨ s.get WARP_SWAP_PICK_PICK < s.get PICK_NUMBER_NUMBER + 2 →
      s.sets (exec (.warpArm r) s) [(WARP_EVENT_MISSED, 1)]) ∧
    (s.shadow = 3 → s.warp.shadow = some w → s.get PICK_NUMBER_NUMBER + 1 < s.warp.swapPick →
      exec (.warpDisarm r) s = done (((s.put WARP_STATUS_SHADOW_STATE 2).markArmed w 0).startSet w)) ∧
    (s.shadow = 2 → still → empty.sets (exec (.warpClear r) s) [(WARP_STATUS_SHADOW_STATE, 0), (WARP_STATUS_SHADOW_GEN, 0)]) ∧
    (s.shadow ≠ 2 → s.sets (exec (.warpClear r) s) [(WARP_STATUS_LOAD_RESULT, stBUSY)]) ∧
    (s.warp.active.isSome = true → s.shadow = 0 → still → s.on WARP_STATUS_ARMED_EMPTY = false →
      s.get PICK_NUMBER_NUMBER + 2 ≤ s.get WARP_SWAP_PICK_PICK →
      State.sets { s with warp := { s.warp with swapPick := s.get WARP_SWAP_PICK_PICK } } (exec (.warpArmEmpty r) s)
        [(WARP_STATUS_ARMED_EMPTY, 1)])) ∧
  (∀ (s : State) (w : WarpSet), s.Sound → s.shadow = 3 → s.warp.shadow = some w → s.warp.swapPick = s.pick → 3 ≤ s.domState →
    let t := s.swapWall
    t.warp.active = some w ∧ t.warp.period = w.period ∧ t.warp.retained = s.warp.active ∧ t.warp.shadow = none ∧
    t.warp.retTable = s.get WARP_STATUS_ACTIVE_TABLE ∧ t.shadow = 0 ∧ t.get WARP_STATUS_ACTIVE_TABLE = 0 ∧
    t.get WARP_STATUS_ACTIVE_GEN = w.gen % 2 ^ WARP_STATUS_ACTIVE_GEN.w ∧
    t.get WARP_STATUS_TRAILING = (if s.warp.active.isSome then 1 else 0) ∧ t.get WARP_EVENT_SWAPPED = 1 ∧
    t.domState = (if s.domState = 3 then 4 else s.domState) ∧ t.mem = s.mem)

/-- PICK_WALL (R32, R63, R78, R93) of a pick in which nothing was scheduled: the changes of a wall in their order, settings
first, after the pick clock has passed to cycle 0 of the next pick with every ready flag clear. -/
def Obligations.PickWallOrder : Prop :=
  ∀ s : State, s.Sound → s.warp.on = false → s.trc.halted = false → s.trc.resumeDue = false → s.trigPick = false →
    let n := s.elapse (s.warp.period * 125 - s.cyc)
    ∃ t : State, t.cyc = 0 ∧ t.get PICK_NUMBER_NUMBER = (s.get PICK_NUMBER_NUMBER + 1) % 2 ^ 48 ∧ t.warp.ready = [] ∧
      t.warp.prep = [] ∧ t.time = s.time + (s.warp.period * 125 - s.cyc) ∧ t.mem = s.mem ∧ t.til = s.til ∧ t.later = s.later ∧
      (∀ f : RegFld, apart PICK_NUMBER_NUMBER f → t.get f = n.get f) ∧
      (let u := (t.applyLater.retireTrailing.swapWall.altWall s.warp.period).domWall
       exec .pickWall s = done ((State.syncRecord { u with warp := { u.warp with on := u.domOn && u.warp.active.isSome } }
         ).spareWall.residueWall.tileWall.pageWall.retrain))

/-- CELL_SAMPLE, SCHEDULED_CELL_SEND, CELL_RECEIVE and STREAM_DEADLINE (R66 to R68, R79 to R83, R104): a cell is
prepared once from its source, or as a LATE NULL cell; a group-slot leaves its lanes once its cells are prepared; a
stream that lacks a cell at its deadline raises its chunk signal with the hole flag; and cells received while no set
acts are discarded. R66 and R67: the parity of seven cells rebuilds the one of them that is missing, as its 1,520 bytes,
and leaves the others. -/
def Obligations.ScheduledCells : Prop :=
  (∀ (s : State) (g slot k desc pick : Nat) (bad : Bool) (t : WTable) (sec : GroupSec) (w : WarpSet) (e : Nat) (d : TxDesc)
    (x : RxDesc) (cells : List (Option (List Byte))),
    (s.activeTable = some t → tfind t.groups g = some sec → entryAt sec.tx slot k = some e →
      sec.txd[entryDesc e]? = some d → s.warp.on = true → entryKindOf e = 1 → k < 7 →
      (∀ p ∈ s.warp.prep, (p.group, p.slot, p.k) ≠ (g, slot, k)) →
      let idx := cellIndex sec.tx (entryDesc e) slot k
      let r := (s.fetchCell g d idx bad).1
      let ready (b : List Byte) : State := { r with warp := { r.warp with prep := r.warp.prep ++ [⟨g, slot, k, b⟩] } }
      (∀ p, (s.fetchCell g d idx bad).2 = some p →
        exec (.cellSample g slot k bad) s = done (ready (r.cell 1 0 slot d.dst d.pkey d.stream idx p))) ∧
      ((s.fetchCell g d idx bad).2 = none → exec (.cellSample g slot k bad) s =
        done ((ready (r.cell 2 0x80 slot d.dst d.pkey d.stream idx [])).late slot 3 d.inst (entryDesc e) g))) ∧
    (∀ rc, s.activeTable = some t → tfind t.groups g = some sec → sec.tx.find? (fun r => r.slot == slot) = some rc →
      s.warp.on = true →
      (∀ j < 7, entryKindOf (rc.lanes.getD j 0) = 1 → ∃ p ∈ s.warp.prep, (p.group, p.slot, p.k) = (g, slot, j)) →
      ∃ u, exec (.scheduledCellSend g slot) s = done u ∧ u.mem = s.mem ∧
        u.warp.prep = s.warp.prep.filter (fun p => !(p.group == g && p.slot == slot))) ∧
    (s.rxSec g pick = some (sec, t, w) → sec.rxd[desc]? = some x → s.warp.on = true → x.kind = 1 →
      (s.rxStream g desc pick).done = false → exec (.streamDeadline g desc pick) s =
        done (((s.streamSignal x (s.rxStream g desc pick)).bump PICK_HOLE_COUNT_VAL).raise PICK_EVENT_HOLE)) ∧
    (∀ c : List (List Byte), s.warp.on = true → s.rxSec g pick = some (sec, t, w) → t.cover = 0 → c.length = 8 →
      cells = c.map some → (∀ b ∈ c, cellGood b = true) → (∀ k < 8, s.cellLane (8 * g + k) = true) → g < 12 → sec.parity < 8 →
      exec (.cellReceive g pick slot cells) s = done ((List.range 7).foldl
        (fun s k => s.takeCell g pick slot k sec w (c.getD (lanePos sec.parity k) [])) s)) ∧
    (s.warp.on = false → (∀ c ∈ cells, c = none) → exec (.cellReceive g pick slot cells) s = done s)) ∧
  (∀ (cells : List (List Byte)) (k : Nat), cells.length = 7 → k < 7 → (∀ c ∈ cells, c.length ≤ 1520) →
    (∀ j < 7, j ≠ k → cellGood (cells.getD j []) = true ∧
      sliceB (cellBytes (cells.getD j [])) 0 1520 = sliceB (cells.getD j []) 0 1520) →
    rebuild ((cells.map some).set k none) (some (parityOf cells)) =
      (cells.map some).set k (some (sliceB (cells.getD k []) 0 1520)))

/-! ### The mesh, roles, sparing (03_spindle_tiles.md, 18_reliability_service.md) -/

/-- MESH_HOP (R119, R120): the oldest message of its buffer, with a good header check, moves to the next router where
that has room: one step along X or Y, in X first on an XY route set and Y first on a YX one, which leaves it one router
nearer its target; every other message stays. -/
def Obligations.MeshHopNearsTarget : Prop :=
  ∀ (s : State) (id : Nat) (f : Flight), s.til.mesh.find? (fun g => g.id == id) = some f → s.oldest f = true →
    let d := s.phys f.target
    let n := nextRouter f d.1 d.2
    let far (x y : Nat) : Nat := ((x : Int) - d.1).natAbs + ((y : Int) - d.2).natAbs
    (f.x, f.y) ≠ d → s.bypassed f.x f.y = false → s.bufRoom n.1 n.2.1 n.2.2 f.cls f.yx f.flits = true →
    ∃ t, exec (.meshHop id true) s = done t ∧ t = { s with til := { s.til with mesh := t.til.mesh } } ∧
      t.til.mesh = s.til.mesh.map (fun g => if g.id = id then { g with x := n.1, y := n.2.1, port := n.2.2 } else g) ∧
      far n.1 n.2.1 + 1 = far f.x f.y ∧
      (f.yx = false → f.x ≠ d.1 → n.2.1 = f.y) ∧ (f.yx = true → f.y ≠ d.2 → n.1 = f.x)

/-- MESSAGE_ACCEPT and RETURNED_MESSAGE_ARRIVE (R127, R128, R130) at the target of the oldest message: one that passes
Table 3.4 enters the inbound queue and is counted; one that fails goes back with its status, reason, role and epoch; a
returned message enters its sender's queue, or waits while that is full. The checks of Table 3.4, in order: another
instance's target takes none but a MANAGER's messages, a FAILED tile none, and role and epoch must match unless the
sender may address any role. -/
def Obligations.MeshAcceptance : Prop :=
  (∀ (s : State) (id : Nat) (f : Flight), s.Sound → s.til.mesh.find? (fun g => g.id == id) = some f → s.oldest f = true →
    let x := s.tile f.target
    s.phys f.target = (f.x, f.y) → s.bypassed f.x f.y = false → x.down = false → s.trc.halted = false →
    (f.cls ≠ 2 → x.inq.length < 32 → f.m.isPost = false →
      (s.acceptFault f.m = none → s.roleOf f.m.dst ≠ 2 → ∃ t, exec (.messageAccept id) s = done t ∧ t.mem = s.mem ∧
        t.til.mesh = s.til.mesh.filter (fun g => g.id != id) ∧
        (∀ n, t.tile n = if n = f.m.dst then { s.tile n with inq := (s.tile n).inq ++ [f.m] } else s.tile n) ∧
        t.get (TILE_MSG_ACCEPTED_VAL f.m.dst) = min (s.get (TILE_MSG_ACCEPTED_VAL f.m.dst) + 1)
          (2 ^ (TILE_MSG_ACCEPTED_VAL f.m.dst).w - 1)) ∧
      (∀ st re ro ep, s.acceptFault f.m = some (st, re, ro, ep) →
        s.bufRoom f.x f.y 0 2 f.yx (ceilDiv (32 + f.m.len) 64) = true →
        exec (.messageAccept id) s = done ((s.dropFlight id).returnMsg f.target st re ro ep f.yx f.m))) ∧
    (f.cls = 2 →
      (x.rmq.length < 32 →
        exec (.returnedMessageArrive id) s = done ((s.dropFlight id).pushReturned f.target (f.m.entry f.yx f.record))) ∧
      (32 ≤ x.rmq.length → f.waited = false → ∃ t, exec (.returnedMessageArrive id) s = done t ∧ t.mem = s.mem ∧
        (∀ n, t.tile n = s.tile n) ∧ t.get (TILE_EVENT_RMQ_FULL f.target) = 1))) ∧
  (∀ (s : State) (m : Msg),
    let role := s.get (TILE_ROLE_ROLE m.dst)
    let epoch := s.get (TILE_ROLE_EPOCH m.dst)
    let foreign := s.instOfTile m.src ≠ s.instOfTile m.dst ∧ role ≠ 1
    let failed := s.get (TILE_STATE_STATE m.dst) = 7
    (foreign → s.acceptFault m = some (stACCESS, 4, 0, 0)) ∧
    (¬ foreign → failed → s.acceptFault m = some (stSTALE_ROLE, 3, role, epoch)) ∧
    (¬ foreign → ¬ failed → m.anyRole = false → m.role ≠ role → s.acceptFault m = some (stSTALE_ROLE, 1, role, epoch)) ∧
    (¬ foreign → ¬ failed → m.anyRole = false → m.role = role → m.epoch ≠ epoch →
      s.acceptFault m = some (stSTALE_ROLE, 2, role, epoch)) ∧
    (s.acceptFault m = none ↔ ¬ foreign ∧ ¬ failed ∧ (m.anyRole = true ∨ (m.role = role ∧ m.epoch = epoch))))

/-- Role changes (R132 to R134): TILE_CTRL_ASSIGN starts an assignment that passes Table 3.6 and otherwise names the
refusal; ROLE_CHANGE_DRAINED completes it with OK once the tile's skeins have ended; TILE_LOAD_DONE copies the image and
makes the tile IDLE in role SPARE, else READY, and RUNNING outside the scheduled sets. Steps 6 and 7 of Table 3.7: the
local store of the tile holds the image from offset 0, at most 32 KiB of it, and zeros elsewhere; no other byte of
memory changes. -/
def Obligations.RoleChanges : Prop :=
  (∀ (s : State) (r : Requester) (n : Nat) (a : Assign), s.Sound →
    let x := s.tile n
    let role := s.get (TILE_ROLE_NEXT_ROLE n)
    let src := s.get (TILE_LOAD_SRC_ADDR n)
    let len := s.get (TILE_LOAD_CFG_LEN n)
    let entry := s.get (TILE_LOAD_CFG_ENTRY n)
    let fw := match r with
      | .manager _ => true
      | _ => false
    (n < 4096 → s.privReq r = true → s.assignStatus fw none n role src len entry = stOK →
      exec (.tileCtrlAssign r n) s = done (s.startAssign n role src len entry none)) ∧
    (n < 4096 → s.privReq r = true → s.assignStatus fw none n role src len entry ≠ stOK →
      s.sets (exec (.tileCtrlAssign r n) s) [(TILE_STATE_ASSIGN_RESULT n, s.assignStatus fw none n role src len entry),
        (TILE_EVENT_ASSIGN_REFUSED n, 1)]) ∧
    (x.assign = some a → a.by_ = none → s.get (TILE_STATE_STATE n) = 1 →
      (∀ p ∈ x.s.handles ++ x.w.handles, p.2.state = 6) →
      s.sets (exec (.roleChangeDrained n) s) [(TILE_STATE_STATE n, 2), (TILE_STATE_ASSIGN_RESULT n, stOK)]) ∧
    (s.get (TILE_STATE_STATE n) = 3 → x.assign = some a →
      let r := s.imageOf a
      let u := ((r.1.loadStore n r.2).setTile n { (r.1.loadStore n r.2).tile n with
        assign := none, image := r.2, fresh := false }).raise (TILE_EVENT_LOAD_DONE n)
      exec (.tileLoadDone n) s = done (if u.roleOf n = 0 then u.put (TILE_STATE_STATE n) 0
        else (u.put (TILE_STATE_STATE n) 4).startReady n))) ∧
  (∀ (s : State) (n : Nat) (img : List Byte), s.Sound →
    let t := s.loadStore n img
    t = { s with mem := t.mem } ∧
    (∀ k < 0x30000, t.byte (localPa n k) = if k < 0x8000 then img.getD k 0 else 0) ∧
    ∀ p, p < localPa n 0 ∨ localPa n 0x30000 ≤ p → t.byte p = s.byte p)

/-- Sparing and faults of tiles and mirrors (R123 to R125, R549 to R555): TILE_SPARE_CMD, TILE_FAULT_DETECT,
TILE_WATCHDOG_EXPIRY, TILE_RESTORE_COMPLETE, MIRROR_ERROR, MIRROR_RECOPY_COMPLETE and MANAGER_PARTNER_READY. -/
def Obligations.TileFaultsAndSparing : Prop :=
  ∀ (s : State) (r : Requester) (v n : Nat) (router : Bool), s.Sound →
    let col := v % 2 ^ 6
    let row := v / 2 ^ 8 % 2 ^ 6
    let x := s.tile n
    let word := s.reg (PWR_REL_UNMIRRORED (n / 64))
    let asks := s.privReq r = true ∧ v.testBit 31 = true ∧ s.on TILE_SPARE_STATUS_PENDING = false
    let spared := { s.setTile n { x with down := true, restoring := true } with
      til := { (s.setTile n { x with down := true, restoring := true }).til with
        spareAt := s.til.spareAt ++ [homeOf n] } }
    (asks → s.get (TILE_SPARE_MAP_SUB_ROW col) = row → s.sets (exec (.tileSpareCmd r v) s) [(TILE_SPARE_STATUS_RESULT, stOK)]) ∧
    (asks → s.get (TILE_SPARE_MAP_SUB_ROW col) ≠ row → s.spareFree col = false →
      s.sets (exec (.tileSpareCmd r v) s) [(TILE_SPARE_STATUS_RESULT, stBUSY)]) ∧
    (asks → s.get (TILE_SPARE_MAP_SUB_ROW col) ≠ row → s.spareFree col = true →
      State.sets { s with til := { s.til with
        spareAt := s.til.spareAt ++ [(col, row)]
        bypassAt := if v.testBit 16 then s.til.bypassAt ++ [(col, row)] else s.til.bypassAt
        spareCmd := true } } (exec (.tileSpareCmd r v) s) [(TILE_SPARE_STATUS_PENDING, 1)]) ∧
    (n < 4096 → x.down = false → s.get (TILE_STATE_STATE n) ≠ 7 → s.isManager n = false →
      s.til.mgrLost.contains (n / 1024) = false →
      (s.spareFree (homeOf n).1 = false → exec (.tileFaultDetect n router) s = done (s.failTile n)) ∧
      (s.spareFree (homeOf n).1 = true → s.unmirrored n = false →
        exec (.tileFaultDetect n false) s = done spared ∧
        (s.runs n .S = true ∨ s.runs n .W = true → exec (.tileWatchdogExpiry n) s = done spared))) ∧
    (x.restoring = true → State.sets (s.setTile n { x with restoring := false }) (exec (.tileRestoreComplete n) s)
      [(PWR_REL_EVENT_TILE_RESTORED, 1)]) ∧
    (n < 4096 → word.testBit (n % 64) = false → ∃ t, exec (.mirrorError n) s = done t ∧
      t = { s with csr := t.csr, til := { s.til with recopy := n :: s.til.recopy } } ∧
      t.reg (PWR_REL_UNMIRRORED (n / 64)) = word ||| 2 ^ (n % 64) ∧ t.get PWR_REL_EVENT_MIRROR_LOST = 1) ∧
    (s.til.recopy.contains n = true → ∃ t, exec (.mirrorRecopyComplete n) s = done t ∧
      t = { s with csr := t.csr, til := { s.til with recopy := s.til.recopy.filter (· != n) } } ∧
      ∀ k, (t.reg (PWR_REL_UNMIRRORED (n / 64))).testBit k = (word.testBit k && k != n % 64)) ∧
    (s.til.mgrAlone.contains n = true → s.til.mgrLost.contains n = false →
      (∀ j < 2, (s.tile (1024 * n + j)).down = false ∧ s.get (TILE_STATE_STATE (1024 * n + j)) ≠ 7) →
      State.sets { s with til := { s.til with mgrAlone := s.til.mgrAlone.filter (· != n) } } (exec (.managerPartnerReady n) s)
        [(PWR_REL_EVENT_PARTNER_READY, 1)])

/-! ### Skein engines and chunk queues (06_skein_engine.md) -/

/-- The engine's events of a skein (R224, R228, R232, R236, R242, R246): SKEIN_FENCE_START, SKEIN_CHUNK_END,
SKEIN_QUEUE_ROOM, SKEIN_FAULT, SKEIN_EARLY_END and SKEIN_COMPLETE. A completed skein (R224, R230): its handle holds DONE
with the status, the tiles' other handles and memory are as they were, and the completion is counted. CQ_ENABLE and
CQ_DISABLE (R225, R229, R481): the checks in order with their statuses, and the queue enabled with head and tail 0, or
disabled with its waiting skeins and CHTAKEW ended. -/
def Obligations.SkeinEnginesAndChunkQueues : Prop :=
  (∀ (s : State) (t : Nat) (c : Ctx) (h : Nat) (k : Skein), s.skein? t c h = some k →
    let moving := k.state = 1 ∧ k.due = 0 ∧ k.done < k.total ∧ s.engineOk t = true
    (k.state = 2 → (∀ p ∈ (s.ctx t c).handles, p.2.age < k.age → p.2.state = 6) →
      exec (.skeinFenceStart t c h) s = done (s.setSkein t c h { k with state := 1 })) ∧
    (∀ s1 k1, moving → s.moveChunk t none k = (s1, k1, .none) →
      let j := s1.judge k1
      let g := j.1.chunkSig t c h j.2
      (j.2.signal = false → exec (.skeinChunkEnd t c h) s = done (j.1.setSkein t c h { j.2 with cvt := 0, state := 1 })) ∧
      (j.2.signal = true → j.1.on (SKN_CQ_CFG_ENABLE j.2.queue) = true → j.1.cqFull j.2.queue = false →
        exec (.skeinChunkEnd t c h) s = done (((j.1.cqPut j.2.queue g).countHole g).setSkein t c h
          { j.2 with nextChunk := j.2.nextChunk + 1, cvt := 0, state := 1 })) ∧
      (j.2.signal = true → j.1.on (SKN_CQ_CFG_ENABLE j.2.queue) = true → j.1.cqFull j.2.queue = true →
        exec (.skeinChunkEnd t c h) s = done ((j.1.setSkein t c h { j.2 with state := 3 }).raise SKN_EVENT_QUEUE_WAIT)) ∧
      (j.2.signal = true → j.1.on (SKN_CQ_CFG_ENABLE j.2.queue) = false →
        exec (.skeinChunkEnd t c h) s = done (j.1.skeinDone t c h j.2 (if j.2.due = 0 then stACCESS else j.2.status)))) ∧
    (k.state = 3 → k.due = 0 → k.signal = true → s.on (SKN_CQ_CFG_ENABLE k.queue) = true → s.cqFull k.queue = false →
      let g := s.chunkSig t c h k
      exec (.skeinQueueRoom t c h) s = done (((s.cqPut k.queue g).countHole g).setSkein t c h
        { k with nextChunk := k.nextChunk + 1, cvt := 0, state := 1 })) ∧
    (∀ s1 k1 side va, moving → s.moveChunk t none k = (s1, k1, .fault side va) →
      let r := s1.translate (s.instOfTile t) (k1.asid side) va side (.skein t c h)
      let u := (r.1.bump SKN_FAULTED_VAL).raise SKN_EVENT_FAULT
      let x : Skein := match r.2 with
        | .unresolved => { k1 with due := stFAULT_UNRESOLVED }
        | _ => { k1 with
            state := if u.xlt.parked.any (fun p => p.who == .skein t c h && p.stalled) then 5 else 4
            fault := va
            side := side }
      exec (.skeinFault t c h) s = done (u.setSkein t c h x)) ∧
    (∀ bad, k.state = 1 → k.due ≠ 0 → k.signal = true → s.on (SKN_CQ_CFG_ENABLE k.queue) = true → s.cqFull k.queue = false →
      let g := Skein.holeSig t c h k k.due (s.get PICK_NUMBER_NUMBER)
      exec (.skeinEarlyEnd t c h bad) s = done (((s.cqPut k.queue g).countHole g).skeinDone t c h k k.due)) ∧
    (∀ bad s1 k1 side va, moving → s.moveChunk t bad k = (s1, k1, .access side va) → k1.signal = false →
      exec (.skeinEarlyEnd t c h bad) s =
        done ((s1.translate (s.instOfTile t) (k1.asid side) va side (.skein t c h)).1.skeinDone t c h k1 stACCESS)) ∧
    (k.state = 1 → k.due = 0 → k.done = k.total → (k.signal = true → k.nextChunk = k.chunks) →
      let u := s.skeinDone t c h k k.status
      exec (.skeinComplete t c h) s = done (if k.readyF = true ∧ k.status = stOK then u.setReady k.readyGroup k.readyIdx else u))) ∧
  (∀ (s : State) (t : Nat) (c : Ctx) (h : Nat) (k : Skein) (st : Nat), s.Sound → s.on TRC_CFG_ENABLE = false →
    (s.on TRC_TRIG_CFG_SRC_MATCH = false ∨ s.get TRC_TRIG_STATUS_STATE ≠ 1) →
    let u := s.skeinDone t c h k st
    u.mem = s.mem ∧ u.trc = s.trc ∧
      u.get SKN_COMPLETED_VAL = min (s.get SKN_COMPLETED_VAL + 1) (2 ^ SKN_COMPLETED_VAL.w - 1) ∧
      (u.skein? t c h).map (fun x => (x.state, x.status, x.due)) = some (6, st, 0) ∧
      ∀ n d g, (n, d, g) ≠ (t, c, h) → u.skein? n d g = s.skein? n d g) ∧
  (∀ (s : State) (inst slot : Nat) (e : Entry), s.entry? inst 0 slot = some e →
    let q := e.b 0 2
    let lg := e.b 2 1
    let base := e.b 8 8
    (e.op = 0x09 →
      let good := e.rsvdZero [(0, 3), (8, 8)] = true ∧ 4 ≤ lg ∧ lg ≤ 16 ∧ base % 64 = 0
      let mine := s.cqOwner q = inst ∧ inside (s.nearRange inst) base (2 ^ lg * 64) = true
      (¬ good → exec (.cqEnable inst slot) s = done (s.complete inst 0 slot stMALFORMED 0)) ∧
      (good → ¬ mine → exec (.cqEnable inst slot) s = done (s.complete inst 0 slot stACCESS 0)) ∧
      (good → mine → s.on (SKN_CQ_CFG_ENABLE q) = true →
        exec (.cqEnable inst slot) s = done (s.complete inst 0 slot stBUSY 0)) ∧
      (good → mine → s.on (SKN_CQ_CFG_ENABLE q) = false → exec (.cqEnable inst slot) s = done
        ((((s.put (SKN_CQ_BASE_BASE q) (base / 64)).put (SKN_CQ_CFG_LOG2_DEPTH q) lg).enableCq q).complete inst 0 slot stOK 0))) ∧
    (e.op = 0x0A →
      (e.rsvdZero [(0, 2)] = false → exec (.cqDisable inst slot) s = done (s.complete inst 0 slot stMALFORMED 0)) ∧
      (e.rsvdZero [(0, 2)] = true → s.cqOwner q ≠ inst →
        exec (.cqDisable inst slot) s = done (s.complete inst 0 slot stACCESS 0)) ∧
      (e.rsvdZero [(0, 2)] = true → s.cqOwner q = inst →
        exec (.cqDisable inst slot) s = done ((s.disableCq q).complete inst 0 slot stOK 0))))

/-! ### The memory tiers (07_memory_tiers.md) -/

/-- A memory channel's read and write (R255, R262, R263, R529): a good line is returned; a whole-line write replaces the
line and its poison, a part of a line its own bytes, and a part of a poisoned line is dropped; no other byte changes; a
far tier without keys reads as poison and takes no write. -/
def Obligations.LineReadsAndWrites : Prop :=
  ∀ (s : State) (pa unit row : Nat) (f : Found) (data : List Byte), s.Sound → inTier pa = true →
    let dark := isFar pa = true ∧ s.farDark = true
    (s.poisoned pa = false → (f = .good ∨ f = .erased) → exec (.memoryRead pa f unit row) s =
      done { s.memSample pa with bus := { s.bus with line := some (s.bytes (pa / 64 * 64) 64) } }) ∧
    (s.poisoned pa = true → ¬ dark → exec (.memoryRead pa f unit row) s =
      done { (s.memSample pa).memLog 3 pa (s.chanOf pa) 0xFF 1 row with bus := { s.bus with line := none } }) ∧
    (s.poisoned pa = false → f = .uncorrectable → isFar pa = false → ∃ t, exec (.memoryRead pa f unit row) s = done t ∧
      t.mem = s.mem ∧ t.bus.line = none ∧ t.poisoned pa = true ∧ t.get MEM_EVENT_UE = 1 ∧
      t.get MEM_UE_NEAR_VAL = min (s.get MEM_UE_NEAR_VAL + 1) (2 ^ MEM_UE_NEAR_VAL.w - 1)) ∧
    (dark → exec (.memoryRead pa f unit row) s = done { s.memSample pa with bus := { s.bus with line := none } } ∧
      (pa % 64 + data.length ≤ 64 → exec (.memoryWrite pa data f unit row) s = done (s.memSample pa))) ∧
    (pa % 64 + data.length ≤ 64 → ¬ dark → (data.length = 64 ∨ (s.poisoned pa = false ∧ f ≠ .uncorrectable)) →
      ∃ t, exec (.memoryWrite pa data f unit row) s = done t ∧
        (∀ p, t.byte p = if pa ≤ p ∧ p < pa + data.length then data.getD (p - pa) 0 else s.byte p) ∧
        (data.length = 64 → mget false t.poison (pa / 64) = false) ∧ (∀ l, l ≠ pa / 64 → mget false t.poison l = mget false s.poison l) ∧
        t.til = s.til) ∧
    (pa % 64 + data.length ≤ 64 → data.length ≠ 64 → s.poisoned pa = true → ¬ dark → ∃ t,
      exec (.memoryWrite pa data f unit row) s = done t ∧ t.mem = s.mem ∧ t.poison = s.poison ∧
        t.get MEM_EVENT_POISON_WRITE_DROP = 1)

/-- Re-salting (R256 to R258, R273): MONITOR_WINDOW_END, MIGRATION_LINE_MOVE, MIGRATION_COMPLETE, HOLD_EXPIRY and
MEM_RESALT_REGION; a line at or past the cursor is still steered by the old salt, one below it by the new one. Repair
and scrubbing (R267 to R271, R273): row repair, the marking of a failed die or device, the rebuild and the channel move
line by line to their end, SCRUB_LINE and SCRUB_PASS_COMPLETE. -/
def Obligations.ResaltingRepairAndScrub : Prop :=
  (∀ (s : State) (rg new : Nat) (occ : List (Nat × Nat)),
    let e := s.saltOf rg
    (let u := { s with memu := { s.memu with hotCfg := s.reg MEM_HOT_CFG } }
     let m : SMap Nat := occ.foldl (fun m p => tput m p.1 p.2) []
     exec (.monitorWindowEnd occ) s = done ((u.windowTier m false).windowTier m true)) ∧
    (e.migrating = true → e.cursor < 32768 → ∃ t, exec (.migrationLineMove rg) s = done t ∧
      t = { s with memu := { s.memu with salts := t.memu.salts } } ∧
      ∀ pa, regionOf pa = rg → t.chanOf pa = channelOf rg (lineOf pa) (if lineOf pa ≤ e.cursor then e.salt else e.old)) ∧
    (e.migrating = true → e.cursor = 32768 → exec (.migrationComplete rg) s = done ((s.setSalt rg
      { salt := e.salt, migrating := false, old := 0, cursor := 0, hold := true }).traceMem 2 (chanNo rg 0 e.salt) 1 rg)) ∧
    (e.hold = true → exec (.holdExpiry rg) s = done (s.setSalt rg { e with hold := false })) ∧
    (rg < 1048576 → new < 16 → e.migrating = false → e.salt ≠ new → s.migrating (regionFar rg) < s.inFlight →
      exec (.memResaltRegion rg new) s = done ((s.resalt rg new).memCmd stOK)) ∧
    (rg < 1048576 → new < 16 → (e.migrating = true ∨ e.salt = new ∨ s.inFlight ≤ s.migrating (regionFar rg)) →
      s.sets (exec (.memResaltRegion rg new) s) [(MEM_CMD_STATUS_RESULT, stBUSY), (MEM_CMD_STATUS_PENDING, 0)]) ∧
    (1048576 ≤ rg ∨ 16 ≤ new → s.sets (exec (.memResaltRegion rg new) s)
      [(MEM_CMD_STATUS_RESULT, stMALFORMED), (MEM_CMD_STATUS_PENDING, 0)])) ∧
  (∀ (s : State) (chan row pa k c unit : Nat) (f : Found) (far : Bool), s.Sound → sortedKeys s.memu.rowCe = true →
    let repairing := s.memu.repairs.any fun r => r.chan == chan && r.row == row
    let auto := s.on MEM_REPAIR_CFG_AUTO = true
    let rows (u : Nat) := (mget [] s.memu.unitRows u).length
    (auto → max 1 (s.get MEM_REPAIR_CFG_ROW_CE) ≤ mget 0 s.memu.rowCe (chan * 2 ^ 32 + row) → repairing = false →
      (chan, row) ∉ s.memu.repaired → exec (.rowRepairStart chan row true) s = done
        (State.traceMem { s with memu := { s.memu with repairs := ⟨chan, row, 0⟩ :: s.memu.repairs } } 1 chan 4 0)) ∧
    (repairing = true →
      (exec (.rowRepairLineStep chan row pa false) s = done { s with memu := { s.memu with
        repairs := modifyWhere (fun r => r.chan == chan && r.row == row) (fun r => { r with cursor := r.cursor + 1 })
          s.memu.repairs } }) ∧
      ∃ t, exec (.rowRepairLineStep chan row pa true) s = done t ∧ t.mem = s.mem ∧ t.poison = s.poison ∧
        t.memu.repaired = (chan, row) :: s.memu.repaired ∧ mget 0 t.memu.rowCe (chan * 2 ^ 32 + row) = 0 ∧
        (∀ r ∈ t.memu.repairs, ¬ (r.chan = chan ∧ r.row = row))) ∧
    (k < 16 → unit ≤ 10 → auto → max 1 (s.get MEM_REPAIR_CFG_DIE_ROWS) ≤ rows (k * 32 + unit) →
      exec (.dieMarkFailed k unit) s = done (s.markDie k unit 1)) ∧
    (k < 16 → unit ≤ 10 → exec (.memMarkNearDie k unit) s = done ((s.markDie k unit 4).memCmd stOK)) ∧
    (c < 48 → unit < 20 → auto → max 1 (s.get MEM_REPAIR_CFG_DIE_ROWS) ≤ rows ((16 + c) * 32 + unit) →
      exec (.deviceMarkFailed c unit) s = done (s.markDevice c unit 1)) ∧
    (c < 48 → unit < 20 → exec (.memMarkFarDevice c unit) s = done ((s.markDevice c unit 4).memCmd stOK)) ∧
    (16 ≤ k ∨ 10 < unit → s.sets (exec (.memMarkNearDie k unit) s)
      [(MEM_CMD_STATUS_RESULT, stMALFORMED), (MEM_CMD_STATUS_PENDING, 0)]) ∧
    (48 ≤ c ∨ 20 ≤ unit → s.sets (exec (.memMarkFarDevice c unit) s)
      [(MEM_CMD_STATUS_RESULT, stMALFORMED), (MEM_CMD_STATUS_PENDING, 0)]) ∧
    (∀ n, k < 16 → tfind s.memu.rebuild k = some n → n < unitLines →
      exec (.rebuildLineStep k pa f unit row) s = done ((s.lineFound pa f unit row 3).1.setCursor k (n + 1))) ∧
    (∀ n, tfind s.memu.rebuild (16 + c) = some n → n < unitLines →
      exec (.channelMoveLineStep c pa f unit row) s = done ((s.lineFound pa f unit row 3).1.setCursor (16 + c) (n + 1))) ∧
    (k < 16 → tfind s.memu.rebuild k = some unitLines → (s.memu.failedUnits.filter fun u => u / 32 == k).length < 2 →
      (s.on TRC_TRIG_CFG_SRC_MATCH = false ∨ s.get TRC_TRIG_STATUS_STATE ≠ 1) → s.on TRC_CFG_ENABLE = false →
      State.sets { s with memu := { s.memu with rebuild := tdel s.memu.rebuild k } } (exec (.rebuildComplete k) s)
        [(MEM_STACK_REBUILDING k, 0), (MEM_STACK_REBUILD_CURSOR k, 0), (MEM_EVENT_REBUILD_DONE, 1)]) ∧
    (c < 48 → tfind s.memu.rebuild (16 + c) = some unitLines → (s.on TRC_TRIG_CFG_SRC_MATCH = false ∨ s.get TRC_TRIG_STATUS_STATE ≠ 1) →
      s.on TRC_CFG_ENABLE = false → State.sets { s with memu := { s.memu with
        rebuild := tdel s.memu.rebuild (16 + c), failedUnits := s.memu.failedUnits.filter fun u => u / 32 != 16 + c } }
        (exec (.channelMoveComplete c) s) [(MEM_FAR_MOVING c, 0), (MEM_FAR_MOVE_CURSOR c, 0),
          (MEM_FAR_PHYS c, 13 * (c / 12) + 12), (MEM_FAR_FAILED_DEV c, 0x1F), (MEM_EVENT_CHAN_MOVE_DONE, 1)]) ∧
    (s.on MEM_SCRUB_CFG_ENABLE = true → inTier pa = true →
      exec (.scrubLine pa f unit row) s = done (s.lineFound pa f unit row 2).1) ∧
    (s.on MEM_SCRUB_CFG_ENABLE = true →
      let passes := if far = true then MEM_SCRUB_STATUS_FAR_PASSES else MEM_SCRUB_STATUS_NEAR_PASSES
      ∃ t, exec (.scrubPassComplete far) s = done t ∧ t.get passes = min (s.get passes + 1) (2 ^ passes.w - 1) ∧
        t = { s with csr := t.csr, memu := { s.memu with
          rowCe := s.memu.rowCe.filter fun p => (256 ≤ p.1 / 2 ^ 32) != far
          unitRows := s.memu.unitRows.filter fun p => (512 ≤ p.1) != far } }))

/-! ### Translation (08_translation_faults.md) -/

/-- The page commands of Table 8.3 (R276, R278, R284, R287, R295, R296): the checks in order with the statuses they
complete with, the switch of the entry where they pass, and XLT_INVALIDATE_COMPLETE, MIGRATE_IN_COMPLETE and
MIGRATE_OUT_COMPLETE, which end the command. The ends of the running translation commands (R284, R295, R296): the caches
have dropped the old entry, or the page has been copied and its entry is VALID (in) or HOST (out); a failed host read
restores the old kind. -/
def Obligations.TranslationPageCommands : Prop :=
  (∀ (s : State) (i slot : Nat) (e : Entry), s.entry? i 0 slot = some e → s.xltBusy i = false →
    let n := 2 ^ sizeShift e.xSize
    let checks (c : Instr) (well : Bool) (pa pin valid ow : Bool) (ok : State → Nat → Nat → State) : Prop :=
      let range := e.xVa < 2 ^ 57 ∧ s.asidOk i e.xAsid = true ∧ (pa = true → s.pageOk i e.xPa (sizeShift e.xSize) = true)
      let free := pin = true → s.pinned e.xAsid e.xVa n = false
      let h := s.walk i e.xAsid e.xVa (sizeLevel e.xSize)
      (well = false → exec c s = done (s.xltEnd i slot stMALFORMED)) ∧
      (well = true → ¬ range → exec c s = done (s.xltEnd i slot stACCESS)) ∧
      (well = true → range → ¬ free → exec c s = done (s.xltEnd i slot stBUSY)) ∧
      (well = true → range → free → (h.kind = .pointer ∨ h.kind = .migrating) → exec c s = done (s.xltEnd i slot stBUSY)) ∧
      (well = true → range → free → h.kind = .bad → exec c s = done ((s.badEntry e.xAsid h).xltEnd i slot stACCESS)) ∧
      (∀ s1 epa old, well = true → range → free → s.xltTarget e.xAsid e.xVa e.xSize h valid ow = (s1, .ok (epa, old)) →
        exec c s = done (ok s1 epa old))
    (e.op = 0x12 → checks (.xltMap i slot) (e.xWell [(0, 4), (8, 16)] true false) true false false false fun s1 epa _ =>
      ((s1.setEntry epa (leafEntry e.xPa e.xPerm)).endService i e.xAsid e.xVa n).xltSwitch i slot) ∧
    (e.op = 0x13 → checks (.xltUnmap i slot) (e.xWell [(0, 3), (8, 8)] false false) false true false true fun s1 epa _ =>
      ((s1.setEntry epa 0).endService i e.xAsid e.xVa n).xltSwitch i slot) ∧
    (e.op = 0x14 → checks (.xltProtect i slot) (e.xWell [(0, 4), (8, 8)] false false) false true true false fun s1 epa old =>
      (s1.setEntry epa (leafEntry (entryAddr old) e.xPerm)).xltSwitch i slot) ∧
    (e.op = 0x15 → checks (.xltSetHost i slot) (e.xWell [(0, 3), (8, 8)] false false) false false false false fun s1 epa _ =>
      ((s1.setEntry epa (kindEntry 1)).endService i e.xAsid e.xVa n).xltSwitch i slot) ∧
    (e.op = 0x16 → checks (.migrateIn i slot) (e.xWell [(0, 4), (8, 24)] true true) true false false false fun s1 epa old =>
      let m : Migration := ⟨i, slot, e.xAsid, e.xVa, sizeShift e.xSize, e.xPa, e.xPerm, e.xHost, bits old 1 2, false⟩
      let u := s1.setEntry epa (kindEntry 2)
      { u with xlt := { u.xlt with migs := u.xlt.migs ++ [m] } }) ∧
    (e.op = 0x17 → checks (.migrateOut i slot) (e.xWell [(0, 3), (8, 8), (24, 8)] false true) false true true false
      fun s1 epa old =>
        let m : Migration :=
          ⟨i, slot, e.xAsid, e.xVa, sizeShift e.xSize, entryAddr old, bits old 2 2, e.xHost, 0, true⟩
        let u := s1.setEntry epa (kindEntry 2)
        if (winOf (entryAddr old)).isSome then s1.xltEnd i slot stBUSY
        else { u with xlt := { u.xlt with migs := u.xlt.migs ++ [m] } })) ∧
  (∀ (s : State) (i slot : Nat) (m : Migration) (bs : List Byte),
    (s.xlt.inval.contains (i, slot) = true → exec (.xltInvalidateComplete i slot) s = done
      (State.xltEnd { s with xlt := { s.xlt with inval := s.xlt.inval.filter fun p => p != (i, slot) } } i slot stOK)) ∧
    (s.mig? i slot false = some m →
      exec (.migrateInComplete i slot (some bs)) s =
        done ((s.write m.pa (sliceB bs 0 (2 ^ m.shift))).endMig m (leafEntry m.pa m.perm) stOK) ∧
      exec (.migrateInComplete i slot none) s =
        done ((s.endMig m (kindEntry m.oldKind) stACCESS).raise XLT_EVENT_MIGRATE_ERR)) ∧
    (s.mig? i slot true = some m → exec (.migrateOutComplete i slot) s =
      done ((s.pageToHost i m.pa m.host (2 ^ m.shift / 64)).endMig m (kindEntry 1)
        (if s.anyPoison m.pa (2 ^ m.shift) = true then stHOLE else stOK))))

/-- ASIDs and fault service (R285, R287, R290 to R293, R297 to R302): XLT_ASID_CREATE, XLT_ASID_DESTROY, FAULT_FAIL,
FAULT_BATCH_SEND, PARKED_REQUEST_RETRY, FAULT_TIMEOUT, XLT_FR_CONS_WRITE and XLT_FR_ENABLE_WRITE. A translation (R276,
R277, R281, R289, R293): beyond 57 bits or under an unusable ASID it is refused; a leaf with the permission gives the
physical address inside its page, one without it is refused; a NONE entry is refused; a page on the host is a fault, or
ends unresolved where the instance takes no faults. -/
def Obligations.AsidsFaultsAndOutcomes : Prop :=
  (∀ (s : State) (i slot a va val : Nat) (e : Entry), s.Sound →
    let cmd (op : Nat) : Prop := s.entry? i 0 slot = some e ∧ s.xltBusy i = false ∧ e.op = op
    let mirror := e.b 2 1
    let pa := e.b 8 8
    let len := e.b 16 8
    let hit (p : Parked) : Bool :=
      p.inst == i && p.asid == a && p.ready && p.base ≤ va && va < p.base + 2 ^ p.shift
    (cmd 0x10 → e.rsvdZero [(0, 3), (8, 16)] = true → pa % 4096 = 0 → len % 4096 = 0 → 0 < len → e.xAsid < 4096 →
      e.xAsid / s.asidsPer = i → inside (s.nearRange i) pa len = true → s.on (XLT_ROOT_USABLE e.xAsid) = false →
      (mirror = 0 ∨ (mirror = 1 ∧ i = 0 ∧ s.get XLT_MIRRORS_VAL < 8)) →
      let u := (((s.write pa (List.replicate 4096 0)).put (XLT_ROOT_ROOT e.xAsid) (pa / 4096)).put
        (XLT_ROOT_USABLE e.xAsid) 1).put (XLT_ROOT_MIRROR e.xAsid) mirror
      let w := (u.put (XLT_POOL_LEN_4K e.xAsid) (len / 4096)).put (XLT_POOL_USED_4K e.xAsid) 1
      exec (.xltAsidCreate i slot) s = done (State.xltEnd (State.put
        { w with xlt := { w.xlt with used := tput w.xlt.used e.xAsid 4096 } } XLT_MIRRORS_VAL
        (w.get XLT_MIRRORS_VAL + mirror)) i slot stOK)) ∧
    (cmd 0x11 → e.rsvdZero [(0, 2)] = true → s.asidOk i e.xAsid = true → s.pinned e.xAsid 0 (2 ^ 57) = false →
      exec (.xltAsidDestroy i slot) s = done ((s.dropAsid i e.xAsid).xltSwitch i slot)) ∧
    (cmd 0x18 → e.rsvdZero [(0, 2), (8, 8)] = true → e.xVa < 2 ^ 57 → s.asidOk i e.xAsid = true →
      exec (.faultFail i slot) s = done ((s.endUnresolved i fun o => o.asid == e.xAsid && o.base ≤ e.xVa &&
        e.xVa < o.base + 2 ^ o.shift).deliverEnded.xltEnd i slot stOK)) ∧
    (mget [] s.xlt.openB i ≠ [] → exec (.faultBatchSend i) s = done ((s.sendBatch i).settle i)) ∧
    (s.xlt.parked.any hit = true → exec (.parkedRequestRetry i a va) s = done (((s.xlt.parked.filter hit).foldl
      (fun (u : State) p => u.resume p) { s with xlt := { s.xlt with parked := s.xlt.parked.filter fun p => !hit p } }).settle i)) ∧
    (s.get (XLT_FR_CFG_TIMEOUT_MS i) ≠ 0 → exec (.faultTimeout i a va) s = done (s.endUnresolved i fun o =>
      o.asid == a && o.base ≤ va && va < o.base + 2 ^ o.shift).deliverEnded) ∧
    ((s.get (XLT_FR_PROD_PROD i) + 2 ^ 32 - val % 2 ^ 32) % 2 ^ 32 ≤ 4096 →
      exec (.xltFrConsWrite i val) s = done (((s.put (XLT_FR_CONS_CONS i) (val % 2 ^ 32)).flushHeld i).settle i)) ∧
    (4096 < (s.get (XLT_FR_PROD_PROD i) + 2 ^ 32 - val % 2 ^ 32) % 2 ^ 32 → exec (.xltFrConsWrite i val) s = done s) ∧
    (val.testBit 0 = true → s.on (XLT_FR_CFG_ENABLE i) = false → s.sets (exec (.xltFrEnableWrite i val) s)
      [(XLT_FR_CFG_TIMEOUT_MS i, val / 2 ^ 16), (XLT_FR_CFG_ENABLE i, 1), (XLT_FR_PROD_PROD i, 0), (XLT_FR_CONS_CONS i, 0)]) ∧
    (val.testBit 0 = false → s.on (XLT_FR_CFG_ENABLE i) = true → exec (.xltFrEnableWrite i val) s = done
      (((s.put (XLT_FR_CFG_TIMEOUT_MS i) (bits val 16 16)).put (XLT_FR_CFG_ENABLE i) 0).endAllFaults i).deliverEnded)) ∧
  (∀ (s : State) (i a va : Nat) (wr : Bool) (who : Waiter), s.Sound →
    let h := s.walk i a va 4
    let walked := s.bump XLT_WALKS_VAL
    let out (t : State) (r : XRes) : Prop :=
      exec (.translationWalk i a va wr who) s = done { t with xlt := { t.xlt with last := r } }
    let usable := va < 2 ^ 57 ∧ s.asidOk i a = true
    (¬ usable → out s .access) ∧
    (usable → h.kind = .leaf → h.e.testBit (if wr = true then 3 else 2) = true →
      out walked (.ok (bits h.e 8 40 * 256 + va % 2 ^ levelShift h.level))) ∧
    (usable → h.kind = .leaf → h.e.testBit (if wr = true then 3 else 2) = false → out walked .access) ∧
    (usable → h.kind = .absent → out walked .access) ∧
    (usable → h.kind = .bad → out (walked.badEntry a h) .access) ∧
    (usable → h.kind = .migrating → out (walked.park i a va wr who h) .waiting) ∧
    (usable → h.kind = .onHost → s.on (XLT_FR_CFG_ENABLE i) = true → s.detached i = false →
      out (walked.park i a va wr who h) .fault) ∧
    (usable → h.kind = .onHost → s.on (XLT_FR_CFG_ENABLE i) = false →
      out ((walked.bump XLT_UNRESOLVED_VAL).raise XLT_EVENT_UNRESOLVED) .unresolved))

/-- A walk that ends at a leaf ends at a page of the instance: the leaf's address is aligned to the span of its level
and its whole page lies in the near or far range of the instance or in one of its tiles' windows (R278, R282). -/
def Obligations.WalksStayInTheInstance : Prop :=
  ∀ (s : State) (i a va : Nat),
    let h := s.walk i a va 4
    h.kind = .leaf → 2 ≤ h.level ∧ h.level ≤ 4 ∧ entryAddr h.e % 2 ^ levelShift h.level = 0 ∧
      s.pageOk i (entryAddr h.e) (levelShift h.level) = true ∧ s.poisoned h.epa = false ∧ h.e = s.num h.epa 8

/-! ### The page service (09_kv_page_service.md) -/

/-- Models (R332 to R338): MODEL_LOAD checks its operands, its ranges, its manifest, its window and the fit in that
order, and otherwise maps the window and starts the copies in the order of R336; MODEL_LOAD_COMPLETE enters LOADED or
ends the load; MODEL_UNLOAD frees all that the model placed, unless a warp set, a stream or a reshard plan holds it. -/
def Obligations.PageModels : Prop :=
  ∀ (s : State) (i slot : Nat) (e : Entry) (b : List Byte) (m : Model), s.Sound → s.entry? i 0 slot = some e →
    let aligned := e.b 2 1 < 2 ∧ ∀ o ∈ [8, 16, 24, 32, 40], e.b o 8 % mib2 = 0
    let placed := s.asidOk i (e.b 0 2) = true ∧ e.b 8 8 < 2 ^ 57 ∧ inside (s.nearRange i) (e.b 16 8) (e.b 24 8) = true ∧
      inside (s.farRange i) (e.b 32 8) (e.b 40 8) = true
    let p := placeAll (parseGeo b) ((List.range (leAt b 56 4)).map (parseTensor b)) (e.b 8 8) (e.b 16 8) (e.b 24 8) (e.b 32 8) (e.b 40 8)
    let nl := alignUp p.1.near mib2
    let fl := alignUp p.1.far mib2
    let slow := ((layerRecs b).filter fun r => r.2 < s.needed (parseGeo b) p.2 r.1).length
    let u := (s.tick.put (PAGE_MODEL_SLOW_LAYERS i) slow).raiseIf (slow != 0) PAGE_EVENT_SLOW
    (e.op = 0x30 → e.rsvdZero [(0, 3), (8, 64)] = true → s.model? i = none →
      (s.modelState i ≠ 0 → exec (.modelLoad i slot (some b)) s = done (s.pageEnd i slot stBUSY)) ∧
      (s.modelState i = 0 → ¬ aligned → exec (.modelLoad i slot (some b)) s = done (s.loadDone i slot stMALFORMED)) ∧
      (s.modelState i = 0 → aligned → ¬ placed → exec (.modelLoad i slot (some b)) s = done (s.loadDone i slot stACCESS)) ∧
      (s.modelState i = 0 → aligned → placed → exec (.modelLoad i slot none) s = done (s.loadDone i slot stACCESS)) ∧
      (s.modelState i = 0 → aligned → placed → manifestOk b (e.b 56 8) = false →
        exec (.modelLoad i slot (some b)) s = done (s.loadDone i slot stMALFORMED)) ∧
      (s.modelState i = 0 → aligned → placed → manifestOk b (e.b 56 8) = true → 2 ^ 57 < e.b 8 8 + nl + fl →
        exec (.modelLoad i slot (some b)) s = done (s.loadDone i slot stACCESS)) ∧
      (s.modelState i = 0 → aligned → placed → manifestOk b (e.b 56 8) = true → e.b 8 8 + nl + fl ≤ 2 ^ 57 →
        s.windowFree i (e.b 0 2) (e.b 8 8) (nl + fl) = false →
        exec (.modelLoad i slot (some b)) s = done (s.loadDone i slot stBUSY)) ∧
      (∀ v, s.modelState i = 0 → aligned → placed → manifestOk b (e.b 56 8) = true → e.b 8 8 + nl + fl ≤ 2 ^ 57 →
        s.windowFree i (e.b 0 2) (e.b 8 8) (nl + fl) = true →
        p.1.ok = true → e.b 2 1 = 0 → ((u.mapPages i (e.b 0 2) (e.b 8 8) (e.b 16 8) nl).bind fun s =>
          s.mapPages i (e.b 0 2) (e.b 8 8 + nl) (e.b 32 8) fl) = some v →
        ∃ t, exec (.modelLoad i slot (some b)) s = done t ∧ t.mem = v.mem ∧ t.modelState i = 2 ∧
          (t.model? i).map (fun m => (m.slot, m.asid, m.tensors)) = some (slot, e.b 0 2, p.2))) ∧
    (∀ data, s.model? i = some m → s.modelState i = 2 → m.slot = slot →
      let copied := m.tensors.zipIdx.foldl (fun (acc : State × Nat) x =>
        if acc.2 != stOK then acc
        else if x.1.source.testBit 63 then
          match acc.1.readVa i m.asid (x.1.source % 2 ^ 63) x.1.bytes with
          | (s1, .ok bs) => (s1.putTensor x.1 bs, stOK)
          | (s1, .error st) => (s1, st)
        else (acc.1.putTensor x.1 (data.getD x.2 []), stOK)) (s, stOK)
      let w := (List.range m.geo.summaries).foldl (fun (s : State) k =>
        (s.setHdr m k {}).setBounds m k (emptyBounds m.geo.dim)) copied.1
      copied.2 = stOK →
      exec (.modelLoadComplete i slot (some data)) s = done ((w.put (PAGE_MODEL_STATE i) 3).loadDone i slot stOK)) ∧
    (s.model? i = some m → s.modelState i = 2 → m.slot = slot →
      exec (.modelLoadComplete i slot none) s = done ((s.dropModel i).loadDone i slot stACCESS)) ∧
    (e.op = 0x31 → e.rsvdZero [] = true → s.modelState i = 3 → s.model? i = some m →
      let held := s.warpPinned m.asid m.va (m.nearLen + m.farLen) = true ∨ m.stream ≠ none ∨ m.next ≠ none ∨ m.reshard ≠ none
      (held → exec (.modelUnload i slot) s = done (s.pageEnd i slot stBUSY)) ∧
      (¬ held → exec (.modelUnload i slot) s = done ((s.dropModel i).pageEnd i slot stOK)))

/-- Sequences, streams and reshard plans (R309, R326, R329 to R331): SEQ_OPEN, SEQ_CLOSE, STREAM_START, STREAM_STOP,
RESHARD_RUN and RESHARD_PLAN_COMPLETE on a loaded model. Pages of a loaded model (R310, R313, R321 to R323): PAGE_STEP
takes the query's signal and serves it, PAGE_RESERVE_REFILL takes a slot, PAGE_DEMOTION starts the move of the coldest
page, PAGE_PROMOTION that of a hot far page, and PAGE_MOVE_SWITCH switches its header. -/
def Obligations.SequencesPlansAndMoves : Prop :=
  (∀ (s : State) (i slot : Nat) (e : Entry) (m : Model) (pa : Nat) (plan : List ReshardEntry) (x : ReshardPlan),
    s.entry? i 0 slot = some e → s.modelState i = 3 → s.model? i = some m →
    let q := e.b 0 2
    let roomFor := (m.seqs.map (·.2.max)).sum + e.b 8 8 ≤ m.geo.total
    let r := (List.range m.geo.layers).foldl (fun (a : State × Model) l => (List.range m.geo.heads).foldl
      (fun (a : State × Model) h => let b := a.1.refill a.2 q l h; b.1.refill b.2 q l h) a)
      (s, { m with seqs := tput m.seqs q { max := e.b 8 8 } })
    let es := (List.range (e.b 4 4)).map fun k => m.planEntry (e.b 0 4) (s.bytes (pa + 32 * k) 32)
    (e.op = 0x32 → e.rsvdZero [(0, 2), (8, 8)] = true →
      (m.geo.seqs ≤ q → exec (.seqOpen i slot) s = done (s.pageEnd i slot stMALFORMED)) ∧
      (q < m.geo.seqs → ¬ roomFor → exec (.seqOpen i slot) s = done (s.pageEnd i slot stCAPACITY)) ∧
      (q < m.geo.seqs → roomFor → tfind m.seqs q ≠ none → exec (.seqOpen i slot) s = done (s.pageEnd i slot stBUSY)) ∧
      (q < m.geo.seqs → roomFor → tfind m.seqs q = none →
        exec (.seqOpen i slot) s = done ((r.1.setModel i r.2).pageEnd i slot stOK))) ∧
    (e.op = 0x33 → e.rsvdZero [(0, 2)] = true →
      (∀ z, tfind m.seqs q = some z → exec (.seqClose i slot) s =
        done ((s.setModel i { m with seqs := tput m.seqs q { z with closing := true } }).pageEnd i slot stOK)) ∧
      (tfind m.seqs q = none → exec (.seqClose i slot) s = done (s.pageEnd i slot stBUSY))) ∧
    (e.op = 0x34 → e.rsvdZero [(0, 24)] = true → 1 ≤ e.b 0 4 → e.b 0 4 ≤ 65536 → e.b 8 8 < 2 ^ 57 →
      s.planPa i m (e.b 8 8) (32 * e.b 4 4) = some pa → s.anyPoison pa (32 * e.b 4 4) = false →
      let plan : StreamPlan := ⟨e.b 0 4, e.b 16 8, es.filterMap id⟩
      let free := m.next = none ∧ s.startOk (e.b 16 8) = true
      ((∃ x ∈ es, x = none) → exec (.streamStart i slot) s = done (s.pageEnd i slot stMALFORMED)) ∧
      ((∀ x ∈ es, x ≠ none) → ¬ free → exec (.streamStart i slot) s = done (s.pageEnd i slot stBUSY)) ∧
      ((∀ x ∈ es, x ≠ none) → free → exec (.streamStart i slot) s = done ((s.setModel i
        (if m.stream.isSome then { m with next := some plan } else { m with stream := some plan })).pageEnd i slot stOK))) ∧
    (e.op = 0x35 → e.rsvdZero [] = true → exec (.streamStop i slot) s =
      done ((s.setModel i { m with stopping := m.stream.isSome, next := none }).pageEnd i slot stOK)) ∧
    (e.op = 0x36 → e.rsvdZero [(0, 4), (8, 16)] = true → m.reshard = none → plan.length = e.b 0 4 → e.b 8 8 < 2 ^ 57 →
      s.planPa i m (e.b 8 8) 1 = some pa →
      (s.startOk (e.b 16 8) = true → exec (.reshardRun i slot plan) s =
        done (s.setModel i { m with reshard := some { slot := slot, start := e.b 16 8, left := plan } })) ∧
      (s.startOk (e.b 16 8) = false → exec (.reshardRun i slot plan) s = done (s.pageEnd i slot stBUSY))) ∧
    (m.reshard = some x → x.left = [] →
      let st := if x.refused = true then stCAPACITY else if x.hole = true then stHOLE else stOK
      exec (.reshardPlanComplete i) s = done (((s.setModel i { m with reshard := none }).pageEnd i x.slot st).raise
        PAGE_EVENT_RESHARD_DONE |>.raiseIf (st == stHOLE) PAGE_EVENT_RESHARD_HOLE))) ∧
  (∀ (s : State) (i q l h n k : Nat) (m : Model) (p : PageRef) (pool : Pool) (v : Move), s.modelState i = 3 →
    s.model? i = some m →
    (∀ g desc d, ((s.activeTable.bind fun t => tfind t.groups g).bind fun sec => sec.txd[desc]?) = some d →
      s.warp.on = true → s.hasRole i 4 true = true → s.cqOwner q = i → s.on (SKN_CQ_CFG_ENABLE q) = true →
      s.cqCount q ≠ 0 → d.inst = i → d.kind = 2 → d.asid = m.asid →
      let rd := (s.cqTake q).1.readVa i m.asid (leAt (s.cqTake q).2 24 8) (m.geo.recordLen false)
      (∀ st, rd.2 = .error st →
        let u := rd.1.tracePage i 1 (sliceB [] 0 8)
        exec (.pageStep i q g desc) s = done ((((u.bump PAGE_QUERY_HOLE_VAL).raise PAGE_EVENT_QUERY_HOLE).tracePage i 2 []).setModel i m)) ) ∧
    (∀ g desc d b, ((s.activeTable.bind fun t => tfind t.groups g).bind fun sec => sec.txd[desc]?) = some d →
      s.warp.on = true → s.hasRole i 4 true = true → s.cqOwner q = i → s.on (SKN_CQ_CFG_ENABLE q) = true →
      s.cqCount q ≠ 0 → d.inst = i → d.kind = 2 → d.asid = m.asid →
      let rd := (s.cqTake q).1.readVa i m.asid (leAt (s.cqTake q).2 24 8) (m.geo.recordLen false)
      rd.2 = .ok b → bit (byteAt b 10) 0 = false → rd.1.badSummary m (leAt b 0 2) (leAt b 2 2) = false →
      let r := (rd.1.tracePage i 1 (sliceB b 0 8)).pageStep i m g d (bit (byteAt (s.cqTake q).2 2) 0) (some b)
      exec (.pageStep i q g desc) s = done (r.1.setModel i r.2)) ∧
    (tfind m.seqs q ≠ none → l < m.geo.layers → h < m.geo.heads →
      exec (.pageReserveRefill i q l h) s = done ((s.refill m q l h).1.setModel i (s.refill m q l h).2)) ∧
    (s.page.ageCfg.testBit 31 = true → s.lowNear m (m.moves.filter fun v => !v.up).length = true →
      (s.coldest m).head? = some p → m.farPool.take = some (k, pool) →
      let r := s.startMove { m with farPool := pool } p false k
      exec (.pageDemotion i) s = done (r.1.setModel i r.2)) ∧
    (m.page? q l h n = some p → s.page.ageCfg.testBit 31 = true → m.due.contains p.entry = true →
      (s.hdr m p.entry).state = 3 → (∀ x ∈ m.moves, x.entry ≠ p.entry) →
      let m0 := { m with due := m.due.filter (· != p.entry) }
      (m.nearPool.take = none → exec (.pagePromotion i q l h n) s = done (s.setModel i m0)) ∧
      (m.nearPool.take = some (k, pool) → s.lowNear { m0 with nearPool := pool } 0 = true →
        exec (.pagePromotion i q l h n) s = done (s.setModel i m0)) ∧
      (m.nearPool.take = some (k, pool) → s.lowNear { m0 with nearPool := pool } 0 = false →
        let r := s.startMove { m0 with nearPool := pool } p true k
        exec (.pagePromotion i q l h n) s = done (r.1.setModel i r.2))) ∧
    (m.page? q l h n = some p → m.moves.find? (fun x => x.entry == p.entry && !x.switched) = some v →
      exec (.pageMoveSwitch i q l h n) s = done ((s.switchMove m v).1.setModel i (s.switchMove m v).2)))

/-! ### Queue pairs, regions and the weft (10_transport.md, 11_weft_and_congestion.md) -/

/-- Queue pairs and regions (R341 to R347, R370 to R372): QP_CREATE, each transition of QP_MODIFY, QP_QUERY, QP_DESTROY,
WORK_REQUEST, REGION_REGISTER, REGION_REVOKE with its completion, and REGION_QUERY. -/
def Obligations.QueuePairsAndRegions : Prop :=
  ∀ (s : State) (i q slot : Nat) (e : Entry) (x : Qp) (work : Req),
    let cmd (op : Nat) (named : List (Nat × Nat)) : Prop := s.entry? i 0 slot = some e ∧ e.op = op ∧ e.rsvdZero named = true
    let n := e.b 0 4
    let mine := n < 2 ^ 20 ∧ s.qpInst n = i
    let nq := e.b 8 4
    let k := n / 256
    let r := s.region i k
    (cmd 0x20 [(0, 4), (4, 2), (6, 2), (8, 4)] → mine → s.asidOk i (e.b 4 2) = true → 1 ≤ e.b 6 2 → e.b 6 2 < 4096 →
      (nq < 4096 ∨ (65536 ≤ nq ∧ nq < 2 ^ 17 ∧ s.cqOwner (nq % 65536) = i)) →
      (s.qp? n = none → exec (.qpCreate i slot) s =
        done ((s.setQp n { asid := e.b 4 2, sendQ := e.b 6 2, notifyQ := nq }).adminEnd i slot stOK)) ∧
      (s.qp? n = some x → exec (.qpCreate i slot) s = done (s.adminEnd i slot stBUSY))) ∧
    (cmd 0x21 [(0, 30), (32, 40)] → mine → s.qp? n = some x →
      (e.b 4 4 ≤ 5 → (x.state, e.b 4 4) ∉ qpMoves → exec (.qpModify i slot) s = done (s.adminEnd i slot stBUSY)) ∧
      (∀ y, x.state = 0 → e.b 4 4 = 1 → s.qpInit i e x = .ok y →
        exec (.qpModify i slot) s = done ((s.setQp n y).adminEnd i slot stOK)) ∧
      (∀ y, x.state = 1 → e.b 4 4 = 2 → s.qpRtr i e x = .ok y →
        exec (.qpModify i slot) s = done ((s.setQp n y).adminEnd i slot stOK)) ∧
      (x.state = 2 → e.b 4 4 = 3 → e.b 24 4 < 2 ^ 24 → exec (.qpModify i slot) s = done
        ((s.setQp n { x with state := 3, sqPsn := e.b 24 4, sndNxt := e.b 24 4, sndUna := e.b 24 4 }).adminEnd i slot stOK)) ∧
      (x.state = 3 → e.b 4 4 = 4 → exec (.qpModify i slot) s =
        done (((s.setQp n { x with state := 4 }).raiseIf x.reqs.isEmpty QP_EVENT_DRAINED).adminEnd i slot stOK)) ∧
      (x.state = 4 → e.b 4 4 = 3 → exec (.qpModify i slot) s = done ((s.setQp n { x with state := 3 }).adminEnd i slot stOK)) ∧
      (1 ≤ x.state → x.state ≤ 5 → e.b 4 4 = 0 →
        exec (.qpModify i slot) s = done ((s.qpReset n stFLUSHED).adminEnd i slot stOK)) ∧
      (1 ≤ x.state → x.state ≤ 4 → e.b 4 4 = 5 → x.group = none →
        exec (.qpModify i slot) s = done (State.adminEnd (State.dropWaiters (((s.flushReqs n x none stFLUSHED).purgeOwn n).setQp n
          { x.halt 5 with lastStatus := if x.reqs.isEmpty = true then x.lastStatus else stFLUSHED }) n (localTag ≤ ·)) i slot stOK))) ∧
    (cmd 0x22 [(0, 4), (8, 8)] → mine → s.qp? n = some x → exec (.qpQuery i slot false) s =
      done ((s.hostPut i (e.b 8 8) (s.qpImage n x)).adminEnd i slot stOK)) ∧
    (cmd 0x23 [(0, 4)] → mine → s.qp? n = some x →
      let u := s.qpReset n stFLUSHED
      ((u.qp? n).getD {}).placing = [] → exec (.qpDestroy i slot) s =
        done (State.adminEnd { u with qp := { u.qp with qps := tdel u.qp.qps n } } i slot stOK)) ∧
    (s.entry? i q slot = some e → e.op = 0x41 → mine → s.qp? n = some x → parseWork q slot e = some work → work.rva < 2 ^ 57 →
      (work.flags.testBit 2 = true ∨ work.lva < 2 ^ 57) → x.sendQ = q → s.nextWork i q n x = some slot → x.group = none →
      (x.state = 3 → exec (.workRequest i q slot) s =
        done ((s.setQp n (x.gets s.time { x with reqs := x.reqs ++ [work] })).traceQp 1 n work 0)) ∧
      (x.state = 5 → exec (.workRequest i q slot) s =
        done ((s.setQp n { x with lastStatus := stFLUSHED }).complete i q slot stFLUSHED 0))) ∧
    (∀ f, cmd 0x24 [(0, 2), (2, 1), (4, 4), (8, 8), (16, 8)] → e.b 2 1 < 4 → e.b 4 4 < 2 ^ 20 → 1 ≤ e.b 16 8 → e.b 16 8 ≤ 2 ^ 56 →
      e.b 8 8 < 2 ^ 57 → s.asidOk i (e.b 0 2) = true → s.freeRegion i (s.qp.regions.length + 1) 0 = some f →
      exec (.regionRegister i slot) s = done ((s.setRegion i f { s.region i f with
        state := 1, asid := e.b 0 2, base := e.b 8 8, len := e.b 16 8, rd := (e.b 2 1).testBit 0, wr := (e.b 2 1).testBit 1
        tenant := e.b 4 4 }).adminEnd i slot stOK (f * 256 + (s.region i f).epoch))) ∧
    (cmd 0x25 [(0, 4)] → k < s.regionShare → r.epoch = n % 256 →
      (r.state = 1 → exec (.regionRevoke i slot) s = done (s.setRegion i k { r with state := 2, slot := slot })) ∧
      (r.state = 2 → r.slot ≠ slot → exec (.regionRevoke i slot) s = done (s.adminEnd i slot stBUSY)) ∧
      (r.state = 0 ∨ r.state = 3 → exec (.regionRevoke i slot) s = done (s.adminEnd i slot stACCESS))) ∧
    (∀ key w, s.qp.regions.find? (fun p => p.1 / 2 ^ 24 == i && p.2.state == 2 && p.2.slot == slot && p.2.inflight == 0) =
        some (key, w) →
      (w.epoch ≠ 255 → exec (.regionRevokeComplete i slot) s =
        done (((s.setRegion i (key % 2 ^ 24) { epoch := w.epoch + 1 }).raise QP_EVENT_REVOKE_DONE).adminEnd i slot stOK)) ∧
      (w.epoch = 255 → exec (.regionRevokeComplete i slot) s = done ((((s.setRegion i (key % 2 ^ 24)
        { state := 3, epoch := 255 }).raise QP_EVENT_INDEX_RETIRED).raise QP_EVENT_REVOKE_DONE).adminEnd i slot stOK))) ∧
    (cmd 0x26 [(0, 4), (8, 8)] → k < s.regionShare → exec (.regionQuery i slot false) s = done ((s.hostPut i (e.b 8 8)
      (leBytes 8 (s.rgnData i k) ++ leBytes 8 r.base ++ leBytes 8 r.len ++ leBytes 8 0)).adminEnd i slot stOK))

/-- Receiving and sending on a queue pair (R353 to R361, R364, R366, R376 to R379, R386, R388, R391): each packet that
passes its checks does what its kind says, and PACER_RELEASE and WEFT_PACKET_START move the packets out. -/
def Obligations.WeftPackets : Prop :=
  ∀ (s u : State) (id n psn : Nat) (k : SrbPkt) (p p0 : TPkt) (x : Qp) (before : Bool),
    let arrives (op : Nat) : Prop := s.rxPacket id op = some (k, p0) ∧ s.rxChecks k p0 = (u, some p) ∧ u.qp? p0.dst = some x ∧
      p.dst = p0.dst
    let answers (op : Nat) : Prop := s.rxAnswer id op = (u, some (p, psn)) ∧ u.qp? p.dst = some x
    let dup := before = true ∨ x.got.contains psn = true ∨ (x.placing.any fun w => w.psn == psn && w.live) = true ∨
      (x.fenced.any fun f => f.2.1 == psn) = true
    (arrives 1 → s.stalled p0 = false → psnFrom x.cum x.win p = some (psn, before) →
      (dup → exec (.writePacketReceive id) s = done (u.duplicate id p)) ∧
      (¬ dup → x.isRefused psn = true → exec (.writePacketReceive id) s = done ((u.refuse p.dst psn p).srbFree id)) ∧
      (¬ dup → x.isRefused psn = false → (p.flags.testBit 1 && p.flags.testBit 2 && psn != x.cum) = true →
        exec (.writePacketReceive id) s = done (u.setQp p.dst { x with fenced := x.fenced ++ [(id, psn, p)] })) ∧
      (¬ dup → x.isRefused psn = false → (p.flags.testBit 1 && p.flags.testBit 2 && psn != x.cum) = false →
        exec (.writePacketReceive id) s = done (u.place p.dst id psn p))) ∧
    (s.qp? n = some x → x.fenced.find? (fun f => f.2.1 == x.cum) = some (id, psn, p) → s.stalled p = false →
      x.isRefused psn = false → exec (.fenceLastPlace n) s =
        done ((s.setQp n { x with fenced := x.fenced.filter fun f => f.2.1 != psn }).place n id psn p)) ∧
    (∀ w, s.qp? n = some x → x.placing.find? (fun w => w.psn == psn) = some w → ∃ rest, rest.length + 1 = x.placing.length ∧
      let v := w.pieces.foldl (fun (s : State) q => s.write q.1 q.2) s
      let r := v.region (w.region / 2 ^ 24) (w.region % 2 ^ 24)
      let v1 := v.setRegion (w.region / 2 ^ 24) (w.region % 2 ^ 24) { r with inflight := r.inflight - 1 }
      let x0 := { x with placing := rest }
      let x1 := ({ x0 with recs := x0.recs ++ [⟨psn, w.pkt.flags.testBit 0, w.pkt.flags.testBit 1, w.pkt.flags.testBit 3,
        beAt w.pkt.ext 12 4, beAt w.pkt.ext 0 8, w.pkt.payload.length⟩] } : Qp).receive [psn]
      let x2 := { x1 with ackNew := x0.ackNew + 1, ackOwed := true, lastPsn := psn, lastTs := w.pkt.tx, gap := x1.hasGap }
      let acks := s.get QP_ACK_CFG_ACK_EVERY ≤ x2.ackNew ∨ w.pkt.flags.testBit 1 = true ∨ w.pkt.flags.testBit 4 = true ∨
        (x1.hasGap = true ∧ x.gap = false)
      (w.live = false → exec (.placementVisible n psn) s = done (v1.setQp n x0)) ∧
      (w.live = true → acks → exec (.placementVisible n psn) s =
        done ((v1.setQp n x2).sendAck n psn (psn / 2 ^ 24) w.pkt.tx)) ∧
      (w.live = true → ¬ acks → exec (.placementVisible n psn) s = done (v1.setQp n x2))) ∧
    (s.qp? n = some x → x.ackOwed = true →
      exec (.ackDelayExpiry n) s = done (s.sendAck n x.lastPsn (x.lastPsn / 2 ^ 24) x.lastTs)) ∧
    (∀ r l, s.qp? n = some x → x.owed = some (r, l) →
      let y := ({ x with noted := x.noted ++ [r.psn] } : Qp).receive []
      (65536 ≤ x.notifyQ → s.on (SKN_CQ_CFG_ENABLE (x.notifyQ % 65536)) = true → s.cqFull (x.notifyQ % 65536) = false → exec (.immediateNotification n) s = done ((s.cqPut (x.notifyQ % 65536) ⟨32, stOK, 0xFFFE, 0, s.pick, r.imm, 0,
        (match l with
          | a :: _ => a.va
          | [] => r.va), (l.map (·.len)).sum, 0, 0, 0⟩).setQp n
        { y with ackOwed := y.ackOwed || y.cum != x.cum, lastPsn := r.psn })) ∧
      (x.notifyQ < 65536 → exec (.immediateNotification n) s = done (State.setQp { s with qp := { s.qp with
        notes := tput s.qp.notes (s.qpInst n * 4096 + x.notifyQ) (mget [] s.qp.notes (s.qpInst n * 4096 + x.notifyQ) ++
          [(n, r.imm, (l.map (·.len)).sum, r.psn % 2 ^ 24)]) } } n
        { y with ackOwed := y.ackOwed || y.cum != x.cum, lastPsn := r.psn }))) ∧
    (arrives 2 → s.stalled p0 = false → (∀ y a b, s.qp? p0.dst = some y → psnFrom y.cum y.win p0 = some (a, b) →
        b = true ∨ a = y.cum ∨ y.got.contains a = true ∨ y.state < 2 ∨ y.state = 5 ∨ y.isRefused a = true) →
      psnFrom x.cum x.win p = some (psn, before) → x.isRefused psn = false →
      exec (.readReqReceive id) s = done (u.serveRead p.dst id psn (!before && psn == x.cum && !x.got.contains psn) p)) ∧
    (arrives 3 → psnFrom x.sndUna x.win p = some (psn, before) → (before = true ∨ x.acked.contains psn = true) →
      exec (.readRespReceive id) s = done (((u.srbFree id).bump QP_DUP_RX_VAL).sample p.dst psn p.echo)) ∧
    (∀ r l v, arrives 3 → psnFrom x.sndUna x.win p = some (psn, false) → x.acked.contains psn = false → x.holder psn = some r →
      r.read = true → p.payload.length = min x.mtuB (r.len - (psn - r.first.getD psn) * x.mtuB) → s.localWait p.dst x r = false →
      ((u.srbFree id).sample p.dst psn p.echo).pieces (s.qpInst p.dst) x.asid (r.lva + (psn - r.first.getD psn) * x.mtuB)
        p.payload.length true (.transport p.dst (localTag + psn)) = (v, .ok l) →
      exec (.readRespReceive id) s =
        done ((l.foldl (fun (s : State) q => s.write q.1 (sliceB p.payload q.2.1 q.2.2)) v).ackPsns p.dst [psn])) ∧
    (∀ y, answers 0x10 → (u.sample p.dst psn p.echo).qp? p.dst = some y →
      let cum := psnField y.sndUna (beAt p.ext 0 4 % 2 ^ 24)
      let l := (((List.range (min cum y.sndNxt - y.sndUna)).map (y.sndUna + ·)) ++
        ((List.range 128).filter (bit (beAt p.ext 4 16) ·)).map fun k => cum + 1 + k).filter fun q => !y.isRead q
      exec (.ackReceive id) s = done (((u.sample p.dst psn p.echo).ackPsns p.dst l).sackRetx p.dst)) ∧
    (∀ y, answers 0x11 → (u.sample p.dst psn p.echo).qp? p.dst = some y →
      let v := u.sample p.dst psn p.echo
      let q := psnField y.sndUna (beAt p.ext 1 3)
      (byteAt p.ext 0 = 1 → exec (.nakReceive id) s = done ((v.raise QP_EVENT_ACCESS_NAK_RX).qpFail p.dst q stREMOTE_ACCESS)) ∧
      (byteAt p.ext 0 = 3 → exec (.nakReceive id) s = done (v.qpFail p.dst q stFAULT_UNRESOLVED)) ∧
      (byteAt p.ext 0 = 2 → y.sndUna ≤ q → q < y.sndNxt → y.acked.contains q = false → y.wait.contains q = false →
        exec (.nakReceive id) s = done (v.setQp p.dst (v.startTimer { y with
          wait := y.wait ++ [q], retx := y.retx.filter (· != q) })))) ∧
    (answers 0x12 → x.wait.contains (psnField x.sndUna (beAt p.ext 1 3)) = true →
      let q := psnField x.sndUna (beAt p.ext 1 3)
      let y := { x with wait := x.wait.filter (· != q), retx := x.resend [q] ++ x.retx }
      exec (.resumeReceive id) s = done (u.setQp p.dst (x.gets u.time (if x.timer = true then y else u.startTimer y)))) ∧
    (answers 0x20 → exec (.ceEchoReceive id) s = done ((u.setQp p.dst { x with
      ceM := x.ceM + beAt p.ext 0 4, ceA := x.ceA + beAt p.ext 4 4, ceSeen := true
      scores := (List.range 16).map fun k => min 15 (x.scores.getD k 0 + (if bit (beAt p.ext 8 2) k = true then 4 else 0)) }).bump
      CC_CE_ECHO_RX_VAL)) ∧
    (∀ c rest path, s.qp? n = some x → x.ctl = c :: rest → s.choosePath (s.qpInst n) x c.bytes.length none = some path →
      exec (.pacerRelease n) s = done (s.pushOwn n { x with ctl := rest } path c)) ∧
    (s.qp? n = some x → x.ctl = [] → x.release ≤ s.time → x.cipher = 0 → x.resp = [] → (x.state = 3 ∨ x.state = 4) →
      x.local_ = none → x.retx = [] → exec (.pacerRelease n) s = done (s.sendNew n x)) ∧
    (∀ port room spent vc h, s.portUp port = true → s.pinchReady port = false →
      leastBy (fun c => mget 0 (mget {} s.net.wfq port).f c) ([1, 2, 4].filter (s.vcReady port (s.roomOf port room) spent)) = some vc →
      s.headOf port vc = some h →
      let l := dropOne h (s.fifo port)
      let v := ((s.setFifo port l).wfqSent port vc h.inst l).takeToken (port / 2 * 4 + classOf vc)
      exec (.weftPacketStart port room spent) s = done (match h.load with
        | .own m t => v.departOwn port h m t
        | .fabric hd b => v.departFabric port h hd b))

/-- Timers and rates of a queue pair (R358, R362, R363, R366, R381, R384, R387 to R389, R391, R394): what each of them
leaves, and that a rate update holds the rate between its floor and R_MAX. -/
def Obligations.WeftTimersAndRates : Prop :=
  ∀ (s : State) (n psn path key : Nat) (x : Qp), s.qp? n = some x →
    let all := ((List.range (x.sndNxt - x.sndUna)).map (x.sndUna + ·)).filter fun p => !x.acked.contains p && !x.wait.contains p
    (x.timer = true → x.live = true → x.retry = 7 → exec (.retransmitTimerExpiry n) s =
      done ((s.qpFail n x.sndUna stRETRY_EXCEEDED).raise QP_EVENT_RETRY_EXCEEDED)) ∧
    (x.timer = true → x.live = true → x.retry < 7 → ∃ t y, exec (.retransmitTimerExpiry n) s = done t ∧ t.qp? n = some y ∧
      y.retry = x.retry + 1 ∧ y.rto = min (2 * x.rto) s.rtoMax ∧ y.retx = x.resend all ∧
      y.rate = max s.rateMin (min (x.rate / 2) rateMax) ∧ t.mem = s.mem) ∧
    (x.wait.contains psn = true → exec (.faultWaitProbe n psn) s =
      done (s.setQp n (x.gets s.time { x with retx := x.retx ++ x.resend [psn] }))) ∧
    (exec (.quarantineExpiry n path) s = done (s.setQp n { x with quar := x.quar.filter (· != path) })) ∧
    (x.echoed = true → x.marked = 0 → exec (.ceEchoTimer n) s = done (s.setQp n { x with echoed := false })) ∧
    (x.echoed = true → x.marked ≠ 0 → exec (.ceEchoTimer n) s = done ((s.setQp n { x with
      marked := 0, arrived := 0, mask := 0 }).sendCtl n (x.pkt 0x20 0 x.cePsn (x.cePsn / 2 ^ 24) x.ceTs
        (beBytes 4 x.marked ++ beBytes 4 x.arrived ++ beBytes 2 x.mask ++ beBytes 6 0) []))) ∧
    (2 ≤ x.state → x.state ≤ 4 → (x.ceSeen = true ∨ x.least ≠ none) → ∃ t y, exec (.rateUpdate n) s = done t ∧
      t.qp? n = some y ∧ s.rateMin ≤ y.rate ∧ y.rate ≤ max s.rateMin rateMax ∧ y.least = none ∧ y.ceSeen = false ∧
      (x.ceSeen = true → y.rate ≤ max s.rateMin x.rate) ∧ t.mem = s.mem) ∧
    (key < 128 → key % 64 < 48 → key % 4 ≠ 3 → s.Sound → sortedKeys s.net.buckets = true →
      let c := s.reg (bucketCfg key)
      ∃ t, exec (.bucketRefill key) s = done t ∧ t.bucket key = c ∧ (c.testBit 48 = true →
        t.get (bucketTokens key) = min (bits c 16 16) ((if s.bucketOn key = true then
          min (bits c 16 16) (s.get (bucketTokens key)) else bits c 16 16) + bits c 0 16)))

/-! ### Collectives (12_collectives.md) -/

/-- Groups, collectives and the pinch path (R403 to R407, R419 to R426): what each command does where its operands pass,
and the statuses of the groups' admin commands. -/
def Obligations.CollectiveCommands : Prop :=
  ∀ (s : State) (i q slot t g id p val : Nat) (e : Entry) (members : List Nat) (o : ColOp) (rest : List ColOp) (f : Flight)
    (m : Msg) (msgs : List Msg) (k : Kept) (b : List Byte) (frames : List (List Byte)),
    let cmd (op : Nat) : Prop := s.entry? i 0 slot = some e ∧ e.op = op
    let gn := s.groupNo i (e.b 0 2)
    let mine := e.b 0 2 < s.groupShare
    let x := groupOf e []
    let all := (List.range x.size).map fun k => members.getD k 0 % 2 ^ 32
    let qps := (all.zipIdx.filter (·.2 != x.rank)).map (·.1)
    let free := ∀ n ∈ qps, ∃ y, s.qp? n = some y ∧ y.state = 3 ∧ y.group = none
    (cmd 0x38 → s.groupBad e x = false → (∀ n ∈ qps, n < 2 ^ 20 ∧ s.qpInst n = i) → s.asidOk i x.asid = true →
      (x.deliver.testBit 0 = true → s.cqOwner x.resultQ = i) →
      ((s.group gn).state = 0 → free → exec (.colGroupCreate i slot (some members)) s = done (((qps.foldl (fun s q =>
        match s.qp? q with
        | some y => s.setQp q { y with group := some gn }
        | none => s) s).setGroup gn { x with qps := all }).adminEnd i slot stOK)) ∧
      ((s.group gn).state ≠ 0 ∨ ¬ free → exec (.colGroupCreate i slot (some members)) s = done (s.adminEnd i slot stBUSY))) ∧
    (cmd 0x39 → e.rsvdZero [(0, 2), (2, 1)] = true → mine →
      ((s.group gn).state = 0 → exec (.colGroupReset i slot) s = done (s.adminEnd i slot stBUSY)) ∧
      ((s.group gn).state ≠ 0 → exec (.colGroupReset i slot) s = done (((s.groupAbort gn).setGroup gn
        { (s.groupAbort gn).group gn with state := 1, seq := 0, gen := e.b 2 1 }).adminEnd i slot stOK))) ∧
    (cmd 0x3A → e.rsvdZero [(0, 2)] = true → mine →
      ((s.group gn).state = 0 → exec (.colGroupDestroy i slot) s = done (s.adminEnd i slot stBUSY)) ∧
      ((s.group gn).state ≠ 0 → exec (.colGroupDestroy i slot) s = done ((s.groupDestroy gn).adminEnd i slot stOK))) ∧
    (s.entry? i q slot = some e → e.op = 0x42 → anyByte e.raw 80 48 = false →
      let d := sliceB e.raw 16 64
      let h := s.groupNo i (leAt d 0 2)
      (∀ o ∈ (s.group h).ops, o.ring ≠ some (q, slot)) →
      (s.colFault i d (s.group h) = 0 → exec (.colRun i q slot) s = done ((s.setGroup h { s.group h with
        ops := (s.group h).ops ++ [⟨d, some (q, slot), 0, 0⟩] }).traceCol h d 1 0)) ∧
      (s.colFault i d (s.group h) ≠ 0 →
        exec (.colRun i q slot) s = done (s.complete i q slot (s.colFault i d (s.group h)) 0))) ∧
    (s.roleOf t = 5 → takeFirst (fun (m : Msg) => m.kind == 0x0C01 && m.len == 64) (s.tile t).inq = some (m, msgs) →
      let u := s.setTile t { s.tile t with inq := msgs }
      let d := sliceB m.payload 0 64
      let h := s.groupNo (s.instOfTile t) (leAt d 0 2)
      u.colFault (s.instOfTile t) d (u.group h) = 0 → exec (.tileColRun t) s =
        done ((u.setGroup h { u.group h with ops := (u.group h).ops ++ [⟨d, none, 0, 0⟩] }).traceCol h d 1 0)) ∧
    (∀ data differs, (s.group g).ops = o :: rest → s.on (SKN_CQ_CFG_ENABLE o.queue) = true → s.cqFull o.queue = false →
      (o.due ≠ 0 → exec (.colChunkSignal g t data differs) s = done
        (((s.cqPut o.queue (s.colHole o (s.group g) o.due)).colComplete g o o.due).setHead g none)) ∧
      (o.due = 0 → differs = true → exec (.colChunkSignal g t data differs) s = done (s.colEarlyEnd g stMALFORMED)) ∧
      (∀ u cvt, o.due = 0 → differs = false → (∀ w ∈ s.xlt.parked, ∀ n, w.who ≠ .collective g n) →
        let total := o.outs (s.group g).size (s.group g).rank
        let n := min o.chunk (total - o.next * o.chunk)
        0 < total → s.colMove g t (s.group g) o (o.next * o.chunk) n data = (u, .ok cvt) →
        exec (.colChunkSignal g t data differs) s = done (u.colChunk g (s.group g) o cvt (n * typeBits o.outTy / 8)))) ∧
    (s.instExists i = true → val.testBit 31 = true →
      let r := s.post i (i * 4 / s.nInst) (bits val 0 10) (bits val 12 4) (bits val 16 4)
        (bits val 10 2 != 0 || bits val 20 11 != 0) (leBytes 8 (s.reg (COL_POST_VAL_LO i)) ++ leBytes 8 (s.reg (COL_POST_VAL_HI i)))
      (r.2 = stOK → exec (.pinchHostPost i val) s =
        done ((r.1.put (COL_POST_STATUS_RESULT i) r.2).bump (COL_POST_STATUS_ACCEPTED i))) ∧
      (r.2 ≠ stOK → exec (.pinchHostPost i val) s = done (r.1.put (COL_POST_STATUS_RESULT i) r.2))) ∧
    (s.til.mesh.find? (fun f => f.id == id) = some f → f.cls ≠ 2 → f.m.isPost = true → s.oldest f = true → s.arrived f = true →
      let r := (s.dropFlight id).post (s.instOfTile f.m.dst) (f.m.dst / 1024) (leAt f.m.payload 0 2) (byteAt f.m.payload 2)
        (byteAt f.m.payload 3) (anyByte f.m.payload 4 12) (sliceB f.m.payload 16 16)
      r.2 ≠ stBUSY → exec (.pinchTilePost id) s = done r.1) ∧
    (mget [] s.net.vc3 p = b :: frames → (s.takeVc3 p).pinchGroup b = some g →
      let u := s.takeVc3 p
      let y := u.group g
      let n := beAt b 8 4
      let back := (y.seq + 2 ^ 32 - n) % 2 ^ 32
      (byteAt b 0 = 1 → (u.children y).contains p = true → n = y.seq →
        exec (.pinchArriveReceive p) s = done (u.arriveIn g p b true).drainAll) ∧
      (byteAt b 0 = 1 → (u.children y).contains p = true → n ≠ y.seq → n = (y.seq + 1) % 2 ^ 32 →
        exec (.pinchArriveReceive p) s = done (u.arriveIn g p b false).drainAll) ∧
      (byteAt b 0 = 1 → ((u.children y).contains p = false ∨ (n ≠ y.seq ∧ n ≠ (y.seq + 1) % 2 ^ 32)) →
        exec (.pinchArriveReceive p) s = done u.pinchDiscard) ∧
      (byteAt b 0 = 2 → p = y.parent → n = y.seq → exec (.pinchReleaseReceive p) s = done (((u.pinchAck g p b).release g
        ((byteAt b 1).testBit 0) (byteAt b 6) (beAt b 12 4) (leAt b 16 16)).combine g 4).drainAll) ∧
      (byteAt b 0 = 2 → p = y.parent → n ≠ y.seq → 1 ≤ back → back < 2 ^ 31 →
        exec (.pinchReleaseReceive p) s = done (u.pinchAck g p b)) ∧
      (byteAt b 0 = 3 → exec (.pinchAckReceive p) s = done { u with col := { u.col with kept := u.col.kept.filter fun k =>
        !(k.port == p && k.group == g && beAt k.frame 8 4 == n && byteAt k.frame 0 == beAt b 12 4 % 256) } })) ∧
    (s.col.kept.find? (fun k => k.port == p && k.group == g) = some k →
      (max 1 (s.get COL_PINCH_CFG_REPLAYS) ≤ k.tries → ∃ l : List Kept, l.length + 1 = s.col.kept.length ∧
        exec (.pinchReplayTimeout p g) s = done ((State.raise { s with col := { s.col with kept := l } }
          COL_EVENT_REPLAY_EXHAUSTED).pinchFail g).drainAll) ∧
      (k.tries < max 1 (s.get COL_PINCH_CFG_REPLAYS) → ∃ l : List Kept, l.length + 1 = s.col.kept.length ∧
        exec (.pinchReplayTimeout p g) s = done ((State.bump { s with col := { s.col with
          kept := l ++ [{ k with tries := k.tries + 1 }] } } COL_PINCH_REPLAYS_VAL).pinchQueue g p
          (spliceB k.frame 1 [BitVec.ofNat 8 (byteAt k.frame 1 ||| 2)])))) ∧
    (s.get COL_PINCH_CFG_TIMEOUT_US ≠ 0 → (s.group g).state = 1 →
      exec (.pinchOpTimeout g) s = done ((s.raise COL_EVENT_PINCH_TIMEOUT).pinchFail g).drainAll) ∧
    (s.pinchReady p = true → exec (.pinchFrameSend p) s = done (s.pinchSendFront p)) ∧
    (s.pinchReady p = false → exec (.pinchFrameSend p) s = done s)

/-! ### Links, fabric and MAC (13_links_mac_fabric.md) -/

/-- Cages and lanes (R431, R434 to R437): a configuration that the warp holds is refused; a lane that goes down shows
its cause and takes its port with it where too few lanes are left; training, its timeout and the shift to a spare lane.
-/
def Obligations.CagesAndLanes : Prop :=
  ∀ (s : State) (r : Requester) (c l val cause phy : Nat) (ok lpi : Bool), s.Sound →
    let role := bits val 1 1
    let split := bits val 2 3
    let was := s.on (LNK_CAGE_CFG_ENABLE c)
    let held := s.warpUses c = true ∧ (was = true ∧ val.testBit 0 = false ∨ role ≠ s.get (LNK_CAGE_CFG_ROLE c))
    let moved := was = true ∧ (role ≠ s.get (LNK_CAGE_CFG_ROLE c) ∨ split ≠ s.get (LNK_CAGE_CFG_SPLIT c))
    let x := bits val 0 7
    let shift := s.privReq r = true ∧ val.testBit 31 = true ∧ s.on LNK_SHIFT_STATUS_PENDING = false
    let cfg (s : State) (en : Nat) : State :=
      ((s.put (LNK_CAGE_CFG_ENABLE c) en).put (LNK_CAGE_CFG_ROLE c) role).put (LNK_CAGE_CFG_SPLIT c) split
    (c < 12 → s.privReq r = true → held → s.sets (exec (.cageCfgWrite r c val) s) [(LNK_EVENT_CFG_REFUSED, 1)]) ∧
    (c < 12 → s.privReq r = true → ¬ held → (5 ≤ split ∨ moved) → exec (.cageCfgWrite r c val) s = done s) ∧
    (c < 12 → s.privReq r = true → ¬ held → split < 5 → ¬ moved →
      (val.testBit 0 = true → was = false → exec (.cageCfgWrite r c val) s = done ((cfg s 1).trainCage c)) ∧
      (val.testBit 0 = true → was = true → exec (.cageCfgWrite r c val) s = done (cfg s 1)) ∧
      (val.testBit 0 = false → was = true → exec (.cageCfgWrite r c val) s = done (cfg (s.idleCage c) 0)) ∧
      (val.testBit 0 = false → was = false → exec (.cageCfgWrite r c val) s = done (cfg s 0))) ∧
    (l < 96 → s.laneUp l = true → 1 ≤ cause → cause ≤ 4 → (cause = 4 → s.attachOn (l / 8) = true) →
      s.activeTable = none → s.on (portUpFld (2 * (l / 8))) = false → s.on (portUpFld (2 * (l / 8) + 1)) = false → ∃ t,
      exec (.laneDown l cause) s = done t ∧ t = { s with csr := t.csr, rel := { s.rel with cal := tdel s.rel.cal l } } ∧
        t.get (LNK_LANE_STATE l) = 3 ∧ t.get (LNK_LANE_CAUSE l) = cause ∧ t.get LNK_EVENT_LANE_DOWN = 1 ∧ t.laneUp l = false) ∧
    (l < 96 → 1 ≤ cause → cause ≤ 4 → (cause = 4 → s.attachOn (l / 8) = true) →
      exec (.laneDown l cause) s = done (s.dropLane l cause)) ∧
    (l < 96 → s.laneUp l = false → exec (.laneDown l cause) s = done s) ∧
    (l < 96 → s.get (LNK_LANE_STATE l) = 1 →
      let u := (((s.put (LNK_LANE_STATE l) 2).put (LNK_LANE_CAUSE l) 0).raise LNK_EVENT_LANE_UP).showLanes (l / 8)
      let v := { u with warp := { u.warp with noticed := u.warp.noticed.filter (· != l) } }
      (exec (.laneTrainingComplete l ok phy lpi) s = done (v.judgePort
        (if (v.portLanes (2 * (l / 8))).contains l = true then 2 * (l / 8) else 2 * (l / 8) + 1) ok phy lpi)) ∧
      s.sets (exec (.laneTrainingTimeout l) s) [(LNK_LANE_STATE l, 3)]) ∧
    (shift → x < 96 → s.on (LNK_LANE_SPARED x) = true →
      s.sets (exec (.laneShiftCmd r val) s) [(LNK_SHIFT_STATUS_RESULT, stOK)]) ∧
    (shift → (96 ≤ x ∨ (s.on (LNK_LANE_SPARED x) = false ∧ s.laneSpare (x / 24) = none)) →
      s.sets (exec (.laneShiftCmd r val) s) [(LNK_SHIFT_STATUS_RESULT, stBUSY), (LNK_EVENT_SPARE_EXHAUSTED, 1)]) ∧
    (shift → x < 96 → s.on (LNK_LANE_SPARED x) = false → s.laneSpare (x / 24) ≠ none →
      (s.dropLane x 5).sets (exec (.laneShiftCmd r val) s)
        [(LNK_LANE_STATE x, 5), (LNK_LANE_CAUSE x, 5), (LNK_SHIFT_STATUS_PENDING, 1)]) ∧
    (∀ j, l < 96 → s.get (LNK_LANE_STATE l) = 5 → s.laneSpare (l / 24) = some j →
      (s.takeSpare l j).sets (exec (.shiftSpareReady l) s)
        [(LNK_LANE_STATE l, if ((s.cageLanes (l / 8)).contains l && s.moduleReady (l / 8)) = true then 1 else 0),
          (LNK_SHIFT_STATUS_PENDING, 0), (LNK_SHIFT_STATUS_RESULT, stOK), (LNK_EVENT_SHIFT_DONE, 1)])

/-- Words and frames of the link layer and the MAC (R89, R439 to R455): CREDIT and LOSS words, fabric and Ethernet
frames with their checks, PAUSE, low-power idle and LLDP. The wake time that LLDP agrees is the larger of the two
requests (R454): after an LLDPDU with an EEE TLV the register holds the larger of this port's request and the peer's, so
that the order of the exchange does not matter. -/
def Obligations.LinkWordsAndFrames : Prop :=
  (∀ (s : State) (p l prios : Nat) (w b : List Byte) (f : Frame), s.Sound →
    let q := 2 * (l / 8)
    let n := beAt b 2 2
    let lost := 8 * (l / 8) + byteAt w 1
    let good := fabricOk (b.take 16) = true ∧ b.length = 20 + n ∧ beAt b (16 + n) 4 = crc32c (b.take (16 + n))
    let eth := s.portUp p = true ∧ s.portAttach p = false
    (l < 96 → s.laneUp l = true → s.portAttach q = true → sideOk w = true → byteAt w 0 = 1 → 1 ≤ byteAt w 1 → byteAt w 1 ≤ 4 →
      exec (.creditWordReceive l w) s = done { s with net := { s.net with
        credit := tput s.net.credit (q * 8 + byteAt w 1) (beAt w 2 4) } }) ∧
    (sideOk w = false → exec (.creditWordReceive l w) s = done s ∧ exec (.lossWordReceive l w) s = done s) ∧
    (∀ t, s.activeTable = some t → l < 96 → s.laneUp l = true → bit t.warpGroups (l / 8) = true → sideOk w = true → byteAt w 0 = 2 →
      byteAt w 1 ≤ 7 → ∃ u, exec (.lossWordReceive l w) s = done u ∧ u = { s with warp := u.warp } ∧
        lost ∈ u.warp.noticed ∧ ∃ x ∈ u.warp.lossAt, x.1 = lost) ∧
    (l < 96 → s.laneUp l = true → s.portUp q = true → s.portAttach q = true →
      (good → exec (.fabricFrameReceive l b) s =
        done ((s.countRx q b.length false).fabricIn q (b.take 16) (sliceB b 16 n))) ∧
      (¬ good → exec (.fabricFrameReceive l b) s = done (s.bump (LNK_FEC_UNCORR_VAL l)))) ∧
    (eth →
      ((s.accept p f).2 = true → exec (.ethernetFrameReceive p f) s = done ((s.accept p f).1.dispatch p f)) ∧
      ((s.accept p f).2 = false → exec (.ethernetFrameReceive p f) s = done (s.accept p f).1) ∧
      (f.etype = 0x8808 → (s.accept p f).2 = true →
        exec (.pauseFrameReceive p f) s = done ((s.accept p f).1.pauseIn p f)) ∧
      (f.etype = 0x88CC → (s.accept p f).2 = true →
        exec (.lldpReceive p f) s = done ((s.accept p f).1.lldpIn p f))) ∧
    (s.fcMode p ≠ 0 → s.on (MAC_STATUS_XOFF_OUT p) = true → s.lowMark p < s.cageUse (p / 2) → exec (.xoffRefresh p) s =
      done (s.sendXoff p (s.fcMode p) (s.get (MAC_FC_CFG_PFC_MASK p)) (s.get (MAC_FC_CFG_QUANTA p)))) ∧
    (p < 24 → ∃ u, exec (.pauseExpiry p prios) s = done u ∧ u = { s with csr := u.csr } ∧
      (∀ k < 8, (u.get (MAC_STATUS_PAUSED p)).testBit k = ((s.get (MAC_STATUS_PAUSED p)).testBit k && !prios.testBit k)) ∧
      ∀ g, apart (MAC_STATUS_PAUSED p) g → u.get g = s.get g) ∧
    (eth → s.on (MAC_PORT_CFG_LPI_EN p) = true → s.on (MAC_STATUS_LPI_CAPABLE p) = true → s.on (MAC_STATUS_LPI_TX p) = false →
      s.fifo p = [] → mget [] s.col.out p = [] → s.on (MAC_STATUS_XOFF_OUT p) = false →
      s.get (MAC_LPI_CFG_TW_AGREED_US p) ≠ 0 →
      let u := (s.put (MAC_STATUS_LPI_TX p) 1).stat p 12
      exec (.lpiEntry p) s = done { u with net := { u.net with lpiAt := tput u.net.lpiAt p u.time } }) ∧
    (eth → s.til.mgrLost.contains (p / 6) = false → s.trc.halted = false → ∃ u g, exec (.lldpSend p) s = done u ∧
      u.mem = s.mem ∧ g.etype = 0x88CC ∧ g.dst = 0x0180C200000E ∧ g.src = s.get (MAC_ADDR_VAL p) ∧
      eeeTime (g.data.length + 1) g.data = some (s.get (MAC_LPI_CFG_TW_REQ_US p)) ∧
      tfind u.net.sent p = some (.ethernet g) ∧ tfind u.net.lldp p = some (s.get (MAC_LPI_CFG_TW_REQ_US p)))) ∧
  (∀ (s : State) (p v : Nat) (f : Frame), s.Sound → eeeTime (f.data.length + 1) f.data = some v → v < 65536 →
    (s.lldpIn p f).get (MAC_LPI_CFG_TW_AGREED_US p) = max (s.get (MAC_LPI_CFG_TW_REQ_US p)) v)

/-! ### The host interface (14_host_interface.md) -/

/-- Rings (R464 to R475): DOORBELL_WRITE moves the tail of an ACTIVE queue or is ignored with DB_BAD; an entry is taken,
and waits for OWN and for a FENCE; a read that fails twice stops the queue; HEAD_PUBLISH and COALESCE_TIMER write the
head record; NOP and ASYNC_EVENT complete. -/
def Obligations.CommandRings : Prop :=
  ∀ (s : State) (i q slot tail : Nat) (raw : List Byte) (e : Entry),
    let x := s.queue i q
    let tl := slotMod tail
    let badTail := 2 ^ 31 ≤ slotMod (tl + 2 ^ 32 - x.tail) ∨ 2 ^ x.log2 < slotMod (tl + 2 ^ 32 - x.head)
    let live := s.instExists i = true ∧ s.get (INST_STATE_STATE i) ≠ 4
    let own := (byteAt raw 0).testBit 0
    let fence := (byteAt raw 3).testBit 1
    let reason := structFault (q == 0) x x.take raw
    let taken : State := s.setQueue i q { x with
      take := slotMod (x.take + byteAt raw 2)
      window := x.window ++ [⟨x.take, byteAt raw 2, byteAt raw 1, leAt raw 4 2, byteAt raw 3,
        sliceB raw 0 (64 * byteAt raw 2), false, 0, 0⟩]
      waitOwn := false, retry := false }
    let ends (c : Instr) : Prop :=
      (own = false → exec c s = done (s.setQueue i q { x with waitOwn := true, retry := false })) ∧
      (own = true → fence = true → x.started ≠ [] →
        exec c s = done (s.setQueue i q { x with waitOwn := false, retry := false })) ∧
      (own = true → (fence = false ∨ x.started = []) → reason = 0 → byteAt raw 2 ≤ slotMod (x.tail + 2 ^ 32 - x.take) →
        s.detached i = false → ∃ t, exec c s = done t ∧ t.queue i q = taken.queue i q ∧ t.mem = s.mem ∧ t.til = s.til)
    (live → ¬ badTail → x.state = 1 → exec (.doorbellWrite i q tail) s = done (s.setQueue i q { x with tail := tl })) ∧
    (live → (badTail ∨ x.state ≠ 1) → x.state ≠ 0 →
      exec (.doorbellWrite i q tail) s = done (s.setQueue i q { x with dbBad := true })) ∧
    (live → x.state = 0 → exec (.doorbellWrite i q tail) s = done s) ∧
    (¬ live → exec (.doorbellWrite i q tail) s = done s) ∧
    (s.mayTake i q = true → x.retry = false → ends (.ringEntryTake i q (some raw))) ∧
    (s.mayTake i q = true → x.waitOwn = true → ends (.ownPoll i q (some raw))) ∧
    (s.mayTake i q = true → x.retry = true → ends (.ringReadRetry i q (some raw))) ∧
    (s.mayTake i q = true → x.retry = false →
      exec (.ringEntryTake i q none) s = done (s.setQueue i q { x with retry := true })) ∧
    (s.mayTake i q = true → x.waitOwn = true → exec (.ownPoll i q none) s = done (s.setQueue i q { x with retry := true })) ∧
    (s.mayTake i q = true → x.retry = true → exec (.ringReadRetry i q none) s = done (s.queueError i q 5 x.take)) ∧
    ((x.state = 1 ∨ x.state = 2) → x.pub ≠ x.head → ∃ t, exec (.headPublish i q) s = done t ∧ t.mem = s.mem ∧
      t.hostMem = (s.ringPut i q x.headAddr (leBytes 8 (x.head + x.state * 2 ^ 32))).hostMem ∧ (t.queue i q).pub = x.head) ∧
    ((x.state = 1 ∨ x.state = 2) → 0 < x.uncovered → x.noIrq = false → ∃ t, exec (.coalesceTimer i q) s = done t ∧
      (t.queue i q).uncovered = 0 ∧ (t.queue i q).pub = x.head ∧ t.rings.irqs = (s.irq i x.vector).rings.irqs) ∧
    (s.instExists i = true → exec (.ringSyncRead i) s = done { s with bus := { s.bus with rdata := 0 } }) ∧
    (s.entry? i q slot = some e → e.op = 0 → exec (.nop i q slot) s = done (s.complete i q slot stOK 0)) ∧
    (s.entry? i 0 slot = some e → e.op = 5 →
      (64 < (s.asyncs i).length → exec (.asyncEvent i slot) s = done (s.complete i 0 slot stCAPACITY 0)) ∧
      ((s.asyncs i).length ≤ 64 → mget [] s.rings.events i = [] → exec (.asyncEvent i slot) s = done s) ∧
      (∀ ev rest, (s.asyncs i).length ≤ 64 → mget [] s.rings.events i = ev :: rest → s.detached i = false →
        exec (.asyncEvent i slot) s = done ((s.setEvents i rest).deliverTo i (((s.asyncs i).head?.map (·.slot)).getD slot) ev)))

/-- A completed entry stays completed (R17): once `complete` has given an entry its status, the slot holds no entry that
waits for one, so that a second completion of it changes nothing. -/
def Obligations.CompletedOnce : Prop :=
  ∀ (s : State) (i q slot st res st' res' : Nat), (∀ e ∈ mget [] s.rings.orphans (i * 4096 + q), e.slot ≠ slot) →
    (s.complete i q slot st res).entry? i q slot = none ∧
      (s.complete i q slot st res).complete i q slot st' res' = s.complete i q slot st res

/-- Queues (R132, R461, R477 to R481, R487): IDENTIFY, QUEUE_CREATE with its clamps, QUEUE_DESTROY, QUEUE_RESET,
TILE_ASSIGN, and the admin queue switched on and off. The D640 mailbox (R488, Table 14.13): while a command is pending,
each known command ends with its answer in the data words, a port that does not exist with code 2, and an unknown
command with code 1. -/
def Obligations.QueueCommands : Prop :=
  (∀ (s : State) (i slot cfg : Nat) (e : Entry) (ring : List Byte),
    let cmd (op : Nat) (named : List (Nat × Nat)) : Prop := s.entry? i 0 slot = some e ∧ e.op = op ∧ e.rsvdZero named = true
    let q := e.b 0 2
    let ioq := 1 ≤ q ∧ q < 4096
    let good := ioq ∧ 4 ≤ e.b 2 1 ∧ e.b 2 1 ≤ 16 ∧ e.b 4 2 < 2048 ∧ e.b 6 1 < 4 ∧ e.b 8 8 % 4096 = 0 ∧ e.b 16 8 % 8 = 0
    let clamps := e.b 3 1 = 0 ∨ e.b 7 1 = 0 ∨ 1000 < e.b 24 2
    let used := (s.qp.qps.any fun p => s.qpInst p.1 == i && (p.2.sendQ == q || p.2.notifyQ == q)) = true
    let st := s.assignStatus false (some i) q (e.b 2 2) (e.b 8 8) (e.b 4 4) (e.b 16 4)
    let on := s.on (RING_ADMIN_CFG_ENABLE i) = true
    (cmd 0x01 [(0, 8)] → e.b 0 8 % 64 = 0 →
      exec (.identify i slot) s = done ((s.ringPut i 0 (e.b 0 8) (s.identity i)).adminEnd i slot stOK)) ∧
    (cmd 0x02 [(0, 26)] → ¬ good → exec (.queueCreate i slot) s = done (s.adminEnd i slot stMALFORMED)) ∧
    (cmd 0x02 [(0, 26)] → good → (s.queue i q).state ≠ 0 → exec (.queueCreate i slot) s = done (s.adminEnd i slot stBUSY)) ∧
    (cmd 0x02 [(0, 26)] → good → (s.queue i q).state = 0 →
      let x : Queue := {
        state := 1, log2 := e.b 2 1, weight := max 1 (e.b 3 1), vector := e.b 4 2, flush := (e.b 6 1).testBit 0
        noIrq := (e.b 6 1).testBit 1, coalN := max 1 (e.b 7 1), coalUs := min (e.b 24 2) 1000, base := e.b 8 8
        headAddr := e.b 16 8 }
      (clamps → exec (.queueCreate i slot) s = done (((s.bump (RING_CLAMP_COUNT_VAL i)).setQueue i q x).adminEnd i slot stOK)) ∧
      (¬ clamps → exec (.queueCreate i slot) s = done ((s.setQueue i q x).adminEnd i slot stOK))) ∧
    (cmd 0x03 [(0, 2)] → ioq → (s.queue i q).state ≠ 0 →
      (used → exec (.queueDestroy i slot ring) s = done (s.adminEnd i slot stBUSY)) ∧
      (¬ used → exec (.queueDestroy i slot ring) s = done ((s.resetQueue i q 0 ring).adminEnd i slot stOK))) ∧
    (cmd 0x04 [(0, 2)] → ioq → (s.queue i q).state ≠ 0 →
      exec (.queueReset i slot ring) s = done ((s.resetQueue i q 1 ring).adminEnd i slot stOK)) ∧
    (cmd 0x08 [(0, 20)] → (s.tile q).assign = none →
      (st = stOK → exec (.tileAssign i slot) s =
        done (s.startAssign q (e.b 2 2) (e.b 8 8) (e.b 4 4) (e.b 16 4) (some (i, slot)))) ∧
      (st ≠ stOK → q < 4096 → s.instOfTile q = i → s.heldTile q = false →
        exec (.tileAssign i slot) s = done ((s.refuseAssign q st).adminEnd i slot st)) ∧
      (st ≠ stOK → (4096 ≤ q ∨ s.instOfTile q ≠ i ∨ s.heldTile q = true) →
        exec (.tileAssign i slot) s = done (s.adminEnd i slot st))) ∧
    (s.Sound → s.instLive i = true → cfg.testBit 0 = true → ¬ on → 4 ≤ bits cfg 1 4 → bits cfg 1 4 ≤ 12 →
      ∃ t, exec (.adminQueueEnable i cfg) s = done t ∧ t.mem = s.mem ∧ t.get (RING_ADMIN_CFG_ENABLE i) = 1 ∧
        (t.queue i 0).state = 1 ∧ (t.queue i 0).log2 = bits cfg 1 4 ∧ (t.queue i 0).vector = bits cfg 16 11 ∧
        (t.queue i 0).head = 0 ∧ (t.queue i 0).tail = 0 ∧ (t.queue i 0).window = []) ∧
    (s.instLive i = true → cfg.testBit 0 = true → ¬ on → (bits cfg 1 4 < 4 ∨ 12 < bits cfg 1 4) →
      exec (.adminQueueEnable i cfg) s = done s) ∧
    (s.instLive i = true → on → ∃ u, exec (.adminQueueDisable i ring) s =
      done ((State.resetQueue u i 0 0 ring).put (RING_ADMIN_CFG_ENABLE i) 0) ∧ u.mem = s.mem ∧ u.til = s.til)) ∧
  (∀ (s : State) (i : Nat) (temps : List Nat), s.instLive i = true → s.on (RING_D640_STATUS_BUSY i) = true →
    s.trc.halted = false → s.til.mgrLost.contains 0 = false →
    let c := s.get (RING_D640_CMD_CMD i)
    let p := s.reg (RING_D640_ARG i 0)
    let ends (x : Instr) (code : Nat) (data : List Nat) : Prop := exec x s = done (s.d640End i code data)
    (c = 1 → ends (.d640GetVersion i) 0 [Config.fwVersion s.runImage, 0x06400003]) ∧
    (c = 2 → s.portExists p = true →
      ends (.d640GetPort i) 0 [(if s.portUp p = true then 1 else 0) + (s.portLanes p).length * 256]) ∧
    (c = 2 → s.portExists p = false → ends (.d640GetPort i) 2 []) ∧
    (c = 3 → s.portExists p = true → ends (.d640GetPortCounters i) 0 ((List.range 5).map fun k =>
      mget 0 s.rings.portTotals (p * 8 + k) - mget 0 s.rings.portBase ((i * 32 + p) * 8 + k))) ∧
    (c = 3 → s.portExists p = false → ends (.d640GetPortCounters i) 2 []) ∧
    (c = 4 → ends (.d640GetTemp i temps) 0 [leAt ((temps.take 4).flatMap (leBytes 2)) 0 8]) ∧
    (c = 6 → ∀ q, (List.range 24).find? (fun q => bit (s.reg (MAC_IP_EGRESS i)) q) = some q →
      ends (.d640GetMac i) 0 [s.get (MAC_ADDR_VAL q)]) ∧
    (c = 7 → ends (.d640Echo i) 0 [p]) ∧
    (c ∉ [1, 2, 3, 4, 6, 7] → ends (.d640Unsupported i) 1 []))

/-- Copies and attachment (R458, R483, R485 to R487, R491, R599): the three copy commands are checked and start, and run
from their cursor; heartbeats, detachment by each of its causes, REATTACH and the link's return. -/
def Obligations.CopiesAndAttachment : Prop :=
  ∀ (s : State) (i q slot tile fn : Nat) (e : Entry) (c : Copy) (data : List Byte),
    let copyEnds (cmd : Instr) (op : Nat) (well usable : Prop) : Prop :=
      s.entry? i q slot = some e → e.op = op → s.copy? i q slot = none →
      (¬ well → exec cmd s = done (s.complete i q slot stMALFORMED 0)) ∧
      (well → ¬ usable → exec cmd s = done (s.complete i q slot stACCESS 0)) ∧
      (well → usable → exec cmd s = done (s.startCopy i q slot))
    let well := e.rsvdZero [(0, 18), (20, 4)] = true ∧ 1 ≤ e.b 20 4 ∧ e.b 20 4 ≤ 2 ^ 31 ∧ e.b 16 2 < 4096
    let usable := e.b 8 8 < 2 ^ 57 ∧ s.asidOk i (e.b 16 2) = true
    let runs := s.copy? i q slot = some c ∧ s.entry? i q slot = some e ∧ tile < 4096 ∧ s.instOfTile tile = i ∧
      s.roleOf tile = 2 ∧ s.engineOk tile = true ∧ (∀ p ∈ s.xlt.parked, p.ofCopy i q slot = false)
    copyEnds (.hostToDev i q slot) 0x43 well usable ∧ copyEnds (.devToHost i q slot) 0x44 well usable ∧
    copyEnds (.inlineToDev i q slot) 0x45
      (e.rsvdZero [(0, 10), (12, 4), (48, e.b 12 4)] = true ∧ 1 ≤ e.b 12 4 ∧ e.b 12 4 ≤ 3968 ∧ e.b 8 2 < 4096)
      (e.b 0 8 < 2 ^ 57 ∧ s.asidOk i (e.b 8 2) = true) ∧
    (runs → e.op ≠ 0x45 → exec (.copyComplete i q slot tile data) s =
      done (s.runCopy c tile (e.b 16 2) (e.b 8 8) (e.b 20 4) (e.op == 0x44) (e.b 0 8) data)) ∧
    (runs → e.op = 0x45 → exec (.copyComplete i q slot tile data) s = done (s.runCopy c tile (e.b 8 2) (e.b 0 8) (e.b 12 4)
      false 0 ((e.raw.drop (64 + c.moved)).take (e.b 12 4 - c.moved)))) ∧
    (s.instLive i = true → exec (.heartbeatWrite i) s =
      done { s with rings := { s.rings with beat := tput s.rings.beat i s.time } }) ∧
    (s.get (RING_HB_CFG_TIMEOUT_MS i) ≠ 0 → tfind s.rings.beat i ≠ some s.time →
      exec (.heartbeatTimeout i) s = done (s.detach i 3)) ∧
    (tfind s.rings.beat i = some s.time → exec (.heartbeatTimeout i) s = done s) ∧
    (let down := (List.range s.nInst).foldl (fun (s : State) i => s.detach i 1)
       { s with rings := { s.rings with linkDown := true, bmeOff := [] } }
     exec .pcieLinkDown s = done down ∧ exec .perstAssert s = done down) ∧
    (∃ t, exec .pcieLinkUp s = done t ∧ t = { s with rings := t.rings } ∧ t.rings.linkDown = false ∧
      (∀ i < s.nInst, tfind t.rings.beat i = some s.time) ∧ t.rings.queues = s.rings.queues) ∧
    (fn < s.nInst → s.instExists fn = true → ∃ t, exec (.bmeClear fn) s = done t ∧
      t = { s.detach fn 2 with rings := t.rings } ∧ fn ∈ t.rings.bmeOff ∧ t.rings.queues = (s.detach fn 2).rings.queues) ∧
    (s.entry? i 0 slot = some e → e.op = 6 → e.rsvdZero [(0, 4), (8, 12)] = true → e.b 8 8 % 64 = 0 →
      (s.detached i = false → exec (.reattach i slot) s = done (s.adminEnd i slot stBUSY)) ∧
      (s.detached i = true → e.b 0 4 ≠ s.get (RING_ATTACH_ATTACH_GEN i) →
        exec (.reattach i slot) s = done (s.adminEnd i slot stACCESS)) ∧
      (s.detached i = true → e.b 0 4 = s.get (RING_ATTACH_ATTACH_GEN i) →
        let u := (s.heldEntries i).foldl (fun (s : State) p => s.abortEntry i p.1 p.2) s
        let r := u.reattachReport i (e.b 16 4)
        let v := (u.ringPut i 0 (e.b 8 8) r.1).dropQueues i
        exec (.reattach i slot) s = done (((v.put (RING_ATTACH_ATTACH_GEN i)
          (v.get (RING_ATTACH_ATTACH_GEN i) + 1)).put (RING_ATTACH_DETACHED i) 0).adminEnd i slot stOK r.2)))

/-! ### Instances and mailboxes (15_instances_mailboxes.md) -/

/-- Instance commands (R493 to R502): each acts only in the states Table 15.2 gives it and is otherwise BUSY, or
MALFORMED for an instance beyond the mode; quiesce and reset run to their ends. -/
def Obligations.InstanceCommands : Prop :=
  ∀ (s : State) (i op : Nat) (r : Resetting), s.Sound →
    let pending (k : Nat) : Prop := s.insts.cmd = some (k, i) ∧ s.insts.begun = false ∧ s.firmware = true
    let st := s.get (INST_STATE_STATE i)
    let ends (c : Instr) (k want : Nat) : Prop :=
      (pending k → s.nInst ≤ i → exec c s = done (s.instEnd stMALFORMED)) ∧
      (pending k → i < s.nInst → st ≠ want → exec c s = done (s.instEnd stBUSY))
    ends .instCreate 1 0 ∧ ends .instQuiesce 2 1 ∧ ends .instResume 3 3 ∧ ends .instReset 4 3 ∧ ends .instRemove 5 3 ∧
    (pending 1 → i < s.nInst → st = 0 → exec .instCreate s = done ((State.createInst { s with
      sec := { s.sec with createGen := tput s.sec.createGen i (mget 0 s.sec.createGen i + 1) } } i).instEnd stOK)) ∧
    (pending 2 → i < s.nInst → st = 1 → s.schedBusy i = true → exec .instQuiesce s = done (s.instEnd stBUSY)) ∧
    (pending 2 → i < s.nInst → st = 1 → s.schedBusy i = false → exec .instQuiesce s = done (s.quiesce i).instBegin) ∧
    (pending 3 → i < s.nInst → st = 3 → exec .instResume s = done ((s.resumeInst i).instEnd stOK)) ∧
    (pending 4 → i < s.nInst → st = 3 →
      exec .instReset s = done (s.instBegin.startReset i ⟨false, s.on INST_CMD_ZERO, none⟩)) ∧
    (pending 5 → i < s.nInst → st = 3 → exec .instRemove s = done (s.instBegin.startReset i ⟨true, true, none⟩)) ∧
    (s.insts.cmd = some (6, op) → s.firmware = true →
      let free := (∀ j < s.nInst, s.get (INST_STATE_STATE j) = 0) ∧ s.on WARP_STATUS_HAS_ACTIVE = false ∧
        s.get WARP_STATUS_SHADOW_STATE = 0
      (s.get INST_CMD_MODE = 3 → exec .instSetMode s = done (s.instEnd stMALFORMED)) ∧
      (s.get INST_CMD_MODE ≠ 3 → ¬ free → exec .instSetMode s = done (s.instEnd stBUSY)) ∧
      (s.get INST_CMD_MODE ≠ 3 → free →
        exec .instSetMode s = done ((s.put INST_CFG_MODE (s.get INST_CMD_MODE)).instEnd stOK))) ∧
    (i < s.nInst → st = 2 →
      (s.quiet i = true → exec (.quiesceComplete i) s = done (s.quiesced i false) ∧
        exec (.quiesceLimitExpiry i) s = done (s.quiesced i false)) ∧
      (s.quiet i = false → exec (.quiesceLimitExpiry i) s = done (s.forceQuiesce i))) ∧
    (s.insts.begun = false → i < 16 → s.sets (done (s.quiesced i false))
      [(INST_STATE_STATE i, 3), (INST_STATE_FORCED i, 0), (INST_EVENT_QUIESCED, 1)]) ∧
    (tfind s.insts.resets i = some r → exec (.instanceResetDone i) s = done ((s.zeroFill i).resetDone i r)) ∧
    (s.instExists i = true → tfind s.insts.resets i ≠ none → s.sets (exec (.functionLevelReset i) s) [(INST_EVENT_FLR, 1)]) ∧
    (s.instExists i = true → tfind s.insts.resets i = none → st = 3 →
      exec (.functionLevelReset i) s = done ((s.raise INST_EVENT_FLR).startReset i ⟨false, false, none⟩)) ∧
    (s.instExists i = true → tfind s.insts.resets i = none → st ≠ 3 → exec (.functionLevelReset i) s =
      let u := s.raise INST_EVENT_FLR
      done ((State.forceQuiesce { u with insts := { u.insts with
        resets := tput u.insts.resets i ⟨false, false, none⟩ } } i).startReset i ⟨false, false, none⟩)) ∧
    (s.instExists i = false → exec (.functionLevelReset i) s = done s)

/-- Zero fill (R500): every byte of both memory ranges of the instance that is not kept under R502 reads 0 and its line
is clean; no other byte changes. -/
def Obligations.ZeroFillClears : Prop :=
  ∀ (s : State) (i a : Nat), s.Sound →
    let mine := (inside (s.nearRange i) a 1 = true ∨ inside (s.farRange i) a 1 = true) ∧
      ∀ k ∈ s.keptRanges i, inside k a 1 = false
    (mine → (s.zeroFill i).byte a = 0) ∧ (mine → a % 64 = 0 → mget false (s.zeroFill i).poison (a / 64) = false) ∧
      (¬ mine → (s.zeroFill i).byte a = s.byte a) ∧ (s.zeroFill i).Sound

/-- Mailboxes (R503 to R507): a message is sent into a free direction, taken and acknowledged in turn, or withdrawn
before it is taken; HELLO is answered, and RESET_REQUEST is refused where no quiesce could be made. -/
def Obligations.Mailboxes : Prop :=
  ∀ (s : State) (r : Requester) (i len code : Nat) (host : Bool), s.mbxSide r i = some host →
    (1 ≤ len → len ≤ 256 → s.mbxFree host i = true →
      exec (.mbxSend r i len) s = done ((s.stamp r i).1.mbxPost host i len (s.stamp r i).2)) ∧
    (len = 0 ∨ 256 < len ∨ s.mbxFree host i = false → exec (.mbxSend r i len) s = done s) ∧
    (s.mbxTxState host i = 1 → exec (.mbxWithdraw r i) s = done ((s.setReg (mbxTx host i) 4).setReg (mbxRx host i) 0)) ∧
    (s.mbxTxState host i ≠ 1 → exec (.mbxWithdraw r i) s = done s) ∧
    (s.mbxRxState (!host) i = 1 → exec (.mbxTake r i) s = done (s.mbxTake (!host) i)) ∧
    (s.mbxRxState (!host) i ≠ 1 → exec (.mbxTake r i) s = done s) ∧
    (s.mbxRxState (!host) i = 2 → exec (.mbxAck r i code) s = done (s.mbxAck (!host) i code)) ∧
    (s.mbxRxState (!host) i ≠ 2 → exec (.mbxAck r i code) s = done s) ∧
    (s.firmware = true → s.mbxRxState true i ≠ 0 →
      let u := if s.mbxRxState true i = 1 then s.mbxTake true i else s
      let short := s.get (MBXM_RX_STATUS_LEN i) < 4
      let token := bits (s.reg (MBXM_RX_DATA i 0)) 16 16
      (s.mbxType true i = 1 → s.mbxFree false i = true →
        (short → exec (.mbxHello i) s = done (u.mbxAck true i 2)) ∧
        (¬ short → exec (.mbxHello i) s = done ((u.mbxAck true i 0).mbxReply i (leBytes 2 0x8003 ++ leBytes 2 token ++
          leBytes 4 (Config.fwVersion s.runImage) ++ sliceB (s.identity i) 8 72)))) ∧
      (s.mbxType true i = 2 →
        (short → exec (.mbxResetRequest i) s = done (u.mbxAck true i 2)) ∧
        (¬ short → ((u.get (INST_STATE_STATE i) ≠ 1 ∧ u.get (INST_STATE_STATE i) ≠ 3) ∨ u.schedBusy i = true) →
          exec (.mbxResetRequest i) s = done (u.mbxAck true i 3)) ∧
        (¬ short → (u.get (INST_STATE_STATE i) = 1 ∨ u.get (INST_STATE_STATE i) = 3) → u.schedBusy i = false →
            (u.insts.cmd.any fun p => p.2 == i) = false →
          (Config.freeNat u.free % 2 = 1 → exec (.mbxResetRequest i) s = done (u.tick.mbxAck true i 4)) ∧
          (Config.freeNat u.free % 2 = 0 →
            let zero := decide (4 < s.get (MBXM_RX_STATUS_LEN i)) && bit (s.reg (MBXM_RX_DATA i 0)) 32
            let v := u.tick.mbxAck true i 0
            exec (.mbxResetRequest i) s = done (State.startReset
              (if u.get (INST_STATE_STATE i) = 1 then (v.quiesce i).forceQuiesce i else v) i ⟨false, zero, some token⟩)))))

/-! ### Security, calibration and firmware (16_security.md, 18_reliability_service.md) -/

/-- Keys and provisioning (R515, R516, R518, R527): PROVISION, FORGET and the key commands of Table 16.3 with what makes
each BUSY. -/
def Obligations.KeysAndProvisioning : Prop :=
  ∀ (s : State) (b : List Byte) (ds : Nat),
    let prov (op : Nat) : Prop := s.on SEC_PROV_STATUS_PENDING = true ∧ s.get SEC_PROV_CMD_OP = op ∧ s.firmware = true
    let held := s.anyKey = true ∨ s.farDark = true
    let key (op : Nat) : Prop := s.on SEC_KEY_STATUS_PENDING = true ∧ s.get SEC_KEY_CMD_OP = op ∧ s.firmware = true
    let c := s.get SEC_KEY_CMD_CTX
    let k := s.keyCtx c
    let ph := s.get SEC_KEY_CMD_PHASE
    let gen := s.get SEC_KEY_ARG_KEY_GEN
    let busy := s.get SEC_STATE_KEYS ≠ 1 ∨ s.sec.zeroing = true ∨ ((k.phase ph).isSome = true ∧ k.tx = ph) ∨
      (∃ x, (k.p0 = some x ∨ k.p1 = some x) ∧ gen ≤ x.gen)
    (∀ blob, prov 1 → held → exec (.provision blob) s = done (s.provEnd stBUSY)) ∧
    (∀ blob, prov 1 → ¬ held → s.sec.drbgStopped = true → exec (.provision blob) s = done (s.provEnd stBUSY)) ∧
    (prov 1 → ¬ held → s.sec.drbgStopped = false →
      (exec (.provision none) s = done (s.provEnd stMALFORMED)) ∧
      (blobOk b = false → exec (.provision (some b)) s = done (s.provEnd stMALFORMED)) ∧
      (blobOk b = true → Config.unwrapDs (sliceB b 0 256) = none →
        exec (.provision (some b)) s = done (s.provEnd stTAG_FAIL)) ∧
      (blobOk b = true → Config.unwrapDs (sliceB b 0 256) = some ds → exec (.provision (some b)) s = done
        (((State.put { s.tick with sec := { s.sec with ds := ds, bkek := Config.freeNat s.free } } SEC_STATE_KEYS 1).put
          SEC_STATE_DOMAIN_ID (leAt b 4 4)).provEnd stOK))) ∧
    (prov 2 → held → exec .forget s = done (s.provEnd stBUSY)) ∧
    (prov 2 → ¬ held → exec .forget s =
      done (((s.dropSecret.put SEC_STATE_KEYS 0).put SEC_STATE_DOMAIN_ID 0).provEnd stOK)) ∧
    (c = 0 → (key 1 → s.sec.drbgStopped = false → exec .keyInstall s = done (s.keyEnd stMALFORMED)) ∧
      (key 2 → exec .keySwitch s = done (s.keyEnd stMALFORMED)) ∧ (key 3 → exec .keyRetire s = done (s.keyEnd stMALFORMED)) ∧
      (key 4 → exec .keyClear s = done (s.keyEnd stMALFORMED))) ∧
    (c ≠ 0 →
      (key 1 → s.sec.drbgStopped = false → busy → exec .keyInstall s = done (s.keyEnd stBUSY)) ∧
      (key 1 → s.sec.drbgStopped = false → ¬ busy → ∃ x, exec .keyInstall s = done ((s.setKeyCtx c x).keyEnd stOK) ∧
        x.tenant = s.get SEC_KEY_ARG_TENANT ∧ x.group = s.get SEC_KEY_ARG_GROUP ∧
        x.phase ph = some ⟨s.get SEC_KEY_ARG_TENANT, s.get SEC_KEY_ARG_GROUP, gen, s.get SEC_KEY_ARG_DIR, 0⟩ ∧
        x.tx = (if k.p0 = none ∧ k.p1 = none then ph else k.tx)) ∧
      (key 2 → k.phase ph = none → exec .keySwitch s = done (s.keyEnd stBUSY)) ∧
      (key 2 → k.phase ph ≠ none → exec .keySwitch s = done ((s.setKeyCtx c { k with tx := ph }).keyEnd stOK)) ∧
      (key 3 → k.tx = ph → exec .keyRetire s = done (s.keyEnd stBUSY)) ∧
      (key 3 → k.tx ≠ ph →
        exec .keyRetire s = done ((s.setKeyCtx c (k.setPhase ph none)).keyEnd stOK)) ∧
      (key 4 → (∃ p ∈ s.qp.qps, p.2.cipher = c ∧ 2 ≤ p.2.state ∧ p.2.state ≤ 4) →
        exec .keyClear s = done (s.keyEnd stBUSY)) ∧
      (key 4 → (∀ p ∈ s.qp.qps, p.2.cipher = c → p.2.state < 2 ∨ 4 < p.2.state) →
        exec .keyClear s = done ((s.clearCtx c).keyEnd stOK)))

/-- Zeroization, tamper and entropy (R526 to R532, R626): an unlock or an alarm under main power leaves no key and a far
tier that reads poison; debug opens only after it and only where an unlock asked for it. -/
def Obligations.ZeroizationAndTamper : Prop :=
  ∀ (s : State) (r : Requester) (val sources : Nat), s.Sound →
    let zeroed (u t : State) (opens : Bool) : Prop := t.sec = { u.sec with
      ctxs := [], ds := 0, bkek := 0, rkLatch := true, zeroing := true, opening := u.sec.opening || opens }
    let unlocks := s.on SEC_STATE_DEBUG_OPEN = false ∧ s.pow.up = true
    (s.privReq r = true → val % 256 = 0xD4 → unlocks → ∃ t, exec (.debugUnlock r val) s = done t ∧
      zeroed s t true ∧ t = { s with sec := t.sec } ∧ t.anyKey = false ∧ (∀ a, isFar a = true → t.poisoned a = true)) ∧
    (unlocks → ∃ t, exec .jtagUnlock s = done t ∧ zeroed s t true ∧ t.trc = { s.trc with ir := 0x10, tdo := 0 }) ∧
    (s.privReq r = false ∨ val % 256 ≠ 0xD4 → exec (.debugUnlock r val) s = done s) ∧
    (s.sec.zeroing = true →
      let u := { s with sec := { s.sec with zeroing := false, opening := false } }
      (s.sec.opening = true → u.sets (exec .debugOpen s) [(SEC_STATE_KEYS, 2), (SEC_STATE_DOMAIN_ID, 0),
        (SEC_STATE_DEBUG_OPEN, 1), (SEC_EVENT_DEBUG_OPEN, 1)]) ∧
      (s.sec.opening = false → u.sets (exec .debugOpen s) [(SEC_STATE_KEYS, 2), (SEC_STATE_DOMAIN_ID, 0)])) ∧
    (s.sec.zeroing = false → exec .debugOpen s = done s) ∧
    (sources % 16 ≠ 0 → s.pow.up = true → ∃ t, exec (.tamperAlarm sources) s = done t ∧ t.anyKey = false ∧ t.sec.ds = 0 ∧
      t.sec.bkek = 0 ∧ t.sec.zeroing = true ∧ t.get SEC_EVENT_TAMPER = 1 ∧ t.mem = s.mem ∧
      (s.get SEC_TAMPER_STATUS_RECORDS < 16 → t.get SEC_TAMPER_STATUS_RECORDS = s.get SEC_TAMPER_STATUS_RECORDS + 1)) ∧
    (sources % 16 ≠ 0 → s.pow.up = false → s.sec.cellGone = false → ∃ t, exec (.tamperAlarm sources) s = done t ∧
      t.sec.bkek = 0 ∧ t.sec.ds = s.sec.ds) ∧
    (s.privReq r = true → val % 65536 = 0xC1EA → ∃ t, exec (.secTamperClear r val) s = done t ∧ t = { s with csr := t.csr } ∧
      t.reg SEC_TAMPER_STATUS = 0 ∧ (∀ n < 16, t.reg (SEC_TAMPER_LOG n 0) = 0 ∧ t.reg (SEC_TAMPER_LOG n 1) = 0) ∧
      ∀ a, a ≠ SEC_TAMPER_STATUS → (a < SEC_TAMPER_LOG 0 0 ∨ SEC_TAMPER_LOG 16 0 ≤ a) → t.reg a = s.reg a) ∧
    (s.pow.up = true → s.sets (exec .cellLow s) [(SEC_STATE_CELL_OK, 0), (SEC_EVENT_CELL_LOW, 1)]) ∧
    (State.sets { s with sec := { s.sec with cellGone := false } } (exec .cellReplace s) [(SEC_STATE_CELL_OK, 1)]) ∧
    (s.pow.up = false → State.sets { s with sec := { s.sec with bkek := 0, cellGone := true } } (exec .cellExhausted s)
      [(SEC_STATE_CELL_OK, 0)]) ∧
    (s.sets (exec .entropyHealthFail s) [(SEC_STATE_DRBG_OK, 0), (SEC_EVENT_ENTROPY_FAIL, 1)]) ∧
    (s.on SEC_STATE_DRBG_OK = false → State.sets { s with sec := { s.sec with drbgStopped := false } }
      (exec (.noiseRetest true) s) [(SEC_STATE_DRBG_OK, 1)]) ∧
    (exec (.noiseRetest false) s = done s) ∧
    (s.on SEC_STATE_DRBG_OK = true → exec .drbgReseed s = done s) ∧
    (s.on SEC_STATE_DRBG_OK = false → exec .drbgReseed s = done { s with sec := { s.sec with drbgStopped := true } })

/-- Calibration and firmware slots (R556 to R561): a calibration takes its 64 steps in picks with a free slot; each
firmware operation acts in the slot states of Table 18.2 and is otherwise BUSY. -/
def Obligations.CalibrationAndFirmware : Prop :=
  ∀ (s : State) (l pick n : Nat) (im : List Byte), s.Sound →
    let cal (st : Nat) : State := { s with rel := { s.rel with cal := tput s.rel.cal l (pick, st) } }
    let alone := ∀ k < 8, l / 8 * 8 + k ≠ l → s.get (LNK_LANE_STATE (l / 8 * 8 + k)) ≠ 3 ∧ s.get (LNK_LANE_STATE (l / 8 * 8 + k)) ≠ 4
    let fw (op : Nat) : Prop := s.on PWR_FW_CMD_STATUS_PENDING = true ∧ s.get PWR_FW_CMD_OP = op ∧ s.firmware = true
    let b := 1 - s.runSlot
    let svn := Config.fwSvn im % 256
    let staged : State := { s with rel := if b = 0 then { s.rel with slotA := im } else { s.rel with slotB := im } }
    (l < 96 → s.get (LNK_LANE_STATE l) = 2 → s.attachOn (l / 8) = true → s.pick + 16 ≤ pick → s.trc.halted = false →
      s.til.mgrLost.contains (l / 24) = false → alone →
      (cal 0).sets (exec (.calStart l pick) s) [(LNK_LANE_STATE l, 4), (PWR_REL_EVENT_CAL_START, 1)]) ∧
    (tfind s.rel.cal l = some (pick, n) → pick ≤ s.pick → n < 64 → s.calSlot l ≠ none →
      exec (.calStep l) s = done { s with rel := { s.rel with cal := tput s.rel.cal l (s.pick + 1, n + 1) } }) ∧
    (tfind s.rel.cal l = some (pick, 64) → State.sets { s with rel := { s.rel with cal := tdel s.rel.cal l } }
      (exec (.calComplete l) s) [(LNK_LANE_STATE l, 2), (PWR_REL_EVENT_CAL_DONE, 1)]) ∧
    (tfind s.rel.cal l = some (pick, n) → n ≠ 64 → exec (.calComplete l) s = done s) ∧
    (∀ img sig, fw 1 → s.slotState s.runSlot ≠ 3 → exec (.fwStage img sig) s = done (s.fwEnd stBUSY)) ∧
    (∀ img sig, fw 1 → s.slotState s.runSlot = 3 → 2 ^ 25 < s.get PWR_FW_STAGE_LEN_LEN →
      exec (.fwStage img sig) s = done (s.fwEnd stMALFORMED)) ∧
    (fw 1 → s.slotState s.runSlot = 3 → s.get PWR_FW_STAGE_LEN_LEN ≤ 2 ^ 25 →
      (exec (.fwStage none true) s = done (s.fwEnd stACCESS)) ∧ (exec (.fwStage (some im) false) s = done (s.fwEnd stACCESS)) ∧
      (svn < s.get SEC_ARB_COUNT →
        exec (.fwStage (some im) true) s = done ((s.raise SEC_EVENT_ROLLBACK_REFUSED).fwEnd stACCESS)) ∧
      (s.get SEC_ARB_COUNT ≤ svn → 64 < svn →
        exec (.fwStage (some im) true) s = done ((s.raise SEC_EVENT_ARB_END).fwEnd stACCESS)) ∧
      (s.get SEC_ARB_COUNT ≤ svn → svn ≤ 64 → exec (.fwStage (some im) true) s =
        done ((((staged.put (slotFld b) 1).put (svnFld b) svn).raise PWR_REL_EVENT_FW_STAGED).fwEnd stOK))) ∧
    (fw 2 → s.slotState b = 1 → Config.fwLive (s.slotImage b) = true → exec .fwActivate s =
      done (((State.put { s.activate b with rel := { s.rel with trialAt := s.time } } (slotFld b) 2).raise
        PWR_REL_EVENT_FW_TRIAL).fwEnd stOK)) ∧
    (fw 2 → s.slotState b = 1 → Config.fwLive (s.slotImage b) = false →
      exec .fwActivate s = done (((s.put (slotFld b) 2).raise PWR_REL_EVENT_FW_TRIAL).fwEnd stOK)) ∧
    (fw 2 → s.slotState b ≠ 1 → exec .fwActivate s = done (s.fwEnd stBUSY)) ∧
    (fw 3 → s.slotState s.runSlot = 2 → exec .fwConfirm s = done (s.fwGood.fwEnd stOK)) ∧
    (fw 3 → s.slotState s.runSlot ≠ 2 → exec .fwConfirm s = done (s.fwEnd stBUSY)) ∧
    (fw 4 → (s.slotState 0 = 2 ∨ s.slotState 1 = 2) → exec .fwRevert s = done (s.fwRevert.fwEnd stOK)) ∧
    (fw 4 → s.slotState 0 ≠ 2 → s.slotState 1 ≠ 2 → exec .fwRevert s = done (s.fwEnd stBUSY)) ∧
    (s.slotState s.runSlot = 2 → s.get PWR_FW_CFG_TRIAL_S ≠ 0 → s.firmware = true →
      exec .fwTrialExpiry s = done s.fwGood) ∧
    (s.slotState s.runSlot = 2 → s.slotSvn s.runSlot ≤ 64 → s.get SEC_ARB_COUNT ≤ s.fwGood.get SEC_ARB_COUNT ∧
      s.fwGood.slotState s.runSlot = 3 ∧ s.slotSvn s.runSlot ≤ s.fwGood.get SEC_ARB_COUNT)

/-! ### Trace and debug (19_debug_trace.md) -/

/-- The trace path (R571 to R573, R575): a full slot drops and counts; the collector of a die takes one whole record in
turn and an OVERFLOW record follows dropped events; a full buffer takes none; frames go to the lanes up and enabled,
SCAN before TRACE. -/
def Obligations.TracePath : Prop :=
  ∀ (s : State) (d l key n : Nat) (x : TrcSlot) (r : List Byte), s.Sound →
    let took : State := { s with trc := { s.trc with buf := s.trc.buf ++ [r], turn := tput s.trc.turn d key } }
    (s.trc.buf.length < 32768 → s.nextSource d = some (key, x) → x.rec_ = some r →
      (x.drops = 0 → exec (.traceCollect d) s = done (took.setTraceSlot key { x with rec_ := none })) ∧
      (x.drops ≠ 0 → s.traceOn 14 0 = true → exec (.traceCollect d) s = done ((took.setTraceSlot key {
        rec_ := some (traceRec s.ts 14 5 (sourceNo key) 0 key 0 x.seq (leBytes 4 x.drops ++ leBytes 6 x.first ++ leBytes 6 x.last))
        seq := (x.seq + 1) % 65536 }).raise TRC_EVENT_OVERFLOW))) ∧
    (32768 ≤ s.trc.buf.length ∨ s.nextSource d = none → exec (.traceCollect d) s = done s) ∧
    (∀ val q, s.privReq q = true → s.traceOn 13 0 = true → (s.on TRC_TRIG_CFG_SRC_MATCH = false ∨ s.get TRC_TRIG_STATUS_STATE ≠ 1) →
      let y := s.traceSlot srcUnit
      (y.rec_ = none → ∃ t, exec (.traceMark q val) s = done t ∧ t.csr = s.csr ∧ t.traceSlot srcUnit = { y with
        rec_ := some (traceRec s.ts 13 6 0 0 srcUnit 0 y.seq (leBytes 8 val)), seq := (y.seq + 1) % 65536 }) ∧
      (y.rec_ ≠ none → ∃ t, exec (.traceMark q val) s = done t ∧ (t.traceSlot srcUnit).rec_ = y.rec_ ∧
        (t.traceSlot srcUnit).drops = min (y.drops + 1) (2 ^ 32 - 1) ∧ (t.traceSlot srcUnit).seq = y.seq ∧
        t.get TRC_DROPPED_VAL = min (s.get TRC_DROPPED_VAL + 1) (2 ^ TRC_DROPPED_VAL.w - 1))) ∧
    (∀ val q, s.privReq q = false → exec (.traceMark q val) s = done s) ∧
    (s.saffronLane = some l →
      bit (s.get TRC_STATUS_LANES_UP) l = true ∧ bit (s.get TRC_SAFFRON_CFG_LANE_EN) l = true ∧
      (∀ y, s.trc.scan = some y → y.saffron = true → y.left ≠ 0 → n = min 992 (imageSize - y.offset) →
        exec .saffronFrameSend s = done ((s.saffronPut l
          (s.saffronFrame 2 l 0 y.tile y.offset n (s.scanBytes y.tile y.offset n))).scanStep y n imageSize)) ∧
      (s.trc.scan = none → s.trc.buf ≠ [] → n = min 31 s.trc.buf.length → ∃ t, exec .saffronFrameSend s = done t ∧
        t.trc.buf = s.trc.buf.drop n ∧ tfind t.trc.frames l = some (s.saffronFrame 1 l n 0 0 0 (s.trc.buf.take n).flatten) ∧
        t.trc.lane = l ∧ t.get TRC_RECORDS_VAL = min (s.get TRC_RECORDS_VAL + n) (2 ^ TRC_RECORDS_VAL.w - 1))) ∧
    (s.saffronLane = none ∨ (s.trc.scan = none ∧ s.trc.buf = []) → exec .saffronFrameSend s = done s) ∧
    (l < 4 → bit (s.get TRC_STATUS_LANES_UP) l = true → s.sets (exec (.saffronLaneDown l) s)
      [(TRC_STATUS_LANES_UP, clearMask (s.get TRC_STATUS_LANES_UP) (2 ^ l)), (TRC_EVENT_LANE_DOWN, 1)])

/-- Trigger, freeze and halt (R576 to R580): arming, firing once with its actions, the snapshot of the counters, THAW,
the halt and its completion, and RESUME. Scan-out and JTAG (R528, R578, R580 to R582, Table 19.5): a scan starts only
with debug open and every tile halted; the instructions act as BYPASS until debug is open. -/
def Obligations.TriggerHaltScanAndJtag : Prop :=
  (∀ (s : State) (r : Requester) (val : Nat), s.Sound →
    let fired (mask : Nat) (t : State) : Prop :=
      t.get TRC_TRIG_STATUS_STATE = 2 ∧ bits (t.reg TRC_TRIG_STATUS) 4 4 = mask ∧ t.get TRC_EVENT_FIRED = 1 ∧
      t.trc.haltDue = (s.on TRC_TRIG_CFG_HALT || s.trc.haltDue) ∧ t.trc.freezeDue = (s.on TRC_TRIG_CFG_FREEZE || s.trc.freezeDue) ∧
      (s.on TRC_TRIG_CFG_TRACE_STOP = true → t.on TRC_CFG_ENABLE = false) ∧ t.mem = s.mem ∧ t.til = s.til
    (s.privReq r = true →
      (bit val 0 = true → s.frozen = false → s.trc.halted = false → ∃ t, exec (.triggerArm r val) s = done t ∧
        t = { s with csr := t.csr } ∧ t.reg TRC_TRIG_CFG = val &&& 0x70F ∧ t.reg TRC_TRIG_STATUS = 1 ∧
        t.get TRC_EVENT_TRIG_MISSED = (if bit val 2 = true ∧ s.get TRC_TRIG_PICK_VAL ≤ s.get PICK_NUMBER_NUMBER then 1
          else s.get TRC_EVENT_TRIG_MISSED)) ∧
      (bit val 0 = true → (s.frozen = true ∨ s.trc.halted = true) → exec (.triggerArm r val) s = done s) ∧
      (s.get TRC_TRIG_STATUS_STATE = 1 → ∃ t, exec (.triggerCmdFire r) s = done t ∧ fired 1 t) ∧
      (s.get TRC_TRIG_STATUS_STATE ≠ 1 → exec (.triggerCmdFire r) s = done s) ∧
      (s.frozen = true → ∃ t, exec (.triggerCmdThaw r) s = done t ∧ t.frozen = false ∧ t.trc.snap = [] ∧
        (s.get TRC_TRIG_STATUS_STATE = 2 → s.trc.halted = false → s.trc.haltDue = false → s.trc.freezeDue = false →
          t.get TRC_TRIG_STATUS_STATE = 0)) ∧
      (s.frozen = false → exec (.triggerCmdThaw r) s = done s) ∧
      (s.trc.halted = true ∨ s.trc.haltDue = true →
        exec (.triggerCmdResume r) s = done { s with trc := { s.trc with resumeDue := true } })) ∧
    (s.privReq r = false → exec (.triggerArm r val) s = done s ∧ exec (.triggerCmdFire r) s = done s ∧
      exec (.triggerCmdThaw r) s = done s ∧ exec (.triggerCmdResume r) s = done s) ∧
    (s.get TRC_TRIG_STATUS_STATE = 1 → s.on TRC_TRIG_CFG_SRC_PIN = true →
      ∃ t, exec .freezePinEdge s = done t ∧ fired 2 t) ∧
    (s.get TRC_TRIG_STATUS_STATE ≠ 1 ∨ s.on TRC_TRIG_CFG_SRC_PIN = false → exec .freezePinEdge s = done s) ∧
    (s.trc.freezeDue = true → ∃ t, exec .freezeSnapshot s = done t ∧ t.frozen = true ∧ t.trc.freezeDue = false ∧
      ∀ a, a < RING_INST_ID 0 → tfind t.trc.snap a = tfind s.csr a) ∧
    (s.trc.freezeDue = false → exec .freezeSnapshot s = done s) ∧
    (s.trc.haltDue = true → exec .haltAll s = done { s with trc := { s.trc with halted := true, haltDue := false } }) ∧
    (s.trc.haltDue = false → exec .haltAll s = done s) ∧
    (s.trc.halted = true → s.on TRC_HALT_STATUS_HALTING = true → ∃ t, exec .haltComplete s = done t ∧
      t.on TRC_HALT_STATUS_ALL = true ∧ t.on TRC_HALT_STATUS_HALTING = false ∧ t.get TRC_EVENT_HALTED = 1 ∧
      t = { s with csr := t.csr })) ∧
  (∀ (s : State) (r : Requester) (val n : Nat) (x : Scan), s.Sound →
    let first := s.get TRC_SCAN_CFG_FIRST
    let count := min (max 1 (s.get TRC_SCAN_CFG_COUNT)) (4096 - first)
    let idle := s.trc.scan = none ∧ s.trc.halted = true ∧ s.on TRC_HALT_STATUS_ALL = true
    let opened := s.on SEC_STATE_DEBUG_OPEN = true
    (s.privReq r = true →
      (¬ opened → s.sets (exec (.scanStart r) s) [(TRC_SCAN_STATUS_RESULT, stACCESS)]) ∧
      (opened → ¬ idle → s.sets (exec (.scanStart r) s) [(TRC_SCAN_STATUS_RESULT, stBUSY)]) ∧
      (opened → idle → State.sets { s with trc := { s.trc with scan := some ⟨first, count, 0, s.on TRC_SCAN_CFG_TARGET⟩ } }
        (exec (.scanStart r) s) [(TRC_SCAN_STATUS_BUSY, 1), (TRC_SCAN_STATUS_TILE, first), (TRC_STATUS_SCAN_BUSY, 1)])) ∧
    (s.privReq r = false → exec (.scanStart r) s = done s) ∧
    (s.trc.scan = some x → x.left = 0 → State.sets { s with trc := { s.trc with scan := none } } (exec .scanComplete s)
      [(TRC_SCAN_STATUS_BUSY, 0), (TRC_SCAN_STATUS_RESULT, stOK), (TRC_STATUS_SCAN_BUSY, 0), (TRC_EVENT_SCAN_DONE, 1)]) ∧
    (s.trc.scan = none ∨ (s.trc.scan = some x ∧ x.left ≠ 0) → exec .scanComplete s = done s) ∧
    (exec .jtagIdcode s = done (s.jtag 0x01 (1 + Config.jtagMaker % 2048 * 2 + 0xD409 * 4096 + Config.siliconRev % 16 * 2 ^ 28))) ∧
    (exec .jtagBypass s = done (s.jtag 0xFF 0)) ∧
    (¬ opened → exec .jtagHalt s = done (s.jtag 0x11 0) ∧ exec .jtagResume s = done (s.jtag 0x12 0) ∧
      exec (.jtagScanSel val) s = done (s.jtag 0x20 0) ∧ exec (.jtagScanData n) s = done (s.jtag 0x21 0)) ∧
    (opened → s.trc.halted = false → ∃ t, exec .jtagHalt s = done t ∧ t.trc.haltDue = true ∧
      t.on TRC_HALT_STATUS_HALTING = true) ∧
    (opened → s.trc.halted = true → exec .jtagHalt s = done (s.jtag 0x11 0)) ∧
    (opened → (s.trc.halted = true ∨ s.trc.haltDue = true) → exec .jtagResume s =
      done { s with trc := { s.trc with ir := 0x12, tdo := 0, resumeDue := true } }) ∧
    (opened → idle → ∃ t, exec (.jtagScanSel val) s = done t ∧ t.trc.ir = 0x20 ∧ t.trc.scan = some
      ⟨bits val 0 12, min (max 1 (bits val 12 13)) (4096 - bits val 0 12), 0, false⟩) ∧
    (opened → s.trc.scan = some x → x.saffron = false → x.left ≠ 0 → ∃ t, exec (.jtagScanData 1) s = done t ∧
      t.mem = s.mem ∧ t.trc.tdo = ((s.scanByte x.tile (x.offset / 8)).getLsbD (x.offset % 8)).toNat ∧
      (x.offset + 1 < 8 * imageSize → t.trc.scan = some { x with offset := x.offset + 1 })))

/-! ### Power, resets and start-up (20_power_clocks_startup.md, 21_connectors_mechanical.md) -/

/-- Resets (R275, R587, R596 to R598): the reset kinds, what a cold reset loses and a warm one keeps of memory, and the
trip. Start-up (Tables 20.6 and 20.7, R602, R603): it stops at the step of the first failure with its code, and
otherwise runs to READY. -/
def Obligations.ResetsTripsAndStartUp : Prop :=
  (∀ (s : State) (r : Requester) (b : Boot) (val cause value : Nat), s.Sound →
    let asked (k : Nat) : Prop := s.privReq r = true ∧ bits val 16 16 = 0xA55A ∧ bit val 63 = true ∧ val % 4 = k
    let u := s.coldState
    (u.mem = [] ∧ u.poison = [] ∧ u.sec.ctxs = [] ∧ u.hostMem = s.hostMem ∧ u.trc.zero = s.time ∧
      u.get SEC_ARB_COUNT = s.get SEC_ARB_COUNT ∧ u.get PWR_LAST_TRIP_CAUSE = s.get PWR_LAST_TRIP_CAUSE ∧
      (∀ a, storeMask a = 0 → u.reg a = regReset a)) ∧
    (exec (.powerOnReset b) s = done (((State.keysAtPower { u with pow := { u.pow with up := true } } b.bkek).put
      PWR_BOOT_STATUS_LAST_RESET 0 |>.startUp b true).showRevert s)) ∧
    (asked 2 → exec (.coldReset r val b) s = done ((u.put PWR_BOOT_STATUS_LAST_RESET 1 |>.startUp b true).showRevert s)) ∧
    (asked 1 → exec (.warmReset r val b) s =
      done ((s.warmState.put PWR_BOOT_STATUS_LAST_RESET 2 |>.startUp b false).showRevert s)) ∧
    (¬ asked 2 → exec (.coldReset r val b) s = done s) ∧ (¬ asked 1 → exec (.warmReset r val b) s = done s) ∧
    ((∀ i < s.nInst, s.instExists i = false) → s.slotState s.runSlot ≠ 2 →
      (∀ a < 0x0F0000000000, s.warmState.byte a = s.byte a) ∧ s.warmState.memu.salts = s.memu.salts ∧
      s.warmState.poison = s.poison ∧ s.warmState.get INST_CFG_MODE = s.get INST_CFG_MODE ∧
      (∀ n < 64, ∀ k < 64, bit (s.warmState.reg (TILE_FAILED n)) k = bit (s.reg (TILE_FAILED n)) k) ∧
      (∀ t < 4096, s.warmState.get (TILE_ROLE_EPOCH t) = 0)) ∧
    (s.pow.up = true → exec (.pllLockLoss b) s =
      done ((u.put PWR_BOOT_STATUS_LAST_RESET 3 |>.startUp b true).showRevert s)) ∧
    (s.pow.up = true → 1 ≤ cause → cause ≤ 6 → ∃ t, exec (.powerTrip cause value) s = done t ∧ t.pow.up = false ∧ t.mem = [] ∧
      t.get PWR_LAST_TRIP_CAUSE = cause ∧ t.get PWR_LAST_TRIP_VALUE = value % 65536) ∧
    (s.pow.up = false → exec (.powerTrip cause value) s = done s)) ∧
  (∀ (s : State) (b : Boot), s.Sound →
    let fails (step code : Nat) (t : State) : Prop :=
      t.get PWR_BOOT_STATUS_STEP = step ∧ t.get PWR_BOOT_STATUS_FAIL = 1 ∧ t.get PWR_BOOT_STATUS_CODE = code ∧
        t.get PWR_EVENT_BOOT_FAIL = 1
    (b.checkers = false → fails 2 1 (s.startUp b true) ∧ fails 2 1 (s.startUp b false)) ∧
    (b.checkers = true → b.trained = false → fails 3 2 (s.startUp b true) ∧ fails 3 2 (s.startUp b false)) ∧
    (b.checkers = true → b.trained = true → (b.router = true ∨ ∃ x < 64, ∃ y z, y ≠ z ∧ (x, y) ∈ b.tiles ∧ (x, z) ∈ b.tiles) →
      fails 5 6 (s.startUp b true)) ∧
    (b.checkers = true → b.trained = true → b.router = false → b.tiles = [] → b.devices = [] →
      (∃ k < 16, ∃ x y z, x ≠ y ∧ y ≠ z ∧ x ≠ z ∧ (k, x) ∈ b.dies ∧ (k, y) ∈ b.dies ∧ (k, z) ∈ b.dies) →
      fails 5 4 (s.startUp b true)) ∧
    (b.checkers = true → b.trained = true → b.sigA = false → b.sigB = false → fails 6 8 (s.startUp b false)) ∧
    (b.checkers = true → b.trained = true → s.slotState s.runSlot = 3 → s.slotState (1 - s.runSlot) ≠ 2 →
      (s.slotOk b s.runSlot).2 = true → (s.startUp b false).get PWR_BOOT_STATUS_READY = 1 ∧
        (s.startUp b false).get PWR_BOOT_STATUS_STEP = 8 ∧ (s.startUp b false).get PWR_EVENT_READY = 1))

/-- The power controller, pacing, modules and the management bus (R588, R591 to R593, R614, R617, R618). -/
def Obligations.PowerPacingAndModules : Prop :=
  ∀ (s : State) (r : Requester) (m : Reading) (val n c watts code : Nat) (ready : Bool), s.Sound →
    let warp := s.on WARP_STATUS_HAS_ACTIVE = true ∨ s.get WARP_STATUS_SHADOW_STATE ≠ 0
    let v := val &&& 0x1FFF003F
    let over_ := s.limitW * 10 < m.pin
    let answers (e : Instr) (x : Nat) : Prop := exec e s = done { s with bus := { s.bus with rdata := x, nack := false } }
    let used := ((s.pow.modules.filter (·.2.admitted)).map fun p => p.2.watts).sum
    (s.privReq r = true →
      (warp → v ≠ s.reg PWR_PACE_CFG → s.sets (exec (.paceCfgWrite r val) s) [(PWR_EVENT_PACE_REFUSED, 1)]) ∧
      (¬ warp → exec (.paceCfgWrite r val) s = done (s.setReg PWR_PACE_CFG v)) ∧
      (n < 512 → ∃ t, exec (.paceMapWrite r n val) s = done t ∧ t = { s with csr := t.csr } ∧
        ∀ j < 8, bits (t.reg (PWR_PACE_MAP n)) (8 * j) 8 =
          if (s.warp.sets.any fun w => bit w.sched (8 * n + j)) = true then bits (s.reg (PWR_PACE_MAP n)) (8 * j) 8
          else bits val (8 * j) 6)) ∧
    (s.privReq r = false → exec (.paceCfgWrite r val) s = done s ∧ exec (.paceMapWrite r n val) s = done s) ∧
    (s.pow.up = true → ∃ t, exec (.powerControlTick m) s = done t ∧
      t.get CC_THROTTLE_WEFT_PCT = min t.pow.power t.pow.heat % 2 ^ CC_THROTTLE_WEFT_PCT.w ∧
      (over_ → t.pow.power = s.pow.power - 10) ∧
      (¬ over_ → 9 ≤ s.pow.calm → m.pin < (s.limitW - s.get PWR_LIMIT_CFG_HYST_W) * 10 →
        t.pow.power = min 100 (s.pow.power + 5)) ∧
      (¬ over_ → s.pow.calm < 9 → t.pow.power = s.pow.power) ∧
      ((∃ k < 3, s.throttleAt k ≤ hottest m k) → t.pow.heat = s.pow.heat - 10) ∧
      ((∃ k < 3, s.alertAt k ≤ hottest m k) → s.pow.alert = false → t.get PWR_EVENT_ALERT = 1) ∧
      t.get PWR_STATUS_VIN = m.vin % 65536 ∧ t.get PWR_STATUS_PIN = m.pin % 65536 ∧ t.til = s.til ∧ t.warp = s.warp) ∧
    (c < 12 → tfind s.pow.modules c = none → ∃ t, exec (.moduleInsert c watts ready) s = done t ∧
      t.pow.modules = tput s.pow.modules c ⟨watts, decide (watts ≤ 16) && decide (used + watts ≤ 96), ready⟩ ∧
      (s.pow.up = true → t.get (LNK_CAGE_STATUS_MODULE c) = 1) ∧
      (16 < watts ∨ 96 < used + watts → ∀ l < 96, t.get (LNK_LANE_STATE l) = s.get (LNK_LANE_STATE l))) ∧
    (c < 12 → tfind s.pow.modules c ≠ none → ∃ t, exec (.moduleRemove c) s = done t ∧
      t.pow.modules = tdel s.pow.modules c ∧ t.get (LNK_CAGE_STATUS_MODULE c) = 0 ∧
      ∀ k < 8, s.laneUp (8 * c + k) = true → t.get (LNK_LANE_STATE (8 * c + k)) = 3) ∧
    (s.pow.up = true → answers .smbReadVin (s.get PWR_STATUS_VIN) ∧ answers .smbReadPin (s.get PWR_STATUS_PIN) ∧
      answers .smbReadDieTemp (max (max (bits (s.get PWR_TEMP_DIE) 0 8) (bits (s.get PWR_TEMP_DIE) 8 8))
        (max (bits (s.get PWR_TEMP_DIE) 16 8) (bits (s.get PWR_TEMP_DIE) 24 8))) ∧
      answers .smbReadMemTemp (s.get PWR_TEMP_STACK + s.get PWR_TEMP_FAR * 256) ∧
      answers .smbReadBootStatus (s.reg PWR_BOOT_STATUS % 65536) ∧ answers .smbReadLastTrip (s.get PWR_LAST_TRIP_CAUSE) ∧
      answers .smbReadSecState (s.get SEC_STATE_KEYS + s.get SEC_STATE_CELL_OK * 4 +
        (if s.get SEC_TAMPER_STATUS_RECORDS = 0 then 0 else 8)) ∧
      answers .smbReadIdentity (leNat cardIdentity) ∧
      (code ∉ ([1, 2, 3, 4, 5, 6, 7, 0x10] : List Nat) →
        exec (.smbUnknownCommand code) s = done { s with bus := { s.bus with nack := true } }))

/-! ### Registers (00_scope.md R18 to R23) -/

/-- Register accesses (R18 to R22, R32, R461, R577): what a write and a read of each access type do, to the bits that the
access covers; a write to a setting that waits for the wall changes no register, reads back, and takes effect when the
wall's settings do; an access that reaches no register does nothing and reads 0. Which settings wait is the model's
reading (log entry 32). -/
def Obligations.RegisterAccesses : Prop :=
  ∀ (s : State) (r : Requester) (addr w val k lo : Nat) (d : RegDef) (f : FldDef) (again : Bool), s.Sound →
    let at_ := (s.reach r addr).bind fun a => regAt a w
    let read := exec (.rcCounterRead r addr w again) s
    let write := exec (.registerWrite r addr w val) s
    (at_ = none → write = done s ∧ read = done { s with bus := { s.bus with rdata := 0 } }) ∧
    (∀ a, regFind (a / 8 * 8) = none ∨ (w ≠ 32 ∧ w ≠ 64) ∨ a % (w / 8) ≠ 0 → regAt a w = none) ∧
    (at_ = some (d, k, lo) → f ∈ d.flds →
      let plain := ∀ v rw, s.devWrite r k v rw = none ∧ s.arrayWrite r k v rw lo w = none ∧ s.instWrite r k v rw = none
      let whole := lo ≤ f.lo ∧ f.lo + f.w ≤ lo + w
      let bitsW := bits (val % 2 ^ w) (f.lo - lo) f.w
      (plain → wallReg k = true → ∃ t, write = done t ∧ t = { s with later := t.later } ∧
        (sortedKeys s.later = true → ∀ a, a ≠ k → tfind t.later a = tfind s.later a) ∧
        (whole → (f.acc = .rw ∨ f.acc = .rws) → sortedKeys s.later = true →
          bits (t.written k (t.reg k)) f.lo f.w = bitsW ∧
          (s.later = [] → (∀ p < 24, k ≠ MAC_PORT_CFG p ∧ k ≠ MAC_FC_CFG p) → t.applyLater.get (f.at_ k) = bitsW))) ∧
      (plain → wallReg k = false → ∃ t, write = done t ∧ t = { s with csr := t.csr } ∧
        (∀ a, a ≠ k → t.reg a = s.reg a) ∧
        (whole → (f.acc = .rw ∨ f.acc = .rws) → t.get (f.at_ k) = bitsW) ∧
        (whole → f.acc = .w1c → t.get (f.at_ k) = clearMask (s.get (f.at_ k)) bitsW) ∧
        ((f.acc = .ro ∨ f.acc = .rc) → t.get (f.at_ k) = s.get (f.at_ k)) ∧
        ((f.lo + f.w ≤ lo ∨ lo + w ≤ f.lo) → t.get (f.at_ k) = s.get (f.at_ k)))) ∧
    (at_ = some (d, k, lo) → ∃ t, read = done t ∧ t.mem = s.mem ∧
      t.bus.rdata = bits (s.shown d k) lo w ∧
      (s.frozen = true → ∀ g ∈ d.flds, t.get (g.at_ k) = s.get (g.at_ k)) ∧
      (s.frozen = false → f ∈ d.flds → f.acc = .rc → k < RING_INST_ID 0 → ¬ (lo ≤ f.lo ∧ f.lo + f.w ≤ lo + w) →
        t.get (f.at_ k) = s.get (f.at_ k)) ∧
      (s.frozen = false → f ∈ d.flds → f.acc = .rc → k < RING_INST_ID 0 → lo ≤ f.lo → f.lo + f.w ≤ lo + w →
        t.get (f.at_ k) = if again = true then 1 else bits (regReset k) f.lo f.w))
end

