-- ==== Sys2Proof/Laws/Maps.lean ====
section
/-! SUPPORT. Laws of the sparse tables: what is read after a write, and that every operation keeps the keys rising and
the canonical form. -/
namespace Sys2Proof.Machine

/-- Every listed key lies above `k`. -/
def above {α : Type} (k : Nat) (m : SMap α) : Prop := ∀ p ∈ m, k < p.1

theorem sortedKeys_cons {α : Type} (p : Nat × α) (m : SMap α) :
    sortedKeys (p :: m) = true ↔ above p.1 m ∧ sortedKeys m = true := by
  induction m generalizing p with
  | nil => simp [sortedKeys, above]
  | cons q m ih =>
    obtain ⟨k, v⟩ := p
    obtain ⟨k', v'⟩ := q
    constructor
    · intro h
      simp only [sortedKeys, Bool.and_eq_true, decide_eq_true_eq] at h
      refine ⟨?_, h.2⟩
      intro r hr
      rcases List.mem_cons.1 hr with rfl | hr
      · exact h.1
      · exact lt_trans h.1 (((ih _).1 h.2).1 r hr)
    · rintro ⟨h1, h2⟩
      simp only [sortedKeys, Bool.and_eq_true, decide_eq_true_eq]
      exact ⟨h1 (k', v') (List.mem_cons_self ..), h2⟩

theorem tfind_above {α : Type} {k j : Nat} {m : SMap α} (h : above k m) (hj : j ≤ k) : tfind m j = none := by
  induction m with
  | nil => rfl
  | cons p m ih =>
    have h1 := h p (List.mem_cons_self ..)
    have : j ≠ p.1 := by omega
    simp only [tfind, this, if_false]
    exact ih fun q hq => h q (List.mem_cons_of_mem _ hq)

theorem tfind_tput {α : Type} (m : SMap α) (k j : Nat) (v : α) :
    tfind (tput m k v) j = if j = k then some v else tfind m j := by
  induction m with
  | nil => simp [tput, tfind]
  | cons p m ih =>
    obtain ⟨k', v'⟩ := p
    unfold tput
    split
    · simp [tfind]
    · split
      · rename_i h1 h2
        subst h2
        simp only [tfind]
        split <;> rfl
      · rename_i h1 h2
        simp only [tfind, ih]
        split
        · rename_i h3
          subst h3
          rw [if_neg (fun h => h2 h.symm)]
        · rfl

theorem tfind_tdel {α : Type} {m : SMap α} (h : sortedKeys m = true) (k j : Nat) :
    tfind (tdel m k) j = if j = k then none else tfind m j := by
  induction m with
  | nil => simp [tdel, tfind]
  | cons p m ih =>
    obtain ⟨k', v'⟩ := p
    have hs := (sortedKeys_cons _ _).1 h
    unfold tdel
    split
    · rename_i h1
      subst h1
      simp only [tfind]
      split
      · rename_i h2
        exact tfind_above hs.1 (le_of_eq h2)
      · rfl
    · rename_i h1
      simp only [tfind, ih hs.2]
      split
      · rename_i h3
        subst h3
        rw [if_neg (fun h => h1 h.symm)]
      · rfl

theorem mget_tput {α : Type} (d : α) (m : SMap α) (k j : Nat) (v : α) :
    mget d (tput m k v) j = if j = k then v else mget d m j := by
  simp only [mget, tfind_tput]
  split <;> rfl

/-- What is read after a write: the value at its key, and at every other key what was there. -/
theorem mget_mset {α : Type} [DecidableEq α] (d : α) {m : SMap α} (h : sortedKeys m = true) (k j : Nat) (v : α) :
    mget d (mset d m k v) j = if j = k then v else mget d m j := by
  unfold mset
  split
  · rename_i hv
    subst hv
    simp only [mget, tfind_tdel h]
    split <;> rfl
  · exact mget_tput d m k j v

theorem mem_tput {α : Type} {m : SMap α} {k : Nat} {v : α} {p : Nat × α} (h : p ∈ tput m k v) : p = (k, v) ∨ p ∈ m := by
  induction m with
  | nil => exact .inl (by simpa [tput] using h)
  | cons q m ih =>
    obtain ⟨k', v'⟩ := q
    unfold tput at h
    split at h
    · simpa using h
    · split at h
      · rcases List.mem_cons.1 h with h | h
        · exact .inl h
        · exact .inr (List.mem_cons_of_mem _ h)
      · rcases List.mem_cons.1 h with h | h
        · exact .inr (h ▸ List.mem_cons_self ..)
        · exact (ih h).imp id (List.mem_cons_of_mem _)

theorem mem_tdel {α : Type} {m : SMap α} {k : Nat} {p : Nat × α} (h : p ∈ tdel m k) : p ∈ m := by
  induction m with
  | nil => exact h
  | cons q m ih =>
    obtain ⟨k', v'⟩ := q
    unfold tdel at h
    split at h
    · exact List.mem_cons_of_mem _ h
    · rcases List.mem_cons.1 h with h | h
      · exact h ▸ List.mem_cons_self ..
      · exact List.mem_cons_of_mem _ (ih h)

theorem tput_sorted {α : Type} {m : SMap α} (h : sortedKeys m = true) (k : Nat) (v : α) :
    sortedKeys (tput m k v) = true := by
  induction m with
  | nil => rfl
  | cons q m ih =>
    obtain ⟨k', v'⟩ := q
    have hs := (sortedKeys_cons _ _).1 h
    unfold tput
    split
    · rename_i h1
      refine (sortedKeys_cons _ _).2 ⟨?_, h⟩
      intro r hr
      rcases List.mem_cons.1 hr with rfl | hr
      · exact h1
      · exact lt_trans h1 (hs.1 r hr)
    · split
      · rename_i h2
        subst h2
        exact (sortedKeys_cons _ _).2 hs
      · refine (sortedKeys_cons _ _).2 ⟨?_, ih hs.2⟩
        intro r hr
        rcases mem_tput hr with rfl | hr
        · show k' < k
          omega
        · exact hs.1 r hr

theorem tdel_sorted {α : Type} {m : SMap α} (h : sortedKeys m = true) (k : Nat) : sortedKeys (tdel m k) = true := by
  induction m with
  | nil => rfl
  | cons q m ih =>
    obtain ⟨k', v'⟩ := q
    have hs := (sortedKeys_cons _ _).1 h
    unfold tdel
    split
    · exact hs.2
    · exact (sortedKeys_cons _ _).2 ⟨fun r hr => hs.1 r (mem_tdel hr), ih hs.2⟩

theorem mset_sorted {α : Type} [DecidableEq α] (d : α) {m : SMap α} (h : sortedKeys m = true) (k : Nat) (v : α) :
    sortedKeys (mset d m k v) = true := by
  unfold mset
  split
  · exact tdel_sorted h k
  · exact tput_sorted h k v

theorem filter_sorted {α : Type} {m : SMap α} (h : sortedKeys m = true) (f : Nat × α → Bool) :
    sortedKeys (m.filter f) = true := by
  induction m with
  | nil => rfl
  | cons q m ih =>
    have hs := (sortedKeys_cons _ _).1 h
    rw [List.filter_cons]
    split
    · exact (sortedKeys_cons _ _).2 ⟨fun r hr => hs.1 r (List.mem_filter.1 hr).1, ih hs.2⟩
    · exact ih hs.2

theorem map_sorted {α β : Type} {m : SMap α} (h : sortedKeys m = true) (f : Nat × α → Nat × β) (hf : ∀ p, (f p).1 = p.1) :
    sortedKeys (m.map f) = true := by
  induction m with
  | nil => rfl
  | cons q m ih =>
    have hs := (sortedKeys_cons _ _).1 h
    refine (sortedKeys_cons _ _).2 ⟨?_, ih hs.2⟩
    intro r hr
    obtain ⟨x, hx, rfl⟩ := List.mem_map.1 hr
    rw [hf, hf]
    exact hs.1 x hx

/-- The canonical form: keys rising, and no entry that reads as an unlisted one. -/
theorem canonical_iff {α : Type} [DecidableEq α] (d : α) (m : SMap α) :
    canonical d m = true ↔ sortedKeys m = true ∧ ∀ p ∈ m, p.2 ≠ d := by
  simp [canonical]

theorem mset_canonical {α : Type} [DecidableEq α] (d : α) {m : SMap α} (h : canonical d m = true) (k : Nat) (v : α) :
    canonical d (mset d m k v) = true := by
  obtain ⟨h1, h2⟩ := (canonical_iff d m).1 h
  refine (canonical_iff d _).2 ⟨mset_sorted d h1 k v, ?_⟩
  intro p hp
  unfold mset at hp
  split at hp
  · exact h2 p (mem_tdel hp)
  · rcases mem_tput hp with rfl | hp
    · assumption
    · exact h2 p hp

theorem filter_canonical {α : Type} [DecidableEq α] (d : α) {m : SMap α} (h : canonical d m = true) (f : Nat × α → Bool) :
    canonical d (m.filter f) = true := by
  obtain ⟨h1, h2⟩ := (canonical_iff d m).1 h
  exact (canonical_iff d _).2 ⟨filter_sorted h1 f, fun p hp => h2 p (List.mem_filter.1 hp).1⟩

/-- Two canonical tables that read alike at every key are the same data. -/
theorem canonical_ext {α : Type} [DecidableEq α] (d : α) {m n : SMap α} (hm : canonical d m = true)
    (hn : canonical d n = true) (h : ∀ k, mget d m k = mget d n k) : m = n := by
  induction m generalizing n with
  | nil =>
    cases n with
    | nil => rfl
    | cons q n =>
      have h1 := h q.1
      simp only [mget, tfind, if_true, Option.getD_none, Option.getD_some] at h1
      exact absurd h1.symm (((canonical_iff d _).1 hn).2 q (List.mem_cons_self ..))
  | cons p m ih =>
    obtain ⟨hm1, hm2⟩ := (canonical_iff d _).1 hm
    have hms := (sortedKeys_cons _ _).1 hm1
    cases n with
    | nil =>
      have h1 := h p.1
      simp only [mget, tfind, if_true, Option.getD_none, Option.getD_some] at h1
      exact absurd h1 (hm2 p (List.mem_cons_self ..))
    | cons q n =>
      obtain ⟨hn1, hn2⟩ := (canonical_iff d _).1 hn
      have hns := (sortedKeys_cons _ _).1 hn1
      have keys : p.1 = q.1 := by
        rcases lt_trichotomy p.1 q.1 with hlt | heq | hgt
        · have h1 := h p.1
          have h2 : tfind (q :: n) p.1 = none := by
            simp only [tfind, if_neg (Nat.ne_of_lt hlt)]
            exact tfind_above hns.1 (le_of_lt hlt)
          have h3 : tfind (p :: m) p.1 = some p.2 := by simp [tfind]
          rw [mget, mget, h2, h3] at h1
          exact absurd h1 (hm2 p (List.mem_cons_self ..))
        · exact heq
        · have h1 := h q.1
          have h2 : tfind (p :: m) q.1 = none := by
            simp only [tfind, if_neg (Nat.ne_of_lt hgt)]
            exact tfind_above hms.1 (le_of_lt hgt)
          have h3 : tfind (q :: n) q.1 = some q.2 := by simp [tfind]
          rw [mget, mget, h2, h3] at h1
          exact absurd h1.symm (hn2 q (List.mem_cons_self ..))
      have vals : p.2 = q.2 := by
        have h1 := h p.1
        simpa only [mget, tfind, keys, if_true, Option.getD_some] using h1
      have hpq : p = q := Prod.ext keys vals
      subst hpq
      congr 1
      refine ih ((canonical_iff d m).2 ⟨hms.2, fun r hr => hm2 r (List.mem_cons_of_mem _ hr)⟩)
        ((canonical_iff d n).2 ⟨hns.2, fun r hr => hn2 r (List.mem_cons_of_mem _ hr)⟩) ?_
      intro k
      by_cases hk : k = p.1
      · subst hk
        simp only [mget, tfind_above hms.1 (le_refl _), tfind_above hns.1 (le_refl _)]
      · have h1 := h k
        simpa only [mget, tfind, if_neg hk] using h1

end Sys2Proof.Machine
end

