-- ==== Sys2Proof/Laws/State.lean ====
section
/-! SUPPORT. What each update of the state leaves alone: one lemma for each field and update. -/
namespace Sys2Proof.Machine
open Sys2Proof

/-! ### setReg -/

@[simp] theorem State.setReg_pending (s : State) (a v : Nat) : (s.setReg a v).pending = s.pending := rfl
@[simp] theorem State.setReg_later (s : State) (a v : Nat) : (s.setReg a v).later = s.later := rfl
@[simp] theorem State.setReg_mem (s : State) (a v : Nat) : (s.setReg a v).mem = s.mem := rfl
@[simp] theorem State.setReg_poison (s : State) (a v : Nat) : (s.setReg a v).poison = s.poison := rfl
@[simp] theorem State.setReg_hostMem (s : State) (a v : Nat) : (s.setReg a v).hostMem = s.hostMem := rfl
@[simp] theorem State.setReg_hostBad (s : State) (a v : Nat) : (s.setReg a v).hostBad = s.hostBad := rfl
@[simp] theorem State.setReg_free (s : State) (a v : Nat) : (s.setReg a v).free = s.free := rfl
@[simp] theorem State.setReg_cyc (s : State) (a v : Nat) : (s.setReg a v).cyc = s.cyc := rfl
@[simp] theorem State.setReg_time (s : State) (a v : Nat) : (s.setReg a v).time = s.time := rfl
@[simp] theorem State.setReg_bus (s : State) (a v : Nat) : (s.setReg a v).bus = s.bus := rfl
@[simp] theorem State.setReg_memu (s : State) (a v : Nat) : (s.setReg a v).memu = s.memu := rfl
@[simp] theorem State.setReg_xlt (s : State) (a v : Nat) : (s.setReg a v).xlt = s.xlt := rfl
@[simp] theorem State.setReg_rings (s : State) (a v : Nat) : (s.setReg a v).rings = s.rings := rfl
@[simp] theorem State.setReg_insts (s : State) (a v : Nat) : (s.setReg a v).insts = s.insts := rfl
@[simp] theorem State.setReg_warp (s : State) (a v : Nat) : (s.setReg a v).warp = s.warp := rfl
@[simp] theorem State.setReg_dom (s : State) (a v : Nat) : (s.setReg a v).dom = s.dom := rfl
@[simp] theorem State.setReg_til (s : State) (a v : Nat) : (s.setReg a v).til = s.til := rfl
@[simp] theorem State.setReg_rel (s : State) (a v : Nat) : (s.setReg a v).rel = s.rel := rfl
@[simp] theorem State.setReg_page (s : State) (a v : Nat) : (s.setReg a v).page = s.page := rfl
@[simp] theorem State.setReg_qp (s : State) (a v : Nat) : (s.setReg a v).qp = s.qp := rfl
@[simp] theorem State.setReg_net (s : State) (a v : Nat) : (s.setReg a v).net = s.net := rfl
@[simp] theorem State.setReg_col (s : State) (a v : Nat) : (s.setReg a v).col = s.col := rfl
@[simp] theorem State.setReg_sec (s : State) (a v : Nat) : (s.setReg a v).sec = s.sec := rfl
@[simp] theorem State.setReg_pow (s : State) (a v : Nat) : (s.setReg a v).pow = s.pow := rfl
@[simp] theorem State.setReg_trc (s : State) (a v : Nat) : (s.setReg a v).trc = s.trc := rfl

/-! ### put -/

@[simp] theorem State.put_pending (s : State) (f : RegFld) (v : Nat) : (s.put f v).pending = s.pending := rfl
@[simp] theorem State.put_later (s : State) (f : RegFld) (v : Nat) : (s.put f v).later = s.later := rfl
@[simp] theorem State.put_mem (s : State) (f : RegFld) (v : Nat) : (s.put f v).mem = s.mem := rfl
@[simp] theorem State.put_poison (s : State) (f : RegFld) (v : Nat) : (s.put f v).poison = s.poison := rfl
@[simp] theorem State.put_hostMem (s : State) (f : RegFld) (v : Nat) : (s.put f v).hostMem = s.hostMem := rfl
@[simp] theorem State.put_hostBad (s : State) (f : RegFld) (v : Nat) : (s.put f v).hostBad = s.hostBad := rfl
@[simp] theorem State.put_free (s : State) (f : RegFld) (v : Nat) : (s.put f v).free = s.free := rfl
@[simp] theorem State.put_cyc (s : State) (f : RegFld) (v : Nat) : (s.put f v).cyc = s.cyc := rfl
@[simp] theorem State.put_time (s : State) (f : RegFld) (v : Nat) : (s.put f v).time = s.time := rfl
@[simp] theorem State.put_bus (s : State) (f : RegFld) (v : Nat) : (s.put f v).bus = s.bus := rfl
@[simp] theorem State.put_memu (s : State) (f : RegFld) (v : Nat) : (s.put f v).memu = s.memu := rfl
@[simp] theorem State.put_xlt (s : State) (f : RegFld) (v : Nat) : (s.put f v).xlt = s.xlt := rfl
@[simp] theorem State.put_rings (s : State) (f : RegFld) (v : Nat) : (s.put f v).rings = s.rings := rfl
@[simp] theorem State.put_insts (s : State) (f : RegFld) (v : Nat) : (s.put f v).insts = s.insts := rfl
@[simp] theorem State.put_warp (s : State) (f : RegFld) (v : Nat) : (s.put f v).warp = s.warp := rfl
@[simp] theorem State.put_dom (s : State) (f : RegFld) (v : Nat) : (s.put f v).dom = s.dom := rfl
@[simp] theorem State.put_til (s : State) (f : RegFld) (v : Nat) : (s.put f v).til = s.til := rfl
@[simp] theorem State.put_rel (s : State) (f : RegFld) (v : Nat) : (s.put f v).rel = s.rel := rfl
@[simp] theorem State.put_page (s : State) (f : RegFld) (v : Nat) : (s.put f v).page = s.page := rfl
@[simp] theorem State.put_qp (s : State) (f : RegFld) (v : Nat) : (s.put f v).qp = s.qp := rfl
@[simp] theorem State.put_net (s : State) (f : RegFld) (v : Nat) : (s.put f v).net = s.net := rfl
@[simp] theorem State.put_col (s : State) (f : RegFld) (v : Nat) : (s.put f v).col = s.col := rfl
@[simp] theorem State.put_sec (s : State) (f : RegFld) (v : Nat) : (s.put f v).sec = s.sec := rfl
@[simp] theorem State.put_pow (s : State) (f : RegFld) (v : Nat) : (s.put f v).pow = s.pow := rfl
@[simp] theorem State.put_trc (s : State) (f : RegFld) (v : Nat) : (s.put f v).trc = s.trc := rfl

/-! ### setLater -/

@[simp] theorem State.setLater_pending (s : State) (a v : Nat) : (s.setLater a v).pending = s.pending := rfl
@[simp] theorem State.setLater_csr (s : State) (a v : Nat) : (s.setLater a v).csr = s.csr := rfl
@[simp] theorem State.setLater_mem (s : State) (a v : Nat) : (s.setLater a v).mem = s.mem := rfl
@[simp] theorem State.setLater_poison (s : State) (a v : Nat) : (s.setLater a v).poison = s.poison := rfl
@[simp] theorem State.setLater_hostMem (s : State) (a v : Nat) : (s.setLater a v).hostMem = s.hostMem := rfl
@[simp] theorem State.setLater_hostBad (s : State) (a v : Nat) : (s.setLater a v).hostBad = s.hostBad := rfl
@[simp] theorem State.setLater_free (s : State) (a v : Nat) : (s.setLater a v).free = s.free := rfl
@[simp] theorem State.setLater_cyc (s : State) (a v : Nat) : (s.setLater a v).cyc = s.cyc := rfl
@[simp] theorem State.setLater_time (s : State) (a v : Nat) : (s.setLater a v).time = s.time := rfl
@[simp] theorem State.setLater_bus (s : State) (a v : Nat) : (s.setLater a v).bus = s.bus := rfl
@[simp] theorem State.setLater_memu (s : State) (a v : Nat) : (s.setLater a v).memu = s.memu := rfl
@[simp] theorem State.setLater_xlt (s : State) (a v : Nat) : (s.setLater a v).xlt = s.xlt := rfl
@[simp] theorem State.setLater_rings (s : State) (a v : Nat) : (s.setLater a v).rings = s.rings := rfl
@[simp] theorem State.setLater_insts (s : State) (a v : Nat) : (s.setLater a v).insts = s.insts := rfl
@[simp] theorem State.setLater_warp (s : State) (a v : Nat) : (s.setLater a v).warp = s.warp := rfl
@[simp] theorem State.setLater_dom (s : State) (a v : Nat) : (s.setLater a v).dom = s.dom := rfl
@[simp] theorem State.setLater_til (s : State) (a v : Nat) : (s.setLater a v).til = s.til := rfl
@[simp] theorem State.setLater_rel (s : State) (a v : Nat) : (s.setLater a v).rel = s.rel := rfl
@[simp] theorem State.setLater_page (s : State) (a v : Nat) : (s.setLater a v).page = s.page := rfl
@[simp] theorem State.setLater_qp (s : State) (a v : Nat) : (s.setLater a v).qp = s.qp := rfl
@[simp] theorem State.setLater_net (s : State) (a v : Nat) : (s.setLater a v).net = s.net := rfl
@[simp] theorem State.setLater_col (s : State) (a v : Nat) : (s.setLater a v).col = s.col := rfl
@[simp] theorem State.setLater_sec (s : State) (a v : Nat) : (s.setLater a v).sec = s.sec := rfl
@[simp] theorem State.setLater_pow (s : State) (a v : Nat) : (s.setLater a v).pow = s.pow := rfl
@[simp] theorem State.setLater_trc (s : State) (a v : Nat) : (s.setLater a v).trc = s.trc := rfl

/-! ### raise -/

@[simp] theorem State.raise_pending (s : State) (f : RegFld) : (s.raise f).pending = s.pending := rfl
@[simp] theorem State.raise_later (s : State) (f : RegFld) : (s.raise f).later = s.later := rfl
@[simp] theorem State.raise_mem (s : State) (f : RegFld) : (s.raise f).mem = s.mem := rfl
@[simp] theorem State.raise_poison (s : State) (f : RegFld) : (s.raise f).poison = s.poison := rfl
@[simp] theorem State.raise_hostMem (s : State) (f : RegFld) : (s.raise f).hostMem = s.hostMem := rfl
@[simp] theorem State.raise_hostBad (s : State) (f : RegFld) : (s.raise f).hostBad = s.hostBad := rfl
@[simp] theorem State.raise_free (s : State) (f : RegFld) : (s.raise f).free = s.free := rfl
@[simp] theorem State.raise_cyc (s : State) (f : RegFld) : (s.raise f).cyc = s.cyc := rfl
@[simp] theorem State.raise_time (s : State) (f : RegFld) : (s.raise f).time = s.time := rfl
@[simp] theorem State.raise_bus (s : State) (f : RegFld) : (s.raise f).bus = s.bus := rfl
@[simp] theorem State.raise_memu (s : State) (f : RegFld) : (s.raise f).memu = s.memu := rfl
@[simp] theorem State.raise_xlt (s : State) (f : RegFld) : (s.raise f).xlt = s.xlt := rfl
@[simp] theorem State.raise_rings (s : State) (f : RegFld) : (s.raise f).rings = s.rings := rfl
@[simp] theorem State.raise_insts (s : State) (f : RegFld) : (s.raise f).insts = s.insts := rfl
@[simp] theorem State.raise_warp (s : State) (f : RegFld) : (s.raise f).warp = s.warp := rfl
@[simp] theorem State.raise_dom (s : State) (f : RegFld) : (s.raise f).dom = s.dom := rfl
@[simp] theorem State.raise_til (s : State) (f : RegFld) : (s.raise f).til = s.til := rfl
@[simp] theorem State.raise_rel (s : State) (f : RegFld) : (s.raise f).rel = s.rel := rfl
@[simp] theorem State.raise_page (s : State) (f : RegFld) : (s.raise f).page = s.page := rfl
@[simp] theorem State.raise_qp (s : State) (f : RegFld) : (s.raise f).qp = s.qp := rfl
@[simp] theorem State.raise_net (s : State) (f : RegFld) : (s.raise f).net = s.net := rfl
@[simp] theorem State.raise_col (s : State) (f : RegFld) : (s.raise f).col = s.col := rfl
@[simp] theorem State.raise_sec (s : State) (f : RegFld) : (s.raise f).sec = s.sec := rfl
@[simp] theorem State.raise_pow (s : State) (f : RegFld) : (s.raise f).pow = s.pow := rfl
@[simp] theorem State.raise_trc (s : State) (f : RegFld) : (s.raise f).trc = s.trc := rfl

/-! ### raiseIf -/

@[simp] theorem State.raiseIf_pending (s : State) (c : Bool) (f : RegFld) : (s.raiseIf c f).pending = s.pending := by unfold State.raiseIf; split <;> rfl
@[simp] theorem State.raiseIf_later (s : State) (c : Bool) (f : RegFld) : (s.raiseIf c f).later = s.later := by unfold State.raiseIf; split <;> rfl
@[simp] theorem State.raiseIf_mem (s : State) (c : Bool) (f : RegFld) : (s.raiseIf c f).mem = s.mem := by unfold State.raiseIf; split <;> rfl
@[simp] theorem State.raiseIf_poison (s : State) (c : Bool) (f : RegFld) : (s.raiseIf c f).poison = s.poison := by unfold State.raiseIf; split <;> rfl
@[simp] theorem State.raiseIf_hostMem (s : State) (c : Bool) (f : RegFld) : (s.raiseIf c f).hostMem = s.hostMem := by unfold State.raiseIf; split <;> rfl
@[simp] theorem State.raiseIf_hostBad (s : State) (c : Bool) (f : RegFld) : (s.raiseIf c f).hostBad = s.hostBad := by unfold State.raiseIf; split <;> rfl
@[simp] theorem State.raiseIf_free (s : State) (c : Bool) (f : RegFld) : (s.raiseIf c f).free = s.free := by unfold State.raiseIf; split <;> rfl
@[simp] theorem State.raiseIf_cyc (s : State) (c : Bool) (f : RegFld) : (s.raiseIf c f).cyc = s.cyc := by unfold State.raiseIf; split <;> rfl
@[simp] theorem State.raiseIf_time (s : State) (c : Bool) (f : RegFld) : (s.raiseIf c f).time = s.time := by unfold State.raiseIf; split <;> rfl
@[simp] theorem State.raiseIf_bus (s : State) (c : Bool) (f : RegFld) : (s.raiseIf c f).bus = s.bus := by unfold State.raiseIf; split <;> rfl
@[simp] theorem State.raiseIf_memu (s : State) (c : Bool) (f : RegFld) : (s.raiseIf c f).memu = s.memu := by unfold State.raiseIf; split <;> rfl
@[simp] theorem State.raiseIf_xlt (s : State) (c : Bool) (f : RegFld) : (s.raiseIf c f).xlt = s.xlt := by unfold State.raiseIf; split <;> rfl
@[simp] theorem State.raiseIf_rings (s : State) (c : Bool) (f : RegFld) : (s.raiseIf c f).rings = s.rings := by unfold State.raiseIf; split <;> rfl
@[simp] theorem State.raiseIf_insts (s : State) (c : Bool) (f : RegFld) : (s.raiseIf c f).insts = s.insts := by unfold State.raiseIf; split <;> rfl
@[simp] theorem State.raiseIf_warp (s : State) (c : Bool) (f : RegFld) : (s.raiseIf c f).warp = s.warp := by unfold State.raiseIf; split <;> rfl
@[simp] theorem State.raiseIf_dom (s : State) (c : Bool) (f : RegFld) : (s.raiseIf c f).dom = s.dom := by unfold State.raiseIf; split <;> rfl
@[simp] theorem State.raiseIf_til (s : State) (c : Bool) (f : RegFld) : (s.raiseIf c f).til = s.til := by unfold State.raiseIf; split <;> rfl
@[simp] theorem State.raiseIf_rel (s : State) (c : Bool) (f : RegFld) : (s.raiseIf c f).rel = s.rel := by unfold State.raiseIf; split <;> rfl
@[simp] theorem State.raiseIf_page (s : State) (c : Bool) (f : RegFld) : (s.raiseIf c f).page = s.page := by unfold State.raiseIf; split <;> rfl
@[simp] theorem State.raiseIf_qp (s : State) (c : Bool) (f : RegFld) : (s.raiseIf c f).qp = s.qp := by unfold State.raiseIf; split <;> rfl
@[simp] theorem State.raiseIf_net (s : State) (c : Bool) (f : RegFld) : (s.raiseIf c f).net = s.net := by unfold State.raiseIf; split <;> rfl
@[simp] theorem State.raiseIf_col (s : State) (c : Bool) (f : RegFld) : (s.raiseIf c f).col = s.col := by unfold State.raiseIf; split <;> rfl
@[simp] theorem State.raiseIf_sec (s : State) (c : Bool) (f : RegFld) : (s.raiseIf c f).sec = s.sec := by unfold State.raiseIf; split <;> rfl
@[simp] theorem State.raiseIf_pow (s : State) (c : Bool) (f : RegFld) : (s.raiseIf c f).pow = s.pow := by unfold State.raiseIf; split <;> rfl
@[simp] theorem State.raiseIf_trc (s : State) (c : Bool) (f : RegFld) : (s.raiseIf c f).trc = s.trc := by unfold State.raiseIf; split <;> rfl

/-! ### bump -/

@[simp] theorem State.bump_pending (s : State) (f : RegFld) (n : Nat) : (s.bump f n).pending = s.pending := rfl
@[simp] theorem State.bump_later (s : State) (f : RegFld) (n : Nat) : (s.bump f n).later = s.later := rfl
@[simp] theorem State.bump_mem (s : State) (f : RegFld) (n : Nat) : (s.bump f n).mem = s.mem := rfl
@[simp] theorem State.bump_poison (s : State) (f : RegFld) (n : Nat) : (s.bump f n).poison = s.poison := rfl
@[simp] theorem State.bump_hostMem (s : State) (f : RegFld) (n : Nat) : (s.bump f n).hostMem = s.hostMem := rfl
@[simp] theorem State.bump_hostBad (s : State) (f : RegFld) (n : Nat) : (s.bump f n).hostBad = s.hostBad := rfl
@[simp] theorem State.bump_free (s : State) (f : RegFld) (n : Nat) : (s.bump f n).free = s.free := rfl
@[simp] theorem State.bump_cyc (s : State) (f : RegFld) (n : Nat) : (s.bump f n).cyc = s.cyc := rfl
@[simp] theorem State.bump_time (s : State) (f : RegFld) (n : Nat) : (s.bump f n).time = s.time := rfl
@[simp] theorem State.bump_bus (s : State) (f : RegFld) (n : Nat) : (s.bump f n).bus = s.bus := rfl
@[simp] theorem State.bump_memu (s : State) (f : RegFld) (n : Nat) : (s.bump f n).memu = s.memu := rfl
@[simp] theorem State.bump_xlt (s : State) (f : RegFld) (n : Nat) : (s.bump f n).xlt = s.xlt := rfl
@[simp] theorem State.bump_rings (s : State) (f : RegFld) (n : Nat) : (s.bump f n).rings = s.rings := rfl
@[simp] theorem State.bump_insts (s : State) (f : RegFld) (n : Nat) : (s.bump f n).insts = s.insts := rfl
@[simp] theorem State.bump_warp (s : State) (f : RegFld) (n : Nat) : (s.bump f n).warp = s.warp := rfl
@[simp] theorem State.bump_dom (s : State) (f : RegFld) (n : Nat) : (s.bump f n).dom = s.dom := rfl
@[simp] theorem State.bump_til (s : State) (f : RegFld) (n : Nat) : (s.bump f n).til = s.til := rfl
@[simp] theorem State.bump_rel (s : State) (f : RegFld) (n : Nat) : (s.bump f n).rel = s.rel := rfl
@[simp] theorem State.bump_page (s : State) (f : RegFld) (n : Nat) : (s.bump f n).page = s.page := rfl
@[simp] theorem State.bump_qp (s : State) (f : RegFld) (n : Nat) : (s.bump f n).qp = s.qp := rfl
@[simp] theorem State.bump_net (s : State) (f : RegFld) (n : Nat) : (s.bump f n).net = s.net := rfl
@[simp] theorem State.bump_col (s : State) (f : RegFld) (n : Nat) : (s.bump f n).col = s.col := rfl
@[simp] theorem State.bump_sec (s : State) (f : RegFld) (n : Nat) : (s.bump f n).sec = s.sec := rfl
@[simp] theorem State.bump_pow (s : State) (f : RegFld) (n : Nat) : (s.bump f n).pow = s.pow := rfl
@[simp] theorem State.bump_trc (s : State) (f : RegFld) (n : Nat) : (s.bump f n).trc = s.trc := rfl

/-! ### tick -/

@[simp] theorem State.tick_pending (s : State) : (s.tick).pending = s.pending := rfl
@[simp] theorem State.tick_csr (s : State) : (s.tick).csr = s.csr := rfl
@[simp] theorem State.tick_later (s : State) : (s.tick).later = s.later := rfl
@[simp] theorem State.tick_mem (s : State) : (s.tick).mem = s.mem := rfl
@[simp] theorem State.tick_poison (s : State) : (s.tick).poison = s.poison := rfl
@[simp] theorem State.tick_hostMem (s : State) : (s.tick).hostMem = s.hostMem := rfl
@[simp] theorem State.tick_hostBad (s : State) : (s.tick).hostBad = s.hostBad := rfl
@[simp] theorem State.tick_cyc (s : State) : (s.tick).cyc = s.cyc := rfl
@[simp] theorem State.tick_time (s : State) : (s.tick).time = s.time := rfl
@[simp] theorem State.tick_bus (s : State) : (s.tick).bus = s.bus := rfl
@[simp] theorem State.tick_memu (s : State) : (s.tick).memu = s.memu := rfl
@[simp] theorem State.tick_xlt (s : State) : (s.tick).xlt = s.xlt := rfl
@[simp] theorem State.tick_rings (s : State) : (s.tick).rings = s.rings := rfl
@[simp] theorem State.tick_insts (s : State) : (s.tick).insts = s.insts := rfl
@[simp] theorem State.tick_warp (s : State) : (s.tick).warp = s.warp := rfl
@[simp] theorem State.tick_dom (s : State) : (s.tick).dom = s.dom := rfl
@[simp] theorem State.tick_til (s : State) : (s.tick).til = s.til := rfl
@[simp] theorem State.tick_rel (s : State) : (s.tick).rel = s.rel := rfl
@[simp] theorem State.tick_page (s : State) : (s.tick).page = s.page := rfl
@[simp] theorem State.tick_qp (s : State) : (s.tick).qp = s.qp := rfl
@[simp] theorem State.tick_net (s : State) : (s.tick).net = s.net := rfl
@[simp] theorem State.tick_col (s : State) : (s.tick).col = s.col := rfl
@[simp] theorem State.tick_sec (s : State) : (s.tick).sec = s.sec := rfl
@[simp] theorem State.tick_pow (s : State) : (s.tick).pow = s.pow := rfl
@[simp] theorem State.tick_trc (s : State) : (s.tick).trc = s.trc := rfl

/-! ### setByte -/

@[simp] theorem State.setByte_pending (s : State) (a : Nat) (b : Byte) : (s.setByte a b).pending = s.pending := rfl
@[simp] theorem State.setByte_csr (s : State) (a : Nat) (b : Byte) : (s.setByte a b).csr = s.csr := rfl
@[simp] theorem State.setByte_poison (s : State) (a : Nat) (b : Byte) : (s.setByte a b).poison = s.poison := rfl
@[simp] theorem State.setByte_hostMem (s : State) (a : Nat) (b : Byte) : (s.setByte a b).hostMem = s.hostMem := rfl
@[simp] theorem State.setByte_hostBad (s : State) (a : Nat) (b : Byte) : (s.setByte a b).hostBad = s.hostBad := rfl
@[simp] theorem State.setByte_free (s : State) (a : Nat) (b : Byte) : (s.setByte a b).free = s.free := rfl
@[simp] theorem State.setByte_cyc (s : State) (a : Nat) (b : Byte) : (s.setByte a b).cyc = s.cyc := rfl
@[simp] theorem State.setByte_time (s : State) (a : Nat) (b : Byte) : (s.setByte a b).time = s.time := rfl
@[simp] theorem State.setByte_bus (s : State) (a : Nat) (b : Byte) : (s.setByte a b).bus = s.bus := rfl
@[simp] theorem State.setByte_memu (s : State) (a : Nat) (b : Byte) : (s.setByte a b).memu = s.memu := rfl
@[simp] theorem State.setByte_xlt (s : State) (a : Nat) (b : Byte) : (s.setByte a b).xlt = s.xlt := rfl
@[simp] theorem State.setByte_rings (s : State) (a : Nat) (b : Byte) : (s.setByte a b).rings = s.rings := rfl
@[simp] theorem State.setByte_insts (s : State) (a : Nat) (b : Byte) : (s.setByte a b).insts = s.insts := rfl
@[simp] theorem State.setByte_warp (s : State) (a : Nat) (b : Byte) : (s.setByte a b).warp = s.warp := rfl
@[simp] theorem State.setByte_dom (s : State) (a : Nat) (b : Byte) : (s.setByte a b).dom = s.dom := rfl
@[simp] theorem State.setByte_til (s : State) (a : Nat) (b : Byte) : (s.setByte a b).til = s.til := rfl
@[simp] theorem State.setByte_rel (s : State) (a : Nat) (b : Byte) : (s.setByte a b).rel = s.rel := rfl
@[simp] theorem State.setByte_page (s : State) (a : Nat) (b : Byte) : (s.setByte a b).page = s.page := rfl
@[simp] theorem State.setByte_qp (s : State) (a : Nat) (b : Byte) : (s.setByte a b).qp = s.qp := rfl
@[simp] theorem State.setByte_net (s : State) (a : Nat) (b : Byte) : (s.setByte a b).net = s.net := rfl
@[simp] theorem State.setByte_col (s : State) (a : Nat) (b : Byte) : (s.setByte a b).col = s.col := rfl
@[simp] theorem State.setByte_sec (s : State) (a : Nat) (b : Byte) : (s.setByte a b).sec = s.sec := rfl
@[simp] theorem State.setByte_pow (s : State) (a : Nat) (b : Byte) : (s.setByte a b).pow = s.pow := rfl
@[simp] theorem State.setByte_trc (s : State) (a : Nat) (b : Byte) : (s.setByte a b).trc = s.trc := rfl

/-! ### setBytes -/

@[simp] theorem State.setBytes_pending (s : State) (a : Nat) (l : List Byte) : (s.setBytes a l).pending = s.pending := by
  induction l generalizing s a with
  | nil => rfl
  | cons b l ih => exact (ih (s.setByte a b) (a + 1)).trans rfl
@[simp] theorem State.setBytes_csr (s : State) (a : Nat) (l : List Byte) : (s.setBytes a l).csr = s.csr := by
  induction l generalizing s a with
  | nil => rfl
  | cons b l ih => exact (ih (s.setByte a b) (a + 1)).trans rfl
@[simp] theorem State.setBytes_poison (s : State) (a : Nat) (l : List Byte) : (s.setBytes a l).poison = s.poison := by
  induction l generalizing s a with
  | nil => rfl
  | cons b l ih => exact (ih (s.setByte a b) (a + 1)).trans rfl
@[simp] theorem State.setBytes_hostMem (s : State) (a : Nat) (l : List Byte) : (s.setBytes a l).hostMem = s.hostMem := by
  induction l generalizing s a with
  | nil => rfl
  | cons b l ih => exact (ih (s.setByte a b) (a + 1)).trans rfl
@[simp] theorem State.setBytes_hostBad (s : State) (a : Nat) (l : List Byte) : (s.setBytes a l).hostBad = s.hostBad := by
  induction l generalizing s a with
  | nil => rfl
  | cons b l ih => exact (ih (s.setByte a b) (a + 1)).trans rfl
@[simp] theorem State.setBytes_free (s : State) (a : Nat) (l : List Byte) : (s.setBytes a l).free = s.free := by
  induction l generalizing s a with
  | nil => rfl
  | cons b l ih => exact (ih (s.setByte a b) (a + 1)).trans rfl
@[simp] theorem State.setBytes_cyc (s : State) (a : Nat) (l : List Byte) : (s.setBytes a l).cyc = s.cyc := by
  induction l generalizing s a with
  | nil => rfl
  | cons b l ih => exact (ih (s.setByte a b) (a + 1)).trans rfl
@[simp] theorem State.setBytes_time (s : State) (a : Nat) (l : List Byte) : (s.setBytes a l).time = s.time := by
  induction l generalizing s a with
  | nil => rfl
  | cons b l ih => exact (ih (s.setByte a b) (a + 1)).trans rfl
@[simp] theorem State.setBytes_bus (s : State) (a : Nat) (l : List Byte) : (s.setBytes a l).bus = s.bus := by
  induction l generalizing s a with
  | nil => rfl
  | cons b l ih => exact (ih (s.setByte a b) (a + 1)).trans rfl
@[simp] theorem State.setBytes_memu (s : State) (a : Nat) (l : List Byte) : (s.setBytes a l).memu = s.memu := by
  induction l generalizing s a with
  | nil => rfl
  | cons b l ih => exact (ih (s.setByte a b) (a + 1)).trans rfl
@[simp] theorem State.setBytes_xlt (s : State) (a : Nat) (l : List Byte) : (s.setBytes a l).xlt = s.xlt := by
  induction l generalizing s a with
  | nil => rfl
  | cons b l ih => exact (ih (s.setByte a b) (a + 1)).trans rfl
@[simp] theorem State.setBytes_rings (s : State) (a : Nat) (l : List Byte) : (s.setBytes a l).rings = s.rings := by
  induction l generalizing s a with
  | nil => rfl
  | cons b l ih => exact (ih (s.setByte a b) (a + 1)).trans rfl
@[simp] theorem State.setBytes_insts (s : State) (a : Nat) (l : List Byte) : (s.setBytes a l).insts = s.insts := by
  induction l generalizing s a with
  | nil => rfl
  | cons b l ih => exact (ih (s.setByte a b) (a + 1)).trans rfl
@[simp] theorem State.setBytes_warp (s : State) (a : Nat) (l : List Byte) : (s.setBytes a l).warp = s.warp := by
  induction l generalizing s a with
  | nil => rfl
  | cons b l ih => exact (ih (s.setByte a b) (a + 1)).trans rfl
@[simp] theorem State.setBytes_dom (s : State) (a : Nat) (l : List Byte) : (s.setBytes a l).dom = s.dom := by
  induction l generalizing s a with
  | nil => rfl
  | cons b l ih => exact (ih (s.setByte a b) (a + 1)).trans rfl
@[simp] theorem State.setBytes_til (s : State) (a : Nat) (l : List Byte) : (s.setBytes a l).til = s.til := by
  induction l generalizing s a with
  | nil => rfl
  | cons b l ih => exact (ih (s.setByte a b) (a + 1)).trans rfl
@[simp] theorem State.setBytes_rel (s : State) (a : Nat) (l : List Byte) : (s.setBytes a l).rel = s.rel := by
  induction l generalizing s a with
  | nil => rfl
  | cons b l ih => exact (ih (s.setByte a b) (a + 1)).trans rfl
@[simp] theorem State.setBytes_page (s : State) (a : Nat) (l : List Byte) : (s.setBytes a l).page = s.page := by
  induction l generalizing s a with
  | nil => rfl
  | cons b l ih => exact (ih (s.setByte a b) (a + 1)).trans rfl
@[simp] theorem State.setBytes_qp (s : State) (a : Nat) (l : List Byte) : (s.setBytes a l).qp = s.qp := by
  induction l generalizing s a with
  | nil => rfl
  | cons b l ih => exact (ih (s.setByte a b) (a + 1)).trans rfl
@[simp] theorem State.setBytes_net (s : State) (a : Nat) (l : List Byte) : (s.setBytes a l).net = s.net := by
  induction l generalizing s a with
  | nil => rfl
  | cons b l ih => exact (ih (s.setByte a b) (a + 1)).trans rfl
@[simp] theorem State.setBytes_col (s : State) (a : Nat) (l : List Byte) : (s.setBytes a l).col = s.col := by
  induction l generalizing s a with
  | nil => rfl
  | cons b l ih => exact (ih (s.setByte a b) (a + 1)).trans rfl
@[simp] theorem State.setBytes_sec (s : State) (a : Nat) (l : List Byte) : (s.setBytes a l).sec = s.sec := by
  induction l generalizing s a with
  | nil => rfl
  | cons b l ih => exact (ih (s.setByte a b) (a + 1)).trans rfl
@[simp] theorem State.setBytes_pow (s : State) (a : Nat) (l : List Byte) : (s.setBytes a l).pow = s.pow := by
  induction l generalizing s a with
  | nil => rfl
  | cons b l ih => exact (ih (s.setByte a b) (a + 1)).trans rfl
@[simp] theorem State.setBytes_trc (s : State) (a : Nat) (l : List Byte) : (s.setBytes a l).trc = s.trc := by
  induction l generalizing s a with
  | nil => rfl
  | cons b l ih => exact (ih (s.setByte a b) (a + 1)).trans rfl

/-! ### setPoison -/

@[simp] theorem State.setPoison_pending (s : State) (a : Nat) (p : Bool) : (s.setPoison a p).pending = s.pending := rfl
@[simp] theorem State.setPoison_csr (s : State) (a : Nat) (p : Bool) : (s.setPoison a p).csr = s.csr := rfl
@[simp] theorem State.setPoison_later (s : State) (a : Nat) (p : Bool) : (s.setPoison a p).later = s.later := rfl
@[simp] theorem State.setPoison_mem (s : State) (a : Nat) (p : Bool) : (s.setPoison a p).mem = s.mem := rfl
@[simp] theorem State.setPoison_hostMem (s : State) (a : Nat) (p : Bool) : (s.setPoison a p).hostMem = s.hostMem := rfl
@[simp] theorem State.setPoison_hostBad (s : State) (a : Nat) (p : Bool) : (s.setPoison a p).hostBad = s.hostBad := rfl
@[simp] theorem State.setPoison_free (s : State) (a : Nat) (p : Bool) : (s.setPoison a p).free = s.free := rfl
@[simp] theorem State.setPoison_cyc (s : State) (a : Nat) (p : Bool) : (s.setPoison a p).cyc = s.cyc := rfl
@[simp] theorem State.setPoison_time (s : State) (a : Nat) (p : Bool) : (s.setPoison a p).time = s.time := rfl
@[simp] theorem State.setPoison_bus (s : State) (a : Nat) (p : Bool) : (s.setPoison a p).bus = s.bus := rfl
@[simp] theorem State.setPoison_memu (s : State) (a : Nat) (p : Bool) : (s.setPoison a p).memu = s.memu := rfl
@[simp] theorem State.setPoison_xlt (s : State) (a : Nat) (p : Bool) : (s.setPoison a p).xlt = s.xlt := rfl
@[simp] theorem State.setPoison_rings (s : State) (a : Nat) (p : Bool) : (s.setPoison a p).rings = s.rings := rfl
@[simp] theorem State.setPoison_insts (s : State) (a : Nat) (p : Bool) : (s.setPoison a p).insts = s.insts := rfl
@[simp] theorem State.setPoison_warp (s : State) (a : Nat) (p : Bool) : (s.setPoison a p).warp = s.warp := rfl
@[simp] theorem State.setPoison_dom (s : State) (a : Nat) (p : Bool) : (s.setPoison a p).dom = s.dom := rfl
@[simp] theorem State.setPoison_til (s : State) (a : Nat) (p : Bool) : (s.setPoison a p).til = s.til := rfl
@[simp] theorem State.setPoison_rel (s : State) (a : Nat) (p : Bool) : (s.setPoison a p).rel = s.rel := rfl
@[simp] theorem State.setPoison_page (s : State) (a : Nat) (p : Bool) : (s.setPoison a p).page = s.page := rfl
@[simp] theorem State.setPoison_qp (s : State) (a : Nat) (p : Bool) : (s.setPoison a p).qp = s.qp := rfl
@[simp] theorem State.setPoison_net (s : State) (a : Nat) (p : Bool) : (s.setPoison a p).net = s.net := rfl
@[simp] theorem State.setPoison_col (s : State) (a : Nat) (p : Bool) : (s.setPoison a p).col = s.col := rfl
@[simp] theorem State.setPoison_sec (s : State) (a : Nat) (p : Bool) : (s.setPoison a p).sec = s.sec := rfl
@[simp] theorem State.setPoison_pow (s : State) (a : Nat) (p : Bool) : (s.setPoison a p).pow = s.pow := rfl
@[simp] theorem State.setPoison_trc (s : State) (a : Nat) (p : Bool) : (s.setPoison a p).trc = s.trc := rfl

/-! ### setTraceSlot -/

@[simp] theorem State.setTraceSlot_pending (s : State) (k : Nat) (x : TrcSlot) : (s.setTraceSlot k x).pending = s.pending := rfl
@[simp] theorem State.setTraceSlot_csr (s : State) (k : Nat) (x : TrcSlot) : (s.setTraceSlot k x).csr = s.csr := rfl
@[simp] theorem State.setTraceSlot_later (s : State) (k : Nat) (x : TrcSlot) : (s.setTraceSlot k x).later = s.later := rfl
@[simp] theorem State.setTraceSlot_mem (s : State) (k : Nat) (x : TrcSlot) : (s.setTraceSlot k x).mem = s.mem := rfl
@[simp] theorem State.setTraceSlot_poison (s : State) (k : Nat) (x : TrcSlot) : (s.setTraceSlot k x).poison = s.poison := rfl
@[simp] theorem State.setTraceSlot_hostMem (s : State) (k : Nat) (x : TrcSlot) : (s.setTraceSlot k x).hostMem = s.hostMem := rfl
@[simp] theorem State.setTraceSlot_hostBad (s : State) (k : Nat) (x : TrcSlot) : (s.setTraceSlot k x).hostBad = s.hostBad := rfl
@[simp] theorem State.setTraceSlot_free (s : State) (k : Nat) (x : TrcSlot) : (s.setTraceSlot k x).free = s.free := rfl
@[simp] theorem State.setTraceSlot_cyc (s : State) (k : Nat) (x : TrcSlot) : (s.setTraceSlot k x).cyc = s.cyc := rfl
@[simp] theorem State.setTraceSlot_time (s : State) (k : Nat) (x : TrcSlot) : (s.setTraceSlot k x).time = s.time := rfl
@[simp] theorem State.setTraceSlot_bus (s : State) (k : Nat) (x : TrcSlot) : (s.setTraceSlot k x).bus = s.bus := rfl
@[simp] theorem State.setTraceSlot_memu (s : State) (k : Nat) (x : TrcSlot) : (s.setTraceSlot k x).memu = s.memu := rfl
@[simp] theorem State.setTraceSlot_xlt (s : State) (k : Nat) (x : TrcSlot) : (s.setTraceSlot k x).xlt = s.xlt := rfl
@[simp] theorem State.setTraceSlot_rings (s : State) (k : Nat) (x : TrcSlot) : (s.setTraceSlot k x).rings = s.rings := rfl
@[simp] theorem State.setTraceSlot_insts (s : State) (k : Nat) (x : TrcSlot) : (s.setTraceSlot k x).insts = s.insts := rfl
@[simp] theorem State.setTraceSlot_warp (s : State) (k : Nat) (x : TrcSlot) : (s.setTraceSlot k x).warp = s.warp := rfl
@[simp] theorem State.setTraceSlot_dom (s : State) (k : Nat) (x : TrcSlot) : (s.setTraceSlot k x).dom = s.dom := rfl
@[simp] theorem State.setTraceSlot_til (s : State) (k : Nat) (x : TrcSlot) : (s.setTraceSlot k x).til = s.til := rfl
@[simp] theorem State.setTraceSlot_rel (s : State) (k : Nat) (x : TrcSlot) : (s.setTraceSlot k x).rel = s.rel := rfl
@[simp] theorem State.setTraceSlot_page (s : State) (k : Nat) (x : TrcSlot) : (s.setTraceSlot k x).page = s.page := rfl
@[simp] theorem State.setTraceSlot_qp (s : State) (k : Nat) (x : TrcSlot) : (s.setTraceSlot k x).qp = s.qp := rfl
@[simp] theorem State.setTraceSlot_net (s : State) (k : Nat) (x : TrcSlot) : (s.setTraceSlot k x).net = s.net := rfl
@[simp] theorem State.setTraceSlot_col (s : State) (k : Nat) (x : TrcSlot) : (s.setTraceSlot k x).col = s.col := rfl
@[simp] theorem State.setTraceSlot_sec (s : State) (k : Nat) (x : TrcSlot) : (s.setTraceSlot k x).sec = s.sec := rfl
@[simp] theorem State.setTraceSlot_pow (s : State) (k : Nat) (x : TrcSlot) : (s.setTraceSlot k x).pow = s.pow := rfl

/-! ### setTile -/

@[simp] theorem State.setTile_pending (s : State) (t : Nat) (x : Tile) : (s.setTile t x).pending = s.pending := rfl
@[simp] theorem State.setTile_csr (s : State) (t : Nat) (x : Tile) : (s.setTile t x).csr = s.csr := rfl
@[simp] theorem State.setTile_later (s : State) (t : Nat) (x : Tile) : (s.setTile t x).later = s.later := rfl
@[simp] theorem State.setTile_mem (s : State) (t : Nat) (x : Tile) : (s.setTile t x).mem = s.mem := rfl
@[simp] theorem State.setTile_poison (s : State) (t : Nat) (x : Tile) : (s.setTile t x).poison = s.poison := rfl
@[simp] theorem State.setTile_hostMem (s : State) (t : Nat) (x : Tile) : (s.setTile t x).hostMem = s.hostMem := rfl
@[simp] theorem State.setTile_hostBad (s : State) (t : Nat) (x : Tile) : (s.setTile t x).hostBad = s.hostBad := rfl
@[simp] theorem State.setTile_free (s : State) (t : Nat) (x : Tile) : (s.setTile t x).free = s.free := rfl
@[simp] theorem State.setTile_cyc (s : State) (t : Nat) (x : Tile) : (s.setTile t x).cyc = s.cyc := rfl
@[simp] theorem State.setTile_time (s : State) (t : Nat) (x : Tile) : (s.setTile t x).time = s.time := rfl
@[simp] theorem State.setTile_bus (s : State) (t : Nat) (x : Tile) : (s.setTile t x).bus = s.bus := rfl
@[simp] theorem State.setTile_memu (s : State) (t : Nat) (x : Tile) : (s.setTile t x).memu = s.memu := rfl
@[simp] theorem State.setTile_xlt (s : State) (t : Nat) (x : Tile) : (s.setTile t x).xlt = s.xlt := rfl
@[simp] theorem State.setTile_rings (s : State) (t : Nat) (x : Tile) : (s.setTile t x).rings = s.rings := rfl
@[simp] theorem State.setTile_insts (s : State) (t : Nat) (x : Tile) : (s.setTile t x).insts = s.insts := rfl
@[simp] theorem State.setTile_warp (s : State) (t : Nat) (x : Tile) : (s.setTile t x).warp = s.warp := rfl
@[simp] theorem State.setTile_dom (s : State) (t : Nat) (x : Tile) : (s.setTile t x).dom = s.dom := rfl
@[simp] theorem State.setTile_rel (s : State) (t : Nat) (x : Tile) : (s.setTile t x).rel = s.rel := rfl
@[simp] theorem State.setTile_page (s : State) (t : Nat) (x : Tile) : (s.setTile t x).page = s.page := rfl
@[simp] theorem State.setTile_qp (s : State) (t : Nat) (x : Tile) : (s.setTile t x).qp = s.qp := rfl
@[simp] theorem State.setTile_net (s : State) (t : Nat) (x : Tile) : (s.setTile t x).net = s.net := rfl
@[simp] theorem State.setTile_col (s : State) (t : Nat) (x : Tile) : (s.setTile t x).col = s.col := rfl
@[simp] theorem State.setTile_sec (s : State) (t : Nat) (x : Tile) : (s.setTile t x).sec = s.sec := rfl
@[simp] theorem State.setTile_pow (s : State) (t : Nat) (x : Tile) : (s.setTile t x).pow = s.pow := rfl
@[simp] theorem State.setTile_trc (s : State) (t : Nat) (x : Tile) : (s.setTile t x).trc = s.trc := rfl

/-! ### setCtx -/

@[simp] theorem State.setCtx_pending (s : State) (t : Nat) (c : Ctx) (k : Context) : (s.setCtx t c k).pending = s.pending := rfl
@[simp] theorem State.setCtx_csr (s : State) (t : Nat) (c : Ctx) (k : Context) : (s.setCtx t c k).csr = s.csr := rfl
@[simp] theorem State.setCtx_later (s : State) (t : Nat) (c : Ctx) (k : Context) : (s.setCtx t c k).later = s.later := rfl
@[simp] theorem State.setCtx_mem (s : State) (t : Nat) (c : Ctx) (k : Context) : (s.setCtx t c k).mem = s.mem := rfl
@[simp] theorem State.setCtx_poison (s : State) (t : Nat) (c : Ctx) (k : Context) : (s.setCtx t c k).poison = s.poison := rfl
@[simp] theorem State.setCtx_hostMem (s : State) (t : Nat) (c : Ctx) (k : Context) : (s.setCtx t c k).hostMem = s.hostMem := rfl
@[simp] theorem State.setCtx_hostBad (s : State) (t : Nat) (c : Ctx) (k : Context) : (s.setCtx t c k).hostBad = s.hostBad := rfl
@[simp] theorem State.setCtx_free (s : State) (t : Nat) (c : Ctx) (k : Context) : (s.setCtx t c k).free = s.free := rfl
@[simp] theorem State.setCtx_cyc (s : State) (t : Nat) (c : Ctx) (k : Context) : (s.setCtx t c k).cyc = s.cyc := rfl
@[simp] theorem State.setCtx_time (s : State) (t : Nat) (c : Ctx) (k : Context) : (s.setCtx t c k).time = s.time := rfl
@[simp] theorem State.setCtx_bus (s : State) (t : Nat) (c : Ctx) (k : Context) : (s.setCtx t c k).bus = s.bus := rfl
@[simp] theorem State.setCtx_memu (s : State) (t : Nat) (c : Ctx) (k : Context) : (s.setCtx t c k).memu = s.memu := rfl
@[simp] theorem State.setCtx_xlt (s : State) (t : Nat) (c : Ctx) (k : Context) : (s.setCtx t c k).xlt = s.xlt := rfl
@[simp] theorem State.setCtx_rings (s : State) (t : Nat) (c : Ctx) (k : Context) : (s.setCtx t c k).rings = s.rings := rfl
@[simp] theorem State.setCtx_insts (s : State) (t : Nat) (c : Ctx) (k : Context) : (s.setCtx t c k).insts = s.insts := rfl
@[simp] theorem State.setCtx_warp (s : State) (t : Nat) (c : Ctx) (k : Context) : (s.setCtx t c k).warp = s.warp := rfl
@[simp] theorem State.setCtx_dom (s : State) (t : Nat) (c : Ctx) (k : Context) : (s.setCtx t c k).dom = s.dom := rfl
@[simp] theorem State.setCtx_rel (s : State) (t : Nat) (c : Ctx) (k : Context) : (s.setCtx t c k).rel = s.rel := rfl
@[simp] theorem State.setCtx_page (s : State) (t : Nat) (c : Ctx) (k : Context) : (s.setCtx t c k).page = s.page := rfl
@[simp] theorem State.setCtx_qp (s : State) (t : Nat) (c : Ctx) (k : Context) : (s.setCtx t c k).qp = s.qp := rfl
@[simp] theorem State.setCtx_net (s : State) (t : Nat) (c : Ctx) (k : Context) : (s.setCtx t c k).net = s.net := rfl
@[simp] theorem State.setCtx_col (s : State) (t : Nat) (c : Ctx) (k : Context) : (s.setCtx t c k).col = s.col := rfl
@[simp] theorem State.setCtx_sec (s : State) (t : Nat) (c : Ctx) (k : Context) : (s.setCtx t c k).sec = s.sec := rfl
@[simp] theorem State.setCtx_pow (s : State) (t : Nat) (c : Ctx) (k : Context) : (s.setCtx t c k).pow = s.pow := rfl
@[simp] theorem State.setCtx_trc (s : State) (t : Nat) (c : Ctx) (k : Context) : (s.setCtx t c k).trc = s.trc := rfl

/-! ### upd -/

@[simp] theorem State.upd_pending (s : State) (i : Issue) (f : Context → Context) : (s.upd i f).pending = s.pending := rfl
@[simp] theorem State.upd_csr (s : State) (i : Issue) (f : Context → Context) : (s.upd i f).csr = s.csr := rfl
@[simp] theorem State.upd_later (s : State) (i : Issue) (f : Context → Context) : (s.upd i f).later = s.later := rfl
@[simp] theorem State.upd_mem (s : State) (i : Issue) (f : Context → Context) : (s.upd i f).mem = s.mem := rfl
@[simp] theorem State.upd_poison (s : State) (i : Issue) (f : Context → Context) : (s.upd i f).poison = s.poison := rfl
@[simp] theorem State.upd_hostMem (s : State) (i : Issue) (f : Context → Context) : (s.upd i f).hostMem = s.hostMem := rfl
@[simp] theorem State.upd_hostBad (s : State) (i : Issue) (f : Context → Context) : (s.upd i f).hostBad = s.hostBad := rfl
@[simp] theorem State.upd_free (s : State) (i : Issue) (f : Context → Context) : (s.upd i f).free = s.free := rfl
@[simp] theorem State.upd_cyc (s : State) (i : Issue) (f : Context → Context) : (s.upd i f).cyc = s.cyc := rfl
@[simp] theorem State.upd_time (s : State) (i : Issue) (f : Context → Context) : (s.upd i f).time = s.time := rfl
@[simp] theorem State.upd_bus (s : State) (i : Issue) (f : Context → Context) : (s.upd i f).bus = s.bus := rfl
@[simp] theorem State.upd_memu (s : State) (i : Issue) (f : Context → Context) : (s.upd i f).memu = s.memu := rfl
@[simp] theorem State.upd_xlt (s : State) (i : Issue) (f : Context → Context) : (s.upd i f).xlt = s.xlt := rfl
@[simp] theorem State.upd_rings (s : State) (i : Issue) (f : Context → Context) : (s.upd i f).rings = s.rings := rfl
@[simp] theorem State.upd_insts (s : State) (i : Issue) (f : Context → Context) : (s.upd i f).insts = s.insts := rfl
@[simp] theorem State.upd_warp (s : State) (i : Issue) (f : Context → Context) : (s.upd i f).warp = s.warp := rfl
@[simp] theorem State.upd_dom (s : State) (i : Issue) (f : Context → Context) : (s.upd i f).dom = s.dom := rfl
@[simp] theorem State.upd_rel (s : State) (i : Issue) (f : Context → Context) : (s.upd i f).rel = s.rel := rfl
@[simp] theorem State.upd_page (s : State) (i : Issue) (f : Context → Context) : (s.upd i f).page = s.page := rfl
@[simp] theorem State.upd_qp (s : State) (i : Issue) (f : Context → Context) : (s.upd i f).qp = s.qp := rfl
@[simp] theorem State.upd_net (s : State) (i : Issue) (f : Context → Context) : (s.upd i f).net = s.net := rfl
@[simp] theorem State.upd_col (s : State) (i : Issue) (f : Context → Context) : (s.upd i f).col = s.col := rfl
@[simp] theorem State.upd_sec (s : State) (i : Issue) (f : Context → Context) : (s.upd i f).sec = s.sec := rfl
@[simp] theorem State.upd_pow (s : State) (i : Issue) (f : Context → Context) : (s.upd i f).pow = s.pow := rfl
@[simp] theorem State.upd_trc (s : State) (i : Issue) (f : Context → Context) : (s.upd i f).trc = s.trc := rfl

/-! ### ws -/

@[simp] theorem State.ws_pending (s : State) (i : Issue) (r : SReg) (v : Word) : (s.ws i r v).pending = s.pending := rfl
@[simp] theorem State.ws_csr (s : State) (i : Issue) (r : SReg) (v : Word) : (s.ws i r v).csr = s.csr := rfl
@[simp] theorem State.ws_later (s : State) (i : Issue) (r : SReg) (v : Word) : (s.ws i r v).later = s.later := rfl
@[simp] theorem State.ws_mem (s : State) (i : Issue) (r : SReg) (v : Word) : (s.ws i r v).mem = s.mem := rfl
@[simp] theorem State.ws_poison (s : State) (i : Issue) (r : SReg) (v : Word) : (s.ws i r v).poison = s.poison := rfl
@[simp] theorem State.ws_hostMem (s : State) (i : Issue) (r : SReg) (v : Word) : (s.ws i r v).hostMem = s.hostMem := rfl
@[simp] theorem State.ws_hostBad (s : State) (i : Issue) (r : SReg) (v : Word) : (s.ws i r v).hostBad = s.hostBad := rfl
@[simp] theorem State.ws_free (s : State) (i : Issue) (r : SReg) (v : Word) : (s.ws i r v).free = s.free := rfl
@[simp] theorem State.ws_cyc (s : State) (i : Issue) (r : SReg) (v : Word) : (s.ws i r v).cyc = s.cyc := rfl
@[simp] theorem State.ws_time (s : State) (i : Issue) (r : SReg) (v : Word) : (s.ws i r v).time = s.time := rfl
@[simp] theorem State.ws_bus (s : State) (i : Issue) (r : SReg) (v : Word) : (s.ws i r v).bus = s.bus := rfl
@[simp] theorem State.ws_memu (s : State) (i : Issue) (r : SReg) (v : Word) : (s.ws i r v).memu = s.memu := rfl
@[simp] theorem State.ws_xlt (s : State) (i : Issue) (r : SReg) (v : Word) : (s.ws i r v).xlt = s.xlt := rfl
@[simp] theorem State.ws_rings (s : State) (i : Issue) (r : SReg) (v : Word) : (s.ws i r v).rings = s.rings := rfl
@[simp] theorem State.ws_insts (s : State) (i : Issue) (r : SReg) (v : Word) : (s.ws i r v).insts = s.insts := rfl
@[simp] theorem State.ws_warp (s : State) (i : Issue) (r : SReg) (v : Word) : (s.ws i r v).warp = s.warp := rfl
@[simp] theorem State.ws_dom (s : State) (i : Issue) (r : SReg) (v : Word) : (s.ws i r v).dom = s.dom := rfl
@[simp] theorem State.ws_rel (s : State) (i : Issue) (r : SReg) (v : Word) : (s.ws i r v).rel = s.rel := rfl
@[simp] theorem State.ws_page (s : State) (i : Issue) (r : SReg) (v : Word) : (s.ws i r v).page = s.page := rfl
@[simp] theorem State.ws_qp (s : State) (i : Issue) (r : SReg) (v : Word) : (s.ws i r v).qp = s.qp := rfl
@[simp] theorem State.ws_net (s : State) (i : Issue) (r : SReg) (v : Word) : (s.ws i r v).net = s.net := rfl
@[simp] theorem State.ws_col (s : State) (i : Issue) (r : SReg) (v : Word) : (s.ws i r v).col = s.col := rfl
@[simp] theorem State.ws_sec (s : State) (i : Issue) (r : SReg) (v : Word) : (s.ws i r v).sec = s.sec := rfl
@[simp] theorem State.ws_pow (s : State) (i : Issue) (r : SReg) (v : Word) : (s.ws i r v).pow = s.pow := rfl
@[simp] theorem State.ws_trc (s : State) (i : Issue) (r : SReg) (v : Word) : (s.ws i r v).trc = s.trc := rfl

/-! ### writeLocal -/

@[simp] theorem State.writeLocal_pending (s : State) (i : Issue) (o : Nat) (l : List Byte) : (s.writeLocal i o l).pending = s.pending := State.setBytes_pending s _ l
@[simp] theorem State.writeLocal_csr (s : State) (i : Issue) (o : Nat) (l : List Byte) : (s.writeLocal i o l).csr = s.csr := State.setBytes_csr s _ l
@[simp] theorem State.writeLocal_poison (s : State) (i : Issue) (o : Nat) (l : List Byte) : (s.writeLocal i o l).poison = s.poison := State.setBytes_poison s _ l
@[simp] theorem State.writeLocal_hostMem (s : State) (i : Issue) (o : Nat) (l : List Byte) : (s.writeLocal i o l).hostMem = s.hostMem := State.setBytes_hostMem s _ l
@[simp] theorem State.writeLocal_hostBad (s : State) (i : Issue) (o : Nat) (l : List Byte) : (s.writeLocal i o l).hostBad = s.hostBad := State.setBytes_hostBad s _ l
@[simp] theorem State.writeLocal_free (s : State) (i : Issue) (o : Nat) (l : List Byte) : (s.writeLocal i o l).free = s.free := State.setBytes_free s _ l
@[simp] theorem State.writeLocal_cyc (s : State) (i : Issue) (o : Nat) (l : List Byte) : (s.writeLocal i o l).cyc = s.cyc := State.setBytes_cyc s _ l
@[simp] theorem State.writeLocal_time (s : State) (i : Issue) (o : Nat) (l : List Byte) : (s.writeLocal i o l).time = s.time := State.setBytes_time s _ l
@[simp] theorem State.writeLocal_bus (s : State) (i : Issue) (o : Nat) (l : List Byte) : (s.writeLocal i o l).bus = s.bus := State.setBytes_bus s _ l
@[simp] theorem State.writeLocal_memu (s : State) (i : Issue) (o : Nat) (l : List Byte) : (s.writeLocal i o l).memu = s.memu := State.setBytes_memu s _ l
@[simp] theorem State.writeLocal_xlt (s : State) (i : Issue) (o : Nat) (l : List Byte) : (s.writeLocal i o l).xlt = s.xlt := State.setBytes_xlt s _ l
@[simp] theorem State.writeLocal_rings (s : State) (i : Issue) (o : Nat) (l : List Byte) : (s.writeLocal i o l).rings = s.rings := State.setBytes_rings s _ l
@[simp] theorem State.writeLocal_insts (s : State) (i : Issue) (o : Nat) (l : List Byte) : (s.writeLocal i o l).insts = s.insts := State.setBytes_insts s _ l
@[simp] theorem State.writeLocal_warp (s : State) (i : Issue) (o : Nat) (l : List Byte) : (s.writeLocal i o l).warp = s.warp := State.setBytes_warp s _ l
@[simp] theorem State.writeLocal_dom (s : State) (i : Issue) (o : Nat) (l : List Byte) : (s.writeLocal i o l).dom = s.dom := State.setBytes_dom s _ l
@[simp] theorem State.writeLocal_til (s : State) (i : Issue) (o : Nat) (l : List Byte) : (s.writeLocal i o l).til = s.til := State.setBytes_til s _ l
@[simp] theorem State.writeLocal_rel (s : State) (i : Issue) (o : Nat) (l : List Byte) : (s.writeLocal i o l).rel = s.rel := State.setBytes_rel s _ l
@[simp] theorem State.writeLocal_page (s : State) (i : Issue) (o : Nat) (l : List Byte) : (s.writeLocal i o l).page = s.page := State.setBytes_page s _ l
@[simp] theorem State.writeLocal_qp (s : State) (i : Issue) (o : Nat) (l : List Byte) : (s.writeLocal i o l).qp = s.qp := State.setBytes_qp s _ l
@[simp] theorem State.writeLocal_net (s : State) (i : Issue) (o : Nat) (l : List Byte) : (s.writeLocal i o l).net = s.net := State.setBytes_net s _ l
@[simp] theorem State.writeLocal_col (s : State) (i : Issue) (o : Nat) (l : List Byte) : (s.writeLocal i o l).col = s.col := State.setBytes_col s _ l
@[simp] theorem State.writeLocal_sec (s : State) (i : Issue) (o : Nat) (l : List Byte) : (s.writeLocal i o l).sec = s.sec := State.setBytes_sec s _ l
@[simp] theorem State.writeLocal_pow (s : State) (i : Issue) (o : Nat) (l : List Byte) : (s.writeLocal i o l).pow = s.pow := State.setBytes_pow s _ l
@[simp] theorem State.writeLocal_trc (s : State) (i : Issue) (o : Nat) (l : List Byte) : (s.writeLocal i o l).trc = s.trc := State.setBytes_trc s _ l

/-! ### setQueue -/

@[simp] theorem State.setQueue_pending (s : State) (i q : Nat) (x : Queue) : (s.setQueue i q x).pending = s.pending := rfl
@[simp] theorem State.setQueue_csr (s : State) (i q : Nat) (x : Queue) : (s.setQueue i q x).csr = s.csr := rfl
@[simp] theorem State.setQueue_later (s : State) (i q : Nat) (x : Queue) : (s.setQueue i q x).later = s.later := rfl
@[simp] theorem State.setQueue_mem (s : State) (i q : Nat) (x : Queue) : (s.setQueue i q x).mem = s.mem := rfl
@[simp] theorem State.setQueue_poison (s : State) (i q : Nat) (x : Queue) : (s.setQueue i q x).poison = s.poison := rfl
@[simp] theorem State.setQueue_hostMem (s : State) (i q : Nat) (x : Queue) : (s.setQueue i q x).hostMem = s.hostMem := rfl
@[simp] theorem State.setQueue_hostBad (s : State) (i q : Nat) (x : Queue) : (s.setQueue i q x).hostBad = s.hostBad := rfl
@[simp] theorem State.setQueue_free (s : State) (i q : Nat) (x : Queue) : (s.setQueue i q x).free = s.free := rfl
@[simp] theorem State.setQueue_cyc (s : State) (i q : Nat) (x : Queue) : (s.setQueue i q x).cyc = s.cyc := rfl
@[simp] theorem State.setQueue_time (s : State) (i q : Nat) (x : Queue) : (s.setQueue i q x).time = s.time := rfl
@[simp] theorem State.setQueue_bus (s : State) (i q : Nat) (x : Queue) : (s.setQueue i q x).bus = s.bus := rfl
@[simp] theorem State.setQueue_memu (s : State) (i q : Nat) (x : Queue) : (s.setQueue i q x).memu = s.memu := rfl
@[simp] theorem State.setQueue_xlt (s : State) (i q : Nat) (x : Queue) : (s.setQueue i q x).xlt = s.xlt := rfl
@[simp] theorem State.setQueue_insts (s : State) (i q : Nat) (x : Queue) : (s.setQueue i q x).insts = s.insts := rfl
@[simp] theorem State.setQueue_warp (s : State) (i q : Nat) (x : Queue) : (s.setQueue i q x).warp = s.warp := rfl
@[simp] theorem State.setQueue_dom (s : State) (i q : Nat) (x : Queue) : (s.setQueue i q x).dom = s.dom := rfl
@[simp] theorem State.setQueue_til (s : State) (i q : Nat) (x : Queue) : (s.setQueue i q x).til = s.til := rfl
@[simp] theorem State.setQueue_rel (s : State) (i q : Nat) (x : Queue) : (s.setQueue i q x).rel = s.rel := rfl
@[simp] theorem State.setQueue_page (s : State) (i q : Nat) (x : Queue) : (s.setQueue i q x).page = s.page := rfl
@[simp] theorem State.setQueue_qp (s : State) (i q : Nat) (x : Queue) : (s.setQueue i q x).qp = s.qp := rfl
@[simp] theorem State.setQueue_net (s : State) (i q : Nat) (x : Queue) : (s.setQueue i q x).net = s.net := rfl
@[simp] theorem State.setQueue_col (s : State) (i q : Nat) (x : Queue) : (s.setQueue i q x).col = s.col := rfl
@[simp] theorem State.setQueue_sec (s : State) (i q : Nat) (x : Queue) : (s.setQueue i q x).sec = s.sec := rfl
@[simp] theorem State.setQueue_pow (s : State) (i q : Nat) (x : Queue) : (s.setQueue i q x).pow = s.pow := rfl
@[simp] theorem State.setQueue_trc (s : State) (i q : Nat) (x : Queue) : (s.setQueue i q x).trc = s.trc := rfl

/-! ### elapse -/

@[simp] theorem State.elapse_pending (s : State) (n : Nat) : (s.elapse n).pending = s.pending := rfl
@[simp] theorem State.elapse_later (s : State) (n : Nat) : (s.elapse n).later = s.later := rfl
@[simp] theorem State.elapse_mem (s : State) (n : Nat) : (s.elapse n).mem = s.mem := rfl
@[simp] theorem State.elapse_poison (s : State) (n : Nat) : (s.elapse n).poison = s.poison := rfl
@[simp] theorem State.elapse_hostMem (s : State) (n : Nat) : (s.elapse n).hostMem = s.hostMem := rfl
@[simp] theorem State.elapse_hostBad (s : State) (n : Nat) : (s.elapse n).hostBad = s.hostBad := rfl
@[simp] theorem State.elapse_free (s : State) (n : Nat) : (s.elapse n).free = s.free := rfl
@[simp] theorem State.elapse_cyc (s : State) (n : Nat) : (s.elapse n).cyc = s.cyc := rfl
@[simp] theorem State.elapse_bus (s : State) (n : Nat) : (s.elapse n).bus = s.bus := rfl
@[simp] theorem State.elapse_memu (s : State) (n : Nat) : (s.elapse n).memu = s.memu := rfl
@[simp] theorem State.elapse_xlt (s : State) (n : Nat) : (s.elapse n).xlt = s.xlt := rfl
@[simp] theorem State.elapse_rings (s : State) (n : Nat) : (s.elapse n).rings = s.rings := rfl
@[simp] theorem State.elapse_insts (s : State) (n : Nat) : (s.elapse n).insts = s.insts := rfl
@[simp] theorem State.elapse_warp (s : State) (n : Nat) : (s.elapse n).warp = s.warp := rfl
@[simp] theorem State.elapse_til (s : State) (n : Nat) : (s.elapse n).til = s.til := rfl
@[simp] theorem State.elapse_rel (s : State) (n : Nat) : (s.elapse n).rel = s.rel := rfl
@[simp] theorem State.elapse_page (s : State) (n : Nat) : (s.elapse n).page = s.page := rfl
@[simp] theorem State.elapse_qp (s : State) (n : Nat) : (s.elapse n).qp = s.qp := rfl
@[simp] theorem State.elapse_net (s : State) (n : Nat) : (s.elapse n).net = s.net := rfl
@[simp] theorem State.elapse_col (s : State) (n : Nat) : (s.elapse n).col = s.col := rfl
@[simp] theorem State.elapse_sec (s : State) (n : Nat) : (s.elapse n).sec = s.sec := rfl
@[simp] theorem State.elapse_pow (s : State) (n : Nat) : (s.elapse n).pow = s.pow := rfl
@[simp] theorem State.elapse_trc (s : State) (n : Nat) : (s.elapse n).trc = s.trc := rfl

end Sys2Proof.Machine
end

