-- ==== Sys2Proof/Laws/Ops.lean ====
section
/-! SUPPORT. What is read after a write: register fields, memory bytes, tiles and contexts; and how an instruction that may
issue ends. -/
namespace Sys2Proof.Machine
open Sys2Proof

/-! ### Bit fields -/

theorem bits_lt (n lo w : Nat) : bits n lo w < 2 ^ w := Nat.mod_lt _ (Nat.two_pow_pos w)

theorem testBit_bits (n lo w k : Nat) : (bits n lo w).testBit k = (decide (k < w) && n.testBit (lo + k)) := by
  simp [bits, Nat.testBit_mod_two_pow, Nat.testBit_div_two_pow, Nat.add_comm]

/-- A number in the three parts that a field cuts it into. -/
theorem setBits_eq (n lo w v : Nat) :
    setBits n lo w v = n / 2 ^ (lo + w) * 2 ^ (lo + w) + v % 2 ^ w * 2 ^ lo + n % 2 ^ lo := by
  have h1 : n = n / 2 ^ (lo + w) * 2 ^ (lo + w) + bits n lo w * 2 ^ lo + n % 2 ^ lo := by
    have a := Nat.div_add_mod n (2 ^ lo)
    have b := Nat.div_add_mod (n / 2 ^ lo) (2 ^ w)
    rw [Nat.div_div_eq_div_mul, ← Nat.pow_add] at b
    have c : (2 ^ lo) * (n / 2 ^ lo) = n / 2 ^ (lo + w) * 2 ^ (lo + w) + bits n lo w * 2 ^ lo := by
      conv_lhs => rw [← b]
      rw [bits, Nat.pow_add]
      ring
    omega
  unfold setBits
  conv_lhs => rw [h1]
  have h2 : bits (n / 2 ^ (lo + w) * 2 ^ (lo + w) + bits n lo w * 2 ^ lo + n % 2 ^ lo) lo w = bits n lo w := by
    rw [← h1]
  rw [h2]
  omega

theorem testBit_setBits (n lo w v k : Nat) :
    (setBits n lo w v).testBit k = if lo ≤ k ∧ k < lo + w then v.testBit (k - lo) else n.testBit k := by
  have hlt : v % 2 ^ w * 2 ^ lo + n % 2 ^ lo < 2 ^ (lo + w) := by
    have h1 := Nat.mod_lt v (Nat.two_pow_pos w)
    have h2 := Nat.mod_lt n (Nat.two_pow_pos lo)
    calc v % 2 ^ w * 2 ^ lo + n % 2 ^ lo < (v % 2 ^ w + 1) * 2 ^ lo := by rw [Nat.add_mul]; omega
      _ ≤ 2 ^ w * 2 ^ lo := Nat.mul_le_mul_right _ h1
      _ = 2 ^ (lo + w) := by rw [Nat.pow_add]; ring
  rw [setBits_eq, Nat.add_assoc, Nat.mul_comm _ (2 ^ (lo + w)), Nat.testBit_two_pow_mul_add _ hlt,
    Nat.mul_comm _ (2 ^ lo), Nat.testBit_two_pow_mul_add _ (Nat.mod_lt _ (Nat.two_pow_pos lo))]
  simp only [Nat.testBit_mod_two_pow, Nat.testBit_div_two_pow]
  by_cases h1 : k < lo + w
  · by_cases h2 : k < lo
    · simp [h1, h2, show ¬ lo ≤ k by omega]
    · simp [h1, h2, show lo ≤ k by omega, show k - lo < w by omega]
  · simp [h1, show k - (lo + w) + (lo + w) = k by omega]

theorem bits_setBits (n lo w v : Nat) : bits (setBits n lo w v) lo w = v % 2 ^ w := by
  apply Nat.eq_of_testBit_eq
  intro k
  rw [testBit_bits, testBit_setBits, Nat.testBit_mod_two_pow]
  by_cases h : k < w
  · simp [h]
  · simp [h]

theorem bits_setBits_ne (n lo w v lo' w' : Nat) (h : lo' + w' ≤ lo ∨ lo + w ≤ lo') :
    bits (setBits n lo w v) lo' w' = bits n lo' w' := by
  apply Nat.eq_of_testBit_eq
  intro k
  rw [testBit_bits, testBit_bits, testBit_setBits]
  by_cases hk : k < w'
  · simp only [hk, decide_true, Bool.true_and]
    rw [if_neg (by omega)]
  · simp [hk]

/-! ### Registers -/

theorem State.reg_setReg {s : State} (h : csrOk s.csr) (a b v : Nat) :
    (s.setReg a v).reg b = if b = a then v else s.reg b := by
  simp only [State.reg, State.setReg]
  by_cases hv : v = regReset a
  · rw [if_pos hv, tfind_tdel h.1]
    split
    · subst_vars; simp
    · rfl
  · rw [if_neg hv, tfind_tput]
    split
    · rfl
    · rfl

/-- A field reads as it was written. -/
theorem State.get_put {s : State} (h : csrOk s.csr) (f : RegFld) (v : Nat) : (s.put f v).get f = v % 2 ^ f.w := by
  simp only [State.get, State.put, State.reg_setReg h, if_true, bits_setBits]

/-- A field reads as before a write of one that it shares no bit with. -/
theorem State.get_put_ne {s : State} (h : csrOk s.csr) {f g : RegFld} (hfg : apart f g) (v : Nat) :
    (s.put f v).get g = s.get g := by
  simp only [State.get, State.put, State.reg_setReg h]
  split
  · rename_i e
    rw [bits_setBits_ne _ _ _ _ _ _ (by rcases hfg with h | h | h <;> [exact absurd e.symm h; right; left] <;> omega), e]
  · rfl

theorem State.reg_put_ne {s : State} (h : csrOk s.csr) {f : RegFld} {a : Nat} (ha : a ≠ f.reg) (v : Nat) :
    (s.put f v).reg a = s.reg a := by
  simp only [State.put, State.reg_setReg h, if_neg ha]

theorem State.put_sorted {s : State} (h : csrOk s.csr) (f : RegFld) (v : Nat) : csrOk (s.put f v).csr := by
  simp only [State.put, State.setReg]
  split
  · exact ⟨tdel_sorted h.1 _, fun p hp => h.2 p (mem_tdel hp)⟩
  · rename_i hv
    refine ⟨tput_sorted h.1 _ _, fun p hp => ?_⟩
    rcases mem_tput hp with rfl | hp
    · exact hv
    · exact h.2 p hp

theorem apart_symm {f g : RegFld} (h : apart f g) : apart g f := by
  rcases h with h | h | h
  · exact .inl h.symm
  · exact .inr (.inr h)
  · exact .inr (.inl h)

/-- Fields written one after another, no two of which share a bit, read as written, and any other field as before: the
form `State.sets` of a command that writes registers. -/
theorem State.sets_puts {u : State} (h : csrOk u.csr) (l : List (RegFld × Nat)) (hl : l.Pairwise fun p q => apart p.1 q.1) :
    u.sets (.next (l.foldl (fun s p => s.put p.1 p.2) u)) l := by
  have key : ∀ (l : List (RegFld × Nat)) (s : State), csrOk s.csr → (l.Pairwise fun p q => apart p.1 q.1) →
      let t := l.foldl (fun s p => s.put p.1 p.2) s
      t = { s with csr := t.csr } ∧ (∀ p ∈ l, t.get p.1 = p.2 % 2 ^ p.1.w) ∧
        ∀ f : RegFld, (∀ p ∈ l, apart p.1 f) → t.get f = s.get f := by
    intro l
    induction l with
    | nil => exact fun s _ _ => ⟨rfl, by simp, fun f _ => rfl⟩
    | cons p l ih =>
      intro s hs hl
      obtain ⟨h1, h2⟩ := List.pairwise_cons.1 hl
      have hp := State.put_sorted hs p.1 p.2
      obtain ⟨i1, i2, i3⟩ := ih (s.put p.1 p.2) hp h2
      refine ⟨i1, ?_, fun f hf => ?_⟩
      · intro q hq
        rcases List.mem_cons.1 hq with rfl | hq
        · exact (i3 q.1 fun r hr => apart_symm (h1 r hr)).trans (State.get_put hs _ _)
        · exact i2 q hq
      · exact (i3 f fun q hq => hf q (List.mem_cons_of_mem _ hq)).trans
          (State.get_put_ne hs (hf p (List.mem_cons_self ..)) _)
  obtain ⟨h1, h2, h3⟩ := key l u h hl
  exact ⟨_, rfl, h1, h2, h3⟩

/-! ### Memory -/

theorem State.byte_setByte {s : State} (h : sortedKeys s.mem = true) (a p : Nat) (b : Byte) :
    (s.setByte a b).byte p = if p = a then b else s.byte p := by
  simp only [State.byte, State.setByte, mget_mset 0 h]

theorem State.setByte_sorted {s : State} (h : sortedKeys s.mem = true) (a : Nat) (b : Byte) :
    sortedKeys (s.setByte a b).mem = true := mset_sorted 0 h a b

/-- A byte after a write of bytes: the written one where it lies among them, else the old one. -/
theorem State.byte_setBytes {s : State} (h : sortedKeys s.mem = true) (a p : Nat) (bs : List Byte) :
    (s.setBytes a bs).byte p = if a ≤ p ∧ p < a + bs.length then bs.getD (p - a) 0 else s.byte p := by
  induction bs generalizing s a with
  | nil => simp only [State.setBytes, List.length_nil]; rw [if_neg (by omega)]
  | cons b bs ih =>
    rw [State.setBytes, ih (State.setByte_sorted h a b), State.byte_setByte h, List.length_cons]
    by_cases hp : p = a
    · subst hp
      rw [if_neg (by omega), if_pos rfl, if_pos (by omega)]
      simp
    · by_cases h1 : a + 1 ≤ p ∧ p < a + 1 + bs.length
      · rw [if_pos h1, if_pos (by omega), show p - a = (p - (a + 1)) + 1 by omega]
        simp
      · rw [if_neg h1, if_neg hp, if_neg (by omega)]

theorem State.setBytes_eq (s : State) (a : Nat) (bs : List Byte) : s.setBytes a bs = { s with mem := (s.setBytes a bs).mem } := by
  induction bs generalizing s a with
  | nil => rfl
  | cons b bs ih => rw [State.setBytes, ih]; rfl

theorem leBytes_length (n x : Nat) : (leBytes n x).length = n := by
  induction n generalizing x with
  | zero => rfl
  | succ n ih => simp [leBytes, ih]

theorem leBytes_getD (n x k : Nat) (h : k < n) : (leBytes n x).getD k 0 = BitVec.ofNat 8 (x / 2 ^ (8 * k)) := by
  induction n generalizing x k with
  | zero => omega
  | succ n ih =>
    cases k with
    | zero => simp [leBytes]
    | succ k =>
      simp only [leBytes, List.getD_cons_succ]
      rw [ih _ _ (by omega), Nat.div_div_eq_div_mul, show 256 * 2 ^ (8 * k) = 2 ^ (8 * (k + 1)) by
        rw [show 8 * (k + 1) = 8 + 8 * k by ring, Nat.pow_add]]

/-! ### Tiles and contexts -/

theorem State.tile_setTile {s : State} (h : s.Sound) (n m : Nat) (x : Tile) :
    (s.setTile n x).tile m = if m = n then x else s.tile m := by
  simp only [State.tile, State.setTile]
  exact mget_mset _ ((canonical_iff _ _).1 h.tiles).1 _ _ _

@[simp] theorem Tile.ctx_setCtx (x : Tile) (c d : Ctx) (k : Context) :
    (x.setCtx c k).ctx d = if d = c then k else x.ctx d := by
  cases c <;> cases d <;> rfl

/-- A context after a context has been written. -/
theorem State.ctx_setCtx {s : State} (h : s.Sound) (n m : Nat) (c d : Ctx) (k : Context) :
    (s.setCtx n c k).ctx m d = if m = n ∧ d = c then k else s.ctx m d := by
  simp only [State.ctx, State.setCtx, State.tile_setTile h]
  by_cases hm : m = n
  · subst hm
    simp
  · simp [hm]

theorem State.ctx_setTile {s : State} (h : s.Sound) (n m : Nat) (x : Tile) (d : Ctx) :
    (s.setTile n x).ctx m d = if m = n then x.ctx d else s.ctx m d := by
  simp only [State.ctx, State.tile_setTile h]
  split <;> rfl

/-! ### How an instruction ends -/

/-- An instruction that may issue takes effect. -/
theorem State.issue_ready {s : State} {i : Issue} (h : s.ready i) (body : State → Fate) :
    s.issue i body = .next (s.finish i (body s)) := by
  simp only [State.issue, h.1, if_true, h.2]

/-- A waiting instruction is tried again. -/
theorem State.retry_waits {s : State} {i : Issue} {x : Instr} (h : s.waitsOn i x) (sel : Instr → Option (State → Fate)) :
    s.retry i sel = match sel x with
      | some body => .next (s.finish i (body s))
      | none => .next s := by
  simp only [State.retry, h.1, if_true, h.2]
  all_goals cases sel x <;> rfl

@[simp] theorem State.finish_retire (s t : State) (i : Issue) : s.finish i (.retire t) = t.advance i := rfl
@[simp] theorem State.finish_trap (s : State) (i : Issue) (c : Nat) (v : Word) : s.finish i (.trap c v) = s.traps i c v := rfl

end Sys2Proof.Machine
end

