-- ==== Sys2Proof/Laws/Sound.lean ====
section
/-! SUPPORT. What keeps a state well kept: the operations that write memory, registers and tiles, and how an update of
any other field, a fold and a choice carry it on. -/
namespace Sys2Proof.Machine
set_option linter.unusedTactic false
set_option linter.unreachableTactic false
set_option linter.unusedSimpArgs false
open Sys2Proof

/-! ### Updates of other fields -/

theorem State.Sound.upd {s t : State} (h : s.Sound) (h1 : t.mem = s.mem) (h2 : t.poison = s.poison) (h3 : t.csr = s.csr)
    (h4 : t.til.tiles = s.til.tiles) : t.Sound :=
  ⟨h1 ▸ h.mem, h2 ▸ h.poison, h3 ▸ h.csr, h4 ▸ h.tiles, h4 ▸ h.tilesOk⟩

theorem sound_upd {s : State} (pending_ : List Instr) (later_ : SMap Nat) (hostMem_ : SMap Byte) (hostBad_ : SMap Bool) (free_ : Nat)
    (cyc_ : Nat) (time_ : Nat) (bus_ : BusS) (memu_ : MemS) (xlt_ : XltS) (rings_ : RingS) (insts_ : InstS)
    (warp_ : WarpS) (dom_ : DomS) (rel_ : RelS) (page_ : PageS) (qp_ : QpS) (net_ : NetS) (col_ : ColS) (sec_ : SecS)
    (pow_ : PowS) (trc_ : TrcS) : (State.mk pending_ s.csr later_ s.mem s.poison hostMem_ hostBad_ free_ cyc_ time_ bus_ memu_
    xlt_ rings_ insts_ warp_ dom_ s.til rel_ page_ qp_ net_ col_ sec_ pow_ trc_).Sound ↔ s.Sound :=
  ⟨fun h => h.upd rfl rfl rfl rfl, fun h => h.upd rfl rfl rfl rfl⟩

theorem sound_updTil {s : State} (pending_ : List Instr) (later_ : SMap Nat) (hostMem_ : SMap Byte) (hostBad_ : SMap Bool) (free_ : Nat)
    (cyc_ : Nat) (time_ : Nat) (bus_ : BusS) (memu_ : MemS) (xlt_ : XltS) (rings_ : RingS) (insts_ : InstS)
    (warp_ : WarpS) (dom_ : DomS) (rel_ : RelS) (page_ : PageS) (qp_ : QpS) (net_ : NetS) (col_ : ColS) (sec_ : SecS)
    (pow_ : PowS) (trc_ : TrcS) (a1 : List Flight) (a2 : Nat) (a3 a4 : List (Nat × Nat)) (a5 : Bool) (a6 : List Nat)
    (a7 : SMap Nat) (a8 a9 a10 : List Nat) (a11 : List (Nat × Nat)) : (State.mk pending_ s.csr later_ s.mem s.poison hostMem_
    hostBad_ free_ cyc_ time_ bus_ memu_ xlt_ rings_ insts_ warp_ dom_ (TileS.mk s.til.tiles a1 a2 a3 a4 a5 a6 a7 a8
    a9 a10 a11) rel_ page_ qp_ net_ col_ sec_ pow_ trc_).Sound ↔ s.Sound :=
  ⟨fun h => h.upd rfl rfl rfl rfl, fun h => h.upd rfl rfl rfl rfl⟩

/-- The state in a pair that a match has taken apart. -/
theorem fst_sound {α : Type} {p : State × α} {s : State} {x : α} (e : p = (s, x)) (h : p.1.Sound) : s.Sound := by
  subst e
  exact h

theorem getD_sound {o : Option State} {s : State} (h : s.Sound) (ho : ∀ t, o = some t → t.Sound) : (o.getD s).Sound := by
  cases o with
  | none => exact h
  | some t => exact ho t rfl

/-! ### Choices and folds -/

theorem sound_ite {c : Prop} [Decidable c] {s t : State} (h1 : s.Sound) (h2 : t.Sound) : (if c then s else t).Sound := by
  split <;> assumption

theorem sound_foldl {α : Type} {f : State → α → State} (hf : ∀ s x, s.Sound → (f s x).Sound) {s : State} (h : s.Sound)
    (l : List α) : (l.foldl f s).Sound := by
  induction l generalizing s with
  | nil => exact h
  | cons a l ih => exact ih (hf s a h)

/-- A fold that carries a state beside other data. -/
theorem sound_foldl_fst {α β : Type} {f : State × β → α → State × β} (hf : ∀ p x, p.1.Sound → (f p x).1.Sound)
    {p : State × β} (h : p.1.Sound) (l : List α) : (l.foldl f p).1.Sound := by
  induction l generalizing p with
  | nil => exact h
  | cons a l ih => exact ih (hf p a h)

/-! ### Memory -/

theorem State.setByte_sound {s : State} (h : s.Sound) (pa : Nat) (b : Byte) : (s.setByte pa b).Sound :=
  ⟨mset_canonical 0 h.mem pa b, h.poison, h.csr, h.tiles, h.tilesOk⟩

theorem State.setBytes_sound {s : State} (h : s.Sound) (pa : Nat) (bs : List Byte) : (s.setBytes pa bs).Sound := by
  induction bs generalizing s pa with
  | nil => exact h
  | cons b bs ih => exact ih (State.setByte_sound h pa b) _

theorem State.setPoison_sound {s : State} (h : s.Sound) (pa : Nat) (p : Bool) : (s.setPoison pa p).Sound :=
  ⟨h.mem, mset_canonical false h.poison _ p, h.csr, h.tiles, h.tilesOk⟩

/-! ### Registers -/

theorem State.setReg_sound {s : State} (h : s.Sound) (a v : Nat) : (s.setReg a v).Sound := by
  refine ⟨h.mem, h.poison, ?_, h.tiles, h.tilesOk⟩
  simp only [State.setReg]
  split
  · exact ⟨tdel_sorted h.csr.1 a, fun p hp => h.csr.2 p (mem_tdel hp)⟩
  · rename_i hv
    refine ⟨tput_sorted h.csr.1 a v, fun p hp => ?_⟩
    rcases mem_tput hp with rfl | hp
    · exact hv
    · exact h.csr.2 p hp

theorem csrOk_filter {m : SMap Nat} (h : csrOk m) (f : Nat × Nat → Bool) : csrOk (m.filter f) :=
  ⟨filter_sorted h.1 f, fun p hp => h.2 p (List.mem_filter.1 hp).1⟩

/-! ### Tiles -/

theorem mget_ok {α : Type} (d : α) (m : SMap α) (P : α → Prop) (hd : P d) (hm : ∀ p ∈ m, P p.2) (k : Nat) : P (mget d m k) := by
  induction m with
  | nil => exact hd
  | cons q m ih =>
    obtain ⟨k', v'⟩ := q
    have h1 := ih fun p hp => hm p (List.mem_cons_of_mem _ hp)
    simp only [mget, tfind] at h1 ⊢
    split
    · exact hm (k', v') (List.mem_cons_self ..)
    · exact h1

theorem State.tile_ok {s : State} (h : s.Sound) (t : Nat) : (s.tile t).ok = true :=
  mget_ok _ _ (fun (x : Tile) => x.ok = true) (by decide) h.tilesOk t

theorem State.setTile_sound {s : State} (h : s.Sound) (t : Nat) {x : Tile} (hx : x.ok = true) : (s.setTile t x).Sound := by
  refine ⟨h.mem, h.poison, h.csr, mset_canonical _ h.tiles t x, fun p hp => ?_⟩
  simp only [State.setTile, mset] at hp
  split at hp
  · exact h.tilesOk p (mem_tdel hp)
  · rcases mem_tput hp with rfl | hp
    · exact hx
    · exact h.tilesOk p hp

theorem tile_mk_ok {s w : Context} (hs : s.ok = true) (hw : w.ok = true) (a1 : Nat) (a2 : TopK) (a3 : List Msg)
    (a4 : List (List Byte)) (a5 a6 a7 a8 a9 : Nat) (a10 : Option Nat) (a11 : Option Assign) (a12 a13 : Bool)
    (a14 : List Byte) (a15 : Bool) : (Tile.mk s w a1 a2 a3 a4 a5 a6 a7 a8 a9 a10 a11 a12 a13 a14 a15).ok = true := by
  simp only [Tile.ok, hs, hw, Bool.and_self]

theorem tile_ok_mk {s w : Context} (a1 : Nat) (a2 : TopK) (a3 : List Msg)
    (a4 : List (List Byte)) (a5 a6 a7 a8 a9 : Nat) (a10 : Option Nat) (a11 : Option Assign) (a12 a13 : Bool)
    (a14 : List Byte) (a15 : Bool) : (Tile.mk s w a1 a2 a3 a4 a5 a6 a7 a8 a9 a10 a11 a12 a13 a14 a15).ok = true ↔
    s.ok = true ∧ w.ok = true := by
  simp only [Tile.ok, Bool.and_eq_true]

theorem Tile.s_ok {x : Tile} (h : x.ok = true) : x.s.ok = true := (Bool.and_eq_true _ _ ▸ h).1

theorem Tile.w_ok {x : Tile} (h : x.ok = true) : x.w.ok = true := (Bool.and_eq_true _ _ ▸ h).2

theorem Tile.ctx_ok {x : Tile} (h : x.ok = true) (c : Ctx) : (x.ctx c).ok = true := by
  cases c
  · exact x.s_ok h
  · exact x.w_ok h

theorem Tile.setCtx_ok {x : Tile} (h : x.ok = true) (c : Ctx) {k : Context} (hk : k.ok = true) : (x.setCtx c k).ok = true := by
  cases c
  · exact tile_mk_ok hk (x.w_ok h) ..
  · exact tile_mk_ok (x.s_ok h) hk ..

theorem State.ctx_ok {s : State} (h : s.Sound) (t : Nat) (c : Ctx) : (s.ctx t c).ok = true := (s.tile t).ctx_ok (State.tile_ok h t) c

theorem State.setCtx_sound {s : State} (h : s.Sound) (t : Nat) (c : Ctx) {k : Context} (hk : k.ok = true) :
    (s.setCtx t c k).Sound :=
  State.setTile_sound h t ((s.tile t).setCtx_ok (State.tile_ok h t) c hk)

theorem State.upd_sound {s : State} (h : s.Sound) (i : Issue) {f : Context → Context}
    (hf : ∀ k : Context, k.ok = true → (f k).ok = true) : (s.upd i f).Sound :=
  State.setCtx_sound h _ _ (hf _ (State.ctx_ok h _ _))

/-! ### Contexts -/

theorem context_ok_iff (k : Context) : k.ok = true ↔ canonical 0 k.s = true ∧ (∀ p ∈ k.s, p.1 ≠ 0) ∧ canonical 0 k.v = true ∧
    canonical 0 k.a = true ∧ sortedKeys k.handles = true := by
  simp [Context.ok, and_assoc]

theorem context_mk_ok {k : Context} (h : k.ok = true) (pc : Word) (x : XAcc) (v : Word) (c : CheckImg)
    (e1 e2 e3 e4 e5 e6 r : Word) (n : Nat) (w : Option Instr) (b1 b2 b3 b4 : Bool) :
    (Context.mk pc k.s k.v k.a x v c e1 e2 e3 e4 e5 e6 r k.handles n w b1 b2 b3 b4).ok = true := h

theorem context_ok_mk {k : Context} (pc : Word) (x : XAcc) (v : Word) (c : CheckImg)
    (e1 e2 e3 e4 e5 e6 r : Word) (n : Nat) (w : Option Instr) (b1 b2 b3 b4 : Bool) :
    (Context.mk pc k.s k.v k.a x v c e1 e2 e3 e4 e5 e6 r k.handles n w b1 b2 b3 b4).ok = true ↔ k.ok = true := Iff.rfl

theorem context_ok_new (pc : Word) (x : XAcc) (v : Word) (c : CheckImg) (e1 e2 e3 e4 e5 e6 r : Word) (n : Nat)
    (w : Option Instr) (b1 b2 b3 b4 : Bool) :
    (Context.mk pc [] [] [] x v c e1 e2 e3 e4 e5 e6 r [] n w b1 b2 b3 b4).ok = true := rfl

theorem context_handles_ok {k : Context} (h : k.ok = true) (m : SMap Skein) (hm : sortedKeys m = true) (pc : Word) (x : XAcc)
    (v : Word) (c : CheckImg) (e1 e2 e3 e4 e5 e6 r : Word) (n : Nat) (w : Option Instr) (b1 b2 b3 b4 : Bool) :
    (Context.mk pc k.s k.v k.a x v c e1 e2 e3 e4 e5 e6 r m n w b1 b2 b3 b4).ok = true := by
  obtain ⟨h1, h2, h3, h4, -⟩ := (context_ok_iff k).1 h
  exact (context_ok_iff _).2 ⟨h1, h2, h3, h4, hm⟩

theorem Context.wr_ok {k : Context} (h : k.ok = true) (r : SReg) (v : Word) : (k.wr r v).ok = true := by
  unfold Context.wr
  split
  · exact h
  · rename_i hr
    obtain ⟨h1, h2, h3⟩ := (context_ok_iff k).1 h
    refine (context_ok_iff _).2 ⟨mset_canonical 0 h1 _ v, fun p hp => ?_, h3⟩
    simp only [mset] at hp
    split at hp
    · exact h2 p (mem_tdel hp)
    · rcases mem_tput hp with rfl | hp
      · exact fun h0 => hr (BitVec.eq_of_toNat_eq h0)
      · exact h2 p hp

theorem Context.setVec_ok {k : Context} (h : k.ok = true) (r : VReg) (x : BitVec 512) : (k.setVec r x).ok = true := by
  obtain ⟨h1, h2, h3, h4⟩ := (context_ok_iff k).1 h
  exact (context_ok_iff _).2 ⟨h1, h2, mset_canonical 0 h3 _ x, h4⟩

theorem Context.setAcc_ok {k : Context} (h : k.ok = true) (r : AReg) (x : BitVec 1024) : (k.setAcc r x).ok = true := by
  obtain ⟨h1, h2, h3, h4, h5⟩ := (context_ok_iff k).1 h
  exact (context_ok_iff _).2 ⟨h1, h2, h3, mset_canonical 0 h4 _ x, h5⟩

theorem Context.next_ok {k : Context} (h : k.ok = true) (pc : Word) : (k.next pc).ok = true := h

theorem Context.handles_sorted {k : Context} (h : k.ok = true) : sortedKeys k.handles = true := ((context_ok_iff k).1 h).2.2.2.2

/-! ### How a command or an instruction ends -/

/-- The state a command ends in is well kept. -/
structure soundOut (o : Host.Outcome State Fault Refusal) : Prop where
  next : ∀ t, o = .next t → t.Sound

theorem soundOut_next {s : State} : soundOut (.next s) ↔ s.Sound :=
  ⟨fun h => h.next s rfl, fun h => ⟨fun t e => by cases e; exact h⟩⟩

/-- The state that an instruction's end carries is well kept. -/
def Fate.sound : Fate → Prop
  | .retire s => s.Sound
  | .jump s _ => s.Sound
  | .trap _ _ => True
  | .trapAfter s _ _ => s.Sound
  | .ecc _ => True
  | .wait _ => True

theorem soundOut_ite {c : Prop} [Decidable c] {a b : Host.Outcome State Fault Refusal} (h1 : soundOut a) (h2 : soundOut b) :
    soundOut (if c then a else b) := by
  split <;> assumption

theorem fate_ite {c : Prop} [Decidable c] {a b : Fate} (h1 : a.sound) (h2 : b.sound) : (if c then a else b).sound := by
  split <;> assumption

theorem fate_retire (s : State) : (Fate.retire s).sound ↔ s.Sound := Iff.rfl

theorem fate_jump (s : State) (t : Word) : (Fate.jump s t).sound ↔ s.Sound := Iff.rfl

theorem fate_trap (c : Nat) (v : Word) : (Fate.trap c v).sound ↔ True := Iff.rfl

theorem fate_trapAfter (s : State) (c : Nat) (v : Word) : (Fate.trapAfter s c v).sound ↔ s.Sound := Iff.rfl

theorem fate_ecc (o : Nat) : (Fate.ecc o).sound ↔ True := Iff.rfl

theorem fate_wait (x : Instr) : (Fate.wait x).sound ↔ True := Iff.rfl

end Sys2Proof.Machine
end

