-- ==== Sys2Proof/Laws/SoundOps.lean ====
section
/-! SUPPORT. The operations of Ops.lean keep a state well kept. -/
namespace Sys2Proof.Machine
set_option linter.unusedTactic false
set_option linter.unreachableTactic false
set_option linter.unusedSimpArgs false
open Sys2Proof

theorem State.put_sound {s : State} (h : s.Sound) (f : RegFld) (v : Nat) : (State.put s f v).Sound := by
  simp only [State.put]
  repeat'
    first
    | with_reducible assumption | with_reducible apply State.setReg_sound
    | with_reducible refine fst_sound (by assumption) ?_ | simp only [sound_upd, sound_updTil] | (intro _)
    | with_reducible apply sound_ite | split

theorem State.raise_sound {s : State} (h : s.Sound) (f : RegFld) : (State.raise s f).Sound := by
  simp only [State.raise]
  repeat'
    first
    | with_reducible assumption | with_reducible apply State.put_sound
    | with_reducible refine fst_sound (by assumption) ?_ | simp only [sound_upd, sound_updTil] | (intro _)
    | with_reducible apply sound_ite | split

theorem State.raiseIf_sound {s : State} (h : s.Sound) (c : Bool) (f : RegFld) : (State.raiseIf s c f).Sound := by
  simp only [State.raiseIf]
  repeat'
    first
    | with_reducible assumption | with_reducible apply State.put_sound
    | with_reducible refine fst_sound (by assumption) ?_ | simp only [sound_upd, sound_updTil] | (intro _)
    | with_reducible apply sound_ite | split

theorem State.bump_sound {s : State} (h : s.Sound) (f : RegFld) (n : Nat) : (State.bump s f n).Sound := by
  simp only [State.bump]
  repeat'
    first
    | with_reducible assumption | with_reducible apply State.put_sound
    | with_reducible refine fst_sound (by assumption) ?_ | simp only [sound_upd, sound_updTil] | (intro _)
    | with_reducible apply sound_ite | split

theorem State.tick_sound {s : State} (h : s.Sound) : (State.tick s).Sound := by
  simp only [State.tick]
  repeat'
    first
    | with_reducible assumption | with_reducible refine fst_sound (by assumption) ?_
    | simp only [sound_upd, sound_updTil] | (intro _) | with_reducible apply sound_ite | split

theorem State.memLog_sound {s : State} (h : s.Sound) (kind addr chan unit src row : Nat) : (State.memLog s kind addr
    chan unit src row).Sound := by
  simp only [State.memLog]
  repeat'
    first
    | with_reducible assumption | with_reducible apply State.setReg_sound | with_reducible apply State.raise_sound
    | with_reducible apply State.bump_sound | with_reducible apply State.put_sound
    | with_reducible refine fst_sound (by assumption) ?_ | simp only [sound_upd, sound_updTil] | (intro _)
    | with_reducible apply sound_ite | split

theorem State.writeLine_sound {s : State} (h : s.Sound) (pa : Nat) (bs : List Byte) : (State.writeLine s pa bs).Sound
    := by
  simp only [State.writeLine]
  repeat'
    first
    | with_reducible assumption | with_reducible apply State.setPoison_sound
    | with_reducible apply State.setBytes_sound | with_reducible apply State.raise_sound
    | with_reducible apply State.memLog_sound | with_reducible refine fst_sound (by assumption) ?_
    | simp only [sound_upd, sound_updTil] | (intro _) | with_reducible apply sound_ite | split

theorem State.writeLoop_sound (n : Nat) {s : State} (h : s.Sound) (pa : Nat) (bs : List Byte) :
    (State.writeLoop n s pa bs).Sound := by
  induction n generalizing s pa bs with
  | zero => exact h
  | succ n ih =>
    simp only [State.writeLoop]
    split
    · exact h
    · exact ih (State.writeLine_sound h _ _) _ _

theorem State.write_sound {s : State} (h : s.Sound) (pa : Nat) (bs : List Byte) : (State.write s pa bs).Sound := by
  simp only [State.write]
  repeat'
    first
    | with_reducible assumption | with_reducible apply State.writeLoop_sound
    | with_reducible refine fst_sound (by assumption) ?_ | simp only [sound_upd, sound_updTil] | (intro _)
    | with_reducible apply sound_ite | split

theorem State.logPoison_sound {s : State} (h : s.Sound) (pa n : Nat) : (State.logPoison s pa n).Sound := by
  simp only [State.logPoison]
  repeat'
    first
    | with_reducible assumption | with_reducible apply State.memLog_sound
    | with_reducible refine fst_sound (by assumption) ?_ | with_reducible apply sound_foldl
    | with_reducible apply sound_foldl_fst | simp only [sound_upd, sound_updTil] | (intro _)
    | with_reducible apply sound_ite | split

theorem State.read_sound {s : State} (h : s.Sound) (pa n : Nat) : (State.read s pa n).1.Sound := by
  simp only [State.read]
  repeat'
    first
    | with_reducible assumption | with_reducible apply State.logPoison_sound
    | with_reducible refine fst_sound (by assumption) ?_ | simp only [sound_upd, sound_updTil] | (intro _)
    | with_reducible apply sound_ite | split

theorem State.setTraceSlot_sound {s : State} (h : s.Sound) (key : Nat) (x : TrcSlot) : (State.setTraceSlot s key
    x).Sound := by
  simp only [State.setTraceSlot]
  repeat'
    first
    | with_reducible assumption | with_reducible refine fst_sound (by assumption) ?_
    | simp only [sound_upd, sound_updTil] | (intro _) | with_reducible apply sound_ite | split

theorem State.traceInto_sound {s : State} (h : s.Sound) (cls kind key source inst status : Nat) (detail : List Byte) :
    (State.traceInto s cls kind key source inst status detail).Sound := by
  simp only [State.traceInto]
  repeat'
    first
    | with_reducible assumption | with_reducible apply State.bump_sound
    | with_reducible apply State.setTraceSlot_sound | with_reducible refine fst_sound (by assumption) ?_
    | simp only [sound_upd, sound_updTil] | (intro _) | with_reducible apply sound_ite | split

theorem State.fire_sound {s : State} (h : s.Sound) (mask : Nat) : (State.fire s mask).Sound := by
  simp only [State.fire]
  repeat'
    first
    | with_reducible assumption | with_reducible apply State.traceInto_sound
    | with_reducible apply State.raise_sound | with_reducible apply State.setReg_sound
    | with_reducible apply State.put_sound | with_reducible refine fst_sound (by assumption) ?_
    | simp only [sound_upd, sound_updTil] | (intro _) | with_reducible apply sound_ite | split

theorem State.trace_sound {s : State} (h : s.Sound) (cls kind key source inst status : Nat) (detail : List Byte)
    (sampled : Bool) : (State.trace s cls kind key source inst status detail sampled).Sound := by
  simp only [State.trace]
  repeat'
    first
    | with_reducible assumption | with_reducible apply State.traceInto_sound
    | with_reducible apply State.fire_sound | with_reducible refine fst_sound (by assumption) ?_
    | simp only [sound_upd, sound_updTil] | (intro _) | with_reducible apply sound_ite | split

theorem State.traceBy_sound {s : State} (h : s.Sound) (cls kind i role source status : Nat) (detail : List Byte) :
    (State.traceBy s cls kind i role source status detail).Sound := by
  simp only [State.traceBy]
  repeat'
    first
    | with_reducible assumption | with_reducible apply State.traceInto_sound
    | with_reducible apply State.fire_sound | with_reducible refine fst_sound (by assumption) ?_
    | simp only [sound_upd, sound_updTil] | (intro _) | with_reducible apply sound_ite | split

theorem State.traceMgmt_sound {s : State} (h : s.Sound) (kind op sub status : Nat) : (State.traceMgmt s kind op sub
    status).Sound := by
  simp only [State.traceMgmt]
  repeat'
    first
    | with_reducible assumption | with_reducible apply State.trace_sound
    | with_reducible refine fst_sound (by assumption) ?_ | simp only [sound_upd, sound_updTil] | (intro _)
    | with_reducible apply sound_ite | split

theorem State.traceMem_sound {s : State} (h : s.Sound) (kind c op region : Nat) : (State.traceMem s kind c op
    region).Sound := by
  simp only [State.traceMem]
  repeat'
    first
    | with_reducible assumption | with_reducible apply State.trace_sound
    | with_reducible refine fst_sound (by assumption) ?_ | simp only [sound_upd, sound_updTil] | (intro _)
    | with_reducible apply sound_ite | split

theorem State.hostPut_sound {s : State} (h : s.Sound) (i a : Nat) (bs : List Byte) : (State.hostPut s i a bs).Sound :=
    by
  simp only [State.hostPut]
  repeat'
    first
    | with_reducible assumption | with_reducible refine fst_sound (by assumption) ?_
    | with_reducible apply sound_foldl | with_reducible apply sound_foldl_fst | simp only [sound_upd, sound_updTil]
    | (intro _) | with_reducible apply sound_ite | split

theorem State.hostPoison_sound {s : State} (h : s.Sound) (i a : Nat) : (State.hostPoison s i a).Sound := by
  simp only [State.hostPoison]
  repeat'
    first
    | with_reducible assumption | with_reducible refine fst_sound (by assumption) ?_
    | simp only [sound_upd, sound_updTil] | (intro _) | with_reducible apply sound_ite | split

theorem State.irq_sound {s : State} (h : s.Sound) (i v : Nat) : (State.irq s i v).Sound := by
  simp only [State.irq]
  repeat'
    first
    | with_reducible assumption | with_reducible refine fst_sound (by assumption) ?_
    | simp only [sound_upd, sound_updTil] | (intro _) | with_reducible apply sound_ite | split

end Sys2Proof.Machine
end

