-- ==== Sys2Proof/Laws/SoundRings.lean ====
section
/-! SUPPORT. The operations of Rings.lean keep a state well kept. -/
namespace Sys2Proof.Machine
set_option linter.unusedTactic false
set_option linter.unreachableTactic false
set_option linter.unusedSimpArgs false
open Sys2Proof

theorem State.setQueue_sound {s : State} (h : s.Sound) (i q : Nat) (x : Queue) : (State.setQueue s i q x).Sound := by
  simp only [State.setQueue]
  repeat'
    first
    | with_reducible assumption | with_reducible refine fst_sound (by assumption) ?_
    | simp only [sound_upd, sound_updTil] | (intro _) | with_reducible apply sound_ite | split

theorem State.ringPut_sound {s : State} (h : s.Sound) (i q a : Nat) (bs : List Byte) : (State.ringPut s i q a
    bs).Sound := by
  simp only [State.ringPut]
  repeat'
    first
    | with_reducible assumption | with_reducible refine fst_sound (by assumption) ?_
    | with_reducible apply sound_foldl | with_reducible apply sound_foldl_fst | simp only [sound_upd, sound_updTil]
    | (intro _) | with_reducible apply sound_ite | split

theorem State.logHeld_sound {s : State} (h : s.Sound) (i : Nat) (r : HeldRec) : (State.logHeld s i r).Sound := by
  simp only [State.logHeld]
  repeat'
    first
    | with_reducible assumption | with_reducible refine fst_sound (by assumption) ?_
    | simp only [sound_upd, sound_updTil] | (intro _) | with_reducible apply sound_ite | split

theorem State.completeEntry_sound {s : State} (h : s.Sound) (i q slot st res : Nat) : (State.completeEntry s i q slot
    st res).Sound := by
  simp only [State.completeEntry]
  repeat'
    first
    | with_reducible assumption | with_reducible apply State.setQueue_sound
    | with_reducible apply State.logHeld_sound | with_reducible apply State.ringPut_sound
    | with_reducible refine fst_sound (by assumption) ?_ | simp only [sound_upd, sound_updTil] | (intro _)
    | with_reducible apply sound_ite | split

theorem State.complete_sound {s : State} (h : s.Sound) (i q slot st res : Nat) : (State.complete s i q slot st
    res).Sound := by
  simp only [State.complete]
  repeat'
    first
    | with_reducible assumption | with_reducible apply State.traceBy_sound
    | with_reducible apply State.completeEntry_sound | with_reducible refine fst_sound (by assumption) ?_
    | simp only [sound_upd, sound_updTil] | (intro _) | with_reducible apply sound_ite | split

theorem State.setEvents_sound {s : State} (h : s.Sound) (i : Nat) (l : List InstEvent) : (State.setEvents s i l).Sound
    := by
  simp only [State.setEvents]
  repeat'
    first
    | with_reducible assumption | with_reducible apply State.put_sound
    | with_reducible refine fst_sound (by assumption) ?_ | simp only [sound_upd, sound_updTil] | (intro _)
    | with_reducible apply sound_ite | split

theorem State.deliverTo_sound {s : State} (h : s.Sound) (i slot : Nat) (x3 : InstEvent) : (State.deliverTo s i slot
    x3).Sound := by
  simp only [State.deliverTo]
  repeat'
    first
    | with_reducible assumption | with_reducible apply State.ringPut_sound | with_reducible apply State.put_sound
    | with_reducible apply State.irq_sound | with_reducible apply State.complete_sound
    | with_reducible refine fst_sound (by assumption) ?_ | simp only [sound_upd, sound_updTil] | (intro _)
    | with_reducible apply sound_ite | split

theorem State.event_sound {s : State} (h : s.Sound) (i : Nat) (x2 : InstEvent) : (State.event s i x2).Sound := by
  simp only [State.event]
  repeat'
    first
    | with_reducible assumption | with_reducible apply State.deliverTo_sound
    | with_reducible apply State.setEvents_sound | with_reducible apply State.bump_sound
    | with_reducible refine fst_sound (by assumption) ?_ | simp only [sound_upd, sound_updTil] | (intro _)
    | with_reducible apply sound_ite | split

theorem State.queueError_sound {s : State} (h : s.Sound) (i q reason slot : Nat) : (State.queueError s i q reason
    slot).Sound := by
  simp only [State.queueError]
  repeat'
    first
    | with_reducible assumption | with_reducible apply State.setQueue_sound
    | with_reducible apply State.setReg_sound | with_reducible apply State.event_sound
    | with_reducible refine fst_sound (by assumption) ?_ | simp only [sound_upd, sound_updTil] | (intro _)
    | with_reducible apply sound_ite | split

theorem State.takeRaw_sound {s : State} (h : s.Sound) (i q : Nat) (raw : List Byte) : (State.takeRaw s i q raw).Sound
    := by
  simp only [State.takeRaw]
  repeat'
    first
    | with_reducible assumption | with_reducible apply State.setQueue_sound
    | with_reducible apply State.traceBy_sound | with_reducible apply State.queueError_sound
    | with_reducible apply State.complete_sound | with_reducible refine fst_sound (by assumption) ?_
    | simp only [sound_upd, sound_updTil] | (intro _) | with_reducible apply sound_ite | split

theorem execRingEntryTake_sound {s : State} (h : s.Sound) (i q : Nat) (raw : Option (List Byte)) : soundOut
    (execRingEntryTake i q raw s) := by
  simp only [execRingEntryTake]
  repeat'
    first
    | with_reducible assumption | with_reducible apply State.takeRaw_sound
    | with_reducible apply State.setQueue_sound | with_reducible refine fst_sound (by assumption) ?_
    | rw [soundOut_next] | simp only [sound_upd, sound_updTil] | (intro _) | with_reducible apply soundOut_ite
    | with_reducible apply sound_ite | split | (rename_i hx; cases hx)

theorem execOwnPoll_sound {s : State} (h : s.Sound) (i q : Nat) (raw : Option (List Byte)) : soundOut (execOwnPoll i q
    raw s) := by
  simp only [execOwnPoll]
  repeat'
    first
    | with_reducible assumption | with_reducible apply State.takeRaw_sound
    | with_reducible apply State.setQueue_sound | with_reducible refine fst_sound (by assumption) ?_
    | rw [soundOut_next] | simp only [sound_upd, sound_updTil] | (intro _) | with_reducible apply soundOut_ite
    | with_reducible apply sound_ite | split

theorem execRingReadRetry_sound {s : State} (h : s.Sound) (i q : Nat) (raw : Option (List Byte)) : soundOut
    (execRingReadRetry i q raw s) := by
  simp only [execRingReadRetry]
  repeat'
    first
    | with_reducible assumption | with_reducible apply State.takeRaw_sound
    | with_reducible apply State.queueError_sound | with_reducible refine fst_sound (by assumption) ?_
    | rw [soundOut_next] | simp only [sound_upd, sound_updTil] | (intro _) | with_reducible apply soundOut_ite
    | with_reducible apply sound_ite | split | (rename_i hx; cases hx)

theorem execDoorbellWrite_sound {s : State} (h : s.Sound) (i q tail : Nat) : soundOut (execDoorbellWrite i q tail s)
    := by
  simp only [execDoorbellWrite]
  repeat'
    first
    | with_reducible assumption | with_reducible apply State.setQueue_sound
    | with_reducible refine fst_sound (by assumption) ?_ | rw [soundOut_next] | simp only [sound_upd, sound_updTil]
    | (intro _) | with_reducible apply soundOut_ite | with_reducible apply sound_ite | split

theorem State.publish_sound {s : State} (h : s.Sound) (i q : Nat) (due : Bool) : (State.publish s i q due).Sound := by
  simp only [State.publish]
  repeat'
    first
    | with_reducible assumption | with_reducible apply State.ringPut_sound
    | with_reducible apply State.setQueue_sound | with_reducible apply State.irq_sound
    | with_reducible refine fst_sound (by assumption) ?_ | simp only [sound_upd, sound_updTil] | (intro _)
    | with_reducible apply sound_ite | split

theorem execHeadPublish_sound {s : State} (h : s.Sound) (i q : Nat) : soundOut (execHeadPublish i q s) := by
  simp only [execHeadPublish]
  repeat'
    first
    | with_reducible assumption | with_reducible apply State.publish_sound
    | with_reducible refine fst_sound (by assumption) ?_ | rw [soundOut_next] | simp only [sound_upd, sound_updTil]
    | (intro _) | with_reducible apply soundOut_ite | with_reducible apply sound_ite | split

theorem execCoalesceTimer_sound {s : State} (h : s.Sound) (i q : Nat) : soundOut (execCoalesceTimer i q s) := by
  simp only [execCoalesceTimer]
  repeat'
    first
    | with_reducible assumption | with_reducible apply State.publish_sound
    | with_reducible refine fst_sound (by assumption) ?_ | rw [soundOut_next] | simp only [sound_upd, sound_updTil]
    | (intro _) | with_reducible apply soundOut_ite | with_reducible apply sound_ite | split

theorem execRingSyncRead_sound {s : State} (h : s.Sound) (i : Nat) : soundOut (execRingSyncRead i s) := by
  simp only [execRingSyncRead]
  repeat'
    first
    | with_reducible assumption | with_reducible refine fst_sound (by assumption) ?_ | rw [soundOut_next]
    | simp only [sound_upd, sound_updTil] | (intro _) | with_reducible apply soundOut_ite
    | with_reducible apply sound_ite | split

theorem execNop_sound {s : State} (h : s.Sound) (i q slot : Nat) : soundOut (execNop i q slot s) := by
  simp only [execNop]
  repeat'
    first
    | with_reducible assumption | with_reducible apply State.complete_sound
    | with_reducible refine fst_sound (by assumption) ?_ | rw [soundOut_next] | simp only [sound_upd, sound_updTil]
    | (intro _) | with_reducible apply soundOut_ite | with_reducible apply sound_ite | split

theorem execAsyncEvent_sound {s : State} (h : s.Sound) (i slot : Nat) : soundOut (execAsyncEvent i slot s) := by
  simp only [execAsyncEvent]
  repeat'
    first
    | with_reducible assumption | with_reducible apply State.complete_sound
    | with_reducible apply State.deliverTo_sound | with_reducible apply State.setEvents_sound
    | with_reducible refine fst_sound (by assumption) ?_ | rw [soundOut_next] | simp only [sound_upd, sound_updTil]
    | (intro _) | with_reducible apply soundOut_ite | with_reducible apply sound_ite | split

end Sys2Proof.Machine
end

