-- ==== Sys2Proof/Laws/SoundXlate.lean ====
section
/-! SUPPORT. The operations of Xlate.lean keep a state well kept. -/
namespace Sys2Proof.Machine
set_option linter.unusedTactic false
set_option linter.unreachableTactic false
set_option linter.unusedSimpArgs false
open Sys2Proof

theorem State.badEntry_sound {s : State} (h : s.Sound) (a : Nat) (x2 : Hit) : (State.badEntry s a x2).Sound := by
  simp only [State.badEntry]
  repeat'
    first
    | with_reducible assumption | with_reducible apply State.raise_sound | with_reducible apply State.setReg_sound
    | with_reducible refine fst_sound (by assumption) ?_ | simp only [sound_upd, sound_updTil] | (intro _)
    | with_reducible apply sound_ite | split

theorem State.flushHeld_sound {s : State} (h : s.Sound) (i : Nat) : (State.flushHeld s i).Sound := by
  simp only [State.flushHeld]
  repeat'
    first
    | with_reducible assumption | with_reducible apply State.hostPut_sound | with_reducible apply State.irq_sound
    | with_reducible apply State.raise_sound | with_reducible apply State.put_sound
    | with_reducible refine fst_sound (by assumption) ?_ | with_reducible apply sound_foldl
    | with_reducible apply sound_foldl_fst | simp only [sound_upd, sound_updTil] | (intro _)
    | with_reducible apply sound_ite | split

theorem State.sendBatch_sound {s : State} (h : s.Sound) (i : Nat) : (State.sendBatch s i).Sound := by
  simp only [State.sendBatch]
  repeat'
    first
    | with_reducible assumption | with_reducible apply State.flushHeld_sound
    | with_reducible refine fst_sound (by assumption) ?_ | simp only [sound_upd, sound_updTil] | (intro _)
    | with_reducible apply sound_ite | split

theorem State.traceFault_sound {s : State} (h : s.Sound) (i kind a va st : Nat) : (State.traceFault s i kind a va
    st).Sound := by
  simp only [State.traceFault]
  repeat'
    first
    | with_reducible assumption | with_reducible apply State.traceBy_sound
    | with_reducible refine fst_sound (by assumption) ?_ | simp only [sound_upd, sound_updTil] | (intro _)
    | with_reducible apply sound_ite | split

theorem State.addRecord_sound {s : State} (h : s.Sound) (i : Nat) (r : FaultRec) (base shift : Nat) {t : State} (e :
    State.addRecord s i r base shift = some t) : t.Sound := by
  simp only [State.addRecord] at e
  have h0 : (if s.batchCap ≤ (mget [] s.xlt.openB i).length then s.sendBatch i else s).Sound := by
    split
    · exact State.sendBatch_sound h i
    · exact h
  generalize (if s.batchCap ≤ (mget [] s.xlt.openB i).length then s.sendBatch i else s) = s0 at e h0
  split at e
  · cases e
    repeat'
      first
      | with_reducible assumption | with_reducible apply State.sendBatch_sound
      | with_reducible apply State.traceFault_sound | with_reducible apply State.raise_sound
      | with_reducible apply State.bump_sound | simp only [sound_upd, sound_updTil] | split
  · cases e

theorem State.countStall_sound {s : State} (h : s.Sound) (c : Bool) : (State.countStall s c).Sound := by
  simp only [State.countStall]
  repeat'
    first
    | with_reducible assumption | with_reducible apply State.raise_sound | with_reducible apply State.bump_sound
    | with_reducible refine fst_sound (by assumption) ?_ | simp only [sound_upd, sound_updTil] | (intro _)
    | with_reducible apply sound_ite | split

theorem State.park_sound {s : State} (h : s.Sound) (i a va : Nat) (wr : Bool) (who : Waiter) (x6 : Hit) : (State.park
    s i a va wr who x6).Sound := by
  simp only [State.park]
  apply State.countStall_sound
  rw [sound_upd]
  have hs : ∀ l, ({ s with xlt := { s.xlt with parked := l } } : State).Sound := fun l => (sound_upd ..).2 h
  refine getD_sound (hs _) fun t hq => ?_
  split at hq
  · cases hq
    exact hs _
  · exact State.addRecord_sound (hs _) _ _ _ _ hq

theorem State.translate_sound {s : State} (h : s.Sound) (i a va : Nat) (wr : Bool) (who : Waiter) : (State.translate s
    i a va wr who).1.Sound := by
  simp only [State.translate]
  repeat'
    first
    | with_reducible assumption | with_reducible apply State.bump_sound | with_reducible apply State.badEntry_sound
    | with_reducible apply State.park_sound | with_reducible apply State.raise_sound
    | with_reducible refine fst_sound (by assumption) ?_ | simp only [sound_upd, sound_updTil] | (intro _)
    | with_reducible apply sound_ite | split

theorem State.retryNeed_sound {s : State} (h : s.Sound) (p : Parked) : (State.retryNeed s p).Sound := by
  simp only [State.retryNeed]
  split
  · split
    · rename_i t hq
      rw [sound_upd]
      split at hq
      · cases hq
        exact h
      · exact State.addRecord_sound h _ _ _ _ hq
    · exact h
  · exact h

theorem State.settle_sound {s : State} (h : s.Sound) (i : Nat) : (State.settle s i).Sound := by
  simp only [State.settle]
  repeat'
    first
    | with_reducible assumption | with_reducible apply State.retryNeed_sound
    | with_reducible refine fst_sound (by assumption) ?_ | with_reducible apply sound_foldl
    | with_reducible apply sound_foldl_fst | simp only [sound_upd, sound_updTil] | (intro _)
    | with_reducible apply sound_ite | split | (rename_i hx; cases hx)

theorem State.endService_sound {s : State} (h : s.Sound) (i a base n : Nat) : (State.endService s i a base n).Sound :=
    by
  simp only [State.endService]
  repeat'
    first
    | with_reducible assumption | with_reducible apply State.traceFault_sound
    | with_reducible refine fst_sound (by assumption) ?_ | with_reducible apply sound_foldl
    | with_reducible apply sound_foldl_fst | simp only [sound_upd, sound_updTil] | (intro _)
    | with_reducible apply sound_ite | split

theorem State.endUnresolved_sound {s : State} (h : s.Sound) (i : Nat) (sel : OutPage → Bool) : (State.endUnresolved s
    i sel).Sound := by
  simp only [State.endUnresolved]
  repeat'
    first
    | with_reducible assumption | with_reducible apply State.settle_sound | with_reducible apply State.raise_sound
    | with_reducible apply State.bump_sound | with_reducible apply State.traceFault_sound
    | with_reducible refine fst_sound (by assumption) ?_ | with_reducible apply sound_foldl
    | with_reducible apply sound_foldl_fst | simp only [sound_upd, sound_updTil] | (intro _)
    | with_reducible apply sound_ite | split

theorem State.endAllFaults_sound {s : State} (h : s.Sound) (i : Nat) : (State.endAllFaults s i).Sound := by
  simp only [State.endAllFaults]
  repeat'
    first
    | with_reducible assumption | with_reducible apply State.endUnresolved_sound
    | with_reducible refine fst_sound (by assumption) ?_ | simp only [sound_upd, sound_updTil] | (intro _)
    | with_reducible apply sound_ite | split

theorem State.setEntry_sound {s : State} (h : s.Sound) (epa x2 : Nat) : (State.setEntry s epa x2).Sound := by
  simp only [State.setEntry]
  repeat'
    first
    | with_reducible assumption | with_reducible apply State.setBytes_sound
    | with_reducible refine fst_sound (by assumption) ?_ | simp only [sound_upd, sound_updTil] | (intro _)
    | with_reducible apply sound_ite | split

theorem State.poolTake_sound {s : State} (h : s.Sound) (a n : Nat) {p : State × Nat} (e : State.poolTake s a n = some
    p) : p.1.Sound := by
  simp only [State.poolTake] at e
  split at e
  · cases e
    exact State.put_sound ((sound_upd ..).2 h) _ _
  · cases e

theorem State.buildTo_sound {s : State} (h : s.Sound) (a va lv f : Nat) (x : Hit) {p : State × Nat}
    (e : State.buildTo s a va lv f x = some p) : p.1.Sound := by
  induction f generalizing s x p with
  | zero => cases e
  | succ f ih =>
    simp only [State.buildTo] at e
    split at e
    · cases e
      exact h
    · split at e
      · cases e
      · rename_i s1 tbl hp
        exact ih (State.setEntry_sound (State.write_sound (State.poolTake_sound h _ _ hp) _ _) _ _) _ e

end Sys2Proof.Machine
end

