-- ==== Sys2Proof/Laws/SoundTile.lean ====
section
/-! SUPPORT. The operations of Tile.lean keep a state well kept. -/
namespace Sys2Proof.Machine
set_option linter.unusedTactic false
set_option linter.unreachableTactic false
set_option linter.unusedSimpArgs false
open Sys2Proof

theorem State.ws_sound {s : State} (h : s.Sound) (i : Issue) (r : SReg) (v : Word) : (State.ws s i r v).Sound := by
  simp only [State.ws]
  repeat'
    first
    | with_reducible assumption | with_reducible apply State.upd_sound
    | simp only [tile_ok_mk, context_ok_mk, context_ok_new] | with_reducible apply Tile.s_ok
    | with_reducible apply Tile.w_ok | with_reducible apply State.tile_ok | with_reducible apply State.ctx_ok
    | with_reducible apply Tile.ctx_ok | with_reducible apply Tile.setCtx_ok | with_reducible apply Context.wr_ok
    | with_reducible apply Context.setVec_ok | with_reducible apply Context.setAcc_ok
    | with_reducible apply Context.next_ok | with_reducible exact True.intro | with_reducible apply And.intro
    | with_reducible refine fst_sound (by assumption) ?_ | simp only [sound_upd, sound_updTil] | (intro _)
    | with_reducible apply sound_ite | split

theorem State.eccCe_sound {s : State} (h : s.Sound) (t : Nat) : (State.eccCe s t).Sound := by
  simp only [State.eccCe]
  repeat'
    first
    | with_reducible assumption | with_reducible apply State.raise_sound | with_reducible apply State.bump_sound
    | with_reducible refine fst_sound (by assumption) ?_ | simp only [sound_upd, sound_updTil] | (intro _)
    | with_reducible apply sound_ite | split

theorem State.readLocal_sound {s : State} (h : s.Sound) (i : Issue) (off n : Nat) : (State.readLocal s i off
    n).1.Sound := by
  simp only [State.readLocal]
  repeat'
    first
    | with_reducible assumption | with_reducible apply State.eccCe_sound
    | with_reducible refine fst_sound (by assumption) ?_ | simp only [sound_upd, sound_updTil] | (intro _)
    | with_reducible apply sound_ite | split

theorem State.writeLocal_sound {s : State} (h : s.Sound) (i : Issue) (off : Nat) (bs : List Byte) : (State.writeLocal
    s i off bs).Sound := by
  simp only [State.writeLocal]
  repeat'
    first
    | with_reducible assumption | with_reducible apply State.setBytes_sound
    | with_reducible refine fst_sound (by assumption) ?_ | simp only [sound_upd, sound_updTil] | (intro _)
    | with_reducible apply sound_ite | split

theorem State.launch_sound {s : State} (h : s.Sound) (src target cls : Nat) (yx : Bool) (record : List Byte) (m : Msg)
    (w : Bool) : (State.launch s src target cls yx record m w).Sound := by
  simp only [State.launch]
  repeat'
    first
    | with_reducible assumption | with_reducible refine fst_sound (by assumption) ?_
    | simp only [sound_upd, sound_updTil] | (intro _) | with_reducible apply sound_ite | split

theorem State.pushReturned_sound {s : State} (h : s.Sound) (t : Nat) (entry : List Byte) : (State.pushReturned s t
    entry).Sound := by
  simp only [State.pushReturned]
  repeat'
    first
    | with_reducible assumption | with_reducible apply State.raise_sound | with_reducible apply State.setTile_sound
    | simp only [tile_ok_mk, context_ok_mk, context_ok_new] | with_reducible apply Tile.s_ok
    | with_reducible apply Tile.w_ok | with_reducible apply State.tile_ok | with_reducible apply State.ctx_ok
    | with_reducible apply Tile.ctx_ok | with_reducible apply Tile.setCtx_ok | with_reducible apply Context.wr_ok
    | with_reducible apply Context.setVec_ok | with_reducible apply Context.setAcc_ok
    | with_reducible apply Context.next_ok | with_reducible exact True.intro | with_reducible apply And.intro
    | with_reducible refine fst_sound (by assumption) ?_ | simp only [sound_upd, sound_updTil] | (intro _)
    | with_reducible apply sound_ite | split

theorem State.rmqWait_sound {s : State} (h : s.Sound) (t : Nat) : (State.rmqWait s t).Sound := by
  simp only [State.rmqWait]
  repeat'
    first
    | with_reducible assumption | with_reducible apply State.raise_sound | with_reducible apply State.bump_sound
    | with_reducible refine fst_sound (by assumption) ?_ | simp only [sound_upd, sound_updTil] | (intro _)
    | with_reducible apply sound_ite | split

theorem State.returnMsg_sound {s : State} (h : s.Sound) (t status reason role epoch : Nat) (yx : Bool) (m : Msg) :
    (State.returnMsg s t status reason role epoch yx m).Sound := by
  simp only [State.returnMsg]
  repeat'
    first
    | with_reducible assumption | with_reducible apply State.bump_sound
    | with_reducible apply State.pushReturned_sound | with_reducible apply State.rmqWait_sound
    | with_reducible apply State.launch_sound | with_reducible apply State.raise_sound
    | with_reducible refine fst_sound (by assumption) ?_ | simp only [sound_upd, sound_updTil] | (intro _)
    | with_reducible apply sound_ite | split

theorem State.sendMsg_sound {s : State} (h : s.Sound) (m : Msg) : (State.sendMsg s m).Sound := by
  simp only [State.sendMsg]
  repeat'
    first
    | with_reducible assumption | with_reducible apply State.bump_sound | with_reducible apply State.launch_sound
    | with_reducible apply State.raise_sound | with_reducible apply State.returnMsg_sound
    | with_reducible refine fst_sound (by assumption) ?_ | simp only [sound_upd, sound_updTil] | (intro _)
    | with_reducible apply sound_ite | split

theorem State.notice_sound {s : State} (h : s.Sound) (t : Nat) (c : Ctx) : (State.notice s t c).Sound := by
  simp only [State.notice]
  repeat'
    first
    | with_reducible assumption | with_reducible apply State.setTile_sound
    | with_reducible apply State.sendMsg_sound | simp only [tile_ok_mk, context_ok_mk, context_ok_new]
    | with_reducible apply Tile.s_ok | with_reducible apply Tile.w_ok | with_reducible apply State.tile_ok
    | with_reducible apply State.ctx_ok | with_reducible apply Tile.ctx_ok | with_reducible apply Tile.setCtx_ok
    | with_reducible apply Context.wr_ok | with_reducible apply Context.setVec_ok
    | with_reducible apply Context.setAcc_ok | with_reducible apply Context.next_ok
    | with_reducible exact True.intro | with_reducible apply And.intro
    | with_reducible refine fst_sound (by assumption) ?_ | simp only [sound_upd, sound_updTil] | (intro _)
    | with_reducible apply sound_ite | split

theorem State.except_sound {s : State} (h : s.Sound) (t : Nat) (x : Ctx) (c : Nat) (v a : Word) : (State.except s t x
    c v a).Sound := by
  simp only [State.except]
  repeat'
    first
    | with_reducible assumption | with_reducible apply State.setCtx_sound | with_reducible apply State.notice_sound
    | with_reducible apply State.setTile_sound | simp only [tile_ok_mk, context_ok_mk, context_ok_new]
    | with_reducible apply Tile.s_ok | with_reducible apply Tile.w_ok | with_reducible apply State.tile_ok
    | with_reducible apply State.ctx_ok | with_reducible apply Tile.ctx_ok | with_reducible apply Tile.setCtx_ok
    | with_reducible apply Context.wr_ok | with_reducible apply Context.setVec_ok
    | with_reducible apply Context.setAcc_ok | with_reducible apply Context.next_ok
    | with_reducible exact True.intro | with_reducible apply And.intro
    | with_reducible refine fst_sound (by assumption) ?_ | simp only [sound_upd, sound_updTil] | (intro _)
    | with_reducible apply sound_ite | split

theorem State.eccUe_sound {s : State} (h : s.Sound) (i : Issue) (off : Nat) : (State.eccUe s i off).Sound := by
  simp only [State.eccUe]
  repeat'
    first
    | with_reducible assumption | with_reducible apply State.raise_sound | with_reducible apply State.except_sound
    | with_reducible apply State.upd_sound | simp only [tile_ok_mk, context_ok_mk, context_ok_new]
    | with_reducible apply Tile.s_ok | with_reducible apply Tile.w_ok | with_reducible apply State.tile_ok
    | with_reducible apply State.ctx_ok | with_reducible apply Tile.ctx_ok | with_reducible apply Tile.setCtx_ok
    | with_reducible apply Context.wr_ok | with_reducible apply Context.setVec_ok
    | with_reducible apply Context.setAcc_ok | with_reducible apply Context.next_ok
    | with_reducible exact True.intro | with_reducible apply And.intro
    | with_reducible refine fst_sound (by assumption) ?_ | simp only [sound_upd, sound_updTil] | (intro _)
    | with_reducible apply sound_ite | split

theorem State.advance_sound {s : State} (h : s.Sound) (i : Issue) : (State.advance s i).Sound := by
  simp only [State.advance]
  repeat'
    first
    | with_reducible assumption | with_reducible apply State.upd_sound | with_reducible apply State.except_sound
    | simp only [tile_ok_mk, context_ok_mk, context_ok_new] | with_reducible apply Tile.s_ok
    | with_reducible apply Tile.w_ok | with_reducible apply State.tile_ok | with_reducible apply State.ctx_ok
    | with_reducible apply Tile.ctx_ok | with_reducible apply Tile.setCtx_ok | with_reducible apply Context.wr_ok
    | with_reducible apply Context.setVec_ok | with_reducible apply Context.setAcc_ok
    | with_reducible apply Context.next_ok | with_reducible exact True.intro | with_reducible apply And.intro
    | with_reducible refine fst_sound (by assumption) ?_ | simp only [sound_upd, sound_updTil] | (intro _)
    | with_reducible apply sound_ite | split

theorem State.finish_sound {s : State} (h : s.Sound) (i : Issue) {f : Fate} (hf : f.sound) : (State.finish s i f).Sound := by
  have hn : ∀ (k : Context), k.ok = true → ∀ pc, (k.next pc).ok = true := fun k hk pc => Context.next_ok hk pc
  cases f with
  | retire s1 => exact State.advance_sound hf i
  | jump s1 t =>
    simp only [State.finish]
    split
    · exact State.upd_sound hf i fun k hk => hn k hk _
    · exact State.except_sound h _ _ _ _ _
  | trap c v => exact State.except_sound h _ _ _ _ _
  | trapAfter s1 c v => exact State.except_sound (State.upd_sound hf i fun k hk => hn k hk _) _ _ _ _ _
  | ecc o => exact State.eccUe_sound h _ _
  | wait x => exact State.upd_sound h i fun k hk => (context_ok_mk ..).2 hk

theorem State.issue_sound {s : State} (h : s.Sound) (i : Issue) {body : State → Fate} (hb : ∀ s, s.Sound → (body s).sound) :
    soundOut (State.issue s i body) := by
  simp only [State.issue]
  split
  · split
    · exact soundOut_next.2 (State.eccUe_sound h _ _)
    · exact soundOut_next.2 (State.finish_sound (State.eccCe_sound h _) i (hb _ (State.eccCe_sound h _)))
    · exact soundOut_next.2 (State.finish_sound h i (hb _ h))
  · exact soundOut_next.2 h

theorem State.retry_sound {s : State} (h : s.Sound) (i : Issue) {sel : Instr → Option (State → Fate)}
    (hb : ∀ x b, sel x = some b → (b s).sound) : soundOut (State.retry s i sel) := by
  simp only [State.retry]
  split
  · split
    · split
      · rename_i hx
        exact soundOut_next.2 (State.finish_sound h i (hb _ _ hx))
      · exact soundOut_next.2 h
    · exact soundOut_next.2 h
  · exact soundOut_next.2 h

end Sys2Proof.Machine
end

