-- ==== Sys2Proof/Laws/SoundOperands.lean ====
section
/-! SUPPORT. The operations of Operands.lean keep a state well kept. -/
namespace Sys2Proof.Machine
set_option linter.unusedTactic false
set_option linter.unreachableTactic false
set_option linter.unusedSimpArgs false
open Sys2Proof

theorem State.readData_sound {s : State} (h : s.Sound) (i : Issue) (ea : Word) (n : Nat) {k : State → List Byte → Fate}
    (hk : ∀ s bs, s.Sound → (k s bs).sound) : (State.readData s i ea n k).sound := by
  simp only [State.readData]
  split
  · exact True.intro
  · split
    · rename_i e
      exact hk _ _ (fst_sound e (State.readLocal_sound h _ _ _))
    · exact True.intro

theorem State.writeData_sound {s : State} (h : s.Sound) (i : Issue) (ea : Word) (bs : List Byte) : (State.writeData s
    i ea bs).sound := by
  simp only [State.writeData]
  repeat'
    first
    | with_reducible assumption | with_reducible apply State.writeLocal_sound
    | with_reducible refine fst_sound (by assumption) ?_
    | simp only [fate_retire, fate_jump, fate_trap, fate_trapAfter, fate_ecc, fate_wait]
    | simp only [sound_upd, sound_updTil] | (intro _) | with_reducible apply fate_ite
    | with_reducible apply sound_ite | split

end Sys2Proof.Machine
end

