-- ==== Sys2Proof/Laws/SoundFlags.lean ====
section
/-! SUPPORT. The operations of Flags.lean keep a state well kept. -/
namespace Sys2Proof.Machine
set_option linter.unusedTactic false
set_option linter.unreachableTactic false
set_option linter.unusedSimpArgs false
open Sys2Proof

theorem State.fpEnd_sound {s : State} (h : s.Sound) (i : Issue) (w fl : Nat) {f : Context → Context}
    (hf : ∀ k : Context, k.ok = true → (f k).ok = true) : (State.fpEnd s i w fl f).sound := by
  simp only [State.fpEnd]
  split
  · exact True.intro
  · exact State.upd_sound h i fun k hk => (context_ok_mk ..).2 (hf k hk)

end Sys2Proof.Machine
end

