-- ==== Sys2Proof/Laws/SoundVector.lean ====
section
/-! SUPPORT. The operations of Vector.lean keep a state well kept. -/
namespace Sys2Proof.Machine
set_option linter.unusedTactic false
set_option linter.unreachableTactic false
set_option linter.unusedSimpArgs false
open Sys2Proof

theorem execVld_sound {s : State} (h : s.Sound) (i : Issue) (v : VReg) (rs1 : SReg) (imm : BitVec 16) : soundOut
    (execVld i v rs1 imm s) := by
  simp only [execVld]
  repeat'
    first
    | with_reducible assumption | with_reducible apply State.issue_sound
    | with_reducible apply State.readData_sound | with_reducible apply State.upd_sound
    | simp only [tile_ok_mk, context_ok_mk, context_ok_new] | with_reducible apply Tile.s_ok
    | with_reducible apply Tile.w_ok | with_reducible apply State.tile_ok | with_reducible apply State.ctx_ok
    | with_reducible apply Tile.ctx_ok | with_reducible apply Tile.setCtx_ok | with_reducible apply Context.wr_ok
    | with_reducible apply Context.setVec_ok | with_reducible apply Context.setAcc_ok
    | with_reducible apply Context.next_ok | with_reducible exact True.intro | with_reducible apply And.intro
    | with_reducible refine fst_sound (by assumption) ?_ | rw [soundOut_next]
    | simp only [fate_retire, fate_jump, fate_trap, fate_trapAfter, fate_ecc, fate_wait]
    | simp only [sound_upd, sound_updTil] | (intro _) | with_reducible apply soundOut_ite
    | with_reducible apply sound_ite | split

theorem execVst_sound {s : State} (h : s.Sound) (i : Issue) (v : VReg) (rs1 : SReg) (imm : BitVec 16) : soundOut
    (execVst i v rs1 imm s) := by
  simp only [execVst]
  repeat'
    first
    | with_reducible assumption | with_reducible apply State.issue_sound
    | with_reducible apply State.writeData_sound | with_reducible refine fst_sound (by assumption) ?_
    | rw [soundOut_next] | simp only [fate_retire, fate_jump, fate_trap, fate_trapAfter, fate_ecc, fate_wait]
    | simp only [sound_upd, sound_updTil] | (intro _) | with_reducible apply soundOut_ite
    | with_reducible apply sound_ite | split

theorem execAld_sound {s : State} (h : s.Sound) (i : Issue) (a : AReg) (rs1 : SReg) (imm : BitVec 16) : soundOut
    (execAld i a rs1 imm s) := by
  simp only [execAld]
  repeat'
    first
    | with_reducible assumption | with_reducible apply State.issue_sound
    | with_reducible apply State.readData_sound | with_reducible apply State.upd_sound
    | simp only [tile_ok_mk, context_ok_mk, context_ok_new] | with_reducible apply Tile.s_ok
    | with_reducible apply Tile.w_ok | with_reducible apply State.tile_ok | with_reducible apply State.ctx_ok
    | with_reducible apply Tile.ctx_ok | with_reducible apply Tile.setCtx_ok | with_reducible apply Context.wr_ok
    | with_reducible apply Context.setVec_ok | with_reducible apply Context.setAcc_ok
    | with_reducible apply Context.next_ok | with_reducible exact True.intro | with_reducible apply And.intro
    | with_reducible refine fst_sound (by assumption) ?_ | rw [soundOut_next]
    | simp only [fate_retire, fate_jump, fate_trap, fate_trapAfter, fate_ecc, fate_wait]
    | simp only [sound_upd, sound_updTil] | (intro _) | with_reducible apply soundOut_ite
    | with_reducible apply sound_ite | split

theorem execAst_sound {s : State} (h : s.Sound) (i : Issue) (a : AReg) (rs1 : SReg) (imm : BitVec 16) : soundOut
    (execAst i a rs1 imm s) := by
  simp only [execAst]
  repeat'
    first
    | with_reducible assumption | with_reducible apply State.issue_sound
    | with_reducible apply State.writeData_sound | with_reducible refine fst_sound (by assumption) ?_
    | rw [soundOut_next] | simp only [fate_retire, fate_jump, fate_trap, fate_trapAfter, fate_ecc, fate_wait]
    | simp only [sound_upd, sound_updTil] | (intro _) | with_reducible apply soundOut_ite
    | with_reducible apply sound_ite | split

theorem execXst_sound {s : State} (h : s.Sound) (i : Issue) (rs1 : SReg) (imm : BitVec 16) : soundOut (execXst i rs1
    imm s) := by
  simp only [execXst]
  repeat'
    first
    | with_reducible assumption | with_reducible apply State.issue_sound
    | with_reducible apply State.writeData_sound | with_reducible refine fst_sound (by assumption) ?_
    | rw [soundOut_next] | simp only [fate_retire, fate_jump, fate_trap, fate_trapAfter, fate_ecc, fate_wait]
    | simp only [sound_upd, sound_updTil] | (intro _) | with_reducible apply soundOut_ite
    | with_reducible apply sound_ite | split

theorem execXldi_sound {s : State} (h : s.Sound) (i : Issue) (rs1 : SReg) (imm : BitVec 16) : soundOut (execXldi i rs1
    imm s) := by
  simp only [execXldi]
  repeat'
    first
    | with_reducible assumption | with_reducible apply State.issue_sound
    | with_reducible apply State.readData_sound | with_reducible apply State.upd_sound
    | simp only [tile_ok_mk, context_ok_mk, context_ok_new] | with_reducible apply Tile.s_ok
    | with_reducible apply Tile.w_ok | with_reducible apply State.tile_ok | with_reducible apply State.ctx_ok
    | with_reducible apply Tile.ctx_ok | with_reducible apply Tile.setCtx_ok | with_reducible apply Context.wr_ok
    | with_reducible apply Context.setVec_ok | with_reducible apply Context.setAcc_ok
    | with_reducible apply Context.next_ok | with_reducible exact True.intro | with_reducible apply And.intro
    | with_reducible refine fst_sound (by assumption) ?_ | rw [soundOut_next]
    | simp only [fate_retire, fate_jump, fate_trap, fate_trapAfter, fate_ecc, fate_wait]
    | simp only [sound_upd, sound_updTil] | (intro _) | with_reducible apply soundOut_ite
    | with_reducible apply sound_ite | split

theorem execXmrg_sound {s : State} (h : s.Sound) (i : Issue) (rs1 : SReg) (imm : BitVec 16) : soundOut (execXmrg i rs1
    imm s) := by
  simp only [execXmrg]
  repeat'
    first
    | with_reducible assumption | with_reducible apply State.issue_sound
    | with_reducible apply State.readData_sound | with_reducible apply State.upd_sound
    | simp only [tile_ok_mk, context_ok_mk, context_ok_new] | with_reducible apply Tile.s_ok
    | with_reducible apply Tile.w_ok | with_reducible apply State.tile_ok | with_reducible apply State.ctx_ok
    | with_reducible apply Tile.ctx_ok | with_reducible apply Tile.setCtx_ok | with_reducible apply Context.wr_ok
    | with_reducible apply Context.setVec_ok | with_reducible apply Context.setAcc_ok
    | with_reducible apply Context.next_ok | with_reducible exact True.intro | with_reducible apply And.intro
    | with_reducible refine fst_sound (by assumption) ?_ | rw [soundOut_next]
    | simp only [fate_retire, fate_jump, fate_trap, fate_trapAfter, fate_ecc, fate_wait]
    | simp only [sound_upd, sound_updTil] | (intro _) | with_reducible apply soundOut_ite
    | with_reducible apply sound_ite | split

theorem State.vop_sound {s : State} (h : s.Sound) (i : Issue) (w : Nat) (vd vs1 vs2 : VReg) (ty : BitVec 4) (f : Nat →
    Nat → Nat → Nat → Nat × Nat) : soundOut (State.vop s i w vd vs1 vs2 ty f) := by
  simp only [State.vop]
  repeat'
    first
    | with_reducible assumption | with_reducible apply State.issue_sound | with_reducible apply State.fpEnd_sound
    | simp only [tile_ok_mk, context_ok_mk, context_ok_new] | with_reducible apply Tile.s_ok
    | with_reducible apply Tile.w_ok | with_reducible apply State.tile_ok | with_reducible apply State.ctx_ok
    | with_reducible apply Tile.ctx_ok | with_reducible apply Tile.setCtx_ok | with_reducible apply Context.wr_ok
    | with_reducible apply Context.setVec_ok | with_reducible apply Context.setAcc_ok
    | with_reducible apply Context.next_ok | with_reducible exact True.intro | with_reducible apply And.intro
    | with_reducible refine fst_sound (by assumption) ?_ | rw [soundOut_next]
    | simp only [fate_retire, fate_jump, fate_trap, fate_trapAfter, fate_ecc, fate_wait]
    | simp only [sound_upd, sound_updTil] | (intro _) | with_reducible apply soundOut_ite
    | with_reducible apply sound_ite | split

theorem State.vbit_sound {s : State} (h : s.Sound) (i : Issue) (vd vs1 vs2 : VReg) (f : BitVec 512 → BitVec 512 →
    BitVec 512) : soundOut (State.vbit s i vd vs1 vs2 f) := by
  simp only [State.vbit]
  repeat'
    first
    | with_reducible assumption | with_reducible apply State.issue_sound | with_reducible apply State.upd_sound
    | simp only [tile_ok_mk, context_ok_mk, context_ok_new] | with_reducible apply Tile.s_ok
    | with_reducible apply Tile.w_ok | with_reducible apply State.tile_ok | with_reducible apply State.ctx_ok
    | with_reducible apply Tile.ctx_ok | with_reducible apply Tile.setCtx_ok | with_reducible apply Context.wr_ok
    | with_reducible apply Context.setVec_ok | with_reducible apply Context.setAcc_ok
    | with_reducible apply Context.next_ok | with_reducible exact True.intro | with_reducible apply And.intro
    | with_reducible refine fst_sound (by assumption) ?_ | rw [soundOut_next]
    | simp only [fate_retire, fate_jump, fate_trap, fate_trapAfter, fate_ecc, fate_wait]
    | simp only [sound_upd, sound_updTil] | (intro _) | with_reducible apply soundOut_ite
    | with_reducible apply sound_ite | split

theorem execVadd_sound {s : State} (h : s.Sound) (i : Issue) (vd vs1 vs2 : VReg) (ty : BitVec 4) : soundOut (execVadd
    i vd vs1 vs2 ty s) := by
  simp only [execVadd]
  repeat'
    first
    | with_reducible assumption | with_reducible apply State.vop_sound
    | with_reducible refine fst_sound (by assumption) ?_ | rw [soundOut_next] | simp only [sound_upd, sound_updTil]
    | (intro _) | with_reducible apply soundOut_ite | with_reducible apply sound_ite | split

theorem execVsub_sound {s : State} (h : s.Sound) (i : Issue) (vd vs1 vs2 : VReg) (ty : BitVec 4) : soundOut (execVsub
    i vd vs1 vs2 ty s) := by
  simp only [execVsub]
  repeat'
    first
    | with_reducible assumption | with_reducible apply State.vop_sound
    | with_reducible refine fst_sound (by assumption) ?_ | rw [soundOut_next] | simp only [sound_upd, sound_updTil]
    | (intro _) | with_reducible apply soundOut_ite | with_reducible apply sound_ite | split

theorem execVmul_sound {s : State} (h : s.Sound) (i : Issue) (vd vs1 vs2 : VReg) (ty : BitVec 4) : soundOut (execVmul
    i vd vs1 vs2 ty s) := by
  simp only [execVmul]
  repeat'
    first
    | with_reducible assumption | with_reducible apply State.vop_sound
    | with_reducible refine fst_sound (by assumption) ?_ | rw [soundOut_next] | simp only [sound_upd, sound_updTil]
    | (intro _) | with_reducible apply soundOut_ite | with_reducible apply sound_ite | split

theorem execVfma_sound {s : State} (h : s.Sound) (i : Issue) (vd vs1 vs2 : VReg) (ty : BitVec 4) : soundOut (execVfma
    i vd vs1 vs2 ty s) := by
  simp only [execVfma]
  repeat'
    first
    | with_reducible assumption | with_reducible apply State.vop_sound
    | with_reducible refine fst_sound (by assumption) ?_ | rw [soundOut_next] | simp only [sound_upd, sound_updTil]
    | (intro _) | with_reducible apply soundOut_ite | with_reducible apply sound_ite | split

theorem execVmin_sound {s : State} (h : s.Sound) (i : Issue) (vd vs1 vs2 : VReg) (ty : BitVec 4) : soundOut (execVmin
    i vd vs1 vs2 ty s) := by
  simp only [execVmin]
  repeat'
    first
    | with_reducible assumption | with_reducible apply State.vop_sound
    | with_reducible refine fst_sound (by assumption) ?_ | rw [soundOut_next] | simp only [sound_upd, sound_updTil]
    | (intro _) | with_reducible apply soundOut_ite | with_reducible apply sound_ite | split

theorem execVmax_sound {s : State} (h : s.Sound) (i : Issue) (vd vs1 vs2 : VReg) (ty : BitVec 4) : soundOut (execVmax
    i vd vs1 vs2 ty s) := by
  simp only [execVmax]
  repeat'
    first
    | with_reducible assumption | with_reducible apply State.vop_sound
    | with_reducible refine fst_sound (by assumption) ?_ | rw [soundOut_next] | simp only [sound_upd, sound_updTil]
    | (intro _) | with_reducible apply soundOut_ite | with_reducible apply sound_ite | split

theorem execVabs_sound {s : State} (h : s.Sound) (i : Issue) (vd vs1 : VReg) (ty : BitVec 4) : soundOut (execVabs i vd
    vs1 ty s) := by
  simp only [execVabs]
  repeat'
    first
    | with_reducible assumption | with_reducible apply State.vop_sound
    | with_reducible refine fst_sound (by assumption) ?_ | rw [soundOut_next] | simp only [sound_upd, sound_updTil]
    | (intro _) | with_reducible apply soundOut_ite | with_reducible apply sound_ite | split

theorem execVneg_sound {s : State} (h : s.Sound) (i : Issue) (vd vs1 : VReg) (ty : BitVec 4) : soundOut (execVneg i vd
    vs1 ty s) := by
  simp only [execVneg]
  repeat'
    first
    | with_reducible assumption | with_reducible apply State.vop_sound
    | with_reducible refine fst_sound (by assumption) ?_ | rw [soundOut_next] | simp only [sound_upd, sound_updTil]
    | (intro _) | with_reducible apply soundOut_ite | with_reducible apply sound_ite | split

theorem execVand_sound {s : State} (h : s.Sound) (i : Issue) (vd vs1 vs2 : VReg) : soundOut (execVand i vd vs1 vs2 s)
    := by
  simp only [execVand]
  repeat'
    first
    | with_reducible assumption | with_reducible apply State.vbit_sound
    | with_reducible refine fst_sound (by assumption) ?_ | rw [soundOut_next] | simp only [sound_upd, sound_updTil]
    | (intro _) | with_reducible apply soundOut_ite | with_reducible apply sound_ite | split

theorem execVor_sound {s : State} (h : s.Sound) (i : Issue) (vd vs1 vs2 : VReg) : soundOut (execVor i vd vs1 vs2 s) :=
    by
  simp only [execVor]
  repeat'
    first
    | with_reducible assumption | with_reducible apply State.vbit_sound
    | with_reducible refine fst_sound (by assumption) ?_ | rw [soundOut_next] | simp only [sound_upd, sound_updTil]
    | (intro _) | with_reducible apply soundOut_ite | with_reducible apply sound_ite | split

theorem execVxor_sound {s : State} (h : s.Sound) (i : Issue) (vd vs1 vs2 : VReg) : soundOut (execVxor i vd vs1 vs2 s)
    := by
  simp only [execVxor]
  repeat'
    first
    | with_reducible assumption | with_reducible apply State.vbit_sound
    | with_reducible refine fst_sound (by assumption) ?_ | rw [soundOut_next] | simp only [sound_upd, sound_updTil]
    | (intro _) | with_reducible apply soundOut_ite | with_reducible apply sound_ite | split

theorem execVmov_sound {s : State} (h : s.Sound) (i : Issue) (vd vs1 : VReg) : soundOut (execVmov i vd vs1 s) := by
  simp only [execVmov]
  repeat'
    first
    | with_reducible assumption | with_reducible apply State.vbit_sound
    | with_reducible refine fst_sound (by assumption) ?_ | rw [soundOut_next] | simp only [sound_upd, sound_updTil]
    | (intro _) | with_reducible apply soundOut_ite | with_reducible apply sound_ite | split

theorem execVdot_sound {s : State} (h : s.Sound) (i : Issue) (ad : AReg) (vs1 vs2 : VReg) (ty : BitVec 4) (mx : Bool)
    (rs : SReg) : soundOut (execVdot i ad vs1 vs2 ty mx rs s) := by
  simp only [execVdot]
  repeat'
    first
    | with_reducible assumption | with_reducible apply State.issue_sound | with_reducible apply State.fpEnd_sound
    | simp only [tile_ok_mk, context_ok_mk, context_ok_new] | with_reducible apply Tile.s_ok
    | with_reducible apply Tile.w_ok | with_reducible apply State.tile_ok | with_reducible apply State.ctx_ok
    | with_reducible apply Tile.ctx_ok | with_reducible apply Tile.setCtx_ok | with_reducible apply Context.wr_ok
    | with_reducible apply Context.setVec_ok | with_reducible apply Context.setAcc_ok
    | with_reducible apply Context.next_ok | with_reducible exact True.intro | with_reducible apply And.intro
    | with_reducible refine fst_sound (by assumption) ?_ | rw [soundOut_next]
    | simp only [fate_retire, fate_jump, fate_trap, fate_trapAfter, fate_ecc, fate_wait]
    | simp only [sound_upd, sound_updTil] | (intro _) | with_reducible apply soundOut_ite
    | with_reducible apply sound_ite | split

theorem execVcvt_sound {s : State} (h : s.Sound) (i : Issue) (vd vs : VReg) (src dst : BitVec 4) (part : BitVec 3) :
    soundOut (execVcvt i vd vs src dst part s) := by
  simp only [execVcvt]
  repeat'
    first
    | with_reducible assumption | with_reducible apply State.issue_sound | with_reducible apply State.fpEnd_sound
    | simp only [tile_ok_mk, context_ok_mk, context_ok_new] | with_reducible apply Tile.s_ok
    | with_reducible apply Tile.w_ok | with_reducible apply State.tile_ok | with_reducible apply State.ctx_ok
    | with_reducible apply Tile.ctx_ok | with_reducible apply Tile.setCtx_ok | with_reducible apply Context.wr_ok
    | with_reducible apply Context.setVec_ok | with_reducible apply Context.setAcc_ok
    | with_reducible apply Context.next_ok | with_reducible exact True.intro | with_reducible apply And.intro
    | with_reducible refine fst_sound (by assumption) ?_ | rw [soundOut_next]
    | simp only [fate_retire, fate_jump, fate_trap, fate_trapAfter, fate_ecc, fate_wait]
    | simp only [sound_upd, sound_updTil] | (intro _) | with_reducible apply soundOut_ite
    | with_reducible apply sound_ite | split

theorem execVqnt_sound {s : State} (h : s.Sound) (i : Issue) (v : VReg) (r : SReg) (a : AReg) (ty : BitVec 4) (part :
    BitVec 2) : soundOut (execVqnt i v r a ty part s) := by
  simp only [execVqnt]
  repeat'
    first
    | with_reducible assumption | with_reducible apply State.issue_sound | with_reducible apply State.fpEnd_sound
    | simp only [tile_ok_mk, context_ok_mk, context_ok_new] | with_reducible apply Tile.s_ok
    | with_reducible apply Tile.w_ok | with_reducible apply State.tile_ok | with_reducible apply State.ctx_ok
    | with_reducible apply Tile.ctx_ok | with_reducible apply Tile.setCtx_ok | with_reducible apply Context.wr_ok
    | with_reducible apply Context.setVec_ok | with_reducible apply Context.setAcc_ok
    | with_reducible apply Context.next_ok | with_reducible exact True.intro | with_reducible apply And.intro
    | with_reducible refine fst_sound (by assumption) ?_ | rw [soundOut_next]
    | simp only [fate_retire, fate_jump, fate_trap, fate_trapAfter, fate_ecc, fate_wait]
    | simp only [sound_upd, sound_updTil] | (intro _) | with_reducible apply soundOut_ite
    | with_reducible apply sound_ite | split

theorem execVdq_sound {s : State} (h : s.Sound) (i : Issue) (v : VReg) (r : SReg) (a : AReg) (ty : BitVec 4) (part :
    BitVec 2) : soundOut (execVdq i v r a ty part s) := by
  simp only [execVdq]
  repeat'
    first
    | with_reducible assumption | with_reducible apply State.issue_sound | with_reducible apply State.fpEnd_sound
    | simp only [tile_ok_mk, context_ok_mk, context_ok_new] | with_reducible apply Tile.s_ok
    | with_reducible apply Tile.w_ok | with_reducible apply State.tile_ok | with_reducible apply State.ctx_ok
    | with_reducible apply Tile.ctx_ok | with_reducible apply Tile.setCtx_ok | with_reducible apply Context.wr_ok
    | with_reducible apply Context.setVec_ok | with_reducible apply Context.setAcc_ok
    | with_reducible apply Context.next_ok | with_reducible exact True.intro | with_reducible apply And.intro
    | with_reducible refine fst_sound (by assumption) ?_ | rw [soundOut_next]
    | simp only [fate_retire, fate_jump, fate_trap, fate_trapAfter, fate_ecc, fate_wait]
    | simp only [sound_upd, sound_updTil] | (intro _) | with_reducible apply soundOut_ite
    | with_reducible apply sound_ite | split

theorem execXclr_sound {s : State} (h : s.Sound) (i : Issue) : soundOut (execXclr i s) := by
  simp only [execXclr]
  repeat'
    first
    | with_reducible assumption | with_reducible apply State.issue_sound | with_reducible apply State.upd_sound
    | simp only [tile_ok_mk, context_ok_mk, context_ok_new] | with_reducible apply Tile.s_ok
    | with_reducible apply Tile.w_ok | with_reducible apply State.tile_ok | with_reducible apply State.ctx_ok
    | with_reducible apply Tile.ctx_ok | with_reducible apply Tile.setCtx_ok | with_reducible apply Context.wr_ok
    | with_reducible apply Context.setVec_ok | with_reducible apply Context.setAcc_ok
    | with_reducible apply Context.next_ok | with_reducible exact True.intro | with_reducible apply And.intro
    | with_reducible refine fst_sound (by assumption) ?_ | rw [soundOut_next]
    | simp only [fate_retire, fate_jump, fate_trap, fate_trapAfter, fate_ecc, fate_wait]
    | simp only [sound_upd, sound_updTil] | (intro _) | with_reducible apply soundOut_ite
    | with_reducible apply sound_ite | split

theorem execXaddv_sound {s : State} (h : s.Sound) (i : Issue) (v : VReg) (ty : BitVec 4) : soundOut (execXaddv i v ty
    s) := by
  simp only [execXaddv]
  repeat'
    first
    | with_reducible assumption | with_reducible apply State.issue_sound | with_reducible apply State.upd_sound
    | simp only [tile_ok_mk, context_ok_mk, context_ok_new] | with_reducible apply Tile.s_ok
    | with_reducible apply Tile.w_ok | with_reducible apply State.tile_ok | with_reducible apply State.ctx_ok
    | with_reducible apply Tile.ctx_ok | with_reducible apply Tile.setCtx_ok | with_reducible apply Context.wr_ok
    | with_reducible apply Context.setVec_ok | with_reducible apply Context.setAcc_ok
    | with_reducible apply Context.next_ok | with_reducible exact True.intro | with_reducible apply And.intro
    | with_reducible refine fst_sound (by assumption) ?_ | with_reducible apply sound_foldl
    | with_reducible apply sound_foldl_fst | rw [soundOut_next]
    | simp only [fate_retire, fate_jump, fate_trap, fate_trapAfter, fate_ecc, fate_wait]
    | simp only [sound_upd, sound_updTil] | (intro _) | with_reducible apply soundOut_ite
    | with_reducible apply sound_ite | split

theorem execXadda_sound {s : State} (h : s.Sound) (i : Issue) (a : AReg) : soundOut (execXadda i a s) := by
  simp only [execXadda]
  repeat'
    first
    | with_reducible assumption | with_reducible apply State.issue_sound | with_reducible apply State.upd_sound
    | simp only [tile_ok_mk, context_ok_mk, context_ok_new] | with_reducible apply Tile.s_ok
    | with_reducible apply Tile.w_ok | with_reducible apply State.tile_ok | with_reducible apply State.ctx_ok
    | with_reducible apply Tile.ctx_ok | with_reducible apply Tile.setCtx_ok | with_reducible apply Context.wr_ok
    | with_reducible apply Context.setVec_ok | with_reducible apply Context.setAcc_ok
    | with_reducible apply Context.next_ok | with_reducible exact True.intro | with_reducible apply And.intro
    | with_reducible refine fst_sound (by assumption) ?_ | with_reducible apply sound_foldl
    | with_reducible apply sound_foldl_fst | rw [soundOut_next]
    | simp only [fate_retire, fate_jump, fate_trap, fate_trapAfter, fate_ecc, fate_wait]
    | simp only [sound_upd, sound_updTil] | (intro _) | with_reducible apply soundOut_ite
    | with_reducible apply sound_ite | split

theorem execXadds_sound {s : State} (h : s.Sound) (i : Issue) (r : SReg) (ty : BitVec 4) : soundOut (execXadds i r ty
    s) := by
  simp only [execXadds]
  repeat'
    first
    | with_reducible assumption | with_reducible apply State.issue_sound | with_reducible apply State.upd_sound
    | simp only [tile_ok_mk, context_ok_mk, context_ok_new] | with_reducible apply Tile.s_ok
    | with_reducible apply Tile.w_ok | with_reducible apply State.tile_ok | with_reducible apply State.ctx_ok
    | with_reducible apply Tile.ctx_ok | with_reducible apply Tile.setCtx_ok | with_reducible apply Context.wr_ok
    | with_reducible apply Context.setVec_ok | with_reducible apply Context.setAcc_ok
    | with_reducible apply Context.next_ok | with_reducible exact True.intro | with_reducible apply And.intro
    | with_reducible refine fst_sound (by assumption) ?_ | rw [soundOut_next]
    | simp only [fate_retire, fate_jump, fate_trap, fate_trapAfter, fate_ecc, fate_wait]
    | simp only [sound_upd, sound_updTil] | (intro _) | with_reducible apply soundOut_ite
    | with_reducible apply sound_ite | split

theorem execXrd_sound {s : State} (h : s.Sound) (i : Issue) (r : SReg) (ty : BitVec 4) : soundOut (execXrd i r ty s)
    := by
  simp only [execXrd]
  repeat'
    first
    | with_reducible assumption | with_reducible apply State.issue_sound | with_reducible apply State.fpEnd_sound
    | simp only [tile_ok_mk, context_ok_mk, context_ok_new] | with_reducible apply Tile.s_ok
    | with_reducible apply Tile.w_ok | with_reducible apply State.tile_ok | with_reducible apply State.ctx_ok
    | with_reducible apply Tile.ctx_ok | with_reducible apply Tile.setCtx_ok | with_reducible apply Context.wr_ok
    | with_reducible apply Context.setVec_ok | with_reducible apply Context.setAcc_ok
    | with_reducible apply Context.next_ok | with_reducible exact True.intro | with_reducible apply And.intro
    | with_reducible refine fst_sound (by assumption) ?_ | rw [soundOut_next]
    | simp only [fate_retire, fate_jump, fate_trap, fate_trapAfter, fate_ecc, fate_wait]
    | simp only [sound_upd, sound_updTil] | (intro _) | with_reducible apply soundOut_ite
    | with_reducible apply sound_ite | split

theorem execScoreb_sound {s : State} (h : s.Sound) (i : Issue) (ad : AReg) (vq : VReg) (rs1 slot : SReg) : soundOut
    (execScoreb i ad vq rs1 slot s) := by
  simp only [execScoreb]
  repeat'
    first
    | with_reducible assumption | with_reducible apply State.issue_sound
    | with_reducible apply State.readData_sound | with_reducible apply State.fpEnd_sound
    | simp only [tile_ok_mk, context_ok_mk, context_ok_new] | with_reducible apply Tile.s_ok
    | with_reducible apply Tile.w_ok | with_reducible apply State.tile_ok | with_reducible apply State.ctx_ok
    | with_reducible apply Tile.ctx_ok | with_reducible apply Tile.setCtx_ok | with_reducible apply Context.wr_ok
    | with_reducible apply Context.setVec_ok | with_reducible apply Context.setAcc_ok
    | with_reducible apply Context.next_ok | with_reducible exact True.intro | with_reducible apply And.intro
    | with_reducible refine fst_sound (by assumption) ?_ | rw [soundOut_next]
    | simp only [fate_retire, fate_jump, fate_trap, fate_trapAfter, fate_ecc, fate_wait]
    | simp only [sound_upd, sound_updTil] | (intro _) | with_reducible apply soundOut_ite
    | with_reducible apply sound_ite | split

theorem State.topk_sound {s : State} (h : s.Sound) (i : Issue) (w : Nat) {f : State → Fate} (hf : ∀ s, s.Sound → (f s).sound) :
    soundOut (State.topk s i w f) := by
  simp only [State.topk]
  refine State.issue_sound h i fun s hs => ?_
  split
  · exact hf s hs
  · exact True.intro

theorem State.setTopk_sound {s : State} (h : s.Sound) (t : Nat) (u : TopK) : (State.setTopk s t u).Sound := by
  simp only [State.setTopk]
  repeat'
    first
    | with_reducible assumption | with_reducible apply State.setTile_sound
    | simp only [tile_ok_mk, context_ok_mk, context_ok_new] | with_reducible apply Tile.s_ok
    | with_reducible apply Tile.w_ok | with_reducible apply State.tile_ok | with_reducible apply State.ctx_ok
    | with_reducible apply Tile.ctx_ok | with_reducible apply Tile.setCtx_ok | with_reducible apply Context.wr_ok
    | with_reducible apply Context.setVec_ok | with_reducible apply Context.setAcc_ok
    | with_reducible apply Context.next_ok | with_reducible exact True.intro | with_reducible apply And.intro
    | with_reducible refine fst_sound (by assumption) ?_ | simp only [sound_upd, sound_updTil] | (intro _)
    | with_reducible apply sound_ite | split

theorem execTkclr_sound {s : State} (h : s.Sound) (i : Issue) (rs1 rs2 : SReg) : soundOut (execTkclr i rs1 rs2 s) :=
    by
  simp only [execTkclr]
  repeat'
    first
    | with_reducible assumption | with_reducible apply State.topk_sound | with_reducible apply State.setTopk_sound
    | with_reducible refine fst_sound (by assumption) ?_ | rw [soundOut_next]
    | simp only [fate_retire, fate_jump, fate_trap, fate_trapAfter, fate_ecc, fate_wait]
    | simp only [sound_upd, sound_updTil] | (intro _) | with_reducible apply soundOut_ite
    | with_reducible apply sound_ite | split

theorem execTkins_sound {s : State} (h : s.Sound) (i : Issue) (ad : AReg) (rs1 rs2 : SReg) : soundOut (execTkins i ad
    rs1 rs2 s) := by
  simp only [execTkins]
  repeat'
    first
    | with_reducible assumption | with_reducible apply State.topk_sound | with_reducible apply State.setTopk_sound
    | with_reducible refine fst_sound (by assumption) ?_ | with_reducible apply sound_foldl
    | with_reducible apply sound_foldl_fst | rw [soundOut_next]
    | simp only [fate_retire, fate_jump, fate_trap, fate_trapAfter, fate_ecc, fate_wait]
    | simp only [sound_upd, sound_updTil] | (intro _) | with_reducible apply soundOut_ite
    | with_reducible apply sound_ite | split

theorem tkoutBody_sound {s : State} (h : s.Sound) (i : Issue) (rd rs1 rs2 : SReg) : (tkoutBody i rd rs1 rs2 s).sound
    := by
  simp only [tkoutBody]
  repeat'
    first
    | with_reducible assumption | with_reducible apply State.ws_sound | with_reducible apply State.writeLocal_sound
    | with_reducible refine fst_sound (by assumption) ?_
    | simp only [fate_retire, fate_jump, fate_trap, fate_trapAfter, fate_ecc, fate_wait]
    | simp only [sound_upd, sound_updTil] | (intro _) | with_reducible apply fate_ite
    | with_reducible apply sound_ite | split

theorem execTkout_sound {s : State} (h : s.Sound) (i : Issue) (rd rs1 rs2 : SReg) : soundOut (execTkout i rd rs1 rs2
    s) := by
  simp only [execTkout]
  repeat'
    first
    | with_reducible assumption | with_reducible apply State.issue_sound | with_reducible apply tkoutBody_sound
    | with_reducible refine fst_sound (by assumption) ?_ | rw [soundOut_next]
    | simp only [fate_retire, fate_jump, fate_trap, fate_trapAfter, fate_ecc, fate_wait]
    | simp only [sound_upd, sound_updTil] | (intro _) | with_reducible apply soundOut_ite
    | with_reducible apply sound_ite | split

theorem execTkcnt_sound {s : State} (h : s.Sound) (i : Issue) (rd : SReg) : soundOut (execTkcnt i rd s) := by
  simp only [execTkcnt]
  repeat'
    first
    | with_reducible assumption | with_reducible apply State.topk_sound | with_reducible apply State.ws_sound
    | with_reducible refine fst_sound (by assumption) ?_ | rw [soundOut_next]
    | simp only [fate_retire, fate_jump, fate_trap, fate_trapAfter, fate_ecc, fate_wait]
    | simp only [sound_upd, sound_updTil] | (intro _) | with_reducible apply soundOut_ite
    | with_reducible apply sound_ite | split

theorem pageBody_sound {s : State} (h : s.Sound) (x : Instr) (w : Nat) (len : Nat → Nat) (i : Issue) (rs1 rs2 : SReg)
    (f : State → Nat → List Byte → List Byte × Nat) : (pageBody x w len i rs1 rs2 f s).sound := by
  simp only [pageBody]
  split
  · exact True.intro
  · split
    · exact True.intro
    · split
      · split
        · exact True.intro
        · rename_i e
          split
          · exact True.intro
          · exact State.fpEnd_sound (State.writeLocal_sound (fst_sound e (State.readLocal_sound h _ _ _)) _ _ _) _ _ _ fun k hk => hk
      · exact True.intro

theorem demoteBody_sound {x4 : State} (hx4 : x4.Sound) (i : Issue) (rs1 rs2 : SReg) (e5m2 : Bool) : (demoteBody i rs1
    rs2 e5m2 x4).sound := by
  simp only [demoteBody]
  repeat'
    first
    | with_reducible assumption | with_reducible apply pageBody_sound
    | with_reducible refine fst_sound (by assumption) ?_
    | simp only [fate_retire, fate_jump, fate_trap, fate_trapAfter, fate_ecc, fate_wait]
    | simp only [sound_upd, sound_updTil] | (intro _) | with_reducible apply fate_ite
    | with_reducible apply sound_ite | split

theorem promoteBody_sound {x4 : State} (hx4 : x4.Sound) (i : Issue) (rs1 rs2 : SReg) (e5m2 : Bool) : (promoteBody i
    rs1 rs2 e5m2 x4).sound := by
  simp only [promoteBody]
  repeat'
    first
    | with_reducible assumption | with_reducible apply pageBody_sound
    | with_reducible refine fst_sound (by assumption) ?_
    | simp only [fate_retire, fate_jump, fate_trap, fate_trapAfter, fate_ecc, fate_wait]
    | simp only [sound_upd, sound_updTil] | (intro _) | with_reducible apply fate_ite
    | with_reducible apply sound_ite | split

theorem execDemote_sound {s : State} (h : s.Sound) (i : Issue) (rs1 rs2 : SReg) (e5m2 : Bool) : soundOut (execDemote i
    rs1 rs2 e5m2 s) := by
  simp only [execDemote]
  repeat'
    first
    | with_reducible assumption | with_reducible apply State.issue_sound | with_reducible apply demoteBody_sound
    | with_reducible refine fst_sound (by assumption) ?_ | rw [soundOut_next]
    | simp only [fate_retire, fate_jump, fate_trap, fate_trapAfter, fate_ecc, fate_wait]
    | simp only [sound_upd, sound_updTil] | (intro _) | with_reducible apply soundOut_ite
    | with_reducible apply sound_ite | split

theorem execPromote_sound {s : State} (h : s.Sound) (i : Issue) (rs1 rs2 : SReg) (e5m2 : Bool) : soundOut (execPromote
    i rs1 rs2 e5m2 s) := by
  simp only [execPromote]
  repeat'
    first
    | with_reducible assumption | with_reducible apply State.issue_sound | with_reducible apply promoteBody_sound
    | with_reducible refine fst_sound (by assumption) ?_ | rw [soundOut_next]
    | simp only [fate_retire, fate_jump, fate_trap, fate_trapAfter, fate_ecc, fate_wait]
    | simp only [sound_upd, sound_updTil] | (intro _) | with_reducible apply soundOut_ite
    | with_reducible apply sound_ite | split

theorem execLongInstructionStart_sound {s : State} (h : s.Sound) (i : Issue) : soundOut (execLongInstructionStart i s)
    := by
  simp only [execLongInstructionStart]
  refine State.retry_sound h i fun x b hx => ?_
  split at hx <;> cases hx
  repeat'
    first
    | with_reducible assumption | with_reducible apply tkoutBody_sound | with_reducible apply demoteBody_sound
    | with_reducible apply promoteBody_sound | with_reducible refine fst_sound (by assumption) ?_
    | rw [soundOut_next] | simp only [sound_upd, sound_updTil] | (intro _) | with_reducible apply soundOut_ite
    | with_reducible apply sound_ite | split

theorem execVmfsr_sound {s : State} (h : s.Sound) (i : Issue) (r : SReg) : soundOut (execVmfsr i r s) := by
  simp only [execVmfsr]
  repeat'
    first
    | with_reducible assumption | with_reducible apply State.issue_sound | with_reducible apply State.ws_sound
    | with_reducible refine fst_sound (by assumption) ?_ | rw [soundOut_next]
    | simp only [fate_retire, fate_jump, fate_trap, fate_trapAfter, fate_ecc, fate_wait]
    | simp only [sound_upd, sound_updTil] | (intro _) | with_reducible apply soundOut_ite
    | with_reducible apply sound_ite | split

theorem execVmtsr_sound {s : State} (h : s.Sound) (i : Issue) (r : SReg) : soundOut (execVmtsr i r s) := by
  simp only [execVmtsr]
  repeat'
    first
    | with_reducible assumption | with_reducible apply State.issue_sound | with_reducible apply State.upd_sound
    | simp only [tile_ok_mk, context_ok_mk, context_ok_new] | with_reducible apply Tile.s_ok
    | with_reducible apply Tile.w_ok | with_reducible apply State.tile_ok | with_reducible apply State.ctx_ok
    | with_reducible apply Tile.ctx_ok | with_reducible apply Tile.setCtx_ok | with_reducible apply Context.wr_ok
    | with_reducible apply Context.setVec_ok | with_reducible apply Context.setAcc_ok
    | with_reducible apply Context.next_ok | with_reducible exact True.intro | with_reducible apply And.intro
    | with_reducible refine fst_sound (by assumption) ?_ | rw [soundOut_next]
    | simp only [fate_retire, fate_jump, fate_trap, fate_trapAfter, fate_ecc, fate_wait]
    | simp only [sound_upd, sound_updTil] | (intro _) | with_reducible apply soundOut_ite
    | with_reducible apply sound_ite | split

theorem execVbcast_sound {s : State} (h : s.Sound) (i : Issue) (v : VReg) (r : SReg) (ty : BitVec 4) : soundOut
    (execVbcast i v r ty s) := by
  simp only [execVbcast]
  repeat'
    first
    | with_reducible assumption | with_reducible apply State.issue_sound | with_reducible apply State.upd_sound
    | simp only [tile_ok_mk, context_ok_mk, context_ok_new] | with_reducible apply Tile.s_ok
    | with_reducible apply Tile.w_ok | with_reducible apply State.tile_ok | with_reducible apply State.ctx_ok
    | with_reducible apply Tile.ctx_ok | with_reducible apply Tile.setCtx_ok | with_reducible apply Context.wr_ok
    | with_reducible apply Context.setVec_ok | with_reducible apply Context.setAcc_ok
    | with_reducible apply Context.next_ok | with_reducible exact True.intro | with_reducible apply And.intro
    | with_reducible refine fst_sound (by assumption) ?_ | rw [soundOut_next]
    | simp only [fate_retire, fate_jump, fate_trap, fate_trapAfter, fate_ecc, fate_wait]
    | simp only [sound_upd, sound_updTil] | (intro _) | with_reducible apply soundOut_ite
    | with_reducible apply sound_ite | split

theorem execVext_sound {s : State} (h : s.Sound) (i : Issue) (r : SReg) (v : VReg) (ty : BitVec 4) (idx : BitVec 8) :
    soundOut (execVext i r v ty idx s) := by
  simp only [execVext]
  repeat'
    first
    | with_reducible assumption | with_reducible apply State.issue_sound | with_reducible apply State.ws_sound
    | with_reducible refine fst_sound (by assumption) ?_ | rw [soundOut_next]
    | simp only [fate_retire, fate_jump, fate_trap, fate_trapAfter, fate_ecc, fate_wait]
    | simp only [sound_upd, sound_updTil] | (intro _) | with_reducible apply soundOut_ite
    | with_reducible apply sound_ite | split

theorem execAfromv_sound {s : State} (h : s.Sound) (i : Issue) (a : AReg) (v : VReg) : soundOut (execAfromv i a v s)
    := by
  simp only [execAfromv]
  repeat'
    first
    | with_reducible assumption | with_reducible apply State.issue_sound | with_reducible apply State.upd_sound
    | simp only [tile_ok_mk, context_ok_mk, context_ok_new] | with_reducible apply Tile.s_ok
    | with_reducible apply Tile.w_ok | with_reducible apply State.tile_ok | with_reducible apply State.ctx_ok
    | with_reducible apply Tile.ctx_ok | with_reducible apply Tile.setCtx_ok | with_reducible apply Context.wr_ok
    | with_reducible apply Context.setVec_ok | with_reducible apply Context.setAcc_ok
    | with_reducible apply Context.next_ok | with_reducible exact True.intro | with_reducible apply And.intro
    | with_reducible refine fst_sound (by assumption) ?_ | rw [soundOut_next]
    | simp only [fate_retire, fate_jump, fate_trap, fate_trapAfter, fate_ecc, fate_wait]
    | simp only [sound_upd, sound_updTil] | (intro _) | with_reducible apply soundOut_ite
    | with_reducible apply sound_ite | split

theorem execAtov_sound {s : State} (h : s.Sound) (i : Issue) (v : VReg) (a : AReg) : soundOut (execAtov i v a s) := by
  simp only [execAtov]
  repeat'
    first
    | with_reducible assumption | with_reducible apply State.issue_sound | with_reducible apply State.upd_sound
    | simp only [tile_ok_mk, context_ok_mk, context_ok_new] | with_reducible apply Tile.s_ok
    | with_reducible apply Tile.w_ok | with_reducible apply State.tile_ok | with_reducible apply State.ctx_ok
    | with_reducible apply Tile.ctx_ok | with_reducible apply Tile.setCtx_ok | with_reducible apply Context.wr_ok
    | with_reducible apply Context.setVec_ok | with_reducible apply Context.setAcc_ok
    | with_reducible apply Context.next_ok | with_reducible exact True.intro | with_reducible apply And.intro
    | with_reducible refine fst_sound (by assumption) ?_ | rw [soundOut_next]
    | simp only [fate_retire, fate_jump, fate_trap, fate_trapAfter, fate_ecc, fate_wait]
    | simp only [sound_upd, sound_updTil] | (intro _) | with_reducible apply soundOut_ite
    | with_reducible apply sound_ite | split

theorem execAzero_sound {s : State} (h : s.Sound) (i : Issue) (a : AReg) : soundOut (execAzero i a s) := by
  simp only [execAzero]
  repeat'
    first
    | with_reducible assumption | with_reducible apply State.issue_sound | with_reducible apply State.upd_sound
    | simp only [tile_ok_mk, context_ok_mk, context_ok_new] | with_reducible apply Tile.s_ok
    | with_reducible apply Tile.w_ok | with_reducible apply State.tile_ok | with_reducible apply State.ctx_ok
    | with_reducible apply Tile.ctx_ok | with_reducible apply Tile.setCtx_ok | with_reducible apply Context.wr_ok
    | with_reducible apply Context.setVec_ok | with_reducible apply Context.setAcc_ok
    | with_reducible apply Context.next_ok | with_reducible exact True.intro | with_reducible apply And.intro
    | with_reducible refine fst_sound (by assumption) ?_ | rw [soundOut_next]
    | simp only [fate_retire, fate_jump, fate_trap, fate_trapAfter, fate_ecc, fate_wait]
    | simp only [sound_upd, sound_updTil] | (intro _) | with_reducible apply soundOut_ite
    | with_reducible apply sound_ite | split

end Sys2Proof.Machine
end

