-- ==== Sys2Proof/Laws/SoundSkein.lean ====
section
/-! SUPPORT. The operations of Skein.lean keep a state well kept. -/
namespace Sys2Proof.Machine
set_option linter.unusedTactic false
set_option linter.unreachableTactic false
set_option linter.unusedSimpArgs false
open Sys2Proof

theorem State.setSkein_sound {s : State} (h : s.Sound) (t : Nat) (c : Ctx) (x3 : Nat) (k : Skein) : (State.setSkein s
    t c x3 k).Sound := by
  simp only [State.setSkein]
  have hk := State.ctx_ok h t c
  exact State.setCtx_sound h t c (context_handles_ok hk _ (tput_sorted (Context.handles_sorted hk) _ _) ..)

theorem State.freeHandle_sound {s : State} (h : s.Sound) (t : Nat) (c : Ctx) (x3 : Nat) : (State.freeHandle s t c
    x3).Sound := by
  simp only [State.freeHandle]
  have hk := State.ctx_ok h t c
  exact State.setCtx_sound h t c (context_handles_ok hk _ (tdel_sorted (Context.handles_sorted hk) _) ..)

theorem State.cqLose_sound {s : State} (h : s.Sound) (q : Nat) : (State.cqLose s q).Sound := by
  simp only [State.cqLose]
  repeat'
    first
    | with_reducible assumption | with_reducible apply State.raise_sound | with_reducible apply State.bump_sound
    | with_reducible refine fst_sound (by assumption) ?_ | simp only [sound_upd, sound_updTil] | (intro _)
    | with_reducible apply sound_ite | split

theorem State.cqPut_sound {s : State} (h : s.Sound) (q : Nat) (g : Sig) : (State.cqPut s q g).Sound := by
  simp only [State.cqPut]
  repeat'
    first
    | with_reducible assumption | with_reducible apply State.write_sound | with_reducible apply State.put_sound
    | with_reducible refine fst_sound (by assumption) ?_ | simp only [sound_upd, sound_updTil] | (intro _)
    | with_reducible apply sound_ite | split

theorem State.cqForce_sound {s : State} (h : s.Sound) (q : Nat) (g : Sig) : (State.cqForce s q g).Sound := by
  simp only [State.cqForce]
  repeat'
    first
    | with_reducible assumption | with_reducible apply State.cqPut_sound | with_reducible apply State.cqLose_sound
    | with_reducible refine fst_sound (by assumption) ?_ | simp only [sound_upd, sound_updTil] | (intro _)
    | with_reducible apply sound_ite | split

theorem State.countHole_sound {s : State} (h : s.Sound) (g : Sig) : (State.countHole s g).Sound := by
  simp only [State.countHole]
  repeat'
    first
    | with_reducible assumption | with_reducible apply State.raise_sound | with_reducible apply State.bump_sound
    | with_reducible refine fst_sound (by assumption) ?_ | simp only [sound_upd, sound_updTil] | (intro _)
    | with_reducible apply sound_ite | split

theorem State.cqTake_sound {s : State} (h : s.Sound) (q : Nat) : (State.cqTake s q).1.Sound := by
  simp only [State.cqTake]
  repeat'
    first
    | with_reducible assumption | with_reducible apply State.read_sound | with_reducible apply State.put_sound
    | with_reducible refine fst_sound (by assumption) ?_ | simp only [sound_upd, sound_updTil] | (intro _)
    | with_reducible apply sound_ite | split

theorem State.sideWrite_sound {s : State} (h : s.Sound) (t : Nat) (k : Skein) (f a : Nat) (bs : List Byte) :
    (State.sideWrite s t k f a bs).Sound := by
  induction f generalizing s a bs with
  | zero => exact h
  | succ f ih =>
    simp only [State.sideWrite]
    split
    · exact h
    · apply ih
      split
      · exact State.write_sound h _ _
      · exact h

theorem State.fillOpen_sound (k : Skein) (r : Nat) {s : State} (h : s.Sound) (bs : List Byte) (a e : Nat) :
    (State.fillOpen k r s bs a e).1.Sound := by
  induction bs generalizing s a e with
  | nil => exact h
  | cons b bs ih =>
    simp only [State.fillOpen]
    apply ih
    split
    · exact State.tick_sound h
    · exact h

theorem State.moveRun_sound {s : State} (h : s.Sound) (t : Nat) (k : Skein) (x3 n : Nat) : (State.moveRun s t k x3
    n).1.Sound := by
  simp only [State.moveRun]
  repeat'
    first
    | with_reducible assumption | with_reducible apply State.fillOpen_sound
    | with_reducible apply State.sideWrite_sound | with_reducible refine fst_sound (by assumption) ?_
    | simp only [sound_upd, sound_updTil] | (intro _) | with_reducible apply sound_ite | split

theorem State.moveTo_sound {s : State} (h : s.Sound) (t : Nat) (bad : Option Nat) (goal f : Nat) (k : Skein) :
    (State.moveTo s t bad goal f k).1.Sound := by
  induction f generalizing s k with
  | zero => exact h
  | succ f ih =>
    simp only [State.moveTo]
    have hm : ∀ n : Nat, (if n = 0 then (s, k) else s.moveRun t k k.done n).1.Sound := fun n => by
      split
      · exact h
      · exact State.moveRun_sound h _ _ _ _
    split
    · exact h
    · split
      · exact ih (hm _) _
      · exact hm _

theorem State.moveChunk_sound {s : State} (h : s.Sound) (t : Nat) (bad : Option Nat) (k : Skein) : (State.moveChunk s
    t bad k).1.Sound := by
  simp only [State.moveChunk]
  repeat'
    first
    | with_reducible assumption | with_reducible apply State.moveTo_sound
    | with_reducible refine fst_sound (by assumption) ?_ | simp only [sound_upd, sound_updTil] | (intro _)
    | with_reducible apply sound_ite | split

theorem State.traceSkein_sound {s : State} (h : s.Sound) (kind t : Nat) (c : Ctx) (x4 : Nat) (k : Skein) (st : Nat) :
    (State.traceSkein s kind t c x4 k st).Sound := by
  simp only [State.traceSkein]
  repeat'
    first
    | with_reducible assumption | with_reducible apply State.trace_sound
    | with_reducible refine fst_sound (by assumption) ?_ | simp only [sound_upd, sound_updTil] | (intro _)
    | with_reducible apply sound_ite | split

theorem State.skeinDone_sound {s : State} (h : s.Sound) (t : Nat) (c : Ctx) (x3 : Nat) (k : Skein) (st : Nat) :
    (State.skeinDone s t c x3 k st).Sound := by
  simp only [State.skeinDone]
  repeat'
    first
    | with_reducible assumption | with_reducible apply State.bump_sound | with_reducible apply State.setSkein_sound
    | with_reducible apply State.traceSkein_sound | with_reducible apply State.raiseIf_sound
    | with_reducible refine fst_sound (by assumption) ?_ | simp only [sound_upd, sound_updTil] | (intro _)
    | with_reducible apply sound_ite | split

theorem State.endEarly_sound {s : State} (h : s.Sound) (t : Nat) (c : Ctx) (x3 : Nat) (k : Skein) (st : Nat) :
    (State.endEarly s t c x3 k st).Sound := by
  simp only [State.endEarly]
  repeat'
    first
    | with_reducible assumption | with_reducible apply State.skeinDone_sound
    | with_reducible apply State.raise_sound | with_reducible apply State.setSkein_sound
    | with_reducible apply State.countHole_sound | with_reducible apply State.cqPut_sound
    | with_reducible refine fst_sound (by assumption) ?_ | simp only [sound_upd, sound_updTil] | (intro _)
    | with_reducible apply sound_ite | split

theorem State.endChunk_sound {s : State} (h : s.Sound) (t : Nat) (c : Ctx) (x3 : Nat) (k : Skein) : (State.endChunk s
    t c x3 k).Sound := by
  simp only [State.endChunk]
  repeat'
    first
    | with_reducible assumption | with_reducible apply State.setSkein_sound
    | with_reducible apply State.skeinDone_sound | with_reducible apply State.raise_sound
    | with_reducible apply State.countHole_sound | with_reducible apply State.cqPut_sound
    | with_reducible refine fst_sound (by assumption) ?_ | simp only [sound_upd, sound_updTil] | (intro _)
    | with_reducible apply sound_ite | split

theorem State.judge_sound {s : State} (h : s.Sound) (k : Skein) : (State.judge s k).1.Sound := by
  simp only [State.judge]
  repeat'
    first
    | with_reducible assumption | with_reducible apply State.raise_sound | with_reducible apply State.bump_sound
    | with_reducible refine fst_sound (by assumption) ?_ | simp only [sound_upd, sound_updTil] | (intro _)
    | with_reducible apply sound_ite | split

theorem execSkeinFenceStart_sound {s : State} (h : s.Sound) (t : Nat) (c : Ctx) (x2 : Nat) : soundOut
    (execSkeinFenceStart t c x2 s) := by
  simp only [execSkeinFenceStart]
  repeat'
    first
    | with_reducible assumption | with_reducible apply State.setSkein_sound
    | with_reducible refine fst_sound (by assumption) ?_ | rw [soundOut_next] | simp only [sound_upd, sound_updTil]
    | (intro _) | with_reducible apply soundOut_ite | with_reducible apply sound_ite | split

theorem execSkeinChunkEnd_sound {s : State} (h : s.Sound) (t : Nat) (c : Ctx) (x2 : Nat) : soundOut (execSkeinChunkEnd
    t c x2 s) := by
  simp only [execSkeinChunkEnd]
  repeat'
    first
    | with_reducible assumption | with_reducible apply State.moveChunk_sound
    | with_reducible apply State.judge_sound | with_reducible apply State.endChunk_sound
    | with_reducible refine fst_sound (by assumption) ?_ | rw [soundOut_next] | simp only [sound_upd, sound_updTil]
    | (intro _) | with_reducible apply soundOut_ite | with_reducible apply sound_ite | split

theorem execSkeinQueueRoom_sound {s : State} (h : s.Sound) (t : Nat) (c : Ctx) (x2 : Nat) : soundOut
    (execSkeinQueueRoom t c x2 s) := by
  simp only [execSkeinQueueRoom]
  repeat'
    first
    | with_reducible assumption | with_reducible apply State.endChunk_sound
    | with_reducible apply State.endEarly_sound | with_reducible refine fst_sound (by assumption) ?_
    | rw [soundOut_next] | simp only [sound_upd, sound_updTil] | (intro _) | with_reducible apply soundOut_ite
    | with_reducible apply sound_ite | split

theorem execSkeinFault_sound {s : State} (h : s.Sound) (t : Nat) (c : Ctx) (x2 : Nat) : soundOut (execSkeinFault t c
    x2 s) := by
  simp only [execSkeinFault]
  repeat'
    first
    | with_reducible assumption | with_reducible apply State.moveChunk_sound
    | with_reducible apply State.translate_sound | with_reducible apply State.raise_sound
    | with_reducible apply State.bump_sound | with_reducible apply State.setSkein_sound
    | with_reducible refine fst_sound (by assumption) ?_ | rw [soundOut_next] | simp only [sound_upd, sound_updTil]
    | (intro _) | with_reducible apply soundOut_ite | with_reducible apply sound_ite | split

theorem execSkeinEarlyEnd_sound {s : State} (h : s.Sound) (t : Nat) (c : Ctx) (x2 : Nat) (bad : Option Nat) : soundOut
    (execSkeinEarlyEnd t c x2 bad s) := by
  simp only [execSkeinEarlyEnd]
  repeat'
    first
    | with_reducible assumption | with_reducible apply State.endEarly_sound
    | with_reducible apply State.moveChunk_sound | with_reducible apply State.translate_sound
    | with_reducible apply State.logPoison_sound | with_reducible refine fst_sound (by assumption) ?_
    | with_reducible apply sound_foldl | with_reducible apply sound_foldl_fst | rw [soundOut_next]
    | simp only [sound_upd, sound_updTil] | (intro _) | with_reducible apply soundOut_ite
    | with_reducible apply sound_ite | split

theorem State.setReady_sound {s : State} (h : s.Sound) (g f : Nat) : (State.setReady s g f).Sound := by
  simp only [State.setReady]
  repeat'
    first
    | with_reducible assumption | with_reducible refine fst_sound (by assumption) ?_
    | simp only [sound_upd, sound_updTil] | (intro _) | with_reducible apply sound_ite | split

theorem execSkeinComplete_sound {s : State} (h : s.Sound) (t : Nat) (c : Ctx) (x2 : Nat) : soundOut (execSkeinComplete
    t c x2 s) := by
  simp only [execSkeinComplete]
  repeat'
    first
    | with_reducible assumption | with_reducible apply State.skeinDone_sound
    | with_reducible apply State.setReady_sound | with_reducible refine fst_sound (by assumption) ?_
    | rw [soundOut_next] | simp only [sound_upd, sound_updTil] | (intro _) | with_reducible apply soundOut_ite
    | with_reducible apply sound_ite | split

theorem chtakeBody_sound {s : State} (h : s.Sound) (i : Issue) (rd rs1 rs2 : SReg) (wait : Option Instr) : (chtakeBody
    i rd rs1 rs2 wait s).sound := by
  simp only [chtakeBody]
  repeat'
    first
    | with_reducible assumption | with_reducible apply State.ws_sound | with_reducible apply State.cqTake_sound
    | with_reducible apply State.writeLocal_sound | with_reducible refine fst_sound (by assumption) ?_
    | simp only [fate_retire, fate_jump, fate_trap, fate_trapAfter, fate_ecc, fate_wait]
    | simp only [sound_upd, sound_updTil] | (intro _) | with_reducible apply fate_ite
    | with_reducible apply sound_ite | split

theorem State.disableCq_sound {s : State} (h : s.Sound) (q : Nat) : (State.disableCq s q).Sound := by
  simp only [State.disableCq]
  repeat'
    first
    | with_reducible assumption | with_reducible apply State.put_sound | with_reducible apply State.skeinDone_sound
    | with_reducible apply State.finish_sound | with_reducible apply chtakeBody_sound
    | with_reducible refine fst_sound (by assumption) ?_ | with_reducible apply sound_foldl
    | with_reducible apply sound_foldl_fst | simp only [sound_upd, sound_updTil] | (intro _)
    | with_reducible apply sound_ite | split

theorem State.enableCq_sound {s : State} (h : s.Sound) (q : Nat) : (State.enableCq s q).Sound := by
  simp only [State.enableCq]
  repeat'
    first
    | with_reducible assumption | with_reducible apply State.setReg_sound | with_reducible apply State.put_sound
    | with_reducible refine fst_sound (by assumption) ?_ | simp only [sound_upd, sound_updTil] | (intro _)
    | with_reducible apply sound_ite | split

theorem execCqEnable_sound {s : State} (h : s.Sound) (inst slot : Nat) : soundOut (execCqEnable inst slot s) := by
  simp only [execCqEnable]
  repeat'
    first
    | with_reducible assumption | with_reducible apply State.complete_sound
    | with_reducible apply State.enableCq_sound | with_reducible apply State.put_sound
    | with_reducible refine fst_sound (by assumption) ?_ | rw [soundOut_next] | simp only [sound_upd, sound_updTil]
    | (intro _) | with_reducible apply soundOut_ite | with_reducible apply sound_ite | split

theorem execCqDisable_sound {s : State} (h : s.Sound) (inst slot : Nat) : soundOut (execCqDisable inst slot s) := by
  simp only [execCqDisable]
  repeat'
    first
    | with_reducible assumption | with_reducible apply State.complete_sound
    | with_reducible apply State.disableCq_sound | with_reducible refine fst_sound (by assumption) ?_
    | rw [soundOut_next] | simp only [sound_upd, sound_updTil] | (intro _) | with_reducible apply soundOut_ite
    | with_reducible apply sound_ite | split

end Sys2Proof.Machine
end

