-- ==== Sys2Proof/Laws/SoundMesh.lean ====
section
/-! SUPPORT. The operations of Mesh.lean keep a state well kept. -/
namespace Sys2Proof.Machine
set_option linter.unusedTactic false
set_option linter.unreachableTactic false
set_option linter.unusedSimpArgs false
open Sys2Proof

theorem State.dropFlight_sound {s : State} (h : s.Sound) (id : Nat) : (State.dropFlight s id).Sound := by
  simp only [State.dropFlight]
  repeat'
    first
    | with_reducible assumption | with_reducible refine fst_sound (by assumption) ?_
    | simp only [sound_upd, sound_updTil] | (intro _) | with_reducible apply sound_ite | split

theorem State.setFlight_sound {s : State} (h : s.Sound) (id : Nat) (f : Flight → Flight) : (State.setFlight s id
    f).Sound := by
  simp only [State.setFlight]
  repeat'
    first
    | with_reducible assumption | with_reducible refine fst_sound (by assumption) ?_
    | simp only [sound_upd, sound_updTil] | (intro _) | with_reducible apply sound_ite | split

theorem execMeshHop_sound {s : State} (h : s.Sound) (id : Nat) (good : Bool) : soundOut (execMeshHop id good s) := by
  simp only [execMeshHop]
  repeat'
    first
    | with_reducible assumption | with_reducible apply State.bump_sound
    | with_reducible apply State.dropFlight_sound | with_reducible apply State.setFlight_sound
    | with_reducible refine fst_sound (by assumption) ?_ | rw [soundOut_next] | simp only [sound_upd, sound_updTil]
    | (intro _) | with_reducible apply soundOut_ite | with_reducible apply sound_ite | split

theorem State.takeMsg_sound {s : State} (h : s.Sound) (m : Msg) : (State.takeMsg s m).Sound := by
  simp only [State.takeMsg]
  repeat'
    first
    | with_reducible assumption | with_reducible apply State.bump_sound | with_reducible apply State.event_sound
    | with_reducible apply State.setTile_sound | simp only [tile_ok_mk, context_ok_mk, context_ok_new]
    | with_reducible apply Tile.s_ok | with_reducible apply Tile.w_ok | with_reducible apply State.tile_ok
    | with_reducible apply State.ctx_ok | with_reducible apply Tile.ctx_ok | with_reducible apply Tile.setCtx_ok
    | with_reducible apply Context.wr_ok | with_reducible apply Context.setVec_ok
    | with_reducible apply Context.setAcc_ok | with_reducible apply Context.next_ok
    | with_reducible exact True.intro | with_reducible apply And.intro
    | with_reducible refine fst_sound (by assumption) ?_ | simp only [sound_upd, sound_updTil] | (intro _)
    | with_reducible apply sound_ite | split

theorem execMessageAccept_sound {s : State} (h : s.Sound) (id : Nat) : soundOut (execMessageAccept id s) := by
  simp only [execMessageAccept]
  repeat'
    first
    | with_reducible assumption | with_reducible apply State.takeMsg_sound
    | with_reducible apply State.dropFlight_sound | with_reducible apply State.returnMsg_sound
    | with_reducible refine fst_sound (by assumption) ?_ | rw [soundOut_next] | simp only [sound_upd, sound_updTil]
    | (intro _) | with_reducible apply soundOut_ite | with_reducible apply sound_ite | split

theorem execReturnedMessageArrive_sound {s : State} (h : s.Sound) (id : Nat) : soundOut (execReturnedMessageArrive id
    s) := by
  simp only [execReturnedMessageArrive]
  repeat'
    first
    | with_reducible assumption | with_reducible apply State.pushReturned_sound
    | with_reducible apply State.dropFlight_sound | with_reducible apply State.rmqWait_sound
    | with_reducible apply State.setFlight_sound | with_reducible refine fst_sound (by assumption) ?_
    | rw [soundOut_next] | simp only [sound_upd, sound_updTil] | (intro _) | with_reducible apply soundOut_ite
    | with_reducible apply sound_ite | split

theorem State.startAssign_sound {s : State} (h : s.Sound) (t role src len entry : Nat) (by_ : Option (Nat × Nat)) :
    (State.startAssign s t role src len entry by_).Sound := by
  simp only [State.startAssign]
  repeat'
    first
    | with_reducible assumption | with_reducible apply State.put_sound | with_reducible apply State.setTile_sound
    | simp only [tile_ok_mk, context_ok_mk, context_ok_new] | with_reducible apply Tile.s_ok
    | with_reducible apply Tile.w_ok | with_reducible apply State.tile_ok | with_reducible apply State.ctx_ok
    | with_reducible apply Tile.ctx_ok | with_reducible apply Tile.setCtx_ok | with_reducible apply Context.wr_ok
    | with_reducible apply Context.setVec_ok | with_reducible apply Context.setAcc_ok
    | with_reducible apply Context.next_ok | with_reducible exact True.intro | with_reducible apply And.intro
    | with_reducible refine fst_sound (by assumption) ?_ | simp only [sound_upd, sound_updTil] | (intro _)
    | with_reducible apply sound_ite | split

theorem State.refuseAssign_sound {s : State} (h : s.Sound) (t st : Nat) : (State.refuseAssign s t st).Sound := by
  simp only [State.refuseAssign]
  repeat'
    first
    | with_reducible assumption | with_reducible apply State.raise_sound | with_reducible apply State.put_sound
    | with_reducible refine fst_sound (by assumption) ?_ | simp only [sound_upd, sound_updTil] | (intro _)
    | with_reducible apply sound_ite | split

theorem execTileCtrlAssign_sound {s : State} (h : s.Sound) (r : Requester) (t : Nat) : soundOut (execTileCtrlAssign r
    t s) := by
  simp only [execTileCtrlAssign]
  repeat'
    first
    | with_reducible assumption | with_reducible apply State.startAssign_sound
    | with_reducible apply State.refuseAssign_sound | with_reducible refine fst_sound (by assumption) ?_
    | rw [soundOut_next] | simp only [sound_upd, sound_updTil] | (intro _) | with_reducible apply soundOut_ite
    | with_reducible apply sound_ite | split

theorem execRoleChangeDrained_sound {s : State} (h : s.Sound) (t : Nat) : soundOut (execRoleChangeDrained t s) := by
  simp only [execRoleChangeDrained]
  repeat'
    first
    | with_reducible assumption | with_reducible apply State.put_sound | with_reducible apply State.complete_sound
    | with_reducible refine fst_sound (by assumption) ?_ | rw [soundOut_next] | simp only [sound_upd, sound_updTil]
    | (intro _) | with_reducible apply soundOut_ite | with_reducible apply sound_ite | split

theorem State.clearTile_sound {s : State} (h : s.Sound) (t entry : Nat) : (State.clearTile s t entry).Sound := by
  simp only [State.clearTile]
  repeat'
    first
    | with_reducible assumption | with_reducible apply State.setTile_sound
    | simp only [tile_ok_mk, context_ok_mk, context_ok_new] | with_reducible apply Tile.s_ok
    | with_reducible apply Tile.w_ok | with_reducible apply State.tile_ok | with_reducible apply State.ctx_ok
    | with_reducible apply Tile.ctx_ok | with_reducible apply Tile.setCtx_ok | with_reducible apply Context.wr_ok
    | with_reducible apply Context.setVec_ok | with_reducible apply Context.setAcc_ok
    | with_reducible apply Context.next_ok | with_reducible exact True.intro | with_reducible apply And.intro
    | with_reducible refine fst_sound (by assumption) ?_ | simp only [sound_upd, sound_updTil] | (intro _)
    | with_reducible apply sound_ite | split

theorem State.roleWall_sound {s : State} (h : s.Sound) (t : Nat) : (State.roleWall s t).Sound := by
  simp only [State.roleWall]
  repeat'
    first
    | with_reducible assumption | with_reducible apply State.put_sound | with_reducible apply State.setTile_sound
    | with_reducible apply State.returnMsg_sound | with_reducible apply State.clearTile_sound
    | simp only [tile_ok_mk, context_ok_mk, context_ok_new] | with_reducible apply Tile.s_ok
    | with_reducible apply Tile.w_ok | with_reducible apply State.tile_ok | with_reducible apply State.ctx_ok
    | with_reducible apply Tile.ctx_ok | with_reducible apply Tile.setCtx_ok | with_reducible apply Context.wr_ok
    | with_reducible apply Context.setVec_ok | with_reducible apply Context.setAcc_ok
    | with_reducible apply Context.next_ok | with_reducible exact True.intro | with_reducible apply And.intro
    | with_reducible refine fst_sound (by assumption) ?_ | with_reducible apply sound_foldl
    | with_reducible apply sound_foldl_fst | simp only [sound_upd, sound_updTil] | (intro _)
    | with_reducible apply sound_ite | split

theorem State.startReady_sound {s : State} (h : s.Sound) (t : Nat) : (State.startReady s t).Sound := by
  simp only [State.startReady]
  repeat'
    first
    | with_reducible assumption | with_reducible apply State.put_sound
    | with_reducible refine fst_sound (by assumption) ?_ | simp only [sound_upd, sound_updTil] | (intro _)
    | with_reducible apply sound_ite | split

theorem State.imageOf_sound {s : State} (h : s.Sound) (a : Assign) : (State.imageOf s a).1.Sound := by
  simp only [State.imageOf]
  repeat'
    first
    | with_reducible assumption | with_reducible apply State.logPoison_sound
    | with_reducible refine fst_sound (by assumption) ?_ | simp only [sound_upd, sound_updTil] | (intro _)
    | with_reducible apply sound_ite | split

theorem State.loadStore_sound {s : State} (h : s.Sound) (t : Nat) (img : List Byte) : (State.loadStore s t img).Sound
    := by
  simp only [State.loadStore]
  apply State.setBytes_sound
  exact ⟨filter_canonical 0 h.mem _, h.poison, h.csr, h.tiles, h.tilesOk⟩

theorem execTileLoadDone_sound {s : State} (h : s.Sound) (t : Nat) : soundOut (execTileLoadDone t s) := by
  simp only [execTileLoadDone]
  repeat'
    first
    | with_reducible assumption | with_reducible apply State.imageOf_sound
    | with_reducible apply State.loadStore_sound | with_reducible apply State.setTile_sound
    | with_reducible apply State.raise_sound | with_reducible apply State.put_sound
    | with_reducible apply State.startReady_sound | simp only [tile_ok_mk, context_ok_mk, context_ok_new]
    | with_reducible apply Tile.s_ok | with_reducible apply Tile.w_ok | with_reducible apply State.tile_ok
    | with_reducible apply State.ctx_ok | with_reducible apply Tile.ctx_ok | with_reducible apply Tile.setCtx_ok
    | with_reducible apply Context.wr_ok | with_reducible apply Context.setVec_ok
    | with_reducible apply Context.setAcc_ok | with_reducible apply Context.next_ok
    | with_reducible exact True.intro | with_reducible apply And.intro
    | with_reducible refine fst_sound (by assumption) ?_ | rw [soundOut_next] | simp only [sound_upd, sound_updTil]
    | (intro _) | with_reducible apply soundOut_ite | with_reducible apply sound_ite | split

end Sys2Proof.Machine
end

