-- ==== Sys2Proof/Laws/SoundFirmware.lean ====
section
/-! SUPPORT. The operations of Firmware.lean keep a state well kept. -/
namespace Sys2Proof.Machine
set_option linter.unusedTactic false
set_option linter.unreachableTactic false
set_option linter.unusedSimpArgs false
open Sys2Proof

theorem State.runSlotIs_sound {s : State} (h : s.Sound) (b : Nat) : (State.runSlotIs s b).Sound := by
  simp only [State.runSlotIs]
  repeat'
    first
    | with_reducible assumption | with_reducible apply State.put_sound
    | with_reducible refine fst_sound (by assumption) ?_ | simp only [sound_upd, sound_updTil] | (intro _)
    | with_reducible apply sound_ite | split

theorem State.renewTile_sound {s : State} (h : s.Sound) (t : Nat) : (State.renewTile s t).Sound := by
  simp only [State.renewTile]
  repeat'
    first
    | with_reducible assumption | with_reducible apply State.startAssign_sound
    | with_reducible apply State.tick_sound | with_reducible refine fst_sound (by assumption) ?_
    | simp only [sound_upd, sound_updTil] | (intro _) | with_reducible apply sound_ite | split

theorem State.swapPair_sound {s : State} (h : s.Sound) (d : Nat) : (State.swapPair s d).Sound := by
  simp only [State.swapPair]
  repeat'
    first
    | with_reducible assumption | with_reducible apply State.raise_sound
    | with_reducible refine fst_sound (by assumption) ?_ | simp only [sound_upd, sound_updTil] | (intro _)
    | with_reducible apply sound_ite | split

theorem State.activate_sound {s : State} (h : s.Sound) (b : Nat) : (State.activate s b).Sound := by
  simp only [State.activate]
  repeat'
    first
    | with_reducible assumption | with_reducible apply State.swapPair_sound
    | with_reducible apply State.runSlotIs_sound | with_reducible apply State.renewTile_sound
    | with_reducible refine fst_sound (by assumption) ?_ | with_reducible apply sound_foldl
    | with_reducible apply sound_foldl_fst | simp only [sound_upd, sound_updTil] | (intro _)
    | with_reducible apply sound_ite | split

theorem State.fwRevert_sound {s : State} (h : s.Sound) : (State.fwRevert s).Sound := by
  simp only [State.fwRevert]
  repeat'
    first
    | with_reducible assumption | with_reducible apply State.activate_sound
    | with_reducible apply State.raise_sound | with_reducible apply State.put_sound
    | with_reducible refine fst_sound (by assumption) ?_ | simp only [sound_upd, sound_updTil] | (intro _)
    | with_reducible apply sound_ite | split

theorem State.fwGood_sound {s : State} (h : s.Sound) : (State.fwGood s).Sound := by
  simp only [State.fwGood]
  repeat'
    first
    | with_reducible assumption | with_reducible apply State.raise_sound | with_reducible apply State.put_sound
    | with_reducible refine fst_sound (by assumption) ?_ | simp only [sound_upd, sound_updTil] | (intro _)
    | with_reducible apply sound_ite | split

theorem State.svnCheck_sound {s : State} (h : s.Sound) (n : Nat) : (State.svnCheck s n).1.Sound := by
  simp only [State.svnCheck]
  repeat'
    first
    | with_reducible assumption | with_reducible apply State.raise_sound
    | with_reducible refine fst_sound (by assumption) ?_ | simp only [sound_upd, sound_updTil] | (intro _)
    | with_reducible apply sound_ite | split

end Sys2Proof.Machine
end

