-- ==== Sys2Proof/Laws/SoundSparing.lean ====
section
/-! SUPPORT. The operations of Sparing.lean keep a state well kept. -/
namespace Sys2Proof.Machine
set_option linter.unusedTactic false
set_option linter.unreachableTactic false
set_option linter.unusedSimpArgs false
open Sys2Proof

theorem State.loseMirror_sound {s : State} (h : s.Sound) (t : Nat) : (State.loseMirror s t).Sound := by
  simp only [State.loseMirror]
  repeat'
    first
    | with_reducible assumption | with_reducible apply State.raise_sound | with_reducible apply State.setReg_sound
    | with_reducible refine fst_sound (by assumption) ?_ | simp only [sound_upd, sound_updTil] | (intro _)
    | with_reducible apply sound_ite | split

theorem execTileSpareCmd_sound {s : State} (h : s.Sound) (r : Requester) (val : Nat) : soundOut (execTileSpareCmd r
    val s) := by
  simp only [execTileSpareCmd]
  repeat'
    first
    | with_reducible assumption | with_reducible apply State.put_sound
    | with_reducible refine fst_sound (by assumption) ?_ | rw [soundOut_next] | simp only [sound_upd, sound_updTil]
    | (intro _) | with_reducible apply soundOut_ite | with_reducible apply sound_ite | split

theorem State.secondFault_sound {s : State} (h : s.Sound) : (State.secondFault s).Sound := by
  simp only [State.secondFault]
  repeat'
    first
    | with_reducible assumption | with_reducible apply State.raise_sound | with_reducible apply State.bump_sound
    | with_reducible refine fst_sound (by assumption) ?_ | simp only [sound_upd, sound_updTil] | (intro _)
    | with_reducible apply sound_ite | split

theorem State.weftHoles_sound {s : State} (h : s.Sound) (t : Nat) : (State.weftHoles s t).Sound := by
  simp only [State.weftHoles]
  have h1 : ∀ (l : List (Nat × Skein)) (b : Bool), (if b = true then s else l.foldl (fun s (h : Nat × Skein) =>
      if h.2.signal = true then
        (s.cqForce h.2.queue (Skein.holeSig t .W h.1 h.2 stHOLE (s.get PICK_NUMBER_NUMBER))).countHole
          (Skein.holeSig t .W h.1 h.2 stHOLE (s.get PICK_NUMBER_NUMBER))
      else s) s).Sound := by
    intro l b
    split
    · exact h
    · refine sound_foldl (fun s x hs => ?_) h l
      split
      · exact State.countHole_sound (State.cqForce_sound hs _ _) _
      · exact hs
  have hx := State.tile_ok (h1 ((s.tile t).w.handles.filter fun h => h.2.state != 6) (s.til.mgrLost.contains (t / 1024))) t
  refine State.setTile_sound (h1 _ _) t ((tile_ok_mk ..).2 ⟨Tile.s_ok hx, ?_⟩)
  exact context_handles_ok (Tile.w_ok hx) _ (filter_sorted (Context.handles_sorted (Tile.w_ok hx)) _) ..

theorem State.abortRings_sound {s : State} (h : s.Sound) (i : Nat) : (State.abortRings s i).Sound := by
  simp only [State.abortRings]
  repeat'
    first
    | with_reducible assumption | with_reducible apply State.complete_sound
    | with_reducible refine fst_sound (by assumption) ?_ | with_reducible apply sound_foldl
    | with_reducible apply sound_foldl_fst | simp only [sound_upd, sound_updTil] | (intro _)
    | with_reducible apply sound_ite | split

theorem State.failRole_sound {s : State} (h : s.Sound) (t : Nat) : (State.failRole s t).Sound := by
  simp only [State.failRole]
  split
  · exact h
  · split
    · split
      · exact State.abortRings_sound h _
      · exact h
    · exact (State.tick_sound h).upd rfl rfl rfl rfl

theorem State.failTile_sound {s : State} (h : s.Sound) (t : Nat) : (State.failTile s t).Sound := by
  simp only [State.failTile]
  repeat'
    first
    | with_reducible assumption | with_reducible apply State.setReg_sound | with_reducible apply State.put_sound
    | with_reducible apply State.secondFault_sound | with_reducible apply State.raise_sound
    | with_reducible apply State.complete_sound | with_reducible apply State.failRole_sound
    | with_reducible apply State.weftHoles_sound | with_reducible apply State.setTile_sound
    | simp only [tile_ok_mk, context_ok_mk, context_ok_new] | with_reducible apply Tile.s_ok
    | with_reducible apply Tile.w_ok | with_reducible apply State.tile_ok | with_reducible apply State.ctx_ok
    | with_reducible apply Tile.ctx_ok | with_reducible apply Tile.setCtx_ok | with_reducible apply Context.wr_ok
    | with_reducible apply Context.setVec_ok | with_reducible apply Context.setAcc_ok
    | with_reducible apply Context.next_ok | with_reducible exact True.intro | with_reducible apply And.intro
    | with_reducible refine fst_sound (by assumption) ?_ | simp only [sound_upd, sound_updTil] | (intro _)
    | with_reducible apply sound_ite | split

theorem State.pairFault_sound {s : State} (h : s.Sound) (t : Nat) : (State.pairFault s t).Sound := by
  simp only [State.pairFault]
  have h1 : ∀ b : Bool, ∀ x : State, x.Sound → (if b = true then ({ s.secondFault with til :=
      { s.til with mgrLost := t / 1024 :: s.til.mgrLost } } : State) else x).Sound := by
    intro b x hx
    split
    · exact (State.secondFault_sound h).upd rfl rfl rfl rfl
    · exact hx
  repeat'
    first
    | with_reducible assumption | with_reducible apply State.raise_sound | with_reducible apply State.fwRevert_sound
    | simp only [sound_upd, sound_updTil] | with_reducible apply h1 | with_reducible apply sound_ite

theorem State.routerMirror_sound {s : State} (h : s.Sound) (t : Nat) : (State.routerMirror s t).Sound := by
  simp only [State.routerMirror]
  repeat'
    first
    | with_reducible assumption | with_reducible apply State.loseMirror_sound
    | with_reducible refine fst_sound (by assumption) ?_ | simp only [sound_upd, sound_updTil] | (intro _)
    | with_reducible apply sound_ite | split

theorem State.tileFault_sound {s : State} (h : s.Sound) (t : Nat) (router : Bool) : (State.tileFault s t router).Sound
    := by
  simp only [State.tileFault]
  repeat'
    first
    | with_reducible assumption | with_reducible apply State.pairFault_sound
    | with_reducible apply State.setTile_sound | with_reducible apply State.secondFault_sound
    | with_reducible apply State.failTile_sound | with_reducible apply State.weftHoles_sound
    | with_reducible apply State.routerMirror_sound | simp only [tile_ok_mk, context_ok_mk, context_ok_new]
    | with_reducible apply Tile.s_ok | with_reducible apply Tile.w_ok | with_reducible apply State.tile_ok
    | with_reducible apply State.ctx_ok | with_reducible apply Tile.ctx_ok | with_reducible apply Tile.setCtx_ok
    | with_reducible apply Context.wr_ok | with_reducible apply Context.setVec_ok
    | with_reducible apply Context.setAcc_ok | with_reducible apply Context.next_ok
    | with_reducible exact True.intro | with_reducible apply And.intro
    | with_reducible refine fst_sound (by assumption) ?_ | simp only [sound_upd, sound_updTil] | (intro _)
    | with_reducible apply sound_ite | split

theorem execTileFaultDetect_sound {s : State} (h : s.Sound) (t : Nat) (router : Bool) : soundOut (execTileFaultDetect
    t router s) := by
  simp only [execTileFaultDetect]
  repeat'
    first
    | with_reducible assumption | with_reducible apply State.tileFault_sound
    | with_reducible refine fst_sound (by assumption) ?_ | rw [soundOut_next] | simp only [sound_upd, sound_updTil]
    | (intro _) | with_reducible apply soundOut_ite | with_reducible apply sound_ite | split

theorem execTileWatchdogExpiry_sound {s : State} (h : s.Sound) (t : Nat) : soundOut (execTileWatchdogExpiry t s) := by
  simp only [execTileWatchdogExpiry]
  repeat'
    first
    | with_reducible assumption | with_reducible apply State.tileFault_sound
    | with_reducible refine fst_sound (by assumption) ?_ | rw [soundOut_next] | simp only [sound_upd, sound_updTil]
    | (intro _) | with_reducible apply soundOut_ite | with_reducible apply sound_ite | split

theorem execTileRestoreComplete_sound {s : State} (h : s.Sound) (t : Nat) : soundOut (execTileRestoreComplete t s) :=
    by
  simp only [execTileRestoreComplete]
  repeat'
    first
    | with_reducible assumption | with_reducible apply State.raise_sound | with_reducible apply State.setTile_sound
    | simp only [tile_ok_mk, context_ok_mk, context_ok_new] | with_reducible apply Tile.s_ok
    | with_reducible apply Tile.w_ok | with_reducible apply State.tile_ok | with_reducible apply State.ctx_ok
    | with_reducible apply Tile.ctx_ok | with_reducible apply Tile.setCtx_ok | with_reducible apply Context.wr_ok
    | with_reducible apply Context.setVec_ok | with_reducible apply Context.setAcc_ok
    | with_reducible apply Context.next_ok | with_reducible exact True.intro | with_reducible apply And.intro
    | with_reducible refine fst_sound (by assumption) ?_ | rw [soundOut_next] | simp only [sound_upd, sound_updTil]
    | (intro _) | with_reducible apply soundOut_ite | with_reducible apply sound_ite | split

theorem execMirrorError_sound {s : State} (h : s.Sound) (t : Nat) : soundOut (execMirrorError t s) := by
  simp only [execMirrorError]
  repeat'
    first
    | with_reducible assumption | with_reducible apply State.loseMirror_sound
    | with_reducible refine fst_sound (by assumption) ?_ | rw [soundOut_next] | simp only [sound_upd, sound_updTil]
    | (intro _) | with_reducible apply soundOut_ite | with_reducible apply sound_ite | split

theorem execMirrorRecopyComplete_sound {s : State} (h : s.Sound) (t : Nat) : soundOut (execMirrorRecopyComplete t s)
    := by
  simp only [execMirrorRecopyComplete]
  repeat'
    first
    | with_reducible assumption | with_reducible apply State.setReg_sound
    | with_reducible refine fst_sound (by assumption) ?_ | rw [soundOut_next] | simp only [sound_upd, sound_updTil]
    | (intro _) | with_reducible apply soundOut_ite | with_reducible apply sound_ite | split

theorem execManagerPartnerReady_sound {s : State} (h : s.Sound) (d : Nat) : soundOut (execManagerPartnerReady d s) :=
    by
  simp only [execManagerPartnerReady]
  repeat'
    first
    | with_reducible assumption | with_reducible apply State.raise_sound
    | with_reducible refine fst_sound (by assumption) ?_ | rw [soundOut_next] | simp only [sound_upd, sound_updTil]
    | (intro _) | with_reducible apply soundOut_ite | with_reducible apply sound_ite | split

theorem State.spareOne_sound {s : State} (h : s.Sound) (p : Nat × Nat) : (State.spareOne s p).Sound := by
  simp only [State.spareOne]
  repeat'
    first
    | with_reducible assumption | with_reducible apply State.raise_sound | with_reducible apply State.put_sound
    | with_reducible apply State.clearTile_sound | with_reducible apply State.setTile_sound
    | with_reducible apply State.loseMirror_sound | simp only [tile_ok_mk, context_ok_mk, context_ok_new]
    | with_reducible apply Tile.s_ok | with_reducible apply Tile.w_ok | with_reducible apply State.tile_ok
    | with_reducible apply State.ctx_ok | with_reducible apply Tile.ctx_ok | with_reducible apply Tile.setCtx_ok
    | with_reducible apply Context.wr_ok | with_reducible apply Context.setVec_ok
    | with_reducible apply Context.setAcc_ok | with_reducible apply Context.next_ok
    | with_reducible exact True.intro | with_reducible apply And.intro
    | with_reducible refine fst_sound (by assumption) ?_ | simp only [sound_upd, sound_updTil] | (intro _)
    | with_reducible apply sound_ite | split

theorem State.moveRole_sound {s : State} (h : s.Sound) (m : Nat × Nat) : (State.moveRole s m).Sound := by
  simp only [State.moveRole]
  repeat'
    first
    | with_reducible assumption | with_reducible apply State.put_sound | with_reducible apply State.setTile_sound
    | with_reducible apply State.setByte_sound | with_reducible apply State.loadStore_sound
    | simp only [tile_ok_mk, context_ok_mk, context_ok_new] | with_reducible apply Tile.s_ok
    | with_reducible apply Tile.w_ok | with_reducible apply State.tile_ok | with_reducible apply State.ctx_ok
    | with_reducible apply Tile.ctx_ok | with_reducible apply Tile.setCtx_ok | with_reducible apply Context.wr_ok
    | with_reducible apply Context.setVec_ok | with_reducible apply Context.setAcc_ok
    | with_reducible apply Context.next_ok | with_reducible exact True.intro | with_reducible apply And.intro
    | with_reducible refine fst_sound (by assumption) ?_ | with_reducible apply sound_foldl
    | with_reducible apply sound_foldl_fst | simp only [sound_upd, sound_updTil] | (intro _)
    | with_reducible apply sound_ite | split

theorem State.spareWall_sound {s : State} (h : s.Sound) : (State.spareWall s).Sound := by
  simp only [State.spareWall]
  repeat'
    first
    | with_reducible assumption | with_reducible apply State.spareOne_sound
    | with_reducible apply State.raise_sound | with_reducible apply State.setReg_sound
    | with_reducible apply State.put_sound | with_reducible apply State.moveRole_sound
    | with_reducible refine fst_sound (by assumption) ?_ | with_reducible apply sound_foldl
    | with_reducible apply sound_foldl_fst | simp only [sound_upd, sound_updTil] | (intro _)
    | with_reducible apply sound_ite | split

end Sys2Proof.Machine
end

