-- ==== Sys2Proof/Laws/SoundPick.lean ====
section
/-! SUPPORT. The operations of Pick.lean keep a state well kept. -/
namespace Sys2Proof.Machine
set_option linter.unusedTactic false
set_option linter.unreachableTactic false
set_option linter.unusedSimpArgs false
open Sys2Proof

theorem State.elapse_sound {s : State} (h : s.Sound) (n : Nat) : (State.elapse s n).Sound := by
  simp only [State.elapse]
  repeat'
    first
    | with_reducible assumption | with_reducible apply State.put_sound
    | with_reducible refine fst_sound (by assumption) ?_ | simp only [sound_upd, sound_updTil] | (intro _)
    | with_reducible apply sound_ite | split

theorem State.setTod_sound {s : State} (h : s.Sound) (sec half : Nat) : (State.setTod s sec half).Sound := by
  simp only [State.setTod]
  repeat'
    first
    | with_reducible assumption | with_reducible apply State.put_sound
    | with_reducible refine fst_sound (by assumption) ?_ | simp only [sound_upd, sound_updTil] | (intro _)
    | with_reducible apply sound_ite | split

theorem State.todLoad_sound {s : State} (h : s.Sound) (sec : Nat) : (State.todLoad s sec).Sound := by
  simp only [State.todLoad]
  repeat'
    first
    | with_reducible assumption | with_reducible apply State.setTod_sound
    | with_reducible refine fst_sound (by assumption) ?_ | simp only [sound_upd, sound_updTil] | (intro _)
    | with_reducible apply sound_ite | split

theorem execSyncSymbolSend_sound {s : State} (h : s.Sound) : soundOut (execSyncSymbolSend s) := by
  simp only [execSyncSymbolSend]
  repeat'
    first
    | with_reducible assumption | with_reducible refine fst_sound (by assumption) ?_
    | with_reducible apply sound_foldl | with_reducible apply sound_foldl_fst | rw [soundOut_next]
    | simp only [sound_upd, sound_updTil] | (intro _) | with_reducible apply soundOut_ite
    | with_reducible apply sound_ite | split

theorem State.servoStep_sound {s : State} (h : s.Sound) : (State.servoStep s).Sound := by
  simp only [State.servoStep]
  repeat'
    first
    | with_reducible assumption | with_reducible apply State.put_sound | with_reducible apply State.tick_sound
    | with_reducible refine fst_sound (by assumption) ?_ | simp only [sound_upd, sound_updTil] | (intro _)
    | with_reducible apply sound_ite | split

theorem State.half_sound {s : State} (h : s.Sound) (x : Int) : (State.half s x).1.Sound := by
  simp only [State.half]
  repeat'
    first
    | with_reducible assumption | with_reducible apply State.tick_sound
    | with_reducible refine fst_sound (by assumption) ?_ | simp only [sound_upd, sound_updTil] | (intro _)
    | with_reducible apply sound_ite | split

theorem State.measure_sound {s : State} (h : s.Sound) (g : Nat) (y : SyncSym) (a : Int) : (State.measure s g y
    a).1.Sound := by
  simp only [State.measure]
  repeat'
    first
    | with_reducible assumption | with_reducible apply State.half_sound | with_reducible apply State.put_sound
    | with_reducible refine fst_sound (by assumption) ?_ | simp only [sound_upd, sound_updTil] | (intro _)
    | with_reducible apply sound_ite | split

theorem State.toListen_sound {s : State} (h : s.Sound) : (State.toListen s).Sound := by
  simp only [State.toListen]
  repeat'
    first
    | with_reducible assumption | with_reducible apply State.put_sound
    | with_reducible refine fst_sound (by assumption) ?_ | simp only [sound_upd, sound_updTil] | (intro _)
    | with_reducible apply sound_ite | split

theorem State.listenSym_sound {s : State} (h : s.Sound) (y : SyncSym) (t : Int) : (State.listenSym s y t).Sound := by
  simp only [State.listenSym]
  repeat'
    first
    | with_reducible assumption | with_reducible refine fst_sound (by assumption) ?_
    | simp only [sound_upd, sound_updTil] | (intro _) | with_reducible apply sound_ite | split

theorem State.parentSym_sound {s : State} (h : s.Sound) (g : Nat) (y : SyncSym) (a : Int) : (State.parentSym s g y
    a).Sound := by
  simp only [State.parentSym]
  repeat'
    first
    | with_reducible assumption | with_reducible apply State.measure_sound | with_reducible apply State.put_sound
    | with_reducible apply State.servoStep_sound | with_reducible apply State.raise_sound
    | with_reducible apply State.toListen_sound | with_reducible apply State.raiseIf_sound
    | with_reducible refine fst_sound (by assumption) ?_ | simp only [sound_upd, sound_updTil] | (intro _)
    | with_reducible apply sound_ite | split

theorem execSyncSymbolReceive_sound {s : State} (h : s.Sound) (g : Nat) (b : List Byte) (a t : Int) (onTime : Bool) :
    soundOut (execSyncSymbolReceive g b a t onTime s) := by
  simp only [execSyncSymbolReceive]
  repeat'
    first
    | with_reducible assumption | with_reducible apply State.raise_sound
    | with_reducible apply State.listenSym_sound | with_reducible apply State.parentSym_sound
    | with_reducible refine fst_sound (by assumption) ?_ | rw [soundOut_next] | simp only [sound_upd, sound_updTil]
    | (intro _) | with_reducible apply soundOut_ite | with_reducible apply sound_ite | split

theorem execListenAcquire_sound {s : State} (h : s.Sound) : soundOut (execListenAcquire s) := by
  simp only [execListenAcquire]
  repeat'
    first
    | with_reducible assumption | with_reducible apply State.put_sound
    | with_reducible refine fst_sound (by assumption) ?_ | rw [soundOut_next] | simp only [sound_upd, sound_updTil]
    | (intro _) | with_reducible apply soundOut_ite | with_reducible apply sound_ite | split

theorem execAcquireExchangeComplete_sound {s : State} (h : s.Sound) (pick cyc sec half : Nat) : soundOut
    (execAcquireExchangeComplete pick cyc sec half s) := by
  simp only [execAcquireExchangeComplete]
  repeat'
    first
    | with_reducible assumption | with_reducible apply State.setTod_sound | with_reducible apply State.put_sound
    | with_reducible refine fst_sound (by assumption) ?_ | rw [soundOut_next] | simp only [sound_upd, sound_updTil]
    | (intro _) | with_reducible apply soundOut_ite | with_reducible apply sound_ite | split

theorem execFrequencyEstimateDone_sound {s : State} (h : s.Sound) (adj : Int) : soundOut (execFrequencyEstimateDone
    adj s) := by
  simp only [execFrequencyEstimateDone]
  repeat'
    first
    | with_reducible assumption | with_reducible apply State.put_sound
    | with_reducible refine fst_sound (by assumption) ?_ | rw [soundOut_next] | simp only [sound_upd, sound_updTil]
    | (intro _) | with_reducible apply soundOut_ite | with_reducible apply sound_ite | split

theorem execLockAcquired_sound {s : State} (h : s.Sound) : soundOut (execLockAcquired s) := by
  simp only [execLockAcquired]
  repeat'
    first
    | with_reducible assumption | with_reducible apply State.put_sound
    | with_reducible refine fst_sound (by assumption) ?_ | rw [soundOut_next] | simp only [sound_upd, sound_updTil]
    | (intro _) | with_reducible apply soundOut_ite | with_reducible apply sound_ite | split

theorem execParentLoss_sound {s : State} (h : s.Sound) : soundOut (execParentLoss s) := by
  simp only [execParentLoss]
  repeat'
    first
    | with_reducible assumption | with_reducible apply State.toListen_sound
    | with_reducible apply State.raise_sound | with_reducible apply State.put_sound
    | with_reducible refine fst_sound (by assumption) ?_ | rw [soundOut_next] | simp only [sound_upd, sound_updTil]
    | (intro _) | with_reducible apply soundOut_ite | with_reducible apply sound_ite | split

theorem execSuccessorTakeover_sound {s : State} (h : s.Sound) : soundOut (execSuccessorTakeover s) := by
  simp only [execSuccessorTakeover]
  repeat'
    first
    | with_reducible assumption | with_reducible apply State.raise_sound | with_reducible apply State.put_sound
    | with_reducible refine fst_sound (by assumption) ?_ | rw [soundOut_next] | simp only [sound_upd, sound_updTil]
    | (intro _) | with_reducible apply soundOut_ite | with_reducible apply sound_ite | split

theorem execHoldoverLimitExpiry_sound {s : State} (h : s.Sound) : soundOut (execHoldoverLimitExpiry s) := by
  simp only [execHoldoverLimitExpiry]
  repeat'
    first
    | with_reducible assumption | with_reducible apply State.raise_sound
    | with_reducible apply State.toListen_sound | with_reducible refine fst_sound (by assumption) ?_
    | rw [soundOut_next] | simp only [sound_upd, sound_updTil] | (intro _) | with_reducible apply soundOut_ite
    | with_reducible apply sound_ite | split

theorem State.domWall_sound {s : State} (h : s.Sound) : (State.domWall s).Sound := by
  simp only [State.domWall]
  repeat'
    first
    | with_reducible assumption | with_reducible apply State.put_sound | with_reducible apply State.toListen_sound
    | with_reducible apply State.setReg_sound | with_reducible apply State.raise_sound
    | with_reducible refine fst_sound (by assumption) ?_ | simp only [sound_upd, sound_updTil] | (intro _)
    | with_reducible apply sound_ite | split

theorem execPpsEdge_sound {s : State} (h : s.Sound) : soundOut (execPpsEdge s) := by
  simp only [execPpsEdge]
  repeat'
    first
    | with_reducible assumption | with_reducible apply State.todLoad_sound
    | with_reducible refine fst_sound (by assumption) ?_ | rw [soundOut_next] | simp only [sound_upd, sound_updTil]
    | (intro _) | with_reducible apply soundOut_ite | with_reducible apply sound_ite | split

theorem execReferenceLoss_sound {s : State} (h : s.Sound) : soundOut (execReferenceLoss s) := by
  simp only [execReferenceLoss]
  repeat'
    first
    | with_reducible assumption | with_reducible apply State.raiseIf_sound | with_reducible apply State.put_sound
    | with_reducible refine fst_sound (by assumption) ?_ | rw [soundOut_next] | simp only [sound_upd, sound_updTil]
    | (intro _) | with_reducible apply soundOut_ite | with_reducible apply sound_ite | split

theorem execReferenceReturn_sound {s : State} (h : s.Sound) : soundOut (execReferenceReturn s) := by
  simp only [execReferenceReturn]
  repeat'
    first
    | with_reducible assumption | with_reducible apply State.put_sound | with_reducible apply State.servoStep_sound
    | with_reducible refine fst_sound (by assumption) ?_ | rw [soundOut_next] | simp only [sound_upd, sound_updTil]
    | (intro _) | with_reducible apply soundOut_ite | with_reducible apply sound_ite | split

theorem execPtpMessageReceive_sound {s : State} (h : s.Sound) (t : Nat) : soundOut (execPtpMessageReceive t s) := by
  simp only [execPtpMessageReceive]
  repeat'
    first
    | with_reducible assumption | with_reducible apply State.servoStep_sound
    | with_reducible refine fst_sound (by assumption) ?_ | rw [soundOut_next] | simp only [sound_upd, sound_updTil]
    | (intro _) | with_reducible apply soundOut_ite | with_reducible apply sound_ite | split

theorem execPickTodSecRead_sound {s : State} (h : s.Sound) : soundOut (execPickTodSecRead s) := by
  simp only [execPickTodSecRead]
  repeat'
    first
    | with_reducible assumption | with_reducible apply State.put_sound
    | with_reducible refine fst_sound (by assumption) ?_ | rw [soundOut_next] | simp only [sound_upd, sound_updTil]
    | (intro _) | with_reducible apply soundOut_ite | with_reducible apply sound_ite | split

theorem execPickTodSet_sound {s : State} (h : s.Sound) (r : Requester) (sec : Nat) : soundOut (execPickTodSet r sec s)
    := by
  simp only [execPickTodSet]
  repeat'
    first
    | with_reducible assumption | with_reducible apply State.todLoad_sound
    | with_reducible refine fst_sound (by assumption) ?_ | rw [soundOut_next] | simp only [sound_upd, sound_updTil]
    | (intro _) | with_reducible apply soundOut_ite | with_reducible apply sound_ite | split

end Sys2Proof.Machine
end

