-- ==== Sys2Proof/Laws/SoundWarp.lean ====
section
/-! SUPPORT. The operations of Warp.lean keep a state well kept. -/
namespace Sys2Proof.Machine
set_option linter.unusedTactic false
set_option linter.unreachableTactic false
set_option linter.unusedSimpArgs false
open Sys2Proof

theorem State.markArmed_sound {s : State} (h : s.Sound) (w : WarpSet) (v : Nat) : (State.markArmed s w v).Sound := by
  simp only [State.markArmed]
  repeat'
    first
    | with_reducible assumption | with_reducible apply State.put_sound
    | with_reducible refine fst_sound (by assumption) ?_ | with_reducible apply sound_foldl
    | with_reducible apply sound_foldl_fst | simp only [sound_upd, sound_updTil] | (intro _)
    | with_reducible apply sound_ite | split

theorem State.markActive_sound {s : State} (h : s.Sound) (w : WarpSet) (v : Nat) : (State.markActive s w v).Sound :=
    by
  simp only [State.markActive]
  repeat'
    first
    | with_reducible assumption | with_reducible apply State.put_sound
    | with_reducible refine fst_sound (by assumption) ?_ | with_reducible apply sound_foldl
    | with_reducible apply sound_foldl_fst | simp only [sound_upd, sound_updTil] | (intro _)
    | with_reducible apply sound_ite | split

theorem State.startSet_sound {s : State} (h : s.Sound) (w : WarpSet) : (State.startSet s w).Sound := by
  simp only [State.startSet]
  repeat'
    first
    | with_reducible assumption | with_reducible apply State.startReady_sound
    | with_reducible refine fst_sound (by assumption) ?_ | with_reducible apply sound_foldl
    | with_reducible apply sound_foldl_fst | simp only [sound_upd, sound_updTil] | (intro _)
    | with_reducible apply sound_ite | split

theorem State.emptyShadow_sound {s : State} (h : s.Sound) : (State.emptyShadow s).Sound := by
  simp only [State.emptyShadow]
  repeat'
    first
    | with_reducible assumption | with_reducible apply State.put_sound
    | with_reducible refine fst_sound (by assumption) ?_ | simp only [sound_upd, sound_updTil] | (intro _)
    | with_reducible apply sound_ite | split

theorem execWarpLoad_sound {s : State} (h : s.Sound) (r : Requester) : soundOut (execWarpLoad r s) := by
  simp only [execWarpLoad]
  repeat'
    first
    | with_reducible assumption | with_reducible apply State.put_sound
    | with_reducible apply State.emptyShadow_sound | with_reducible refine fst_sound (by assumption) ?_
    | rw [soundOut_next] | simp only [sound_upd, sound_updTil] | (intro _) | with_reducible apply soundOut_ite
    | with_reducible apply sound_ite | split

theorem State.loadEnd_sound {s : State} (h : s.Sound) (st err : Nat) : (State.loadEnd s st err).Sound := by
  simp only [State.loadEnd]
  repeat'
    first
    | with_reducible assumption | with_reducible apply State.raise_sound | with_reducible apply State.setReg_sound
    | with_reducible apply State.put_sound | with_reducible refine fst_sound (by assumption) ?_
    | simp only [sound_upd, sound_updTil] | (intro _) | with_reducible apply sound_ite | split

theorem execWarpLoadComplete_sound {s : State} (h : s.Sound) (img : Option (List Byte)) : soundOut
    (execWarpLoadComplete img s) := by
  simp only [execWarpLoadComplete]
  repeat'
    first
    | with_reducible assumption | with_reducible apply State.loadEnd_sound
    | with_reducible apply State.emptyShadow_sound | with_reducible apply State.put_sound
    | with_reducible refine fst_sound (by assumption) ?_ | rw [soundOut_next] | simp only [sound_upd, sound_updTil]
    | (intro _) | with_reducible apply soundOut_ite | with_reducible apply sound_ite | split

theorem execWarpArm_sound {s : State} (h : s.Sound) (r : Requester) : soundOut (execWarpArm r s) := by
  simp only [execWarpArm]
  repeat'
    first
    | with_reducible assumption | with_reducible apply State.markArmed_sound | with_reducible apply State.put_sound
    | with_reducible apply State.raise_sound | with_reducible refine fst_sound (by assumption) ?_
    | rw [soundOut_next] | simp only [sound_upd, sound_updTil] | (intro _) | with_reducible apply soundOut_ite
    | with_reducible apply sound_ite | split

theorem execWarpDisarm_sound {s : State} (h : s.Sound) (r : Requester) : soundOut (execWarpDisarm r s) := by
  simp only [execWarpDisarm]
  repeat'
    first
    | with_reducible assumption | with_reducible apply State.startSet_sound
    | with_reducible apply State.markArmed_sound | with_reducible apply State.put_sound
    | with_reducible refine fst_sound (by assumption) ?_ | rw [soundOut_next] | simp only [sound_upd, sound_updTil]
    | (intro _) | with_reducible apply soundOut_ite | with_reducible apply sound_ite | split

theorem execWarpClear_sound {s : State} (h : s.Sound) (r : Requester) : soundOut (execWarpClear r s) := by
  simp only [execWarpClear]
  repeat'
    first
    | with_reducible assumption | with_reducible apply State.emptyShadow_sound
    | with_reducible apply State.put_sound | with_reducible refine fst_sound (by assumption) ?_
    | rw [soundOut_next] | simp only [sound_upd, sound_updTil] | (intro _) | with_reducible apply soundOut_ite
    | with_reducible apply sound_ite | split

theorem execWarpArmEmpty_sound {s : State} (h : s.Sound) (r : Requester) : soundOut (execWarpArmEmpty r s) := by
  simp only [execWarpArmEmpty]
  repeat'
    first
    | with_reducible assumption | with_reducible apply State.raise_sound
    | with_reducible refine fst_sound (by assumption) ?_ | rw [soundOut_next] | simp only [sound_upd, sound_updTil]
    | (intro _) | with_reducible apply soundOut_ite | with_reducible apply sound_ite | split

theorem State.late_sound {s : State} (h : s.Sound) (slot kind inst who group : Nat) : (State.late s slot kind inst who
    group).Sound := by
  simp only [State.late]
  repeat'
    first
    | with_reducible assumption | with_reducible apply State.setReg_sound | with_reducible apply State.bump_sound
    | with_reducible apply State.put_sound | with_reducible apply State.raise_sound
    | with_reducible refine fst_sound (by assumption) ?_ | simp only [sound_upd, sound_updTil] | (intro _)
    | with_reducible apply sound_ite | split

theorem State.pkeyDrop_sound {s : State} (h : s.Sound) (p : Nat) : (State.pkeyDrop s p).Sound := by
  simp only [State.pkeyDrop]
  repeat'
    first
    | with_reducible assumption | with_reducible apply State.raise_sound | with_reducible apply State.bump_sound
    | with_reducible refine fst_sound (by assumption) ?_ | simp only [sound_upd, sound_updTil] | (intro _)
    | with_reducible apply sound_ite | split

theorem State.fetchCell_sound {s : State} (h : s.Sound) (g : Nat) (d : TxDesc) (k : Nat) (bad : Bool) :
    (State.fetchCell s g d k bad).1.Sound := by
  simp only [State.fetchCell]
  repeat'
    first
    | with_reducible assumption | with_reducible apply State.read_sound
    | with_reducible refine fst_sound (by assumption) ?_ | with_reducible apply sound_foldl
    | with_reducible apply sound_foldl_fst | simp only [sound_upd, sound_updTil] | (intro _)
    | with_reducible apply sound_ite | split

theorem execCellSample_sound {s : State} (h : s.Sound) (g slot k : Nat) (bad : Bool) : soundOut (execCellSample g slot
    k bad s) := by
  simp only [execCellSample]
  repeat'
    first
    | with_reducible assumption | with_reducible apply State.fetchCell_sound
    | with_reducible apply State.late_sound | with_reducible refine fst_sound (by assumption) ?_
    | rw [soundOut_next] | simp only [sound_upd, sound_updTil] | (intro _) | with_reducible apply soundOut_ite
    | with_reducible apply sound_ite | split

theorem State.traceCell_sound {s : State} (h : s.Sound) (kind l st : Nat) (c : List Byte) : (State.traceCell s kind l
    st c).Sound := by
  simp only [State.traceCell]
  repeat'
    first
    | with_reducible assumption | with_reducible apply State.trace_sound
    | with_reducible refine fst_sound (by assumption) ?_ | simp only [sound_upd, sound_updTil] | (intro _)
    | with_reducible apply sound_ite | split

theorem execScheduledCellSend_sound {s : State} (h : s.Sound) (g slot : Nat) : soundOut (execScheduledCellSend g slot
    s) := by
  simp only [execScheduledCellSend]
  repeat'
    first
    | with_reducible assumption | with_reducible apply State.pkeyDrop_sound
    | with_reducible apply State.traceCell_sound | with_reducible refine fst_sound (by assumption) ?_
    | with_reducible apply sound_foldl | with_reducible apply sound_foldl_fst | rw [soundOut_next]
    | simp only [sound_upd, sound_updTil] | (intro _) | with_reducible apply soundOut_ite
    | with_reducible apply sound_ite | split

theorem State.setRx_sound {s : State} (h : s.Sound) (r : RxStream) : (State.setRx s r).Sound := by
  simp only [State.setRx]
  repeat'
    first
    | with_reducible assumption | with_reducible refine fst_sound (by assumption) ?_
    | simp only [sound_upd, sound_updTil] | (intro _) | with_reducible apply sound_ite | split

theorem State.writeVa_sound {s : State} (h : s.Sound) (i a va : Nat) (bs : List Byte) : (State.writeVa s i a va
    bs).Sound := by
  simp only [State.writeVa]
  repeat'
    first
    | with_reducible assumption | with_reducible apply State.write_sound
    | with_reducible refine fst_sound (by assumption) ?_ | with_reducible apply sound_foldl
    | with_reducible apply sound_foldl_fst | simp only [sound_upd, sound_updTil] | (intro _)
    | with_reducible apply sound_ite | split

theorem State.streamSignal_sound {s : State} (h : s.Sound) (d : RxDesc) (r : RxStream) : (State.streamSignal s d
    r).Sound := by
  simp only [State.streamSignal]
  repeat'
    first
    | with_reducible assumption | with_reducible apply State.cqForce_sound | with_reducible apply State.setRx_sound
    | with_reducible refine fst_sound (by assumption) ?_ | simp only [sound_upd, sound_updTil] | (intro _)
    | with_reducible apply sound_ite | split

theorem State.mismatch_sound {s : State} (h : s.Sound) : (State.mismatch s).Sound := by
  simp only [State.mismatch]
  repeat'
    first
    | with_reducible assumption | with_reducible apply State.bump_sound
    | with_reducible refine fst_sound (by assumption) ?_ | simp only [sound_upd, sound_updTil] | (intro _)
    | with_reducible apply sound_ite | split

theorem State.cellLost_sound {s : State} (h : s.Sound) (l : Nat) (c : List Byte) : (State.cellLost s l c).Sound := by
  simp only [State.cellLost]
  repeat'
    first
    | with_reducible assumption | with_reducible apply State.traceCell_sound
    | with_reducible apply State.mismatch_sound | with_reducible refine fst_sound (by assumption) ?_
    | simp only [sound_upd, sound_updTil] | (intro _) | with_reducible apply sound_ite | split

theorem State.takeCell_sound {s : State} (h : s.Sound) (g pick slot k : Nat) (sec : GroupSec) (w : WarpSet) (c : List
    Byte) : (State.takeCell s g pick slot k sec w c).Sound := by
  simp only [State.takeCell]
  repeat'
    first
    | with_reducible assumption | with_reducible apply State.pkeyDrop_sound
    | with_reducible apply State.cellLost_sound | with_reducible apply State.setRx_sound
    | with_reducible apply State.writeVa_sound | with_reducible apply State.traceCell_sound
    | with_reducible apply State.streamSignal_sound | with_reducible refine fst_sound (by assumption) ?_
    | simp only [sound_upd, sound_updTil] | (intro _) | with_reducible apply sound_ite | split

theorem State.strayCell_sound {s : State} (h : s.Sound) (l : Nat) (c : List Byte) : (State.strayCell s l c).Sound :=
    by
  simp only [State.strayCell]
  repeat'
    first
    | with_reducible assumption | with_reducible apply State.pkeyDrop_sound
    | with_reducible apply State.cellLost_sound | with_reducible refine fst_sound (by assumption) ?_
    | simp only [sound_upd, sound_updTil] | (intro _) | with_reducible apply sound_ite | split

theorem execCellReceive_sound {s : State} (h : s.Sound) (g pick slot : Nat) (cells : List (Option (List Byte))) :
    soundOut (execCellReceive g pick slot cells s) := by
  simp only [execCellReceive]
  repeat'
    first
    | with_reducible assumption | with_reducible apply State.takeCell_sound
    | with_reducible apply State.strayCell_sound | with_reducible refine fst_sound (by assumption) ?_
    | with_reducible apply sound_foldl | with_reducible apply sound_foldl_fst | rw [soundOut_next]
    | simp only [sound_upd, sound_updTil] | (intro _) | with_reducible apply soundOut_ite
    | with_reducible apply sound_ite | split

theorem execStreamDeadline_sound {s : State} (h : s.Sound) (g desc pick : Nat) : soundOut (execStreamDeadline g desc
    pick s) := by
  simp only [execStreamDeadline]
  repeat'
    first
    | with_reducible assumption | with_reducible apply State.raise_sound | with_reducible apply State.bump_sound
    | with_reducible apply State.streamSignal_sound | with_reducible refine fst_sound (by assumption) ?_
    | rw [soundOut_next] | simp only [sound_upd, sound_updTil] | (intro _) | with_reducible apply soundOut_ite
    | with_reducible apply sound_ite | split

end Sys2Proof.Machine
end

