-- ==== Sys2Proof/Laws/SoundPage.lean ====
section
/-! SUPPORT. The operations of Page.lean keep a state well kept. -/
namespace Sys2Proof.Machine
set_option linter.unusedTactic false
set_option linter.unreachableTactic false
set_option linter.unusedSimpArgs false
open Sys2Proof

theorem State.setModel_sound {s : State} (h : s.Sound) (i : Nat) (m : Model) : (State.setModel s i m).Sound := by
  simp only [State.setModel]
  repeat'
    first
    | with_reducible assumption | with_reducible apply State.put_sound
    | with_reducible refine fst_sound (by assumption) ?_ | simp only [sound_upd, sound_updTil] | (intro _)
    | with_reducible apply sound_ite | split

theorem State.pageEnd_sound {s : State} (h : s.Sound) (i slot st : Nat) : (State.pageEnd s i slot st).Sound := by
  simp only [State.pageEnd]
  repeat'
    first
    | with_reducible assumption | with_reducible apply State.put_sound | with_reducible apply State.complete_sound
    | with_reducible refine fst_sound (by assumption) ?_ | simp only [sound_upd, sound_updTil] | (intro _)
    | with_reducible apply sound_ite | split

theorem State.freeBytes_sound {s : State} (h : s.Sound) (n : Nat) : (State.freeBytes s n).1.Sound := by
  simp only [State.freeBytes]
  repeat'
    first
    | with_reducible assumption | with_reducible refine fst_sound (by assumption) ?_
    | simp only [sound_upd, sound_updTil] | (intro _) | with_reducible apply sound_ite | split

theorem State.mapPages_sound {s : State} (h : s.Sound) (i a va pa n : Nat) {t : State} (e : State.mapPages s i a va pa n =
    some t) : t.Sound := by
  have hn : ∀ (l : List Nat) (g : Option State → Nat → Option State), (∀ v, g none v = none) →
      (∀ s v t, s.Sound → g (some s) v = some t → t.Sound) →
      ∀ o : Option State, (∀ s, o = some s → s.Sound) → ∀ t, l.foldl g o = some t → t.Sound := by
    intro l g h0 h1
    induction l with
    | nil => exact fun o ho t e => ho t e
    | cons v l ih =>
      intro o ho t e
      refine ih _ (fun s hs => ?_) t e
      cases o with
      | none => rw [h0] at hs; cases hs
      | some x => exact h1 x v s (ho x rfl) hs
  refine hn _ _ (fun v => rfl) (fun s v t hs e => ?_) (some s) (fun x hx => by cases hx; exact h) t e
  simp only [Option.bind_some, Option.map_eq_some_iff] at e
  obtain ⟨p, hp, rfl⟩ := e
  exact State.setEntry_sound (State.buildTo_sound hs _ _ _ _ _ hp) _ _

theorem State.unmapPages_sound {s : State} (h : s.Sound) (i a va n : Nat) : (State.unmapPages s i a va n).Sound := by
  simp only [State.unmapPages]
  repeat'
    first
    | with_reducible assumption | with_reducible apply State.setEntry_sound
    | with_reducible refine fst_sound (by assumption) ?_ | with_reducible apply sound_foldl
    | with_reducible apply sound_foldl_fst | simp only [sound_upd, sound_updTil] | (intro _)
    | with_reducible apply sound_ite | split

theorem State.pageCmd_sound {s : State} (h : s.Sound) (i slot op st : Nat) (named : List (Nat × Nat)) (f : Entry →
    State) (hf : ∀ a0, (f a0).Sound) : soundOut (State.pageCmd s i slot op st named f) := by
  simp only [State.pageCmd]
  repeat'
    first
    | with_reducible assumption | with_reducible apply State.pageEnd_sound | with_reducible apply hf
    | with_reducible refine fst_sound (by assumption) ?_ | rw [soundOut_next] | simp only [sound_upd, sound_updTil]
    | (intro _) | with_reducible apply soundOut_ite | with_reducible apply sound_ite | split

theorem State.loadDone_sound {s : State} (h : s.Sound) (i slot st : Nat) : (State.loadDone s i slot st).Sound := by
  simp only [State.loadDone]
  repeat'
    first
    | with_reducible assumption | with_reducible apply State.raiseIf_sound | with_reducible apply State.raise_sound
    | with_reducible apply State.pageEnd_sound | with_reducible refine fst_sound (by assumption) ?_
    | simp only [sound_upd, sound_updTil] | (intro _) | with_reducible apply sound_ite | split

theorem execModelLoad_sound {s : State} (h : s.Sound) (i slot : Nat) (man : Option (List Byte)) : soundOut
    (execModelLoad i slot man s) := by
  simp only [execModelLoad]
  repeat'
    first
    | with_reducible assumption | with_reducible apply State.pageCmd_sound
    | with_reducible apply State.loadDone_sound | with_reducible apply State.raiseIf_sound
    | with_reducible apply State.put_sound | with_reducible apply State.tick_sound
    | with_reducible apply State.hostPut_sound
    | with_reducible refine State.mapPages_sound (e := by assumption) ?_ ..
    | with_reducible apply State.setModel_sound | with_reducible refine fst_sound (by assumption) ?_
    | rw [soundOut_next] | simp only [sound_upd, sound_updTil] | (intro _) | with_reducible apply soundOut_ite
    | with_reducible apply sound_ite | split
  rename_i hb
  obtain ⟨x, hx, hy⟩ := Option.bind_eq_some_iff.1 hb
  refine State.mapPages_sound (State.mapPages_sound ?_ _ _ _ _ _ hx) _ _ _ _ _ hy
  exact State.raiseIf_sound (State.put_sound (State.tick_sound h) _ _) _ _

theorem State.noModel_sound {s : State} (h : s.Sound) (i : Nat) : (State.noModel s i).Sound := by
  simp only [State.noModel]
  repeat'
    first
    | with_reducible assumption | with_reducible apply State.put_sound | with_reducible apply State.setReg_sound
    | with_reducible refine fst_sound (by assumption) ?_ | simp only [sound_upd, sound_updTil] | (intro _)
    | with_reducible apply sound_ite | split

theorem State.dropModel_sound {s : State} (h : s.Sound) (i : Nat) : (State.dropModel s i).Sound := by
  simp only [State.dropModel]
  repeat'
    first
    | with_reducible assumption | with_reducible apply State.noModel_sound
    | with_reducible apply State.unmapPages_sound | with_reducible refine fst_sound (by assumption) ?_
    | simp only [sound_upd, sound_updTil] | (intro _) | with_reducible apply sound_ite | split

theorem State.abortLoad_sound {s : State} (h : s.Sound) (i st : Nat) : (State.abortLoad s i st).Sound := by
  simp only [State.abortLoad]
  repeat'
    first
    | with_reducible assumption | with_reducible apply State.loadDone_sound
    | with_reducible apply State.dropModel_sound | with_reducible refine fst_sound (by assumption) ?_
    | simp only [sound_upd, sound_updTil] | (intro _) | with_reducible apply sound_ite | split

theorem State.readVa_sound {s : State} (h : s.Sound) (i a va n : Nat) : (State.readVa s i a va n).1.Sound := by
  simp only [State.readVa]
  repeat'
    first
    | with_reducible assumption | with_reducible apply State.read_sound
    | with_reducible refine fst_sound (by assumption) ?_ | with_reducible apply sound_foldl
    | with_reducible apply sound_foldl_fst | simp only [sound_upd, sound_updTil] | (intro _)
    | with_reducible apply sound_ite | split

theorem State.putTensor_sound {s : State} (h : s.Sound) (t : Tensor) (bs : List Byte) : (State.putTensor s t bs).Sound
    := by
  simp only [State.putTensor]
  repeat'
    first
    | with_reducible assumption | with_reducible apply State.write_sound
    | with_reducible refine fst_sound (by assumption) ?_ | simp only [sound_upd, sound_updTil] | (intro _)
    | with_reducible apply sound_ite | split

theorem State.setHdr_sound {s : State} (h : s.Sound) (m : Model) (x2 : Nat) (x3 : Hdr) : (State.setHdr s m x2
    x3).Sound := by
  simp only [State.setHdr]
  repeat'
    first
    | with_reducible assumption | with_reducible apply State.write_sound
    | with_reducible refine fst_sound (by assumption) ?_ | simp only [sound_upd, sound_updTil] | (intro _)
    | with_reducible apply sound_ite | split

theorem State.setBounds_sound {s : State} (h : s.Sound) (m : Model) (x2 : Nat) (b : List Nat × List Nat) :
    (State.setBounds s m x2 b).Sound := by
  simp only [State.setBounds]
  repeat'
    first
    | with_reducible assumption | with_reducible apply State.write_sound
    | with_reducible refine fst_sound (by assumption) ?_ | simp only [sound_upd, sound_updTil] | (intro _)
    | with_reducible apply sound_ite | split

theorem State.takeNear_sound {s : State} (h : s.Sound) (m : Model) {p : State × Model × Nat} (e : State.takeNear s m =
    some p) : p.1.Sound := by
  simp only [State.takeNear] at e
  split at e
  · cases e
    exact State.raiseIf_sound h _ _
  · cases e

theorem State.openPage_sound {s : State} (h : s.Sound) (m : Model) (q l x4 n k : Nat) : (State.openPage s m q l x4 n
    k).1.Sound := by
  simp only [State.openPage]
  repeat'
    first
    | with_reducible assumption | with_reducible apply State.setHdr_sound
    | with_reducible apply State.setBounds_sound | with_reducible refine fst_sound (by assumption) ?_
    | simp only [sound_upd, sound_updTil] | (intro _) | with_reducible apply sound_ite | split

theorem State.openReserve_sound {s : State} (h : s.Sound) (m : Model) (q l x4 n : Nat) : (State.openReserve s m q l x4
    n).1.Sound := by
  simp only [State.openReserve]
  repeat'
    first
    | with_reducible assumption | with_reducible apply State.openPage_sound
    | with_reducible refine fst_sound (by assumption) ?_ | simp only [sound_upd, sound_updTil] | (intro _)
    | with_reducible apply sound_ite | split

theorem State.refill_sound {s : State} (h : s.Sound) (m : Model) (q l x4 : Nat) : (State.refill s m q l x4).1.Sound :=
    by
  simp only [State.refill]
  repeat'
    first
    | with_reducible assumption | with_reducible refine State.takeNear_sound (e := by assumption) ?_ ..
    | with_reducible apply State.openPage_sound | with_reducible refine fst_sound (by assumption) ?_
    | simp only [sound_upd, sound_updTil] | (intro _) | with_reducible apply sound_ite | split

theorem State.appendHead_sound {s : State} (h : s.Sound) (m : Model) (q l x4 : Nat) (key val : List Nat) :
    (State.appendHead s m q l x4 key val).1.Sound := by
  simp only [State.appendHead]
  repeat'
    first
    | with_reducible assumption | with_reducible apply State.write_sound
    | with_reducible apply State.setBounds_sound | with_reducible apply State.setHdr_sound
    | with_reducible apply State.openReserve_sound | with_reducible refine fst_sound (by assumption) ?_
    | simp only [sound_upd, sound_updTil] | (intro _) | with_reducible apply sound_ite | split

theorem State.appendToken_sound {s : State} (h : s.Sound) (m : Model) (q l : Nat) (kv : Nat → List Nat × List Nat) :
    (State.appendToken s m q l kv).1.Sound := by
  simp only [State.appendToken]
  repeat'
    first
    | with_reducible assumption | with_reducible apply State.appendHead_sound
    | with_reducible refine fst_sound (by assumption) ?_ | with_reducible apply sound_foldl
    | with_reducible apply sound_foldl_fst | simp only [sound_upd, sound_updTil] | (intro _)
    | with_reducible apply sound_ite | split

theorem State.markPoison_sound {s : State} (h : s.Sound) (m : Model) (x2 : Nat) : (State.markPoison s m x2).Sound :=
    by
  simp only [State.markPoison]
  repeat'
    first
    | with_reducible assumption | with_reducible apply State.bump_sound | with_reducible apply State.raise_sound
    | with_reducible apply State.setHdr_sound | with_reducible refine fst_sound (by assumption) ?_
    | simp only [sound_upd, sound_updTil] | (intro _) | with_reducible apply sound_ite | split

theorem State.startMove_sound {s : State} (h : s.Sound) (m : Model) (p : PageRef) (up : Bool) (new : Nat) :
    (State.startMove s m p up new).1.Sound := by
  simp only [State.startMove]
  repeat'
    first
    | with_reducible assumption | with_reducible apply State.read_sound
    | with_reducible apply State.markPoison_sound | with_reducible apply State.write_sound
    | with_reducible apply State.setBounds_sound | with_reducible apply State.setHdr_sound
    | with_reducible refine fst_sound (by assumption) ?_ | simp only [sound_upd, sound_updTil] | (intro _)
    | with_reducible apply sound_ite | split

theorem State.switchMove_sound {s : State} (h : s.Sound) (m : Model) (v : Move) : (State.switchMove s m v).1.Sound :=
    by
  simp only [State.switchMove]
  repeat'
    first
    | with_reducible assumption | with_reducible apply State.setHdr_sound
    | with_reducible refine fst_sound (by assumption) ?_ | simp only [sound_upd, sound_updTil] | (intro _)
    | with_reducible apply sound_ite | split

theorem State.endMove_sound {s : State} (h : s.Sound) (m : Model) (v : Move) : (State.endMove s m v).1.Sound := by
  simp only [State.endMove]
  repeat'
    first
    | with_reducible assumption | with_reducible apply State.setHdr_sound
    | with_reducible apply State.setBounds_sound | with_reducible apply State.bump_sound
    | with_reducible refine fst_sound (by assumption) ?_ | simp only [sound_upd, sound_updTil] | (intro _)
    | with_reducible apply sound_ite | split

theorem execModelLoadComplete_sound {s : State} (h : s.Sound) (i slot : Nat) (data : Option (List (List Byte))) :
    soundOut (execModelLoadComplete i slot data s) := by
  simp only [execModelLoadComplete]
  repeat'
    first
    | with_reducible assumption | with_reducible apply State.abortLoad_sound
    | with_reducible apply State.readVa_sound | with_reducible apply State.putTensor_sound
    | with_reducible apply State.setBounds_sound | with_reducible apply State.setHdr_sound
    | with_reducible apply State.loadDone_sound | with_reducible apply State.put_sound
    | with_reducible refine fst_sound (by assumption) ?_ | with_reducible apply sound_foldl
    | with_reducible apply sound_foldl_fst | rw [soundOut_next] | simp only [sound_upd, sound_updTil] | (intro _)
    | with_reducible apply soundOut_ite | with_reducible apply sound_ite | split

theorem execModelUnload_sound {s : State} (h : s.Sound) (i slot : Nat) : soundOut (execModelUnload i slot s) := by
  simp only [execModelUnload]
  repeat'
    first
    | with_reducible assumption | with_reducible apply State.pageCmd_sound
    | with_reducible apply State.pageEnd_sound | with_reducible apply State.dropModel_sound
    | with_reducible refine fst_sound (by assumption) ?_ | rw [soundOut_next] | simp only [sound_upd, sound_updTil]
    | (intro _) | with_reducible apply soundOut_ite | with_reducible apply sound_ite | split

theorem execSeqOpen_sound {s : State} (h : s.Sound) (i slot : Nat) : soundOut (execSeqOpen i slot s) := by
  simp only [execSeqOpen]
  repeat'
    first
    | with_reducible assumption | with_reducible apply State.pageCmd_sound
    | with_reducible apply State.pageEnd_sound | with_reducible apply State.refill_sound
    | with_reducible apply State.setModel_sound | with_reducible refine fst_sound (by assumption) ?_
    | with_reducible apply sound_foldl | with_reducible apply sound_foldl_fst | rw [soundOut_next]
    | simp only [sound_upd, sound_updTil] | (intro _) | with_reducible apply soundOut_ite
    | with_reducible apply sound_ite | split

theorem execSeqClose_sound {s : State} (h : s.Sound) (i slot : Nat) : soundOut (execSeqClose i slot s) := by
  simp only [execSeqClose]
  repeat'
    first
    | with_reducible assumption | with_reducible apply State.pageCmd_sound
    | with_reducible apply State.pageEnd_sound | with_reducible apply State.setModel_sound
    | with_reducible refine fst_sound (by assumption) ?_ | rw [soundOut_next] | simp only [sound_upd, sound_updTil]
    | (intro _) | with_reducible apply soundOut_ite | with_reducible apply sound_ite | split

theorem State.closeSeq_sound {s : State} (h : s.Sound) (m : Model) (q : Nat) : (State.closeSeq s m q).1.Sound := by
  simp only [State.closeSeq]
  repeat'
    first
    | with_reducible assumption | with_reducible apply State.setBounds_sound
    | with_reducible apply State.setHdr_sound | with_reducible refine fst_sound (by assumption) ?_
    | with_reducible apply sound_foldl | with_reducible apply sound_foldl_fst | simp only [sound_upd, sound_updTil]
    | (intro _) | with_reducible apply sound_ite | split

theorem State.gatherPage_sound {a : State × List Byte × List Byte × Bool} (h : a.1.Sound) (m : Model) (c : Pick3) :
    (State.gatherPage m a c).1.Sound := by
  simp only [State.gatherPage]
  repeat'
    first
    | with_reducible assumption | with_reducible apply State.read_sound
    | with_reducible apply State.freeBytes_sound | with_reducible apply State.markPoison_sound
    | with_reducible refine fst_sound (by assumption) ?_ | simp only [sound_upd, sound_updTil] | (intro _)
    | with_reducible apply sound_ite | split

theorem State.heat_sound {s : State} (h : s.Sound) (m : Model) (p : PageRef) : (State.heat s m p).1.Sound := by
  simp only [State.heat]
  repeat'
    first
    | with_reducible assumption | with_reducible apply State.setHdr_sound
    | with_reducible refine fst_sound (by assumption) ?_ | simp only [sound_upd, sound_updTil] | (intro _)
    | with_reducible apply sound_ite | split

theorem State.tracePage_sound {s : State} (h : s.Sound) (i kind : Nat) (hd : List Byte) : (State.tracePage s i kind
    hd).Sound := by
  simp only [State.tracePage]
  repeat'
    first
    | with_reducible assumption | with_reducible apply State.traceBy_sound
    | with_reducible refine fst_sound (by assumption) ?_ | simp only [sound_upd, sound_updTil] | (intro _)
    | with_reducible apply sound_ite | split

theorem State.sendGather_sound {s : State} (h : s.Sound) (i : Nat) (m : Model) (g : Nat) (d : TxDesc) (bs : List Byte)
    : (State.sendGather s i m g d bs).Sound := by
  simp only [State.sendGather]
  repeat'
    first
    | with_reducible assumption | with_reducible apply State.freeBytes_sound
    | with_reducible apply State.tracePage_sound | with_reducible apply State.setReady_sound
    | with_reducible apply State.writeVa_sound | with_reducible refine fst_sound (by assumption) ?_
    | simp only [sound_upd, sound_updTil] | (intro _) | with_reducible apply sound_ite | split

theorem State.serve_sound {s : State} (h : s.Sound) (i : Nat) (m : Model) (g : Nat) (d : TxDesc) (r : Query) (sel :
    Bool) (flags : Nat) : (State.serve s i m g d r sel flags).1.Sound := by
  simp only [State.serve]
  repeat'
    first
    | with_reducible assumption | with_reducible apply State.gatherPage_sound
    | with_reducible apply State.sendGather_sound | with_reducible apply State.raise_sound
    | with_reducible apply State.bump_sound | with_reducible apply State.heat_sound
    | with_reducible refine fst_sound (by assumption) ?_ | with_reducible apply sound_foldl
    | with_reducible apply sound_foldl_fst | simp only [sound_upd, sound_updTil] | (intro _)
    | with_reducible apply sound_ite | split

theorem State.pageStep_sound {s : State} (h : s.Sound) (i : Nat) (m : Model) (g : Nat) (d : TxDesc) (hole : Bool) (b :
    Option (List Byte)) : (State.pageStep s i m g d hole b).1.Sound := by
  simp only [State.pageStep]
  repeat'
    first
    | with_reducible assumption | with_reducible apply State.sendGather_sound
    | with_reducible apply State.raise_sound | with_reducible apply State.bump_sound
    | with_reducible apply State.serve_sound | with_reducible apply State.appendToken_sound
    | with_reducible apply State.tracePage_sound | with_reducible refine fst_sound (by assumption) ?_
    | simp only [sound_upd, sound_updTil] | (intro _) | with_reducible apply sound_ite | split

theorem execPageStep_sound {s : State} (h : s.Sound) (i q g desc : Nat) : soundOut (execPageStep i q g desc s) := by
  simp only [execPageStep]
  repeat'
    first
    | with_reducible assumption | with_reducible apply State.cqTake_sound | with_reducible apply State.readVa_sound
    | with_reducible apply State.pageStep_sound | with_reducible apply State.tracePage_sound
    | with_reducible apply State.setModel_sound | with_reducible refine fst_sound (by assumption) ?_
    | rw [soundOut_next] | simp only [sound_upd, sound_updTil] | (intro _) | with_reducible apply soundOut_ite
    | with_reducible apply sound_ite | split

theorem execPageReserveRefill_sound {s : State} (h : s.Sound) (i q l x3 : Nat) : soundOut (execPageReserveRefill i q l
    x3 s) := by
  simp only [execPageReserveRefill]
  repeat'
    first
    | with_reducible assumption | with_reducible apply State.refill_sound
    | with_reducible apply State.setModel_sound | with_reducible refine fst_sound (by assumption) ?_
    | rw [soundOut_next] | simp only [sound_upd, sound_updTil] | (intro _) | with_reducible apply soundOut_ite
    | with_reducible apply sound_ite | split

theorem execPageDemotion_sound {s : State} (h : s.Sound) (i : Nat) : soundOut (execPageDemotion i s) := by
  simp only [execPageDemotion]
  repeat'
    first
    | with_reducible assumption | with_reducible apply State.startMove_sound
    | with_reducible apply State.setModel_sound | with_reducible refine fst_sound (by assumption) ?_
    | rw [soundOut_next] | simp only [sound_upd, sound_updTil] | (intro _) | with_reducible apply soundOut_ite
    | with_reducible apply sound_ite | split

theorem execPagePromotion_sound {s : State} (h : s.Sound) (i q l x3 n : Nat) : soundOut (execPagePromotion i q l x3 n
    s) := by
  simp only [execPagePromotion]
  repeat'
    first
    | with_reducible assumption | with_reducible apply State.setModel_sound
    | with_reducible apply State.startMove_sound | with_reducible refine fst_sound (by assumption) ?_
    | rw [soundOut_next] | simp only [sound_upd, sound_updTil] | (intro _) | with_reducible apply soundOut_ite
    | with_reducible apply sound_ite | split

theorem execPageMoveSwitch_sound {s : State} (h : s.Sound) (i q l x3 n : Nat) : soundOut (execPageMoveSwitch i q l x3
    n s) := by
  simp only [execPageMoveSwitch]
  repeat'
    first
    | with_reducible assumption | with_reducible apply State.switchMove_sound
    | with_reducible apply State.setModel_sound | with_reducible refine fst_sound (by assumption) ?_
    | rw [soundOut_next] | simp only [sound_upd, sound_updTil] | (intro _) | with_reducible apply soundOut_ite
    | with_reducible apply sound_ite | split

theorem execStreamStart_sound {s : State} (h : s.Sound) (i slot : Nat) : soundOut (execStreamStart i slot s) := by
  simp only [execStreamStart]
  repeat'
    first
    | with_reducible assumption | with_reducible apply State.pageCmd_sound
    | with_reducible apply State.pageEnd_sound | with_reducible apply State.logPoison_sound
    | with_reducible apply State.setModel_sound | with_reducible refine fst_sound (by assumption) ?_
    | rw [soundOut_next] | simp only [sound_upd, sound_updTil] | (intro _) | with_reducible apply soundOut_ite
    | with_reducible apply sound_ite | split

theorem execStreamStop_sound {s : State} (h : s.Sound) (i slot : Nat) : soundOut (execStreamStop i slot s) := by
  simp only [execStreamStop]
  repeat'
    first
    | with_reducible assumption | with_reducible apply State.pageCmd_sound
    | with_reducible apply State.pageEnd_sound | with_reducible apply State.setModel_sound
    | with_reducible refine fst_sound (by assumption) ?_ | rw [soundOut_next] | simp only [sound_upd, sound_updTil]
    | (intro _) | with_reducible apply soundOut_ite | with_reducible apply sound_ite | split

theorem State.tensorBytes_sound {s : State} (h : s.Sound) (t : Tensor) (off n : Nat) : (State.tensorBytes s t off
    n).1.Sound := by
  simp only [State.tensorBytes]
  repeat'
    first
    | with_reducible assumption | with_reducible apply State.read_sound
    | with_reducible refine fst_sound (by assumption) ?_ | simp only [sound_upd, sound_updTil] | (intro _)
    | with_reducible apply sound_ite | split

theorem State.streamWake_sound {s : State} (h : s.Sound) (i : Nat) (m : Model) (stopped : Bool) : (State.streamWake s
    i m stopped).1.Sound := by
  simp only [State.streamWake]
  repeat'
    first
    | with_reducible assumption | with_reducible apply State.setReady_sound
    | with_reducible apply State.tensorBytes_sound | with_reducible apply State.writeVa_sound
    | with_reducible refine fst_sound (by assumption) ?_ | with_reducible apply sound_foldl
    | with_reducible apply sound_foldl_fst | simp only [sound_upd, sound_updTil] | (intro _)
    | with_reducible apply sound_ite | split

theorem execReshardRun_sound {s : State} (h : s.Sound) (i slot : Nat) (plan : List ReshardEntry) : soundOut
    (execReshardRun i slot plan s) := by
  simp only [execReshardRun]
  repeat'
    first
    | with_reducible assumption | with_reducible apply State.pageCmd_sound
    | with_reducible apply State.pageEnd_sound | with_reducible apply State.setModel_sound
    | with_reducible refine fst_sound (by assumption) ?_ | rw [soundOut_next] | simp only [sound_upd, sound_updTil]
    | (intro _) | with_reducible apply soundOut_ite | with_reducible apply sound_ite | split

theorem State.demoteNow_sound {s : State} (h : s.Sound) (m : Model) (p : PageRef) : (State.demoteNow s m p).1.Sound :=
    by
  simp only [State.demoteNow]
  repeat'
    first
    | with_reducible assumption | with_reducible apply State.startMove_sound
    | with_reducible apply State.switchMove_sound | with_reducible apply State.endMove_sound
    | with_reducible refine fst_sound (by assumption) ?_ | simp only [sound_upd, sound_updTil] | (intro _)
    | with_reducible apply sound_ite | split

theorem State.importToken_sound {a : State × Model} (h : a.1.Sound) (m0 : Model) (q l : Nat) (seq : Seq) (kv : Nat →
    List Nat × List Nat) : (State.importToken m0 q l seq a kv).1.Sound := by
  simp only [State.importToken]
  repeat'
    first
    | with_reducible assumption | with_reducible apply State.appendToken_sound
    | with_reducible apply State.refill_sound | with_reducible apply State.demoteNow_sound
    | with_reducible refine fst_sound (by assumption) ?_ | with_reducible apply sound_foldl
    | with_reducible apply sound_foldl_fst | simp only [sound_upd, sound_updTil] | (intro _)
    | with_reducible apply sound_ite | split

theorem State.runCache_sound {s : State} (h : s.Sound) (i : Nat) (m : Model) (q l src : Nat) (fp8 : Bool) (first count
    : Nat) : (State.runCache s i m q l src fp8 first count).1.Sound := by
  simp only [State.runCache]
  repeat'
    first
    | with_reducible assumption | with_reducible apply State.readVa_sound
    | with_reducible apply State.importToken_sound | with_reducible refine fst_sound (by assumption) ?_
    | with_reducible apply sound_foldl | with_reducible apply sound_foldl_fst | simp only [sound_upd, sound_updTil]
    | (intro _) | with_reducible apply sound_ite | split

theorem State.runChunks_sound (t h f : Nat) {s : State} (hs : s.Sound) : (State.runChunks t h f s).Sound := by
  induction f generalizing s with
  | zero => exact hs
  | succ f ih =>
    simp only [State.runChunks]
    repeat'
      first
      | with_reducible assumption | with_reducible apply ih | with_reducible apply State.endEarly_sound
      | with_reducible apply State.endChunk_sound | with_reducible apply State.judge_sound
      | with_reducible apply State.moveChunk_sound
      | with_reducible refine fst_sound (by assumption) ?_ | with_reducible apply sound_ite | split

theorem State.runTensor_sound {s : State} (h : s.Sound) (t : Nat) (desc : List Byte) : (State.runTensor s t
    desc).1.Sound := by
  simp only [State.runTensor]
  repeat'
    first
    | with_reducible assumption | with_reducible apply State.bump_sound | with_reducible apply State.setCtx_sound
    | with_reducible apply State.runChunks_sound | with_reducible apply State.setSkein_sound
    | with_reducible apply State.freeHandle_sound | with_reducible apply State.setReady_sound
    | simp only [tile_ok_mk, context_ok_mk, context_ok_new] | with_reducible apply Tile.s_ok
    | with_reducible apply Tile.w_ok | with_reducible apply State.tile_ok | with_reducible apply State.ctx_ok
    | with_reducible apply Tile.ctx_ok | with_reducible apply Tile.setCtx_ok | with_reducible apply Context.wr_ok
    | with_reducible apply Context.setVec_ok | with_reducible apply Context.setAcc_ok
    | with_reducible apply Context.next_ok | with_reducible exact True.intro | with_reducible apply And.intro
    | with_reducible refine fst_sound (by assumption) ?_
    | simp only [fate_retire, fate_jump, fate_trap, fate_trapAfter, fate_ecc, fate_wait]
    | simp only [sound_upd, sound_updTil] | (intro _) | with_reducible apply sound_ite | split

theorem State.reshardWake_sound {s : State} (h : s.Sound) (i t : Nat) (m : Model) (stopped : Bool) :
    (State.reshardWake s i t m stopped).1.Sound := by
  simp only [State.reshardWake]
  repeat'
    first
    | with_reducible assumption | with_reducible apply State.runTensor_sound
    | with_reducible apply State.runCache_sound | with_reducible refine fst_sound (by assumption) ?_
    | simp only [sound_upd, sound_updTil] | (intro _) | with_reducible apply sound_ite | split

theorem execReshardPlanComplete_sound {s : State} (h : s.Sound) (i : Nat) : soundOut (execReshardPlanComplete i s) :=
    by
  simp only [execReshardPlanComplete]
  repeat'
    first
    | with_reducible assumption | with_reducible apply State.raiseIf_sound | with_reducible apply State.raise_sound
    | with_reducible apply State.pageEnd_sound | with_reducible apply State.setModel_sound
    | with_reducible refine fst_sound (by assumption) ?_ | rw [soundOut_next] | simp only [sound_upd, sound_updTil]
    | (intro _) | with_reducible apply soundOut_ite | with_reducible apply sound_ite | split

theorem State.modelWall_sound {s : State} (h : s.Sound) (i : Nat) (m : Model) : (State.modelWall s i m).Sound := by
  simp only [State.modelWall]
  repeat'
    first
    | with_reducible assumption | with_reducible apply State.endMove_sound
    | with_reducible apply State.closeSeq_sound | with_reducible apply State.setModel_sound
    | with_reducible refine fst_sound (by assumption) ?_ | with_reducible apply sound_foldl
    | with_reducible apply sound_foldl_fst | simp only [sound_upd, sound_updTil] | (intro _)
    | with_reducible apply sound_ite | split

theorem State.pageWall_sound {s : State} (h : s.Sound) : (State.pageWall s).Sound := by
  simp only [State.pageWall]
  repeat'
    first
    | with_reducible assumption | with_reducible apply State.modelWall_sound
    | with_reducible refine fst_sound (by assumption) ?_ | with_reducible apply sound_foldl
    | with_reducible apply sound_foldl_fst | simp only [sound_upd, sound_updTil] | (intro _)
    | with_reducible apply sound_ite | split

end Sys2Proof.Machine
end

