-- ==== Sys2Proof/Laws/SoundNet.lean ====
section
/-! SUPPORT. The operations of Net.lean keep a state well kept. -/
namespace Sys2Proof.Machine
set_option linter.unusedTactic false
set_option linter.unreachableTactic false
set_option linter.unusedSimpArgs false
open Sys2Proof

theorem State.encrypt_sound {s : State} (h : s.Sound) (c : Nat) (p : TPkt) : (State.encrypt s c p).1.Sound := by
  simp only [State.encrypt]
  repeat'
    first
    | with_reducible assumption | with_reducible apply State.raiseIf_sound
    | with_reducible refine fst_sound (by assumption) ?_ | simp only [sound_upd, sound_updTil] | (intro _)
    | with_reducible apply sound_ite | split

theorem State.logRx_sound {s : State} (h : s.Sound) (qpn st : Nat) (p : TPkt) : (State.logRx s qpn st p).Sound := by
  simp only [State.logRx]
  repeat'
    first
    | with_reducible assumption | with_reducible apply State.setReg_sound
    | with_reducible refine fst_sound (by assumption) ?_ | simp only [sound_upd, sound_updTil] | (intro _)
    | with_reducible apply sound_ite | split

theorem State.encCheck_sound {s : State} (h : s.Sound) (qpn c : Nat) (p : TPkt) : (State.encCheck s qpn c p).1.Sound
    := by
  simp only [State.encCheck]
  repeat'
    first
    | with_reducible assumption | with_reducible apply State.logRx_sound | with_reducible apply State.raise_sound
    | with_reducible apply State.bump_sound | with_reducible refine fst_sound (by assumption) ?_
    | simp only [sound_upd, sound_updTil] | (intro _) | with_reducible apply sound_ite | split

theorem State.tracePkt_sound {s : State} (h : s.Sound) (kind p path : Nat) (t : TPkt) : (State.tracePkt s kind p path
    t).Sound := by
  simp only [State.tracePkt]
  repeat'
    first
    | with_reducible assumption | with_reducible apply State.trace_sound
    | with_reducible refine fst_sound (by assumption) ?_ | simp only [sound_upd, sound_updTil] | (intro _)
    | with_reducible apply sound_ite | split

theorem State.stat_sound {s : State} (h : s.Sound) (p k n : Nat) : (State.stat s p k n).Sound := by
  simp only [State.stat]
  repeat'
    first
    | with_reducible assumption | with_reducible apply State.bump_sound
    | with_reducible refine fst_sound (by assumption) ?_ | simp only [sound_upd, sound_updTil] | (intro _)
    | with_reducible apply sound_ite | split

theorem State.total_sound {s : State} (h : s.Sound) (p k n : Nat) : (State.total s p k n).Sound := by
  simp only [State.total]
  repeat'
    first
    | with_reducible assumption | with_reducible refine fst_sound (by assumption) ?_
    | simp only [sound_upd, sound_updTil] | (intro _) | with_reducible apply sound_ite | split

theorem State.countTx_sound {s : State} (h : s.Sound) (p n : Nat) (mcast : Bool) : (State.countTx s p n mcast).Sound
    := by
  simp only [State.countTx]
  repeat'
    first
    | with_reducible assumption | with_reducible apply State.total_sound | with_reducible apply State.stat_sound
    | with_reducible refine fst_sound (by assumption) ?_ | simp only [sound_upd, sound_updTil] | (intro _)
    | with_reducible apply sound_ite | split

theorem State.countRx_sound {s : State} (h : s.Sound) (p n : Nat) (mcast : Bool) : (State.countRx s p n mcast).Sound
    := by
  simp only [State.countRx]
  repeat'
    first
    | with_reducible assumption | with_reducible apply State.total_sound | with_reducible apply State.stat_sound
    | with_reducible refine fst_sound (by assumption) ?_ | simp only [sound_upd, sound_updTil] | (intro _)
    | with_reducible apply sound_ite | split

theorem State.setSent_sound {s : State} (h : s.Sound) (p : Nat) (f : SentFrame) : (State.setSent s p f).Sound := by
  simp only [State.setSent]
  repeat'
    first
    | with_reducible assumption | with_reducible refine fst_sound (by assumption) ?_
    | simp only [sound_upd, sound_updTil] | (intro _) | with_reducible apply sound_ite | split

theorem State.setFifo_sound {s : State} (h : s.Sound) (p : Nat) (l : List OutPkt) : (State.setFifo s p l).Sound := by
  simp only [State.setFifo]
  repeat'
    first
    | with_reducible assumption | with_reducible refine fst_sound (by assumption) ?_
    | simp only [sound_upd, sound_updTil] | (intro _) | with_reducible apply sound_ite | split

theorem State.enqueue_sound {s : State} (h : s.Sound) (p : Nat) (k : OutPkt) : (State.enqueue s p k).Sound := by
  simp only [State.enqueue]
  repeat'
    first
    | with_reducible assumption | with_reducible apply State.setFifo_sound
    | with_reducible refine fst_sound (by assumption) ?_ | simp only [sound_upd, sound_updTil] | (intro _)
    | with_reducible apply sound_ite | split

theorem State.wfqSent_sound {s : State} (h : s.Sound) (p vc inst : Nat) (l : List OutPkt) : (State.wfqSent s p vc inst
    l).Sound := by
  simp only [State.wfqSent]
  repeat'
    first
    | with_reducible assumption | with_reducible refine fst_sound (by assumption) ?_
    | simp only [sound_upd, sound_updTil] | (intro _) | with_reducible apply sound_ite | split

theorem State.showSrb_sound {s : State} (h : s.Sound) : (State.showSrb s).Sound := by
  simp only [State.showSrb]
  repeat'
    first
    | with_reducible assumption | with_reducible apply State.put_sound
    | with_reducible refine fst_sound (by assumption) ?_ | simp only [sound_upd, sound_updTil] | (intro _)
    | with_reducible apply sound_ite | split

theorem State.lpiExit_sound {s : State} (h : s.Sound) (p : Nat) : (State.lpiExit s p).Sound := by
  simp only [State.lpiExit]
  repeat'
    first
    | with_reducible assumption | with_reducible apply State.stat_sound | with_reducible apply State.put_sound
    | with_reducible refine fst_sound (by assumption) ?_ | simp only [sound_upd, sound_updTil] | (intro _)
    | with_reducible apply sound_ite | split

theorem State.sendXoff_sound {s : State} (h : s.Sound) (p mode mask t : Nat) : (State.sendXoff s p mode mask t).Sound
    := by
  simp only [State.sendXoff]
  repeat'
    first
    | with_reducible assumption
    | with_reducible apply State.lpiExit_sound
    | with_reducible apply State.raiseIf_sound | with_reducible apply State.stat_sound
    | with_reducible apply State.countTx_sound | with_reducible apply State.setSent_sound
    | with_reducible refine fst_sound (by assumption) ?_ | simp only [sound_upd, sound_updTil] | (intro _)
    | with_reducible apply sound_ite | split

theorem State.flowControl_sound {s : State} (h : s.Sound) (p : Nat) : (State.flowControl s p).Sound := by
  simp only [State.flowControl]
  repeat'
    first
    | with_reducible assumption | with_reducible apply State.put_sound | with_reducible apply State.sendXoff_sound
    | with_reducible refine fst_sound (by assumption) ?_ | simp only [sound_upd, sound_updTil] | (intro _)
    | with_reducible apply sound_ite | split

theorem State.cageFlow_sound {s : State} (h : s.Sound) (c : Nat) : (State.cageFlow s c).Sound := by
  simp only [State.cageFlow]
  repeat'
    first
    | with_reducible assumption | with_reducible apply State.flowControl_sound
    | with_reducible refine fst_sound (by assumption) ?_ | simp only [sound_upd, sound_updTil] | (intro _)
    | with_reducible apply sound_ite | split

theorem State.srbFree_sound {s : State} (h : s.Sound) (id : Nat) : (State.srbFree s id).Sound := by
  simp only [State.srbFree]
  repeat'
    first
    | with_reducible assumption | with_reducible apply State.cageFlow_sound
    | with_reducible apply State.showSrb_sound | with_reducible refine fst_sound (by assumption) ?_
    | simp only [sound_upd, sound_updTil] | (intro _) | with_reducible apply sound_ite | split

theorem State.srbDrop_sound {s : State} (h : s.Sound) : (State.srbDrop s).Sound := by
  simp only [State.srbDrop]
  repeat'
    first
    | with_reducible assumption | with_reducible apply State.raise_sound | with_reducible apply State.bump_sound
    | with_reducible refine fst_sound (by assumption) ?_ | simp only [sound_upd, sound_updTil] | (intro _)
    | with_reducible apply sound_ite | split

theorem State.srbStore_sound {s : State} (h : s.Sound) (cage egress vc len : Nat) (ce ect : Bool) (path : Nat) (data :
    List Byte) : (State.srbStore s cage egress vc len ce ect path data).1.Sound := by
  simp only [State.srbStore]
  repeat'
    first
    | with_reducible assumption | with_reducible apply State.srbDrop_sound
    | with_reducible apply State.cageFlow_sound | with_reducible apply State.showSrb_sound
    | with_reducible refine fst_sound (by assumption) ?_ | simp only [sound_upd, sound_updTil] | (intro _)
    | with_reducible apply sound_ite | split

theorem State.mark_sound {s : State} (h : s.Sound) (q : Nat) (ect : Bool) : (State.mark s q ect).1.Sound := by
  simp only [State.mark]
  repeat'
    first
    | with_reducible assumption | with_reducible apply State.bump_sound | with_reducible apply State.tick_sound
    | with_reducible refine fst_sound (by assumption) ?_ | simp only [sound_upd, sound_updTil] | (intro _)
    | with_reducible apply sound_ite | split

theorem State.takeToken_sound {s : State} (h : s.Sound) (k : Nat) : (State.takeToken s k).Sound := by
  simp only [State.takeToken]
  repeat'
    first
    | with_reducible assumption | with_reducible apply State.put_sound
    | with_reducible refine fst_sound (by assumption) ?_ | simp only [sound_upd, sound_updTil] | (intro _)
    | with_reducible apply sound_ite | split

theorem State.police_sound {s : State} (h : s.Sound) (cage vc : Nat) (ect ce : Bool) : (State.police s cage vc ect
    ce).1.Sound := by
  simp only [State.police]
  repeat'
    first
    | with_reducible assumption | with_reducible apply State.takeToken_sound
    | with_reducible apply State.raise_sound | with_reducible apply State.bump_sound
    | with_reducible refine fst_sound (by assumption) ?_ | simp only [sound_upd, sound_updTil] | (intro _)
    | with_reducible apply sound_ite | split

theorem State.enqueueFabric_sound {s : State} (h : s.Sound) (p vc path : Nat) (hdr payload : List Byte) (srb : Option
    Nat) : (State.enqueueFabric s p vc path hdr payload srb).Sound := by
  simp only [State.enqueueFabric]
  repeat'
    first
    | with_reducible assumption | with_reducible apply State.enqueue_sound
    | with_reducible refine fst_sound (by assumption) ?_ | simp only [sound_upd, sound_updTil] | (intro _)
    | with_reducible apply sound_ite | split

end Sys2Proof.Machine
end

