-- ==== Sys2Proof/Laws/SoundColBase.lean ====
section
/-! SUPPORT. The operations of ColBase.lean keep a state well kept. -/
namespace Sys2Proof.Machine
set_option linter.unusedTactic false
set_option linter.unreachableTactic false
set_option linter.unusedSimpArgs false
open Sys2Proof

theorem State.setGroup_sound {s : State} (h : s.Sound) (g : Nat) (x : Group) : (State.setGroup s g x).Sound := by
  simp only [State.setGroup]
  repeat'
    first
    | with_reducible assumption | with_reducible refine fst_sound (by assumption) ?_
    | simp only [sound_upd, sound_updTil] | (intro _) | with_reducible apply sound_ite | split

theorem State.groupError_sound {s : State} (h : s.Sound) (g : Nat) : (State.groupError s g).Sound := by
  simp only [State.groupError]
  repeat'
    first
    | with_reducible assumption | with_reducible apply State.raise_sound
    | with_reducible apply State.setGroup_sound | with_reducible refine fst_sound (by assumption) ?_
    | simp only [sound_upd, sound_updTil] | (intro _) | with_reducible apply sound_ite | split

theorem State.pinchQueue_sound {s : State} (h : s.Sound) (g p : Nat) (f : List Byte) : (State.pinchQueue s g p
    f).Sound := by
  simp only [State.pinchQueue]
  repeat'
    first
    | with_reducible assumption | with_reducible refine fst_sound (by assumption) ?_
    | simp only [sound_upd, sound_updTil] | (intro _) | with_reducible apply sound_ite | split

theorem State.pinchSend_sound {s : State} (h : s.Sound) (g p : Nat) (f : List Byte) : (State.pinchSend s g p f).Sound
    := by
  simp only [State.pinchSend]
  repeat'
    first
    | with_reducible assumption | with_reducible apply State.pinchQueue_sound
    | with_reducible refine fst_sound (by assumption) ?_ | simp only [sound_upd, sound_updTil] | (intro _)
    | with_reducible apply sound_ite | split

theorem State.pinchTake_sound {s : State} (h : s.Sound) (p : Nat) : (State.pinchTake s p).Sound := by
  simp only [State.pinchTake]
  repeat'
    first
    | with_reducible assumption | with_reducible refine fst_sound (by assumption) ?_
    | simp only [sound_upd, sound_updTil] | (intro _) | with_reducible apply sound_ite | split

theorem State.sendEth_sound {s : State} (h : s.Sound) (p vc etype : Nat) (ip : Option Ip) (n : Nat) (data : List Byte)
    : (State.sendEth s p vc etype ip n data).Sound := by
  simp only [State.sendEth]
  repeat'
    first
    | with_reducible assumption | with_reducible apply State.lpiExit_sound
    | with_reducible apply State.countTx_sound | with_reducible apply State.setSent_sound
    | with_reducible refine fst_sound (by assumption) ?_ | simp only [sound_upd, sound_updTil] | (intro _)
    | with_reducible apply sound_ite | split

theorem State.spendUnits_sound {s : State} (h : s.Sound) (p vc n : Nat) : (State.spendUnits s p vc n).Sound := by
  simp only [State.spendUnits]
  repeat'
    first
    | with_reducible assumption | with_reducible refine fst_sound (by assumption) ?_
    | simp only [sound_upd, sound_updTil] | (intro _) | with_reducible apply sound_ite | split

theorem State.sendAttach_sound {s : State} (h : s.Sound) (p vc : Nat) (hdr payload : List Byte) : (State.sendAttach s
    p vc hdr payload).Sound := by
  simp only [State.sendAttach]
  repeat'
    first
    | with_reducible assumption | with_reducible apply State.spendUnits_sound
    | with_reducible apply State.countTx_sound | with_reducible apply State.setSent_sound
    | with_reducible refine fst_sound (by assumption) ?_ | simp only [sound_upd, sound_updTil] | (intro _)
    | with_reducible apply sound_ite | split

theorem State.tracePinch_sound {s : State} (h : s.Sound) (kind p : Nat) (f : List Byte) : (State.tracePinch s kind p
    f).Sound := by
  simp only [State.tracePinch]
  repeat'
    first
    | with_reducible assumption | with_reducible apply State.trace_sound
    | with_reducible refine fst_sound (by assumption) ?_ | simp only [sound_upd, sound_updTil] | (intro _)
    | with_reducible apply sound_ite | split

theorem State.pinchSendFront_sound {s : State} (h : s.Sound) (p : Nat) : (State.pinchSendFront s p).Sound := by
  simp only [State.pinchSendFront]
  repeat'
    first
    | with_reducible assumption | with_reducible apply State.pinchTake_sound
    | with_reducible apply State.pkeyDrop_sound | with_reducible apply State.tracePinch_sound
    | with_reducible apply State.sendAttach_sound | with_reducible apply State.tick_sound
    | with_reducible apply State.sendEth_sound | with_reducible refine fst_sound (by assumption) ?_
    | simp only [sound_upd, sound_updTil] | (intro _) | with_reducible apply sound_ite | split

theorem State.pinchDeliver_sound {s : State} (h : s.Sound) (g : Nat) (x : Group) (failed : Bool) (count value : Nat) :
    (State.pinchDeliver s g x failed count value).Sound := by
  simp only [State.pinchDeliver]
  repeat'
    first
    | with_reducible assumption | with_reducible apply State.cqForce_sound
    | with_reducible apply State.hostPut_sound | with_reducible apply State.bump_sound
    | with_reducible apply State.raise_sound | with_reducible apply State.put_sound
    | with_reducible refine fst_sound (by assumption) ?_ | simp only [sound_upd, sound_updTil] | (intro _)
    | with_reducible apply sound_ite | split

theorem State.releaseDown_sound {s : State} (h : s.Sound) (g : Nat) (x : Group) (failed : Bool) (optype count value :
    Nat) : (State.releaseDown s g x failed optype count value).Sound := by
  simp only [State.releaseDown]
  repeat'
    first
    | with_reducible assumption | with_reducible apply State.pinchSend_sound
    | with_reducible refine fst_sound (by assumption) ?_ | with_reducible apply sound_foldl
    | with_reducible apply sound_foldl_fst | simp only [sound_upd, sound_updTil] | (intro _)
    | with_reducible apply sound_ite | split

theorem State.release_sound {s : State} (h : s.Sound) (g : Nat) (failed : Bool) (optype count value : Nat) :
    (State.release s g failed optype count value).Sound := by
  simp only [State.release]
  repeat'
    first
    | with_reducible assumption | with_reducible apply State.pinchDeliver_sound
    | with_reducible apply State.releaseDown_sound | with_reducible apply State.setGroup_sound
    | with_reducible refine fst_sound (by assumption) ?_ | simp only [sound_upd, sound_updTil] | (intro _)
    | with_reducible apply sound_ite | split

theorem State.pinchFail_sound {s : State} (h : s.Sound) (g : Nat) : (State.pinchFail s g).Sound := by
  simp only [State.pinchFail]
  repeat'
    first
    | with_reducible assumption | with_reducible apply State.pinchSend_sound
    | with_reducible apply State.releaseDown_sound | with_reducible apply State.setGroup_sound
    | with_reducible apply State.pinchDeliver_sound | with_reducible apply State.groupError_sound
    | with_reducible refine fst_sound (by assumption) ?_ | simp only [sound_upd, sound_updTil] | (intro _)
    | with_reducible apply sound_ite | split

theorem State.combine_sound {s : State} (h : s.Sound) (g x2 : Nat) : (State.combine s g x2).Sound := by
  induction x2 generalizing s with
  | zero => exact h
  | succ x2 ih =>
    simp only [State.combine]
    repeat'
      first
      | with_reducible assumption | with_reducible apply ih | with_reducible apply State.setGroup_sound
      | with_reducible apply State.raiseIf_sound | with_reducible apply State.total_sound
      | with_reducible apply State.pinchSend_sound | with_reducible apply State.release_sound
      | with_reducible refine fst_sound (by assumption) ?_ | simp only [sound_upd, sound_updTil] | (intro _)
      | with_reducible apply sound_ite | split

theorem State.placePost_sound {s : State} (h : s.Sound) (q : Post) {t : State} (e : State.placePost s q = some t) :
    t.Sound := by
  simp only [State.placePost] at e
  split at e
  · cases e
    exact State.raise_sound (State.bump_sound h _ _) _
  · split at e
    · cases e
      repeat'
        first
        | with_reducible assumption | with_reducible apply State.pinchFail_sound | with_reducible apply State.combine_sound
        | with_reducible apply State.setGroup_sound | with_reducible apply sound_ite
    · split at e
      · cases e
        repeat'
          first
          | with_reducible assumption | with_reducible apply State.pinchFail_sound | with_reducible apply State.combine_sound
          | with_reducible apply State.setGroup_sound | with_reducible apply sound_ite
      · cases e

theorem State.drainPosts_sound {s : State} (h : s.Sound) (d x2 : Nat) : (State.drainPosts s d x2).Sound := by
  induction x2 generalizing s with
  | zero => exact h
  | succ x2 ih =>
    simp only [State.drainPosts]
    repeat'
      first
      | with_reducible assumption | with_reducible apply ih
      | with_reducible refine State.placePost_sound (e := by assumption) ?_ ..
      | with_reducible refine fst_sound (by assumption) ?_ | simp only [sound_upd, sound_updTil] | (intro _)
      | with_reducible apply sound_ite | split

theorem State.drainAll_sound {s : State} (h : s.Sound) : (State.drainAll s).Sound := by
  simp only [State.drainAll]
  repeat'
    first
    | with_reducible assumption | with_reducible apply State.drainPosts_sound
    | with_reducible refine fst_sound (by assumption) ?_ | with_reducible apply sound_foldl
    | with_reducible apply sound_foldl_fst | simp only [sound_upd, sound_updTil] | (intro _)
    | with_reducible apply sound_ite | split

theorem State.post_sound {s : State} (h : s.Sound) (i d k op ty : Nat) (rsvd : Bool) (value : List Byte) : (State.post
    s i d k op ty rsvd value).1.Sound := by
  simp only [State.post]
  repeat'
    first
    | with_reducible assumption | with_reducible apply State.raise_sound | with_reducible apply State.bump_sound
    | with_reducible apply State.drainPosts_sound | with_reducible refine fst_sound (by assumption) ?_
    | simp only [sound_upd, sound_updTil] | (intro _) | with_reducible apply sound_ite | split

theorem State.traceCol_sound {s : State} (h : s.Sound) (g : Nat) (d : List Byte) (kind st : Nat) : (State.traceCol s g
    d kind st).Sound := by
  simp only [State.traceCol]
  repeat'
    first
    | with_reducible assumption | with_reducible apply State.traceBy_sound
    | with_reducible refine fst_sound (by assumption) ?_ | simp only [sound_upd, sound_updTil] | (intro _)
    | with_reducible apply sound_ite | split

theorem State.colComplete_sound {s : State} (h : s.Sound) (g : Nat) (o : ColOp) (st : Nat) : (State.colComplete s g o
    st).Sound := by
  simp only [State.colComplete]
  repeat'
    first
    | with_reducible assumption | with_reducible apply State.bump_sound | with_reducible apply State.traceCol_sound
    | with_reducible apply State.raise_sound | with_reducible apply State.complete_sound
    | with_reducible refine fst_sound (by assumption) ?_ | simp only [sound_upd, sound_updTil] | (intro _)
    | with_reducible apply sound_ite | split

theorem State.colEndOp_sound {s : State} (h : s.Sound) (g : Nat) (x : Group) (o : ColOp) (st : Nat) : (State.colEndOp
    s g x o st).1.Sound := by
  simp only [State.colEndOp]
  repeat'
    first
    | with_reducible assumption | with_reducible apply State.colComplete_sound
    | with_reducible apply State.cqPut_sound | with_reducible refine fst_sound (by assumption) ?_
    | simp only [sound_upd, sound_updTil] | (intro _) | with_reducible apply sound_ite | split

theorem State.colEarlyEnd_sound {s : State} (h : s.Sound) (g st : Nat) : (State.colEarlyEnd s g st).Sound := by
  simp only [State.colEarlyEnd]
  repeat'
    first
    | with_reducible assumption | with_reducible apply State.colEndOp_sound
    | with_reducible apply State.setGroup_sound | with_reducible apply State.groupError_sound
    | with_reducible refine fst_sound (by assumption) ?_ | with_reducible apply sound_foldl
    | with_reducible apply sound_foldl_fst | simp only [sound_upd, sound_updTil] | (intro _)
    | with_reducible apply sound_ite | split

theorem State.groupAbort_sound {s : State} (h : s.Sound) (g : Nat) : (State.groupAbort s g).Sound := by
  simp only [State.groupAbort]
  repeat'
    first
    | with_reducible assumption | with_reducible apply State.colComplete_sound
    | with_reducible apply State.cqForce_sound | with_reducible apply State.setGroup_sound
    | with_reducible refine fst_sound (by assumption) ?_ | with_reducible apply sound_foldl
    | with_reducible apply sound_foldl_fst | simp only [sound_upd, sound_updTil] | (intro _)
    | with_reducible apply sound_ite | split

theorem State.groupDestroy_sound {s : State} (h : s.Sound) (g : Nat) : (State.groupDestroy s g).Sound := by
  simp only [State.groupDestroy]
  repeat'
    first
    | with_reducible assumption | with_reducible apply State.groupAbort_sound
    | with_reducible apply State.setGroup_sound | with_reducible refine fst_sound (by assumption) ?_
    | simp only [sound_upd, sound_updTil] | (intro _) | with_reducible apply sound_ite | split

theorem State.pinchPortDown_sound {s : State} (h : s.Sound) (p : Nat) : (State.pinchPortDown s p).Sound := by
  simp only [State.pinchPortDown]
  repeat'
    first
    | with_reducible assumption | with_reducible apply State.pinchFail_sound
    | with_reducible refine fst_sound (by assumption) ?_ | with_reducible apply sound_foldl
    | with_reducible apply sound_foldl_fst | simp only [sound_upd, sound_updTil] | (intro _)
    | with_reducible apply sound_ite | split

end Sys2Proof.Machine
end

