-- ==== Sys2Proof/Laws/SoundScalar.lean ====
section
/-! SUPPORT. The operations of Scalar.lean keep a state well kept. -/
namespace Sys2Proof.Machine
set_option linter.unusedTactic false
set_option linter.unreachableTactic false
set_option linter.unusedSimpArgs false
open Sys2Proof

theorem State.alu_sound {s : State} (h : s.Sound) (i : Issue) (rd rs1 rs2 : SReg) (f : Word → Word → Word) : soundOut
    (State.alu s i rd rs1 rs2 f) := by
  simp only [State.alu]
  repeat'
    first
    | with_reducible assumption | with_reducible apply State.issue_sound | with_reducible apply State.ws_sound
    | with_reducible refine fst_sound (by assumption) ?_ | rw [soundOut_next]
    | simp only [fate_retire, fate_jump, fate_trap, fate_trapAfter, fate_ecc, fate_wait]
    | simp only [sound_upd, sound_updTil] | (intro _) | with_reducible apply soundOut_ite
    | with_reducible apply sound_ite | split

theorem State.alu1_sound {s : State} (h : s.Sound) (i : Issue) (rd rs1 : SReg) (f : Word → Word) : soundOut
    (State.alu1 s i rd rs1 f) := by
  simp only [State.alu1]
  repeat'
    first
    | with_reducible assumption | with_reducible apply State.issue_sound | with_reducible apply State.ws_sound
    | with_reducible refine fst_sound (by assumption) ?_ | rw [soundOut_next]
    | simp only [fate_retire, fate_jump, fate_trap, fate_trapAfter, fate_ecc, fate_wait]
    | simp only [sound_upd, sound_updTil] | (intro _) | with_reducible apply soundOut_ite
    | with_reducible apply sound_ite | split

theorem State.branch_sound {s : State} (h : s.Sound) (i : Issue) (rs1 rs2 : SReg) (off : BitVec 16) (c : Word → Word →
    Bool) : soundOut (State.branch s i rs1 rs2 off c) := by
  simp only [State.branch]
  repeat'
    first
    | with_reducible assumption | with_reducible apply State.issue_sound
    | with_reducible refine fst_sound (by assumption) ?_ | rw [soundOut_next]
    | simp only [fate_retire, fate_jump, fate_trap, fate_trapAfter, fate_ecc, fate_wait]
    | simp only [sound_upd, sound_updTil] | (intro _) | with_reducible apply soundOut_ite
    | with_reducible apply sound_ite | split

theorem State.load_sound {s : State} (h : s.Sound) (i : Issue) (rd rs1 : SReg) (imm : BitVec 16) (n : Nat) (ext : Nat
    → Word) : soundOut (State.load s i rd rs1 imm n ext) := by
  simp only [State.load]
  repeat'
    first
    | with_reducible assumption | with_reducible apply State.issue_sound
    | with_reducible apply State.readLocal_sound | with_reducible apply State.ws_sound
    | with_reducible refine fst_sound (by assumption) ?_ | rw [soundOut_next]
    | simp only [fate_retire, fate_jump, fate_trap, fate_trapAfter, fate_ecc, fate_wait]
    | simp only [sound_upd, sound_updTil] | (intro _) | with_reducible apply soundOut_ite
    | with_reducible apply sound_ite | split

theorem State.store_sound {s : State} (h : s.Sound) (i : Issue) (rs2 rs1 : SReg) (imm : BitVec 16) (n : Nat) :
    soundOut (State.store s i rs2 rs1 imm n) := by
  simp only [State.store]
  repeat'
    first
    | with_reducible assumption | with_reducible apply State.issue_sound
    | with_reducible apply State.writeLocal_sound | with_reducible refine fst_sound (by assumption) ?_
    | rw [soundOut_next] | simp only [fate_retire, fate_jump, fate_trap, fate_trapAfter, fate_ecc, fate_wait]
    | simp only [sound_upd, sound_updTil] | (intro _) | with_reducible apply soundOut_ite
    | with_reducible apply sound_ite | split

theorem execAdd_sound {s : State} (h : s.Sound) (i : Issue) (rd rs1 rs2 : SReg) : soundOut (execAdd i rd rs1 rs2 s) :=
    by
  simp only [execAdd]
  repeat'
    first
    | with_reducible assumption | with_reducible apply State.alu_sound
    | with_reducible refine fst_sound (by assumption) ?_ | rw [soundOut_next] | simp only [sound_upd, sound_updTil]
    | (intro _) | with_reducible apply soundOut_ite | with_reducible apply sound_ite | split

theorem execSub_sound {s : State} (h : s.Sound) (i : Issue) (rd rs1 rs2 : SReg) : soundOut (execSub i rd rs1 rs2 s) :=
    by
  simp only [execSub]
  repeat'
    first
    | with_reducible assumption | with_reducible apply State.alu_sound
    | with_reducible refine fst_sound (by assumption) ?_ | rw [soundOut_next] | simp only [sound_upd, sound_updTil]
    | (intro _) | with_reducible apply soundOut_ite | with_reducible apply sound_ite | split

theorem execAnd_sound {s : State} (h : s.Sound) (i : Issue) (rd rs1 rs2 : SReg) : soundOut (execAnd i rd rs1 rs2 s) :=
    by
  simp only [execAnd]
  repeat'
    first
    | with_reducible assumption | with_reducible apply State.alu_sound
    | with_reducible refine fst_sound (by assumption) ?_ | rw [soundOut_next] | simp only [sound_upd, sound_updTil]
    | (intro _) | with_reducible apply soundOut_ite | with_reducible apply sound_ite | split

theorem execOr_sound {s : State} (h : s.Sound) (i : Issue) (rd rs1 rs2 : SReg) : soundOut (execOr i rd rs1 rs2 s) :=
    by
  simp only [execOr]
  repeat'
    first
    | with_reducible assumption | with_reducible apply State.alu_sound
    | with_reducible refine fst_sound (by assumption) ?_ | rw [soundOut_next] | simp only [sound_upd, sound_updTil]
    | (intro _) | with_reducible apply soundOut_ite | with_reducible apply sound_ite | split

theorem execXor_sound {s : State} (h : s.Sound) (i : Issue) (rd rs1 rs2 : SReg) : soundOut (execXor i rd rs1 rs2 s) :=
    by
  simp only [execXor]
  repeat'
    first
    | with_reducible assumption | with_reducible apply State.alu_sound
    | with_reducible refine fst_sound (by assumption) ?_ | rw [soundOut_next] | simp only [sound_upd, sound_updTil]
    | (intro _) | with_reducible apply soundOut_ite | with_reducible apply sound_ite | split

theorem execSll_sound {s : State} (h : s.Sound) (i : Issue) (rd rs1 rs2 : SReg) : soundOut (execSll i rd rs1 rs2 s) :=
    by
  simp only [execSll]
  repeat'
    first
    | with_reducible assumption | with_reducible apply State.alu_sound
    | with_reducible refine fst_sound (by assumption) ?_ | rw [soundOut_next] | simp only [sound_upd, sound_updTil]
    | (intro _) | with_reducible apply soundOut_ite | with_reducible apply sound_ite | split

theorem execSrl_sound {s : State} (h : s.Sound) (i : Issue) (rd rs1 rs2 : SReg) : soundOut (execSrl i rd rs1 rs2 s) :=
    by
  simp only [execSrl]
  repeat'
    first
    | with_reducible assumption | with_reducible apply State.alu_sound
    | with_reducible refine fst_sound (by assumption) ?_ | rw [soundOut_next] | simp only [sound_upd, sound_updTil]
    | (intro _) | with_reducible apply soundOut_ite | with_reducible apply sound_ite | split

theorem execSra_sound {s : State} (h : s.Sound) (i : Issue) (rd rs1 rs2 : SReg) : soundOut (execSra i rd rs1 rs2 s) :=
    by
  simp only [execSra]
  repeat'
    first
    | with_reducible assumption | with_reducible apply State.alu_sound
    | with_reducible refine fst_sound (by assumption) ?_ | rw [soundOut_next] | simp only [sound_upd, sound_updTil]
    | (intro _) | with_reducible apply soundOut_ite | with_reducible apply sound_ite | split

theorem execSlt_sound {s : State} (h : s.Sound) (i : Issue) (rd rs1 rs2 : SReg) : soundOut (execSlt i rd rs1 rs2 s) :=
    by
  simp only [execSlt]
  repeat'
    first
    | with_reducible assumption | with_reducible apply State.alu_sound
    | with_reducible refine fst_sound (by assumption) ?_ | rw [soundOut_next] | simp only [sound_upd, sound_updTil]
    | (intro _) | with_reducible apply soundOut_ite | with_reducible apply sound_ite | split

theorem execSltu_sound {s : State} (h : s.Sound) (i : Issue) (rd rs1 rs2 : SReg) : soundOut (execSltu i rd rs1 rs2 s)
    := by
  simp only [execSltu]
  repeat'
    first
    | with_reducible assumption | with_reducible apply State.alu_sound
    | with_reducible refine fst_sound (by assumption) ?_ | rw [soundOut_next] | simp only [sound_upd, sound_updTil]
    | (intro _) | with_reducible apply soundOut_ite | with_reducible apply sound_ite | split

theorem execMin_sound {s : State} (h : s.Sound) (i : Issue) (rd rs1 rs2 : SReg) : soundOut (execMin i rd rs1 rs2 s) :=
    by
  simp only [execMin]
  repeat'
    first
    | with_reducible assumption | with_reducible apply State.alu_sound
    | with_reducible refine fst_sound (by assumption) ?_ | rw [soundOut_next] | simp only [sound_upd, sound_updTil]
    | (intro _) | with_reducible apply soundOut_ite | with_reducible apply sound_ite | split

theorem execMax_sound {s : State} (h : s.Sound) (i : Issue) (rd rs1 rs2 : SReg) : soundOut (execMax i rd rs1 rs2 s) :=
    by
  simp only [execMax]
  repeat'
    first
    | with_reducible assumption | with_reducible apply State.alu_sound
    | with_reducible refine fst_sound (by assumption) ?_ | rw [soundOut_next] | simp only [sound_upd, sound_updTil]
    | (intro _) | with_reducible apply soundOut_ite | with_reducible apply sound_ite | split

theorem execMinu_sound {s : State} (h : s.Sound) (i : Issue) (rd rs1 rs2 : SReg) : soundOut (execMinu i rd rs1 rs2 s)
    := by
  simp only [execMinu]
  repeat'
    first
    | with_reducible assumption | with_reducible apply State.alu_sound
    | with_reducible refine fst_sound (by assumption) ?_ | rw [soundOut_next] | simp only [sound_upd, sound_updTil]
    | (intro _) | with_reducible apply soundOut_ite | with_reducible apply sound_ite | split

theorem execMaxu_sound {s : State} (h : s.Sound) (i : Issue) (rd rs1 rs2 : SReg) : soundOut (execMaxu i rd rs1 rs2 s)
    := by
  simp only [execMaxu]
  repeat'
    first
    | with_reducible assumption | with_reducible apply State.alu_sound
    | with_reducible refine fst_sound (by assumption) ?_ | rw [soundOut_next] | simp only [sound_upd, sound_updTil]
    | (intro _) | with_reducible apply soundOut_ite | with_reducible apply sound_ite | split

theorem execMul_sound {s : State} (h : s.Sound) (i : Issue) (rd rs1 rs2 : SReg) : soundOut (execMul i rd rs1 rs2 s) :=
    by
  simp only [execMul]
  repeat'
    first
    | with_reducible assumption | with_reducible apply State.alu_sound
    | with_reducible refine fst_sound (by assumption) ?_ | rw [soundOut_next] | simp only [sound_upd, sound_updTil]
    | (intro _) | with_reducible apply soundOut_ite | with_reducible apply sound_ite | split

theorem execMulh_sound {s : State} (h : s.Sound) (i : Issue) (rd rs1 rs2 : SReg) : soundOut (execMulh i rd rs1 rs2 s)
    := by
  simp only [execMulh]
  repeat'
    first
    | with_reducible assumption | with_reducible apply State.alu_sound
    | with_reducible refine fst_sound (by assumption) ?_ | rw [soundOut_next] | simp only [sound_upd, sound_updTil]
    | (intro _) | with_reducible apply soundOut_ite | with_reducible apply sound_ite | split

theorem execMulhu_sound {s : State} (h : s.Sound) (i : Issue) (rd rs1 rs2 : SReg) : soundOut (execMulhu i rd rs1 rs2
    s) := by
  simp only [execMulhu]
  repeat'
    first
    | with_reducible assumption | with_reducible apply State.alu_sound
    | with_reducible refine fst_sound (by assumption) ?_ | rw [soundOut_next] | simp only [sound_upd, sound_updTil]
    | (intro _) | with_reducible apply soundOut_ite | with_reducible apply sound_ite | split

theorem execMulhsu_sound {s : State} (h : s.Sound) (i : Issue) (rd rs1 rs2 : SReg) : soundOut (execMulhsu i rd rs1 rs2
    s) := by
  simp only [execMulhsu]
  repeat'
    first
    | with_reducible assumption | with_reducible apply State.alu_sound
    | with_reducible refine fst_sound (by assumption) ?_ | rw [soundOut_next] | simp only [sound_upd, sound_updTil]
    | (intro _) | with_reducible apply soundOut_ite | with_reducible apply sound_ite | split

theorem execDiv_sound {s : State} (h : s.Sound) (i : Issue) (rd rs1 rs2 : SReg) : soundOut (execDiv i rd rs1 rs2 s) :=
    by
  simp only [execDiv]
  repeat'
    first
    | with_reducible assumption | with_reducible apply State.alu_sound
    | with_reducible refine fst_sound (by assumption) ?_ | rw [soundOut_next] | simp only [sound_upd, sound_updTil]
    | (intro _) | with_reducible apply soundOut_ite | with_reducible apply sound_ite | split

theorem execDivu_sound {s : State} (h : s.Sound) (i : Issue) (rd rs1 rs2 : SReg) : soundOut (execDivu i rd rs1 rs2 s)
    := by
  simp only [execDivu]
  repeat'
    first
    | with_reducible assumption | with_reducible apply State.alu_sound
    | with_reducible refine fst_sound (by assumption) ?_ | rw [soundOut_next] | simp only [sound_upd, sound_updTil]
    | (intro _) | with_reducible apply soundOut_ite | with_reducible apply sound_ite | split

theorem execRem_sound {s : State} (h : s.Sound) (i : Issue) (rd rs1 rs2 : SReg) : soundOut (execRem i rd rs1 rs2 s) :=
    by
  simp only [execRem]
  repeat'
    first
    | with_reducible assumption | with_reducible apply State.alu_sound
    | with_reducible refine fst_sound (by assumption) ?_ | rw [soundOut_next] | simp only [sound_upd, sound_updTil]
    | (intro _) | with_reducible apply soundOut_ite | with_reducible apply sound_ite | split

theorem execRemu_sound {s : State} (h : s.Sound) (i : Issue) (rd rs1 rs2 : SReg) : soundOut (execRemu i rd rs1 rs2 s)
    := by
  simp only [execRemu]
  repeat'
    first
    | with_reducible assumption | with_reducible apply State.alu_sound
    | with_reducible refine fst_sound (by assumption) ?_ | rw [soundOut_next] | simp only [sound_upd, sound_updTil]
    | (intro _) | with_reducible apply soundOut_ite | with_reducible apply sound_ite | split

theorem execClz_sound {s : State} (h : s.Sound) (i : Issue) (rd rs1 : SReg) : soundOut (execClz i rd rs1 s) := by
  simp only [execClz]
  repeat'
    first
    | with_reducible assumption | with_reducible apply State.alu1_sound
    | with_reducible refine fst_sound (by assumption) ?_ | rw [soundOut_next] | simp only [sound_upd, sound_updTil]
    | (intro _) | with_reducible apply soundOut_ite | with_reducible apply sound_ite | split

theorem execCtz_sound {s : State} (h : s.Sound) (i : Issue) (rd rs1 : SReg) : soundOut (execCtz i rd rs1 s) := by
  simp only [execCtz]
  repeat'
    first
    | with_reducible assumption | with_reducible apply State.alu1_sound
    | with_reducible refine fst_sound (by assumption) ?_ | rw [soundOut_next] | simp only [sound_upd, sound_updTil]
    | (intro _) | with_reducible apply soundOut_ite | with_reducible apply sound_ite | split

theorem execPopc_sound {s : State} (h : s.Sound) (i : Issue) (rd rs1 : SReg) : soundOut (execPopc i rd rs1 s) := by
  simp only [execPopc]
  repeat'
    first
    | with_reducible assumption | with_reducible apply State.alu1_sound
    | with_reducible refine fst_sound (by assumption) ?_ | rw [soundOut_next] | simp only [sound_upd, sound_updTil]
    | (intro _) | with_reducible apply soundOut_ite | with_reducible apply sound_ite | split

theorem execAddw_sound {s : State} (h : s.Sound) (i : Issue) (rd rs1 rs2 : SReg) : soundOut (execAddw i rd rs1 rs2 s)
    := by
  simp only [execAddw]
  repeat'
    first
    | with_reducible assumption | with_reducible apply State.alu_sound
    | with_reducible refine fst_sound (by assumption) ?_ | rw [soundOut_next] | simp only [sound_upd, sound_updTil]
    | (intro _) | with_reducible apply soundOut_ite | with_reducible apply sound_ite | split

theorem execSubw_sound {s : State} (h : s.Sound) (i : Issue) (rd rs1 rs2 : SReg) : soundOut (execSubw i rd rs1 rs2 s)
    := by
  simp only [execSubw]
  repeat'
    first
    | with_reducible assumption | with_reducible apply State.alu_sound
    | with_reducible refine fst_sound (by assumption) ?_ | rw [soundOut_next] | simp only [sound_upd, sound_updTil]
    | (intro _) | with_reducible apply soundOut_ite | with_reducible apply sound_ite | split

theorem execSllw_sound {s : State} (h : s.Sound) (i : Issue) (rd rs1 rs2 : SReg) : soundOut (execSllw i rd rs1 rs2 s)
    := by
  simp only [execSllw]
  repeat'
    first
    | with_reducible assumption | with_reducible apply State.alu_sound
    | with_reducible refine fst_sound (by assumption) ?_ | rw [soundOut_next] | simp only [sound_upd, sound_updTil]
    | (intro _) | with_reducible apply soundOut_ite | with_reducible apply sound_ite | split

theorem execSrlw_sound {s : State} (h : s.Sound) (i : Issue) (rd rs1 rs2 : SReg) : soundOut (execSrlw i rd rs1 rs2 s)
    := by
  simp only [execSrlw]
  repeat'
    first
    | with_reducible assumption | with_reducible apply State.alu_sound
    | with_reducible refine fst_sound (by assumption) ?_ | rw [soundOut_next] | simp only [sound_upd, sound_updTil]
    | (intro _) | with_reducible apply soundOut_ite | with_reducible apply sound_ite | split

theorem execSraw_sound {s : State} (h : s.Sound) (i : Issue) (rd rs1 rs2 : SReg) : soundOut (execSraw i rd rs1 rs2 s)
    := by
  simp only [execSraw]
  repeat'
    first
    | with_reducible assumption | with_reducible apply State.alu_sound
    | with_reducible refine fst_sound (by assumption) ?_ | rw [soundOut_next] | simp only [sound_upd, sound_updTil]
    | (intro _) | with_reducible apply soundOut_ite | with_reducible apply sound_ite | split

theorem execMulw_sound {s : State} (h : s.Sound) (i : Issue) (rd rs1 rs2 : SReg) : soundOut (execMulw i rd rs1 rs2 s)
    := by
  simp only [execMulw]
  repeat'
    first
    | with_reducible assumption | with_reducible apply State.alu_sound
    | with_reducible refine fst_sound (by assumption) ?_ | rw [soundOut_next] | simp only [sound_upd, sound_updTil]
    | (intro _) | with_reducible apply soundOut_ite | with_reducible apply sound_ite | split

theorem execDivw_sound {s : State} (h : s.Sound) (i : Issue) (rd rs1 rs2 : SReg) : soundOut (execDivw i rd rs1 rs2 s)
    := by
  simp only [execDivw]
  repeat'
    first
    | with_reducible assumption | with_reducible apply State.alu_sound
    | with_reducible refine fst_sound (by assumption) ?_ | rw [soundOut_next] | simp only [sound_upd, sound_updTil]
    | (intro _) | with_reducible apply soundOut_ite | with_reducible apply sound_ite | split

theorem execDivuw_sound {s : State} (h : s.Sound) (i : Issue) (rd rs1 rs2 : SReg) : soundOut (execDivuw i rd rs1 rs2
    s) := by
  simp only [execDivuw]
  repeat'
    first
    | with_reducible assumption | with_reducible apply State.alu_sound
    | with_reducible refine fst_sound (by assumption) ?_ | rw [soundOut_next] | simp only [sound_upd, sound_updTil]
    | (intro _) | with_reducible apply soundOut_ite | with_reducible apply sound_ite | split

theorem execRemw_sound {s : State} (h : s.Sound) (i : Issue) (rd rs1 rs2 : SReg) : soundOut (execRemw i rd rs1 rs2 s)
    := by
  simp only [execRemw]
  repeat'
    first
    | with_reducible assumption | with_reducible apply State.alu_sound
    | with_reducible refine fst_sound (by assumption) ?_ | rw [soundOut_next] | simp only [sound_upd, sound_updTil]
    | (intro _) | with_reducible apply soundOut_ite | with_reducible apply sound_ite | split

theorem execRemuw_sound {s : State} (h : s.Sound) (i : Issue) (rd rs1 rs2 : SReg) : soundOut (execRemuw i rd rs1 rs2
    s) := by
  simp only [execRemuw]
  repeat'
    first
    | with_reducible assumption | with_reducible apply State.alu_sound
    | with_reducible refine fst_sound (by assumption) ?_ | rw [soundOut_next] | simp only [sound_upd, sound_updTil]
    | (intro _) | with_reducible apply soundOut_ite | with_reducible apply sound_ite | split

theorem execAddi_sound {s : State} (h : s.Sound) (i : Issue) (rd rs1 : SReg) (imm : BitVec 16) : soundOut (execAddi i
    rd rs1 imm s) := by
  simp only [execAddi]
  repeat'
    first
    | with_reducible assumption | with_reducible apply State.alu1_sound
    | with_reducible refine fst_sound (by assumption) ?_ | rw [soundOut_next] | simp only [sound_upd, sound_updTil]
    | (intro _) | with_reducible apply soundOut_ite | with_reducible apply sound_ite | split

theorem execAndi_sound {s : State} (h : s.Sound) (i : Issue) (rd rs1 : SReg) (imm : BitVec 16) : soundOut (execAndi i
    rd rs1 imm s) := by
  simp only [execAndi]
  repeat'
    first
    | with_reducible assumption | with_reducible apply State.alu1_sound
    | with_reducible refine fst_sound (by assumption) ?_ | rw [soundOut_next] | simp only [sound_upd, sound_updTil]
    | (intro _) | with_reducible apply soundOut_ite | with_reducible apply sound_ite | split

theorem execOri_sound {s : State} (h : s.Sound) (i : Issue) (rd rs1 : SReg) (imm : BitVec 16) : soundOut (execOri i rd
    rs1 imm s) := by
  simp only [execOri]
  repeat'
    first
    | with_reducible assumption | with_reducible apply State.alu1_sound
    | with_reducible refine fst_sound (by assumption) ?_ | rw [soundOut_next] | simp only [sound_upd, sound_updTil]
    | (intro _) | with_reducible apply soundOut_ite | with_reducible apply sound_ite | split

theorem execXori_sound {s : State} (h : s.Sound) (i : Issue) (rd rs1 : SReg) (imm : BitVec 16) : soundOut (execXori i
    rd rs1 imm s) := by
  simp only [execXori]
  repeat'
    first
    | with_reducible assumption | with_reducible apply State.alu1_sound
    | with_reducible refine fst_sound (by assumption) ?_ | rw [soundOut_next] | simp only [sound_upd, sound_updTil]
    | (intro _) | with_reducible apply soundOut_ite | with_reducible apply sound_ite | split

theorem execSlti_sound {s : State} (h : s.Sound) (i : Issue) (rd rs1 : SReg) (imm : BitVec 16) : soundOut (execSlti i
    rd rs1 imm s) := by
  simp only [execSlti]
  repeat'
    first
    | with_reducible assumption | with_reducible apply State.alu1_sound
    | with_reducible refine fst_sound (by assumption) ?_ | rw [soundOut_next] | simp only [sound_upd, sound_updTil]
    | (intro _) | with_reducible apply soundOut_ite | with_reducible apply sound_ite | split

theorem execSltiu_sound {s : State} (h : s.Sound) (i : Issue) (rd rs1 : SReg) (imm : BitVec 16) : soundOut (execSltiu
    i rd rs1 imm s) := by
  simp only [execSltiu]
  repeat'
    first
    | with_reducible assumption | with_reducible apply State.alu1_sound
    | with_reducible refine fst_sound (by assumption) ?_ | rw [soundOut_next] | simp only [sound_upd, sound_updTil]
    | (intro _) | with_reducible apply soundOut_ite | with_reducible apply sound_ite | split

theorem execSlli_sound {s : State} (h : s.Sound) (i : Issue) (rd rs1 : SReg) (sh : BitVec 6) : soundOut (execSlli i rd
    rs1 sh s) := by
  simp only [execSlli]
  repeat'
    first
    | with_reducible assumption | with_reducible apply State.alu1_sound
    | with_reducible refine fst_sound (by assumption) ?_ | rw [soundOut_next] | simp only [sound_upd, sound_updTil]
    | (intro _) | with_reducible apply soundOut_ite | with_reducible apply sound_ite | split

theorem execSrli_sound {s : State} (h : s.Sound) (i : Issue) (rd rs1 : SReg) (sh : BitVec 6) : soundOut (execSrli i rd
    rs1 sh s) := by
  simp only [execSrli]
  repeat'
    first
    | with_reducible assumption | with_reducible apply State.alu1_sound
    | with_reducible refine fst_sound (by assumption) ?_ | rw [soundOut_next] | simp only [sound_upd, sound_updTil]
    | (intro _) | with_reducible apply soundOut_ite | with_reducible apply sound_ite | split

theorem execSrai_sound {s : State} (h : s.Sound) (i : Issue) (rd rs1 : SReg) (sh : BitVec 6) : soundOut (execSrai i rd
    rs1 sh s) := by
  simp only [execSrai]
  repeat'
    first
    | with_reducible assumption | with_reducible apply State.alu1_sound
    | with_reducible refine fst_sound (by assumption) ?_ | rw [soundOut_next] | simp only [sound_upd, sound_updTil]
    | (intro _) | with_reducible apply soundOut_ite | with_reducible apply sound_ite | split

theorem execLui_sound {s : State} (h : s.Sound) (i : Issue) (rd : SReg) (imm : BitVec 21) : soundOut (execLui i rd imm
    s) := by
  simp only [execLui]
  repeat'
    first
    | with_reducible assumption | with_reducible apply State.alu1_sound
    | with_reducible refine fst_sound (by assumption) ?_ | rw [soundOut_next] | simp only [sound_upd, sound_updTil]
    | (intro _) | with_reducible apply soundOut_ite | with_reducible apply sound_ite | split

theorem execAddiw_sound {s : State} (h : s.Sound) (i : Issue) (rd rs1 : SReg) (imm : BitVec 16) : soundOut (execAddiw
    i rd rs1 imm s) := by
  simp only [execAddiw]
  repeat'
    first
    | with_reducible assumption | with_reducible apply State.alu1_sound
    | with_reducible refine fst_sound (by assumption) ?_ | rw [soundOut_next] | simp only [sound_upd, sound_updTil]
    | (intro _) | with_reducible apply soundOut_ite | with_reducible apply sound_ite | split

theorem execLb_sound {s : State} (h : s.Sound) (i : Issue) (rd rs1 : SReg) (imm : BitVec 16) : soundOut (execLb i rd
    rs1 imm s) := by
  simp only [execLb]
  repeat'
    first
    | with_reducible assumption | with_reducible apply State.load_sound
    | with_reducible refine fst_sound (by assumption) ?_ | rw [soundOut_next] | simp only [sound_upd, sound_updTil]
    | (intro _) | with_reducible apply soundOut_ite | with_reducible apply sound_ite | split

theorem execLbu_sound {s : State} (h : s.Sound) (i : Issue) (rd rs1 : SReg) (imm : BitVec 16) : soundOut (execLbu i rd
    rs1 imm s) := by
  simp only [execLbu]
  repeat'
    first
    | with_reducible assumption | with_reducible apply State.load_sound
    | with_reducible refine fst_sound (by assumption) ?_ | rw [soundOut_next] | simp only [sound_upd, sound_updTil]
    | (intro _) | with_reducible apply soundOut_ite | with_reducible apply sound_ite | split

theorem execLh_sound {s : State} (h : s.Sound) (i : Issue) (rd rs1 : SReg) (imm : BitVec 16) : soundOut (execLh i rd
    rs1 imm s) := by
  simp only [execLh]
  repeat'
    first
    | with_reducible assumption | with_reducible apply State.load_sound
    | with_reducible refine fst_sound (by assumption) ?_ | rw [soundOut_next] | simp only [sound_upd, sound_updTil]
    | (intro _) | with_reducible apply soundOut_ite | with_reducible apply sound_ite | split

theorem execLhu_sound {s : State} (h : s.Sound) (i : Issue) (rd rs1 : SReg) (imm : BitVec 16) : soundOut (execLhu i rd
    rs1 imm s) := by
  simp only [execLhu]
  repeat'
    first
    | with_reducible assumption | with_reducible apply State.load_sound
    | with_reducible refine fst_sound (by assumption) ?_ | rw [soundOut_next] | simp only [sound_upd, sound_updTil]
    | (intro _) | with_reducible apply soundOut_ite | with_reducible apply sound_ite | split

theorem execLw_sound {s : State} (h : s.Sound) (i : Issue) (rd rs1 : SReg) (imm : BitVec 16) : soundOut (execLw i rd
    rs1 imm s) := by
  simp only [execLw]
  repeat'
    first
    | with_reducible assumption | with_reducible apply State.load_sound
    | with_reducible refine fst_sound (by assumption) ?_ | rw [soundOut_next] | simp only [sound_upd, sound_updTil]
    | (intro _) | with_reducible apply soundOut_ite | with_reducible apply sound_ite | split

theorem execLwu_sound {s : State} (h : s.Sound) (i : Issue) (rd rs1 : SReg) (imm : BitVec 16) : soundOut (execLwu i rd
    rs1 imm s) := by
  simp only [execLwu]
  repeat'
    first
    | with_reducible assumption | with_reducible apply State.load_sound
    | with_reducible refine fst_sound (by assumption) ?_ | rw [soundOut_next] | simp only [sound_upd, sound_updTil]
    | (intro _) | with_reducible apply soundOut_ite | with_reducible apply sound_ite | split

theorem execLd_sound {s : State} (h : s.Sound) (i : Issue) (rd rs1 : SReg) (imm : BitVec 16) : soundOut (execLd i rd
    rs1 imm s) := by
  simp only [execLd]
  repeat'
    first
    | with_reducible assumption | with_reducible apply State.load_sound
    | with_reducible refine fst_sound (by assumption) ?_ | rw [soundOut_next] | simp only [sound_upd, sound_updTil]
    | (intro _) | with_reducible apply soundOut_ite | with_reducible apply sound_ite | split

theorem execSb_sound {s : State} (h : s.Sound) (i : Issue) (rs2 rs1 : SReg) (imm : BitVec 16) : soundOut (execSb i rs2
    rs1 imm s) := by
  simp only [execSb]
  repeat'
    first
    | with_reducible assumption | with_reducible apply State.store_sound
    | with_reducible refine fst_sound (by assumption) ?_ | rw [soundOut_next] | simp only [sound_upd, sound_updTil]
    | (intro _) | with_reducible apply soundOut_ite | with_reducible apply sound_ite | split

theorem execSh_sound {s : State} (h : s.Sound) (i : Issue) (rs2 rs1 : SReg) (imm : BitVec 16) : soundOut (execSh i rs2
    rs1 imm s) := by
  simp only [execSh]
  repeat'
    first
    | with_reducible assumption | with_reducible apply State.store_sound
    | with_reducible refine fst_sound (by assumption) ?_ | rw [soundOut_next] | simp only [sound_upd, sound_updTil]
    | (intro _) | with_reducible apply soundOut_ite | with_reducible apply sound_ite | split

theorem execSw_sound {s : State} (h : s.Sound) (i : Issue) (rs2 rs1 : SReg) (imm : BitVec 16) : soundOut (execSw i rs2
    rs1 imm s) := by
  simp only [execSw]
  repeat'
    first
    | with_reducible assumption | with_reducible apply State.store_sound
    | with_reducible refine fst_sound (by assumption) ?_ | rw [soundOut_next] | simp only [sound_upd, sound_updTil]
    | (intro _) | with_reducible apply soundOut_ite | with_reducible apply sound_ite | split

theorem execSd_sound {s : State} (h : s.Sound) (i : Issue) (rs2 rs1 : SReg) (imm : BitVec 16) : soundOut (execSd i rs2
    rs1 imm s) := by
  simp only [execSd]
  repeat'
    first
    | with_reducible assumption | with_reducible apply State.store_sound
    | with_reducible refine fst_sound (by assumption) ?_ | rw [soundOut_next] | simp only [sound_upd, sound_updTil]
    | (intro _) | with_reducible apply soundOut_ite | with_reducible apply sound_ite | split

theorem execBeq_sound {s : State} (h : s.Sound) (i : Issue) (rs1 rs2 : SReg) (off : BitVec 16) : soundOut (execBeq i
    rs1 rs2 off s) := by
  simp only [execBeq]
  repeat'
    first
    | with_reducible assumption | with_reducible apply State.branch_sound
    | with_reducible refine fst_sound (by assumption) ?_ | rw [soundOut_next] | simp only [sound_upd, sound_updTil]
    | (intro _) | with_reducible apply soundOut_ite | with_reducible apply sound_ite | split

theorem execBne_sound {s : State} (h : s.Sound) (i : Issue) (rs1 rs2 : SReg) (off : BitVec 16) : soundOut (execBne i
    rs1 rs2 off s) := by
  simp only [execBne]
  repeat'
    first
    | with_reducible assumption | with_reducible apply State.branch_sound
    | with_reducible refine fst_sound (by assumption) ?_ | rw [soundOut_next] | simp only [sound_upd, sound_updTil]
    | (intro _) | with_reducible apply soundOut_ite | with_reducible apply sound_ite | split

theorem execBlt_sound {s : State} (h : s.Sound) (i : Issue) (rs1 rs2 : SReg) (off : BitVec 16) : soundOut (execBlt i
    rs1 rs2 off s) := by
  simp only [execBlt]
  repeat'
    first
    | with_reducible assumption | with_reducible apply State.branch_sound
    | with_reducible refine fst_sound (by assumption) ?_ | rw [soundOut_next] | simp only [sound_upd, sound_updTil]
    | (intro _) | with_reducible apply soundOut_ite | with_reducible apply sound_ite | split

theorem execBge_sound {s : State} (h : s.Sound) (i : Issue) (rs1 rs2 : SReg) (off : BitVec 16) : soundOut (execBge i
    rs1 rs2 off s) := by
  simp only [execBge]
  repeat'
    first
    | with_reducible assumption | with_reducible apply State.branch_sound
    | with_reducible refine fst_sound (by assumption) ?_ | rw [soundOut_next] | simp only [sound_upd, sound_updTil]
    | (intro _) | with_reducible apply soundOut_ite | with_reducible apply sound_ite | split

theorem execBltu_sound {s : State} (h : s.Sound) (i : Issue) (rs1 rs2 : SReg) (off : BitVec 16) : soundOut (execBltu i
    rs1 rs2 off s) := by
  simp only [execBltu]
  repeat'
    first
    | with_reducible assumption | with_reducible apply State.branch_sound
    | with_reducible refine fst_sound (by assumption) ?_ | rw [soundOut_next] | simp only [sound_upd, sound_updTil]
    | (intro _) | with_reducible apply soundOut_ite | with_reducible apply sound_ite | split

theorem execBgeu_sound {s : State} (h : s.Sound) (i : Issue) (rs1 rs2 : SReg) (off : BitVec 16) : soundOut (execBgeu i
    rs1 rs2 off s) := by
  simp only [execBgeu]
  repeat'
    first
    | with_reducible assumption | with_reducible apply State.branch_sound
    | with_reducible refine fst_sound (by assumption) ?_ | rw [soundOut_next] | simp only [sound_upd, sound_updTil]
    | (intro _) | with_reducible apply soundOut_ite | with_reducible apply sound_ite | split

theorem execJal_sound {s : State} (h : s.Sound) (i : Issue) (rd : SReg) (off : BitVec 21) : soundOut (execJal i rd off
    s) := by
  simp only [execJal]
  repeat'
    first
    | with_reducible assumption | with_reducible apply State.issue_sound | with_reducible apply State.ws_sound
    | with_reducible refine fst_sound (by assumption) ?_ | rw [soundOut_next]
    | simp only [fate_retire, fate_jump, fate_trap, fate_trapAfter, fate_ecc, fate_wait]
    | simp only [sound_upd, sound_updTil] | (intro _) | with_reducible apply soundOut_ite
    | with_reducible apply sound_ite | split

theorem execJalr_sound {s : State} (h : s.Sound) (i : Issue) (rd rs1 : SReg) (imm : BitVec 16) : soundOut (execJalr i
    rd rs1 imm s) := by
  simp only [execJalr]
  repeat'
    first
    | with_reducible assumption | with_reducible apply State.issue_sound | with_reducible apply State.ws_sound
    | with_reducible refine fst_sound (by assumption) ?_ | rw [soundOut_next]
    | simp only [fate_retire, fate_jump, fate_trap, fate_trapAfter, fate_ecc, fate_wait]
    | simp only [sound_upd, sound_updTil] | (intro _) | with_reducible apply soundOut_ite
    | with_reducible apply sound_ite | split

end Sys2Proof.Machine
end

