-- ==== Sys2Proof/Laws/SoundSystem.lean ====
section
/-! SUPPORT. The operations of System.lean keep a state well kept. -/
namespace Sys2Proof.Machine
set_option linter.unusedTactic false
set_option linter.unreachableTactic false
set_option linter.unusedSimpArgs false
open Sys2Proof

theorem msendBody_sound {s : State} (h : s.Sound) (i : Issue) (rs1 rs2 rs3 : SReg) (weft any : Bool) : (msendBody i
    rs1 rs2 rs3 weft any s).sound := by
  simp only [msendBody]
  repeat'
    first
    | with_reducible assumption | with_reducible apply State.sendMsg_sound
    | with_reducible apply State.readLocal_sound | with_reducible refine fst_sound (by assumption) ?_
    | simp only [fate_retire, fate_jump, fate_trap, fate_trapAfter, fate_ecc, fate_wait]
    | simp only [sound_upd, sound_updTil] | (intro _) | with_reducible apply fate_ite
    | with_reducible apply sound_ite | split

theorem execMsend_sound {s : State} (h : s.Sound) (i : Issue) (rs1 rs2 rs3 : SReg) (weft anyRole : Bool) : soundOut
    (execMsend i rs1 rs2 rs3 weft anyRole s) := by
  simp only [execMsend]
  repeat'
    first
    | with_reducible assumption | with_reducible apply State.issue_sound | with_reducible apply msendBody_sound
    | with_reducible refine fst_sound (by assumption) ?_ | rw [soundOut_next]
    | simp only [fate_retire, fate_jump, fate_trap, fate_trapAfter, fate_ecc, fate_wait]
    | simp only [sound_upd, sound_updTil] | (intro _) | with_reducible apply soundOut_ite
    | with_reducible apply sound_ite | split

theorem execMsendBufferAccept_sound {s : State} (h : s.Sound) (i : Issue) : soundOut (execMsendBufferAccept i s) := by
  simp only [execMsendBufferAccept]
  refine State.retry_sound h i fun x b hx => ?_
  split at hx <;> cases hx
  repeat'
    first
    | with_reducible assumption | with_reducible apply msendBody_sound
    | with_reducible refine fst_sound (by assumption) ?_ | rw [soundOut_next] | simp only [sound_upd, sound_updTil]
    | (intro _) | with_reducible apply soundOut_ite | with_reducible apply sound_ite | split

theorem mrecvBody_sound {s : State} (h : s.Sound) (i : Issue) (rd rs1 : SReg) (filter : BitVec 2) (wait : Bool) :
    (mrecvBody i rd rs1 filter wait s).sound := by
  simp only [mrecvBody]
  repeat'
    first
    | with_reducible assumption | with_reducible apply State.setTile_sound | with_reducible apply State.ws_sound
    | with_reducible apply State.writeLocal_sound | simp only [tile_ok_mk, context_ok_mk, context_ok_new]
    | with_reducible apply Tile.s_ok | with_reducible apply Tile.w_ok | with_reducible apply State.tile_ok
    | with_reducible apply State.ctx_ok | with_reducible apply Tile.ctx_ok | with_reducible apply Tile.setCtx_ok
    | with_reducible apply Context.wr_ok | with_reducible apply Context.setVec_ok
    | with_reducible apply Context.setAcc_ok | with_reducible apply Context.next_ok
    | with_reducible exact True.intro | with_reducible apply And.intro
    | with_reducible refine fst_sound (by assumption) ?_
    | simp only [fate_retire, fate_jump, fate_trap, fate_trapAfter, fate_ecc, fate_wait]
    | simp only [sound_upd, sound_updTil] | (intro _) | with_reducible apply fate_ite
    | with_reducible apply sound_ite | split

theorem execMrecv_sound {s : State} (h : s.Sound) (i : Issue) (rd rs1 : SReg) (filter : BitVec 2) (wait : Bool) :
    soundOut (execMrecv i rd rs1 filter wait s) := by
  simp only [execMrecv]
  repeat'
    first
    | with_reducible assumption | with_reducible apply State.issue_sound | with_reducible apply mrecvBody_sound
    | with_reducible refine fst_sound (by assumption) ?_ | rw [soundOut_next]
    | simp only [fate_retire, fate_jump, fate_trap, fate_trapAfter, fate_ecc, fate_wait]
    | simp only [sound_upd, sound_updTil] | (intro _) | with_reducible apply soundOut_ite
    | with_reducible apply sound_ite | split

theorem execMrecvWaitTake_sound {s : State} (h : s.Sound) (i : Issue) : soundOut (execMrecvWaitTake i s) := by
  simp only [execMrecvWaitTake]
  refine State.retry_sound h i fun x b hx => ?_
  split at hx <;> cases hx
  repeat'
    first
    | with_reducible assumption | with_reducible apply mrecvBody_sound
    | with_reducible refine fst_sound (by assumption) ?_ | rw [soundOut_next] | simp only [sound_upd, sound_updTil]
    | (intro _) | with_reducible apply soundOut_ite | with_reducible apply sound_ite | split

theorem mretBody_sound {s : State} (h : s.Sound) (i : Issue) (rd rs1 : SReg) (wait : Bool) : (mretBody i rd rs1 wait
    s).sound := by
  simp only [mretBody]
  repeat'
    first
    | with_reducible assumption | with_reducible apply State.setTile_sound | with_reducible apply State.ws_sound
    | with_reducible apply State.writeLocal_sound | simp only [tile_ok_mk, context_ok_mk, context_ok_new]
    | with_reducible apply Tile.s_ok | with_reducible apply Tile.w_ok | with_reducible apply State.tile_ok
    | with_reducible apply State.ctx_ok | with_reducible apply Tile.ctx_ok | with_reducible apply Tile.setCtx_ok
    | with_reducible apply Context.wr_ok | with_reducible apply Context.setVec_ok
    | with_reducible apply Context.setAcc_ok | with_reducible apply Context.next_ok
    | with_reducible exact True.intro | with_reducible apply And.intro
    | with_reducible refine fst_sound (by assumption) ?_
    | simp only [fate_retire, fate_jump, fate_trap, fate_trapAfter, fate_ecc, fate_wait]
    | simp only [sound_upd, sound_updTil] | (intro _) | with_reducible apply fate_ite
    | with_reducible apply sound_ite | split

theorem execMret_sound {s : State} (h : s.Sound) (i : Issue) (rd rs1 : SReg) (wait : Bool) : soundOut (execMret i rd
    rs1 wait s) := by
  simp only [execMret]
  repeat'
    first
    | with_reducible assumption | with_reducible apply State.issue_sound | with_reducible apply mretBody_sound
    | with_reducible refine fst_sound (by assumption) ?_ | rw [soundOut_next]
    | simp only [fate_retire, fate_jump, fate_trap, fate_trapAfter, fate_ecc, fate_wait]
    | simp only [sound_upd, sound_updTil] | (intro _) | with_reducible apply soundOut_ite
    | with_reducible apply sound_ite | split

theorem execMretWaitTake_sound {s : State} (h : s.Sound) (i : Issue) : soundOut (execMretWaitTake i s) := by
  simp only [execMretWaitTake]
  refine State.retry_sound h i fun x b hx => ?_
  split at hx <;> cases hx
  repeat'
    first
    | with_reducible assumption | with_reducible apply mretBody_sound
    | with_reducible refine fst_sound (by assumption) ?_ | rw [soundOut_next] | simp only [sound_upd, sound_updTil]
    | (intro _) | with_reducible apply soundOut_ite | with_reducible apply sound_ite | split

theorem skissBody_sound {s : State} (h : s.Sound) (i : Issue) (rd rs1 : SReg) : (skissBody i rd rs1 s).sound := by
  simp only [skissBody]
  repeat'
    first
    | with_reducible assumption | with_reducible apply State.readLocal_sound | with_reducible apply State.ws_sound
    | with_reducible apply State.bump_sound | with_reducible apply State.upd_sound
    | with_reducible apply State.setSkein_sound | with_reducible apply State.traceSkein_sound
    | with_reducible apply State.raise_sound | with_reducible apply State.setReg_sound
    | with_reducible apply State.skeinDone_sound | simp only [tile_ok_mk, context_ok_mk, context_ok_new]
    | with_reducible apply Tile.s_ok | with_reducible apply Tile.w_ok | with_reducible apply State.tile_ok
    | with_reducible apply State.ctx_ok | with_reducible apply Tile.ctx_ok | with_reducible apply Tile.setCtx_ok
    | with_reducible apply Context.wr_ok | with_reducible apply Context.setVec_ok
    | with_reducible apply Context.setAcc_ok | with_reducible apply Context.next_ok
    | with_reducible exact True.intro | with_reducible apply And.intro
    | with_reducible refine fst_sound (by assumption) ?_
    | simp only [fate_retire, fate_jump, fate_trap, fate_trapAfter, fate_ecc, fate_wait]
    | simp only [sound_upd, sound_updTil] | (intro _) | with_reducible apply fate_ite
    | with_reducible apply sound_ite | split

theorem execSkiss_sound {s : State} (h : s.Sound) (i : Issue) (rd rs1 : SReg) : soundOut (execSkiss i rd rs1 s) := by
  simp only [execSkiss]
  repeat'
    first
    | with_reducible assumption | with_reducible apply State.issue_sound | with_reducible apply skissBody_sound
    | with_reducible refine fst_sound (by assumption) ?_ | rw [soundOut_next]
    | simp only [fate_retire, fate_jump, fate_trap, fate_trapAfter, fate_ecc, fate_wait]
    | simp only [sound_upd, sound_updTil] | (intro _) | with_reducible apply soundOut_ite
    | with_reducible apply sound_ite | split

theorem execSkissHandleWait_sound {s : State} (h : s.Sound) (i : Issue) : soundOut (execSkissHandleWait i s) := by
  simp only [execSkissHandleWait]
  refine State.retry_sound h i fun x b hx => ?_
  split at hx <;> cases hx
  repeat'
    first
    | with_reducible assumption | with_reducible apply skissBody_sound
    | with_reducible refine fst_sound (by assumption) ?_ | rw [soundOut_next] | simp only [sound_upd, sound_updTil]
    | (intro _) | with_reducible apply soundOut_ite | with_reducible apply sound_ite | split

theorem skwaitBody_sound {s : State} (h : s.Sound) (i : Issue) (rd rs1 : SReg) (wait : Option Instr) : (skwaitBody i
    rd rs1 wait s).sound := by
  simp only [skwaitBody]
  repeat'
    first
    | with_reducible assumption | with_reducible apply State.ws_sound | with_reducible apply State.freeHandle_sound
    | with_reducible refine fst_sound (by assumption) ?_
    | simp only [fate_retire, fate_jump, fate_trap, fate_trapAfter, fate_ecc, fate_wait]
    | simp only [sound_upd, sound_updTil] | (intro _) | with_reducible apply fate_ite
    | with_reducible apply sound_ite | split

theorem execSkwait_sound {s : State} (h : s.Sound) (i : Issue) (rd rs1 : SReg) : soundOut (execSkwait i rd rs1 s) :=
    by
  simp only [execSkwait]
  repeat'
    first
    | with_reducible assumption | with_reducible apply State.issue_sound | with_reducible apply skwaitBody_sound
    | with_reducible refine fst_sound (by assumption) ?_ | rw [soundOut_next]
    | simp only [fate_retire, fate_jump, fate_trap, fate_trapAfter, fate_ecc, fate_wait]
    | simp only [sound_upd, sound_updTil] | (intro _) | with_reducible apply soundOut_ite
    | with_reducible apply sound_ite | split

theorem execSkwaitComplete_sound {s : State} (h : s.Sound) (i : Issue) : soundOut (execSkwaitComplete i s) := by
  simp only [execSkwaitComplete]
  refine State.retry_sound h i fun x b hx => ?_
  split at hx <;> cases hx
  repeat'
    first
    | with_reducible assumption | with_reducible apply skwaitBody_sound
    | with_reducible refine fst_sound (by assumption) ?_ | rw [soundOut_next] | simp only [sound_upd, sound_updTil]
    | (intro _) | with_reducible apply soundOut_ite | with_reducible apply sound_ite | split

theorem execSkstat_sound {s : State} (h : s.Sound) (i : Issue) (rd rs1 : SReg) : soundOut (execSkstat i rd rs1 s) :=
    by
  simp only [execSkstat]
  repeat'
    first
    | with_reducible assumption | with_reducible apply State.issue_sound | with_reducible apply skwaitBody_sound
    | with_reducible refine fst_sound (by assumption) ?_ | rw [soundOut_next]
    | simp only [fate_retire, fate_jump, fate_trap, fate_trapAfter, fate_ecc, fate_wait]
    | simp only [sound_upd, sound_updTil] | (intro _) | with_reducible apply soundOut_ite
    | with_reducible apply sound_ite | split

theorem execChtake_sound {s : State} (h : s.Sound) (i : Issue) (rd rs1 rs2 : SReg) : soundOut (execChtake i rd rs1 rs2
    s) := by
  simp only [execChtake]
  repeat'
    first
    | with_reducible assumption | with_reducible apply State.issue_sound | with_reducible apply chtakeBody_sound
    | with_reducible refine fst_sound (by assumption) ?_ | rw [soundOut_next]
    | simp only [fate_retire, fate_jump, fate_trap, fate_trapAfter, fate_ecc, fate_wait]
    | simp only [sound_upd, sound_updTil] | (intro _) | with_reducible apply soundOut_ite
    | with_reducible apply sound_ite | split

theorem execChtakew_sound {s : State} (h : s.Sound) (i : Issue) (rd rs1 rs2 : SReg) : soundOut (execChtakew i rd rs1
    rs2 s) := by
  simp only [execChtakew]
  repeat'
    first
    | with_reducible assumption | with_reducible apply State.issue_sound | with_reducible apply chtakeBody_sound
    | with_reducible refine fst_sound (by assumption) ?_ | rw [soundOut_next]
    | simp only [fate_retire, fate_jump, fate_trap, fate_trapAfter, fate_ecc, fate_wait]
    | simp only [sound_upd, sound_updTil] | (intro _) | with_reducible apply soundOut_ite
    | with_reducible apply sound_ite | split

theorem execChtakewWaitTake_sound {s : State} (h : s.Sound) (i : Issue) : soundOut (execChtakewWaitTake i s) := by
  simp only [execChtakewWaitTake]
  refine State.retry_sound h i fun x b hx => ?_
  split at hx <;> cases hx
  repeat'
    first
    | with_reducible assumption | with_reducible apply chtakeBody_sound
    | with_reducible refine fst_sound (by assumption) ?_ | rw [soundOut_next] | simp only [sound_upd, sound_updTil]
    | (intro _) | with_reducible apply soundOut_ite | with_reducible apply sound_ite | split

theorem State.checkOp_sound {s : State} (h : s.Sound) (i : Issue) (f : Context → CheckImg) : soundOut (State.checkOp s
    i f) := by
  simp only [State.checkOp]
  repeat'
    first
    | with_reducible assumption | with_reducible apply State.issue_sound | with_reducible apply State.upd_sound
    | simp only [tile_ok_mk, context_ok_mk, context_ok_new] | with_reducible apply Tile.s_ok
    | with_reducible apply Tile.w_ok | with_reducible apply State.tile_ok | with_reducible apply State.ctx_ok
    | with_reducible apply Tile.ctx_ok | with_reducible apply Tile.setCtx_ok | with_reducible apply Context.wr_ok
    | with_reducible apply Context.setVec_ok | with_reducible apply Context.setAcc_ok
    | with_reducible apply Context.next_ok | with_reducible exact True.intro | with_reducible apply And.intro
    | with_reducible refine fst_sound (by assumption) ?_ | rw [soundOut_next]
    | simp only [fate_retire, fate_jump, fate_trap, fate_trapAfter, fate_ecc, fate_wait]
    | simp only [sound_upd, sound_updTil] | (intro _) | with_reducible apply soundOut_ite
    | with_reducible apply sound_ite | split

theorem execCvfb_sound {s : State} (h : s.Sound) (i : Issue) (rs1 : SReg) : soundOut (execCvfb i rs1 s) := by
  simp only [execCvfb]
  repeat'
    first
    | with_reducible assumption | with_reducible apply State.checkOp_sound
    | simp only [tile_ok_mk, context_ok_mk, context_ok_new] | with_reducible apply Tile.s_ok
    | with_reducible apply Tile.w_ok | with_reducible apply State.tile_ok | with_reducible apply State.ctx_ok
    | with_reducible apply Tile.ctx_ok | with_reducible apply Tile.setCtx_ok | with_reducible apply Context.wr_ok
    | with_reducible apply Context.setVec_ok | with_reducible apply Context.setAcc_ok
    | with_reducible apply Context.next_ok | with_reducible exact True.intro | with_reducible apply And.intro
    | with_reducible refine fst_sound (by assumption) ?_ | rw [soundOut_next]
    | simp only [fate_retire, fate_jump, fate_trap, fate_trapAfter, fate_ecc, fate_wait]
    | simp only [sound_upd, sound_updTil] | (intro _) | with_reducible apply soundOut_ite
    | with_reducible apply sound_ite | split

theorem execCvfh_sound {s : State} (h : s.Sound) (i : Issue) (rs1 : SReg) : soundOut (execCvfh i rs1 s) := by
  simp only [execCvfh]
  repeat'
    first
    | with_reducible assumption | with_reducible apply State.checkOp_sound
    | simp only [tile_ok_mk, context_ok_mk, context_ok_new] | with_reducible apply Tile.s_ok
    | with_reducible apply Tile.w_ok | with_reducible apply State.tile_ok | with_reducible apply State.ctx_ok
    | with_reducible apply Tile.ctx_ok | with_reducible apply Tile.setCtx_ok | with_reducible apply Context.wr_ok
    | with_reducible apply Context.setVec_ok | with_reducible apply Context.setAcc_ok
    | with_reducible apply Context.next_ok | with_reducible exact True.intro | with_reducible apply And.intro
    | with_reducible refine fst_sound (by assumption) ?_ | rw [soundOut_next]
    | simp only [fate_retire, fate_jump, fate_trap, fate_trapAfter, fate_ecc, fate_wait]
    | simp only [sound_upd, sound_updTil] | (intro _) | with_reducible apply soundOut_ite
    | with_reducible apply sound_ite | split

theorem execCvfw_sound {s : State} (h : s.Sound) (i : Issue) (rs1 : SReg) : soundOut (execCvfw i rs1 s) := by
  simp only [execCvfw]
  repeat'
    first
    | with_reducible assumption | with_reducible apply State.checkOp_sound
    | simp only [tile_ok_mk, context_ok_mk, context_ok_new] | with_reducible apply Tile.s_ok
    | with_reducible apply Tile.w_ok | with_reducible apply State.tile_ok | with_reducible apply State.ctx_ok
    | with_reducible apply Tile.ctx_ok | with_reducible apply Tile.setCtx_ok | with_reducible apply Context.wr_ok
    | with_reducible apply Context.setVec_ok | with_reducible apply Context.setAcc_ok
    | with_reducible apply Context.next_ok | with_reducible exact True.intro | with_reducible apply And.intro
    | with_reducible refine fst_sound (by assumption) ?_ | rw [soundOut_next]
    | simp only [fate_retire, fate_jump, fate_trap, fate_trapAfter, fate_ecc, fate_wait]
    | simp only [sound_upd, sound_updTil] | (intro _) | with_reducible apply soundOut_ite
    | with_reducible apply sound_ite | split

theorem execCvrst_sound {s : State} (h : s.Sound) (i : Issue) : soundOut (execCvrst i s) := by
  simp only [execCvrst]
  repeat'
    first
    | with_reducible assumption | with_reducible apply State.checkOp_sound
    | simp only [tile_ok_mk, context_ok_mk, context_ok_new] | with_reducible apply Tile.s_ok
    | with_reducible apply Tile.w_ok | with_reducible apply State.tile_ok | with_reducible apply State.ctx_ok
    | with_reducible apply Tile.ctx_ok | with_reducible apply Tile.setCtx_ok | with_reducible apply Context.wr_ok
    | with_reducible apply Context.setVec_ok | with_reducible apply Context.setAcc_ok
    | with_reducible apply Context.next_ok | with_reducible exact True.intro | with_reducible apply And.intro
    | with_reducible refine fst_sound (by assumption) ?_ | rw [soundOut_next]
    | simp only [fate_retire, fate_jump, fate_trap, fate_trapAfter, fate_ecc, fate_wait]
    | simp only [sound_upd, sound_updTil] | (intro _) | with_reducible apply soundOut_ite
    | with_reducible apply sound_ite | split

theorem execCvrd_sound {s : State} (h : s.Sound) (i : Issue) (rd : SReg) : soundOut (execCvrd i rd s) := by
  simp only [execCvrd]
  repeat'
    first
    | with_reducible assumption | with_reducible apply State.issue_sound | with_reducible apply State.ws_sound
    | with_reducible refine fst_sound (by assumption) ?_ | rw [soundOut_next]
    | simp only [fate_retire, fate_jump, fate_trap, fate_trapAfter, fate_ecc, fate_wait]
    | simp only [sound_upd, sound_updTil] | (intro _) | with_reducible apply soundOut_ite
    | with_reducible apply sound_ite | split

theorem execCvwr_sound {s : State} (h : s.Sound) (i : Issue) (rs1 : SReg) : soundOut (execCvwr i rs1 s) := by
  simp only [execCvwr]
  repeat'
    first
    | with_reducible assumption | with_reducible apply State.checkOp_sound
    | simp only [tile_ok_mk, context_ok_mk, context_ok_new] | with_reducible apply Tile.s_ok
    | with_reducible apply Tile.w_ok | with_reducible apply State.tile_ok | with_reducible apply State.ctx_ok
    | with_reducible apply Tile.ctx_ok | with_reducible apply Tile.setCtx_ok | with_reducible apply Context.wr_ok
    | with_reducible apply Context.setVec_ok | with_reducible apply Context.setAcc_ok
    | with_reducible apply Context.next_ok | with_reducible exact True.intro | with_reducible apply And.intro
    | with_reducible refine fst_sound (by assumption) ?_ | rw [soundOut_next]
    | simp only [fate_retire, fate_jump, fate_trap, fate_trapAfter, fate_ecc, fate_wait]
    | simp only [sound_upd, sound_updTil] | (intro _) | with_reducible apply soundOut_ite
    | with_reducible apply sound_ite | split

theorem execCvfin_sound {s : State} (h : s.Sound) (i : Issue) (rd : SReg) : soundOut (execCvfin i rd s) := by
  simp only [execCvfin]
  repeat'
    first
    | with_reducible assumption | with_reducible apply State.issue_sound | with_reducible apply State.ws_sound
    | with_reducible refine fst_sound (by assumption) ?_ | rw [soundOut_next]
    | simp only [fate_retire, fate_jump, fate_trap, fate_trapAfter, fate_ecc, fate_wait]
    | simp only [sound_upd, sound_updTil] | (intro _) | with_reducible apply soundOut_ite
    | with_reducible apply sound_ite | split

theorem execCvcmp_sound {s : State} (h : s.Sound) (i : Issue) (rd rs1 : SReg) : soundOut (execCvcmp i rd rs1 s) := by
  simp only [execCvcmp]
  repeat'
    first
    | with_reducible assumption | with_reducible apply State.issue_sound | with_reducible apply State.ws_sound
    | with_reducible apply State.raise_sound | with_reducible apply State.bump_sound
    | with_reducible refine fst_sound (by assumption) ?_ | rw [soundOut_next]
    | simp only [fate_retire, fate_jump, fate_trap, fate_trapAfter, fate_ecc, fate_wait]
    | simp only [sound_upd, sound_updTil] | (intro _) | with_reducible apply soundOut_ite
    | with_reducible apply sound_ite | split

theorem execCvset_sound {s : State} (h : s.Sound) (i : Issue) (rs1 rs2 : SReg) : soundOut (execCvset i rs1 rs2 s) :=
    by
  simp only [execCvset]
  repeat'
    first
    | with_reducible assumption | with_reducible apply State.issue_sound | with_reducible apply State.upd_sound
    | simp only [tile_ok_mk, context_ok_mk, context_ok_new] | with_reducible apply Tile.s_ok
    | with_reducible apply Tile.w_ok | with_reducible apply State.tile_ok | with_reducible apply State.ctx_ok
    | with_reducible apply Tile.ctx_ok | with_reducible apply Tile.setCtx_ok | with_reducible apply Context.wr_ok
    | with_reducible apply Context.setVec_ok | with_reducible apply Context.setAcc_ok
    | with_reducible apply Context.next_ok | with_reducible exact True.intro | with_reducible apply And.intro
    | with_reducible refine fst_sound (by assumption) ?_ | rw [soundOut_next]
    | simp only [fate_retire, fate_jump, fate_trap, fate_trapAfter, fate_ecc, fate_wait]
    | simp only [sound_upd, sound_updTil] | (intro _) | with_reducible apply soundOut_ite
    | with_reducible apply sound_ite | split

theorem execYield_sound {s : State} (h : s.Sound) (i : Issue) : soundOut (execYield i s) := by
  simp only [execYield]
  repeat'
    first
    | with_reducible assumption | with_reducible apply State.issue_sound | with_reducible apply State.trace_sound
    | with_reducible apply State.upd_sound | simp only [tile_ok_mk, context_ok_mk, context_ok_new]
    | with_reducible apply Tile.s_ok | with_reducible apply Tile.w_ok | with_reducible apply State.tile_ok
    | with_reducible apply State.ctx_ok | with_reducible apply Tile.ctx_ok | with_reducible apply Tile.setCtx_ok
    | with_reducible apply Context.wr_ok | with_reducible apply Context.setVec_ok
    | with_reducible apply Context.setAcc_ok | with_reducible apply Context.next_ok
    | with_reducible exact True.intro | with_reducible apply And.intro
    | with_reducible refine fst_sound (by assumption) ?_ | rw [soundOut_next]
    | simp only [fate_retire, fate_jump, fate_trap, fate_trapAfter, fate_ecc, fate_wait]
    | simp only [sound_upd, sound_updTil] | (intro _) | with_reducible apply soundOut_ite
    | with_reducible apply sound_ite | split

theorem waitcBody_sound {s : State} (h : s.Sound) (i : Issue) (rs1 : SReg) : (waitcBody i rs1 s).sound := by
  simp only [waitcBody]
  repeat'
    first
    | with_reducible assumption | with_reducible refine fst_sound (by assumption) ?_
    | simp only [fate_retire, fate_jump, fate_trap, fate_trapAfter, fate_ecc, fate_wait]
    | simp only [sound_upd, sound_updTil] | (intro _) | with_reducible apply fate_ite
    | with_reducible apply sound_ite | split

theorem execWaitc_sound {s : State} (h : s.Sound) (i : Issue) (rs1 : SReg) : soundOut (execWaitc i rs1 s) := by
  simp only [execWaitc]
  repeat'
    first
    | with_reducible assumption | with_reducible apply State.issue_sound | with_reducible apply waitcBody_sound
    | with_reducible refine fst_sound (by assumption) ?_ | rw [soundOut_next]
    | simp only [fate_retire, fate_jump, fate_trap, fate_trapAfter, fate_ecc, fate_wait]
    | simp only [sound_upd, sound_updTil] | (intro _) | with_reducible apply soundOut_ite
    | with_reducible apply sound_ite | split

theorem execWaitcRetire_sound {s : State} (h : s.Sound) (i : Issue) : soundOut (execWaitcRetire i s) := by
  simp only [execWaitcRetire]
  refine State.retry_sound h i fun x b hx => ?_
  split at hx <;> cases hx
  repeat'
    first
    | with_reducible assumption | with_reducible apply waitcBody_sound
    | with_reducible refine fst_sound (by assumption) ?_ | rw [soundOut_next] | simp only [sound_upd, sound_updTil]
    | (intro _) | with_reducible apply soundOut_ite | with_reducible apply sound_ite | split

theorem execRdyset_sound {s : State} (h : s.Sound) (i : Issue) (rs1 : SReg) : soundOut (execRdyset i rs1 s) := by
  simp only [execRdyset]
  repeat'
    first
    | with_reducible assumption | with_reducible apply State.issue_sound
    | with_reducible apply State.setReady_sound | with_reducible refine fst_sound (by assumption) ?_
    | rw [soundOut_next] | simp only [fate_retire, fate_jump, fate_trap, fate_trapAfter, fate_ecc, fate_wait]
    | simp only [sound_upd, sound_updTil] | (intro _) | with_reducible apply soundOut_ite
    | with_reducible apply sound_ite | split

theorem execRdytst_sound {s : State} (h : s.Sound) (i : Issue) (rd rs1 : SReg) : soundOut (execRdytst i rd rs1 s) :=
    by
  simp only [execRdytst]
  repeat'
    first
    | with_reducible assumption | with_reducible apply State.issue_sound | with_reducible apply State.ws_sound
    | with_reducible refine fst_sound (by assumption) ?_ | rw [soundOut_next]
    | simp only [fate_retire, fate_jump, fate_trap, fate_trapAfter, fate_ecc, fate_wait]
    | simp only [sound_upd, sound_updTil] | (intro _) | with_reducible apply soundOut_ite
    | with_reducible apply sound_ite | split

theorem execMfs_sound {s : State} (h : s.Sound) (i : Issue) (rd : SReg) (n : BitVec 8) : soundOut (execMfs i rd n s)
    := by
  simp only [execMfs]
  repeat'
    first
    | with_reducible assumption | with_reducible apply State.issue_sound | with_reducible apply State.ws_sound
    | with_reducible refine fst_sound (by assumption) ?_ | rw [soundOut_next]
    | simp only [fate_retire, fate_jump, fate_trap, fate_trapAfter, fate_ecc, fate_wait]
    | simp only [sound_upd, sound_updTil] | (intro _) | with_reducible apply soundOut_ite
    | with_reducible apply sound_ite | split

theorem execMts_sound {s : State} (h : s.Sound) (i : Issue) (rs1 : SReg) (n : BitVec 8) : soundOut (execMts i rs1 n s)
    := by
  simp only [execMts]
  repeat'
    first
    | with_reducible assumption | with_reducible apply State.issue_sound | with_reducible apply State.upd_sound
    | with_reducible apply State.setTile_sound | simp only [tile_ok_mk, context_ok_mk, context_ok_new]
    | with_reducible apply Tile.s_ok | with_reducible apply Tile.w_ok | with_reducible apply State.tile_ok
    | with_reducible apply State.ctx_ok | with_reducible apply Tile.ctx_ok | with_reducible apply Tile.setCtx_ok
    | with_reducible apply Context.wr_ok | with_reducible apply Context.setVec_ok
    | with_reducible apply Context.setAcc_ok | with_reducible apply Context.next_ok
    | with_reducible exact True.intro | with_reducible apply And.intro
    | with_reducible refine fst_sound (by assumption) ?_ | rw [soundOut_next]
    | simp only [fate_retire, fate_jump, fate_trap, fate_trapAfter, fate_ecc, fate_wait]
    | simp only [sound_upd, sound_updTil] | (intro _) | with_reducible apply soundOut_ite
    | with_reducible apply sound_ite | split

theorem execEret_sound {s : State} (h : s.Sound) (i : Issue) : soundOut (execEret i s) := by
  simp only [execEret]
  repeat'
    first
    | with_reducible assumption | with_reducible apply State.issue_sound | with_reducible apply State.upd_sound
    | simp only [tile_ok_mk, context_ok_mk, context_ok_new] | with_reducible apply Tile.s_ok
    | with_reducible apply Tile.w_ok | with_reducible apply State.tile_ok | with_reducible apply State.ctx_ok
    | with_reducible apply Tile.ctx_ok | with_reducible apply Tile.setCtx_ok | with_reducible apply Context.wr_ok
    | with_reducible apply Context.setVec_ok | with_reducible apply Context.setAcc_ok
    | with_reducible apply Context.next_ok | with_reducible exact True.intro | with_reducible apply And.intro
    | with_reducible refine fst_sound (by assumption) ?_ | rw [soundOut_next]
    | simp only [fate_retire, fate_jump, fate_trap, fate_trapAfter, fate_ecc, fate_wait]
    | simp only [sound_upd, sound_updTil] | (intro _) | with_reducible apply soundOut_ite
    | with_reducible apply sound_ite | split

theorem execTrap_sound {s : State} (h : s.Sound) (i : Issue) (code : BitVec 8) : soundOut (execTrap i code s) := by
  simp only [execTrap]
  repeat'
    first
    | with_reducible assumption | with_reducible apply State.issue_sound
    | with_reducible refine fst_sound (by assumption) ?_ | rw [soundOut_next]
    | simp only [fate_retire, fate_jump, fate_trap, fate_trapAfter, fate_ecc, fate_wait]
    | simp only [sound_upd, sound_updTil] | (intro _) | with_reducible apply soundOut_ite
    | with_reducible apply sound_ite | split

theorem execReservedEncodingIssue_sound {s : State} (h : s.Sound) (i : Issue) (word : BitVec 32) : soundOut
    (execReservedEncodingIssue i word s) := by
  simp only [execReservedEncodingIssue]
  repeat'
    first
    | with_reducible assumption | with_reducible apply State.issue_sound
    | with_reducible refine fst_sound (by assumption) ?_ | rw [soundOut_next]
    | simp only [fate_retire, fate_jump, fate_trap, fate_trapAfter, fate_ecc, fate_wait]
    | simp only [sound_upd, sound_updTil] | (intro _) | with_reducible apply soundOut_ite
    | with_reducible apply sound_ite | split

end Sys2Proof.Machine
end

