-- ==== Sys2Proof/Laws/SoundTransport.lean ====
section
/-! SUPPORT. The operations of Transport.lean keep a state well kept. -/
namespace Sys2Proof.Machine
set_option linter.unusedTactic false
set_option linter.unreachableTactic false
set_option linter.unusedSimpArgs false
open Sys2Proof

theorem State.setQp_sound {s : State} (h : s.Sound) (n : Nat) (x : Qp) : (State.setQp s n x).Sound := by
  simp only [State.setQp]
  repeat'
    first
    | with_reducible assumption | with_reducible refine fst_sound (by assumption) ?_
    | simp only [sound_upd, sound_updTil] | (intro _) | with_reducible apply sound_ite | split

theorem State.setRate_sound {s : State} (h : s.Sound) (x : Qp) (r : Nat) : (State.setRate s x r).1.Sound := by
  simp only [State.setRate]
  repeat'
    first
    | with_reducible assumption | with_reducible apply State.raiseIf_sound
    | with_reducible refine fst_sound (by assumption) ?_ | simp only [sound_upd, sound_updTil] | (intro _)
    | with_reducible apply sound_ite | split

theorem State.pushOwn_sound {s : State} (h : s.Sound) (n : Nat) (x : Qp) (path : Nat) (p : TPkt) : (State.pushOwn s n
    x path p).Sound := by
  simp only [State.pushOwn]
  repeat'
    first
    | with_reducible assumption | with_reducible apply State.setQp_sound | with_reducible apply State.enqueue_sound
    | with_reducible refine fst_sound (by assumption) ?_ | simp only [sound_upd, sound_updTil] | (intro _)
    | with_reducible apply sound_ite | split

theorem State.sendCtl_sound {s : State} (h : s.Sound) (n : Nat) (p : TPkt) : (State.sendCtl s n p).Sound := by
  simp only [State.sendCtl]
  repeat'
    first
    | with_reducible assumption | with_reducible apply State.pushOwn_sound | with_reducible apply State.raise_sound
    | with_reducible apply State.setQp_sound | with_reducible refine fst_sound (by assumption) ?_
    | simp only [sound_upd, sound_updTil] | (intro _) | with_reducible apply sound_ite | split

theorem State.sendAck_sound {s : State} (h : s.Sound) (n psn hi ts : Nat) : (State.sendAck s n psn hi ts).Sound := by
  simp only [State.sendAck]
  repeat'
    first
    | with_reducible assumption | with_reducible apply State.sendCtl_sound | with_reducible apply State.setQp_sound
    | with_reducible refine fst_sound (by assumption) ?_ | simp only [sound_upd, sound_updTil] | (intro _)
    | with_reducible apply sound_ite | split

theorem State.sendNak_sound {s : State} (h : s.Sound) (n code : Nat) (p : TPkt) : (State.sendNak s n code p).Sound :=
    by
  simp only [State.sendNak]
  repeat'
    first
    | with_reducible assumption | with_reducible apply State.raise_sound | with_reducible apply State.bump_sound
    | with_reducible apply State.sendCtl_sound | with_reducible refine fst_sound (by assumption) ?_
    | simp only [sound_upd, sound_updTil] | (intro _) | with_reducible apply sound_ite | split

theorem State.traceQp_sound {s : State} (h : s.Sound) (kind n : Nat) (r : Req) (st : Nat) : (State.traceQp s kind n r
    st).Sound := by
  simp only [State.traceQp]
  repeat'
    first
    | with_reducible assumption | with_reducible apply State.traceBy_sound
    | with_reducible refine fst_sound (by assumption) ?_ | simp only [sound_upd, sound_updTil] | (intro _)
    | with_reducible apply sound_ite | split

theorem State.settleReqs_sound {s : State} (h : s.Sound) (n x2 : Nat) : (State.settleReqs s n x2).Sound := by
  induction x2 generalizing s with
  | zero => exact h
  | succ x2 ih =>
    simp only [State.settleReqs]
    repeat'
      first
      | with_reducible assumption | with_reducible apply ih | with_reducible apply State.raiseIf_sound
      | with_reducible apply State.complete_sound | with_reducible apply State.setQp_sound
      | with_reducible apply State.traceQp_sound | with_reducible refine fst_sound (by assumption) ?_
      | simp only [sound_upd, sound_updTil] | (intro _) | with_reducible apply sound_ite | split

theorem State.purgeOwn_sound {s : State} (h : s.Sound) (n : Nat) : (State.purgeOwn s n).Sound := by
  simp only [State.purgeOwn]
  repeat'
    first
    | with_reducible assumption | with_reducible refine fst_sound (by assumption) ?_
    | simp only [sound_upd, sound_updTil] | (intro _) | with_reducible apply sound_ite | split

theorem State.flushReqs_sound {s : State} (h : s.Sound) (n : Nat) (x : Qp) (named : Option Req) (st : Nat) :
    (State.flushReqs s n x named st).Sound := by
  simp only [State.flushReqs]
  repeat'
    first
    | with_reducible assumption | with_reducible apply State.traceQp_sound
    | with_reducible apply State.complete_sound | with_reducible refine fst_sound (by assumption) ?_
    | with_reducible apply sound_foldl | with_reducible apply sound_foldl_fst | simp only [sound_upd, sound_updTil]
    | (intro _) | with_reducible apply sound_ite | split

theorem State.dropWaiters_sound {s : State} (h : s.Sound) (n : Nat) (sel : Nat → Bool) : (State.dropWaiters s n
    sel).Sound := by
  simp only [State.dropWaiters]
  repeat'
    first
    | with_reducible assumption | with_reducible refine fst_sound (by assumption) ?_
    | simp only [sound_upd, sound_updTil] | (intro _) | with_reducible apply sound_ite | split

theorem State.qpFail_sound {s : State} (h : s.Sound) (n psn st : Nat) : (State.qpFail s n psn st).Sound := by
  simp only [State.qpFail]
  repeat'
    first
    | with_reducible assumption | with_reducible apply State.purgeOwn_sound
    | with_reducible apply State.flushReqs_sound | with_reducible apply State.dropWaiters_sound
    | with_reducible apply State.raise_sound | with_reducible apply State.setQp_sound
    | with_reducible apply State.colEarlyEnd_sound | with_reducible refine fst_sound (by assumption) ?_
    | simp only [sound_upd, sound_updTil] | (intro _) | with_reducible apply sound_ite | split

theorem State.freeHeld_sound {s : State} (h : s.Sound) (x : Qp) : (State.freeHeld s x).Sound := by
  simp only [State.freeHeld]
  repeat'
    first
    | with_reducible assumption | with_reducible apply State.srbFree_sound
    | with_reducible refine fst_sound (by assumption) ?_ | with_reducible apply sound_foldl
    | with_reducible apply sound_foldl_fst | simp only [sound_upd, sound_updTil] | (intro _)
    | with_reducible apply sound_ite | split

theorem State.qpReset_sound {s : State} (h : s.Sound) (n st : Nat) : (State.qpReset s n st).Sound := by
  simp only [State.qpReset]
  repeat'
    first
    | with_reducible assumption | with_reducible apply State.freeHeld_sound
    | with_reducible apply State.purgeOwn_sound | with_reducible apply State.complete_sound
    | with_reducible apply State.dropWaiters_sound | with_reducible apply State.setQp_sound
    | with_reducible apply State.colEarlyEnd_sound | with_reducible refine fst_sound (by assumption) ?_
    | with_reducible apply sound_foldl | with_reducible apply sound_foldl_fst | simp only [sound_upd, sound_updTil]
    | (intro _) | with_reducible apply sound_ite | split

theorem State.sample_sound {s : State} (h : s.Sound) (n psn echo : Nat) : (State.sample s n psn echo).Sound := by
  simp only [State.sample]
  repeat'
    first
    | with_reducible assumption | with_reducible apply State.setQp_sound
    | with_reducible refine fst_sound (by assumption) ?_ | simp only [sound_upd, sound_updTil] | (intro _)
    | with_reducible apply sound_ite | split

theorem State.ackPsns_sound {s : State} (h : s.Sound) (n : Nat) (l : List Nat) : (State.ackPsns s n l).Sound := by
  simp only [State.ackPsns]
  repeat'
    first
    | with_reducible assumption | with_reducible apply State.settleReqs_sound
    | with_reducible apply State.setQp_sound | with_reducible refine fst_sound (by assumption) ?_
    | simp only [sound_upd, sound_updTil] | (intro _) | with_reducible apply sound_ite | split

theorem State.qpRead_sound {s : State} (h : s.Sound) (n psn asid va m : Nat) : (State.qpRead s n psn asid va m).1.Sound := by
  simp only [State.qpRead]
  repeat'
    first
    | with_reducible assumption | with_reducible apply State.translate_sound
    | with_reducible apply State.read_sound | with_reducible refine fst_sound (by assumption) ?_
    | with_reducible apply sound_foldl | with_reducible apply sound_foldl_fst | simp only [sound_upd, sound_updTil]
    | (intro _) | with_reducible apply sound_ite | split

theorem State.pieces_sound {s : State} (h : s.Sound) (i asid va m : Nat) (wr : Bool) (who : Waiter) : (State.pieces s
    i asid va m wr who).1.Sound := by
  simp only [State.pieces]
  repeat'
    first
    | with_reducible assumption | with_reducible apply State.translate_sound
    | with_reducible refine fst_sound (by assumption) ?_ | with_reducible apply sound_foldl
    | with_reducible apply sound_foldl_fst | simp only [sound_upd, sound_updTil] | (intro _)
    | with_reducible apply sound_ite | split

theorem State.setRegion_sound {s : State} (h : s.Sound) (i idx : Nat) (r : Region) : (State.setRegion s i idx r).Sound
    := by
  simp only [State.setRegion]
  repeat'
    first
    | with_reducible assumption | with_reducible refine fst_sound (by assumption) ?_
    | simp only [sound_upd, sound_updTil] | (intro _) | with_reducible apply sound_ite | split

theorem State.refuse_sound {s : State} (h : s.Sound) (n psn : Nat) (p : TPkt) : (State.refuse s n psn p).Sound := by
  simp only [State.refuse]
  repeat'
    first
    | with_reducible assumption | with_reducible apply State.sendNak_sound | with_reducible apply State.setQp_sound
    | with_reducible refine fst_sound (by assumption) ?_ | simp only [sound_upd, sound_updTil] | (intro _)
    | with_reducible apply sound_ite | split

theorem State.place_sound {s : State} (h : s.Sound) (n id psn : Nat) (p : TPkt) : (State.place s n id psn p).Sound :=
    by
  simp only [State.place]
  repeat'
    first
    | with_reducible assumption | with_reducible apply State.srbFree_sound
    | with_reducible apply State.refuse_sound | with_reducible apply State.sendNak_sound
    | with_reducible apply State.pieces_sound | with_reducible apply State.setQp_sound
    | with_reducible apply State.setRegion_sound | with_reducible refine fst_sound (by assumption) ?_
    | simp only [sound_upd, sound_updTil] | (intro _) | with_reducible apply sound_ite | split

theorem State.serveRead_sound {s : State} (h : s.Sound) (n id psn : Nat) (new : Bool) (p : TPkt) : (State.serveRead s
    n id psn new p).Sound := by
  simp only [State.serveRead]
  repeat'
    first
    | with_reducible assumption | with_reducible apply State.srbFree_sound
    | with_reducible apply State.refuse_sound | with_reducible apply State.sendNak_sound
    | with_reducible apply State.pieces_sound | with_reducible apply State.read_sound
    | with_reducible apply State.setQp_sound | with_reducible refine fst_sound (by assumption) ?_
    | with_reducible apply sound_foldl | with_reducible apply sound_foldl_fst | simp only [sound_upd, sound_updTil]
    | (intro _) | with_reducible apply sound_ite | split

theorem State.qpResume_sound {s : State} (h : s.Sound) (n psn : Nat) : (State.qpResume s n psn).Sound := by
  simp only [State.qpResume]
  repeat'
    first
    | with_reducible assumption | with_reducible apply State.setQp_sound | with_reducible apply State.place_sound
    | with_reducible apply State.serveRead_sound | with_reducible apply State.sendCtl_sound
    | with_reducible refine fst_sound (by assumption) ?_ | simp only [sound_upd, sound_updTil] | (intro _)
    | with_reducible apply sound_ite | split

theorem State.qpUnresolved_sound {s : State} (h : s.Sound) (n psn : Nat) : (State.qpUnresolved s n psn).Sound := by
  simp only [State.qpUnresolved]
  repeat'
    first
    | with_reducible assumption | with_reducible apply State.qpFail_sound
    | with_reducible apply State.freeHeld_sound | with_reducible apply State.setQp_sound
    | with_reducible apply State.sendCtl_sound | with_reducible refine fst_sound (by assumption) ?_
    | simp only [sound_upd, sound_updTil] | (intro _) | with_reducible apply sound_ite | split

theorem State.ceCount_sound {s : State} (h : s.Sound) (n path : Nat) (ce : Bool) (p : TPkt) : (State.ceCount s n path
    ce p).Sound := by
  simp only [State.ceCount]
  repeat'
    first
    | with_reducible assumption | with_reducible apply State.setQp_sound | with_reducible apply State.sendCtl_sound
    | with_reducible refine fst_sound (by assumption) ?_ | simp only [sound_upd, sound_updTil] | (intro _)
    | with_reducible apply sound_ite | split

theorem State.rxChecks_sound {s : State} (h : s.Sound) (k : SrbPkt) (p : TPkt) : (State.rxChecks s k p).1.Sound := by
  simp only [State.rxChecks]
  repeat'
    first
    | with_reducible assumption | with_reducible apply State.bump_sound | with_reducible apply State.srbFree_sound
    | with_reducible apply State.sendNak_sound | with_reducible apply State.raise_sound
    | with_reducible apply State.encCheck_sound | with_reducible apply State.mark_sound
    | with_reducible apply State.ceCount_sound | with_reducible refine fst_sound (by assumption) ?_
    | simp only [sound_upd, sound_updTil] | (intro _) | with_reducible apply sound_ite | split

end Sys2Proof.Machine
end

