-- ==== Sys2Proof/Laws/SoundWeft.lean ====
section
/-! SUPPORT. The operations of Weft.lean keep a state well kept. -/
namespace Sys2Proof.Machine
set_option linter.unusedTactic false
set_option linter.unreachableTactic false
set_option linter.unusedSimpArgs false
open Sys2Proof

theorem State.adminCmd_sound {s : State} (h : s.Sound) (i slot op : Nat) (f : Entry → State) (hf : ∀ a0, (f a0).Sound)
    : soundOut (State.adminCmd s i slot op f) := by
  simp only [State.adminCmd]
  repeat'
    first
    | with_reducible assumption | with_reducible apply hf | with_reducible refine fst_sound (by assumption) ?_
    | rw [soundOut_next] | simp only [sound_upd, sound_updTil] | (intro _) | with_reducible apply soundOut_ite
    | with_reducible apply sound_ite | split

theorem State.adminEnd_sound {s : State} (h : s.Sound) (i slot st res : Nat) : (State.adminEnd s i slot st res).Sound
    := by
  simp only [State.adminEnd]
  repeat'
    first
    | with_reducible assumption | with_reducible apply State.complete_sound
    | with_reducible refine fst_sound (by assumption) ?_ | simp only [sound_upd, sound_updTil] | (intro _)
    | with_reducible apply sound_ite | split

theorem execQpCreate_sound {s : State} (h : s.Sound) (i slot : Nat) : soundOut (execQpCreate i slot s) := by
  simp only [execQpCreate]
  repeat'
    first
    | with_reducible assumption | with_reducible apply State.adminCmd_sound
    | with_reducible apply State.adminEnd_sound | with_reducible apply State.setQp_sound
    | with_reducible refine fst_sound (by assumption) ?_ | rw [soundOut_next] | simp only [sound_upd, sound_updTil]
    | (intro _) | with_reducible apply soundOut_ite | with_reducible apply sound_ite | split

theorem execQpModify_sound {s : State} (h : s.Sound) (i slot : Nat) : soundOut (execQpModify i slot s) := by
  simp only [execQpModify]
  repeat'
    first
    | with_reducible assumption | with_reducible apply State.adminCmd_sound
    | with_reducible apply State.adminEnd_sound | with_reducible apply State.setQp_sound
    | with_reducible apply State.raiseIf_sound | with_reducible apply State.purgeOwn_sound
    | with_reducible apply State.flushReqs_sound | with_reducible apply State.dropWaiters_sound
    | with_reducible apply State.colEarlyEnd_sound | with_reducible apply State.qpReset_sound
    | with_reducible refine fst_sound (by assumption) ?_ | rw [soundOut_next] | simp only [sound_upd, sound_updTil]
    | (intro _) | with_reducible apply soundOut_ite | with_reducible apply sound_ite | split

theorem State.badResponse_sound {s : State} (h : s.Sound) (i slot a n : Nat) : (State.badResponse s i slot a n).Sound
    := by
  simp only [State.badResponse]
  repeat'
    first
    | with_reducible assumption | with_reducible apply State.freeBytes_sound
    | with_reducible apply State.adminEnd_sound | with_reducible apply State.hostPut_sound
    | with_reducible refine fst_sound (by assumption) ?_ | simp only [sound_upd, sound_updTil] | (intro _)
    | with_reducible apply sound_ite | split

theorem execQpQuery_sound {s : State} (h : s.Sound) (i slot : Nat) (bad : Bool) : soundOut (execQpQuery i slot bad s)
    := by
  simp only [execQpQuery]
  repeat'
    first
    | with_reducible assumption | with_reducible apply State.adminCmd_sound
    | with_reducible apply State.adminEnd_sound | with_reducible apply State.badResponse_sound
    | with_reducible apply State.hostPut_sound | with_reducible refine fst_sound (by assumption) ?_
    | rw [soundOut_next] | simp only [sound_upd, sound_updTil] | (intro _) | with_reducible apply soundOut_ite
    | with_reducible apply sound_ite | split

theorem execQpDestroy_sound {s : State} (h : s.Sound) (i slot : Nat) : soundOut (execQpDestroy i slot s) := by
  simp only [execQpDestroy]
  repeat'
    first
    | with_reducible assumption | with_reducible apply State.adminCmd_sound
    | with_reducible apply State.adminEnd_sound | with_reducible apply State.qpReset_sound
    | with_reducible apply State.write_sound | with_reducible apply State.setRegion_sound
    | with_reducible refine fst_sound (by assumption) ?_ | with_reducible apply sound_foldl
    | with_reducible apply sound_foldl_fst | rw [soundOut_next] | simp only [sound_upd, sound_updTil] | (intro _)
    | with_reducible apply soundOut_ite | with_reducible apply sound_ite | split

theorem execWorkRequest_sound {s : State} (h : s.Sound) (i q slot : Nat) : soundOut (execWorkRequest i q slot s) := by
  simp only [execWorkRequest]
  repeat'
    first
    | with_reducible assumption | with_reducible apply State.complete_sound
    | with_reducible apply State.setQp_sound | with_reducible apply State.traceQp_sound
    | with_reducible refine fst_sound (by assumption) ?_ | rw [soundOut_next] | simp only [sound_upd, sound_updTil]
    | (intro _) | with_reducible apply soundOut_ite | with_reducible apply sound_ite | split

theorem execRegionRegister_sound {s : State} (h : s.Sound) (i slot : Nat) : soundOut (execRegionRegister i slot s) :=
    by
  simp only [execRegionRegister]
  repeat'
    first
    | with_reducible assumption | with_reducible apply State.adminCmd_sound
    | with_reducible apply State.adminEnd_sound | with_reducible apply State.setRegion_sound
    | with_reducible refine fst_sound (by assumption) ?_ | rw [soundOut_next] | simp only [sound_upd, sound_updTil]
    | (intro _) | with_reducible apply soundOut_ite | with_reducible apply sound_ite | split

theorem execRegionRevoke_sound {s : State} (h : s.Sound) (i slot : Nat) : soundOut (execRegionRevoke i slot s) := by
  simp only [execRegionRevoke]
  repeat'
    first
    | with_reducible assumption | with_reducible apply State.adminCmd_sound
    | with_reducible apply State.adminEnd_sound | with_reducible apply State.setRegion_sound
    | with_reducible refine fst_sound (by assumption) ?_ | rw [soundOut_next] | simp only [sound_upd, sound_updTil]
    | (intro _) | with_reducible apply soundOut_ite | with_reducible apply sound_ite | split

theorem execRegionRevokeComplete_sound {s : State} (h : s.Sound) (i slot : Nat) : soundOut (execRegionRevokeComplete i
    slot s) := by
  simp only [execRegionRevokeComplete]
  repeat'
    first
    | with_reducible assumption | with_reducible apply State.raise_sound
    | with_reducible apply State.setRegion_sound | with_reducible apply State.adminEnd_sound
    | with_reducible refine fst_sound (by assumption) ?_ | rw [soundOut_next] | simp only [sound_upd, sound_updTil]
    | (intro _) | with_reducible apply soundOut_ite | with_reducible apply sound_ite | split

theorem execRegionQuery_sound {s : State} (h : s.Sound) (i slot : Nat) (bad : Bool) : soundOut (execRegionQuery i slot
    bad s) := by
  simp only [execRegionQuery]
  repeat'
    first
    | with_reducible assumption | with_reducible apply State.adminCmd_sound
    | with_reducible apply State.adminEnd_sound | with_reducible apply State.badResponse_sound
    | with_reducible apply State.hostPut_sound | with_reducible refine fst_sound (by assumption) ?_
    | rw [soundOut_next] | simp only [sound_upd, sound_updTil] | (intro _) | with_reducible apply soundOut_ite
    | with_reducible apply sound_ite | split

theorem State.releaseOwn_sound {s : State} (h : s.Sound) (n : Nat) (x : Qp) (p : TPkt) (bits_ : Nat) (avoid : Option
    Nat) (f : Qp → Qp) : (State.releaseOwn s n x p bits_ avoid f).Sound := by
  simp only [State.releaseOwn]
  repeat'
    first
    | with_reducible assumption | with_reducible apply State.raise_sound | with_reducible apply State.pushOwn_sound
    | with_reducible refine fst_sound (by assumption) ?_ | simp only [sound_upd, sound_updTil] | (intro _)
    | with_reducible apply sound_ite | split

theorem State.sendReq_sound {s : State} (h : s.Sound) (n : Nat) (x : Qp) (r : Req) (first psn upTo : Nat) (retx :
    Bool) (f : Qp → Qp) : (State.sendReq s n x r first psn upTo retx f).Sound := by
  simp only [State.sendReq]
  repeat'
    first
    | with_reducible assumption | with_reducible apply State.releaseOwn_sound
    | with_reducible apply State.qpRead_sound | with_reducible apply State.setQp_sound
    | with_reducible apply State.qpFail_sound | with_reducible refine fst_sound (by assumption) ?_
    | simp only [sound_upd, sound_updTil] | (intro _) | with_reducible apply sound_ite | split

theorem State.sendNew_sound {s : State} (h : s.Sound) (n : Nat) (x : Qp) : (State.sendNew s n x).Sound := by
  simp only [State.sendNew]
  repeat'
    first
    | with_reducible assumption | with_reducible apply State.sendReq_sound
    | with_reducible refine fst_sound (by assumption) ?_ | simp only [sound_upd, sound_updTil] | (intro _)
    | with_reducible apply sound_ite | split

theorem execPacerRelease_sound {s : State} (h : s.Sound) (n : Nat) : soundOut (execPacerRelease n s) := by
  simp only [execPacerRelease]
  repeat'
    first
    | with_reducible assumption | with_reducible apply State.pushOwn_sound | with_reducible apply State.raise_sound
    | with_reducible apply State.releaseOwn_sound | with_reducible apply State.sendReq_sound
    | with_reducible apply State.setQp_sound | with_reducible apply State.sendNew_sound
    | with_reducible refine fst_sound (by assumption) ?_ | rw [soundOut_next] | simp only [sound_upd, sound_updTil]
    | (intro _) | with_reducible apply soundOut_ite | with_reducible apply sound_ite | split

theorem State.departOwn_sound {s : State} (h : s.Sound) (p : Nat) (k : OutPkt) (n : Nat) (t : TPkt) : (State.departOwn
    s p k n t).Sound := by
  simp only [State.departOwn]
  repeat'
    first
    | with_reducible assumption | with_reducible apply State.pkeyDrop_sound
    | with_reducible apply State.encrypt_sound | with_reducible apply State.bump_sound
    | with_reducible apply State.tracePkt_sound | with_reducible apply State.sendAttach_sound
    | with_reducible apply State.sendEth_sound | with_reducible refine fst_sound (by assumption) ?_
    | simp only [sound_upd, sound_updTil] | (intro _) | with_reducible apply sound_ite | split

theorem State.departFabric_sound {s : State} (h : s.Sound) (p : Nat) (k : OutPkt) (hdr payload : List Byte) :
    (State.departFabric s p k hdr payload).Sound := by
  simp only [State.departFabric]
  repeat'
    first
    | with_reducible assumption | with_reducible apply State.mark_sound | with_reducible apply State.srbFree_sound
    | with_reducible apply State.pkeyDrop_sound | with_reducible apply State.sendAttach_sound
    | with_reducible apply State.sendEth_sound | with_reducible refine fst_sound (by assumption) ?_
    | simp only [sound_upd, sound_updTil] | (intro _) | with_reducible apply sound_ite | split

theorem execWeftPacketStart_sound {s : State} (h : s.Sound) (p room : Nat) (spent : Bool) : soundOut
    (execWeftPacketStart p room spent s) := by
  simp only [execWeftPacketStart]
  repeat'
    first
    | with_reducible assumption | with_reducible apply State.pinchSendFront_sound
    | with_reducible apply State.takeToken_sound | with_reducible apply State.wfqSent_sound
    | with_reducible apply State.setFifo_sound | with_reducible apply State.departOwn_sound
    | with_reducible apply State.departFabric_sound | with_reducible refine fst_sound (by assumption) ?_
    | rw [soundOut_next] | simp only [sound_upd, sound_updTil] | (intro _) | with_reducible apply soundOut_ite
    | with_reducible apply sound_ite | split

theorem State.duplicate_sound {s : State} (h : s.Sound) (id : Nat) (p : TPkt) : (State.duplicate s id p).Sound := by
  simp only [State.duplicate]
  repeat'
    first
    | with_reducible assumption | with_reducible apply State.sendAck_sound
    | with_reducible apply State.srbFree_sound | with_reducible apply State.bump_sound
    | with_reducible refine fst_sound (by assumption) ?_ | simp only [sound_upd, sound_updTil] | (intro _)
    | with_reducible apply sound_ite | split

theorem execWritePacketReceive_sound {s : State} (h : s.Sound) (id : Nat) : soundOut (execWritePacketReceive id s) :=
    by
  simp only [execWritePacketReceive]
  repeat'
    first
    | with_reducible assumption | with_reducible apply State.rxChecks_sound
    | with_reducible apply State.srbFree_sound | with_reducible apply State.bump_sound
    | with_reducible apply State.duplicate_sound | with_reducible apply State.refuse_sound
    | with_reducible apply State.setQp_sound | with_reducible apply State.place_sound
    | with_reducible refine fst_sound (by assumption) ?_ | rw [soundOut_next] | simp only [sound_upd, sound_updTil]
    | (intro _) | with_reducible apply soundOut_ite | with_reducible apply sound_ite | split

theorem execFenceLastPlace_sound {s : State} (h : s.Sound) (n : Nat) : soundOut (execFenceLastPlace n s) := by
  simp only [execFenceLastPlace]
  repeat'
    first
    | with_reducible assumption | with_reducible apply State.setQp_sound | with_reducible apply State.srbFree_sound
    | with_reducible apply State.refuse_sound | with_reducible apply State.place_sound
    | with_reducible refine fst_sound (by assumption) ?_ | rw [soundOut_next] | simp only [sound_upd, sound_updTil]
    | (intro _) | with_reducible apply soundOut_ite | with_reducible apply sound_ite | split

theorem execPlacementVisible_sound {s : State} (h : s.Sound) (n psn : Nat) : soundOut (execPlacementVisible n psn s)
    := by
  simp only [execPlacementVisible]
  repeat'
    first
    | with_reducible assumption | with_reducible apply State.write_sound
    | with_reducible apply State.setRegion_sound | with_reducible apply State.setQp_sound
    | with_reducible apply State.sendAck_sound | with_reducible refine fst_sound (by assumption) ?_
    | with_reducible apply sound_foldl | with_reducible apply sound_foldl_fst | rw [soundOut_next]
    | simp only [sound_upd, sound_updTil] | (intro _) | with_reducible apply soundOut_ite
    | with_reducible apply sound_ite | split

theorem execAckDelayExpiry_sound {s : State} (h : s.Sound) (n : Nat) : soundOut (execAckDelayExpiry n s) := by
  simp only [execAckDelayExpiry]
  repeat'
    first
    | with_reducible assumption | with_reducible apply State.sendAck_sound
    | with_reducible refine fst_sound (by assumption) ?_ | rw [soundOut_next] | simp only [sound_upd, sound_updTil]
    | (intro _) | with_reducible apply soundOut_ite | with_reducible apply sound_ite | split

theorem execImmediateNotification_sound {s : State} (h : s.Sound) (n : Nat) : soundOut (execImmediateNotification n s)
    := by
  simp only [execImmediateNotification]
  repeat'
    first
    | with_reducible assumption | with_reducible apply State.setQp_sound | with_reducible apply State.cqPut_sound
    | with_reducible refine fst_sound (by assumption) ?_ | rw [soundOut_next] | simp only [sound_upd, sound_updTil]
    | (intro _) | with_reducible apply soundOut_ite | with_reducible apply sound_ite | split

theorem execReadReqReceive_sound {s : State} (h : s.Sound) (id : Nat) : soundOut (execReadReqReceive id s) := by
  simp only [execReadReqReceive]
  repeat'
    first
    | with_reducible assumption | with_reducible apply State.rxChecks_sound
    | with_reducible apply State.srbFree_sound | with_reducible apply State.bump_sound
    | with_reducible apply State.refuse_sound | with_reducible apply State.serveRead_sound
    | with_reducible refine fst_sound (by assumption) ?_ | rw [soundOut_next] | simp only [sound_upd, sound_updTil]
    | (intro _) | with_reducible apply soundOut_ite | with_reducible apply sound_ite | split

theorem execReadRespReceive_sound {s : State} (h : s.Sound) (id : Nat) : soundOut (execReadRespReceive id s) := by
  simp only [execReadRespReceive]
  repeat'
    first
    | with_reducible assumption | with_reducible apply State.rxChecks_sound
    | with_reducible apply State.srbFree_sound | with_reducible apply State.bump_sound
    | with_reducible apply State.sample_sound | with_reducible apply State.pieces_sound
    | with_reducible apply State.write_sound | with_reducible apply State.ackPsns_sound
    | with_reducible apply State.qpFail_sound | with_reducible refine fst_sound (by assumption) ?_
    | with_reducible apply sound_foldl | with_reducible apply sound_foldl_fst | rw [soundOut_next]
    | simp only [sound_upd, sound_updTil] | (intro _) | with_reducible apply soundOut_ite
    | with_reducible apply sound_ite | split

theorem State.rxAnswer_sound {s : State} (h : s.Sound) (id op : Nat) : (State.rxAnswer s id op).1.Sound := by
  simp only [State.rxAnswer]
  repeat'
    first
    | with_reducible assumption | with_reducible apply State.rxChecks_sound
    | with_reducible apply State.srbFree_sound | with_reducible apply State.bump_sound
    | with_reducible refine fst_sound (by assumption) ?_ | simp only [sound_upd, sound_updTil] | (intro _)
    | with_reducible apply sound_ite | split

theorem State.sackRetx_sound {s : State} (h : s.Sound) (n : Nat) : (State.sackRetx s n).Sound := by
  simp only [State.sackRetx]
  repeat'
    first
    | with_reducible assumption | with_reducible apply State.bump_sound | with_reducible apply State.setQp_sound
    | with_reducible refine fst_sound (by assumption) ?_ | simp only [sound_upd, sound_updTil] | (intro _)
    | with_reducible apply sound_ite | split

theorem execAckReceive_sound {s : State} (h : s.Sound) (id : Nat) : soundOut (execAckReceive id s) := by
  simp only [execAckReceive]
  repeat'
    first
    | with_reducible assumption | with_reducible apply State.rxAnswer_sound
    | with_reducible apply State.sample_sound | with_reducible apply State.sackRetx_sound
    | with_reducible apply State.ackPsns_sound | with_reducible refine fst_sound (by assumption) ?_
    | rw [soundOut_next] | simp only [sound_upd, sound_updTil] | (intro _) | with_reducible apply soundOut_ite
    | with_reducible apply sound_ite | split

theorem execNakReceive_sound {s : State} (h : s.Sound) (id : Nat) : soundOut (execNakReceive id s) := by
  simp only [execNakReceive]
  repeat'
    first
    | with_reducible assumption | with_reducible apply State.rxAnswer_sound
    | with_reducible apply State.sample_sound | with_reducible apply State.setQp_sound
    | with_reducible apply State.qpFail_sound | with_reducible apply State.raise_sound
    | with_reducible refine fst_sound (by assumption) ?_ | rw [soundOut_next] | simp only [sound_upd, sound_updTil]
    | (intro _) | with_reducible apply soundOut_ite | with_reducible apply sound_ite | split

theorem execResumeReceive_sound {s : State} (h : s.Sound) (id : Nat) : soundOut (execResumeReceive id s) := by
  simp only [execResumeReceive]
  repeat'
    first
    | with_reducible assumption | with_reducible apply State.rxAnswer_sound
    | with_reducible apply State.setQp_sound | with_reducible refine fst_sound (by assumption) ?_
    | rw [soundOut_next] | simp only [sound_upd, sound_updTil] | (intro _) | with_reducible apply soundOut_ite
    | with_reducible apply sound_ite | split

theorem execCeEchoReceive_sound {s : State} (h : s.Sound) (id : Nat) : soundOut (execCeEchoReceive id s) := by
  simp only [execCeEchoReceive]
  repeat'
    first
    | with_reducible assumption | with_reducible apply State.rxAnswer_sound | with_reducible apply State.bump_sound
    | with_reducible apply State.setQp_sound | with_reducible refine fst_sound (by assumption) ?_
    | rw [soundOut_next] | simp only [sound_upd, sound_updTil] | (intro _) | with_reducible apply soundOut_ite
    | with_reducible apply sound_ite | split

theorem execCeEchoTimer_sound {s : State} (h : s.Sound) (n : Nat) : soundOut (execCeEchoTimer n s) := by
  simp only [execCeEchoTimer]
  repeat'
    first
    | with_reducible assumption | with_reducible apply State.setQp_sound | with_reducible apply State.sendCtl_sound
    | with_reducible refine fst_sound (by assumption) ?_ | rw [soundOut_next] | simp only [sound_upd, sound_updTil]
    | (intro _) | with_reducible apply soundOut_ite | with_reducible apply sound_ite | split

theorem State.cutRate_sound {s : State} (h : s.Sound) (n : Nat) (x : Qp) (r : Nat) : (State.cutRate s n x r).Sound := by
  simp only [State.cutRate]
  repeat'
    first
    | with_reducible assumption | with_reducible apply State.setRate_sound | with_reducible apply State.bump_sound
    | with_reducible apply State.setQp_sound
    | with_reducible refine fst_sound (by assumption) ?_ | simp only [sound_upd, sound_updTil] | (intro _)
    | with_reducible apply sound_ite | split

theorem execRetransmitTimerExpiry_sound {s : State} (h : s.Sound) (n : Nat) : soundOut (execRetransmitTimerExpiry n s)
    := by
  simp only [execRetransmitTimerExpiry]
  repeat'
    first
    | with_reducible assumption
    | with_reducible apply State.cutRate_sound
    | with_reducible apply State.raise_sound | with_reducible apply State.qpFail_sound
    | with_reducible apply State.setRate_sound | with_reducible apply State.bump_sound
    | with_reducible apply State.setQp_sound | with_reducible refine fst_sound (by assumption) ?_
    | rw [soundOut_next] | simp only [sound_upd, sound_updTil] | (intro _) | with_reducible apply soundOut_ite
    | with_reducible apply sound_ite | split

theorem execFaultWaitProbe_sound {s : State} (h : s.Sound) (n psn : Nat) : soundOut (execFaultWaitProbe n psn s) := by
  simp only [execFaultWaitProbe]
  repeat'
    first
    | with_reducible assumption | with_reducible apply State.setQp_sound
    | with_reducible refine fst_sound (by assumption) ?_ | rw [soundOut_next] | simp only [sound_upd, sound_updTil]
    | (intro _) | with_reducible apply soundOut_ite | with_reducible apply sound_ite | split

theorem execRateUpdate_sound {s : State} (h : s.Sound) (n : Nat) : soundOut (execRateUpdate n s) := by
  simp only [execRateUpdate]
  repeat'
    first
    | with_reducible assumption
    | with_reducible apply State.cutRate_sound
    | with_reducible apply State.setRate_sound | with_reducible apply State.bump_sound
    | with_reducible apply State.setQp_sound | with_reducible refine fst_sound (by assumption) ?_
    | rw [soundOut_next] | simp only [sound_upd, sound_updTil] | (intro _) | with_reducible apply soundOut_ite
    | with_reducible apply sound_ite | split

theorem execQuarantineExpiry_sound {s : State} (h : s.Sound) (n path : Nat) : soundOut (execQuarantineExpiry n path s)
    := by
  simp only [execQuarantineExpiry]
  repeat'
    first
    | with_reducible assumption | with_reducible apply State.setQp_sound
    | with_reducible refine fst_sound (by assumption) ?_ | rw [soundOut_next] | simp only [sound_upd, sound_updTil]
    | (intro _) | with_reducible apply soundOut_ite | with_reducible apply sound_ite | split

theorem execBucketRefill_sound {s : State} (h : s.Sound) (k : Nat) : soundOut (execBucketRefill k s) := by
  simp only [execBucketRefill]
  repeat'
    first
    | with_reducible assumption | with_reducible apply State.put_sound
    | with_reducible refine fst_sound (by assumption) ?_ | rw [soundOut_next] | simp only [sound_upd, sound_updTil]
    | (intro _) | with_reducible apply soundOut_ite | with_reducible apply sound_ite | split

end Sys2Proof.Machine
end

