-- ==== Sys2Proof/Laws/SoundCollective.lean ====
section
/-! SUPPORT. The operations of Collective.lean keep a state well kept. -/
namespace Sys2Proof.Machine
set_option linter.unusedTactic false
set_option linter.unreachableTactic false
set_option linter.unusedSimpArgs false
open Sys2Proof

theorem execColGroupCreate_sound {s : State} (h : s.Sound) (i slot : Nat) (list : Option (List Nat)) : soundOut
    (execColGroupCreate i slot list s) := by
  simp only [execColGroupCreate]
  repeat'
    first
    | with_reducible assumption | with_reducible apply State.adminCmd_sound
    | with_reducible apply State.adminEnd_sound | with_reducible apply State.setQp_sound
    | with_reducible apply State.setGroup_sound | with_reducible refine fst_sound (by assumption) ?_
    | with_reducible apply sound_foldl | with_reducible apply sound_foldl_fst | rw [soundOut_next]
    | simp only [sound_upd, sound_updTil] | (intro _) | with_reducible apply soundOut_ite
    | with_reducible apply sound_ite | split

theorem execColGroupReset_sound {s : State} (h : s.Sound) (i slot : Nat) : soundOut (execColGroupReset i slot s) := by
  simp only [execColGroupReset]
  repeat'
    first
    | with_reducible assumption | with_reducible apply State.adminCmd_sound
    | with_reducible apply State.adminEnd_sound | with_reducible apply State.groupAbort_sound
    | with_reducible apply State.setGroup_sound | with_reducible refine fst_sound (by assumption) ?_
    | rw [soundOut_next] | simp only [sound_upd, sound_updTil] | (intro _) | with_reducible apply soundOut_ite
    | with_reducible apply sound_ite | split

theorem execColGroupDestroy_sound {s : State} (h : s.Sound) (i slot : Nat) : soundOut (execColGroupDestroy i slot s)
    := by
  simp only [execColGroupDestroy]
  repeat'
    first
    | with_reducible assumption | with_reducible apply State.adminCmd_sound
    | with_reducible apply State.adminEnd_sound | with_reducible apply State.groupDestroy_sound
    | with_reducible refine fst_sound (by assumption) ?_ | rw [soundOut_next] | simp only [sound_upd, sound_updTil]
    | (intro _) | with_reducible apply soundOut_ite | with_reducible apply sound_ite | split

theorem execColRun_sound {s : State} (h : s.Sound) (i q slot : Nat) : soundOut (execColRun i q slot s) := by
  simp only [execColRun]
  repeat'
    first
    | with_reducible assumption | with_reducible apply State.complete_sound
    | with_reducible apply State.traceCol_sound | with_reducible apply State.setGroup_sound
    | with_reducible refine fst_sound (by assumption) ?_ | rw [soundOut_next] | simp only [sound_upd, sound_updTil]
    | (intro _) | with_reducible apply soundOut_ite | with_reducible apply sound_ite | split

theorem execTileColRun_sound {s : State} (h : s.Sound) (t : Nat) : soundOut (execTileColRun t s) := by
  simp only [execTileColRun]
  repeat'
    first
    | with_reducible assumption | with_reducible apply State.setTile_sound
    | with_reducible apply State.traceCol_sound | with_reducible apply State.setGroup_sound
    | with_reducible apply State.colComplete_sound | with_reducible apply State.cqForce_sound
    | simp only [tile_ok_mk, context_ok_mk, context_ok_new] | with_reducible apply Tile.s_ok
    | with_reducible apply Tile.w_ok | with_reducible apply State.tile_ok | with_reducible apply State.ctx_ok
    | with_reducible apply Tile.ctx_ok | with_reducible apply Tile.setCtx_ok | with_reducible apply Context.wr_ok
    | with_reducible apply Context.setVec_ok | with_reducible apply Context.setAcc_ok
    | with_reducible apply Context.next_ok | with_reducible exact True.intro | with_reducible apply And.intro
    | with_reducible refine fst_sound (by assumption) ?_ | rw [soundOut_next] | simp only [sound_upd, sound_updTil]
    | (intro _) | with_reducible apply soundOut_ite | with_reducible apply sound_ite | split

theorem State.colRead_sound {s : State} (h : s.Sound) (g t asid va w a n : Nat) : (State.colRead s g t asid va w a
    n).1.Sound := by
  simp only [State.colRead]
  repeat'
    first
    | with_reducible assumption | with_reducible apply State.pieces_sound | with_reducible apply State.read_sound
    | with_reducible refine fst_sound (by assumption) ?_ | with_reducible apply sound_foldl
    | with_reducible apply sound_foldl_fst | simp only [sound_upd, sound_updTil] | (intro _)
    | with_reducible apply sound_ite | split

theorem State.colWrite_sound {s : State} (h : s.Sound) (g t asid va w a : Nat) (l : List Nat) : (State.colWrite s g t
    asid va w a l).1.Sound := by
  simp only [State.colWrite]
  repeat'
    first
    | with_reducible assumption | with_reducible apply State.pieces_sound | with_reducible apply State.write_sound
    | with_reducible refine fst_sound (by assumption) ?_ | with_reducible apply sound_foldl
    | with_reducible apply sound_foldl_fst | simp only [sound_upd, sound_updTil] | (intro _)
    | with_reducible apply sound_ite | split

theorem State.setHead_sound {s : State} (h : s.Sound) (g : Nat) (o : Option ColOp) : (State.setHead s g o).Sound := by
  simp only [State.setHead]
  repeat'
    first
    | with_reducible assumption | with_reducible apply State.setGroup_sound
    | with_reducible refine fst_sound (by assumption) ?_ | simp only [sound_upd, sound_updTil] | (intro _)
    | with_reducible apply sound_ite | split

theorem State.colChunk_sound {s : State} (h : s.Sound) (g : Nat) (x : Group) (o : ColOp) (cvt bytes : Nat) :
    (State.colChunk s g x o cvt bytes).Sound := by
  simp only [State.colChunk]
  repeat'
    first
    | with_reducible assumption | with_reducible apply State.cqPut_sound | with_reducible apply State.setHead_sound
    | with_reducible apply State.colComplete_sound | with_reducible refine fst_sound (by assumption) ?_
    | simp only [sound_upd, sound_updTil] | (intro _) | with_reducible apply sound_ite | split

theorem State.colMove_sound {s : State} (h : s.Sound) (g t : Nat) (x : Group) (o : ColOp) (a n : Nat) (data : Partial)
    : (State.colMove s g t x o a n data).1.Sound := by
  simp only [State.colMove]
  repeat'
    first
    | with_reducible assumption | with_reducible apply State.colRead_sound
    | with_reducible apply State.colWrite_sound | with_reducible refine fst_sound (by assumption) ?_
    | simp only [sound_upd, sound_updTil] | (intro _) | with_reducible apply sound_ite | split

theorem execColChunkSignal_sound {s : State} (h : s.Sound) (g t : Nat) (data : Partial) (differs : Bool) : soundOut
    (execColChunkSignal g t data differs s) := by
  simp only [execColChunkSignal]
  repeat'
    first
    | with_reducible assumption | with_reducible apply State.setHead_sound
    | with_reducible apply State.colComplete_sound | with_reducible apply State.cqPut_sound
    | with_reducible apply State.colEarlyEnd_sound | with_reducible apply State.colChunk_sound
    | with_reducible apply State.colMove_sound | with_reducible refine fst_sound (by assumption) ?_
    | rw [soundOut_next] | simp only [sound_upd, sound_updTil] | (intro _) | with_reducible apply soundOut_ite
    | with_reducible apply sound_ite | split

theorem execPinchHostPost_sound {s : State} (h : s.Sound) (i val : Nat) : soundOut (execPinchHostPost i val s) := by
  simp only [execPinchHostPost]
  repeat'
    first
    | with_reducible assumption | with_reducible apply State.post_sound | with_reducible apply State.put_sound
    | with_reducible apply State.bump_sound | with_reducible refine fst_sound (by assumption) ?_
    | rw [soundOut_next] | simp only [sound_upd, sound_updTil] | (intro _) | with_reducible apply soundOut_ite
    | with_reducible apply sound_ite | split

theorem execPinchTilePost_sound {s : State} (h : s.Sound) (id : Nat) : soundOut (execPinchTilePost id s) := by
  simp only [execPinchTilePost]
  repeat'
    first
    | with_reducible assumption | with_reducible apply State.post_sound
    | with_reducible apply State.dropFlight_sound | with_reducible refine fst_sound (by assumption) ?_
    | rw [soundOut_next] | simp only [sound_upd, sound_updTil] | (intro _) | with_reducible apply soundOut_ite
    | with_reducible apply sound_ite | split

theorem State.pinchDiscard_sound {s : State} (h : s.Sound) : (State.pinchDiscard s).Sound := by
  simp only [State.pinchDiscard]
  repeat'
    first
    | with_reducible assumption | with_reducible apply State.bump_sound
    | with_reducible refine fst_sound (by assumption) ?_ | simp only [sound_upd, sound_updTil] | (intro _)
    | with_reducible apply sound_ite | split

theorem State.takeVc3_sound {s : State} (h : s.Sound) (p : Nat) : (State.takeVc3 s p).Sound := by
  simp only [State.takeVc3]
  repeat'
    first
    | with_reducible assumption | with_reducible refine fst_sound (by assumption) ?_
    | simp only [sound_upd, sound_updTil] | (intro _) | with_reducible apply sound_ite | split

theorem State.pinchRx_sound {s : State} (h : s.Sound) (p typ : Nat) (f : State → Nat → List Byte → State) (hf : ∀ a0
    a1 a2, a0.Sound → (f a0 a1 a2).Sound) : soundOut (State.pinchRx s p typ f) := by
  simp only [State.pinchRx]
  repeat'
    first
    | with_reducible assumption | with_reducible apply State.takeVc3_sound
    | with_reducible apply State.pinchDiscard_sound | with_reducible apply hf
    | with_reducible refine fst_sound (by assumption) ?_ | rw [soundOut_next] | simp only [sound_upd, sound_updTil]
    | (intro _) | with_reducible apply soundOut_ite | with_reducible apply sound_ite | split

theorem State.pinchAck_sound {s : State} (h : s.Sound) (g p : Nat) (b : List Byte) : (State.pinchAck s g p b).Sound :=
    by
  simp only [State.pinchAck]
  repeat'
    first
    | with_reducible assumption | with_reducible apply State.pinchQueue_sound
    | with_reducible refine fst_sound (by assumption) ?_ | simp only [sound_upd, sound_updTil] | (intro _)
    | with_reducible apply sound_ite | split

theorem State.arriveIn_sound {s : State} (h : s.Sound) (g p : Nat) (b : List Byte) (low : Bool) : (State.arriveIn s g
    p b low).Sound := by
  simp only [State.arriveIn]
  repeat'
    first
    | with_reducible assumption | with_reducible apply State.setGroup_sound
    | with_reducible apply State.pinchAck_sound | with_reducible apply State.combine_sound
    | with_reducible apply State.pinchSend_sound | with_reducible apply State.pinchFail_sound
    | with_reducible refine fst_sound (by assumption) ?_ | simp only [sound_upd, sound_updTil] | (intro _)
    | with_reducible apply sound_ite | split

theorem execPinchArriveReceive_sound {s : State} (h : s.Sound) (p : Nat) : soundOut (execPinchArriveReceive p s) := by
  simp only [execPinchArriveReceive]
  repeat'
    first
    | with_reducible assumption | with_reducible apply State.pinchRx_sound
    | with_reducible apply State.pinchDiscard_sound | with_reducible apply State.drainAll_sound
    | with_reducible apply State.arriveIn_sound | with_reducible refine fst_sound (by assumption) ?_
    | rw [soundOut_next] | simp only [sound_upd, sound_updTil] | (intro _) | with_reducible apply soundOut_ite
    | with_reducible apply sound_ite | split

theorem execPinchReleaseReceive_sound {s : State} (h : s.Sound) (p : Nat) : soundOut (execPinchReleaseReceive p s) :=
    by
  simp only [execPinchReleaseReceive]
  repeat'
    first
    | with_reducible assumption | with_reducible apply State.pinchRx_sound
    | with_reducible apply State.pinchDiscard_sound | with_reducible apply State.drainAll_sound
    | with_reducible apply State.combine_sound | with_reducible apply State.release_sound
    | with_reducible apply State.pinchAck_sound | with_reducible refine fst_sound (by assumption) ?_
    | rw [soundOut_next] | simp only [sound_upd, sound_updTil] | (intro _) | with_reducible apply soundOut_ite
    | with_reducible apply sound_ite | split

theorem execPinchAckReceive_sound {s : State} (h : s.Sound) (p : Nat) : soundOut (execPinchAckReceive p s) := by
  simp only [execPinchAckReceive]
  repeat'
    first
    | with_reducible assumption | with_reducible apply State.pinchRx_sound
    | with_reducible refine fst_sound (by assumption) ?_ | rw [soundOut_next] | simp only [sound_upd, sound_updTil]
    | (intro _) | with_reducible apply soundOut_ite | with_reducible apply sound_ite | split

theorem execPinchReplayTimeout_sound {s : State} (h : s.Sound) (p g : Nat) : soundOut (execPinchReplayTimeout p g s)
    := by
  simp only [execPinchReplayTimeout]
  repeat'
    first
    | with_reducible assumption | with_reducible apply State.drainAll_sound
    | with_reducible apply State.pinchFail_sound | with_reducible apply State.raise_sound
    | with_reducible apply State.pinchQueue_sound | with_reducible apply State.bump_sound
    | with_reducible refine fst_sound (by assumption) ?_ | rw [soundOut_next] | simp only [sound_upd, sound_updTil]
    | (intro _) | with_reducible apply soundOut_ite | with_reducible apply sound_ite | split

theorem execPinchOpTimeout_sound {s : State} (h : s.Sound) (g : Nat) : soundOut (execPinchOpTimeout g s) := by
  simp only [execPinchOpTimeout]
  repeat'
    first
    | with_reducible assumption | with_reducible apply State.drainAll_sound
    | with_reducible apply State.pinchFail_sound | with_reducible apply State.raise_sound
    | with_reducible refine fst_sound (by assumption) ?_ | rw [soundOut_next] | simp only [sound_upd, sound_updTil]
    | (intro _) | with_reducible apply soundOut_ite | with_reducible apply sound_ite | split

theorem execPinchFrameSend_sound {s : State} (h : s.Sound) (p : Nat) : soundOut (execPinchFrameSend p s) := by
  simp only [execPinchFrameSend]
  repeat'
    first
    | with_reducible assumption | with_reducible apply State.pinchSendFront_sound
    | with_reducible refine fst_sound (by assumption) ?_ | rw [soundOut_next] | simp only [sound_upd, sound_updTil]
    | (intro _) | with_reducible apply soundOut_ite | with_reducible apply sound_ite | split

end Sys2Proof.Machine
end

