-- ==== Sys2Proof/Laws/SoundCopies.lean ====
section
/-! SUPPORT. The operations of Copies.lean keep a state well kept. -/
namespace Sys2Proof.Machine
set_option linter.unusedTactic false
set_option linter.unreachableTactic false
set_option linter.unusedSimpArgs false
open Sys2Proof

theorem State.dropCopy_sound {s : State} (h : s.Sound) (i q slot : Nat) : (State.dropCopy s i q slot).Sound := by
  simp only [State.dropCopy]
  repeat'
    first
    | with_reducible assumption | with_reducible refine fst_sound (by assumption) ?_
    | simp only [sound_upd, sound_updTil] | (intro _) | with_reducible apply sound_ite | split

theorem State.copyDone_sound {s : State} (h : s.Sound) (i q slot st : Nat) : (State.copyDone s i q slot st).Sound :=
    by
  simp only [State.copyDone]
  repeat'
    first
    | with_reducible assumption | with_reducible apply State.complete_sound
    | with_reducible apply State.dropCopy_sound | with_reducible refine fst_sound (by assumption) ?_
    | simp only [sound_upd, sound_updTil] | (intro _) | with_reducible apply sound_ite | split

theorem State.linesOut_sound {s : State} (h : s.Sound) (i pa a n x5 : Nat) : (State.linesOut s i pa a n x5).Sound :=
    by
  induction x5 generalizing s pa a n with
  | zero => exact h
  | succ x5 ih =>
    simp only [State.linesOut]
    repeat'
      first
      | with_reducible assumption | with_reducible apply ih | with_reducible apply State.hostPut_sound
      | with_reducible apply State.logPoison_sound | with_reducible apply State.hostPoison_sound
      | with_reducible refine fst_sound (by assumption) ?_ | simp only [sound_upd, sound_updTil] | (intro _)
      | with_reducible apply sound_ite | split

theorem State.copyPiece_sound {s : State} (h : s.Sound) (r : CopyRun) (who : Waiter) (asid va m : Nat) (out : Bool)
    (host : Nat) : (State.copyPiece s r who asid va m out host).1.Sound := by
  simp only [State.copyPiece]
  repeat'
    first
    | with_reducible assumption | with_reducible apply State.translate_sound
    | with_reducible apply State.linesOut_sound | with_reducible apply State.write_sound
    | with_reducible refine fst_sound (by assumption) ?_ | simp only [sound_upd, sound_updTil] | (intro _)
    | with_reducible apply sound_ite | split

theorem State.runCopy_sound {s : State} (h : s.Sound) (c : Copy) (tile asid va len : Nat) (out : Bool) (host : Nat)
    (data : List Byte) : (State.runCopy s c tile asid va len out host data).Sound := by
  simp only [State.runCopy]
  repeat'
    first
    | with_reducible assumption | with_reducible apply State.copyPiece_sound
    | with_reducible apply State.copyDone_sound | with_reducible refine fst_sound (by assumption) ?_
    | with_reducible apply sound_foldl | with_reducible apply sound_foldl_fst | simp only [sound_upd, sound_updTil]
    | (intro _) | with_reducible apply sound_ite | split

end Sys2Proof.Machine
end

