-- ==== Sys2Proof/Laws/SoundWaiters.lean ====
section
/-! SUPPORT. The operations of Waiters.lean keep a state well kept. -/
namespace Sys2Proof.Machine
set_option linter.unusedTactic false
set_option linter.unreachableTactic false
set_option linter.unusedSimpArgs false
open Sys2Proof

theorem State.deliver_sound {s : State} (h : s.Sound) (who : Waiter) (st : Nat) : (State.deliver s who st).Sound := by
  simp only [State.deliver]
  repeat'
    first
    | with_reducible assumption | with_reducible apply State.setSkein_sound
    | with_reducible apply State.qpUnresolved_sound | with_reducible apply State.copyDone_sound
    | with_reducible apply State.abortLoad_sound | with_reducible apply State.colEarlyEnd_sound
    | with_reducible refine fst_sound (by assumption) ?_ | simp only [sound_upd, sound_updTil] | (intro _)
    | with_reducible apply sound_ite | split

theorem State.deliverEnded_sound {s : State} (h : s.Sound) : (State.deliverEnded s).Sound := by
  simp only [State.deliverEnded]
  repeat'
    first
    | with_reducible assumption | with_reducible apply State.deliver_sound
    | with_reducible refine fst_sound (by assumption) ?_ | with_reducible apply sound_foldl
    | with_reducible apply sound_foldl_fst | simp only [sound_upd, sound_updTil] | (intro _)
    | with_reducible apply sound_ite | split

theorem State.resume_sound {s : State} (h : s.Sound) (p : Parked) : (State.resume s p).Sound := by
  simp only [State.resume]
  repeat'
    first
    | with_reducible assumption | with_reducible apply State.bump_sound | with_reducible apply State.setSkein_sound
    | with_reducible apply State.qpResume_sound | with_reducible refine fst_sound (by assumption) ?_
    | simp only [sound_upd, sound_updTil] | (intro _) | with_reducible apply sound_ite | split

end Sys2Proof.Machine
end

