-- ==== Sys2Proof/Laws/SoundFaults.lean ====
section
/-! SUPPORT. The operations of Faults.lean keep a state well kept. -/
namespace Sys2Proof.Machine
set_option linter.unusedTactic false
set_option linter.unreachableTactic false
set_option linter.unusedSimpArgs false
open Sys2Proof

theorem State.xltCmd_sound {s : State} (h : s.Sound) (i slot op : Nat) (f : Entry → State) (hf : ∀ a0, (f a0).Sound) :
    soundOut (State.xltCmd s i slot op f) := by
  simp only [State.xltCmd]
  repeat'
    first
    | with_reducible assumption | with_reducible apply hf | with_reducible refine fst_sound (by assumption) ?_
    | rw [soundOut_next] | simp only [sound_upd, sound_updTil] | (intro _) | with_reducible apply soundOut_ite
    | with_reducible apply sound_ite | split

theorem State.xltEnd_sound {s : State} (h : s.Sound) (i slot st : Nat) : (State.xltEnd s i slot st).Sound := by
  simp only [State.xltEnd]
  repeat'
    first
    | with_reducible assumption | with_reducible apply State.complete_sound
    | with_reducible refine fst_sound (by assumption) ?_ | simp only [sound_upd, sound_updTil] | (intro _)
    | with_reducible apply sound_ite | split

theorem State.xltSwitch_sound {s : State} (h : s.Sound) (i slot : Nat) : (State.xltSwitch s i slot).Sound := by
  simp only [State.xltSwitch]
  repeat'
    first
    | with_reducible assumption | with_reducible refine fst_sound (by assumption) ?_
    | simp only [sound_upd, sound_updTil] | (intro _) | with_reducible apply sound_ite | split

theorem State.xltTarget_sound {s : State} (h : s.Sound) (a va z : Nat) (x4 : Hit) (valid ow : Bool) : (State.xltTarget
    s a va z x4 valid ow).1.Sound := by
  simp only [State.xltTarget]
  repeat'
    first
    | with_reducible assumption | with_reducible apply State.badEntry_sound
    | with_reducible refine State.buildTo_sound (e := by assumption) ?_ ..
    | with_reducible refine fst_sound (by assumption) ?_ | simp only [sound_upd, sound_updTil] | (intro _)
    | with_reducible apply sound_ite | split

theorem State.xltPage_sound {s : State} (h : s.Sound) (i slot : Nat) (x3 : Entry) (well pa pin valid ow : Bool) (f :
    State → Nat → Nat → State) (hf : ∀ a0 a1 a2, a0.Sound → (f a0 a1 a2).Sound) : (State.xltPage s i slot x3 well pa
    pin valid ow f).Sound := by
  simp only [State.xltPage]
  repeat'
    first
    | with_reducible assumption | with_reducible apply State.xltEnd_sound
    | with_reducible apply State.xltTarget_sound | with_reducible apply hf
    | with_reducible refine fst_sound (by assumption) ?_ | simp only [sound_upd, sound_updTil] | (intro _)
    | with_reducible apply sound_ite | split

theorem execXltAsidCreate_sound {s : State} (h : s.Sound) (i slot : Nat) : soundOut (execXltAsidCreate i slot s) := by
  simp only [execXltAsidCreate]
  repeat'
    first
    | with_reducible assumption | with_reducible apply State.xltCmd_sound | with_reducible apply State.xltEnd_sound
    | with_reducible apply State.write_sound | with_reducible apply State.put_sound
    | with_reducible refine fst_sound (by assumption) ?_ | rw [soundOut_next] | simp only [sound_upd, sound_updTil]
    | (intro _) | with_reducible apply soundOut_ite | with_reducible apply sound_ite | split

theorem State.dropAsid_sound {s : State} (h : s.Sound) (i a : Nat) : (State.dropAsid s i a).Sound := by
  simp only [State.dropAsid]
  repeat'
    first
    | with_reducible assumption | with_reducible apply State.endUnresolved_sound
    | with_reducible apply State.setReg_sound | with_reducible apply State.deliverEnded_sound
    | with_reducible apply State.put_sound | with_reducible refine fst_sound (by assumption) ?_
    | simp only [sound_upd, sound_updTil] | (intro _) | with_reducible apply sound_ite | split

theorem execXltAsidDestroy_sound {s : State} (h : s.Sound) (i slot : Nat) : soundOut (execXltAsidDestroy i slot s) :=
    by
  simp only [execXltAsidDestroy]
  repeat'
    first
    | with_reducible assumption | with_reducible apply State.xltCmd_sound | with_reducible apply State.xltEnd_sound
    | with_reducible apply State.xltSwitch_sound | with_reducible apply State.dropAsid_sound
    | with_reducible refine fst_sound (by assumption) ?_ | rw [soundOut_next] | simp only [sound_upd, sound_updTil]
    | (intro _) | with_reducible apply soundOut_ite | with_reducible apply sound_ite | split

theorem execXltMap_sound {s : State} (h : s.Sound) (i slot : Nat) : soundOut (execXltMap i slot s) := by
  simp only [execXltMap]
  repeat'
    first
    | with_reducible assumption | with_reducible apply State.xltCmd_sound
    | with_reducible apply State.xltPage_sound | with_reducible apply State.xltSwitch_sound
    | with_reducible apply State.endService_sound | with_reducible apply State.setEntry_sound
    | with_reducible refine fst_sound (by assumption) ?_ | rw [soundOut_next] | simp only [sound_upd, sound_updTil]
    | (intro _) | with_reducible apply soundOut_ite | with_reducible apply sound_ite | split

theorem execXltUnmap_sound {s : State} (h : s.Sound) (i slot : Nat) : soundOut (execXltUnmap i slot s) := by
  simp only [execXltUnmap]
  repeat'
    first
    | with_reducible assumption | with_reducible apply State.xltCmd_sound
    | with_reducible apply State.xltPage_sound | with_reducible apply State.xltSwitch_sound
    | with_reducible apply State.endService_sound | with_reducible apply State.setEntry_sound
    | with_reducible refine fst_sound (by assumption) ?_ | rw [soundOut_next] | simp only [sound_upd, sound_updTil]
    | (intro _) | with_reducible apply soundOut_ite | with_reducible apply sound_ite | split

theorem execXltProtect_sound {s : State} (h : s.Sound) (i slot : Nat) : soundOut (execXltProtect i slot s) := by
  simp only [execXltProtect]
  repeat'
    first
    | with_reducible assumption | with_reducible apply State.xltCmd_sound
    | with_reducible apply State.xltPage_sound | with_reducible apply State.xltSwitch_sound
    | with_reducible apply State.setEntry_sound | with_reducible refine fst_sound (by assumption) ?_
    | rw [soundOut_next] | simp only [sound_upd, sound_updTil] | (intro _) | with_reducible apply soundOut_ite
    | with_reducible apply sound_ite | split

theorem execXltSetHost_sound {s : State} (h : s.Sound) (i slot : Nat) : soundOut (execXltSetHost i slot s) := by
  simp only [execXltSetHost]
  repeat'
    first
    | with_reducible assumption | with_reducible apply State.xltCmd_sound
    | with_reducible apply State.xltPage_sound | with_reducible apply State.xltSwitch_sound
    | with_reducible apply State.endService_sound | with_reducible apply State.setEntry_sound
    | with_reducible refine fst_sound (by assumption) ?_ | rw [soundOut_next] | simp only [sound_upd, sound_updTil]
    | (intro _) | with_reducible apply soundOut_ite | with_reducible apply sound_ite | split

theorem execXltInvalidateComplete_sound {s : State} (h : s.Sound) (i slot : Nat) : soundOut (execXltInvalidateComplete
    i slot s) := by
  simp only [execXltInvalidateComplete]
  repeat'
    first
    | with_reducible assumption | with_reducible apply State.xltEnd_sound
    | with_reducible refine fst_sound (by assumption) ?_ | rw [soundOut_next] | simp only [sound_upd, sound_updTil]
    | (intro _) | with_reducible apply soundOut_ite | with_reducible apply sound_ite | split

theorem execMigrateIn_sound {s : State} (h : s.Sound) (i slot : Nat) : soundOut (execMigrateIn i slot s) := by
  simp only [execMigrateIn]
  repeat'
    first
    | with_reducible assumption | with_reducible apply State.xltCmd_sound
    | with_reducible apply State.xltPage_sound | with_reducible apply State.setEntry_sound
    | with_reducible refine fst_sound (by assumption) ?_ | rw [soundOut_next] | simp only [sound_upd, sound_updTil]
    | (intro _) | with_reducible apply soundOut_ite | with_reducible apply sound_ite | split

theorem State.endMig_sound {s : State} (h : s.Sound) (m : Migration) (x2 st : Nat) : (State.endMig s m x2 st).Sound :=
    by
  simp only [State.endMig]
  repeat'
    first
    | with_reducible assumption | with_reducible apply State.endService_sound
    | with_reducible apply State.setEntry_sound | with_reducible apply State.xltEnd_sound
    | with_reducible refine fst_sound (by assumption) ?_ | simp only [sound_upd, sound_updTil] | (intro _)
    | with_reducible apply sound_ite | split

theorem execMigrateInComplete_sound {s : State} (h : s.Sound) (i slot : Nat) (data : Option (List Byte)) : soundOut
    (execMigrateInComplete i slot data s) := by
  simp only [execMigrateInComplete]
  repeat'
    first
    | with_reducible assumption | with_reducible apply State.endMig_sound | with_reducible apply State.write_sound
    | with_reducible apply State.raise_sound | with_reducible refine fst_sound (by assumption) ?_
    | rw [soundOut_next] | simp only [sound_upd, sound_updTil] | (intro _) | with_reducible apply soundOut_ite
    | with_reducible apply sound_ite | split

theorem execMigrateOut_sound {s : State} (h : s.Sound) (i slot : Nat) : soundOut (execMigrateOut i slot s) := by
  simp only [execMigrateOut]
  repeat'
    first
    | with_reducible assumption | with_reducible apply State.xltCmd_sound
    | with_reducible apply State.xltPage_sound | with_reducible apply State.xltEnd_sound
    | with_reducible apply State.setEntry_sound | with_reducible refine fst_sound (by assumption) ?_
    | rw [soundOut_next] | simp only [sound_upd, sound_updTil] | (intro _) | with_reducible apply soundOut_ite
    | with_reducible apply sound_ite | split

theorem State.pageToHost_sound {s : State} (h : s.Sound) (i pa host x4 : Nat) : (State.pageToHost s i pa host
    x4).Sound := by
  induction x4 generalizing s with
  | zero => exact h
  | succ x4 ih =>
    simp only [State.pageToHost]
    repeat'
      first
      | with_reducible assumption | with_reducible apply ih | with_reducible apply State.hostPut_sound
      | with_reducible apply State.logPoison_sound | with_reducible apply State.hostPoison_sound
      | with_reducible refine fst_sound (by assumption) ?_ | simp only [sound_upd, sound_updTil] | (intro _)
      | with_reducible apply sound_ite | split

theorem execMigrateOutComplete_sound {s : State} (h : s.Sound) (i slot : Nat) : soundOut (execMigrateOutComplete i
    slot s) := by
  simp only [execMigrateOutComplete]
  repeat'
    first
    | with_reducible assumption | with_reducible apply State.endMig_sound
    | with_reducible apply State.pageToHost_sound | with_reducible refine fst_sound (by assumption) ?_
    | rw [soundOut_next] | simp only [sound_upd, sound_updTil] | (intro _) | with_reducible apply soundOut_ite
    | with_reducible apply sound_ite | split

theorem execFaultFail_sound {s : State} (h : s.Sound) (i slot : Nat) : soundOut (execFaultFail i slot s) := by
  simp only [execFaultFail]
  repeat'
    first
    | with_reducible assumption | with_reducible apply State.xltCmd_sound | with_reducible apply State.xltEnd_sound
    | with_reducible apply State.deliverEnded_sound | with_reducible apply State.endUnresolved_sound
    | with_reducible refine fst_sound (by assumption) ?_ | rw [soundOut_next] | simp only [sound_upd, sound_updTil]
    | (intro _) | with_reducible apply soundOut_ite | with_reducible apply sound_ite | split

theorem execTranslationWalk_sound {s : State} (h : s.Sound) (i a va : Nat) (wr : Bool) (who : Waiter) : soundOut
    (execTranslationWalk i a va wr who s) := by
  simp only [execTranslationWalk]
  repeat'
    first
    | with_reducible assumption | with_reducible apply State.translate_sound
    | with_reducible refine fst_sound (by assumption) ?_ | rw [soundOut_next] | simp only [sound_upd, sound_updTil]
    | (intro _) | with_reducible apply soundOut_ite | with_reducible apply sound_ite | split

theorem execFaultBatchSend_sound {s : State} (h : s.Sound) (i : Nat) : soundOut (execFaultBatchSend i s) := by
  simp only [execFaultBatchSend]
  repeat'
    first
    | with_reducible assumption | with_reducible apply State.settle_sound
    | with_reducible apply State.sendBatch_sound | with_reducible refine fst_sound (by assumption) ?_
    | rw [soundOut_next] | simp only [sound_upd, sound_updTil] | (intro _) | with_reducible apply soundOut_ite
    | with_reducible apply sound_ite | split

theorem execParkedRequestRetry_sound {s : State} (h : s.Sound) (i a va : Nat) : soundOut (execParkedRequestRetry i a
    va s) := by
  simp only [execParkedRequestRetry]
  repeat'
    first
    | with_reducible assumption | with_reducible apply State.settle_sound | with_reducible apply State.resume_sound
    | with_reducible refine fst_sound (by assumption) ?_ | with_reducible apply sound_foldl
    | with_reducible apply sound_foldl_fst | rw [soundOut_next] | simp only [sound_upd, sound_updTil] | (intro _)
    | with_reducible apply soundOut_ite | with_reducible apply sound_ite | split

theorem execFaultTimeout_sound {s : State} (h : s.Sound) (i a va : Nat) : soundOut (execFaultTimeout i a va s) := by
  simp only [execFaultTimeout]
  repeat'
    first
    | with_reducible assumption | with_reducible apply State.deliverEnded_sound
    | with_reducible apply State.endUnresolved_sound | with_reducible refine fst_sound (by assumption) ?_
    | rw [soundOut_next] | simp only [sound_upd, sound_updTil] | (intro _) | with_reducible apply soundOut_ite
    | with_reducible apply sound_ite | split

theorem execXltFrConsWrite_sound {s : State} (h : s.Sound) (i val : Nat) : soundOut (execXltFrConsWrite i val s) := by
  simp only [execXltFrConsWrite]
  repeat'
    first
    | with_reducible assumption | with_reducible apply State.settle_sound
    | with_reducible apply State.flushHeld_sound | with_reducible apply State.put_sound
    | with_reducible refine fst_sound (by assumption) ?_ | rw [soundOut_next] | simp only [sound_upd, sound_updTil]
    | (intro _) | with_reducible apply soundOut_ite | with_reducible apply sound_ite | split

theorem execXltFrEnableWrite_sound {s : State} (h : s.Sound) (i val : Nat) : soundOut (execXltFrEnableWrite i val s)
    := by
  simp only [execXltFrEnableWrite]
  repeat'
    first
    | with_reducible assumption | with_reducible apply State.put_sound
    | with_reducible apply State.deliverEnded_sound | with_reducible apply State.endAllFaults_sound
    | with_reducible refine fst_sound (by assumption) ?_ | rw [soundOut_next] | simp only [sound_upd, sound_updTil]
    | (intro _) | with_reducible apply soundOut_ite | with_reducible apply sound_ite | split

end Sys2Proof.Machine
end

