-- ==== Sys2Proof/Laws/SoundHost.lean ====
section
/-! SUPPORT. The operations of Host.lean keep a state well kept. -/
namespace Sys2Proof.Machine
set_option linter.unusedTactic false
set_option linter.unreachableTactic false
set_option linter.unusedSimpArgs false
open Sys2Proof

theorem State.qpAbort_sound {s : State} (h : s.Sound) (n : Nat) : (State.qpAbort s n).Sound := by
  simp only [State.qpAbort]
  repeat'
    first
    | with_reducible assumption | with_reducible apply State.traceQp_sound
    | with_reducible apply State.complete_sound | with_reducible apply State.qpFail_sound
    | with_reducible apply State.setQp_sound | with_reducible refine fst_sound (by assumption) ?_
    | with_reducible apply sound_foldl | with_reducible apply sound_foldl_fst | simp only [sound_upd, sound_updTil]
    | (intro _) | with_reducible apply sound_ite | split

theorem State.undoMig_sound {s : State} (h : s.Sound) (m : Migration) (st : Nat) : (State.undoMig s m st).Sound := by
  simp only [State.undoMig]
  repeat'
    first
    | with_reducible assumption | with_reducible apply State.endMig_sound
    | with_reducible refine fst_sound (by assumption) ?_ | simp only [sound_upd, sound_updTil] | (intro _)
    | with_reducible apply sound_ite | split

theorem State.stopWork_sound {s : State} (h : s.Sound) (i q : Nat) (x3 : Entry) : (State.stopWork s i q x3).Sound :=
    by
  simp only [State.stopWork]
  repeat'
    first
    | with_reducible assumption | with_reducible apply State.qpAbort_sound
    | with_reducible apply State.colEarlyEnd_sound | with_reducible apply State.undoMig_sound
    | with_reducible apply State.abortLoad_sound | with_reducible apply State.setModel_sound
    | with_reducible apply State.dropCopy_sound | with_reducible refine fst_sound (by assumption) ?_
    | with_reducible apply sound_foldl | with_reducible apply sound_foldl_fst | simp only [sound_upd, sound_updTil]
    | (intro _) | with_reducible apply sound_ite | split

theorem State.abortEntry_sound {s : State} (h : s.Sound) (i q : Nat) (x3 : Entry) : (State.abortEntry s i q x3).Sound
    := by
  simp only [State.abortEntry]
  repeat'
    first
    | with_reducible assumption | with_reducible apply State.stopWork_sound
    | with_reducible apply State.complete_sound | with_reducible refine fst_sound (by assumption) ?_
    | simp only [sound_upd, sound_updTil] | (intro _) | with_reducible apply sound_ite | split

theorem State.abortUntaken_sound {s : State} (h : s.Sound) (i q : Nat) (x : Queue) (n : Nat) (ring : List Byte) (x6 :
    Nat) : (State.abortUntaken s i q x n ring x6).Sound := by
  induction x6 generalizing s n ring with
  | zero => exact h
  | succ x6 ih =>
    simp only [State.abortUntaken]
    repeat'
      first
      | with_reducible assumption | with_reducible apply ih | with_reducible apply State.ringPut_sound
      | with_reducible refine fst_sound (by assumption) ?_ | simp only [sound_upd, sound_updTil] | (intro _)
      | with_reducible apply sound_ite | split

theorem State.clearQerr_sound {s : State} (h : s.Sound) (i q : Nat) : (State.clearQerr s i q).Sound := by
  simp only [State.clearQerr]
  repeat'
    first
    | with_reducible assumption | with_reducible apply State.setReg_sound
    | with_reducible refine fst_sound (by assumption) ?_ | simp only [sound_upd, sound_updTil] | (intro _)
    | with_reducible apply sound_ite | split

theorem State.resetQueue_sound {s : State} (h : s.Sound) (i q st : Nat) (ring : List Byte) : (State.resetQueue s i q
    st ring).Sound := by
  simp only [State.resetQueue]
  repeat'
    first
    | with_reducible assumption | with_reducible apply State.abortEntry_sound
    | with_reducible apply State.clearQerr_sound | with_reducible apply State.abortUntaken_sound
    | with_reducible apply State.ringPut_sound | with_reducible apply State.setQueue_sound
    | with_reducible refine fst_sound (by assumption) ?_ | with_reducible apply sound_foldl
    | with_reducible apply sound_foldl_fst | simp only [sound_upd, sound_updTil] | (intro _)
    | with_reducible apply sound_ite | split

theorem State.enableAdmin_sound {s : State} (h : s.Sound) (i : Nat) : (State.enableAdmin s i).Sound := by
  simp only [State.enableAdmin]
  repeat'
    first
    | with_reducible assumption | with_reducible apply State.setQueue_sound | with_reducible apply State.put_sound
    | with_reducible refine fst_sound (by assumption) ?_ | simp only [sound_upd, sound_updTil] | (intro _)
    | with_reducible apply sound_ite | split

theorem State.adminCfgWrite_sound {s : State} (h : s.Sound) (i val : Nat) (ring : List Byte) : (State.adminCfgWrite s
    i val ring).Sound := by
  simp only [State.adminCfgWrite]
  repeat'
    first
    | with_reducible assumption | with_reducible apply State.put_sound | with_reducible apply State.setQueue_sound
    | with_reducible apply State.resetQueue_sound | with_reducible apply State.enableAdmin_sound
    | with_reducible refine fst_sound (by assumption) ?_ | simp only [sound_upd, sound_updTil] | (intro _)
    | with_reducible apply sound_ite | split

theorem execAdminQueueEnable_sound {s : State} (h : s.Sound) (i cfg : Nat) : soundOut (execAdminQueueEnable i cfg s)
    := by
  simp only [execAdminQueueEnable]
  repeat'
    first
    | with_reducible assumption | with_reducible apply State.adminCfgWrite_sound
    | with_reducible refine fst_sound (by assumption) ?_ | rw [soundOut_next] | simp only [sound_upd, sound_updTil]
    | (intro _) | with_reducible apply soundOut_ite | with_reducible apply sound_ite | split

theorem execAdminQueueDisable_sound {s : State} (h : s.Sound) (i : Nat) (ring : List Byte) : soundOut
    (execAdminQueueDisable i ring s) := by
  simp only [execAdminQueueDisable]
  repeat'
    first
    | with_reducible assumption | with_reducible apply State.adminCfgWrite_sound
    | with_reducible refine fst_sound (by assumption) ?_ | rw [soundOut_next] | simp only [sound_upd, sound_updTil]
    | (intro _) | with_reducible apply soundOut_ite | with_reducible apply sound_ite | split

theorem execIdentify_sound {s : State} (h : s.Sound) (i slot : Nat) : soundOut (execIdentify i slot s) := by
  simp only [execIdentify]
  repeat'
    first
    | with_reducible assumption | with_reducible apply State.adminCmd_sound
    | with_reducible apply State.adminEnd_sound | with_reducible apply State.ringPut_sound
    | with_reducible refine fst_sound (by assumption) ?_ | rw [soundOut_next] | simp only [sound_upd, sound_updTil]
    | (intro _) | with_reducible apply soundOut_ite | with_reducible apply sound_ite | split

theorem execQueueCreate_sound {s : State} (h : s.Sound) (i slot : Nat) : soundOut (execQueueCreate i slot s) := by
  simp only [execQueueCreate]
  repeat'
    first
    | with_reducible assumption | with_reducible apply State.adminCmd_sound
    | with_reducible apply State.adminEnd_sound | with_reducible apply State.bump_sound
    | with_reducible apply State.setQueue_sound | with_reducible refine fst_sound (by assumption) ?_
    | rw [soundOut_next] | simp only [sound_upd, sound_updTil] | (intro _) | with_reducible apply soundOut_ite
    | with_reducible apply sound_ite | split

theorem State.queueCmd_sound {s : State} (h : s.Sound) (i slot op : Nat) (f : Nat → State) (hf : ∀ a0, (f a0).Sound) :
    soundOut (State.queueCmd s i slot op f) := by
  simp only [State.queueCmd]
  repeat'
    first
    | with_reducible assumption | with_reducible apply State.adminCmd_sound
    | with_reducible apply State.adminEnd_sound | with_reducible apply hf
    | with_reducible refine fst_sound (by assumption) ?_ | rw [soundOut_next] | simp only [sound_upd, sound_updTil]
    | (intro _) | with_reducible apply soundOut_ite | with_reducible apply sound_ite | split

theorem execQueueDestroy_sound {s : State} (h : s.Sound) (i slot : Nat) (ring : List Byte) : soundOut
    (execQueueDestroy i slot ring s) := by
  simp only [execQueueDestroy]
  repeat'
    first
    | with_reducible assumption | with_reducible apply State.queueCmd_sound
    | with_reducible apply State.adminEnd_sound | with_reducible apply State.resetQueue_sound
    | with_reducible refine fst_sound (by assumption) ?_ | rw [soundOut_next] | simp only [sound_upd, sound_updTil]
    | (intro _) | with_reducible apply soundOut_ite | with_reducible apply sound_ite | split

theorem execQueueReset_sound {s : State} (h : s.Sound) (i slot : Nat) (ring : List Byte) : soundOut (execQueueReset i
    slot ring s) := by
  simp only [execQueueReset]
  repeat'
    first
    | with_reducible assumption | with_reducible apply State.queueCmd_sound
    | with_reducible apply State.adminEnd_sound | with_reducible apply State.resetQueue_sound
    | with_reducible refine fst_sound (by assumption) ?_ | rw [soundOut_next] | simp only [sound_upd, sound_updTil]
    | (intro _) | with_reducible apply soundOut_ite | with_reducible apply sound_ite | split

theorem execTileAssign_sound {s : State} (h : s.Sound) (i slot : Nat) : soundOut (execTileAssign i slot s) := by
  simp only [execTileAssign]
  repeat'
    first
    | with_reducible assumption | with_reducible apply State.adminCmd_sound
    | with_reducible apply State.adminEnd_sound | with_reducible apply State.startAssign_sound
    | with_reducible apply State.refuseAssign_sound | with_reducible refine fst_sound (by assumption) ?_
    | rw [soundOut_next] | simp only [sound_upd, sound_updTil] | (intro _) | with_reducible apply soundOut_ite
    | with_reducible apply sound_ite | split

theorem State.startCopy_sound {s : State} (h : s.Sound) (i q slot : Nat) : (State.startCopy s i q slot).Sound := by
  simp only [State.startCopy]
  repeat'
    first
    | with_reducible assumption | with_reducible refine fst_sound (by assumption) ?_
    | simp only [sound_upd, sound_updTil] | (intro _) | with_reducible apply sound_ite | split

theorem State.copyCmd_sound {s : State} (h : s.Sound) (i q slot op : Nat) : (State.copyCmd s i q slot op).Sound := by
  simp only [State.copyCmd]
  repeat'
    first
    | with_reducible assumption | with_reducible apply State.complete_sound
    | with_reducible apply State.startCopy_sound | with_reducible refine fst_sound (by assumption) ?_
    | simp only [sound_upd, sound_updTil] | (intro _) | with_reducible apply sound_ite | split

theorem execHostToDev_sound {s : State} (h : s.Sound) (i q slot : Nat) : soundOut (execHostToDev i q slot s) := by
  simp only [execHostToDev]
  repeat'
    first
    | with_reducible assumption | with_reducible apply State.copyCmd_sound
    | with_reducible refine fst_sound (by assumption) ?_ | rw [soundOut_next] | simp only [sound_upd, sound_updTil]
    | (intro _) | with_reducible apply soundOut_ite | with_reducible apply sound_ite | split

theorem execDevToHost_sound {s : State} (h : s.Sound) (i q slot : Nat) : soundOut (execDevToHost i q slot s) := by
  simp only [execDevToHost]
  repeat'
    first
    | with_reducible assumption | with_reducible apply State.copyCmd_sound
    | with_reducible refine fst_sound (by assumption) ?_ | rw [soundOut_next] | simp only [sound_upd, sound_updTil]
    | (intro _) | with_reducible apply soundOut_ite | with_reducible apply sound_ite | split

theorem execInlineToDev_sound {s : State} (h : s.Sound) (i q slot : Nat) : soundOut (execInlineToDev i q slot s) := by
  simp only [execInlineToDev]
  repeat'
    first
    | with_reducible assumption | with_reducible apply State.complete_sound
    | with_reducible apply State.startCopy_sound | with_reducible refine fst_sound (by assumption) ?_
    | rw [soundOut_next] | simp only [sound_upd, sound_updTil] | (intro _) | with_reducible apply soundOut_ite
    | with_reducible apply sound_ite | split

theorem execCopyComplete_sound {s : State} (h : s.Sound) (i q slot tile : Nat) (data : List Byte) : soundOut
    (execCopyComplete i q slot tile data s) := by
  simp only [execCopyComplete]
  repeat'
    first
    | with_reducible assumption | with_reducible apply State.runCopy_sound
    | with_reducible refine fst_sound (by assumption) ?_ | rw [soundOut_next] | simp only [sound_upd, sound_updTil]
    | (intro _) | with_reducible apply soundOut_ite | with_reducible apply sound_ite | split

theorem execHeartbeatWrite_sound {s : State} (h : s.Sound) (i : Nat) : soundOut (execHeartbeatWrite i s) := by
  simp only [execHeartbeatWrite]
  repeat'
    first
    | with_reducible assumption | with_reducible refine fst_sound (by assumption) ?_ | rw [soundOut_next]
    | simp only [sound_upd, sound_updTil] | (intro _) | with_reducible apply soundOut_ite
    | with_reducible apply sound_ite | split

theorem State.detach_sound {s : State} (h : s.Sound) (i cause : Nat) : (State.detach s i cause).Sound := by
  simp only [State.detach]
  repeat'
    first
    | with_reducible assumption | with_reducible apply State.put_sound | with_reducible apply State.copyDone_sound
    | with_reducible apply State.undoMig_sound | with_reducible apply State.deliverEnded_sound
    | with_reducible apply State.endAllFaults_sound | with_reducible apply State.abortLoad_sound
    | with_reducible refine fst_sound (by assumption) ?_ | with_reducible apply sound_foldl
    | with_reducible apply sound_foldl_fst | simp only [sound_upd, sound_updTil] | (intro _)
    | with_reducible apply sound_ite | split

theorem execHeartbeatTimeout_sound {s : State} (h : s.Sound) (i : Nat) : soundOut (execHeartbeatTimeout i s) := by
  simp only [execHeartbeatTimeout]
  repeat'
    first
    | with_reducible assumption | with_reducible apply State.detach_sound
    | with_reducible refine fst_sound (by assumption) ?_ | rw [soundOut_next] | simp only [sound_upd, sound_updTil]
    | (intro _) | with_reducible apply soundOut_ite | with_reducible apply sound_ite | split

theorem State.hostDown_sound {s : State} (h : s.Sound) : (State.hostDown s).Sound := by
  simp only [State.hostDown]
  repeat'
    first
    | with_reducible assumption | with_reducible apply State.detach_sound
    | with_reducible refine fst_sound (by assumption) ?_ | with_reducible apply sound_foldl
    | with_reducible apply sound_foldl_fst | simp only [sound_upd, sound_updTil] | (intro _)
    | with_reducible apply sound_ite | split

theorem execPcieLinkDown_sound {s : State} (h : s.Sound) : soundOut (execPcieLinkDown s) := by
  simp only [execPcieLinkDown]
  repeat'
    first
    | with_reducible assumption | with_reducible apply State.hostDown_sound
    | with_reducible refine fst_sound (by assumption) ?_ | rw [soundOut_next] | simp only [sound_upd, sound_updTil]
    | (intro _) | with_reducible apply soundOut_ite | with_reducible apply sound_ite | split

theorem execPerstAssert_sound {s : State} (h : s.Sound) : soundOut (execPerstAssert s) := by
  simp only [execPerstAssert]
  repeat'
    first
    | with_reducible assumption | with_reducible apply State.hostDown_sound
    | with_reducible refine fst_sound (by assumption) ?_ | rw [soundOut_next] | simp only [sound_upd, sound_updTil]
    | (intro _) | with_reducible apply soundOut_ite | with_reducible apply sound_ite | split

theorem execPcieLinkUp_sound {s : State} (h : s.Sound) : soundOut (execPcieLinkUp s) := by
  simp only [execPcieLinkUp]
  repeat'
    first
    | with_reducible assumption | with_reducible refine fst_sound (by assumption) ?_
    | with_reducible apply sound_foldl | with_reducible apply sound_foldl_fst | rw [soundOut_next]
    | simp only [sound_upd, sound_updTil] | (intro _) | with_reducible apply soundOut_ite
    | with_reducible apply sound_ite | split

theorem execBmeClear_sound {s : State} (h : s.Sound) (fn : Nat) : soundOut (execBmeClear fn s) := by
  simp only [execBmeClear]
  repeat'
    first
    | with_reducible assumption | with_reducible apply State.detach_sound
    | with_reducible refine fst_sound (by assumption) ?_ | rw [soundOut_next] | simp only [sound_upd, sound_updTil]
    | (intro _) | with_reducible apply soundOut_ite | with_reducible apply sound_ite | split

theorem State.dropQueues_sound {s : State} (h : s.Sound) (i : Nat) : (State.dropQueues s i).Sound := by
  simp only [State.dropQueues]
  repeat'
    first
    | with_reducible assumption | with_reducible apply State.setReg_sound
    | with_reducible refine fst_sound (by assumption) ?_ | with_reducible apply sound_foldl
    | with_reducible apply sound_foldl_fst | simp only [sound_upd, sound_updTil] | (intro _)
    | with_reducible apply sound_ite | split

theorem execReattach_sound {s : State} (h : s.Sound) (i slot : Nat) : soundOut (execReattach i slot s) := by
  simp only [execReattach]
  repeat'
    first
    | with_reducible assumption | with_reducible apply State.adminCmd_sound
    | with_reducible apply State.adminEnd_sound | with_reducible apply State.abortEntry_sound
    | with_reducible apply State.dropQueues_sound | with_reducible apply State.ringPut_sound
    | with_reducible apply State.put_sound | with_reducible refine fst_sound (by assumption) ?_
    | with_reducible apply sound_foldl | with_reducible apply sound_foldl_fst | rw [soundOut_next]
    | simp only [sound_upd, sound_updTil] | (intro _) | with_reducible apply soundOut_ite
    | with_reducible apply sound_ite | split

theorem State.d640Write_sound {s : State} (h : s.Sound) (i val : Nat) : (State.d640Write s i val).Sound := by
  simp only [State.d640Write]
  repeat'
    first
    | with_reducible assumption | with_reducible apply State.put_sound | with_reducible apply State.traceMgmt_sound
    | with_reducible apply State.setReg_sound | with_reducible refine fst_sound (by assumption) ?_
    | simp only [sound_upd, sound_updTil] | (intro _) | with_reducible apply sound_ite | split

theorem State.d640End_sound {s : State} (h : s.Sound) (i code : Nat) (data : List Nat) : (State.d640End s i code
    data).Sound := by
  simp only [State.d640End]
  repeat'
    first
    | with_reducible assumption | with_reducible apply State.setReg_sound
    | with_reducible apply State.traceMgmt_sound | with_reducible apply State.put_sound
    | with_reducible refine fst_sound (by assumption) ?_ | with_reducible apply sound_foldl
    | with_reducible apply sound_foldl_fst | simp only [sound_upd, sound_updTil] | (intro _)
    | with_reducible apply sound_ite | split

theorem State.d640_sound {s : State} {f : State} (h : s.Sound) (hf : f.Sound) (i : Nat) (p : Nat → Bool) : soundOut
    (State.d640 s i p f) := by
  simp only [State.d640]
  repeat'
    first
    | with_reducible assumption | with_reducible refine fst_sound (by assumption) ?_ | rw [soundOut_next]
    | simp only [sound_upd, sound_updTil] | (intro _) | with_reducible apply soundOut_ite
    | with_reducible apply sound_ite | split

theorem execD640GetVersion_sound {s : State} (h : s.Sound) (i : Nat) : soundOut (execD640GetVersion i s) := by
  simp only [execD640GetVersion]
  repeat'
    first
    | with_reducible assumption | with_reducible apply State.d640_sound | with_reducible apply State.d640End_sound
    | with_reducible refine fst_sound (by assumption) ?_ | rw [soundOut_next] | simp only [sound_upd, sound_updTil]
    | (intro _) | with_reducible apply soundOut_ite | with_reducible apply sound_ite | split

theorem execD640GetPort_sound {s : State} (h : s.Sound) (i : Nat) : soundOut (execD640GetPort i s) := by
  simp only [execD640GetPort]
  repeat'
    first
    | with_reducible assumption | with_reducible apply State.d640_sound | with_reducible apply State.d640End_sound
    | with_reducible refine fst_sound (by assumption) ?_ | rw [soundOut_next] | simp only [sound_upd, sound_updTil]
    | (intro _) | with_reducible apply soundOut_ite | with_reducible apply sound_ite | split

theorem execD640GetPortCounters_sound {s : State} (h : s.Sound) (i : Nat) : soundOut (execD640GetPortCounters i s) :=
    by
  simp only [execD640GetPortCounters]
  repeat'
    first
    | with_reducible assumption | with_reducible apply State.d640_sound | with_reducible apply State.d640End_sound
    | with_reducible refine fst_sound (by assumption) ?_ | rw [soundOut_next] | simp only [sound_upd, sound_updTil]
    | (intro _) | with_reducible apply soundOut_ite | with_reducible apply sound_ite | split

theorem execD640GetTemp_sound {s : State} (h : s.Sound) (i : Nat) (temps : List Nat) : soundOut (execD640GetTemp i
    temps s) := by
  simp only [execD640GetTemp]
  repeat'
    first
    | with_reducible assumption | with_reducible apply State.d640_sound | with_reducible apply State.d640End_sound
    | with_reducible refine fst_sound (by assumption) ?_ | rw [soundOut_next] | simp only [sound_upd, sound_updTil]
    | (intro _) | with_reducible apply soundOut_ite | with_reducible apply sound_ite | split

theorem execD640GetMac_sound {s : State} (h : s.Sound) (i : Nat) : soundOut (execD640GetMac i s) := by
  simp only [execD640GetMac]
  repeat'
    first
    | with_reducible assumption | with_reducible apply State.d640_sound | with_reducible apply State.d640End_sound
    | with_reducible refine fst_sound (by assumption) ?_ | rw [soundOut_next] | simp only [sound_upd, sound_updTil]
    | (intro _) | with_reducible apply soundOut_ite | with_reducible apply sound_ite | split

theorem execD640Echo_sound {s : State} (h : s.Sound) (i : Nat) : soundOut (execD640Echo i s) := by
  simp only [execD640Echo]
  repeat'
    first
    | with_reducible assumption | with_reducible apply State.d640_sound | with_reducible apply State.d640End_sound
    | with_reducible refine fst_sound (by assumption) ?_ | rw [soundOut_next] | simp only [sound_upd, sound_updTil]
    | (intro _) | with_reducible apply soundOut_ite | with_reducible apply sound_ite | split

theorem execD640Unsupported_sound {s : State} (h : s.Sound) (i : Nat) : soundOut (execD640Unsupported i s) := by
  simp only [execD640Unsupported]
  repeat'
    first
    | with_reducible assumption | with_reducible apply State.d640_sound | with_reducible apply State.d640End_sound
    | with_reducible refine fst_sound (by assumption) ?_ | rw [soundOut_next] | simp only [sound_upd, sound_updTil]
    | (intro _) | with_reducible apply soundOut_ite | with_reducible apply sound_ite | split

end Sys2Proof.Machine
end

