-- ==== Sys2Proof/Laws/SoundInstance.lean ====
section
/-! SUPPORT. The operations of Instance.lean keep a state well kept. -/
namespace Sys2Proof.Machine
set_option linter.unusedTactic false
set_option linter.unreachableTactic false
set_option linter.unusedSimpArgs false
open Sys2Proof

theorem State.resetRange_sound {s : State} (h : s.Sound) (a b : Nat) : (State.resetRange s a b).Sound := by
  have hc := csrOk_filter h.csr fun p => !(a ≤ p.1 && p.1 < b)
  exact ⟨h.mem, h.poison, hc, h.tiles, h.tilesOk⟩

theorem State.quiesce_sound {s : State} (h : s.Sound) (i : Nat) : (State.quiesce s i).Sound := by
  simp only [State.quiesce]
  repeat'
    first
    | with_reducible assumption | with_reducible apply State.setQp_sound | with_reducible apply State.put_sound
    | with_reducible refine fst_sound (by assumption) ?_ | with_reducible apply sound_foldl
    | with_reducible apply sound_foldl_fst | simp only [sound_upd, sound_updTil] | (intro _)
    | with_reducible apply sound_ite | split

theorem State.instEnd_sound {s : State} (h : s.Sound) (st : Nat) : (State.instEnd s st).Sound := by
  simp only [State.instEnd]
  repeat'
    first
    | with_reducible assumption | with_reducible apply State.put_sound | with_reducible apply State.traceMgmt_sound
    | with_reducible refine fst_sound (by assumption) ?_ | simp only [sound_upd, sound_updTil] | (intro _)
    | with_reducible apply sound_ite | split

theorem State.instEndOf_sound {s : State} (h : s.Sound) (i : Nat) : (State.instEndOf s i).Sound := by
  simp only [State.instEndOf]
  repeat'
    first
    | with_reducible assumption | with_reducible apply State.instEnd_sound
    | with_reducible refine fst_sound (by assumption) ?_ | simp only [sound_upd, sound_updTil] | (intro _)
    | with_reducible apply sound_ite | split

theorem State.quiesced_sound {s : State} (h : s.Sound) (i : Nat) (forced : Bool) : (State.quiesced s i forced).Sound
    := by
  simp only [State.quiesced]
  repeat'
    first
    | with_reducible assumption | with_reducible apply State.raise_sound | with_reducible apply State.put_sound
    | with_reducible apply State.instEndOf_sound | with_reducible apply State.raiseIf_sound
    | with_reducible refine fst_sound (by assumption) ?_ | simp only [sound_upd, sound_updTil] | (intro _)
    | with_reducible apply sound_ite | split

theorem State.forceQuiesce_sound {s : State} (h : s.Sound) (i : Nat) : (State.forceQuiesce s i).Sound := by
  simp only [State.forceQuiesce]
  repeat'
    first
    | with_reducible assumption | with_reducible apply State.abortEntry_sound
    | with_reducible apply State.qpFail_sound | with_reducible apply State.complete_sound
    | with_reducible apply State.quiesced_sound | with_reducible apply State.deliverEnded_sound
    | with_reducible apply State.endAllFaults_sound | with_reducible refine fst_sound (by assumption) ?_
    | with_reducible apply sound_foldl | with_reducible apply sound_foldl_fst | simp only [sound_upd, sound_updTil]
    | (intro _) | with_reducible apply sound_ite | split

theorem State.resumeInst_sound {s : State} (h : s.Sound) (i : Nat) : (State.resumeInst s i).Sound := by
  simp only [State.resumeInst]
  repeat'
    first
    | with_reducible assumption | with_reducible apply State.setQp_sound | with_reducible apply State.put_sound
    | with_reducible refine fst_sound (by assumption) ?_ | with_reducible apply sound_foldl
    | with_reducible apply sound_foldl_fst | simp only [sound_upd, sound_updTil] | (intro _)
    | with_reducible apply sound_ite | split

theorem State.resetMailbox_sound {s : State} (h : s.Sound) (i : Nat) (remove : Bool) : (State.resetMailbox s i
    remove).Sound := by
  simp only [State.resetMailbox]
  repeat'
    first
    | with_reducible assumption | with_reducible apply State.setReg_sound
    | with_reducible refine fst_sound (by assumption) ?_ | simp only [sound_upd, sound_updTil] | (intro _)
    | with_reducible apply sound_ite | split

theorem State.resetRings_sound {s : State} (h : s.Sound) (i : Nat) (remove : Bool) : (State.resetRings s i
    remove).Sound := by
  simp only [State.resetRings]
  repeat'
    first
    | with_reducible assumption | with_reducible apply State.complete_sound
    | with_reducible apply State.abortEntry_sound | with_reducible apply State.qpReset_sound
    | with_reducible apply State.groupDestroy_sound | with_reducible apply State.resetRange_sound
    | with_reducible apply State.put_sound | with_reducible apply State.setReg_sound
    | with_reducible refine fst_sound (by assumption) ?_ | with_reducible apply sound_foldl
    | with_reducible apply sound_foldl_fst | simp only [sound_upd, sound_updTil] | (intro _)
    | with_reducible apply sound_ite | split

theorem State.resetXlt_sound {s : State} (h : s.Sound) (i : Nat) : (State.resetXlt s i).Sound := by
  simp only [State.resetXlt]
  repeat'
    first
    | with_reducible assumption | with_reducible apply State.put_sound
    | with_reducible apply State.deliverEnded_sound | with_reducible apply State.endAllFaults_sound
    | with_reducible apply State.dropAsid_sound | with_reducible refine fst_sound (by assumption) ?_
    | with_reducible apply sound_foldl | with_reducible apply sound_foldl_fst | simp only [sound_upd, sound_updTil]
    | (intro _) | with_reducible apply sound_ite | split

theorem State.clearCtx_sound {s : State} (h : s.Sound) (c : Nat) : (State.clearCtx s c).Sound := by
  simp only [State.clearCtx]
  repeat'
    first
    | with_reducible assumption | with_reducible refine fst_sound (by assumption) ?_
    | simp only [sound_upd, sound_updTil] | (intro _) | with_reducible apply sound_ite | split

theorem State.resetShares_sound {s : State} (h : s.Sound) (i : Nat) : (State.resetShares s i).Sound := by
  simp only [State.resetShares]
  repeat'
    first
    | with_reducible assumption | with_reducible apply State.disableCq_sound
    | with_reducible apply State.setReg_sound | with_reducible apply State.resetRange_sound
    | with_reducible apply State.clearCtx_sound | with_reducible refine fst_sound (by assumption) ?_
    | with_reducible apply sound_foldl | with_reducible apply sound_foldl_fst | simp only [sound_upd, sound_updTil]
    | (intro _) | with_reducible apply sound_ite | split

theorem State.reassign_sound {s : State} (h : s.Sound) (t : Nat) : (State.reassign s t).Sound := by
  simp only [State.reassign]
  repeat'
    first
    | with_reducible assumption | with_reducible apply State.startAssign_sound
    | with_reducible apply State.put_sound | with_reducible refine fst_sound (by assumption) ?_
    | simp only [sound_upd, sound_updTil] | (intro _) | with_reducible apply sound_ite | split

theorem State.resetTiles_sound {s : State} (h : s.Sound) (i : Nat) : (State.resetTiles s i).Sound := by
  simp only [State.resetTiles]
  repeat'
    first
    | with_reducible assumption | with_reducible apply State.reassign_sound | with_reducible apply State.put_sound
    | with_reducible refine fst_sound (by assumption) ?_ | with_reducible apply sound_foldl
    | with_reducible apply sound_foldl_fst | simp only [sound_upd, sound_updTil] | (intro _)
    | with_reducible apply sound_ite | split

theorem State.zeroFill_sound {s : State} (h : s.Sound) (i : Nat) : (State.zeroFill s i).Sound := by
  simp only [State.zeroFill]
  constructor
  · exact filter_canonical 0 h.mem _
  · exact filter_canonical false h.poison _
  · exact h.csr
  · exact h.tiles
  · exact h.tilesOk

theorem State.rebasePorts_sound {s : State} (h : s.Sound) (i : Nat) : (State.rebasePorts s i).Sound := by
  simp only [State.rebasePorts]
  repeat'
    first
    | with_reducible assumption | with_reducible refine fst_sound (by assumption) ?_
    | with_reducible apply sound_foldl | with_reducible apply sound_foldl_fst | simp only [sound_upd, sound_updTil]
    | (intro _) | with_reducible apply sound_ite | split

theorem State.mbxIntr_sound {s : State} (h : s.Sound) (toHost : Bool) (i b : Nat) : (State.mbxIntr s toHost i b).Sound
    := by
  simp only [State.mbxIntr]
  repeat'
    first
    | with_reducible assumption | with_reducible apply State.irq_sound | with_reducible apply State.setReg_sound
    | with_reducible refine fst_sound (by assumption) ?_ | simp only [sound_upd, sound_updTil] | (intro _)
    | with_reducible apply sound_ite | split

theorem State.mbxPost_sound {s : State} (h : s.Sound) (host : Bool) (i len sender : Nat) : (State.mbxPost s host i len
    sender).Sound := by
  simp only [State.mbxPost]
  repeat'
    first
    | with_reducible assumption | with_reducible apply State.setReg_sound
    | with_reducible apply State.mbxIntr_sound | with_reducible refine fst_sound (by assumption) ?_
    | with_reducible apply sound_foldl | with_reducible apply sound_foldl_fst | simp only [sound_upd, sound_updTil]
    | (intro _) | with_reducible apply sound_ite | split

theorem State.stamp_sound {s : State} (h : s.Sound) (r : Requester) (i : Nat) : (State.stamp s r i).1.Sound := by
  simp only [State.stamp]
  repeat'
    first
    | with_reducible assumption | with_reducible apply State.tick_sound
    | with_reducible refine fst_sound (by assumption) ?_ | simp only [sound_upd, sound_updTil] | (intro _)
    | with_reducible apply sound_ite | split

theorem execMbxSend_sound {s : State} (h : s.Sound) (r : Requester) (i len : Nat) : soundOut (execMbxSend r i len s)
    := by
  simp only [execMbxSend]
  repeat'
    first
    | with_reducible assumption | with_reducible apply State.stamp_sound | with_reducible apply State.mbxPost_sound
    | with_reducible refine fst_sound (by assumption) ?_ | rw [soundOut_next] | simp only [sound_upd, sound_updTil]
    | (intro _) | with_reducible apply soundOut_ite | with_reducible apply sound_ite | split

theorem execMbxWithdraw_sound {s : State} (h : s.Sound) (r : Requester) (i : Nat) : soundOut (execMbxWithdraw r i s)
    := by
  simp only [execMbxWithdraw]
  repeat'
    first
    | with_reducible assumption | with_reducible apply State.setReg_sound
    | with_reducible refine fst_sound (by assumption) ?_ | rw [soundOut_next] | simp only [sound_upd, sound_updTil]
    | (intro _) | with_reducible apply soundOut_ite | with_reducible apply sound_ite | split

theorem State.mbxTake_sound {s : State} (h : s.Sound) (host : Bool) (i : Nat) : (State.mbxTake s host i).Sound := by
  simp only [State.mbxTake]
  repeat'
    first
    | with_reducible assumption | with_reducible apply State.setReg_sound
    | with_reducible apply State.traceMgmt_sound | with_reducible refine fst_sound (by assumption) ?_
    | simp only [sound_upd, sound_updTil] | (intro _) | with_reducible apply sound_ite | split

theorem execMbxTake_sound {s : State} (h : s.Sound) (r : Requester) (i : Nat) : soundOut (execMbxTake r i s) := by
  simp only [execMbxTake]
  repeat'
    first
    | with_reducible assumption | with_reducible apply State.mbxTake_sound
    | with_reducible refine fst_sound (by assumption) ?_ | rw [soundOut_next] | simp only [sound_upd, sound_updTil]
    | (intro _) | with_reducible apply soundOut_ite | with_reducible apply sound_ite | split

theorem State.mbxAcked_sound {s : State} (h : s.Sound) (host : Bool) (i code : Nat) :
    (State.mbxAcked s host i code).Sound := by
  simp only [State.mbxAcked]
  repeat'
    first
    | with_reducible assumption | with_reducible apply State.mbxIntr_sound
    | with_reducible apply State.setReg_sound
    | with_reducible refine fst_sound (by assumption) ?_ | simp only [sound_upd, sound_updTil] | (intro _)
    | with_reducible apply sound_ite | split

theorem State.mbxAck_sound {s : State} (h : s.Sound) (host : Bool) (i code : Nat) : (State.mbxAck s host i code).Sound
    := by
  simp only [State.mbxAck]
  repeat'
    first
    | with_reducible assumption
    | with_reducible apply State.mbxAcked_sound
    | with_reducible apply State.mbxIntr_sound
    | with_reducible apply State.setReg_sound | with_reducible apply State.traceMgmt_sound
    | with_reducible refine fst_sound (by assumption) ?_ | simp only [sound_upd, sound_updTil] | (intro _)
    | with_reducible apply sound_ite | split

theorem execMbxAck_sound {s : State} (h : s.Sound) (r : Requester) (i code : Nat) : soundOut (execMbxAck r i code s)
    := by
  simp only [execMbxAck]
  repeat'
    first
    | with_reducible assumption | with_reducible apply State.mbxAck_sound
    | with_reducible refine fst_sound (by assumption) ?_ | rw [soundOut_next] | simp only [sound_upd, sound_updTil]
    | (intro _) | with_reducible apply soundOut_ite | with_reducible apply sound_ite | split

theorem State.mbxReply_sound {s : State} (h : s.Sound) (i : Nat) (bs : List Byte) : (State.mbxReply s i bs).Sound :=
    by
  simp only [State.mbxReply]
  repeat'
    first
    | with_reducible assumption | with_reducible apply State.setReg_sound
    | with_reducible apply State.mbxPost_sound | with_reducible refine fst_sound (by assumption) ?_
    | with_reducible apply sound_foldl | with_reducible apply sound_foldl_fst | simp only [sound_upd, sound_updTil]
    | (intro _) | with_reducible apply sound_ite | split

theorem State.mbxServe_sound {s : State} (h : s.Sound) (i ty : Nat) (f : State → Nat → State) (hf : ∀ a0 a1, a0.Sound
    → (f a0 a1).Sound) : soundOut (State.mbxServe s i ty f) := by
  simp only [State.mbxServe]
  repeat'
    first
    | with_reducible assumption | with_reducible apply State.mbxTake_sound
    | with_reducible apply State.mbxAck_sound | with_reducible apply hf
    | with_reducible refine fst_sound (by assumption) ?_ | rw [soundOut_next] | simp only [sound_upd, sound_updTil]
    | (intro _) | with_reducible apply soundOut_ite | with_reducible apply sound_ite | split

theorem execMbxHello_sound {s : State} (h : s.Sound) (i : Nat) : soundOut (execMbxHello i s) := by
  simp only [execMbxHello]
  repeat'
    first
    | with_reducible assumption | with_reducible apply State.mbxServe_sound
    | with_reducible apply State.mbxReply_sound | with_reducible apply State.mbxAck_sound
    | with_reducible refine fst_sound (by assumption) ?_ | rw [soundOut_next] | simp only [sound_upd, sound_updTil]
    | (intro _) | with_reducible apply soundOut_ite | with_reducible apply sound_ite | split

theorem State.resetDone_sound {s : State} (h : s.Sound) (i : Nat) (r : Resetting) : (State.resetDone s i r).Sound :=
    by
  simp only [State.resetDone]
  repeat'
    first
    | with_reducible assumption
    | with_reducible apply State.mbxAcked_sound
    | with_reducible apply State.rebasePorts_sound
    | with_reducible apply State.raise_sound | with_reducible apply State.bump_sound
    | with_reducible apply State.put_sound | with_reducible apply State.mbxReply_sound
    | with_reducible apply State.instEndOf_sound | with_reducible refine fst_sound (by assumption) ?_
    | simp only [sound_upd, sound_updTil] | (intro _) | with_reducible apply sound_ite | split

theorem State.startReset_sound {s : State} (h : s.Sound) (i : Nat) (r : Resetting) : (State.startReset s i r).Sound :=
    by
  simp only [State.startReset]
  repeat'
    first
    | with_reducible assumption | with_reducible apply State.put_sound
    | with_reducible apply State.resetRings_sound | with_reducible apply State.resetMailbox_sound
    | with_reducible apply State.resetTiles_sound | with_reducible apply State.resetShares_sound
    | with_reducible apply State.resetXlt_sound | with_reducible apply State.noModel_sound
    | with_reducible apply State.dropModel_sound | with_reducible apply State.resetDone_sound
    | with_reducible refine fst_sound (by assumption) ?_ | simp only [sound_upd, sound_updTil] | (intro _)
    | with_reducible apply sound_ite | split

theorem execInstanceResetDone_sound {s : State} (h : s.Sound) (i : Nat) : soundOut (execInstanceResetDone i s) := by
  simp only [execInstanceResetDone]
  repeat'
    first
    | with_reducible assumption | with_reducible apply State.resetDone_sound
    | with_reducible apply State.zeroFill_sound | with_reducible refine fst_sound (by assumption) ?_
    | rw [soundOut_next] | simp only [sound_upd, sound_updTil] | (intro _) | with_reducible apply soundOut_ite
    | with_reducible apply sound_ite | split

theorem execFunctionLevelReset_sound {s : State} (h : s.Sound) (fn : Nat) : soundOut (execFunctionLevelReset fn s) :=
    by
  simp only [execFunctionLevelReset]
  repeat'
    first
    | with_reducible assumption | with_reducible apply State.raise_sound
    | with_reducible apply State.startReset_sound | with_reducible apply State.forceQuiesce_sound
    | with_reducible refine fst_sound (by assumption) ?_ | rw [soundOut_next] | simp only [sound_upd, sound_updTil]
    | (intro _) | with_reducible apply soundOut_ite | with_reducible apply sound_ite | split

theorem State.instCmdWrite_sound {s : State} (h : s.Sound) (r : Requester) (val : Nat) : (State.instCmdWrite s r
    val).Sound := by
  simp only [State.instCmdWrite]
  repeat'
    first
    | with_reducible assumption | with_reducible apply State.put_sound | with_reducible apply State.traceMgmt_sound
    | with_reducible apply State.setReg_sound | with_reducible apply State.instEnd_sound
    | with_reducible refine fst_sound (by assumption) ?_ | simp only [sound_upd, sound_updTil] | (intro _)
    | with_reducible apply sound_ite | split

theorem State.instCmd_sound {s : State} (h : s.Sound) (op : Nat) (states : List Nat) (f : Nat → State) (hf : ∀ a0, (f
    a0).Sound) : soundOut (State.instCmd s op states f) := by
  simp only [State.instCmd]
  repeat'
    first
    | with_reducible assumption | with_reducible apply State.instEnd_sound | with_reducible apply hf
    | with_reducible refine fst_sound (by assumption) ?_ | rw [soundOut_next] | simp only [sound_upd, sound_updTil]
    | (intro _) | with_reducible apply soundOut_ite | with_reducible apply sound_ite | split

theorem State.instBegin_sound {s : State} (h : s.Sound) : (State.instBegin s).Sound := by
  simp only [State.instBegin]
  repeat'
    first
    | with_reducible assumption | with_reducible refine fst_sound (by assumption) ?_
    | simp only [sound_upd, sound_updTil] | (intro _) | with_reducible apply sound_ite | split

theorem State.createInst_sound {s : State} (h : s.Sound) (i : Nat) : (State.createInst s i).Sound := by
  simp only [State.createInst]
  repeat'
    first
    | with_reducible assumption | with_reducible apply State.setReg_sound | with_reducible apply State.put_sound
    | with_reducible apply State.resetTiles_sound | with_reducible apply State.detach_sound
    | with_reducible refine fst_sound (by assumption) ?_ | simp only [sound_upd, sound_updTil] | (intro _)
    | with_reducible apply sound_ite | split

theorem execInstCreate_sound {s : State} (h : s.Sound) : soundOut (execInstCreate s) := by
  simp only [execInstCreate]
  repeat'
    first
    | with_reducible assumption | with_reducible apply State.instCmd_sound
    | with_reducible apply State.instEnd_sound | with_reducible apply State.createInst_sound
    | with_reducible refine fst_sound (by assumption) ?_ | rw [soundOut_next] | simp only [sound_upd, sound_updTil]
    | (intro _) | with_reducible apply soundOut_ite | with_reducible apply sound_ite | split

theorem execInstQuiesce_sound {s : State} (h : s.Sound) : soundOut (execInstQuiesce s) := by
  simp only [execInstQuiesce]
  repeat'
    first
    | with_reducible assumption | with_reducible apply State.instCmd_sound
    | with_reducible apply State.instEnd_sound | with_reducible apply State.instBegin_sound
    | with_reducible apply State.quiesce_sound | with_reducible refine fst_sound (by assumption) ?_
    | rw [soundOut_next] | simp only [sound_upd, sound_updTil] | (intro _) | with_reducible apply soundOut_ite
    | with_reducible apply sound_ite | split

theorem execQuiesceComplete_sound {s : State} (h : s.Sound) (i : Nat) : soundOut (execQuiesceComplete i s) := by
  simp only [execQuiesceComplete]
  repeat'
    first
    | with_reducible assumption | with_reducible apply State.quiesced_sound
    | with_reducible refine fst_sound (by assumption) ?_ | rw [soundOut_next] | simp only [sound_upd, sound_updTil]
    | (intro _) | with_reducible apply soundOut_ite | with_reducible apply sound_ite | split

theorem execQuiesceLimitExpiry_sound {s : State} (h : s.Sound) (i : Nat) : soundOut (execQuiesceLimitExpiry i s) := by
  simp only [execQuiesceLimitExpiry]
  repeat'
    first
    | with_reducible assumption | with_reducible apply State.quiesced_sound
    | with_reducible apply State.forceQuiesce_sound | with_reducible refine fst_sound (by assumption) ?_
    | rw [soundOut_next] | simp only [sound_upd, sound_updTil] | (intro _) | with_reducible apply soundOut_ite
    | with_reducible apply sound_ite | split

theorem execInstResume_sound {s : State} (h : s.Sound) : soundOut (execInstResume s) := by
  simp only [execInstResume]
  repeat'
    first
    | with_reducible assumption | with_reducible apply State.instCmd_sound
    | with_reducible apply State.instEnd_sound | with_reducible apply State.resumeInst_sound
    | with_reducible refine fst_sound (by assumption) ?_ | rw [soundOut_next] | simp only [sound_upd, sound_updTil]
    | (intro _) | with_reducible apply soundOut_ite | with_reducible apply sound_ite | split

theorem execInstReset_sound {s : State} (h : s.Sound) : soundOut (execInstReset s) := by
  simp only [execInstReset]
  repeat'
    first
    | with_reducible assumption | with_reducible apply State.instCmd_sound
    | with_reducible apply State.startReset_sound | with_reducible apply State.instBegin_sound
    | with_reducible refine fst_sound (by assumption) ?_ | rw [soundOut_next] | simp only [sound_upd, sound_updTil]
    | (intro _) | with_reducible apply soundOut_ite | with_reducible apply sound_ite | split

theorem execInstRemove_sound {s : State} (h : s.Sound) : soundOut (execInstRemove s) := by
  simp only [execInstRemove]
  repeat'
    first
    | with_reducible assumption | with_reducible apply State.instCmd_sound
    | with_reducible apply State.startReset_sound | with_reducible apply State.instBegin_sound
    | with_reducible refine fst_sound (by assumption) ?_ | rw [soundOut_next] | simp only [sound_upd, sound_updTil]
    | (intro _) | with_reducible apply soundOut_ite | with_reducible apply sound_ite | split

theorem execInstSetMode_sound {s : State} (h : s.Sound) : soundOut (execInstSetMode s) := by
  simp only [execInstSetMode]
  repeat'
    first
    | with_reducible assumption | with_reducible apply State.instEnd_sound | with_reducible apply State.put_sound
    | with_reducible refine fst_sound (by assumption) ?_ | rw [soundOut_next] | simp only [sound_upd, sound_updTil]
    | (intro _) | with_reducible apply soundOut_ite | with_reducible apply sound_ite | split

theorem execMbxResetRequest_sound {s : State} (h : s.Sound) (i : Nat) : soundOut (execMbxResetRequest i s) := by
  simp only [execMbxResetRequest]
  repeat'
    first
    | with_reducible assumption | with_reducible apply State.mbxServe_sound
    | with_reducible apply State.mbxAck_sound | with_reducible apply State.tick_sound
    | with_reducible apply State.startReset_sound | with_reducible apply State.forceQuiesce_sound
    | with_reducible apply State.quiesce_sound | with_reducible refine fst_sound (by assumption) ?_
    | rw [soundOut_next] | simp only [sound_upd, sound_updTil] | (intro _) | with_reducible apply soundOut_ite
    | with_reducible apply sound_ite | split

end Sys2Proof.Machine
end

