-- ==== Sys2Proof/Laws/SoundLink.lean ====
section
/-! SUPPORT. The operations of Link.lean keep a state well kept. -/
namespace Sys2Proof.Machine
set_option linter.unusedTactic false
set_option linter.unreachableTactic false
set_option linter.unusedSimpArgs false
open Sys2Proof

theorem State.showLanes_sound {s : State} (h : s.Sound) (c : Nat) : (State.showLanes s c).Sound := by
  simp only [State.showLanes]
  repeat'
    first
    | with_reducible assumption | with_reducible apply State.put_sound
    | with_reducible refine fst_sound (by assumption) ?_ | simp only [sound_upd, sound_updTil] | (intro _)
    | with_reducible apply sound_ite | split

theorem State.sendSide_sound {s : State} (h : s.Sound) (l : Nat) (data : List Byte) : (State.sendSide s l data).Sound
    := by
  simp only [State.sendSide]
  repeat'
    first
    | with_reducible assumption | with_reducible refine fst_sound (by assumption) ?_
    | simp only [sound_upd, sound_updTil] | (intro _) | with_reducible apply sound_ite | split

theorem State.portRise_sound {s : State} (h : s.Sound) (p phy : Nat) (lpi : Bool) : (State.portRise s p phy lpi).Sound
    := by
  simp only [State.portRise]
  repeat'
    first
    | with_reducible assumption | with_reducible apply State.raise_sound | with_reducible apply State.put_sound
    | with_reducible apply State.sendSide_sound | with_reducible refine fst_sound (by assumption) ?_
    | with_reducible apply sound_foldl | with_reducible apply sound_foldl_fst | simp only [sound_upd, sound_updTil]
    | (intro _) | with_reducible apply sound_ite | split

theorem State.portFall_sound {s : State} (h : s.Sound) (p : Nat) : (State.portFall s p).Sound := by
  simp only [State.portFall]
  repeat'
    first
    | with_reducible assumption | with_reducible apply State.raise_sound | with_reducible apply State.put_sound
    | with_reducible apply State.srbFree_sound | with_reducible apply State.setFifo_sound
    | with_reducible apply State.stat_sound | with_reducible apply State.pinchPortDown_sound
    | with_reducible refine fst_sound (by assumption) ?_ | with_reducible apply sound_foldl
    | with_reducible apply sound_foldl_fst | simp only [sound_upd, sound_updTil] | (intro _)
    | with_reducible apply sound_ite | split

theorem State.judgePort_sound {s : State} (h : s.Sound) (p : Nat) (ok : Bool) (phy : Nat) (lpi : Bool) :
    (State.judgePort s p ok phy lpi).Sound := by
  simp only [State.judgePort]
  repeat'
    first
    | with_reducible assumption | with_reducible apply State.portFall_sound
    | with_reducible apply State.portRise_sound | with_reducible refine fst_sound (by assumption) ?_
    | simp only [sound_upd, sound_updTil] | (intro _) | with_reducible apply sound_ite | split

theorem State.addLoss_sound {s : State} (h : s.Sound) (l pick slot : Nat) : (State.addLoss s l pick slot).Sound := by
  simp only [State.addLoss]
  repeat'
    first
    | with_reducible assumption | with_reducible refine fst_sound (by assumption) ?_
    | simp only [sound_upd, sound_updTil] | (intro _) | with_reducible apply sound_ite | split

theorem State.laneLoss_sound {s : State} (h : s.Sound) (l : Nat) : (State.laneLoss s l).Sound := by
  simp only [State.laneLoss]
  repeat'
    first
    | with_reducible assumption | with_reducible apply State.addLoss_sound
    | with_reducible apply State.sendSide_sound | with_reducible apply State.secondFault_sound
    | with_reducible refine fst_sound (by assumption) ?_ | with_reducible apply sound_foldl
    | with_reducible apply sound_foldl_fst | simp only [sound_upd, sound_updTil] | (intro _)
    | with_reducible apply sound_ite | split

theorem State.dropLane_sound {s : State} (h : s.Sound) (l cause : Nat) : (State.dropLane s l cause).Sound := by
  simp only [State.dropLane]
  repeat'
    first
    | with_reducible assumption | with_reducible apply State.showLanes_sound
    | with_reducible apply State.raise_sound | with_reducible apply State.put_sound
    | with_reducible apply State.judgePort_sound | with_reducible apply State.laneLoss_sound
    | with_reducible refine fst_sound (by assumption) ?_ | simp only [sound_upd, sound_updTil] | (intro _)
    | with_reducible apply sound_ite | split

theorem State.trainCage_sound {s : State} (h : s.Sound) (c : Nat) : (State.trainCage s c).Sound := by
  simp only [State.trainCage]
  repeat'
    first
    | with_reducible assumption | with_reducible apply State.put_sound
    | with_reducible refine fst_sound (by assumption) ?_ | with_reducible apply sound_foldl
    | with_reducible apply sound_foldl_fst | simp only [sound_upd, sound_updTil] | (intro _)
    | with_reducible apply sound_ite | split

theorem State.idleCage_sound {s : State} (h : s.Sound) (c : Nat) : (State.idleCage s c).Sound := by
  simp only [State.idleCage]
  repeat'
    first
    | with_reducible assumption | with_reducible apply State.dropLane_sound | with_reducible apply State.put_sound
    | with_reducible refine fst_sound (by assumption) ?_ | with_reducible apply sound_foldl
    | with_reducible apply sound_foldl_fst | simp only [sound_upd, sound_updTil] | (intro _)
    | with_reducible apply sound_ite | split

theorem State.cageWrite_sound {s : State} (h : s.Sound) (c val : Nat) : (State.cageWrite s c val).Sound := by
  simp only [State.cageWrite]
  repeat'
    first
    | with_reducible assumption | with_reducible apply State.raise_sound
    | with_reducible apply State.idleCage_sound | with_reducible apply State.put_sound
    | with_reducible apply State.trainCage_sound | with_reducible refine fst_sound (by assumption) ?_
    | simp only [sound_upd, sound_updTil] | (intro _) | with_reducible apply sound_ite | split

theorem execCageCfgWrite_sound {s : State} (h : s.Sound) (r : Requester) (c val : Nat) : soundOut (execCageCfgWrite r
    c val s) := by
  simp only [execCageCfgWrite]
  repeat'
    first
    | with_reducible assumption | with_reducible apply State.cageWrite_sound
    | with_reducible refine fst_sound (by assumption) ?_ | rw [soundOut_next] | simp only [sound_upd, sound_updTil]
    | (intro _) | with_reducible apply soundOut_ite | with_reducible apply sound_ite | split

theorem execLaneDown_sound {s : State} (h : s.Sound) (l cause : Nat) : soundOut (execLaneDown l cause s) := by
  simp only [execLaneDown]
  repeat'
    first
    | with_reducible assumption | with_reducible apply State.dropLane_sound
    | with_reducible refine fst_sound (by assumption) ?_ | rw [soundOut_next] | simp only [sound_upd, sound_updTil]
    | (intro _) | with_reducible apply soundOut_ite | with_reducible apply sound_ite | split

theorem execLaneTrainingComplete_sound {s : State} (h : s.Sound) (l : Nat) (linkOk : Bool) (phy : Nat) (lpi : Bool) :
    soundOut (execLaneTrainingComplete l linkOk phy lpi s) := by
  simp only [execLaneTrainingComplete]
  repeat'
    first
    | with_reducible assumption | with_reducible apply State.showLanes_sound
    | with_reducible apply State.raise_sound | with_reducible apply State.put_sound
    | with_reducible apply State.judgePort_sound | with_reducible refine fst_sound (by assumption) ?_
    | rw [soundOut_next] | simp only [sound_upd, sound_updTil] | (intro _) | with_reducible apply soundOut_ite
    | with_reducible apply sound_ite | split

theorem execLaneTrainingTimeout_sound {s : State} (h : s.Sound) (l : Nat) : soundOut (execLaneTrainingTimeout l s) :=
    by
  simp only [execLaneTrainingTimeout]
  repeat'
    first
    | with_reducible assumption | with_reducible apply State.put_sound
    | with_reducible refine fst_sound (by assumption) ?_ | rw [soundOut_next] | simp only [sound_upd, sound_updTil]
    | (intro _) | with_reducible apply soundOut_ite | with_reducible apply sound_ite | split

theorem State.takeSpare_sound {s : State} (h : s.Sound) (l j : Nat) : (State.takeSpare s l j).Sound := by
  simp only [State.takeSpare]
  repeat'
    first
    | with_reducible assumption | with_reducible apply State.put_sound
    | with_reducible refine fst_sound (by assumption) ?_ | simp only [sound_upd, sound_updTil] | (intro _)
    | with_reducible apply sound_ite | split

theorem execLaneShiftCmd_sound {s : State} (h : s.Sound) (r : Requester) (val : Nat) : soundOut (execLaneShiftCmd r
    val s) := by
  simp only [execLaneShiftCmd]
  repeat'
    first
    | with_reducible assumption | with_reducible apply State.put_sound | with_reducible apply State.raise_sound
    | with_reducible apply State.dropLane_sound | with_reducible refine fst_sound (by assumption) ?_
    | rw [soundOut_next] | simp only [sound_upd, sound_updTil] | (intro _) | with_reducible apply soundOut_ite
    | with_reducible apply sound_ite | split

theorem execShiftSpareReady_sound {s : State} (h : s.Sound) (l : Nat) : soundOut (execShiftSpareReady l s) := by
  simp only [execShiftSpareReady]
  repeat'
    first
    | with_reducible assumption | with_reducible apply State.raise_sound | with_reducible apply State.put_sound
    | with_reducible apply State.takeSpare_sound | with_reducible refine fst_sound (by assumption) ?_
    | rw [soundOut_next] | simp only [sound_upd, sound_updTil] | (intro _) | with_reducible apply soundOut_ite
    | with_reducible apply sound_ite | split

theorem execCreditWordReceive_sound {s : State} (h : s.Sound) (l : Nat) (w : List Byte) : soundOut
    (execCreditWordReceive l w s) := by
  simp only [execCreditWordReceive]
  repeat'
    first
    | with_reducible assumption | with_reducible refine fst_sound (by assumption) ?_ | rw [soundOut_next]
    | simp only [sound_upd, sound_updTil] | (intro _) | with_reducible apply soundOut_ite
    | with_reducible apply sound_ite | split

theorem execLossWordReceive_sound {s : State} (h : s.Sound) (l : Nat) (w : List Byte) : soundOut (execLossWordReceive
    l w s) := by
  simp only [execLossWordReceive]
  repeat'
    first
    | with_reducible assumption | with_reducible apply State.addLoss_sound
    | with_reducible refine fst_sound (by assumption) ?_ | rw [soundOut_next] | simp only [sound_upd, sound_updTil]
    | (intro _) | with_reducible apply soundOut_ite | with_reducible apply sound_ite | split

theorem State.toManager_sound {s : State} (h : s.Sound) (d : Nat) (data : List Byte) : (State.toManager s d
    data).Sound := by
  simp only [State.toManager]
  repeat'
    first
    | with_reducible assumption | with_reducible refine fst_sound (by assumption) ?_
    | simp only [sound_upd, sound_updTil] | (intro _) | with_reducible apply sound_ite | split

theorem State.vc3In_sound {s : State} (h : s.Sound) (p : Nat) (f : List Byte) : (State.vc3In s p f).Sound := by
  simp only [State.vc3In]
  repeat'
    first
    | with_reducible assumption | with_reducible apply State.bump_sound
    | with_reducible apply State.tracePinch_sound | with_reducible refine fst_sound (by assumption) ?_
    | simp only [sound_upd, sound_updTil] | (intro _) | with_reducible apply sound_ite | split

theorem State.toTransport_sound {s : State} (h : s.Sound) (c p vc len path : Nat) (ce ect : Bool) (data : List Byte) :
    (State.toTransport s c p vc len path ce ect data).Sound := by
  simp only [State.toTransport]
  repeat'
    first
    | with_reducible assumption | with_reducible apply State.srbStore_sound
    | with_reducible apply State.tracePkt_sound | with_reducible apply State.srbFree_sound
    | with_reducible apply State.bump_sound | with_reducible refine fst_sound (by assumption) ?_
    | simp only [sound_upd, sound_updTil] | (intro _) | with_reducible apply sound_ite | split

theorem State.manage_sound {s : State} (h : s.Sound) (c len : Nat) (dies : List Nat) (data : List Byte) :
    (State.manage s c len dies data).Sound := by
  simp only [State.manage]
  repeat'
    first
    | with_reducible assumption | with_reducible apply State.srbStore_sound
    | with_reducible apply State.toManager_sound | with_reducible apply State.srbFree_sound
    | with_reducible refine fst_sound (by assumption) ?_ | with_reducible apply sound_foldl
    | with_reducible apply sound_foldl_fst | simp only [sound_upd, sound_updTil] | (intro _)
    | with_reducible apply sound_ite | split

theorem State.noRoute_sound {s : State} (h : s.Sound) : (State.noRoute s).Sound := by
  simp only [State.noRoute]
  repeat'
    first
    | with_reducible assumption | with_reducible apply State.raise_sound | with_reducible apply State.bump_sound
    | with_reducible refine fst_sound (by assumption) ?_ | simp only [sound_upd, sound_updTil] | (intro _)
    | with_reducible apply sound_ite | split

theorem State.fabricIn_sound {s : State} (h : s.Sound) (p : Nat) (x2 payload : List Byte) : (State.fabricIn s p x2
    payload).Sound := by
  simp only [State.fabricIn]
  repeat'
    first
    | with_reducible assumption | with_reducible apply State.pkeyDrop_sound
    | with_reducible apply State.noRoute_sound | with_reducible apply State.vc3In_sound
    | with_reducible apply State.police_sound | with_reducible apply State.raise_sound
    | with_reducible apply State.bump_sound | with_reducible apply State.srbStore_sound
    | with_reducible apply State.enqueueFabric_sound | with_reducible apply State.manage_sound
    | with_reducible apply State.toTransport_sound | with_reducible refine fst_sound (by assumption) ?_
    | with_reducible apply sound_foldl | with_reducible apply sound_foldl_fst | simp only [sound_upd, sound_updTil]
    | (intro _) | with_reducible apply sound_ite | split

theorem execFabricFrameReceive_sound {s : State} (h : s.Sound) (l : Nat) (b : List Byte) : soundOut
    (execFabricFrameReceive l b s) := by
  simp only [execFabricFrameReceive]
  repeat'
    first
    | with_reducible assumption | with_reducible apply State.bump_sound | with_reducible apply State.fabricIn_sound
    | with_reducible apply State.countRx_sound | with_reducible refine fst_sound (by assumption) ?_
    | rw [soundOut_next] | simp only [sound_upd, sound_updTil] | (intro _) | with_reducible apply soundOut_ite
    | with_reducible apply sound_ite | split

theorem State.answer_sound {s : State} (h : s.Sound) (p : Nat) (f : Frame) (ip : Option Ip) (n : Nat) (data : List
    Byte) : (State.answer s p f ip n data).Sound := by
  simp only [State.answer]
  repeat'
    first
    | with_reducible assumption | with_reducible apply State.lpiExit_sound
    | with_reducible apply State.countTx_sound | with_reducible apply State.setSent_sound
    | with_reducible refine fst_sound (by assumption) ?_ | simp only [sound_upd, sound_updTil] | (intro _)
    | with_reducible apply sound_ite | split

theorem State.arp_sound {s : State} (h : s.Sound) (p : Nat) (f : Frame) : (State.arp s p f).Sound := by
  simp only [State.arp]
  repeat'
    first
    | with_reducible assumption | with_reducible apply State.answer_sound
    | with_reducible refine fst_sound (by assumption) ?_ | simp only [sound_upd, sound_updTil] | (intro _)
    | with_reducible apply sound_ite | split

theorem State.icmp_sound {s : State} (h : s.Sound) (p : Nat) (f : Frame) (ip : Ip) : (State.icmp s p f ip).Sound := by
  simp only [State.icmp]
  repeat'
    first
    | with_reducible assumption | with_reducible apply State.answer_sound | with_reducible apply State.manage_sound
    | with_reducible refine fst_sound (by assumption) ?_ | simp only [sound_upd, sound_updTil] | (intro _)
    | with_reducible apply sound_ite | split

theorem State.ptp_sound {s : State} (h : s.Sound) (p : Nat) (event : Bool) (f : Frame) : (State.ptp s p event f).Sound
    := by
  simp only [State.ptp]
  repeat'
    first
    | with_reducible assumption | with_reducible apply State.manage_sound
    | with_reducible refine fst_sound (by assumption) ?_ | simp only [sound_upd, sound_updTil] | (intro _)
    | with_reducible apply sound_ite | split

theorem State.udpTransport_sound {s : State} (h : s.Sound) (p : Nat) (f : Frame) (ip : Ip) : (State.udpTransport s p f
    ip).Sound := by
  simp only [State.udpTransport]
  repeat'
    first
    | with_reducible assumption | with_reducible apply State.police_sound | with_reducible apply State.bump_sound
    | with_reducible apply State.stat_sound | with_reducible apply State.pkeyDrop_sound
    | with_reducible apply State.toTransport_sound | with_reducible refine fst_sound (by assumption) ?_
    | simp only [sound_upd, sound_updTil] | (intro _) | with_reducible apply sound_ite | split

theorem State.pauseIn_sound {s : State} (h : s.Sound) (p : Nat) (f : Frame) : (State.pauseIn s p f).Sound := by
  simp only [State.pauseIn]
  repeat'
    first
    | with_reducible assumption | with_reducible apply State.raiseIf_sound | with_reducible apply State.put_sound
    | with_reducible apply State.stat_sound | with_reducible refine fst_sound (by assumption) ?_
    | simp only [sound_upd, sound_updTil] | (intro _) | with_reducible apply sound_ite | split

theorem State.lldpIn_sound {s : State} (h : s.Sound) (p : Nat) (f : Frame) : (State.lldpIn s p f).Sound := by
  simp only [State.lldpIn]
  repeat'
    first
    | with_reducible assumption | with_reducible apply State.raiseIf_sound | with_reducible apply State.put_sound
    | with_reducible refine fst_sound (by assumption) ?_ | simp only [sound_upd, sound_updTil] | (intro _)
    | with_reducible apply sound_ite | split

theorem State.accept_sound {s : State} (h : s.Sound) (p : Nat) (f : Frame) : (State.accept s p f).1.Sound := by
  simp only [State.accept]
  repeat'
    first
    | with_reducible assumption | with_reducible apply State.stat_sound | with_reducible apply State.total_sound
    | with_reducible apply State.countRx_sound | with_reducible refine fst_sound (by assumption) ?_
    | simp only [sound_upd, sound_updTil] | (intro _) | with_reducible apply sound_ite | split

theorem State.dispatch_sound {s : State} (h : s.Sound) (p : Nat) (f : Frame) : (State.dispatch s p f).Sound := by
  simp only [State.dispatch]
  repeat'
    first
    | with_reducible assumption | with_reducible apply State.pauseIn_sound
    | with_reducible apply State.lldpIn_sound | with_reducible apply State.ptp_sound
    | with_reducible apply State.arp_sound | with_reducible apply State.stat_sound
    | with_reducible apply State.udpTransport_sound | with_reducible apply State.icmp_sound
    | with_reducible apply State.vc3In_sound | with_reducible apply State.pkeyDrop_sound
    | with_reducible apply State.fabricIn_sound | with_reducible apply State.bump_sound
    | with_reducible refine fst_sound (by assumption) ?_ | simp only [sound_upd, sound_updTil] | (intro _)
    | with_reducible apply sound_ite | split

theorem State.etherIn_sound {s : State} (h : s.Sound) (p : Nat) (f : Frame) : (State.etherIn s p f).Sound := by
  simp only [State.etherIn]
  repeat'
    first
    | with_reducible assumption | with_reducible apply State.accept_sound
    | with_reducible apply State.dispatch_sound | with_reducible refine fst_sound (by assumption) ?_
    | simp only [sound_upd, sound_updTil] | (intro _) | with_reducible apply sound_ite | split

theorem execEthernetFrameReceive_sound {s : State} (h : s.Sound) (p : Nat) (f : Frame) : soundOut
    (execEthernetFrameReceive p f s) := by
  simp only [execEthernetFrameReceive]
  repeat'
    first
    | with_reducible assumption | with_reducible apply State.etherIn_sound
    | with_reducible refine fst_sound (by assumption) ?_ | rw [soundOut_next] | simp only [sound_upd, sound_updTil]
    | (intro _) | with_reducible apply soundOut_ite | with_reducible apply sound_ite | split

theorem execXoffRefresh_sound {s : State} (h : s.Sound) (p : Nat) : soundOut (execXoffRefresh p s) := by
  simp only [execXoffRefresh]
  repeat'
    first
    | with_reducible assumption | with_reducible apply State.sendXoff_sound
    | with_reducible refine fst_sound (by assumption) ?_ | rw [soundOut_next] | simp only [sound_upd, sound_updTil]
    | (intro _) | with_reducible apply soundOut_ite | with_reducible apply sound_ite | split

theorem execPauseFrameReceive_sound {s : State} (h : s.Sound) (p : Nat) (f : Frame) : soundOut (execPauseFrameReceive
    p f s) := by
  simp only [execPauseFrameReceive]
  repeat'
    first
    | with_reducible assumption | with_reducible apply State.etherIn_sound
    | with_reducible refine fst_sound (by assumption) ?_ | rw [soundOut_next] | simp only [sound_upd, sound_updTil]
    | (intro _) | with_reducible apply soundOut_ite | with_reducible apply sound_ite | split

theorem execPauseExpiry_sound {s : State} (h : s.Sound) (p prios : Nat) : soundOut (execPauseExpiry p prios s) := by
  simp only [execPauseExpiry]
  repeat'
    first
    | with_reducible assumption | with_reducible apply State.put_sound
    | with_reducible refine fst_sound (by assumption) ?_ | rw [soundOut_next] | simp only [sound_upd, sound_updTil]
    | (intro _) | with_reducible apply soundOut_ite | with_reducible apply sound_ite | split

theorem execLpiEntry_sound {s : State} (h : s.Sound) (p : Nat) : soundOut (execLpiEntry p s) := by
  simp only [execLpiEntry]
  repeat'
    first
    | with_reducible assumption | with_reducible apply State.stat_sound | with_reducible apply State.put_sound
    | with_reducible refine fst_sound (by assumption) ?_ | rw [soundOut_next] | simp only [sound_upd, sound_updTil]
    | (intro _) | with_reducible apply soundOut_ite | with_reducible apply sound_ite | split

theorem execLldpSend_sound {s : State} (h : s.Sound) (p : Nat) : soundOut (execLldpSend p s) := by
  simp only [execLldpSend]
  repeat'
    first
    | with_reducible assumption | with_reducible apply State.lpiExit_sound
    | with_reducible apply State.countTx_sound | with_reducible apply State.setSent_sound
    | with_reducible apply State.tick_sound | with_reducible refine fst_sound (by assumption) ?_
    | rw [soundOut_next] | simp only [sound_upd, sound_updTil] | (intro _) | with_reducible apply soundOut_ite
    | with_reducible apply sound_ite | split

theorem execLldpReceive_sound {s : State} (h : s.Sound) (p : Nat) (f : Frame) : soundOut (execLldpReceive p f s) := by
  simp only [execLldpReceive]
  repeat'
    first
    | with_reducible assumption | with_reducible apply State.etherIn_sound
    | with_reducible refine fst_sound (by assumption) ?_ | rw [soundOut_next] | simp only [sound_upd, sound_updTil]
    | (intro _) | with_reducible apply soundOut_ite | with_reducible apply sound_ite | split

theorem State.portCfgWrite_sound {s : State} (h : s.Sound) (p val : Nat) : (State.portCfgWrite s p val).Sound := by
  simp only [State.portCfgWrite]
  repeat'
    first
    | with_reducible assumption | with_reducible apply State.put_sound | with_reducible apply State.sendXoff_sound
    | with_reducible apply State.flowControl_sound | with_reducible apply State.setReg_sound
    | with_reducible refine fst_sound (by assumption) ?_ | simp only [sound_upd, sound_updTil] | (intro _)
    | with_reducible apply sound_ite | split

theorem State.retrain_sound {s : State} (h : s.Sound) : (State.retrain s).Sound := by
  simp only [State.retrain]
  repeat'
    first
    | with_reducible assumption | with_reducible apply State.put_sound
    | with_reducible refine fst_sound (by assumption) ?_ | with_reducible apply sound_foldl
    | with_reducible apply sound_foldl_fst | simp only [sound_upd, sound_updTil] | (intro _)
    | with_reducible apply sound_ite | split

end Sys2Proof.Machine
end

