-- ==== Sys2Proof/Laws/SoundMemory.lean ====
section
/-! SUPPORT. The operations of Memory.lean keep a state well kept. -/
namespace Sys2Proof.Machine
set_option linter.unusedTactic false
set_option linter.unreachableTactic false
set_option linter.unusedSimpArgs false
open Sys2Proof

theorem State.memSample_sound {s : State} (h : s.Sound) (pa : Nat) : (State.memSample s pa).Sound := by
  simp only [State.memSample]
  repeat'
    first
    | with_reducible assumption | with_reducible refine fst_sound (by assumption) ?_
    | simp only [sound_upd, sound_updTil] | (intro _) | with_reducible apply sound_ite | split

theorem State.countCe_sound {s : State} (h : s.Sound) (pa unit row : Nat) : (State.countCe s pa unit row).Sound := by
  simp only [State.countCe]
  repeat'
    first
    | with_reducible assumption | with_reducible refine fst_sound (by assumption) ?_
    | simp only [sound_upd, sound_updTil] | (intro _) | with_reducible apply sound_ite | split

theorem State.lineFound_sound {s : State} (h : s.Sound) (pa : Nat) (f : Found) (unit row src : Nat) : (State.lineFound
    s pa f unit row src).1.Sound := by
  simp only [State.lineFound]
  repeat'
    first
    | with_reducible assumption | with_reducible apply State.memLog_sound
    | with_reducible apply State.countCe_sound | with_reducible apply State.raise_sound
    | with_reducible apply State.bump_sound | with_reducible apply State.setPoison_sound
    | with_reducible refine fst_sound (by assumption) ?_ | simp only [sound_upd, sound_updTil] | (intro _)
    | with_reducible apply sound_ite | split

theorem execMemoryRead_sound {s : State} (h : s.Sound) (pa : Nat) (f : Found) (unit row : Nat) : soundOut
    (execMemoryRead pa f unit row s) := by
  simp only [execMemoryRead]
  repeat'
    first
    | with_reducible assumption | with_reducible apply State.lineFound_sound
    | with_reducible apply State.memSample_sound | with_reducible refine fst_sound (by assumption) ?_
    | rw [soundOut_next] | simp only [sound_upd, sound_updTil] | (intro _) | with_reducible apply soundOut_ite
    | with_reducible apply sound_ite | split

theorem execMemoryWrite_sound {s : State} (h : s.Sound) (pa : Nat) (data : List Byte) (f : Found) (unit row : Nat) :
    soundOut (execMemoryWrite pa data f unit row s) := by
  simp only [execMemoryWrite]
  repeat'
    first
    | with_reducible assumption | with_reducible apply State.memSample_sound
    | with_reducible apply State.setPoison_sound | with_reducible apply State.setBytes_sound
    | with_reducible apply State.raise_sound | with_reducible apply State.memLog_sound
    | with_reducible apply State.lineFound_sound | with_reducible refine fst_sound (by assumption) ?_
    | rw [soundOut_next] | simp only [sound_upd, sound_updTil] | (intro _) | with_reducible apply soundOut_ite
    | with_reducible apply sound_ite | split

theorem State.setSalt_sound {s : State} (h : s.Sound) (rg : Nat) (x2 : Salt) : (State.setSalt s rg x2).Sound := by
  simp only [State.setSalt]
  repeat'
    first
    | with_reducible assumption | with_reducible refine fst_sound (by assumption) ?_
    | simp only [sound_upd, sound_updTil] | (intro _) | with_reducible apply sound_ite | split

theorem State.resalt_sound {s : State} (h : s.Sound) (rg t : Nat) : (State.resalt s rg t).Sound := by
  simp only [State.resalt]
  repeat'
    first
    | with_reducible assumption | with_reducible apply State.traceMem_sound
    | with_reducible apply State.raise_sound | with_reducible apply State.bump_sound
    | with_reducible apply State.setSalt_sound | with_reducible refine fst_sound (by assumption) ?_
    | simp only [sound_upd, sound_updTil] | (intro _) | with_reducible apply sound_ite | split

theorem State.evalRegion_sound {p : State × Nat} (h : p.1.Sound) (far : Bool) (ring : List (Nat × Nat)) (rc : Nat ×
    Nat) : (State.evalRegion far ring p rc).1.Sound := by
  simp only [State.evalRegion]
  repeat'
    first
    | with_reducible assumption | with_reducible apply State.resalt_sound | with_reducible apply State.raise_sound
    | with_reducible apply State.bump_sound | with_reducible apply State.setSalt_sound
    | with_reducible refine fst_sound (by assumption) ?_ | simp only [sound_upd, sound_updTil] | (intro _)
    | with_reducible apply sound_ite | split

theorem State.markHot_sound {s : State} (h : s.Sound) (sum n : Nat) (im : Nat × Nat) : (State.markHot sum n s
    im).Sound := by
  simp only [State.markHot]
  repeat'
    first
    | with_reducible assumption | with_reducible apply State.put_sound | with_reducible apply State.raiseIf_sound
    | with_reducible refine fst_sound (by assumption) ?_ | simp only [sound_upd, sound_updTil] | (intro _)
    | with_reducible apply sound_ite | split

theorem State.windowTier_sound {s : State} (h : s.Sound) (occ : SMap Nat) (far : Bool) : (State.windowTier occ far
    s).Sound := by
  simp only [State.windowTier]
  repeat'
    first
    | with_reducible assumption | with_reducible apply State.markHot_sound
    | with_reducible apply State.evalRegion_sound | with_reducible refine fst_sound (by assumption) ?_
    | with_reducible apply sound_foldl | with_reducible apply sound_foldl_fst | simp only [sound_upd, sound_updTil]
    | (intro _) | with_reducible apply sound_ite | split

theorem execMonitorWindowEnd_sound {s : State} (h : s.Sound) (occ : List (Nat × Nat)) : soundOut (execMonitorWindowEnd
    occ s) := by
  simp only [execMonitorWindowEnd]
  repeat'
    first
    | with_reducible assumption | with_reducible apply State.windowTier_sound
    | with_reducible refine fst_sound (by assumption) ?_ | with_reducible apply sound_foldl
    | with_reducible apply sound_foldl_fst | rw [soundOut_next] | simp only [sound_upd, sound_updTil] | (intro _)
    | with_reducible apply soundOut_ite | with_reducible apply sound_ite | split

theorem execMigrationLineMove_sound {s : State} (h : s.Sound) (rg : Nat) : soundOut (execMigrationLineMove rg s) := by
  simp only [execMigrationLineMove]
  repeat'
    first
    | with_reducible assumption | with_reducible apply State.setSalt_sound
    | with_reducible refine fst_sound (by assumption) ?_ | rw [soundOut_next] | simp only [sound_upd, sound_updTil]
    | (intro _) | with_reducible apply soundOut_ite | with_reducible apply sound_ite | split

theorem execMigrationComplete_sound {s : State} (h : s.Sound) (rg : Nat) : soundOut (execMigrationComplete rg s) := by
  simp only [execMigrationComplete]
  repeat'
    first
    | with_reducible assumption | with_reducible apply State.traceMem_sound
    | with_reducible apply State.setSalt_sound | with_reducible refine fst_sound (by assumption) ?_
    | rw [soundOut_next] | simp only [sound_upd, sound_updTil] | (intro _) | with_reducible apply soundOut_ite
    | with_reducible apply sound_ite | split

theorem execHoldExpiry_sound {s : State} (h : s.Sound) (rg : Nat) : soundOut (execHoldExpiry rg s) := by
  simp only [execHoldExpiry]
  repeat'
    first
    | with_reducible assumption | with_reducible apply State.setSalt_sound
    | with_reducible refine fst_sound (by assumption) ?_ | rw [soundOut_next] | simp only [sound_upd, sound_updTil]
    | (intro _) | with_reducible apply soundOut_ite | with_reducible apply sound_ite | split

theorem execRowRepairStart_sound {s : State} (h : s.Sound) (chan row : Nat) (free : Bool) : soundOut
    (execRowRepairStart chan row free s) := by
  simp only [execRowRepairStart]
  repeat'
    first
    | with_reducible assumption | with_reducible apply State.traceMem_sound
    | with_reducible refine fst_sound (by assumption) ?_ | rw [soundOut_next] | simp only [sound_upd, sound_updTil]
    | (intro _) | with_reducible apply soundOut_ite | with_reducible apply sound_ite | split

theorem execRowRepairLineStep_sound {s : State} (h : s.Sound) (chan row pa : Nat) (last : Bool) : soundOut
    (execRowRepairLineStep chan row pa last s) := by
  simp only [execRowRepairLineStep]
  repeat'
    first
    | with_reducible assumption | with_reducible apply State.traceMem_sound
    | with_reducible apply State.raise_sound | with_reducible apply State.memLog_sound
    | with_reducible refine fst_sound (by assumption) ?_ | rw [soundOut_next] | simp only [sound_upd, sound_updTil]
    | (intro _) | with_reducible apply soundOut_ite | with_reducible apply sound_ite | split

theorem State.setCursor_sound {s : State} (h : s.Sound) (key cur : Nat) : (State.setCursor s key cur).Sound := by
  simp only [State.setCursor]
  repeat'
    first
    | with_reducible assumption | with_reducible apply State.put_sound
    | with_reducible refine fst_sound (by assumption) ?_ | simp only [sound_upd, sound_updTil] | (intro _)
    | with_reducible apply sound_ite | split

theorem State.markDie_sound {s : State} (h : s.Sound) (k die src : Nat) : (State.markDie s k die src).Sound := by
  simp only [State.markDie]
  repeat'
    first
    | with_reducible assumption | with_reducible apply State.put_sound | with_reducible apply State.raise_sound
    | with_reducible apply State.memLog_sound | with_reducible apply State.traceMem_sound
    | with_reducible apply State.setCursor_sound | with_reducible refine fst_sound (by assumption) ?_
    | simp only [sound_upd, sound_updTil] | (intro _) | with_reducible apply sound_ite | split

theorem execDieMarkFailed_sound {s : State} (h : s.Sound) (k die : Nat) : soundOut (execDieMarkFailed k die s) := by
  simp only [execDieMarkFailed]
  repeat'
    first
    | with_reducible assumption | with_reducible apply State.markDie_sound
    | with_reducible refine fst_sound (by assumption) ?_ | rw [soundOut_next] | simp only [sound_upd, sound_updTil]
    | (intro _) | with_reducible apply soundOut_ite | with_reducible apply sound_ite | split

theorem execRebuildLineStep_sound {s : State} (h : s.Sound) (k pa : Nat) (f : Found) (unit row : Nat) : soundOut
    (execRebuildLineStep k pa f unit row s) := by
  simp only [execRebuildLineStep]
  repeat'
    first
    | with_reducible assumption | with_reducible apply State.setCursor_sound
    | with_reducible apply State.lineFound_sound | with_reducible refine fst_sound (by assumption) ?_
    | rw [soundOut_next] | simp only [sound_upd, sound_updTil] | (intro _) | with_reducible apply soundOut_ite
    | with_reducible apply sound_ite | split

theorem execRebuildComplete_sound {s : State} (h : s.Sound) (k : Nat) : soundOut (execRebuildComplete k s) := by
  simp only [execRebuildComplete]
  repeat'
    first
    | with_reducible assumption
    | with_reducible apply State.raiseIf_sound
    | with_reducible apply State.traceMem_sound
    | with_reducible apply State.raise_sound | with_reducible apply State.put_sound
    | with_reducible refine fst_sound (by assumption) ?_ | rw [soundOut_next] | simp only [sound_upd, sound_updTil]
    | (intro _) | with_reducible apply soundOut_ite | with_reducible apply sound_ite | split

theorem State.useFarSpare_sound {s : State} (h : s.Sound) (c : Nat) : (State.useFarSpare s c).Sound := by
  simp only [State.useFarSpare]
  repeat'
    first
    | with_reducible assumption | with_reducible apply State.raise_sound
    | with_reducible refine fst_sound (by assumption) ?_ | with_reducible apply sound_foldl
    | with_reducible apply sound_foldl_fst | simp only [sound_upd, sound_updTil] | (intro _)
    | with_reducible apply sound_ite | split

theorem State.markDevice_sound {s : State} (h : s.Sound) (c dev src : Nat) : (State.markDevice s c dev src).Sound :=
    by
  simp only [State.markDevice]
  repeat'
    first
    | with_reducible assumption | with_reducible apply State.put_sound | with_reducible apply State.raise_sound
    | with_reducible apply State.memLog_sound | with_reducible apply State.traceMem_sound
    | with_reducible apply State.setCursor_sound | with_reducible apply State.useFarSpare_sound
    | with_reducible refine fst_sound (by assumption) ?_ | simp only [sound_upd, sound_updTil] | (intro _)
    | with_reducible apply sound_ite | split

theorem execDeviceMarkFailed_sound {s : State} (h : s.Sound) (c dev : Nat) : soundOut (execDeviceMarkFailed c dev s)
    := by
  simp only [execDeviceMarkFailed]
  repeat'
    first
    | with_reducible assumption | with_reducible apply State.markDevice_sound
    | with_reducible refine fst_sound (by assumption) ?_ | rw [soundOut_next] | simp only [sound_upd, sound_updTil]
    | (intro _) | with_reducible apply soundOut_ite | with_reducible apply sound_ite | split

theorem execChannelMoveLineStep_sound {s : State} (h : s.Sound) (c pa : Nat) (f : Found) (unit row : Nat) : soundOut
    (execChannelMoveLineStep c pa f unit row s) := by
  simp only [execChannelMoveLineStep]
  repeat'
    first
    | with_reducible assumption | with_reducible apply State.setCursor_sound
    | with_reducible apply State.lineFound_sound | with_reducible refine fst_sound (by assumption) ?_
    | rw [soundOut_next] | simp only [sound_upd, sound_updTil] | (intro _) | with_reducible apply soundOut_ite
    | with_reducible apply sound_ite | split

theorem execChannelMoveComplete_sound {s : State} (h : s.Sound) (c : Nat) : soundOut (execChannelMoveComplete c s) :=
    by
  simp only [execChannelMoveComplete]
  repeat'
    first
    | with_reducible assumption | with_reducible apply State.traceMem_sound
    | with_reducible apply State.raise_sound | with_reducible apply State.put_sound
    | with_reducible refine fst_sound (by assumption) ?_ | rw [soundOut_next] | simp only [sound_upd, sound_updTil]
    | (intro _) | with_reducible apply soundOut_ite | with_reducible apply sound_ite | split

theorem execScrubLine_sound {s : State} (h : s.Sound) (pa : Nat) (f : Found) (unit row : Nat) : soundOut
    (execScrubLine pa f unit row s) := by
  simp only [execScrubLine]
  repeat'
    first
    | with_reducible assumption | with_reducible apply State.lineFound_sound
    | with_reducible refine fst_sound (by assumption) ?_ | rw [soundOut_next] | simp only [sound_upd, sound_updTil]
    | (intro _) | with_reducible apply soundOut_ite | with_reducible apply sound_ite | split

theorem execScrubPassComplete_sound {s : State} (h : s.Sound) (far : Bool) : soundOut (execScrubPassComplete far s) :=
    by
  simp only [execScrubPassComplete]
  repeat'
    first
    | with_reducible assumption | with_reducible apply State.bump_sound
    | with_reducible refine fst_sound (by assumption) ?_ | rw [soundOut_next] | simp only [sound_upd, sound_updTil]
    | (intro _) | with_reducible apply soundOut_ite | with_reducible apply sound_ite | split

theorem State.memCmd_sound {s : State} (h : s.Sound) (st : Nat) : (State.memCmd s st).Sound := by
  simp only [State.memCmd]
  repeat'
    first
    | with_reducible assumption | with_reducible apply State.put_sound
    | with_reducible refine fst_sound (by assumption) ?_ | simp only [sound_upd, sound_updTil] | (intro _)
    | with_reducible apply sound_ite | split

theorem execMemMarkNearDie_sound {s : State} (h : s.Sound) (k die : Nat) : soundOut (execMemMarkNearDie k die s) := by
  simp only [execMemMarkNearDie]
  repeat'
    first
    | with_reducible assumption | with_reducible apply State.memCmd_sound
    | with_reducible apply State.markDie_sound | with_reducible refine fst_sound (by assumption) ?_
    | rw [soundOut_next] | simp only [sound_upd, sound_updTil] | (intro _) | with_reducible apply soundOut_ite
    | with_reducible apply sound_ite | split

theorem execMemMarkFarDevice_sound {s : State} (h : s.Sound) (c dev : Nat) : soundOut (execMemMarkFarDevice c dev s)
    := by
  simp only [execMemMarkFarDevice]
  repeat'
    first
    | with_reducible assumption | with_reducible apply State.memCmd_sound
    | with_reducible apply State.markDevice_sound | with_reducible refine fst_sound (by assumption) ?_
    | rw [soundOut_next] | simp only [sound_upd, sound_updTil] | (intro _) | with_reducible apply soundOut_ite
    | with_reducible apply sound_ite | split

theorem execMemResaltRegion_sound {s : State} (h : s.Sound) (rg t : Nat) : soundOut (execMemResaltRegion rg t s) := by
  simp only [execMemResaltRegion]
  repeat'
    first
    | with_reducible assumption | with_reducible apply State.memCmd_sound | with_reducible apply State.resalt_sound
    | with_reducible refine fst_sound (by assumption) ?_ | rw [soundOut_next] | simp only [sound_upd, sound_updTil]
    | (intro _) | with_reducible apply soundOut_ite | with_reducible apply sound_ite | split

end Sys2Proof.Machine
end

