-- ==== Sys2Proof/Laws/SoundReliability.lean ====
section
/-! SUPPORT. The operations of Reliability.lean keep a state well kept. -/
namespace Sys2Proof.Machine
set_option linter.unusedTactic false
set_option linter.unreachableTactic false
set_option linter.unusedSimpArgs false
open Sys2Proof

theorem execCalStart_sound {s : State} (h : s.Sound) (l pick : Nat) : soundOut (execCalStart l pick s) := by
  simp only [execCalStart]
  repeat'
    first
    | with_reducible assumption | with_reducible apply State.raise_sound | with_reducible apply State.put_sound
    | with_reducible refine fst_sound (by assumption) ?_ | rw [soundOut_next] | simp only [sound_upd, sound_updTil]
    | (intro _) | with_reducible apply soundOut_ite | with_reducible apply sound_ite | split

theorem execCalStep_sound {s : State} (h : s.Sound) (l : Nat) : soundOut (execCalStep l s) := by
  simp only [execCalStep]
  repeat'
    first
    | with_reducible assumption | with_reducible refine fst_sound (by assumption) ?_ | rw [soundOut_next]
    | simp only [sound_upd, sound_updTil] | (intro _) | with_reducible apply soundOut_ite
    | with_reducible apply sound_ite | split

theorem execCalComplete_sound {s : State} (h : s.Sound) (l : Nat) : soundOut (execCalComplete l s) := by
  simp only [execCalComplete]
  repeat'
    first
    | with_reducible assumption | with_reducible apply State.raise_sound | with_reducible apply State.put_sound
    | with_reducible refine fst_sound (by assumption) ?_ | rw [soundOut_next] | simp only [sound_upd, sound_updTil]
    | (intro _) | with_reducible apply soundOut_ite | with_reducible apply sound_ite | split

theorem State.fwCmdWrite_sound {s : State} (h : s.Sound) (r : Requester) (val : Nat) : (State.fwCmdWrite s r
    val).Sound := by
  simp only [State.fwCmdWrite]
  repeat'
    first
    | with_reducible assumption | with_reducible apply State.put_sound | with_reducible apply State.setReg_sound
    | with_reducible apply State.traceMgmt_sound | with_reducible refine fst_sound (by assumption) ?_
    | simp only [sound_upd, sound_updTil] | (intro _) | with_reducible apply sound_ite | split

theorem State.fwEnd_sound {s : State} (h : s.Sound) (st : Nat) : (State.fwEnd s st).Sound := by
  simp only [State.fwEnd]
  repeat'
    first
    | with_reducible assumption | with_reducible apply State.traceMgmt_sound
    | with_reducible apply State.setReg_sound | with_reducible refine fst_sound (by assumption) ?_
    | simp only [sound_upd, sound_updTil] | (intro _) | with_reducible apply sound_ite | split

theorem State.fwCmd_sound {s : State} {f : State} (h : s.Sound) (hf : f.Sound) (op : Nat) (ok : Bool) : soundOut
    (State.fwCmd s op ok f) := by
  simp only [State.fwCmd]
  repeat'
    first
    | with_reducible assumption | with_reducible apply State.fwEnd_sound
    | with_reducible refine fst_sound (by assumption) ?_ | rw [soundOut_next] | simp only [sound_upd, sound_updTil]
    | (intro _) | with_reducible apply soundOut_ite | with_reducible apply sound_ite | split

theorem execFwStage_sound {s : State} (h : s.Sound) (img : Option (List Byte)) (sig : Bool) : soundOut (execFwStage
    img sig s) := by
  simp only [execFwStage]
  repeat'
    first
    | with_reducible assumption | with_reducible apply State.fwCmd_sound | with_reducible apply State.fwEnd_sound
    | with_reducible apply State.svnCheck_sound | with_reducible apply State.raise_sound
    | with_reducible apply State.put_sound | with_reducible refine fst_sound (by assumption) ?_
    | rw [soundOut_next] | simp only [sound_upd, sound_updTil] | (intro _) | with_reducible apply soundOut_ite
    | with_reducible apply sound_ite | split

theorem execFwActivate_sound {s : State} (h : s.Sound) : soundOut (execFwActivate s) := by
  simp only [execFwActivate]
  repeat'
    first
    | with_reducible assumption | with_reducible apply State.fwCmd_sound
    | with_reducible apply State.activate_sound | with_reducible apply State.fwEnd_sound
    | with_reducible apply State.raise_sound | with_reducible apply State.put_sound
    | with_reducible refine fst_sound (by assumption) ?_ | rw [soundOut_next] | simp only [sound_upd, sound_updTil]
    | (intro _) | with_reducible apply soundOut_ite | with_reducible apply sound_ite | split

theorem execFwConfirm_sound {s : State} (h : s.Sound) : soundOut (execFwConfirm s) := by
  simp only [execFwConfirm]
  repeat'
    first
    | with_reducible assumption | with_reducible apply State.fwCmd_sound | with_reducible apply State.fwEnd_sound
    | with_reducible apply State.fwGood_sound | with_reducible refine fst_sound (by assumption) ?_
    | rw [soundOut_next] | simp only [sound_upd, sound_updTil] | (intro _) | with_reducible apply soundOut_ite
    | with_reducible apply sound_ite | split

theorem execFwRevert_sound {s : State} (h : s.Sound) : soundOut (execFwRevert s) := by
  simp only [execFwRevert]
  repeat'
    first
    | with_reducible assumption | with_reducible apply State.fwCmd_sound | with_reducible apply State.fwEnd_sound
    | with_reducible apply State.fwRevert_sound | with_reducible refine fst_sound (by assumption) ?_
    | rw [soundOut_next] | simp only [sound_upd, sound_updTil] | (intro _) | with_reducible apply soundOut_ite
    | with_reducible apply sound_ite | split

theorem execFwTrialExpiry_sound {s : State} (h : s.Sound) : soundOut (execFwTrialExpiry s) := by
  simp only [execFwTrialExpiry]
  repeat'
    first
    | with_reducible assumption | with_reducible apply State.fwGood_sound
    | with_reducible refine fst_sound (by assumption) ?_ | rw [soundOut_next] | simp only [sound_upd, sound_updTil]
    | (intro _) | with_reducible apply soundOut_ite | with_reducible apply sound_ite | split

end Sys2Proof.Machine
end

