-- ==== Sys2Proof/Laws/SoundSecurity.lean ====
section
/-! SUPPORT. The operations of Security.lean keep a state well kept. -/
namespace Sys2Proof.Machine
set_option linter.unusedTactic false
set_option linter.unreachableTactic false
set_option linter.unusedSimpArgs false
open Sys2Proof

theorem State.provCmdWrite_sound {s : State} (h : s.Sound) (r : Requester) (val : Nat) : (State.provCmdWrite s r
    val).Sound := by
  simp only [State.provCmdWrite]
  repeat'
    first
    | with_reducible assumption | with_reducible apply State.put_sound | with_reducible apply State.raise_sound
    | with_reducible apply State.setReg_sound | with_reducible apply State.traceMgmt_sound
    | with_reducible refine fst_sound (by assumption) ?_ | simp only [sound_upd, sound_updTil] | (intro _)
    | with_reducible apply sound_ite | split

theorem State.provEnd_sound {s : State} (h : s.Sound) (st : Nat) : (State.provEnd s st).Sound := by
  simp only [State.provEnd]
  repeat'
    first
    | with_reducible assumption | with_reducible apply State.traceMgmt_sound
    | with_reducible apply State.raise_sound | with_reducible apply State.setReg_sound
    | with_reducible refine fst_sound (by assumption) ?_ | simp only [sound_upd, sound_updTil] | (intro _)
    | with_reducible apply sound_ite | split

theorem State.provCmd_sound {s : State} {f : State} (h : s.Sound) (hf : f.Sound) (op : Nat) : soundOut (State.provCmd
    s op f) := by
  simp only [State.provCmd]
  repeat'
    first
    | with_reducible assumption | with_reducible apply State.provEnd_sound
    | with_reducible refine fst_sound (by assumption) ?_ | rw [soundOut_next] | simp only [sound_upd, sound_updTil]
    | (intro _) | with_reducible apply soundOut_ite | with_reducible apply sound_ite | split

theorem execProvision_sound {s : State} (h : s.Sound) (blob : Option (List Byte)) : soundOut (execProvision blob s) :=
    by
  simp only [execProvision]
  repeat'
    first
    | with_reducible assumption | with_reducible apply State.provCmd_sound
    | with_reducible apply State.provEnd_sound | with_reducible apply State.tick_sound
    | with_reducible apply State.put_sound | with_reducible refine fst_sound (by assumption) ?_
    | rw [soundOut_next] | simp only [sound_upd, sound_updTil] | (intro _) | with_reducible apply soundOut_ite
    | with_reducible apply sound_ite | split

theorem State.dropSecret_sound {s : State} (h : s.Sound) : (State.dropSecret s).Sound := by
  simp only [State.dropSecret]
  repeat'
    first
    | with_reducible assumption | with_reducible refine fst_sound (by assumption) ?_
    | simp only [sound_upd, sound_updTil] | (intro _) | with_reducible apply sound_ite | split

theorem execForget_sound {s : State} (h : s.Sound) : soundOut (execForget s) := by
  simp only [execForget]
  repeat'
    first
    | with_reducible assumption | with_reducible apply State.provCmd_sound
    | with_reducible apply State.provEnd_sound | with_reducible apply State.put_sound
    | with_reducible apply State.dropSecret_sound | with_reducible refine fst_sound (by assumption) ?_
    | rw [soundOut_next] | simp only [sound_upd, sound_updTil] | (intro _) | with_reducible apply soundOut_ite
    | with_reducible apply sound_ite | split

theorem State.keyCmdWrite_sound {s : State} (h : s.Sound) (r : Requester) (val : Nat) : (State.keyCmdWrite s r
    val).Sound := by
  simp only [State.keyCmdWrite]
  repeat'
    first
    | with_reducible assumption | with_reducible apply State.put_sound | with_reducible apply State.setReg_sound
    | with_reducible apply State.traceMgmt_sound | with_reducible refine fst_sound (by assumption) ?_
    | simp only [sound_upd, sound_updTil] | (intro _) | with_reducible apply sound_ite | split

theorem State.keyEnd_sound {s : State} (h : s.Sound) (st : Nat) : (State.keyEnd s st).Sound := by
  simp only [State.keyEnd]
  repeat'
    first
    | with_reducible assumption | with_reducible apply State.traceMgmt_sound
    | with_reducible apply State.setReg_sound | with_reducible refine fst_sound (by assumption) ?_
    | simp only [sound_upd, sound_updTil] | (intro _) | with_reducible apply sound_ite | split

theorem State.keyCmd_sound {s : State} (h : s.Sound) (op : Nat) (busy : Nat → KeyCtx → Nat → Bool) (f : Nat → KeyCtx →
    Nat → State) (hf : ∀ a0 a1 a2, (f a0 a1 a2).Sound) : soundOut (State.keyCmd s op busy f) := by
  simp only [State.keyCmd]
  repeat'
    first
    | with_reducible assumption | with_reducible apply State.keyEnd_sound | with_reducible apply hf
    | with_reducible refine fst_sound (by assumption) ?_ | rw [soundOut_next] | simp only [sound_upd, sound_updTil]
    | (intro _) | with_reducible apply soundOut_ite | with_reducible apply sound_ite | split

theorem State.setKeyCtx_sound {s : State} (h : s.Sound) (c : Nat) (k : KeyCtx) : (State.setKeyCtx s c k).Sound := by
  simp only [State.setKeyCtx]
  repeat'
    first
    | with_reducible assumption | with_reducible refine fst_sound (by assumption) ?_
    | simp only [sound_upd, sound_updTil] | (intro _) | with_reducible apply sound_ite | split

theorem execKeyInstall_sound {s : State} (h : s.Sound) : soundOut (execKeyInstall s) := by
  simp only [execKeyInstall]
  repeat'
    first
    | with_reducible assumption | with_reducible apply State.keyCmd_sound
    | with_reducible apply State.setKeyCtx_sound | with_reducible refine fst_sound (by assumption) ?_
    | rw [soundOut_next] | simp only [sound_upd, sound_updTil] | (intro _) | with_reducible apply soundOut_ite
    | with_reducible apply sound_ite | split

theorem execKeySwitch_sound {s : State} (h : s.Sound) : soundOut (execKeySwitch s) := by
  simp only [execKeySwitch]
  repeat'
    first
    | with_reducible assumption | with_reducible apply State.keyCmd_sound
    | with_reducible apply State.setKeyCtx_sound | with_reducible refine fst_sound (by assumption) ?_
    | rw [soundOut_next] | simp only [sound_upd, sound_updTil] | (intro _) | with_reducible apply soundOut_ite
    | with_reducible apply sound_ite | split

theorem execKeyRetire_sound {s : State} (h : s.Sound) : soundOut (execKeyRetire s) := by
  simp only [execKeyRetire]
  repeat'
    first
    | with_reducible assumption | with_reducible apply State.keyCmd_sound
    | with_reducible apply State.setKeyCtx_sound | with_reducible refine fst_sound (by assumption) ?_
    | rw [soundOut_next] | simp only [sound_upd, sound_updTil] | (intro _) | with_reducible apply soundOut_ite
    | with_reducible apply sound_ite | split

theorem execKeyClear_sound {s : State} (h : s.Sound) : soundOut (execKeyClear s) := by
  simp only [execKeyClear]
  repeat'
    first
    | with_reducible assumption | with_reducible apply State.keyCmd_sound
    | with_reducible apply State.clearCtx_sound | with_reducible refine fst_sound (by assumption) ?_
    | rw [soundOut_next] | simp only [sound_upd, sound_updTil] | (intro _) | with_reducible apply soundOut_ite
    | with_reducible apply sound_ite | split

theorem State.zeroize_sound {s : State} (h : s.Sound) (opens : Bool) : (State.zeroize s opens).Sound := by
  simp only [State.zeroize]
  repeat'
    first
    | with_reducible assumption | with_reducible refine fst_sound (by assumption) ?_
    | simp only [sound_upd, sound_updTil] | (intro _) | with_reducible apply sound_ite | split

theorem State.unlock_sound {s : State} (h : s.Sound) : (State.unlock s).Sound := by
  simp only [State.unlock]
  repeat'
    first
    | with_reducible assumption | with_reducible apply State.zeroize_sound
    | with_reducible refine fst_sound (by assumption) ?_ | simp only [sound_upd, sound_updTil] | (intro _)
    | with_reducible apply sound_ite | split

theorem execDebugUnlock_sound {s : State} (h : s.Sound) (r : Requester) (val : Nat) : soundOut (execDebugUnlock r val
    s) := by
  simp only [execDebugUnlock]
  repeat'
    first
    | with_reducible assumption | with_reducible apply State.unlock_sound
    | with_reducible refine fst_sound (by assumption) ?_ | rw [soundOut_next] | simp only [sound_upd, sound_updTil]
    | (intro _) | with_reducible apply soundOut_ite | with_reducible apply sound_ite | split

theorem execDebugOpen_sound {s : State} (h : s.Sound) : soundOut (execDebugOpen s) := by
  simp only [execDebugOpen]
  repeat'
    first
    | with_reducible assumption | with_reducible apply State.put_sound | with_reducible apply State.raise_sound
    | with_reducible refine fst_sound (by assumption) ?_ | rw [soundOut_next] | simp only [sound_upd, sound_updTil]
    | (intro _) | with_reducible apply soundOut_ite | with_reducible apply sound_ite | split

theorem State.tamperLog_sound {s : State} (h : s.Sound) (sources : Nat) : (State.tamperLog s sources).Sound := by
  simp only [State.tamperLog]
  repeat'
    first
    | with_reducible assumption | with_reducible apply State.tick_sound | with_reducible apply State.bump_sound
    | with_reducible apply State.put_sound | with_reducible apply State.setReg_sound
    | with_reducible refine fst_sound (by assumption) ?_ | simp only [sound_upd, sound_updTil] | (intro _)
    | with_reducible apply sound_ite | split

theorem execTamperAlarm_sound {s : State} (h : s.Sound) (sources : Nat) : soundOut (execTamperAlarm sources s) := by
  simp only [execTamperAlarm]
  repeat'
    first
    | with_reducible assumption | with_reducible apply State.tamperLog_sound
    | with_reducible apply State.raise_sound | with_reducible apply State.zeroize_sound
    | with_reducible refine fst_sound (by assumption) ?_ | rw [soundOut_next] | simp only [sound_upd, sound_updTil]
    | (intro _) | with_reducible apply soundOut_ite | with_reducible apply sound_ite | split

theorem execSecTamperClear_sound {s : State} (h : s.Sound) (r : Requester) (val : Nat) : soundOut (execSecTamperClear
    r val s) := by
  simp only [execSecTamperClear]
  repeat'
    first
    | with_reducible assumption | with_reducible apply State.resetRange_sound
    | with_reducible apply State.setReg_sound | with_reducible refine fst_sound (by assumption) ?_
    | rw [soundOut_next] | simp only [sound_upd, sound_updTil] | (intro _) | with_reducible apply soundOut_ite
    | with_reducible apply sound_ite | split

theorem execCellLow_sound {s : State} (h : s.Sound) : soundOut (execCellLow s) := by
  simp only [execCellLow]
  repeat'
    first
    | with_reducible assumption | with_reducible apply State.raise_sound | with_reducible apply State.put_sound
    | with_reducible refine fst_sound (by assumption) ?_ | rw [soundOut_next] | simp only [sound_upd, sound_updTil]
    | (intro _) | with_reducible apply soundOut_ite | with_reducible apply sound_ite | split

theorem execCellReplace_sound {s : State} (h : s.Sound) : soundOut (execCellReplace s) := by
  simp only [execCellReplace]
  repeat'
    first
    | with_reducible assumption | with_reducible apply State.put_sound
    | with_reducible refine fst_sound (by assumption) ?_ | rw [soundOut_next] | simp only [sound_upd, sound_updTil]
    | (intro _) | with_reducible apply soundOut_ite | with_reducible apply sound_ite | split

theorem execCellExhausted_sound {s : State} (h : s.Sound) : soundOut (execCellExhausted s) := by
  simp only [execCellExhausted]
  repeat'
    first
    | with_reducible assumption | with_reducible apply State.put_sound
    | with_reducible refine fst_sound (by assumption) ?_ | rw [soundOut_next] | simp only [sound_upd, sound_updTil]
    | (intro _) | with_reducible apply soundOut_ite | with_reducible apply sound_ite | split

theorem execEntropyHealthFail_sound {s : State} (h : s.Sound) : soundOut (execEntropyHealthFail s) := by
  simp only [execEntropyHealthFail]
  repeat'
    first
    | with_reducible assumption | with_reducible apply State.raise_sound | with_reducible apply State.put_sound
    | with_reducible refine fst_sound (by assumption) ?_ | rw [soundOut_next] | simp only [sound_upd, sound_updTil]
    | (intro _) | with_reducible apply soundOut_ite | with_reducible apply sound_ite | split

theorem execNoiseRetest_sound {s : State} (h : s.Sound) (pass : Bool) : soundOut (execNoiseRetest pass s) := by
  simp only [execNoiseRetest]
  repeat'
    first
    | with_reducible assumption | with_reducible apply State.put_sound
    | with_reducible refine fst_sound (by assumption) ?_ | rw [soundOut_next] | simp only [sound_upd, sound_updTil]
    | (intro _) | with_reducible apply soundOut_ite | with_reducible apply sound_ite | split

theorem execDrbgReseed_sound {s : State} (h : s.Sound) : soundOut (execDrbgReseed s) := by
  simp only [execDrbgReseed]
  repeat'
    first
    | with_reducible assumption | with_reducible refine fst_sound (by assumption) ?_ | rw [soundOut_next]
    | simp only [sound_upd, sound_updTil] | (intro _) | with_reducible apply soundOut_ite
    | with_reducible apply sound_ite | split

end Sys2Proof.Machine
end

