-- ==== Sys2Proof/Laws/SoundTrace.lean ====
section
/-! SUPPORT. The operations of Trace.lean keep a state well kept. -/
namespace Sys2Proof.Machine
set_option linter.unusedTactic false
set_option linter.unreachableTactic false
set_option linter.unusedSimpArgs false
open Sys2Proof

theorem State.slotRefill_sound {s : State} (h : s.Sound) (key : Nat) (x : TrcSlot) : (State.slotRefill s key x).Sound
    := by
  simp only [State.slotRefill]
  repeat'
    first
    | with_reducible assumption | with_reducible apply State.setTraceSlot_sound
    | with_reducible apply State.raise_sound | with_reducible refine fst_sound (by assumption) ?_
    | simp only [sound_upd, sound_updTil] | (intro _) | with_reducible apply sound_ite | split

theorem execTraceCollect_sound {s : State} (h : s.Sound) (d : Nat) : soundOut (execTraceCollect d s) := by
  simp only [execTraceCollect]
  repeat'
    first
    | with_reducible assumption | with_reducible apply State.slotRefill_sound
    | with_reducible refine fst_sound (by assumption) ?_ | rw [soundOut_next] | simp only [sound_upd, sound_updTil]
    | (intro _) | with_reducible apply soundOut_ite | with_reducible apply sound_ite | split

theorem State.saffronPut_sound {s : State} (h : s.Sound) (l : Nat) (f : List Byte) : (State.saffronPut s l f).Sound :=
    by
  simp only [State.saffronPut]
  repeat'
    first
    | with_reducible assumption | with_reducible refine fst_sound (by assumption) ?_
    | simp only [sound_upd, sound_updTil] | (intro _) | with_reducible apply sound_ite | split

theorem State.scanBegin_sound {s : State} (h : s.Sound) (first count : Nat) (saffron : Bool) : (State.scanBegin s
    first count saffron).Sound := by
  simp only [State.scanBegin]
  repeat'
    first
    | with_reducible assumption | with_reducible apply State.put_sound
    | with_reducible refine fst_sound (by assumption) ?_ | simp only [sound_upd, sound_updTil] | (intro _)
    | with_reducible apply sound_ite | split

theorem execScanStart_sound {s : State} (h : s.Sound) (r : Requester) : soundOut (execScanStart r s) := by
  simp only [execScanStart]
  repeat'
    first
    | with_reducible assumption | with_reducible apply State.scanBegin_sound
    | with_reducible refine fst_sound (by assumption) ?_ | rw [soundOut_next] | simp only [sound_upd, sound_updTil]
    | (intro _) | with_reducible apply soundOut_ite | with_reducible apply sound_ite | split

theorem execScanComplete_sound {s : State} (h : s.Sound) : soundOut (execScanComplete s) := by
  simp only [execScanComplete]
  repeat'
    first
    | with_reducible assumption | with_reducible apply State.raise_sound | with_reducible apply State.put_sound
    | with_reducible refine fst_sound (by assumption) ?_ | rw [soundOut_next] | simp only [sound_upd, sound_updTil]
    | (intro _) | with_reducible apply soundOut_ite | with_reducible apply sound_ite | split

theorem State.scanStep_sound {s : State} (h : s.Sound) (x : Scan) (n size : Nat) : (State.scanStep s x n size).Sound
    := by
  simp only [State.scanStep]
  repeat'
    first
    | with_reducible assumption | with_reducible apply State.put_sound
    | with_reducible refine fst_sound (by assumption) ?_ | simp only [sound_upd, sound_updTil] | (intro _)
    | with_reducible apply sound_ite | split

theorem execSaffronFrameSend_sound {s : State} (h : s.Sound) : soundOut (execSaffronFrameSend s) := by
  simp only [execSaffronFrameSend]
  repeat'
    first
    | with_reducible assumption | with_reducible apply State.scanStep_sound
    | with_reducible apply State.saffronPut_sound | with_reducible apply State.bump_sound
    | with_reducible refine fst_sound (by assumption) ?_ | rw [soundOut_next] | simp only [sound_upd, sound_updTil]
    | (intro _) | with_reducible apply soundOut_ite | with_reducible apply sound_ite | split

theorem execSaffronLaneDown_sound {s : State} (h : s.Sound) (l : Nat) : soundOut (execSaffronLaneDown l s) := by
  simp only [execSaffronLaneDown]
  repeat'
    first
    | with_reducible assumption | with_reducible apply State.raise_sound | with_reducible apply State.put_sound
    | with_reducible refine fst_sound (by assumption) ?_ | rw [soundOut_next] | simp only [sound_upd, sound_updTil]
    | (intro _) | with_reducible apply soundOut_ite | with_reducible apply sound_ite | split

theorem execTraceMark_sound {s : State} (h : s.Sound) (r : Requester) (val : Nat) : soundOut (execTraceMark r val s)
    := by
  simp only [execTraceMark]
  repeat'
    first
    | with_reducible assumption | with_reducible apply State.trace_sound
    | with_reducible refine fst_sound (by assumption) ?_ | rw [soundOut_next] | simp only [sound_upd, sound_updTil]
    | (intro _) | with_reducible apply soundOut_ite | with_reducible apply sound_ite | split

theorem State.trigIdle_sound {s : State} (h : s.Sound) : (State.trigIdle s).Sound := by
  simp only [State.trigIdle]
  repeat'
    first
    | with_reducible assumption | with_reducible apply State.put_sound
    | with_reducible refine fst_sound (by assumption) ?_ | simp only [sound_upd, sound_updTil] | (intro _)
    | with_reducible apply sound_ite | split

theorem State.trigCfgWrite_sound {s : State} (h : s.Sound) (val : Nat) : (State.trigCfgWrite s val).Sound := by
  simp only [State.trigCfgWrite]
  repeat'
    first
    | with_reducible assumption | with_reducible apply State.setReg_sound
    | with_reducible apply State.raiseIf_sound | with_reducible refine fst_sound (by assumption) ?_
    | simp only [sound_upd, sound_updTil] | (intro _) | with_reducible apply sound_ite | split

theorem execTriggerArm_sound {s : State} (h : s.Sound) (r : Requester) (val : Nat) : soundOut (execTriggerArm r val s)
    := by
  simp only [execTriggerArm]
  repeat'
    first
    | with_reducible assumption | with_reducible apply State.trigCfgWrite_sound
    | with_reducible refine fst_sound (by assumption) ?_ | rw [soundOut_next] | simp only [sound_upd, sound_updTil]
    | (intro _) | with_reducible apply soundOut_ite | with_reducible apply sound_ite | split

theorem State.trigFire_sound {s : State} (h : s.Sound) : (State.trigFire s).Sound := by
  simp only [State.trigFire]
  repeat'
    first
    | with_reducible assumption | with_reducible apply State.fire_sound
    | with_reducible refine fst_sound (by assumption) ?_ | simp only [sound_upd, sound_updTil] | (intro _)
    | with_reducible apply sound_ite | split

theorem State.thaw_sound {s : State} (h : s.Sound) : (State.thaw s).Sound := by
  simp only [State.thaw]
  repeat'
    first
    | with_reducible assumption | with_reducible apply State.put_sound | with_reducible apply State.trigIdle_sound
    | with_reducible refine fst_sound (by assumption) ?_ | simp only [sound_upd, sound_updTil] | (intro _)
    | with_reducible apply sound_ite | split

theorem State.trigResume_sound {s : State} (h : s.Sound) : (State.trigResume s).Sound := by
  simp only [State.trigResume]
  repeat'
    first
    | with_reducible assumption | with_reducible refine fst_sound (by assumption) ?_
    | simp only [sound_upd, sound_updTil] | (intro _) | with_reducible apply sound_ite | split

theorem execTriggerCmdFire_sound {s : State} (h : s.Sound) (r : Requester) : soundOut (execTriggerCmdFire r s) := by
  simp only [execTriggerCmdFire]
  repeat'
    first
    | with_reducible assumption | with_reducible apply State.trigFire_sound
    | with_reducible refine fst_sound (by assumption) ?_ | rw [soundOut_next] | simp only [sound_upd, sound_updTil]
    | (intro _) | with_reducible apply soundOut_ite | with_reducible apply sound_ite | split

theorem execTriggerCmdThaw_sound {s : State} (h : s.Sound) (r : Requester) : soundOut (execTriggerCmdThaw r s) := by
  simp only [execTriggerCmdThaw]
  repeat'
    first
    | with_reducible assumption | with_reducible apply State.thaw_sound
    | with_reducible refine fst_sound (by assumption) ?_ | rw [soundOut_next] | simp only [sound_upd, sound_updTil]
    | (intro _) | with_reducible apply soundOut_ite | with_reducible apply sound_ite | split

theorem execTriggerCmdResume_sound {s : State} (h : s.Sound) (r : Requester) : soundOut (execTriggerCmdResume r s) :=
    by
  simp only [execTriggerCmdResume]
  repeat'
    first
    | with_reducible assumption | with_reducible apply State.trigResume_sound
    | with_reducible refine fst_sound (by assumption) ?_ | rw [soundOut_next] | simp only [sound_upd, sound_updTil]
    | (intro _) | with_reducible apply soundOut_ite | with_reducible apply sound_ite | split

theorem execFreezePinEdge_sound {s : State} (h : s.Sound) : soundOut (execFreezePinEdge s) := by
  simp only [execFreezePinEdge]
  repeat'
    first
    | with_reducible assumption | with_reducible apply State.fire_sound
    | with_reducible refine fst_sound (by assumption) ?_ | rw [soundOut_next] | simp only [sound_upd, sound_updTil]
    | (intro _) | with_reducible apply soundOut_ite | with_reducible apply sound_ite | split

theorem State.snapshot_sound {s : State} (h : s.Sound) : (State.snapshot s).Sound := by
  simp only [State.snapshot]
  repeat'
    first
    | with_reducible assumption | with_reducible apply State.put_sound
    | with_reducible refine fst_sound (by assumption) ?_ | with_reducible apply sound_foldl
    | with_reducible apply sound_foldl_fst | simp only [sound_upd, sound_updTil] | (intro _)
    | with_reducible apply sound_ite | split

theorem execFreezeSnapshot_sound {s : State} (h : s.Sound) : soundOut (execFreezeSnapshot s) := by
  simp only [execFreezeSnapshot]
  repeat'
    first
    | with_reducible assumption | with_reducible apply State.snapshot_sound
    | with_reducible refine fst_sound (by assumption) ?_ | rw [soundOut_next] | simp only [sound_upd, sound_updTil]
    | (intro _) | with_reducible apply soundOut_ite | with_reducible apply sound_ite | split

theorem State.haltNow_sound {s : State} (h : s.Sound) : (State.haltNow s).Sound := by
  simp only [State.haltNow]
  repeat'
    first
    | with_reducible assumption | with_reducible refine fst_sound (by assumption) ?_
    | simp only [sound_upd, sound_updTil] | (intro _) | with_reducible apply sound_ite | split

theorem execHaltAll_sound {s : State} (h : s.Sound) : soundOut (execHaltAll s) := by
  simp only [execHaltAll]
  repeat'
    first
    | with_reducible assumption | with_reducible apply State.haltNow_sound
    | with_reducible refine fst_sound (by assumption) ?_ | rw [soundOut_next] | simp only [sound_upd, sound_updTil]
    | (intro _) | with_reducible apply soundOut_ite | with_reducible apply sound_ite | split

theorem execHaltComplete_sound {s : State} (h : s.Sound) : soundOut (execHaltComplete s) := by
  simp only [execHaltComplete]
  repeat'
    first
    | with_reducible assumption | with_reducible apply State.raise_sound | with_reducible apply State.setReg_sound
    | with_reducible refine fst_sound (by assumption) ?_ | rw [soundOut_next] | simp only [sound_upd, sound_updTil]
    | (intro _) | with_reducible apply soundOut_ite | with_reducible apply sound_ite | split

theorem State.haltOrder_sound {s : State} (h : s.Sound) : (State.haltOrder s).Sound := by
  simp only [State.haltOrder]
  repeat'
    first
    | with_reducible assumption | with_reducible apply State.put_sound
    | with_reducible refine fst_sound (by assumption) ?_ | simp only [sound_upd, sound_updTil] | (intro _)
    | with_reducible apply sound_ite | split

theorem State.jtag_sound {s : State} (h : s.Sound) (ir tdo : Nat) : (State.jtag s ir tdo).Sound := by
  simp only [State.jtag]
  repeat'
    first
    | with_reducible assumption | with_reducible refine fst_sound (by assumption) ?_
    | simp only [sound_upd, sound_updTil] | (intro _) | with_reducible apply sound_ite | split

theorem State.jtagOpen_sound {s : State} (h : s.Sound) (ir : Nat) (f : State → State) (hf : ∀ a0, a0.Sound → (f
    a0).Sound) : soundOut (State.jtagOpen s ir f) := by
  simp only [State.jtagOpen]
  repeat'
    first
    | with_reducible assumption | with_reducible apply State.jtag_sound | with_reducible apply hf
    | with_reducible refine fst_sound (by assumption) ?_ | rw [soundOut_next] | simp only [sound_upd, sound_updTil]
    | (intro _) | with_reducible apply soundOut_ite | with_reducible apply sound_ite | split

theorem execJtagIdcode_sound {s : State} (h : s.Sound) : soundOut (execJtagIdcode s) := by
  simp only [execJtagIdcode]
  repeat'
    first
    | with_reducible assumption | with_reducible apply State.jtag_sound
    | with_reducible refine fst_sound (by assumption) ?_ | rw [soundOut_next] | simp only [sound_upd, sound_updTil]
    | (intro _) | with_reducible apply soundOut_ite | with_reducible apply sound_ite | split

theorem execJtagUnlock_sound {s : State} (h : s.Sound) : soundOut (execJtagUnlock s) := by
  simp only [execJtagUnlock]
  repeat'
    first
    | with_reducible assumption | with_reducible apply State.unlock_sound | with_reducible apply State.jtag_sound
    | with_reducible refine fst_sound (by assumption) ?_ | rw [soundOut_next] | simp only [sound_upd, sound_updTil]
    | (intro _) | with_reducible apply soundOut_ite | with_reducible apply sound_ite | split

theorem execJtagHalt_sound {s : State} (h : s.Sound) : soundOut (execJtagHalt s) := by
  simp only [execJtagHalt]
  repeat'
    first
    | with_reducible assumption | with_reducible apply State.jtagOpen_sound
    | with_reducible apply State.haltOrder_sound | with_reducible refine fst_sound (by assumption) ?_
    | rw [soundOut_next] | simp only [sound_upd, sound_updTil] | (intro _) | with_reducible apply soundOut_ite
    | with_reducible apply sound_ite | split

theorem execJtagResume_sound {s : State} (h : s.Sound) : soundOut (execJtagResume s) := by
  simp only [execJtagResume]
  repeat'
    first
    | with_reducible assumption | with_reducible apply State.jtagOpen_sound
    | with_reducible apply State.trigResume_sound | with_reducible refine fst_sound (by assumption) ?_
    | rw [soundOut_next] | simp only [sound_upd, sound_updTil] | (intro _) | with_reducible apply soundOut_ite
    | with_reducible apply sound_ite | split

theorem execJtagScanSel_sound {s : State} (h : s.Sound) (val : Nat) : soundOut (execJtagScanSel val s) := by
  simp only [execJtagScanSel]
  repeat'
    first
    | with_reducible assumption | with_reducible apply State.jtagOpen_sound
    | with_reducible apply State.scanBegin_sound | with_reducible refine fst_sound (by assumption) ?_
    | rw [soundOut_next] | simp only [sound_upd, sound_updTil] | (intro _) | with_reducible apply soundOut_ite
    | with_reducible apply sound_ite | split

theorem State.scanShift_sound {s : State} (h : s.Sound) (n : Nat) : (State.scanShift n s).1.Sound := by
  induction n generalizing s with
  | zero => exact h
  | succ n ih =>
    simp only [State.scanShift]
    split
    · exact ih (State.scanStep_sound h _ _ _)
    · exact h

theorem execJtagScanData_sound {s : State} (h : s.Sound) (n : Nat) : soundOut (execJtagScanData n s) := by
  simp only [execJtagScanData]
  repeat'
    first
    | with_reducible assumption | with_reducible apply State.jtagOpen_sound
    | with_reducible apply State.scanShift_sound | with_reducible apply State.jtag_sound
    | with_reducible refine fst_sound (by assumption) ?_ | rw [soundOut_next] | simp only [sound_upd, sound_updTil]
    | (intro _) | with_reducible apply soundOut_ite | with_reducible apply sound_ite | split

theorem execJtagBypass_sound {s : State} (h : s.Sound) : soundOut (execJtagBypass s) := by
  simp only [execJtagBypass]
  repeat'
    first
    | with_reducible assumption | with_reducible apply State.jtag_sound
    | with_reducible refine fst_sound (by assumption) ?_ | rw [soundOut_next] | simp only [sound_upd, sound_updTil]
    | (intro _) | with_reducible apply soundOut_ite | with_reducible apply sound_ite | split

end Sys2Proof.Machine
end

