-- ==== Sys2Proof/Laws/SoundPower.lean ====
section
/-! SUPPORT. The operations of Power.lean keep a state well kept. -/
namespace Sys2Proof.Machine
set_option linter.unusedTactic false
set_option linter.unreachableTactic false
set_option linter.unusedSimpArgs false
open Sys2Proof

/-- What a reset keeps of the registers stays in canonical form. -/
theorem State.keptCsr_ok {s : State} (h : s.Sound) (mask : Nat → Nat) : csrOk (s.keptCsr mask) := by
  have key : ∀ m : SMap Nat, sortedKeys m = true → csrOk (m.filterMap fun p =>
      let v := (p.2 &&& mask p.1) ||| clearMask (regReset p.1) (mask p.1)
      if v = regReset p.1 then none else some (p.1, v)) := by
    intro m hm
    induction m with
    | nil => exact ⟨rfl, by simp⟩
    | cons q m ih =>
      have hs := (sortedKeys_cons _ _).1 hm
      obtain ⟨h1, h2⟩ := ih hs.2
      rw [List.filterMap_cons]
      split
      · exact ⟨h1, h2⟩
      · rename_i r hr
        simp only at hr
        split at hr
        · cases hr
        · rename_i hv
          cases hr
          refine ⟨(sortedKeys_cons _ _).2 ⟨fun x hx => ?_, h1⟩, fun x hx => ?_⟩
          · obtain ⟨y, hy, he⟩ := List.mem_filterMap.1 hx
            simp only at he
            split at he
            · cases he
            · cases he
              exact hs.1 y hy
          · rcases List.mem_cons.1 hx with rfl | hx
            · exact hv
            · exact h2 x hx
  exact key s.csr h.csr.1

theorem State.blank_sound {s : State} (h : s.Sound) (mask : Nat → Nat) : (State.blank s mask).Sound := by
  exact ⟨rfl, rfl, State.keptCsr_ok h mask, rfl, fun p hp => by cases hp⟩

theorem State.foldLater_sound {s : State} (h : s.Sound) : s.foldLater.Sound := by
  have h1 : (s.later.foldl (fun s p => s.setReg p.1 (clearMask (s.reg p.1) (rwMask p.1) ||| (p.2 &&& rwMask p.1))) s).Sound :=
    sound_foldl (fun s p hs => State.setReg_sound hs _ _) h _
  exact h1.upd rfl rfl rfl rfl

theorem State.bootFail_sound {s : State} (h : s.Sound) (step code : Nat) : (State.bootFail s step code).Sound := by
  simp only [State.bootFail]
  repeat'
    first
    | with_reducible assumption | with_reducible apply State.raise_sound | with_reducible apply State.put_sound
    | with_reducible refine fst_sound (by assumption) ?_ | simp only [sound_upd, sound_updTil] | (intro _)
    | with_reducible apply sound_ite | split

theorem State.selfTest_sound {s : State} (h : s.Sound) (ok : Bool) : (State.selfTest s ok).Sound := by
  simp only [State.selfTest]
  repeat'
    first
    | with_reducible assumption | with_reducible apply State.setReg_sound | with_reducible apply State.tick_sound
    | with_reducible refine fst_sound (by assumption) ?_ | simp only [sound_upd, sound_updTil] | (intro _)
    | with_reducible apply sound_ite | split

theorem State.spareTile_sound {s : State} (h : s.Sound) (p : Nat × Nat) : (State.spareTile s p).Sound := by
  simp only [State.spareTile]
  repeat'
    first
    | with_reducible assumption | with_reducible apply State.put_sound
    | with_reducible refine fst_sound (by assumption) ?_ | simp only [sound_upd, sound_updTil] | (intro _)
    | with_reducible apply sound_ite | split

theorem State.showSpares_sound {s : State} (h : s.Sound) : (State.showSpares s).Sound := by
  simp only [State.showSpares]
  repeat'
    first
    | with_reducible assumption | with_reducible apply State.raise_sound | with_reducible apply State.put_sound
    | with_reducible apply State.setReg_sound | with_reducible refine fst_sound (by assumption) ?_
    | with_reducible apply sound_foldl | with_reducible apply sound_foldl_fst | simp only [sound_upd, sound_updTil]
    | (intro _) | with_reducible apply sound_ite | split

theorem State.spareStack_sound {s : State} (h : s.Sound) (k : Nat) (l : List Nat) : (State.spareStack s k l).Sound :=
    by
  simp only [State.spareStack]
  repeat'
    first
    | with_reducible assumption | with_reducible apply State.raise_sound | with_reducible apply State.put_sound
    | with_reducible refine fst_sound (by assumption) ?_ | simp only [sound_upd, sound_updTil] | (intro _)
    | with_reducible apply sound_ite | split

theorem State.spareMemory_sound {s : State} (h : s.Sound) (b : Boot) {p : State × Nat} (e : State.spareMemory s b =
    some p) : p.1.Sound := by
  simp only [State.spareMemory] at e
  split at e
  · cases e
  · cases e
    exact sound_foldl (fun s x hs => State.put_sound (State.useFarSpare_sound hs _) _ _)
      (sound_foldl (fun s x hs => State.spareStack_sound hs _ _) h _) _

theorem State.slotOk_sound {s : State} (h : s.Sound) (b : Boot) (k : Nat) : (State.slotOk s b k).1.Sound := by
  simp only [State.slotOk]
  repeat'
    first
    | with_reducible assumption | with_reducible apply State.svnCheck_sound
    | with_reducible refine fst_sound (by assumption) ?_ | simp only [sound_upd, sound_updTil] | (intro _)
    | with_reducible apply sound_ite | split

theorem State.pickSlot_sound {s : State} (h : s.Sound) (b : Boot) : (State.pickSlot s b).1.Sound := by
  simp only [State.pickSlot]
  repeat'
    first
    | with_reducible assumption | with_reducible apply State.slotOk_sound
    | with_reducible refine fst_sound (by assumption) ?_ | with_reducible apply sound_foldl
    | with_reducible apply sound_foldl_fst | simp only [sound_upd, sound_updTil] | (intro _)
    | with_reducible apply sound_ite | split

theorem State.bootSlot_sound {s : State} (h : s.Sound) (k : Nat) : (State.bootSlot s k).Sound := by
  simp only [State.bootSlot]
  repeat'
    first
    | with_reducible assumption | with_reducible apply State.put_sound | with_reducible apply State.runSlotIs_sound
    | with_reducible refine fst_sound (by assumption) ?_ | simp only [sound_upd, sound_updTil] | (intro _)
    | with_reducible apply sound_ite | split

theorem State.bootRole_sound {s : State} (h : s.Sound) (t role : Nat) : (State.bootRole s t role).Sound := by
  simp only [State.bootRole]
  repeat'
    first
    | with_reducible assumption | with_reducible apply State.loadStore_sound
    | with_reducible apply State.clearTile_sound | with_reducible apply State.put_sound
    | with_reducible apply State.setTile_sound | simp only [tile_ok_mk, context_ok_mk, context_ok_new]
    | with_reducible apply Tile.s_ok | with_reducible apply Tile.w_ok | with_reducible apply State.tile_ok
    | with_reducible apply State.ctx_ok | with_reducible apply Tile.ctx_ok | with_reducible apply Tile.setCtx_ok
    | with_reducible apply Context.wr_ok | with_reducible apply Context.setVec_ok
    | with_reducible apply Context.setAcc_ok | with_reducible apply Context.next_ok
    | with_reducible exact True.intro | with_reducible apply And.intro
    | with_reducible refine fst_sound (by assumption) ?_ | simp only [sound_upd, sound_updTil] | (intro _)
    | with_reducible apply sound_ite | split

theorem State.bootPairs_sound {s : State} (h : s.Sound) : (State.bootPairs s).Sound := by
  simp only [State.bootPairs]
  repeat'
    first
    | with_reducible assumption | with_reducible apply State.bootRole_sound
    | with_reducible refine fst_sound (by assumption) ?_ | with_reducible apply sound_foldl
    | with_reducible apply sound_foldl_fst | simp only [sound_upd, sound_updTil] | (intro _)
    | with_reducible apply sound_ite | split

theorem State.bootMacro_sound {s : State} (h : s.Sound) (p : Nat × Nat) : (State.bootMacro s p).Sound := by
  simp only [State.bootMacro]
  repeat'
    first
    | with_reducible assumption | with_reducible apply State.takeSpare_sound | with_reducible apply State.put_sound
    | with_reducible refine fst_sound (by assumption) ?_ | simp only [sound_upd, sound_updTil] | (intro _)
    | with_reducible apply sound_ite | split

theorem State.bootLanes_sound {s : State} (h : s.Sound) (l : List (Nat × Nat)) : (State.bootLanes s l).Sound := by
  simp only [State.bootLanes]
  repeat'
    first
    | with_reducible assumption | with_reducible apply State.raise_sound
    | with_reducible apply State.bootMacro_sound | with_reducible refine fst_sound (by assumption) ?_
    | with_reducible apply sound_foldl | with_reducible apply sound_foldl_fst | simp only [sound_upd, sound_updTil]
    | (intro _) | with_reducible apply sound_ite | split

theorem State.bootInst_sound {s : State} (h : s.Sound) (i : Nat) : (State.bootInst s i).Sound := by
  simp only [State.bootInst]
  repeat'
    first
    | with_reducible assumption | with_reducible apply State.bootRole_sound | with_reducible apply State.put_sound
    | with_reducible refine fst_sound (by assumption) ?_ | simp only [sound_upd, sound_updTil] | (intro _)
    | with_reducible apply sound_ite | split

theorem State.bootReady_sound {s : State} (h : s.Sound) (b : Boot) (code : Nat) : (State.bootReady s b code).Sound :=
    by
  simp only [State.bootReady]
  repeat'
    first
    | with_reducible assumption | with_reducible apply State.raise_sound | with_reducible apply State.put_sound
    | with_reducible apply State.trainCage_sound | with_reducible refine fst_sound (by assumption) ?_
    | with_reducible apply sound_foldl | with_reducible apply sound_foldl_fst | simp only [sound_upd, sound_updTil]
    | (intro _) | with_reducible apply sound_ite | split

theorem State.startUp_sound {s : State} (h : s.Sound) (b : Boot) (cold : Bool) : (State.startUp s b cold).Sound := by
  have h1 := State.selfTest_sound h b.checkers
  simp only [State.startUp]
  split
  · exact State.bootFail_sound h1 _ _
  split
  · exact State.bootFail_sound h1 _ _
  split
  · exact State.bootFail_sound h1 _ _
  have h2 : (if cold then b.tiles.foldl (fun s p => s.spareTile p) (s.selfTest b.checkers)
      else s.selfTest b.checkers).showSpares.Sound := by
    apply State.showSpares_sound
    split
    · exact sound_foldl (fun s x hs => State.spareTile_sound hs x) h1 _
    · exact h1
  generalize (if cold then b.tiles.foldl (fun s p => s.spareTile p) (s.selfTest b.checkers)
      else s.selfTest b.checkers).showSpares = s2 at h2 ⊢
  split
  · exact State.bootFail_sound h2 _ _
  · rename_i s3 code e
    have h3 : s3.Sound := by
      split at e
      · exact State.spareMemory_sound h2 b e
      · cases e
        exact h2
    have h4 := State.pickSlot_sound h3 b
    generalize s3.pickSlot b = q at h4 ⊢
    obtain ⟨s4, _ | k⟩ := q
    · exact State.bootFail_sound h4 _ _
    · apply State.bootReady_sound
      apply sound_foldl (fun s x hs => State.bootInst_sound hs x)
      apply State.bootLanes_sound
      apply State.bootPairs_sound
      exact State.bootSlot_sound h4 _

theorem State.dropTrial_sound {s : State} (h : s.Sound) : (State.dropTrial s).Sound := by
  simp only [State.dropTrial]
  repeat'
    first
    | with_reducible assumption | with_reducible apply State.put_sound
    | with_reducible refine fst_sound (by assumption) ?_ | simp only [sound_upd, sound_updTil] | (intro _)
    | with_reducible apply sound_ite | split

theorem State.showRevert_sound {s : State} {old : State} (h : s.Sound) (hold : old.Sound) : (State.showRevert s
    old).Sound := by
  simp only [State.showRevert]
  repeat'
    first
    | with_reducible assumption | with_reducible apply State.raiseIf_sound
    | with_reducible refine fst_sound (by assumption) ?_ | simp only [sound_upd, sound_updTil] | (intro _)
    | with_reducible apply sound_ite | split

theorem State.keysAtPower_sound {s : State} (h : s.Sound) (good : Bool) : (State.keysAtPower s good).Sound := by
  simp only [State.keysAtPower]
  repeat'
    first
    | with_reducible assumption | with_reducible apply State.tick_sound | with_reducible apply State.put_sound
    | with_reducible apply State.raiseIf_sound | with_reducible refine fst_sound (by assumption) ?_
    | simp only [sound_upd, sound_updTil] | (intro _) | with_reducible apply sound_ite | split

theorem State.coldState_sound {s : State} (h : s.Sound) : (State.coldState s).Sound := by
  simp only [State.coldState]
  repeat'
    first
    | with_reducible assumption | with_reducible apply State.blank_sound
    | with_reducible apply State.dropTrial_sound | with_reducible refine fst_sound (by assumption) ?_
    | simp only [sound_upd, sound_updTil] | (intro _) | with_reducible apply sound_ite | split

theorem State.coldBoot_sound {s : State} (h : s.Sound) (b : Boot) (last : Nat) : (State.coldBoot s b last).Sound := by
  simp only [State.coldBoot]
  repeat'
    first
    | with_reducible assumption | with_reducible apply State.showRevert_sound
    | with_reducible apply State.startUp_sound | with_reducible apply State.put_sound
    | with_reducible apply State.coldState_sound | with_reducible refine fst_sound (by assumption) ?_
    | simp only [sound_upd, sound_updTil] | (intro _) | with_reducible apply sound_ite | split

theorem State.warmState_sound {s : State} (h : s.Sound) : (State.warmState s).Sound := by
  have h1 := sound_foldl (f := fun s i => s.startReset i ⟨false, false, none⟩)
    (fun s i hs => State.startReset_sound hs i _)
    (s := { s.dropTrial with warp := {}, rings := { s.rings with linkDown := true } })
    ((State.dropTrial_sound h).upd rfl rfl rfl rfl)
  simp only [State.warmState]
  exact ⟨filter_canonical 0 (h1 _).mem _, (h1 _).poison, State.keptCsr_ok (State.foldLater_sound (h1 _)) _, rfl, fun p hp => by cases hp⟩

theorem State.warmBoot_sound {s : State} (h : s.Sound) (b : Boot) : (State.warmBoot s b).Sound := by
  simp only [State.warmBoot]
  repeat'
    first
    | with_reducible assumption | with_reducible apply State.showRevert_sound
    | with_reducible apply State.startUp_sound | with_reducible apply State.put_sound
    | with_reducible apply State.warmState_sound | with_reducible refine fst_sound (by assumption) ?_
    | simp only [sound_upd, sound_updTil] | (intro _) | with_reducible apply sound_ite | split

theorem execPowerOnReset_sound {s : State} (h : s.Sound) (b : Boot) : soundOut (execPowerOnReset b s) := by
  simp only [execPowerOnReset]
  repeat'
    first
    | with_reducible assumption | with_reducible apply State.coldState_sound
    | with_reducible apply State.showRevert_sound | with_reducible apply State.startUp_sound
    | with_reducible apply State.put_sound | with_reducible apply State.keysAtPower_sound
    | with_reducible refine fst_sound (by assumption) ?_ | rw [soundOut_next] | simp only [sound_upd, sound_updTil]
    | (intro _) | with_reducible apply soundOut_ite | with_reducible apply sound_ite | split

theorem execColdReset_sound {s : State} (h : s.Sound) (r : Requester) (val : Nat) (b : Boot) : soundOut (execColdReset
    r val b s) := by
  simp only [execColdReset]
  repeat'
    first
    | with_reducible assumption | with_reducible apply State.coldBoot_sound
    | with_reducible refine fst_sound (by assumption) ?_ | rw [soundOut_next] | simp only [sound_upd, sound_updTil]
    | (intro _) | with_reducible apply soundOut_ite | with_reducible apply sound_ite | split

theorem execWarmReset_sound {s : State} (h : s.Sound) (r : Requester) (val : Nat) (b : Boot) : soundOut (execWarmReset
    r val b s) := by
  simp only [execWarmReset]
  repeat'
    first
    | with_reducible assumption | with_reducible apply State.warmBoot_sound
    | with_reducible refine fst_sound (by assumption) ?_ | rw [soundOut_next] | simp only [sound_upd, sound_updTil]
    | (intro _) | with_reducible apply soundOut_ite | with_reducible apply sound_ite | split

theorem execPllLockLoss_sound {s : State} (h : s.Sound) (b : Boot) : soundOut (execPllLockLoss b s) := by
  simp only [execPllLockLoss]
  repeat'
    first
    | with_reducible assumption | with_reducible apply State.coldBoot_sound
    | with_reducible refine fst_sound (by assumption) ?_ | rw [soundOut_next] | simp only [sound_upd, sound_updTil]
    | (intro _) | with_reducible apply soundOut_ite | with_reducible apply sound_ite | split

theorem execPowerTrip_sound {s : State} (h : s.Sound) (cause value : Nat) : soundOut (execPowerTrip cause value s) :=
    by
  simp only [execPowerTrip]
  repeat'
    first
    | with_reducible assumption | with_reducible apply State.coldState_sound
    | with_reducible apply State.setReg_sound | with_reducible refine fst_sound (by assumption) ?_
    | rw [soundOut_next] | simp only [sound_upd, sound_updTil] | (intro _) | with_reducible apply soundOut_ite
    | with_reducible apply sound_ite | split

theorem State.measured_sound {s : State} (h : s.Sound) (m : Reading) : (State.measured s m).Sound := by
  simp only [State.measured]
  repeat'
    first
    | with_reducible assumption | with_reducible apply State.setReg_sound | with_reducible apply State.bump_sound
    | with_reducible apply State.put_sound | with_reducible refine fst_sound (by assumption) ?_
    | simp only [sound_upd, sound_updTil] | (intro _) | with_reducible apply sound_ite | split

theorem execPowerControlTick_sound {s : State} (h : s.Sound) (m : Reading) : soundOut (execPowerControlTick m s) := by
  simp only [execPowerControlTick]
  repeat'
    first
    | with_reducible assumption | with_reducible apply State.raiseIf_sound | with_reducible apply State.put_sound
    | with_reducible apply State.measured_sound | with_reducible apply State.bump_sound
    | with_reducible refine fst_sound (by assumption) ?_ | rw [soundOut_next] | simp only [sound_upd, sound_updTil]
    | (intro _) | with_reducible apply soundOut_ite | with_reducible apply sound_ite | split

theorem State.paceCfgWrite_sound {s : State} (h : s.Sound) (val : Nat) : (State.paceCfgWrite s val).Sound := by
  simp only [State.paceCfgWrite]
  repeat'
    first
    | with_reducible assumption | with_reducible apply State.raise_sound | with_reducible apply State.setReg_sound
    | with_reducible refine fst_sound (by assumption) ?_ | simp only [sound_upd, sound_updTil] | (intro _)
    | with_reducible apply sound_ite | split

theorem execPaceCfgWrite_sound {s : State} (h : s.Sound) (r : Requester) (val : Nat) : soundOut (execPaceCfgWrite r
    val s) := by
  simp only [execPaceCfgWrite]
  repeat'
    first
    | with_reducible assumption | with_reducible apply State.paceCfgWrite_sound
    | with_reducible refine fst_sound (by assumption) ?_ | rw [soundOut_next] | simp only [sound_upd, sound_updTil]
    | (intro _) | with_reducible apply soundOut_ite | with_reducible apply sound_ite | split

theorem State.paceMapWrite_sound {s : State} (h : s.Sound) (n val lo k : Nat) : (State.paceMapWrite s n val lo
    k).Sound := by
  simp only [State.paceMapWrite]
  repeat'
    first
    | with_reducible assumption | with_reducible apply State.raise_sound | with_reducible apply State.setReg_sound
    | with_reducible refine fst_sound (by assumption) ?_ | with_reducible apply sound_foldl
    | with_reducible apply sound_foldl_fst | simp only [sound_upd, sound_updTil] | (intro _)
    | with_reducible apply sound_ite | split

theorem execPaceMapWrite_sound {s : State} (h : s.Sound) (r : Requester) (n val : Nat) : soundOut (execPaceMapWrite r
    n val s) := by
  simp only [execPaceMapWrite]
  repeat'
    first
    | with_reducible assumption | with_reducible apply State.paceMapWrite_sound
    | with_reducible refine fst_sound (by assumption) ?_ | rw [soundOut_next] | simp only [sound_upd, sound_updTil]
    | (intro _) | with_reducible apply soundOut_ite | with_reducible apply sound_ite | split

theorem execModuleInsert_sound {s : State} (h : s.Sound) (c watts : Nat) (ready : Bool) : soundOut (execModuleInsert c
    watts ready s) := by
  simp only [execModuleInsert]
  repeat'
    first
    | with_reducible assumption | with_reducible apply State.put_sound | with_reducible apply State.trainCage_sound
    | with_reducible refine fst_sound (by assumption) ?_ | rw [soundOut_next] | simp only [sound_upd, sound_updTil]
    | (intro _) | with_reducible apply soundOut_ite | with_reducible apply sound_ite | split

theorem execModuleRemove_sound {s : State} (h : s.Sound) (c : Nat) : soundOut (execModuleRemove c s) := by
  simp only [execModuleRemove]
  repeat'
    first
    | with_reducible assumption | with_reducible apply State.dropLane_sound | with_reducible apply State.put_sound
    | with_reducible refine fst_sound (by assumption) ?_ | with_reducible apply sound_foldl
    | with_reducible apply sound_foldl_fst | rw [soundOut_next] | simp only [sound_upd, sound_updTil] | (intro _)
    | with_reducible apply soundOut_ite | with_reducible apply sound_ite | split

theorem State.smb_sound {s : State} (h : s.Sound) (v : Nat) : soundOut (State.smb s v) := by
  simp only [State.smb]
  repeat'
    first
    | with_reducible assumption | with_reducible refine fst_sound (by assumption) ?_ | rw [soundOut_next]
    | simp only [sound_upd, sound_updTil] | (intro _) | with_reducible apply soundOut_ite
    | with_reducible apply sound_ite | split

theorem execSmbReadVin_sound {s : State} (h : s.Sound) : soundOut (execSmbReadVin s) := by
  simp only [execSmbReadVin]
  repeat'
    first
    | with_reducible assumption | with_reducible apply State.smb_sound
    | with_reducible refine fst_sound (by assumption) ?_ | rw [soundOut_next] | simp only [sound_upd, sound_updTil]
    | (intro _) | with_reducible apply soundOut_ite | with_reducible apply sound_ite | split

theorem execSmbReadPin_sound {s : State} (h : s.Sound) : soundOut (execSmbReadPin s) := by
  simp only [execSmbReadPin]
  repeat'
    first
    | with_reducible assumption | with_reducible apply State.smb_sound
    | with_reducible refine fst_sound (by assumption) ?_ | rw [soundOut_next] | simp only [sound_upd, sound_updTil]
    | (intro _) | with_reducible apply soundOut_ite | with_reducible apply sound_ite | split

theorem execSmbReadDieTemp_sound {s : State} (h : s.Sound) : soundOut (execSmbReadDieTemp s) := by
  simp only [execSmbReadDieTemp]
  repeat'
    first
    | with_reducible assumption | with_reducible apply State.smb_sound
    | with_reducible refine fst_sound (by assumption) ?_ | with_reducible apply sound_foldl
    | with_reducible apply sound_foldl_fst | rw [soundOut_next] | simp only [sound_upd, sound_updTil] | (intro _)
    | with_reducible apply soundOut_ite | with_reducible apply sound_ite | split

theorem execSmbReadMemTemp_sound {s : State} (h : s.Sound) : soundOut (execSmbReadMemTemp s) := by
  simp only [execSmbReadMemTemp]
  repeat'
    first
    | with_reducible assumption | with_reducible apply State.smb_sound
    | with_reducible refine fst_sound (by assumption) ?_ | rw [soundOut_next] | simp only [sound_upd, sound_updTil]
    | (intro _) | with_reducible apply soundOut_ite | with_reducible apply sound_ite | split

theorem execSmbReadBootStatus_sound {s : State} (h : s.Sound) : soundOut (execSmbReadBootStatus s) := by
  simp only [execSmbReadBootStatus]
  repeat'
    first
    | with_reducible assumption | with_reducible apply State.smb_sound
    | with_reducible refine fst_sound (by assumption) ?_ | rw [soundOut_next] | simp only [sound_upd, sound_updTil]
    | (intro _) | with_reducible apply soundOut_ite | with_reducible apply sound_ite | split

theorem execSmbReadLastTrip_sound {s : State} (h : s.Sound) : soundOut (execSmbReadLastTrip s) := by
  simp only [execSmbReadLastTrip]
  repeat'
    first
    | with_reducible assumption | with_reducible apply State.smb_sound
    | with_reducible refine fst_sound (by assumption) ?_ | rw [soundOut_next] | simp only [sound_upd, sound_updTil]
    | (intro _) | with_reducible apply soundOut_ite | with_reducible apply sound_ite | split

theorem execSmbReadSecState_sound {s : State} (h : s.Sound) : soundOut (execSmbReadSecState s) := by
  simp only [execSmbReadSecState]
  repeat'
    first
    | with_reducible assumption | with_reducible apply State.smb_sound
    | with_reducible refine fst_sound (by assumption) ?_ | rw [soundOut_next] | simp only [sound_upd, sound_updTil]
    | (intro _) | with_reducible apply soundOut_ite | with_reducible apply sound_ite | split

theorem execSmbReadIdentity_sound {s : State} (h : s.Sound) : soundOut (execSmbReadIdentity s) := by
  simp only [execSmbReadIdentity]
  repeat'
    first
    | with_reducible assumption | with_reducible apply State.smb_sound
    | with_reducible refine fst_sound (by assumption) ?_ | rw [soundOut_next] | simp only [sound_upd, sound_updTil]
    | (intro _) | with_reducible apply soundOut_ite | with_reducible apply sound_ite | split

theorem execSmbUnknownCommand_sound {s : State} (h : s.Sound) (code : Nat) : soundOut (execSmbUnknownCommand code s)
    := by
  simp only [execSmbUnknownCommand]
  repeat'
    first
    | with_reducible assumption | with_reducible refine fst_sound (by assumption) ?_ | rw [soundOut_next]
    | simp only [sound_upd, sound_updTil] | (intro _) | with_reducible apply soundOut_ite
    | with_reducible apply sound_ite | split

end Sys2Proof.Machine
end

