-- ==== Sys2Proof/Laws/SoundWall.lean ====
section
/-! SUPPORT. The operations of Wall.lean keep a state well kept. -/
namespace Sys2Proof.Machine
set_option linter.unusedTactic false
set_option linter.unreachableTactic false
set_option linter.unusedSimpArgs false
open Sys2Proof

theorem State.lateTile_sound {s : State} (h : s.Sound) (t : Nat) : (State.lateTile s t).Sound := by
  simp only [State.lateTile]
  repeat'
    first
    | with_reducible assumption | with_reducible apply State.late_sound | with_reducible apply State.setTile_sound
    | with_reducible apply State.trace_sound | simp only [tile_ok_mk, context_ok_mk, context_ok_new]
    | with_reducible apply Tile.s_ok | with_reducible apply Tile.w_ok | with_reducible apply State.tile_ok
    | with_reducible apply State.ctx_ok | with_reducible apply Tile.ctx_ok | with_reducible apply Tile.setCtx_ok
    | with_reducible apply Context.wr_ok | with_reducible apply Context.setVec_ok
    | with_reducible apply Context.setAcc_ok | with_reducible apply Context.next_ok
    | with_reducible exact True.intro | with_reducible apply And.intro
    | with_reducible refine fst_sound (by assumption) ?_ | simp only [sound_upd, sound_updTil] | (intro _)
    | with_reducible apply sound_ite | split

theorem State.stopSignal_sound {s : State} (h : s.Sound) (t x2 : Nat) (k : Skein) : (State.stopSignal s t x2 k).Sound
    := by
  simp only [State.stopSignal]
  repeat'
    first
    | with_reducible assumption | with_reducible apply State.countHole_sound
    | with_reducible apply State.cqPut_sound | with_reducible apply State.cqLose_sound
    | with_reducible refine fst_sound (by assumption) ?_ | simp only [sound_upd, sound_updTil] | (intro _)
    | with_reducible apply sound_ite | split

theorem State.stopSkein_sound {s : State} (h : s.Sound) (t x2 : Nat) (k : Skein) : (State.stopSkein s t x2 k).Sound :=
    by
  simp only [State.stopSkein]
  repeat'
    first
    | with_reducible assumption
    | with_reducible apply State.skeinDone_sound
    | with_reducible apply State.stopSignal_sound
    | with_reducible apply State.traceSkein_sound | with_reducible apply State.late_sound
    | with_reducible refine fst_sound (by assumption) ?_ | simp only [sound_upd, sound_updTil] | (intro _)
    | with_reducible apply sound_ite | split

theorem State.clearS_sound {s : State} (h : s.Sound) (t : Nat) : (State.clearS s t).Sound := by
  simp only [State.clearS]
  repeat'
    first
    | with_reducible assumption | with_reducible apply State.stopSkein_sound
    | with_reducible apply State.setTile_sound | simp only [tile_ok_mk, context_ok_mk, context_ok_new]
    | with_reducible apply Tile.s_ok | with_reducible apply Tile.w_ok | with_reducible apply State.tile_ok
    | with_reducible apply State.ctx_ok | with_reducible apply Tile.ctx_ok | with_reducible apply Tile.setCtx_ok
    | with_reducible apply Context.wr_ok | with_reducible apply Context.setVec_ok
    | with_reducible apply Context.setAcc_ok | with_reducible apply Context.next_ok
    | with_reducible exact True.intro | with_reducible apply And.intro
    | with_reducible refine fst_sound (by assumption) ?_ | with_reducible apply sound_foldl
    | with_reducible apply sound_foldl_fst | simp only [sound_upd, sound_updTil] | (intro _)
    | with_reducible apply sound_ite | split

theorem State.suspendW_sound {s : State} (h : s.Sound) (t : Nat) : (State.suspendW s t).Sound := by
  simp only [State.suspendW]
  repeat'
    first
    | with_reducible assumption | with_reducible apply State.setTile_sound
    | simp only [tile_ok_mk, context_ok_mk, context_ok_new] | with_reducible apply Tile.s_ok
    | with_reducible apply Tile.w_ok | with_reducible apply State.tile_ok | with_reducible apply State.ctx_ok
    | with_reducible apply Tile.ctx_ok | with_reducible apply Tile.setCtx_ok | with_reducible apply Context.wr_ok
    | with_reducible apply Context.setVec_ok | with_reducible apply Context.setAcc_ok
    | with_reducible apply Context.next_ok | with_reducible exact True.intro | with_reducible apply And.intro
    | with_reducible refine fst_sound (by assumption) ?_ | simp only [sound_upd, sound_updTil] | (intro _)
    | with_reducible apply sound_ite | split

theorem State.dropTile_sound {s : State} (h : s.Sound) (held act : Bool) (t : Nat) : (State.dropTile s held act
    t).Sound := by
  simp only [State.dropTile]
  repeat'
    first
    | with_reducible assumption | with_reducible apply State.lateTile_sound
    | with_reducible apply State.clearS_sound | with_reducible refine fst_sound (by assumption) ?_
    | simp only [sound_upd, sound_updTil] | (intro _) | with_reducible apply sound_ite | split

theorem State.dropWork_sound {s : State} (h : s.Sound) (act : Bool) : (State.dropWork s act).Sound := by
  simp only [State.dropWork]
  repeat'
    first
    | with_reducible assumption | with_reducible apply State.dropTile_sound
    | with_reducible refine fst_sound (by assumption) ?_ | with_reducible apply sound_foldl
    | with_reducible apply sound_foldl_fst | simp only [sound_upd, sound_updTil] | (intro _)
    | with_reducible apply sound_ite | split

theorem State.clearFlags_sound {s : State} (h : s.Sound) : (State.clearFlags s).Sound := by
  simp only [State.clearFlags]
  repeat'
    first
    | with_reducible assumption | with_reducible refine fst_sound (by assumption) ?_
    | simp only [sound_upd, sound_updTil] | (intro _) | with_reducible apply sound_ite | split

theorem State.retireTrailing_sound {s : State} (h : s.Sound) : (State.retireTrailing s).Sound := by
  simp only [State.retireTrailing]
  repeat'
    first
    | with_reducible assumption | with_reducible apply State.put_sound
    | with_reducible refine fst_sound (by assumption) ?_
    | simp only [fate_retire, fate_jump, fate_trap, fate_trapAfter, fate_ecc, fate_wait]
    | simp only [sound_upd, sound_updTil] | (intro _) | with_reducible apply sound_ite | split

theorem State.swapTo_sound {s : State} (h : s.Sound) (new : Option WarpSet) : (State.swapTo s new).Sound := by
  have key : ∀ (o : Option WarpSet) (s : State) (f : WarpSet → State), s.Sound → (∀ w, (f w).Sound) →
      (o.elim s f).Sound := by
    intro o s f hs hf
    cases o with
    | none => exact hs
    | some w => exact hf w
  simp only [State.swapTo]
  apply State.raise_sound
  repeat with_reducible apply State.put_sound
  simp only [sound_upd]
  have h1 : (s.warp.active.elim s fun w => s.markActive w 0).Sound :=
    key _ _ _ h fun w => State.markActive_sound h w 0
  have h2 := key new _ _ h1 fun w => State.markActive_sound (State.markArmed_sound h1 w 0) w 1
  apply key
  · exact h2
  · intro w
    exact State.startSet_sound h2 w

theorem State.swapWall_sound {s : State} (h : s.Sound) : (State.swapWall s).Sound := by
  simp only [State.swapWall]
  repeat'
    first
    | with_reducible assumption | with_reducible apply State.swapTo_sound | with_reducible apply State.put_sound
    | with_reducible apply State.raise_sound | with_reducible apply State.startSet_sound
    | with_reducible apply State.markArmed_sound | with_reducible refine fst_sound (by assumption) ?_
    | simp only [sound_upd, sound_updTil] | (intro _) | with_reducible apply sound_ite | split

theorem State.altWall_sound {s : State} (h : s.Sound) (old : Nat) : (State.altWall s old).Sound := by
  simp only [State.altWall]
  repeat'
    first
    | with_reducible assumption | with_reducible apply State.raise_sound | with_reducible apply State.put_sound
    | with_reducible refine fst_sound (by assumption) ?_ | simp only [sound_upd, sound_updTil] | (intro _)
    | with_reducible apply sound_ite | split

theorem State.takeLater_sound {s : State} (h : s.Sound) (a v : Nat) : (State.takeLater s a v).Sound := by
  simp only [State.takeLater]
  repeat'
    first
    | with_reducible assumption | with_reducible apply State.portCfgWrite_sound
    | with_reducible apply State.flowControl_sound | with_reducible apply State.setReg_sound
    | with_reducible refine fst_sound (by assumption) ?_ | simp only [sound_upd, sound_updTil] | (intro _)
    | with_reducible apply sound_ite | split

theorem State.applyLater_sound {s : State} (h : s.Sound) : s.applyLater.Sound := by
  have h1 : (s.later.foldl (fun s p => s.takeLater p.1 p.2) s).Sound :=
    sound_foldl (fun s p hs => State.takeLater_sound hs _ _) h _
  exact h1.upd rfl rfl rfl rfl

theorem State.syncRecord_sound {s : State} (h : s.Sound) : (State.syncRecord s).Sound := by
  simp only [State.syncRecord]
  repeat'
    first
    | with_reducible assumption | with_reducible apply State.trace_sound
    | with_reducible refine fst_sound (by assumption) ?_ | simp only [sound_upd, sound_updTil] | (intro _)
    | with_reducible apply sound_ite | split

theorem State.residueClear_sound {s : State} (h : s.Sound) (i : Nat) : (State.residueClear s i).Sound := by
  simp only [State.residueClear]
  repeat'
    first
    | with_reducible assumption | with_reducible apply State.reassign_sound
    | with_reducible apply State.dropAsid_sound | with_reducible apply State.raise_sound
    | with_reducible apply State.put_sound | with_reducible refine fst_sound (by assumption) ?_
    | with_reducible apply sound_foldl | with_reducible apply sound_foldl_fst | simp only [sound_upd, sound_updTil]
    | (intro _) | with_reducible apply sound_ite | split

theorem State.residueWall_sound {s : State} (h : s.Sound) : (State.residueWall s).Sound := by
  simp only [State.residueWall]
  repeat'
    first
    | with_reducible assumption | with_reducible apply State.residueClear_sound
    | with_reducible refine fst_sound (by assumption) ?_ | with_reducible apply sound_foldl
    | with_reducible apply sound_foldl_fst | simp only [sound_upd, sound_updTil] | (intro _)
    | with_reducible apply sound_ite | split

theorem State.haltRelease_sound {s : State} (h : s.Sound) : (State.haltRelease s).Sound := by
  simp only [State.haltRelease]
  repeat'
    first
    | with_reducible assumption | with_reducible apply State.trigIdle_sound
    | with_reducible apply State.raise_sound | with_reducible apply State.setReg_sound
    | with_reducible refine fst_sound (by assumption) ?_ | simp only [sound_upd, sound_updTil] | (intro _)
    | with_reducible apply sound_ite | split

theorem State.waitcWall_sound {s : State} (h : s.Sound) (t : Nat) : (State.waitcWall s t).Sound := by
  simp only [State.waitcWall]
  repeat'
    first
    | with_reducible assumption | with_reducible apply State.finish_sound
    | with_reducible refine fst_sound (by assumption) ?_
    | simp only [fate_retire, fate_jump, fate_trap, fate_trapAfter, fate_ecc, fate_wait]
    | simp only [sound_upd, sound_updTil] | (intro _) | with_reducible apply sound_ite | split

theorem State.startPick_sound {s : State} (h : s.Sound) (t : Nat) : (State.startPick s t).Sound := by
  simp only [State.startPick]
  repeat'
    first
    | with_reducible assumption | with_reducible apply State.put_sound | with_reducible apply State.suspendW_sound
    | with_reducible refine fst_sound (by assumption) ?_ | simp only [sound_upd, sound_updTil] | (intro _)
    | with_reducible apply sound_ite | split

theorem State.tileWall_sound {s : State} (h : s.Sound) : (State.tileWall s).Sound := by
  simp only [State.tileWall]
  repeat'
    first
    | with_reducible assumption | with_reducible apply State.roleWall_sound
    | with_reducible apply State.startPick_sound | with_reducible apply State.waitcWall_sound
    | with_reducible refine fst_sound (by assumption) ?_ | with_reducible apply sound_foldl
    | with_reducible apply sound_foldl_fst | simp only [sound_upd, sound_updTil] | (intro _)
    | with_reducible apply sound_ite | split

theorem State.pickFire_sound {s : State} (h : s.Sound) : (State.pickFire s).Sound := by
  simp only [State.pickFire]
  repeat'
    first
    | with_reducible assumption | with_reducible apply State.fire_sound | with_reducible apply State.haltNow_sound
    | with_reducible refine fst_sound (by assumption) ?_ | simp only [sound_upd, sound_updTil] | (intro _)
    | with_reducible apply sound_ite | split

theorem State.nextPick_sound {s : State} (h : s.Sound) : (State.nextPick s).Sound := by
  simp only [State.nextPick]
  repeat'
    first
    | with_reducible assumption | with_reducible apply State.put_sound
    | with_reducible refine fst_sound (by assumption) ?_ | simp only [sound_upd, sound_updTil] | (intro _)
    | with_reducible apply sound_ite | split

theorem execPickWall_sound {s : State} (h : s.Sound) : soundOut (execPickWall s) := by
  simp only [execPickWall]
  repeat'
    first
    | with_reducible assumption
    | with_reducible apply State.applyLater_sound
    | with_reducible apply State.snapshot_sound
    | with_reducible apply State.clearFlags_sound | with_reducible apply State.nextPick_sound
    | with_reducible apply State.dropWork_sound | with_reducible apply State.elapse_sound
    | with_reducible apply State.haltRelease_sound | with_reducible apply State.domWall_sound
    | with_reducible apply State.altWall_sound | with_reducible apply State.swapWall_sound
    | with_reducible apply State.retireTrailing_sound | with_reducible apply State.spareWall_sound
    | with_reducible apply State.syncRecord_sound | with_reducible apply State.tileWall_sound
    | with_reducible apply State.retrain_sound | with_reducible apply State.pageWall_sound
    | with_reducible apply State.residueWall_sound | with_reducible apply State.pickFire_sound
    | with_reducible refine fst_sound (by assumption) ?_ | rw [soundOut_next]
    | simp only [fate_retire, fate_jump, fate_trap, fate_trapAfter, fate_ecc, fate_wait]
    | simp only [sound_upd, sound_updTil] | (intro _) | with_reducible apply soundOut_ite
    | with_reducible apply sound_ite | split

theorem State.serviceWake_sound {s : State} (h : s.Sound) (t : Nat) (stopped : Bool) : (State.serviceWake s t
    stopped).Sound := by
  simp only [State.serviceWake]
  repeat'
    first
    | with_reducible assumption | with_reducible apply State.streamWake_sound
    | with_reducible apply State.reshardWake_sound | with_reducible apply State.setModel_sound
    | with_reducible apply State.setTile_sound | simp only [tile_ok_mk, context_ok_mk, context_ok_new]
    | with_reducible apply Tile.s_ok | with_reducible apply Tile.w_ok | with_reducible apply State.tile_ok
    | with_reducible apply State.ctx_ok | with_reducible apply Tile.ctx_ok | with_reducible apply Tile.setCtx_ok
    | with_reducible apply Context.wr_ok | with_reducible apply Context.setVec_ok
    | with_reducible apply Context.setAcc_ok | with_reducible apply Context.next_ok
    | with_reducible exact True.intro | with_reducible apply And.intro
    | with_reducible refine fst_sound (by assumption) ?_ | simp only [sound_upd, sound_updTil] | (intro _)
    | with_reducible apply sound_ite | split

theorem execContextSWake_sound {s : State} (h : s.Sound) (t : Nat) (stopped : Bool) : soundOut (execContextSWake t
    stopped s) := by
  simp only [execContextSWake]
  repeat'
    first
    | with_reducible assumption | with_reducible apply State.trace_sound | with_reducible apply State.setTile_sound
    | with_reducible apply State.serviceWake_sound | simp only [tile_ok_mk, context_ok_mk, context_ok_new]
    | with_reducible apply Tile.s_ok | with_reducible apply Tile.w_ok | with_reducible apply State.tile_ok
    | with_reducible apply State.ctx_ok | with_reducible apply Tile.ctx_ok | with_reducible apply Tile.setCtx_ok
    | with_reducible apply Context.wr_ok | with_reducible apply Context.setVec_ok
    | with_reducible apply Context.setAcc_ok | with_reducible apply Context.next_ok
    | with_reducible exact True.intro | with_reducible apply And.intro
    | with_reducible refine fst_sound (by assumption) ?_ | rw [soundOut_next] | simp only [sound_upd, sound_updTil]
    | (intro _) | with_reducible apply soundOut_ite | with_reducible apply sound_ite | split

end Sys2Proof.Machine
end

