-- ==== Sys2Proof/Laws/SoundRegWrite.lean ====
section
/-! SUPPORT. The operations of RegWrite.lean keep a state well kept. -/
namespace Sys2Proof.Machine
set_option linter.unusedTactic false
set_option linter.unreachableTactic false
set_option linter.unusedSimpArgs false
open Sys2Proof

/-- A write that acts by a rule of its own, where it does, ends well kept. -/
structure optSound (o : Option State) : Prop where
  some : ∀ t, o = some t → t.Sound

theorem optSound_none : optSound none := ⟨fun _ e => by cases e⟩

theorem optSound_some {s : State} (h : s.Sound) : optSound (some s) := ⟨fun t e => by cases e; exact h⟩

theorem optSound_ite {c : Prop} [Decidable c] {o p : Option State} (ho : optSound o) (hp : optSound p) :
    optSound (if c then o else p) := by
  split <;> assumption

theorem optSound_or {o p : Option State} (ho : optSound o) (hp : optSound p) : optSound (o.or p) := by
  cases o with
  | none => exact hp
  | some t => exact ho

theorem State.after_sound {s : State} (h : s.Sound) {o : Host.Outcome State Fault Refusal} (ho : soundOut o) :
    (s.after o).Sound := by
  cases o with
  | next t => exact ho.next t rfl
  | fault _ => exact h
  | refused _ => exact h

theorem State.warpCtrl_sound {s : State} (h : s.Sound) (r : Requester) (v : Nat) : (State.warpCtrl s r v).Sound := by
  simp only [State.warpCtrl]
  repeat'
    first
    | with_reducible assumption | with_reducible apply State.after_sound | with_reducible apply execWarpLoad_sound
    | with_reducible apply execWarpArm_sound | with_reducible apply execWarpDisarm_sound
    | with_reducible apply execWarpClear_sound | with_reducible apply execWarpArmEmpty_sound
    | with_reducible refine fst_sound (by assumption) ?_ | simp only [sound_upd, sound_updTil] | (intro _)
    | with_reducible apply sound_ite | split

theorem State.memCmdWrite_sound {s : State} (h : s.Sound) (v : Nat) : (State.memCmdWrite s v).Sound := by
  simp only [State.memCmdWrite]
  repeat'
    first
    | with_reducible assumption | with_reducible apply State.after_sound
    | with_reducible apply execMemMarkNearDie_sound | with_reducible apply execMemMarkFarDevice_sound
    | with_reducible apply execMemResaltRegion_sound | with_reducible apply State.memCmd_sound
    | with_reducible refine fst_sound (by assumption) ?_ | simp only [sound_upd, sound_updTil] | (intro _)
    | with_reducible apply sound_ite | split

theorem State.trigCmd_sound {s : State} (h : s.Sound) (v : Nat) : (State.trigCmd s v).Sound := by
  simp only [State.trigCmd]
  repeat'
    first
    | with_reducible assumption | with_reducible apply State.trigFire_sound | with_reducible apply State.thaw_sound
    | with_reducible apply State.trigResume_sound | with_reducible refine fst_sound (by assumption) ?_
    | simp only [sound_upd, sound_updTil] | (intro _) | with_reducible apply sound_ite | split

theorem State.cqCfgWrite_sound {s : State} (h : s.Sound) (q v : Nat) : (State.cqCfgWrite s q v).Sound := by
  simp only [State.cqCfgWrite]
  repeat'
    first
    | with_reducible assumption | with_reducible apply State.disableCq_sound | with_reducible apply State.put_sound
    | with_reducible apply State.enableCq_sound | with_reducible refine fst_sound (by assumption) ?_
    | simp only [sound_upd, sound_updTil] | (intro _) | with_reducible apply sound_ite | split

theorem State.mbxTxCtrl_sound {s : State} (h : s.Sound) (r : Requester) (i v : Nat) : (State.mbxTxCtrl s r i v).Sound
    := by
  simp only [State.mbxTxCtrl]
  repeat'
    first
    | with_reducible assumption | with_reducible apply State.after_sound | with_reducible apply execMbxSend_sound
    | with_reducible apply execMbxWithdraw_sound | with_reducible refine fst_sound (by assumption) ?_
    | simp only [sound_upd, sound_updTil] | (intro _) | with_reducible apply sound_ite | split

theorem State.setLater_sound {s : State} (h : s.Sound) (a v : Nat) : (s.setLater a v).Sound := h.upd rfl rfl rfl rfl

theorem State.devWrite_sound {s : State} (h : s.Sound) (r : Requester) (a v rw : Nat) :
    optSound (s.devWrite r a v rw) := by
  simp only [State.devWrite]
  repeat'
    first
    | with_reducible assumption
    | with_reducible apply State.setLater_sound
    | with_reducible exact optSound_none | with_reducible refine optSound_some ?_
    | with_reducible apply optSound_ite | with_reducible apply State.setReg_sound
    | with_reducible apply State.after_sound | with_reducible apply execPickTodSet_sound
    | with_reducible apply State.warpCtrl_sound | with_reducible apply execTileSpareCmd_sound
    | with_reducible apply State.memCmdWrite_sound | with_reducible apply execLaneShiftCmd_sound
    | with_reducible apply State.instCmdWrite_sound | with_reducible apply State.keyCmdWrite_sound
    | with_reducible apply State.provCmdWrite_sound | with_reducible apply execDebugUnlock_sound
    | with_reducible apply execSecTamperClear_sound | with_reducible apply State.fwCmdWrite_sound
    | with_reducible apply State.paceCfgWrite_sound | with_reducible apply State.trigCfgWrite_sound
    | with_reducible apply State.trigCmd_sound | with_reducible apply execTraceMark_sound
    | with_reducible apply execScanStart_sound | with_reducible apply sound_ite | split

theorem State.arrayWrite_sound {s : State} (h : s.Sound) (r : Requester) (a v rw lo w : Nat) :
    optSound (s.arrayWrite r a v rw lo w) := by
  simp only [State.arrayWrite]
  repeat'
    first
    | with_reducible assumption | with_reducible exact optSound_none | with_reducible refine optSound_some ?_
    | with_reducible apply optSound_ite | with_reducible apply State.after_sound
    | with_reducible apply execTileCtrlAssign_sound | with_reducible apply State.setReg_sound
    | with_reducible apply State.cqCfgWrite_sound | with_reducible apply execXltFrConsWrite_sound
    | with_reducible apply execXltFrEnableWrite_sound | with_reducible apply execPinchHostPost_sound
    | with_reducible apply State.cageWrite_sound | with_reducible apply State.portCfgWrite_sound
    | with_reducible apply State.flowControl_sound | with_reducible apply State.paceMapWrite_sound
    | with_reducible apply State.mbxTxCtrl_sound | with_reducible apply execMbxTake_sound
    | with_reducible apply execMbxAck_sound | with_reducible apply sound_ite | split

theorem State.instWrite_sound {s : State} (h : s.Sound) (r : Requester) (a v rw : Nat) :
    optSound (s.instWrite r a v rw) := by
  simp only [State.instWrite]
  repeat'
    first
    | with_reducible assumption | with_reducible exact optSound_none | with_reducible refine optSound_some ?_
    | with_reducible apply optSound_ite | with_reducible apply State.after_sound
    | with_reducible apply execDoorbellWrite_sound | with_reducible apply execHeartbeatWrite_sound
    | with_reducible apply State.setReg_sound | with_reducible apply State.adminCfgWrite_sound
    | with_reducible apply State.d640Write_sound | with_reducible apply State.mbxTxCtrl_sound
    | with_reducible apply execMbxTake_sound | with_reducible apply execMbxAck_sound
    | with_reducible apply sound_ite | split

theorem State.regWrite_sound {s : State} (h : s.Sound) (r : Requester) (d : RegDef) (a lo w val : Nat) :
    (State.regWrite s r d a lo w val).Sound := by
  have key : ∀ (o : Option State) (x : State), optSound o → x.Sound →
      (match o with | some t => t | none => x).Sound := by
    intro o x ho hx
    cases o with
    | none => exact hx
    | some t => exact ho.some t rfl
  simp only [State.regWrite]
  apply key
  · exact optSound_or (State.devWrite_sound h ..) (optSound_or (State.arrayWrite_sound h ..) (State.instWrite_sound h ..))
  · split
    · exact State.setLater_sound h _ _
    · exact State.setReg_sound h _ _

theorem State.writeAt_sound {s : State} (h : s.Sound) (r : Requester) (a w val : Nat) : (State.writeAt s r a w
    val).Sound := by
  simp only [State.writeAt]
  repeat'
    first
    | with_reducible assumption | with_reducible apply State.regWrite_sound
    | with_reducible refine fst_sound (by assumption) ?_ | simp only [sound_upd, sound_updTil] | (intro _)
    | with_reducible apply sound_ite | split

theorem execRegisterWrite_sound {s : State} (h : s.Sound) (r : Requester) (addr width val : Nat) : soundOut
    (execRegisterWrite r addr width val s) := by
  simp only [execRegisterWrite]
  repeat'
    first
    | with_reducible assumption | with_reducible apply State.writeAt_sound
    | with_reducible refine fst_sound (by assumption) ?_ | rw [soundOut_next] | simp only [sound_upd, sound_updTil]
    | (intro _) | with_reducible apply soundOut_ite | with_reducible apply sound_ite | split

theorem State.clearRc_sound {s : State} (h : s.Sound) (a : Nat) (again : Bool) (f : FldDef) : (State.clearRc s a again
    f).Sound := by
  simp only [State.clearRc]
  repeat'
    first
    | with_reducible assumption | with_reducible apply State.setQueue_sound | with_reducible apply State.put_sound
    | with_reducible refine fst_sound (by assumption) ?_ | simp only [sound_upd, sound_updTil] | (intro _)
    | with_reducible apply sound_ite | split

theorem State.readEffects_sound {s : State} (h : s.Sound) (a : Nat) : (State.readEffects s a).Sound := by
  simp only [State.readEffects]
  repeat'
    first
    | with_reducible assumption | with_reducible apply State.put_sound
    | with_reducible refine fst_sound (by assumption) ?_ | simp only [sound_upd, sound_updTil] | (intro _)
    | with_reducible apply sound_ite | split

theorem State.readAt_sound {s : State} (h : s.Sound) (r : Requester) (a w : Nat) (again : Bool) : (State.readAt s r a
    w again).1.Sound := by
  simp only [State.readAt]
  repeat'
    first
    | with_reducible assumption | with_reducible apply State.clearRc_sound
    | with_reducible apply State.readEffects_sound | with_reducible refine fst_sound (by assumption) ?_
    | with_reducible apply sound_foldl | with_reducible apply sound_foldl_fst | simp only [sound_upd, sound_updTil]
    | (intro _) | with_reducible apply sound_ite | split

theorem execRcCounterRead_sound {s : State} (h : s.Sound) (r : Requester) (addr width : Nat) (again : Bool) : soundOut
    (execRcCounterRead r addr width again s) := by
  simp only [execRcCounterRead]
  repeat'
    first
    | with_reducible assumption | with_reducible apply State.readAt_sound
    | with_reducible refine fst_sound (by assumption) ?_ | rw [soundOut_next] | simp only [sound_upd, sound_updTil]
    | (intro _) | with_reducible apply soundOut_ite | with_reducible apply sound_ite | split

theorem rgldBody_sound {s : State} (h : s.Sound) (i : Issue) (rd rs1 : SReg) (width fn : Nat) : (rgldBody i rd rs1
    width fn s).sound := by
  simp only [rgldBody]
  repeat'
    first
    | with_reducible assumption | with_reducible apply State.readAt_sound | with_reducible apply State.ws_sound
    | with_reducible refine fst_sound (by assumption) ?_
    | simp only [fate_retire, fate_jump, fate_trap, fate_trapAfter, fate_ecc, fate_wait]
    | simp only [sound_upd, sound_updTil] | (intro _) | with_reducible apply fate_ite
    | with_reducible apply sound_ite | split

theorem rgstBody_sound {s : State} (h : s.Sound) (i : Issue) (rs1 rs2 : SReg) (width fn : Nat) : (rgstBody i rs1 rs2
    width fn s).sound := by
  simp only [rgstBody]
  repeat'
    first
    | with_reducible assumption | with_reducible apply State.writeAt_sound
    | with_reducible refine fst_sound (by assumption) ?_
    | simp only [fate_retire, fate_jump, fate_trap, fate_trapAfter, fate_ecc, fate_wait]
    | simp only [sound_upd, sound_updTil] | (intro _) | with_reducible apply fate_ite
    | with_reducible apply sound_ite | split

theorem execRgld32_sound {s : State} (h : s.Sound) (i : Issue) (rd rs1 : SReg) : soundOut (execRgld32 i rd rs1 s) :=
    by
  simp only [execRgld32]
  repeat'
    first
    | with_reducible assumption | with_reducible apply State.issue_sound | with_reducible apply rgldBody_sound
    | with_reducible refine fst_sound (by assumption) ?_ | rw [soundOut_next]
    | simp only [fate_retire, fate_jump, fate_trap, fate_trapAfter, fate_ecc, fate_wait]
    | simp only [sound_upd, sound_updTil] | (intro _) | with_reducible apply soundOut_ite
    | with_reducible apply sound_ite | split

theorem execRgld64_sound {s : State} (h : s.Sound) (i : Issue) (rd rs1 : SReg) : soundOut (execRgld64 i rd rs1 s) :=
    by
  simp only [execRgld64]
  repeat'
    first
    | with_reducible assumption | with_reducible apply State.issue_sound | with_reducible apply rgldBody_sound
    | with_reducible refine fst_sound (by assumption) ?_ | rw [soundOut_next]
    | simp only [fate_retire, fate_jump, fate_trap, fate_trapAfter, fate_ecc, fate_wait]
    | simp only [sound_upd, sound_updTil] | (intro _) | with_reducible apply soundOut_ite
    | with_reducible apply sound_ite | split

theorem execRgst32_sound {s : State} (h : s.Sound) (i : Issue) (rs1 rs2 : SReg) : soundOut (execRgst32 i rs1 rs2 s) :=
    by
  simp only [execRgst32]
  repeat'
    first
    | with_reducible assumption | with_reducible apply State.issue_sound | with_reducible apply rgstBody_sound
    | with_reducible refine fst_sound (by assumption) ?_ | rw [soundOut_next]
    | simp only [fate_retire, fate_jump, fate_trap, fate_trapAfter, fate_ecc, fate_wait]
    | simp only [sound_upd, sound_updTil] | (intro _) | with_reducible apply soundOut_ite
    | with_reducible apply sound_ite | split

theorem execRgst64_sound {s : State} (h : s.Sound) (i : Issue) (rs1 rs2 : SReg) : soundOut (execRgst64 i rs1 rs2 s) :=
    by
  simp only [execRgst64]
  repeat'
    first
    | with_reducible assumption | with_reducible apply State.issue_sound | with_reducible apply rgstBody_sound
    | with_reducible refine fst_sound (by assumption) ?_ | rw [soundOut_next]
    | simp only [fate_retire, fate_jump, fate_trap, fate_trapAfter, fate_ecc, fate_wait]
    | simp only [sound_upd, sound_updTil] | (intro _) | with_reducible apply soundOut_ite
    | with_reducible apply sound_ite | split

end Sys2Proof.Machine
end

