-- ==== Sys2Proof/Laws/Tile.lean ====
section
/-! SUPPORT. What the shared operations of a tile do: a register written, an instruction retired, a message sent, an
exception taken. -/
namespace Sys2Proof.Machine
open Sys2Proof

theorem Context.ok_sorted {k : Context} (h : k.ok = true) : sortedKeys k.s = true := by
  simp only [Context.ok, Bool.and_eq_true] at h
  exact ((canonical_iff _ _).1 h.1.1.1.1).1

/-- A scalar register after a write: s0 reads 0, the written one its value, any other one its old value (R139). -/
theorem Context.rd_wr {k : Context} (h : k.ok = true) (rd r : SReg) (v : Word) :
    (k.wr rd v).rd r = if r = 0 then 0 else if r = rd then v else k.rd r := by
  unfold Context.wr Context.rd
  by_cases hr : r = 0
  · simp [hr]
  · simp only [hr, if_false]
    by_cases hd : rd = 0
    · simp only [hd, if_true, hr, if_false]
    · simp only [hd, if_false]
      rw [mget_mset 0 (Context.ok_sorted h)]
      by_cases e : r = rd
      · simp [e]
      · rw [if_neg e, if_neg fun h2 => e (BitVec.eq_of_toNat_eq h2)]

theorem Context.wr_eq (k : Context) (rd : SReg) (v : Word) : k.wr rd v = { k with s := (k.wr rd v).s } := by
  unfold Context.wr
  split <;> rfl

/-- The contexts after an update of the issuing one. -/
theorem State.ctx_upd {s : State} (h : s.Sound) (i : Issue) (f : Context → Context) (u : Nat) (c : Ctx) :
    (s.upd i f).ctx u c = if u = i.tile ∧ c = i.ctx then f (s.ctx i.tile i.ctx) else s.ctx u c := by
  simp only [State.upd, State.ctx_setCtx h]

theorem State.upd_eq (s : State) (i : Issue) (f : Context → Context) :
    s.upd i f = { s with til := { s.til with tiles := (s.upd i f).til.tiles } } := rfl

/-- An instruction below the top of the instruction store moves on to the next one. -/
theorem State.advance_eq {s : State} {i : Issue} (h : s.pcOf i ≠ 0x7FFC) :
    s.advance i = s.upd i (·.next (s.pcOf i + 4)) := by
  simp only [State.pcOf] at h
  unfold State.advance
  simp only [h, decide_false, Bool.false_and, Bool.false_eq_true, if_false]

/-! ### Messages -/

/-- Device memory, every context and the count of unhandled exceptions are the same in `t` as in `s`. -/
structure State.keeps (s t : State) : Prop where
  mem : t.mem = s.mem
  ctx : ∀ n x, t.ctx n x = s.ctx n x
  unhandled : ∀ n, (t.tile n).unhandled = (s.tile n).unhandled

theorem State.keeps.trans {s t u : State} (h : s.keeps t) (k : t.keeps u) : s.keeps u :=
  ⟨k.mem.trans h.mem, fun n x => (k.ctx n x).trans (h.ctx n x), fun n => (k.unhandled n).trans (h.unhandled n)⟩

theorem State.keeps_of_til {s t : State} (h1 : t.mem = s.mem) (h2 : t.til.tiles = s.til.tiles) : s.keeps t := by
  have h3 : ∀ n, t.tile n = s.tile n := fun n => by simp only [State.tile, h2]
  exact ⟨h1, fun n x => by simp only [State.ctx, h3], fun n => by rw [h3]⟩

theorem State.setReg_keeps (s : State) (a v : Nat) : s.keeps (s.setReg a v) := State.keeps_of_til rfl rfl
theorem State.put_keeps (s : State) (f : RegFld) (v : Nat) : s.keeps (s.put f v) := State.setReg_keeps s _ _
theorem State.bump_keeps (s : State) (f : RegFld) : s.keeps (s.bump f) := State.put_keeps s _ _
theorem State.raise_keeps (s : State) (f : RegFld) : s.keeps (s.raise f) := State.put_keeps s _ _
theorem State.launch_keeps (s : State) (a b c : Nat) (y : Bool) (r : List Byte) (m : Msg) (g : Bool) :
    s.keeps (s.launch a b c y r m g) :=
  State.keeps_of_til rfl rfl

/-- A tile whose contexts and count of unhandled exceptions stay. -/
theorem State.setTile_keeps {s : State} (h : s.Sound) (n : Nat) {y : Tile} (hs : y.s = (s.tile n).s) (hw : y.w = (s.tile n).w)
    (hu : y.unhandled = (s.tile n).unhandled) : s.keeps (s.setTile n y) := by
  refine ⟨rfl, fun m x => ?_, fun m => ?_⟩
  · rw [State.ctx_setTile h]
    split
    · subst_vars
      cases x
      · exact hs
      · exact hw
    · rfl
  · rw [State.tile_setTile h]
    split
    · subst_vars
      exact hu
    · rfl

theorem State.rmqWait_keeps (s : State) (t : Nat) : s.keeps (s.rmqWait t) := (s.bump_keeps _).trans (State.raise_keeps _ _)

theorem State.pushReturned_keeps {s : State} (h : s.Sound) (t : Nat) (e : List Byte) : s.keeps (s.pushReturned t e) := by
  refine State.keeps.trans ?_ (State.raise_keeps _ _)
  exact State.setTile_keeps h t rfl rfl rfl

/-- Returning a message keeps device memory, every context and the count of unhandled exceptions. -/
theorem State.returnMsg_keeps {s : State} (h : s.Sound) (t st re ro ep : Nat) (yx : Bool) (m : Msg) :
    s.keeps (s.returnMsg t st re ro ep yx m) := by
  unfold State.returnMsg
  refine (s.bump_keeps (TILE_MSG_RETURNED_VAL t)).trans ?_
  have hb : (s.bump (TILE_MSG_RETURNED_VAL t)).Sound := State.setReg_sound h _ _
  generalize s.bump (TILE_MSG_RETURNED_VAL t) = s1 at hb ⊢
  simp only []
  split
  · split
    · exact State.pushReturned_keeps hb _ _
    · exact (State.launch_keeps _ _ _ _ _ _ _ _).trans (State.rmqWait_keeps _ _)
  · split
    · exact State.launch_keeps _ _ _ _ _ _ _ _
    · exact (State.bump_keeps _ _).trans (State.raise_keeps _ _)

/-- So does sending one. -/
theorem State.sendMsg_keeps {s : State} (h : s.Sound) (m : Msg) : s.keeps (s.sendMsg m) := by
  unfold State.sendMsg
  refine (s.bump_keeps (TILE_MSG_SENT_VAL m.src)).trans ?_
  have hb : (s.bump (TILE_MSG_SENT_VAL m.src)).Sound := State.setReg_sound h _ _
  generalize s.bump (TILE_MSG_SENT_VAL m.src) = s1 at hb ⊢
  simp only []
  split
  · exact State.launch_keeps _ _ _ _ _ _ _ _
  · exact (State.returnMsg_keeps hb _ _ _ _ _ _ _).trans (State.raise_keeps _ _)

/-- And a fault notice. -/
theorem State.notice_keeps {s : State} (h : s.Sound) (t : Nat) (c : Ctx) : s.keeps (s.notice t c) := by
  unfold State.notice
  simp only []
  split
  · exact State.setTile_keeps h t rfl rfl rfl
  · refine State.keeps.trans ?_ (State.sendMsg_keeps ?_ _)
    · exact State.setTile_keeps h t rfl rfl rfl
    · apply State.setTile_sound h
      have := State.tile_ok h t
      simpa only [Tile.ok] using this

end Sys2Proof.Machine
end

