-- ==== Sys2Proof/WellFormed.lean ====
section
/-! DEFINITION. Which commands are well formed: every number in the range that the spec gives it (tiles, instances, lanes,
cages, ports, queues, memory channels, queue pairs and the like). -/
namespace Sys2Proof

/-- The operands of a command lie in the ranges of the spec (01_architecture.md R33 to R50, 15_instances_mailboxes.md
Table 15.1 and the tables of the block that the command acts on). -/
def Instr.wf (c : Instr) : Bool :=
  match c with
  | .registerWrite _ _ _ _ => true
  | .rcCounterRead _ _ _ _ => true
  | .pickTodSecRead => true
  | .pickTodSet _ sec => sec < 2 ^ 48
  | .pickWall => true
  | .contextSWake tile _ => tile < 4096
  | .cellSample g slot k _ => g < 12 && slot < 2 ^ 16 && k < 7
  | .scheduledCellSend g slot => g < 12 && slot < 2 ^ 16
  | .syncSymbolSend => true
  | .syncSymbolReceive g _ _ _ _ => g < 12
  | .listenAcquire => true
  | .acquireExchangeComplete _ _ _ _ => true
  | .frequencyEstimateDone _ => true
  | .lockAcquired => true
  | .parentLoss => true
  | .successorTakeover => true
  | .holdoverLimitExpiry => true
  | .ppsEdge => true
  | .referenceLoss => true
  | .referenceReturn => true
  | .ptpMessageReceive _ => true
  | .cellReceive g _ slot _ => g < 12 && slot < 2 ^ 16
  | .streamDeadline g desc _ => g < 12 && desc < 16384
  | .warpLoad _ => true
  | .warpLoadComplete _ => true
  | .warpArm _ => true
  | .warpDisarm _ => true
  | .warpClear _ => true
  | .warpArmEmpty _ => true
  | .messageAccept _ => true
  | .meshHop _ _ => true
  | .returnedMessageArrive _ => true
  | .tileCtrlAssign _ tile => tile < 4096
  | .roleChangeDrained tile => tile < 4096
  | .tileLoadDone tile => tile < 4096
  | .tileSpareCmd _ _ => true
  | .tileFaultDetect tile _ => tile < 4096
  | .tileWatchdogExpiry tile => tile < 4096
  | .tileRestoreComplete tile => tile < 4096
  | .mirrorError tile => tile < 4096
  | .mirrorRecopyComplete tile => tile < 4096
  | .managerPartnerReady die => die < 4
  | .add i _ _ _ => i.tile < 4096
  | .sub i _ _ _ => i.tile < 4096
  | .and i _ _ _ => i.tile < 4096
  | .or i _ _ _ => i.tile < 4096
  | .xor i _ _ _ => i.tile < 4096
  | .sll i _ _ _ => i.tile < 4096
  | .srl i _ _ _ => i.tile < 4096
  | .sra i _ _ _ => i.tile < 4096
  | .slt i _ _ _ => i.tile < 4096
  | .sltu i _ _ _ => i.tile < 4096
  | .min i _ _ _ => i.tile < 4096
  | .max i _ _ _ => i.tile < 4096
  | .minu i _ _ _ => i.tile < 4096
  | .maxu i _ _ _ => i.tile < 4096
  | .mul i _ _ _ => i.tile < 4096
  | .mulh i _ _ _ => i.tile < 4096
  | .mulhu i _ _ _ => i.tile < 4096
  | .mulhsu i _ _ _ => i.tile < 4096
  | .div i _ _ _ => i.tile < 4096
  | .divu i _ _ _ => i.tile < 4096
  | .rem i _ _ _ => i.tile < 4096
  | .remu i _ _ _ => i.tile < 4096
  | .clz i _ _ => i.tile < 4096
  | .ctz i _ _ => i.tile < 4096
  | .popc i _ _ => i.tile < 4096
  | .addw i _ _ _ => i.tile < 4096
  | .subw i _ _ _ => i.tile < 4096
  | .sllw i _ _ _ => i.tile < 4096
  | .srlw i _ _ _ => i.tile < 4096
  | .sraw i _ _ _ => i.tile < 4096
  | .mulw i _ _ _ => i.tile < 4096
  | .divw i _ _ _ => i.tile < 4096
  | .divuw i _ _ _ => i.tile < 4096
  | .remw i _ _ _ => i.tile < 4096
  | .remuw i _ _ _ => i.tile < 4096
  | .addi i _ _ _ => i.tile < 4096
  | .andi i _ _ _ => i.tile < 4096
  | .ori i _ _ _ => i.tile < 4096
  | .xori i _ _ _ => i.tile < 4096
  | .slti i _ _ _ => i.tile < 4096
  | .sltiu i _ _ _ => i.tile < 4096
  | .slli i _ _ _ => i.tile < 4096
  | .srli i _ _ _ => i.tile < 4096
  | .srai i _ _ _ => i.tile < 4096
  | .lui i _ _ => i.tile < 4096
  | .addiw i _ _ _ => i.tile < 4096
  | .lb i _ _ _ => i.tile < 4096
  | .lbu i _ _ _ => i.tile < 4096
  | .lh i _ _ _ => i.tile < 4096
  | .lhu i _ _ _ => i.tile < 4096
  | .lw i _ _ _ => i.tile < 4096
  | .lwu i _ _ _ => i.tile < 4096
  | .ld i _ _ _ => i.tile < 4096
  | .sb i _ _ _ => i.tile < 4096
  | .sh i _ _ _ => i.tile < 4096
  | .sw i _ _ _ => i.tile < 4096
  | .sd i _ _ _ => i.tile < 4096
  | .beq i _ _ _ => i.tile < 4096
  | .bne i _ _ _ => i.tile < 4096
  | .blt i _ _ _ => i.tile < 4096
  | .bge i _ _ _ => i.tile < 4096
  | .bltu i _ _ _ => i.tile < 4096
  | .bgeu i _ _ _ => i.tile < 4096
  | .jal i _ _ => i.tile < 4096
  | .jalr i _ _ _ => i.tile < 4096
  | .msend i _ _ _ _ _ => i.tile < 4096
  | .msendBufferAccept i => i.tile < 4096
  | .mrecv i _ _ _ _ => i.tile < 4096
  | .mrecvWaitTake i => i.tile < 4096
  | .mret i _ _ _ => i.tile < 4096
  | .mretWaitTake i => i.tile < 4096
  | .skiss i _ _ => i.tile < 4096
  | .skissHandleWait i => i.tile < 4096
  | .skwait i _ _ => i.tile < 4096
  | .skwaitComplete i => i.tile < 4096
  | .skstat i _ _ => i.tile < 4096
  | .chtake i _ _ _ => i.tile < 4096
  | .chtakew i _ _ _ => i.tile < 4096
  | .chtakewWaitTake i => i.tile < 4096
  | .cvfb i _ => i.tile < 4096
  | .cvfh i _ => i.tile < 4096
  | .cvfw i _ => i.tile < 4096
  | .cvrst i => i.tile < 4096
  | .cvrd i _ => i.tile < 4096
  | .cvwr i _ => i.tile < 4096
  | .cvfin i _ => i.tile < 4096
  | .cvcmp i _ _ => i.tile < 4096
  | .cvset i _ _ => i.tile < 4096
  | .yield i => i.tile < 4096
  | .waitc i _ => i.tile < 4096
  | .waitcRetire i => i.tile < 4096
  | .rdyset i _ => i.tile < 4096
  | .rdytst i _ _ => i.tile < 4096
  | .mfs i _ _ => i.tile < 4096
  | .mts i _ _ => i.tile < 4096
  | .eret i => i.tile < 4096
  | .trap i _ => i.tile < 4096
  | .rgld32 i _ _ => i.tile < 4096
  | .rgld64 i _ _ => i.tile < 4096
  | .rgst32 i _ _ => i.tile < 4096
  | .rgst64 i _ _ => i.tile < 4096
  | .vld i _ _ _ => i.tile < 4096
  | .vst i _ _ _ => i.tile < 4096
  | .ald i _ _ _ => i.tile < 4096
  | .ast i _ _ _ => i.tile < 4096
  | .xst i _ _ => i.tile < 4096
  | .xldi i _ _ => i.tile < 4096
  | .xmrg i _ _ => i.tile < 4096
  | .vadd i _ _ _ _ => i.tile < 4096
  | .vsub i _ _ _ _ => i.tile < 4096
  | .vmul i _ _ _ _ => i.tile < 4096
  | .vfma i _ _ _ _ => i.tile < 4096
  | .vmin i _ _ _ _ => i.tile < 4096
  | .vmax i _ _ _ _ => i.tile < 4096
  | .vabs i _ _ _ => i.tile < 4096
  | .vneg i _ _ _ => i.tile < 4096
  | .vand i _ _ _ => i.tile < 4096
  | .vor i _ _ _ => i.tile < 4096
  | .vxor i _ _ _ => i.tile < 4096
  | .vmov i _ _ => i.tile < 4096
  | .vdot i _ _ _ _ _ _ => i.tile < 4096
  | .vcvt i _ _ _ _ _ => i.tile < 4096
  | .vqnt i _ _ _ _ _ => i.tile < 4096
  | .vdq i _ _ _ _ _ => i.tile < 4096
  | .xclr i => i.tile < 4096
  | .xaddv i _ _ => i.tile < 4096
  | .xadda i _ => i.tile < 4096
  | .xadds i _ _ => i.tile < 4096
  | .xrd i _ _ => i.tile < 4096
  | .scoreb i _ _ _ _ => i.tile < 4096
  | .tkclr i _ _ => i.tile < 4096
  | .tkins i _ _ _ => i.tile < 4096
  | .tkout i _ _ _ => i.tile < 4096
  | .tkcnt i _ => i.tile < 4096
  | .demote i _ _ _ => i.tile < 4096
  | .promote i _ _ _ => i.tile < 4096
  | .vmfsr i _ => i.tile < 4096
  | .vmtsr i _ => i.tile < 4096
  | .vbcast i _ _ _ => i.tile < 4096
  | .vext i _ _ _ _ => i.tile < 4096
  | .afromv i _ _ => i.tile < 4096
  | .atov i _ _ => i.tile < 4096
  | .azero i _ => i.tile < 4096
  | .longInstructionStart i => i.tile < 4096
  | .reservedEncodingIssue i _ => i.tile < 4096
  | .skeinFenceStart t _ h => t < 4096 && h < 8
  | .skeinChunkEnd t _ h => t < 4096 && h < 8
  | .skeinQueueRoom t _ h => t < 4096 && h < 8
  | .skeinFault t _ h => t < 4096 && h < 8
  | .skeinEarlyEnd t _ h _ => t < 4096 && h < 8
  | .skeinComplete t _ h => t < 4096 && h < 8
  | .cqEnable inst _ => inst < 16
  | .cqDisable inst _ => inst < 16
  | .memoryRead pa _ _ _ => pa < 2 ^ 48
  | .memoryWrite pa _ _ _ _ => pa < 2 ^ 48
  | .monitorWindowEnd _ => true
  | .migrationLineMove region => region < 2 ^ 20
  | .migrationComplete region => region < 2 ^ 20
  | .holdExpiry region => region < 2 ^ 20
  | .rowRepairStart chan _ _ => chan < 48
  | .rowRepairLineStep chan _ pa _ => chan < 48 && pa < 2 ^ 48
  | .dieMarkFailed stack die => stack < 16 && die < 11
  | .rebuildLineStep stack pa _ _ _ => stack < 16 && pa < 2 ^ 48
  | .rebuildComplete stack => stack < 16
  | .deviceMarkFailed chan dev => chan < 48 && dev < 20
  | .channelMoveLineStep chan pa _ _ _ => chan < 48 && pa < 2 ^ 48
  | .channelMoveComplete chan => chan < 48
  | .scrubLine pa _ _ _ => pa < 2 ^ 48
  | .scrubPassComplete _ => true
  | .memMarkNearDie stack die => stack < 256 && die < 32
  | .memMarkFarDevice chan dev => chan < 256 && dev < 32
  | .memResaltRegion region salt => region < 2 ^ 20 && salt < 16
  | .xltAsidCreate inst _ => inst < 16
  | .xltAsidDestroy inst _ => inst < 16
  | .xltMap inst _ => inst < 16
  | .xltUnmap inst _ => inst < 16
  | .xltProtect inst _ => inst < 16
  | .xltSetHost inst _ => inst < 16
  | .migrateIn inst _ => inst < 16
  | .migrateInComplete inst _ _ => inst < 16
  | .migrateOut inst _ => inst < 16
  | .migrateOutComplete inst _ => inst < 16
  | .faultFail inst _ => inst < 16
  | .xltInvalidateComplete inst _ => inst < 16
  | .translationWalk inst asid va _ _ => inst < 16 && asid < 4096 && va < 2 ^ 57
  | .faultBatchSend inst => inst < 16
  | .parkedRequestRetry inst asid va => inst < 16 && asid < 4096 && va < 2 ^ 57
  | .faultTimeout inst asid va => inst < 16 && asid < 4096 && va < 2 ^ 57
  | .xltFrConsWrite inst _ => inst < 16
  | .xltFrEnableWrite inst _ => inst < 16
  | .modelLoad inst _ _ => inst < 16
  | .modelLoadComplete inst _ _ => inst < 16
  | .modelUnload inst _ => inst < 16
  | .seqOpen inst _ => inst < 16
  | .seqClose inst _ => inst < 16
  | .streamStart inst _ => inst < 16
  | .streamStop inst _ => inst < 16
  | .reshardRun inst _ _ => inst < 16
  | .reshardPlanComplete inst => inst < 16
  | .pageStep inst queue group desc => inst < 16 && queue < 2 ^ 16 && group < 12 && desc < 16384
  | .pageReserveRefill inst _ _ _ => inst < 16
  | .pageDemotion inst => inst < 16
  | .pagePromotion inst _ _ _ _ => inst < 16
  | .pageMoveSwitch inst _ _ _ _ => inst < 16
  | .qpCreate inst _ => inst < 16
  | .qpModify inst _ => inst < 16
  | .qpQuery inst _ _ => inst < 16
  | .qpDestroy inst _ => inst < 16
  | .workRequest inst queue _ => inst < 16 && queue < 4096
  | .regionRegister inst _ => inst < 16
  | .regionRevoke inst _ => inst < 16
  | .regionRevokeComplete inst _ => inst < 16
  | .regionQuery inst _ _ => inst < 16
  | .pacerRelease qpn => qpn < 2 ^ 20
  | .weftPacketStart port _ _ => port < 24
  | .writePacketReceive _ => true
  | .fenceLastPlace qpn => qpn < 2 ^ 20
  | .placementVisible qpn psn => qpn < 2 ^ 20 && psn < 2 ^ 24
  | .ackDelayExpiry qpn => qpn < 2 ^ 20
  | .immediateNotification qpn => qpn < 2 ^ 20
  | .readReqReceive _ => true
  | .readRespReceive _ => true
  | .ackReceive _ => true
  | .nakReceive _ => true
  | .resumeReceive _ => true
  | .ceEchoReceive _ => true
  | .ceEchoTimer qpn => qpn < 2 ^ 20
  | .retransmitTimerExpiry qpn => qpn < 2 ^ 20
  | .faultWaitProbe qpn psn => qpn < 2 ^ 20 && psn < 2 ^ 24
  | .rateUpdate qpn => qpn < 2 ^ 20
  | .quarantineExpiry qpn path => qpn < 2 ^ 20 && path < 16
  | .bucketRefill bucket => bucket < 128
  | .colGroupCreate inst _ _ => inst < 16
  | .colGroupReset inst _ => inst < 16
  | .colGroupDestroy inst _ => inst < 16
  | .colRun inst queue _ => inst < 16 && queue < 4096
  | .tileColRun tile => tile < 4096
  | .colChunkSignal group tile _ _ => group < 1024 && tile < 4096
  | .pinchHostPost inst _ => inst < 16
  | .pinchTilePost _ => true
  | .pinchArriveReceive port => port < 24
  | .pinchReleaseReceive port => port < 24
  | .pinchAckReceive port => port < 24
  | .pinchReplayTimeout port group => port < 24 && group < 1024
  | .pinchOpTimeout group => group < 1024
  | .pinchFrameSend port => port < 24
  | .cageCfgWrite _ cage _ => cage < 12
  | .laneDown lane _ => lane < 96
  | .laneTrainingComplete lane _ _ _ => lane < 96
  | .laneTrainingTimeout lane => lane < 96
  | .laneShiftCmd _ _ => true
  | .shiftSpareReady lane => lane < 96
  | .creditWordReceive lane _ => lane < 96
  | .lossWordReceive lane _ => lane < 96
  | .fabricFrameReceive lane _ => lane < 96
  | .ethernetFrameReceive port _ => port < 24
  | .xoffRefresh port => port < 24
  | .pauseFrameReceive port _ => port < 24
  | .pauseExpiry port _ => port < 24
  | .lpiEntry port => port < 24
  | .lldpSend port => port < 24
  | .lldpReceive port _ => port < 24
  | .doorbellWrite inst queue _ => inst < 16 && queue < 4096
  | .ringEntryTake inst queue _ => inst < 16 && queue < 4096
  | .ownPoll inst queue _ => inst < 16 && queue < 4096
  | .ringReadRetry inst queue _ => inst < 16 && queue < 4096
  | .headPublish inst queue => inst < 16 && queue < 4096
  | .coalesceTimer inst queue => inst < 16 && queue < 4096
  | .ringSyncRead inst => inst < 16
  | .heartbeatWrite inst => inst < 16
  | .heartbeatTimeout inst => inst < 16
  | .adminQueueEnable inst _ => inst < 16
  | .adminQueueDisable inst _ => inst < 16
  | .nop inst queue _ => inst < 16 && queue < 4096
  | .identify inst _ => inst < 16
  | .queueCreate inst _ => inst < 16
  | .queueDestroy inst _ _ => inst < 16
  | .queueReset inst _ _ => inst < 16
  | .asyncEvent inst _ => inst < 16
  | .reattach inst _ => inst < 16
  | .tileAssign inst _ => inst < 16
  | .hostToDev inst queue _ => inst < 16 && queue < 4096
  | .devToHost inst queue _ => inst < 16 && queue < 4096
  | .inlineToDev inst queue _ => inst < 16 && queue < 4096
  | .copyComplete inst queue _ tile _ => inst < 16 && queue < 4096 && tile < 4096
  | .pcieLinkDown => true
  | .perstAssert => true
  | .bmeClear fn => fn < 17
  | .d640GetVersion inst => inst < 16
  | .d640GetPort inst => inst < 16
  | .d640GetPortCounters inst => inst < 16
  | .d640GetTemp inst _ => inst < 16
  | .d640GetMac inst => inst < 16
  | .d640Echo inst => inst < 16
  | .d640Unsupported inst => inst < 16
  | .instCreate => true
  | .instQuiesce => true
  | .quiesceComplete inst => inst < 16
  | .quiesceLimitExpiry inst => inst < 16
  | .instResume => true
  | .instReset => true
  | .instRemove => true
  | .instSetMode => true
  | .functionLevelReset fn => fn < 17
  | .mbxSend _ inst _ => inst < 16
  | .mbxWithdraw _ inst => inst < 16
  | .mbxTake _ inst => inst < 16
  | .mbxAck _ inst _ => inst < 16
  | .mbxHello inst => inst < 16
  | .mbxResetRequest inst => inst < 16
  | .provision _ => true
  | .forget => true
  | .keyInstall => true
  | .keySwitch => true
  | .keyRetire => true
  | .keyClear => true
  | .debugUnlock _ _ => true
  | .debugOpen => true
  | .tamperAlarm _ => true
  | .secTamperClear _ _ => true
  | .cellLow => true
  | .entropyHealthFail => true
  | .noiseRetest _ => true
  | .drbgReseed => true
  | .calStart lane _ => lane < 96
  | .calStep lane => lane < 96
  | .calComplete lane => lane < 96
  | .fwStage _ _ => true
  | .fwActivate => true
  | .fwConfirm => true
  | .fwRevert => true
  | .fwTrialExpiry => true
  | .traceCollect die => die < 4
  | .saffronFrameSend => true
  | .saffronLaneDown lane => lane < 4
  | .traceMark _ _ => true
  | .triggerArm _ _ => true
  | .triggerCmdFire _ => true
  | .freezePinEdge => true
  | .freezeSnapshot => true
  | .triggerCmdThaw _ => true
  | .triggerCmdResume _ => true
  | .haltAll => true
  | .haltComplete => true
  | .scanStart _ => true
  | .scanComplete => true
  | .jtagIdcode => true
  | .jtagUnlock => true
  | .jtagHalt => true
  | .jtagResume => true
  | .jtagScanSel _ => true
  | .jtagScanData _ => true
  | .jtagBypass => true
  | .powerOnReset _ => true
  | .coldReset _ _ _ => true
  | .warmReset _ _ _ => true
  | .pllLockLoss _ => true
  | .powerTrip _ _ => true
  | .powerControlTick _ => true
  | .paceCfgWrite _ _ => true
  | .paceMapWrite _ n _ => n < 512
  | .moduleInsert cage _ _ => cage < 12
  | .moduleRemove cage => cage < 12
  | .smbReadVin => true
  | .smbReadPin => true
  | .smbReadDieTemp => true
  | .smbReadMemTemp => true
  | .smbReadBootStatus => true
  | .smbReadLastTrip => true
  | .smbReadSecState => true
  | .smbReadIdentity => true
  | .smbUnknownCommand _ => true
  | .cellReplace => true
  | .cellExhausted => true
  | .pcieLinkUp => true
  | .instanceResetDone inst => inst < 16

end Sys2Proof
end

