-- ==== Sys2Proof/Tests/Slice0.lean ====
section
/-! SUPPORT. Tests: for every statement of the obligations a concrete state that meets its hypotheses, clause by clause
where the clauses have their own (witness_<Name>); the worked examples of the spec; ill-formed commands.  A hypothesis
on a constant of Config that has no body (the blob and point tests of R515, the versions of a firmware image, a free
choice between two outcomes) has no witness: nothing in Lean can evaluate such a constant.  No theorem of this file is
long: Elab.async is off here because each evaluation by the kernel would otherwise hold a thread of its own. -/
open Sys2Proof Sys2Proof.Machine

/-- The state that a command leaves. -/
def Sys2Proof.Machine.State.ran (s : State) (c : Instr) : State :=
  match exec c s with
  | .next t => t
  | _ => s

namespace Sys2Proof.Tests
set_option Elab.async false

/-- The canonical forms that Sound asks, as one test. -/
def soundB (s : State) : Bool :=
  Memory.wf s.mem && canonical false s.poison && sortedKeys s.csr && s.csr.all (fun p => p.2 != regReset p.1) &&
    canonical {} s.til.tiles && s.til.tiles.all (·.2.ok)

/-- The test says that a state is well kept. -/
theorem soundB_sound {s : State} (h : soundB s = true) : s.Sound := by
  simp only [soundB, Bool.and_eq_true, List.all_eq_true, bne_iff_ne] at h
  obtain ⟨⟨⟨⟨⟨a, b⟩, c⟩, d⟩, e⟩, f⟩ := h
  exact ⟨a, b, ⟨c, fun p hp => by simpa using d p hp⟩, e, f⟩

/-- A card after start-up with instance 0 ACTIVE in mode 1 and tile 5 running a USER program outside warp. -/
def base : State :=
  ((((State.reset.put PWR_BOOT_STATUS_STEP 8).put PWR_BOOT_STATUS_READY 1).put (INST_STATE_STATE 0) 1).put
    (TILE_STATE_STATE 5) 5).put (TILE_ROLE_ROLE 5) 9

/-- Context W of tile 5 issues. -/
def onW : Issue := { tile := 5, ctx := .W }

/-- The host's window on the whole card (BAR2 of function 0). -/
def bar2 : Requester := .host 0 2

def lastCycle : State := { State.reset with cyc := 15999 }

theorem witness_StepRunsFrontCommand :
    (State.reset.pending = [] ∧ State.reset.cyc < State.reset.edge ∧ lastCycle.pending = [] ∧ lastCycle.edge ≤ lastCycle.cyc) :=
  by decide +kernel

def regs12 (x y : Word) : State := (base.ws onW 1 x).ws onW 2 y

theorem witness_AluResults :
    ((regs12 7 0).runs 5 .W = true ∧ onW.fetch = .good ∧ (regs12 7 0).rs onW 2 = 0) :=
  by decide +kernel

theorem witness_ImmediateResults :
    (base.runs 5 .W = true) :=
  by decide +kernel

theorem witness_ScalarResultFrame :
    base.Sound ∧
    (base.pcOf onW ≠ 0x7FFC) :=
  ⟨soundB_sound (by decide +kernel), by decide +kernel⟩

theorem witness_LoadAndStoreResults :
    (base.ws onW 1 0x2FFF8 : State).Sound ∧
    ((base.ws onW 1 0x2FFF8).runs 5 .W = true ∧ onW.fetch = .good ∧ onW.read = .good ∧ (base.ws onW 1 0x2FFF8).pcOf onW ≠ 0x7FFC ∧
  ((base.ws onW 1 0x2FFF8).rs onW 1 + BitVec.ofInt 64 (0 : BitVec 16).toInt).toNat = 0x2FFF8) :=
  ⟨soundB_sound (by decide +kernel), by decide +kernel⟩

def at1 (x : Word) : State := base.ws onW 1 x

theorem witness_LoadStoreTraps :
    ((at1 0x30000).runs 5 .W = true ∧ 0x2FFFF < ((at1 0x30000).rs onW 1).toNat ∧ ((at1 0x7FFF).rs onW 1).toNat < 0x8000 ∧
  ((at1 0x8001).rs onW 1).toNat % 2 ≠ 0 ∧ ((at1 0x8001).rs onW 1).toNat ≤ 0x2FFFF) :=
  by decide +kernel

theorem witness_BranchesAndJumps :
    ((at1 5).runs 5 .W = true) :=
  by decide +kernel

def inTrap : State := base.upd onW fun k => { k with evec := 0x101, estatus := 1, epc := 0x40 }
def handled : State := base.upd onW fun k => { k with evec := 0x101 }

theorem witness_ExceptionEntryAndTraps :
    base.Sound ∧
    handled.Sound ∧
    inTrap.Sound ∧
    (inTrap.runs 5 .W = true ∧ (inTrap.ctx 5 .W).estatus.getLsbD 0 = true ∧ (inTrap.ctx 5 .W).epc.toNat % 4 = 0 ∧
  (inTrap.ctx 5 .W).epc.toNat ≤ 0x7FFC ∧ base.runs 5 .W = true ∧ (base.ctx 5 .W).estatus.getLsbD 0 = false ∧
  (handled.ctx 5 .W).evec.getLsbD 0 = true ∧ (handled.ctx 5 .W).estatus.getLsbD 0 = false ∧
  encodes 0xFFFFFFFF = false) :=
  ⟨soundB_sound (by decide +kernel), soundB_sound (by decide +kernel), soundB_sound (by decide +kernel), by decide +kernel⟩

theorem witness_SpecialRegisters :
    (base.runs 5 .W = true ∧ (0x14 : BitVec 8).toNat ≤ 0x14 ∧ 0x15 ≤ (0xFF : BitVec 8).toNat ∧ (7 : BitVec 8).toNat < 8) :=
  by decide +kernel

theorem witness_VectorLoadsAndStores :
    ((at1 0x2FF80).runs 5 .W = true ∧ onW.read = .good ∧ inData ((at1 0x2FF80).rs onW 1).toNat 128 = true ∧
  ((at1 0x2FF80).rs onW 1).toNat % 64 = 0 ∧ inData ((at1 0x2FFC0).rs onW 1).toNat 64 = true) :=
  by decide +kernel

def vecs : State := (base.upd onW (·.setVec 1 (BitVec.ofNat 512 0x7FC00000))).upd onW (·.setVec 2 (BitVec.ofNat 512 0x3F800000))
def vecsTrap : State := (((base.upd onW (·.setVec 1 (BitVec.ofNat 512 0x7F800000))).upd onW (·.setVec 2 (BitVec.ofNat 512 0xFF800000))).upd
  onW fun k => { k with vcsr := 0x100 })

theorem witness_VectorArithmetic :
    (vecs.runs 5 .W = true ∧ (0 : BitVec 4).toNat ∈ vopTypes ∧ (vecs.ctx 5 .W).vcsr.getLsbD 8 = false ∧ 9 ∉ vopTypes ∧
  vecsTrap.runs 5 .W = true ∧ (vecsTrap.ctx 5 .W).vcsr.getLsbD 8 = true ∧
  (∃ j < typeCount 0, (elemAdd 0 (bits ((vecsTrap.ctx 5 .W).vec 1).toNat (typeBits 0 * j) (typeBits 0))
    (bits ((vecsTrap.ctx 5 .W).vec 2).toNat (typeBits 0 * j) (typeBits 0))).2 % 2 = 1)) :=
  by decide +kernel

theorem witness_ConversionAndDotResults :
    (vecs.runs 5 .W = true ∧ (1 : BitVec 4).toNat ∈ dotTypes false ∧ (∃ n ∈ mxTypes, n ∈ dotTypes true) ∧ cvtOk 0 1 0 = true ∧ cvtOk 1 0 1 = true ∧
  (∃ n ∈ mxTypes, 0 < mxParts n) ∧ 0 ∈ xrdTypes ∧ inData ((at1 0x2FF80).rs onW 1).toNat 128 = true) :=
  by decide +kernel

theorem witness_AccumulatorsAndMoves :
    (base.runs 5 .W = true ∧ 0 ∈ xaddTypes ∧ miscType 0 = true ∧ miscType 8 = true ∧ (255 : BitVec 8).toNat ≥ typeCount 0 ∧ 0 < typeCount 8 ∧ (14 : VReg).toNat % 2 = 0) :=
  by decide +kernel

def page32 : State := at1 0x8000 |>.ws onW 2 128
def tkWaits : State := page32.upd onW fun k => { k with wait := some (.tkout onW 3 1 2) }
def demWaits : State := page32.upd onW fun k => { k with wait := some (.demote onW 1 2 false) }
def proWaits : State := page32.upd onW fun k => { k with wait := some (.promote onW 1 2 false) }

theorem witness_TopkAndPageConversion :
    (page32.runs 5 .W = true ∧ page32.topkServes onW = true ∧ (at1 4096).topkServes onW = true ∧ ((at1 4096).rs onW 1).toNat ≤ 4096 ∧ (page32.rs onW 2).toNat = 128 ∧
  inData 0x8000 128 = true ∧ page32.longFits onW (128 / 8 + 8) = true ∧ (page32.ctx 5 .W).vcsr.getLsbD 8 = false ∧
  page32.longFits onW 1 = true ∧ tkWaits.live 5 .W = true ∧ (tkWaits.ctx 5 .W).wait = some (.tkout onW 3 1 2) ∧
  demWaits.live 5 .W = true ∧ (demWaits.ctx 5 .W).wait = some (.demote onW 1 2 false) ∧
  proWaits.live 5 .W = true ∧ (proWaits.ctx 5 .W).wait = some (.promote onW 1 2 false)) :=
  by decide +kernel

theorem witness_TopkListStaysRanked :
    ((⟨2, 0, [(0x40000000, 1), (0x3F800000, 0)], 2⟩ : TopK).list.Pairwise (fun a b => ranksBefore a b = true) ∧
  (⟨4, 0, [(0x40000000, 1), (0x3F800000, 0)], 2⟩ : TopK).list.length < 4096) :=
  by decide +kernel

def sends : State := ((base.ws onW 1 6).ws onW 2 0x8000).ws onW 3 256
def sent6 : Msg := { dst := 6, role := 0, epoch := 0, srcEpoch := 0, src := 5, tag := 0, kind := 0, anyRole := false, cls := 1,
                     payload := sends.localBytes onW 0x8000 256 }
def waitsIn (s : State) (x : Instr) : State := s.upd onW fun k => { k with wait := some x }
def recvs : State := (at1 0x8000).setTile 5 { (at1 0x8000).tile 5 with inq := [{ sent6 with cls := 0 }, sent6], rmq := [leBytes 288 7] }

theorem witness_Messages :
    (sends.runs 5 .W = true ∧ onW.read = .good ∧ (sends.rs onW 3).toNat % 512 ≤ 256 ∧ inData 0x8000 256 = true ∧ sends.canSend sent6 = true ∧
  (waitsIn sends (.msend onW 1 2 3 true false)).live 5 .W = true ∧ ((sends.ws onW 3 257).rs onW 3).toNat % 512 = 257 ∧
  (waitsIn sends (.msend onW 1 2 3 true false)).canSend sent6 = true ∧ onW.ctx = .W) ∧
    (recvs.runs 5 .W = true ∧ (2 : BitVec 2) ≠ 3 ∧ inData 0x8000 256 = true ∧ inData 0x8000 288 = true ∧
  (recvs.tile 5).inq = [{ sent6 with cls := 0 }] ++ sent6 :: [] ∧ (2 : BitVec 2).toNat = sent6.cls + 1 ∧ (∀ q ∈ [{ sent6 with cls := 0 }], (2 : BitVec 2).toNat ≠ q.cls + 1) ∧
  (waitsIn recvs (.mrecv onW 3 1 2 true)).live 5 .W = true ∧ (waitsIn recvs (.mret onW 3 1 true)).live 5 .W = true ∧
  (at1 0x8000).runs 5 .W = true ∧ ((at1 0x8000).tile 5).inq = [] ∧ ((at1 0x8000).tile 5).rmq = []) :=
  ⟨by decide +kernel, by decide +kernel⟩

def idleSkein (st : Nat) : Skein := { state := st, status := 0, desc := leBytes 128 0, check := {}, done := 0, nextChunk := 0, cvt := 0, fault := 0, side := false, age := 0, due := 0 }
def holds (s : State) (h st : Nat) : State := s.setSkein 5 .W h (idleSkein st)
def queueOn : State := (at1 0x40).put (SKN_CQ_CFG_ENABLE 0x40) 1 |>.ws onW 2 0x8000
def queueFull : State := queueOn.setReg (SKN_CQ_PTR 0x40) 0x100000000

theorem witness_SkeinInstructions :
    ((at1 0x8000).runs 5 .W = true ∧ inData 0x8000 128 = true ∧ (at1 0x8000).skein? 5 .W 0 = none ∧ (holds (at1 0x8000) 0 6).skein? 5 .W 0 ≠ none ∧
  (holds (at1 0x8000) 0 6).skein? 5 .W 1 = none ∧ (waitsIn (holds (at1 0x8000) 0 6) (.skiss onW 3 1)).live 5 .W = true ∧
  (waitsIn (at1 0x8000) (.skwait onW 3 1)).live 5 .W = true ∧ (idleSkein 6).state = 6 ∧ (idleSkein 1).state ≠ 6 ∧
  queueOn.cqOwner 0x40 = queueOn.instOfTile 5 ∧ queueOn.on (SKN_CQ_CFG_ENABLE 0x40) = true ∧ inData 0x8000 64 = true ∧ queueOn.cqCount 0x40 = 0 ∧
  (at1 0x40).on (SKN_CQ_CFG_ENABLE 0x40) = false ∧ (waitsIn queueOn (.chtakew onW 3 1 2)).live 5 .W = true) :=
  by decide +kernel

def img1 : State := base.upd onW fun k => { k with check := { poly := 0x1021, widthM1 := 15, init := 0xFFFF, run := 0xFFFF, intEn := true } }

theorem witness_CheckValueInstructions :
    (base.runs 5 .W = true ∧ img1.runs 5 .W = true ∧ (img1.ctx 5 .W).check.finish ≠ 0 ∧ (img1.ctx 5 .W).check.finish = (0xFFFF : Nat) % 2 ^ (img1.ctx 5 .W).check.width ∧
  (img1.ctx 5 .W).check.intEn = true) :=
  by decide +kernel

def sec0 : GroupSec := { parity := 7, peer := 0, tx := [⟨1, [0x4000, 0x4000, 0x4000, 0x4000, 0x4000, 0x4000, 0x4000]⟩], rx := [⟨1, [0x4000, 0, 0, 0, 0, 0, 0]⟩], txd := [{ kind := 1, inst := 0, ready := 0xFFF, dst := 0, pkey := 0, stream := 3, len := 10304, addr := 0x500000000 + 0x8000, asid := 0 }], rxd := [{ kind := 1, inst := 0, src := 0, stream := 4, len := 1472, deadline := 10, place := 0, asid := 0, queue := 0 }] }
def table0 : WTable := { index := 0, warpGroups := 1, cover := 0, groups := [(0, sec0)] }
def set0 : WarpSet := { domain := 1, gen := 3, period := 128, sched := 32, tables := [table0] }
def onS : Issue := { tile := 5, ctx := .S }
/-- Tile 5 runs context S of a scheduled program. -/
def schedBase : State :=
  let s := ((base.put (TILE_STATE_SCHED_ACTIVE 5) 1).put PICK_STATUS_STATE 4).put WARP_STATUS_HAS_ACTIVE 1
  let s1 := { s with warp := { s.warp with on := true, active := some set0 } }
  s1.setTile 5 { s1.tile 5 with s := { (s1.tile 5).s with awake := true } }
def mgr : State := base.put (TILE_ROLE_ROLE 5) 1
def flagIn (s : State) (i : Issue) (v : Word) : State := s.ws i 1 v

theorem witness_PickAndManagementInstructions :
    (base.runs 5 .W = true ∧ schedBase.runs 5 .S = true ∧ ((schedBase.rs onS 0).toNat ≤ schedBase.cyc) ∧
  (flagIn schedBase onS 0xFFF).flagOwned 0 0 0xFFF = true ∧ (flagIn schedBase onS 0xFFF).scheduled 5 = true ∧
  (flagIn schedBase onS 0xFFE).flagOwned 0 0 0xFFE = false ∧ 0xB0000 / 2 ^ 16 % 16 ≤ 11 ∧ ¬ 0xC0000 / 2 ^ 16 % 16 ≤ 11 ∧
  (waitsIn base (.waitc onW 0)).live 5 .W = true) ∧
    (mgr.runs 5 .W = true ∧ mgr.isManager 5 = true ∧ base.isManager 5 = false ∧ 0x0F0000030000 % 0x40000 = 0x30000 ∧ 0x0FF000000000 % 8 = 0) :=
  ⟨by decide +kernel, by decide +kernel⟩

def dom (st : Nat) (d : DomS) : State := { base.put PICK_STATUS_STATE st with dom := d }
def domR (role st : Nat) (d : DomS) : State := (dom st d).put PICK_SYNC_CFG_ROLE role

theorem witness_DomainStateMoves :
    (dom 1 { count := 16 } : State).Sound ∧
    (dom 2 { good := 256 } : State).Sound ∧
    (dom 5 {} : State).Sound ∧
    (dom 4 { lost := 2 } : State).Sound ∧
    (domR 2 5 { lostAll := 4 } : State).Sound ∧
    ((dom 1 { count := 16 }).domState = 1 ∧ (dom 2 { good := 256 }).domState = 2 ∧ (dom 5 {}).domState = 5 ∧ (dom 3 { lost := 2 }).domState = 3 ∧
  (dom 3 { lost := 2 }).isMaster = false ∧ (domR 2 5 { lostAll := 4 }).get PICK_SYNC_CFG_ROLE = 2 ∧ (domR 2 5 { lostAll := 4 }).isMaster = false ∧
  (domR 2 5 { lostAll := 4 }).domState = 5 ∧ (dom 3 {}).sendsSync = true ∧ readSync [] = none ∧ (dom 1 {}).get PICK_SYNC_CFG_PARENT = 15 ∧
  (readSync ((dom 3 {}).syncSymbol 0)).isSome = true ∧ (dom 0 {}).domState = 0) :=
  ⟨soundB_sound (by decide +kernel), soundB_sound (by decide +kernel), soundB_sound (by decide +kernel), soundB_sound (by decide +kernel), soundB_sound (by decide +kernel), by decide +kernel⟩

def refd (sel st mst : Nat) (d : DomS) : State := ((({ base with dom := d } : State).put PICK_SYNC_CFG_REF_SEL sel).put PICK_STATUS_STATE st).put PICK_STATUS_IS_MASTER mst
def todAt (sel : Nat) : State := refd sel 2 0 { todNext := some 9 }
def wakes : State := let s := schedBase.setTile 5 { schedBase.tile 5 with s := {} }; { s with cyc := 200 }

theorem witness_ReferencesAndWallTime :
    (refd 2 2 1 {} : State).Sound ∧
    schedBase.Sound ∧
    wakes.Sound ∧
    ((refd 1 2 0 {}).domState = 2 ∧ (refd 1 2 0 {}).isMaster = false ∧ (refd 1 2 0 { estimate := 1024 }).dom.estimate = 1024 ∧
  ((refd 1 2 1 {}).put PICK_STATUS_REF_OK 1).on PICK_STATUS_REF_OK = true ∧ (refd 1 2 1 {}).isMaster = true ∧ (refd 1 2 1 {}).get PICK_SYNC_CFG_REF_SEL = 1 ∧
  (todAt 1).dom.todNext = some 9 ∧ (refd 2 2 1 {}).get PICK_SYNC_CFG_REF_SEL = 2 ∧ base.privReq bar2 = true ∧ (refd 0 2 0 {}).get PICK_SYNC_CFG_REF_SEL ≠ 1 ∧
  wakes.get (TILE_STATE_STATE 5) = 5 ∧ wakes.inPick 5 = true ∧ wakes.trc.halted = false ∧ (wakes.tile 5).down = false ∧ (wakes.tile 5).s.awake = false ∧
  wakes.roleOf 5 ≠ 6 ∧ wakes.roleOf 5 ≠ 7 ∧ ({ wakes with cyc := 4000 } : State).wakeOffset 5 ≤ 4000) :=
  ⟨soundB_sound (by decide +kernel), soundB_sound (by decide +kernel), soundB_sound (by decide +kernel), by decide +kernel⟩

theorem witness_SyncSymbolReadsBack :
    (mget 0 (dom 3 { rxOff := [(11, 2 ^ 20 - 1)] }).dom.rxOff 11 < 2 ^ 20) :=
  by decide +kernel

def bank (n : Nat) (w : Option WarpSet) : State :=
  let s := base.put WARP_STATUS_SHADOW_STATE n
  { s with warp := { s.warp with shadow := w } }
/-- An empty table, no scheduled tile. -/
def imageWith (gen : Nat) : List Byte :=
  let h := leBytes 4 0x43575431 ++ leBytes 2 1 ++ leBytes 2 1 ++ leBytes 2 0 ++ leBytes 2 gen ++ leBytes 4 128 ++ leBytes 4 64 ++
    leBytes 4 576 ++ leBytes 4 640 ++ leBytes 32 0
  h ++ leBytes 4 2077295843 ++ leBytes 576 0
def loading : State := (bank 1 none).put WARP_LOAD_LEN_LEN 640
/-- One byte of CRC-32C. -/
def crcByte (c : Nat) (b : Byte) : Nat := iterN (crcStepR 0x82F63B78) 8 (c ^^^ b.toNat)
theorem crc32c_eq (l : List Byte) : crc32c l = (l.foldl crcByte 0xFFFFFFFF) ^^^ 0xFFFFFFFF := rfl
theorem crc_head : (leBytes 4 0x43575431 ++ leBytes 2 1 ++ leBytes 2 1 ++ leBytes 2 0 ++ leBytes 2 3 ++ leBytes 4 128 ++ leBytes 4 64 ++
    leBytes 4 576 ++ leBytes 4 640 ++ leBytes 32 0).foldl crcByte 0xFFFFFFFF = 1219129141 := by decide +kernel
theorem crc_zeros0 : (List.replicate 116 (0 : Byte)).foldl crcByte 1219129141 = 4166997502 := by decide +kernel
theorem crc_zeros1 : (List.replicate 116 (0 : Byte)).foldl crcByte 4166997502 = 2172012369 := by decide +kernel
theorem crc_zeros2 : (List.replicate 116 (0 : Byte)).foldl crcByte 2172012369 = 4078216217 := by decide +kernel
theorem crc_zeros3 : (List.replicate 116 (0 : Byte)).foldl crcByte 4078216217 = 1518378111 := by decide +kernel
theorem crc_zeros4 : (List.replicate 116 (0 : Byte)).foldl crcByte 1518378111 = 2217671452 := by decide +kernel
def headBytes : List Byte := leBytes 4 0x43575431 ++ leBytes 2 1 ++ leBytes 2 1 ++ leBytes 2 0 ++ leBytes 2 3 ++ leBytes 4 128 ++ leBytes 4 64 ++
    leBytes 4 576 ++ leBytes 4 640 ++ leBytes 32 0
/-- Checked piece by piece: the check value of the image. -/
theorem crc_image {z : List Byte} (h : z = headBytes ++ (List.replicate 116 0 ++ (List.replicate 116 0 ++
    (List.replicate 116 0 ++ (List.replicate 116 0 ++ List.replicate 116 0))))) : crc32c z = 2077295843 := by
  rw [crc32c_eq, h]
  simp only [List.foldl_append]
  rw [show headBytes.foldl crcByte 0xFFFFFFFF = 1219129141 from crc_head, crc_zeros0, crc_zeros1, crc_zeros2, crc_zeros3, crc_zeros4]
  rfl
theorem good_image : firstFail (loading.headFails (imageWith 3)) = none := by
  have h : crc32c (sliceB (imageWith 3) 0 60 ++ leBytes 4 0 ++ (imageWith 3).drop 64) = 2077295843 :=
    crc_image (by decide +kernel)
  unfold State.headFails
  rw [h]
  decide +kernel
theorem bad_image : firstFail (loading.headFails (List.replicate 640 0)) ≠ none := by
  have h : ∀ l : List Failure, l.isEmpty = false → firstFail l ≠ none := by
    intro l
    cases l with
    | nil => simp
    | cons f l => intro _; unfold firstFail; split <;> [skip; split] <;> simp
  exact h _ (by decide +kernel)
def armable : State := (bank 2 (some set0)).put WARP_SWAP_PICK_PICK 2
def armed : State := let s := bank 3 (some set0); { s with warp := { s.warp with swapPick := 2 } }
def active : State := let s := (bank 0 none).put WARP_SWAP_PICK_PICK 2; { s with warp := { s.warp with active := some set0 } }
def swaps : State := let s := (bank 3 (some set0)).put PICK_STATUS_STATE 3; { s with warp := { s.warp with swapPick := 0 } }

theorem witness_WarpStoreCommands :
    loading.Sound ∧
    armable.Sound ∧
    armed.Sound ∧
    active.Sound ∧
    swaps.Sound ∧
    (base.privReq bar2 = true ∧ (bank 0 none).shadow = 0 ∧ (bank 0 none).on WARP_STATUS_TRAILING = false ∧ (bank 0 none).on WARP_STATUS_ARMED_EMPTY = false ∧
  (bank 3 none).shadow = 3 ∧ loading.shadow = 1 ∧ loading.detached 0 = false ∧
  armable.shadow = 2 ∧ armable.warp.shadow = some set0 ∧ armable.get PICK_NUMBER_NUMBER + 2 ≤ armable.get WARP_SWAP_PICK_PICK ∧
  (bank 2 none).get WARP_SWAP_PICK_PICK < (bank 2 none).get PICK_NUMBER_NUMBER + 2 ∧ armed.shadow = 3 ∧ armed.get PICK_NUMBER_NUMBER + 1 < armed.warp.swapPick ∧
  active.warp.active.isSome = true ∧ active.get PICK_NUMBER_NUMBER + 2 ≤ active.get WARP_SWAP_PICK_PICK ∧
  swaps.shadow = 3 ∧ swaps.warp.swapPick = swaps.pick ∧ 3 ≤ swaps.domState) ∧
    (firstFail (loading.headFails (imageWith 3)) = none ∧ firstFail (loading.headFails (List.replicate 640 0)) ≠ none) :=
  ⟨soundB_sound (by decide +kernel), soundB_sound (by decide +kernel), soundB_sound (by decide +kernel), soundB_sound (by decide +kernel), soundB_sound (by decide +kernel), by decide +kernel, ⟨good_image, bad_image⟩⟩

theorem witness_PickWallOrder :
    base.Sound ∧
    (base.warp.on = false ∧ base.trc.halted = false ∧ base.trc.resumeDue = false ∧ base.trigPick = false) :=
  ⟨soundB_sound (by decide +kernel), by decide +kernel⟩

def nullCell : List Byte :=
  let h := List.replicate 40 (0 : Byte) ++ beBytes 4 (crc32c [])
  h ++ beBytes 4 (crc32c h) ++ List.replicate 1472 0
def readied : State := { schedBase with warp := { schedBase.warp with ready := [(0xFFF, true)] } }
def lanesUp : State := (List.range 8).foldl (fun s l => s.put (LNK_LANE_STATE l) 2) schedBase
def tx0 : TxDesc := { kind := 1, inst := 0, ready := 0xFFF, dst := 0, pkey := 0, stream := 3, len := 10304, addr := 0x500000000 + 0x8000, asid := 0 }

theorem witness_ScheduledCells :
    (schedBase.activeTable = some table0 ∧ tfind table0.groups 0 = some sec0 ∧ entryAt sec0.tx 1 6 = some 0x4000 ∧ sec0.txd[entryDesc 0x4000]? = some tx0 ∧
  schedBase.warp.on = true ∧ entryKindOf 0x4000 = 1 ∧ (readied.fetchCell 0 tx0 6 false).2.isSome = true ∧ (schedBase.fetchCell 0 tx0 6 false).2 = none ∧
  sec0.tx.find? (fun r => r.slot == 1) = some ⟨1, [0x4000, 0x4000, 0x4000, 0x4000, 0x4000, 0x4000, 0x4000]⟩ ∧
  schedBase.rxSec 0 0 = some (sec0, table0, set0) ∧ table0.cover = 0 ∧ sec0.rxd[0]?.map (·.kind) = some 1 ∧ (schedBase.rxStream 0 0 0).done = false ∧
  (∀ k ∈ List.range 8, lanesUp.cellLane (8 * 0 + k) = true) ∧ sec0.parity < 8 ∧ base.warp.on = false ∧ cellGood nullCell = true ∧ sliceB (cellBytes nullCell) 0 1520 = sliceB nullCell 0 1520 ∧ nullCell.length = 1520) :=
  by decide +kernel

def flight (yx : Bool) (x y : Nat) : Flight := { id := 1, m := { sent6 with dst := 1 }, record := [], cls := 1, yx := yx, target := 1, x := x, y := y, port := 0, waited := false }
def inMesh (f : Flight) : State := { base with til := { base.til with mesh := [f] } }

theorem witness_MeshHopNearsTarget :
    ((inMesh (flight false 5 3)).til.mesh.find? (fun g => g.id == 1) = some (flight false 5 3) ∧ (inMesh (flight false 5 3)).oldest (flight false 5 3) = true ∧
  (5, 3) ≠ (inMesh (flight false 5 3)).phys 1 ∧ (inMesh (flight false 5 3)).bypassed 5 3 = false ∧
  (let n := nextRouter (flight false 5 3) 1 0; (inMesh (flight false 5 3)).bufRoom n.1 n.2.1 n.2.2 1 false 5 = true) ∧
  (let n := nextRouter (flight true 5 3) 1 0; (inMesh (flight true 5 3)).bufRoom n.1 n.2.1 n.2.2 1 true 5 = true)) :=
  by decide +kernel

def returned : Flight := { flight false 1 0 with cls := 2, record := leBytes 16 0 }
def returnedIn (n : Nat) : State := let s := inMesh returned; s.setTile 1 { s.tile 1 with rmq := List.replicate n [] }
def stale : Flight := { flight false 1 0 with m := { sent6 with dst := 1, role := 9 } }

theorem witness_MeshAcceptance :
    (inMesh (flight false 1 0) : State).Sound ∧
    (returnedIn 32 : State).Sound ∧
    ((inMesh (flight false 1 0)).phys 1 = (1, 0) ∧ (inMesh (flight false 1 0)).bypassed 1 0 = false ∧ ((inMesh (flight false 1 0)).tile 1).down = false ∧
  (inMesh (flight false 1 0)).trc.halted = false ∧ ((inMesh (flight false 1 0)).tile 1).inq.length < 32 ∧ (flight false 1 0).m.isPost = false ∧
  (inMesh (flight false 1 0)).acceptFault (flight false 1 0).m = none ∧ (inMesh (flight false 1 0)).roleOf 1 ≠ 2 ∧
  (inMesh stale).acceptFault stale.m = some (stSTALE_ROLE, 1, 0, 0) ∧ (inMesh stale).bufRoom 1 0 0 2 false (ceilDiv (32 + stale.m.len) 64) = true ∧
  returned.cls = 2 ∧ ((returnedIn 31).tile 1).rmq.length < 32 ∧ 32 ≤ ((returnedIn 32).tile 1).rmq.length ∧ (returnedIn 32).oldest returned = true ∧ returned.waited = false) :=
  ⟨soundB_sound (by decide +kernel), soundB_sound (by decide +kernel), by decide +kernel⟩

def assigning (st : Nat) : State := let s := base.put (TILE_STATE_STATE 5) st; s.setTile 5 { s.tile 5 with assign := some ⟨0, [], 0, 0, 0, none⟩ }
def wantsRole (r : Nat) : State := ((base.put (TILE_ROLE_NEXT_ROLE 5) r).put (TILE_LOAD_CFG_LEN 5) 4).put (TILE_LOAD_CFG_ENTRY 5) 0

theorem witness_RoleChanges :
    (wantsRole 0x100 : State).Sound ∧
    (assigning 3 : State).Sound ∧
    ((wantsRole 0x100).privReq bar2 = true ∧ (wantsRole 0x100).assignStatus false none 5 0x100 0 4 0 = stOK ∧ (wantsRole 1).assignStatus false none 5 1 0 4 0 ≠ stOK ∧
  ((assigning 1).tile 5).assign = some ⟨0, [], 0, 0, 0, none⟩ ∧ (assigning 1).get (TILE_STATE_STATE 5) = 1 ∧ ((assigning 1).tile 5).s.handles ++ ((assigning 1).tile 5).w.handles = [] ∧
  (assigning 3).get (TILE_STATE_STATE 5) = 3) :=
  ⟨soundB_sound (by decide +kernel), soundB_sound (by decide +kernel), by decide +kernel⟩

def faulty : State := base.setTile 5 { base.tile 5 with restoring := true }
def noSpare : State := base.put (TILE_SPARE_MAP_SUB_ROW 5) 7
def recopying : State := let s := base.setReg (PWR_REL_UNMIRRORED 0) 33; { s with til := { s.til with recopy := [5, 0] } }
def alone : State := { base with til := { base.til with mgrAlone := [0] } }

theorem witness_TileFaultsAndSparing :
    base.Sound ∧
    faulty.Sound ∧
    noSpare.Sound ∧
    recopying.Sound ∧
    (base.privReq bar2 = true ∧ (0x80000005 : Nat).testBit 31 = true ∧ base.on TILE_SPARE_STATUS_PENDING = false ∧ noSpare.get (TILE_SPARE_MAP_SUB_ROW 5) = 7 ∧
  noSpare.spareFree 5 = false ∧ base.get (TILE_SPARE_MAP_SUB_ROW 5) ≠ 0 ∧ base.spareFree 5 = true ∧ (base.tile 5).down = false ∧ base.get (TILE_STATE_STATE 5) ≠ 7 ∧
  base.isManager 5 = false ∧ noSpare.spareFree (homeOf 5).1 = false ∧ base.spareFree (homeOf 5).1 = true ∧ base.unmirrored 5 = false ∧ base.runs 5 .W = true ∧
  (faulty.tile 5).restoring = true ∧ (base.reg (PWR_REL_UNMIRRORED 0)).testBit 5 = false ∧ recopying.til.recopy.contains 5 = true ∧ alone.til.mgrAlone.contains 0 = true ∧
  alone.til.mgrLost.contains 0 = false ∧ (alone.tile 0).down = false ∧ (alone.tile 1).down = false ∧ alone.get (TILE_STATE_STATE 0) ≠ 7 ∧ alone.get (TILE_STATE_STATE 1) ≠ 7) :=
  ⟨soundB_sound (by decide +kernel), soundB_sound (by decide +kernel), soundB_sound (by decide +kernel), soundB_sound (by decide +kernel), by decide +kernel⟩

def descOf (flags q src dst : Nat) : List Byte :=
  leBytes 1 0x11 ++ leBytes 1 0x88 ++ leBytes 2 flags ++ leBytes 2 q ++ leBytes 2 0 ++ leBytes 8 src ++ leBytes 8 dst ++
    leBytes 2 7 ++ leBytes 2 7 ++ leBytes 4 1 ++ leBytes 4 16 ++ leBytes 92 0
def skeinOf (st flags src dst : Nat) : Skein := { idleSkein st with desc := descOf flags 0x40 src dst }
def runsSkein (st flags : Nat) : State := queueOn.setSkein 5 .W 0 (skeinOf st flags 0x8000 0x9000)
def fullSkein (st flags : Nat) : State := (runsSkein st flags).setReg (SKN_CQ_PTR 0x40) 0x1000000000
def deadQueue : State := (base.setSkein 5 .W 0 (skeinOf 1 1 0x8000 0x9000))
def virt (va : Nat) : Nat := va + 2 ^ 63
def hostPage : State :=
  let s := ((((base.put (XLT_ROOT_USABLE 7) 1).put (XLT_ROOT_ROOT 7) 0x100).put (XLT_POOL_LEN_4K 7) 0x1000).put (XLT_POOL_USED_4K 7) 0x501)
  ([(0x100000, 0x200001), (0x200000, 0x300001), (0x300000, 0x400001), (0x400000, 0x500001), (0x500000, leafEntry 0x1230000 3),
    (0x500008, kindEntry 1), (0x500010, kindEntry 2), (0x500020, 0x13), (0x500028, leafEntry 0x1240000 1)] : List (Nat × Nat)).foldl (fun s p => s.setEntry p.1 p.2) s
def faultsSkein : State := hostPage.setSkein 5 .W 0 (skeinOf 1 0 (virt 0x10000) 0x9000)
def refusedSkein : State := hostPage.setSkein 5 .W 0 (skeinOf 1 0 (virt 0x30000) 0x9000)
def endsSkein : State := queueOn.setSkein 5 .W 0 { skeinOf 1 1 0x8000 0x9000 with due := stACCESS }
def lastSkein : State := queueOn.setSkein 5 .W 0 { skeinOf 1 1 0x8000 0x9000 with done := 16, nextChunk := 1 }
def cmdEntry (op : Nat) (body : List Byte) : Entry := { slot := 0, len := 1, op := op, tag := 0, flags := 0, raw := leBytes 16 0 ++ body }
def State.withEntry (s : State) (e : Entry) : State := s.setQueue 0 0 { state := 1, take := 1, tail := 1, window := [e] }
def cqBody (lg pa : Nat) : List Byte := leBytes 2 0x40 ++ leBytes 6 lg ++ leBytes 8 pa ++ leBytes 32 0
def adm (s : State) (op : Nat) (body : List Byte) : State := State.withEntry s (cmdEntry op body)

theorem witness_SkeinEnginesAndChunkQueues :
    (runsSkein 1 1 : State).Sound ∧
    ((runsSkein 2 1).skein? 5 .W 0 = some (skeinOf 2 1 0x8000 0x9000) ∧ (∀ p ∈ ((runsSkein 2 1).ctx 5 .W).handles, p.2.age < (skeinOf 2 1 0x8000 0x9000).age → p.2.state = 6) ∧
  (runsSkein 1 1).engineOk 5 = true ∧ ((runsSkein 1 1).moveChunk 5 none (skeinOf 1 1 0x8000 0x9000)).2.2 = .none ∧ (skeinOf 1 1 0x8000 0x9000).total = 16 ∧
  (skeinOf 1 1 0x8000 0x9000).signal = true ∧ (skeinOf 1 0 0x8000 0x9000).signal = false ∧ (runsSkein 1 1).on (SKN_CQ_CFG_ENABLE 0x40) = true ∧
  (runsSkein 1 1).cqFull 0x40 = false ∧ (fullSkein 1 1).cqFull 0x40 = true ∧ deadQueue.on (SKN_CQ_CFG_ENABLE 0x40) = false ∧
  (skeinOf 3 1 0x8000 0x9000).queue = 0x40 ∧ (runsSkein 3 1).skein? 5 .W 0 = some (skeinOf 3 1 0x8000 0x9000) ∧
  faultsSkein.engineOk 5 = true ∧ (faultsSkein.moveChunk 5 none (skeinOf 1 0 (virt 0x10000) 0x9000)).2.2 = .fault false 0x10000 ∧
  endsSkein.skein? 5 .W 0 = some { skeinOf 1 1 0x8000 0x9000 with due := stACCESS } ∧
  (refusedSkein.moveChunk 5 none (skeinOf 1 0 (virt 0x30000) 0x9000)).2.2 = .access false 0x30000 ∧
  (skeinOf 1 1 0x8000 0x9000).chunks = 1 ∧ lastSkein.skein? 5 .W 0 = some { skeinOf 1 1 0x8000 0x9000 with done := 16, nextChunk := 1 } ∧
  base.on TRC_CFG_ENABLE = false ∧ base.on TRC_TRIG_CFG_SRC_MATCH = false ∧
  (adm base 9 (cqBody 4 0x10000)).entry? 0 0 0 = some (cmdEntry 9 (cqBody 4 0x10000)) ∧
  (cmdEntry 9 (cqBody 4 0x10000)).rsvdZero [(0, 3), (8, 8)] = true ∧ base.cqOwner 0x40 = 0 ∧ inside (base.nearRange 0) 0x10000 (2 ^ 4 * 64) = true ∧
  inside (base.nearRange 0) 0x8000000000 (2 ^ 4 * 64) = false ∧ (cmdEntry 9 (cqBody 3 0x10000)).b 2 1 = 3 ∧ (cmdEntry 9 (cqBody 4 0x10000)).b 0 2 = 0x40 ∧
  (cmdEntry 0xA (leBytes 2 0x40 ++ leBytes 46 0)).rsvdZero [(0, 2)] = true ∧ (cmdEntry 0xA (leBytes 48 (2 ^ 16))).rsvdZero [(0, 2)] = false) :=
  ⟨soundB_sound (by decide +kernel), by decide +kernel⟩

def poisonAt (pa : Nat) : State := (base.setPoison pa true).setBytes (pa / 64 * 64) [1, 2, 3]
def darkFar : State := base.put SEC_STATE_KEYS 2

theorem witness_LineReadsAndWrites :
    base.Sound ∧
    (poisonAt 0x1040 : State).Sound ∧
    darkFar.Sound ∧
    (inTier 0 = true ∧ inTier 0x7FFFFFFFFF = true ∧ inTier 0x027FFFFFFFFF = true ∧ base.poisoned 0x1040 = false ∧ (poisonAt 0x1040).poisoned 0x107F = true ∧ isFar 0x1040 = false ∧
  isFar 0x010000000000 = true ∧ darkFar.farDark = true ∧ darkFar.poisoned 0x1040 = false ∧ base.farDark = false ∧ 0x1040 % 64 + 64 ≤ 64 ∧ 0x107F % 64 + [(7 : Byte)].length ≤ 64) :=
  ⟨soundB_sound (by decide +kernel), soundB_sound (by decide +kernel), soundB_sound (by decide +kernel), by decide +kernel⟩

def moving (c : Nat) : State := base.setSalt 3 { salt := 9, migrating := true, old := 3, cursor := c }
def repairs : State := { base with memu := { base.memu with repairs := [⟨2, 7, 0⟩], rowCe := [(2 * 2 ^ 32 + 7, 16)] } }
def autoRep : State := { base.put MEM_REPAIR_CFG_AUTO 1 with memu := { base.memu with rowCe := [(2 * 2 ^ 32 + 7, 255)], unitRows := [(4 * 32 + 3, List.range 255), ((16 + 5) * 32 + 19, List.range 255)] } }
def rebuilding (k n : Nat) : State := { base with memu := { base.memu with rebuild := [(k, n)] } }
def scrubs : State := base.put MEM_SCRUB_CFG_ENABLE 1

theorem witness_ResaltingRepairAndScrub :
    base.Sound ∧
    repairs.Sound ∧
    autoRep.Sound ∧
    (rebuilding 3 unitLines : State).Sound ∧
    scrubs.Sound ∧
    (((moving 5).saltOf 3).migrating = true ∧ ((moving 5).saltOf 3).cursor < 32768 ∧ ((moving 32768).saltOf 3).cursor = 32768 ∧ regionOf (3 * 2 ^ 21) = 3 ∧
  ((base.setSalt 3 { salt := 9, hold := true }).saltOf 3).hold = true ∧ (base.saltOf 3).migrating = false ∧ (base.saltOf 3).salt ≠ 9 ∧ base.migrating (regionFar 3) < base.inFlight ∧ (base.saltOf 3).salt = 3 ∧
  autoRep.on MEM_REPAIR_CFG_AUTO = true ∧ max 1 (autoRep.get MEM_REPAIR_CFG_ROW_CE) ≤ mget 0 autoRep.memu.rowCe (2 * 2 ^ 32 + 7) ∧ (2, 7) ∉ autoRep.memu.repaired ∧
  (autoRep.memu.repairs.any fun r => r.chan == 2 && r.row == 7) = false ∧ (repairs.memu.repairs.any fun r => r.chan == 2 && r.row == 7) = true ∧ sortedKeys repairs.memu.rowCe = true ∧
  max 1 (autoRep.get MEM_REPAIR_CFG_DIE_ROWS) ≤ (mget [] autoRep.memu.unitRows (4 * 32 + 3)).length ∧ max 1 (autoRep.get MEM_REPAIR_CFG_DIE_ROWS) ≤ (mget [] autoRep.memu.unitRows ((16 + 5) * 32 + 19)).length ∧
  tfind (rebuilding 3 4).memu.rebuild 3 = some 4 ∧ 4 < unitLines ∧ tfind (rebuilding 21 4).memu.rebuild (16 + 5) = some 4 ∧ tfind (rebuilding 21 unitLines).memu.rebuild (16 + 5) = some unitLines ∧
  base.on TRC_TRIG_CFG_SRC_MATCH = false ∧ base.on TRC_CFG_ENABLE = false ∧ scrubs.on MEM_SCRUB_CFG_ENABLE = true ∧ inTier 0x40 = true) :=
  ⟨soundB_sound (by decide +kernel), soundB_sound (by decide +kernel), soundB_sound (by decide +kernel), soundB_sound (by decide +kernel), soundB_sound (by decide +kernel), by decide +kernel⟩

def xBody (asid size perm va pa host : Nat) : List Byte :=
  leBytes 2 asid ++ leBytes 1 size ++ leBytes 5 perm ++ leBytes 8 va ++ leBytes 8 pa ++ leBytes 8 host ++ leBytes 16 0
def xcmd (op : Nat) (perm va pa host : Nat) : State := adm hostPage op (xBody 7 0 perm va pa host)
def pinnedPage : State := { hostPage with warp := { hostPage.warp with active := some { domain := 1, gen := 3, period := 128, sched := 0, tables := [{ index := 0, warpGroups := 1, cover := 0, groups := [(0, { parity := 7, peer := 0, tx := [], rx := [], rxd := [], txd := [{ kind := 2, inst := 0, ready := 0, dst := 0, pkey := 0, stream := 0, len := 64, addr := 0, asid := 7 }] })] }] } } }
def migOf (out : Bool) : Migration := ⟨0, 0, 7, 0x20000, 16, 0x1250000, 3, 0x7000, 1, out⟩
def migs (out : Bool) : State := { adm hostPage 0 [] with xlt := { hostPage.xlt with migs := [migOf out] } }

theorem witness_TranslationPageCommands :
    ((xcmd 0x12 3 0x30000 0x1250000 0).xltBusy 0 = false ∧ (xcmd 0x12 3 0x30000 0x1250000 0).entry? 0 0 0 = some (cmdEntry 0x12 (xBody 7 0 3 0x30000 0x1250000 0)) ∧
  (cmdEntry 0x12 (xBody 7 0 3 0x30000 0x1250000 0)).xWell [(0, 4), (8, 16)] true false = true ∧ (cmdEntry 0x12 (xBody 7 0 3 0x30001 0x1250000 0)).xWell [(0, 4), (8, 16)] true false = false ∧
  (cmdEntry 0x13 (xBody 7 0 0 0 0 0)).xWell [(0, 3), (8, 8)] false false = true ∧ (cmdEntry 0x14 (xBody 7 0 1 0 0 0)).xWell [(0, 4), (8, 8)] false false = true ∧
  (cmdEntry 0x16 (xBody 7 0 3 0x10000 0x1250000 0x7000)).xWell [(0, 4), (8, 24)] true true = true ∧ (cmdEntry 0x17 (xBody 7 0 0 0 0 0x7000)).xWell [(0, 3), (8, 8), (24, 8)] false true = true ∧
  hostPage.asidOk 0 7 = true ∧ hostPage.pageOk 0 0x1250000 16 = true ∧ hostPage.pinned 7 0 (2 ^ 16) = false ∧ hostPage.asidOk 0 8 = false ∧
  pinnedPage.pinned 7 0 (2 ^ 16) = true ∧
  (hostPage.walk 0 7 0x20000 4).kind = .migrating ∧ (hostPage.walk 0 7 0x40000 4).kind = .bad ∧ (hostPage.walk 0 7 0 3).kind = .pointer ∧
  (hostPage.xltTarget 7 0x30000 0 (hostPage.walk 0 7 0x30000 4) false false).2.isOk = true ∧ (hostPage.xltTarget 7 0 0 (hostPage.walk 0 7 0 4) true false).2.isOk = true ∧
  (winOf 0x1230000).isSome = false ∧ (winOf (localPa 5 0x10000)).isSome = true ∧
  (migs false).mig? 0 0 false = some (migOf false) ∧ (migs true).mig? 0 0 true = some (migOf true) ∧
  { base with xlt := { base.xlt with inval := [(0, 0)] } }.xlt.inval.contains (0, 0) = true) :=
  by decide +kernel

def createBody (a pa len : Nat) : List Byte := leBytes 8 a ++ leBytes 8 pa ++ leBytes 8 len ++ leBytes 24 0
def faultsOnP : State := hostPage.put (XLT_FR_CFG_ENABLE 0) 1
def recd : FaultRec := ⟨7, false, 4, 0x10000, 4, 0, 0⟩
def batched : State := { faultsOnP with xlt := { faultsOnP.xlt with openB := [(0, [recd])] } }
def parkedAs (ready : Bool) : Parked := ⟨0, 7, 0x1230, false, .page 0 0, 0, 16, true, false, ready⟩
def ready1 : State := { faultsOnP with xlt := { faultsOnP.xlt with parked := [parkedAs true] } }

theorem witness_AsidsFaultsAndOutcomes :
    base.Sound ∧
    hostPage.Sound ∧
    faultsOnP.Sound ∧
    batched.Sound ∧
    ready1.Sound ∧
    ((adm base 0x10 (createBody 8 0x100000 0x2000)).entry? 0 0 0 = some (cmdEntry 0x10 (createBody 8 0x100000 0x2000)) ∧ (adm base 0x10 (createBody 8 0x100000 0x2000)).xltBusy 0 = false ∧
  (cmdEntry 0x10 (createBody 8 0x100000 0x2000)).rsvdZero [(0, 3), (8, 16)] = true ∧ inside (base.nearRange 0) 0x100000 0x2000 = true ∧ base.on (XLT_ROOT_USABLE 8) = false ∧
  8 / base.asidsPer = 0 ∧ hostPage.asidOk 0 7 = true ∧ hostPage.pinned 7 0 (2 ^ 57) = false ∧ (cmdEntry 0x11 (leBytes 48 7)).rsvdZero [(0, 2)] = true ∧
  (cmdEntry 0x18 (leBytes 8 7 ++ leBytes 40 0x10000)).rsvdZero [(0, 2), (8, 8)] = true ∧ mget [] batched.xlt.openB 0 ≠ [] ∧
  (ready1.xlt.parked.any fun p => p.inst == 0 && p.asid == 7 && p.ready && decide (p.base ≤ 0x1230) && decide (0x1230 < p.base + 2 ^ p.shift)) = true ∧
  (base.put (XLT_FR_CFG_TIMEOUT_MS 0) 5).get (XLT_FR_CFG_TIMEOUT_MS 0) ≠ 0 ∧ (base.get (XLT_FR_PROD_PROD 0) + 2 ^ 32 - 1 % 2 ^ 32) % 2 ^ 32 > 4096 ∧
  base.on (XLT_FR_CFG_ENABLE 0) = false ∧ faultsOnP.on (XLT_FR_CFG_ENABLE 0) = true ∧ faultsOnP.detached 0 = false ∧
  (hostPage.walk 0 7 0 4).kind = .leaf ∧ (hostPage.walk 0 7 0x10000 4).kind = .onHost ∧ (hostPage.walk 0 7 0x20000 4).kind = .migrating ∧ (hostPage.walk 0 7 0x30000 4).kind = .absent ∧
  (hostPage.walk 0 7 0x40000 4).kind = .bad ∧ (hostPage.walk 0 7 0x50000 4).kind = .leaf ∧ (hostPage.walk 0 7 0x50000 4).e.testBit 3 = false ∧ (hostPage.walk 0 7 0 4).e.testBit 3 = true) :=
  ⟨soundB_sound (by decide +kernel), soundB_sound (by decide +kernel), soundB_sound (by decide +kernel), soundB_sound (by decide +kernel), soundB_sound (by decide +kernel), by decide +kernel⟩

theorem witness_WalksStayInTheInstance :
    ((hostPage.walk 0 7 0 4).kind = .leaf ∧ (hostPage.walk 0 7 0x5FFFF 4).kind = .leaf) :=
  by decide +kernel

def man0 : List Byte :=
  let b := leBytes 4 0x434D4E31 ++ leBytes 2 1 ++ leBytes 2 1 ++ leBytes 1 1 ++ leBytes 1 1 ++ leBytes 2 32 ++ leBytes 2 64 ++ leBytes 1 0 ++ leBytes 1 1 ++ leBytes 1 0 ++
    leBytes 1 1 ++ leBytes 2 1 ++ leBytes 8 64 ++ leBytes 8 64 ++ leBytes 4 4224 ++ leBytes 2 4 ++ leBytes 2 1 ++ leBytes 80 0
  b ++ leBytes 4 (crc32c (b ++ leBytes 4 0))
def geo0 : Geometry := ⟨1, 1, 1, 32, 64, 0, 1, 0, 1, 1, 64, 64, 4224, 4, 1, 0, 0, 0⟩
def model0 : Model := { slot := 0, asid := 7, va := 0x200000, nearPa := 0x2000000, farPa := 0x010000000000, nearLen := mib2, farLen := mib2, geo := geo0, tensors := [],
                        nearPool := ⟨3, 0, []⟩, farPool := ⟨3, 0, []⟩, entries := ⟨2, 0, []⟩ }
def loadBody (flags nearPa len : Nat) : List Byte := leBytes 2 7 ++ leBytes 6 flags ++ leBytes 8 0x200000 ++ leBytes 8 nearPa ++ leBytes 8 mib2 ++ leBytes 8 0x010000000000 ++ leBytes 8 mib2 ++ leBytes 8 0 ++
  leBytes 8 len ++ leBytes 8 0x9000 ++ leBytes 40 0
def withModel (st : Nat) (m : Model) : State := { hostPage.put (PAGE_MODEL_STATE 0) st with page := { hostPage.page with models := [(0, m)] } }
def loads (flags nearPa : Nat) : State := adm hostPage 0x30 (loadBody flags nearPa 128)

theorem witness_PageModels :
    (loads 0 0x2000000 : State).Sound ∧
    (adm (withModel 2 model0) 0 [] : State).Sound ∧
    (adm (withModel 3 model0) 0x31 (leBytes 48 0) : State).Sound ∧
    ((loads 0 0x2000000).entry? 0 0 0 = some (cmdEntry 0x30 (loadBody 0 0x2000000 128)) ∧ (cmdEntry 0x30 (loadBody 0 0x2000000 128)).rsvdZero [(0, 3), (8, 64)] = true ∧
  (loads 0 0x2000000).model? 0 = none ∧ hostPage.modelState 0 = 0 ∧ (hostPage.put (PAGE_MODEL_STATE 0) 1).modelState 0 ≠ 0 ∧ (loadBody 2 0x2000000 128)[2]? = some 2 ∧
  hostPage.asidOk 0 7 = true ∧ inside (hostPage.nearRange 0) 0x2000000 mib2 = true ∧ inside (hostPage.farRange 0) 0x010000000000 mib2 = true ∧ inside (hostPage.nearRange 0) 0x8000000000 mib2 = false ∧
  manifestOk man0 128 = true ∧ manifestOk (man0.set 127 0) 128 = false ∧ parseGeo man0 = geo0 ∧ hostPage.windowFree 0 7 0x200000 (2 * mib2) = true ∧ hostPage.windowFree 0 7 0 mib2 = false ∧
  (let p := placeAll geo0 [] 0x200000 0x2000000 mib2 0x010000000000 mib2; p.1.ok = true ∧ alignUp p.1.near mib2 = mib2 ∧ alignUp p.1.far mib2 = mib2) ∧
  ((hostPage.mapPages 0 7 0x200000 0x2000000 mib2).bind fun s => s.mapPages 0 7 (0x200000 + mib2) 0x010000000000 mib2).isSome = true ∧
  (withModel 2 model0).model? 0 = some model0 ∧ (withModel 2 model0).modelState 0 = 2 ∧ model0.slot = 0 ∧ (cmdEntry 0x31 (leBytes 48 0)).rsvdZero [] = true ∧
  (withModel 3 model0).warpPinned 7 0x200000 (mib2 + mib2) = false ∧ model0.stream = none ∧ model0.reshard = none ∧ (some (⟨1, 2, []⟩ : StreamPlan)) ≠ none) :=
  ⟨soundB_sound (by decide +kernel), soundB_sound (by decide +kernel), soundB_sound (by decide +kernel), by decide +kernel⟩

def seqBody (q n : Nat) : List Byte := leBytes 8 q ++ leBytes 8 n ++ leBytes 32 0
def m1 : Model := { model0 with seqs := [(0, { max := 64 })] }
def planBody (n start : Nat) : List Byte := leBytes 4 1 ++ leBytes 4 n ++ leBytes 8 0x210000 ++ leBytes 8 start ++ leBytes 24 0
def mapped (m : Model) : State := (withModel 3 m).setEntry 0x400008 (leafEntry 0x2000000 3)
def reshardBody (n : Nat) : List Byte := leBytes 8 n ++ leBytes 8 0x210000 ++ leBytes 8 2 ++ leBytes 24 0
def plans : Model := { m1 with reshard := some { slot := 0, start := 2, left := [] } }
def pg0 : PageRef := ⟨0, 0, 0, 0, 0⟩
def pg9 : PageRef := ⟨0, 0, 0, 9, 1⟩
def mp : Model := { m1 with pages := [pg0, pg9], nearPool := ⟨3, 2, []⟩, due := [0] }
def paged (st : Nat) (m : Model) : State := let s := withModel 3 m; (s.setHdr m 0 { slotVa := m.slotVa (st == 3) 0, state := st, tokens := 64 }).setHdr m 1 { slotVa := m.slotVa false 1, state := 1, index := 9, tokens := 1 }
def mv0 : Move := ⟨0, false, 0, 0, [], [], false, false⟩
def txq : TxDesc := { kind := 2, inst := 0, ready := 0xFFF, dst := 0, pkey := 0, stream := 3, len := 4224, addr := 0x300000, asid := 7 }
def stepping (place : Nat) : State :=
  let s := ((((withModel 3 m1).put (TILE_STATE_SCHED_ACTIVE 5) 1).put (TILE_ROLE_ROLE 5) 4).put (SKN_CQ_CFG_ENABLE 0x40) 1).setReg (SKN_CQ_PTR 0x40) (2 ^ 32)
  let s := s.setBytes 24 (leBytes 8 place)
  { s.put WARP_STATUS_HAS_ACTIVE 1 with warp := { s.warp with on := true, active := some { domain := 1, gen := 3, period := 128, sched := 32, tables := [{ index := 0, warpGroups := 1, cover := 0, groups := [(0, { parity := 7, peer := 0, tx := [], rx := [], txd := [txq], rxd := [] })] }] } } }

theorem witness_SequencesPlansAndMoves :
    (((paged 2 mp).coldest mp).head? = some pg0 ∧ (adm (withModel 3 model0) 0x32 (seqBody 0 64)).entry? 0 0 0 = some (cmdEntry 0x32 (seqBody 0 64)) ∧ (withModel 3 model0).modelState 0 = 3 ∧ (withModel 3 model0).model? 0 = some model0 ∧
  (cmdEntry 0x32 (seqBody 0 64)).rsvdZero [(0, 2), (8, 8)] = true ∧ model0.geo.seqs ≤ 1 ∧ 0 < model0.geo.seqs ∧ (model0.seqs.map (·.2.max)).sum + 64 ≤ model0.geo.total ∧ ¬ (m1.seqs.map (·.2.max)).sum + 64 ≤ m1.geo.total ∧
  (m1.seqs.map (·.2.max)).sum + 0 ≤ m1.geo.total ∧ tfind m1.seqs 0 = some { max := 64 } ∧ tfind model0.seqs 0 = none ∧ (cmdEntry 0x33 (seqBody 0 0)).rsvdZero [(0, 2)] = true ∧
  (cmdEntry 0x34 (planBody 0 2)).rsvdZero [(0, 24)] = true ∧ (mapped m1).planPa 0 m1 0x210000 (32 * 0) = some 0x2010000 ∧ (mapped m1).planPa 0 m1 0x210000 (32 * 1) = some 0x2010000 ∧
  (mapped m1).anyPoison 0x2010000 32 = false ∧ m1.planEntry 1 ((mapped m1).bytes 0x2010000 32) = none ∧ (mapped m1).startOk 2 = true ∧ (mapped m1).startOk 1 = false ∧ m1.next = none ∧
  (cmdEntry 0x35 (leBytes 48 0)).rsvdZero [] = true ∧ (cmdEntry 0x36 (reshardBody 0)).rsvdZero [(0, 4), (8, 16)] = true ∧ m1.reshard = none ∧ (mapped m1).planPa 0 m1 0x210000 1 = some 0x2010000 ∧
  plans.reshard = some { slot := 0, start := 2, left := [] } ∧ (stepping 0).warp.on = true ∧ (stepping 0).hasRole 0 4 true = true ∧ (stepping 0).cqOwner 0x40 = 0 ∧
  (stepping 0).on (SKN_CQ_CFG_ENABLE 0x40) = true ∧ (stepping 0).cqCount 0x40 ≠ 0 ∧ (((stepping 0).activeTable.bind fun t => tfind t.groups 0).bind fun sec => sec.txd[0]?) = some txq ∧
  (let s := stepping 0; let rd := (s.cqTake 0x40).1.readVa 0 7 (leAt (s.cqTake 0x40).2 24 8) (m1.geo.recordLen false); rd.2.toOption.map (fun b => bit (byteAt b 10) 0) = some false ∧ rd.1.badSummary m1 0 0 = false) ∧
  (let s := stepping 0x30000; let rd := (s.cqTake 0x40).1.readVa 0 7 (leAt (s.cqTake 0x40).2 24 8) (m1.geo.recordLen false); rd.2.isOk = false) ∧
  (paged 2 mp).page.ageCfg.testBit 31 = true ∧ (paged 2 { mp with nearPool := ⟨3, 3, []⟩ }).lowNear { mp with nearPool := ⟨3, 3, []⟩ } 0 = true ∧
  mp.farPool.take = some (0, ⟨3, 1, []⟩) ∧ mp.page? 0 0 0 0 = some pg0 ∧ mp.due.contains 0 = true ∧ ((paged 3 mp).hdr mp 0).state = 3 ∧
  (⟨3, 3, []⟩ : Pool).take = none ∧ mp.nearPool.take = some (2, ⟨3, 3, []⟩) ∧ (paged 3 mp).lowNear { mp with nearPool := ⟨3, 3, []⟩ } 0 = true ∧ (paged 3 mp).lowNear { mp with nearPool := ⟨3, 1, []⟩ } 0 = false ∧
  ({ mp with moves := [mv0] } : Model).moves.find? (fun x => x.entry == pg0.entry && !x.switched) = some mv0) :=
  by decide +kernel

def qp0 : Qp := { asid := 7, sendQ := 1, notifyQ := 0 }
def qpBody (n : Nat) (rest : List Byte) : List Byte := leBytes 4 n ++ rest
def hasQp (x : Qp) : State := hostPage.setQp 0 x
def qcmd (x : Qp) (op : Nat) (body : List Byte) : State := adm (hasQp x) op body
def keyed (s : State) : State := (s.put (LNK_PKEY_INST_VALID 0 0) 1).put (LNK_PKEY_INST_KEY 0 0) 0x8001
def initBody : List Byte := leBytes 4 0 ++ leBytes 4 1 ++ leBytes 4 5 ++ leBytes 2 0x8001 ++ leBytes 1 1 ++ leBytes 1 0 ++ leBytes 56 0
def toBody (t : Nat) : List Byte := leBytes 4 0 ++ leBytes 4 t ++ leBytes 104 0
def rtrBody : List Byte := leBytes 4 0 ++ leBytes 4 2 ++ leBytes 8 0 ++ leBytes 4 3 ++ leBytes 4 9 ++ leBytes 8 0 ++ leBytes 40 1 ++ leBytes 40 0
def wrBody : List Byte := leBytes 4 0 ++ leBytes 4 64 ++ leBytes 8 0 ++ leBytes 8 0 ++ leBytes 4 0 ++ leBytes 4 0 ++ leBytes 1 1 ++ leBytes 15 0
def workAt (x : Qp) : State := (hasQp x).setQueue 0 1 { state := 1, take := 1, tail := 1, window := [cmdEntry 0x41 wrBody] }
def regBody : List Byte := leBytes 2 7 ++ leBytes 2 3 ++ leBytes 4 5 ++ leBytes 8 0 ++ leBytes 8 0x10000 ++ leBytes 24 0
def regions (st ep : Nat) : State := hostPage.setRegion 0 0 { state := st, epoch := ep }

theorem witness_QueuePairsAndRegions :
    ((qcmd qp0 0x20 (leBytes 4 1 ++ leBytes 2 7 ++ leBytes 2 1 ++ leBytes 40 0)).entry? 0 0 0 = some (cmdEntry 0x20 (leBytes 4 1 ++ leBytes 2 7 ++ leBytes 2 1 ++ leBytes 40 0)) ∧
  (cmdEntry 0x20 (leBytes 4 1 ++ leBytes 2 7 ++ leBytes 2 1 ++ leBytes 40 0)).rsvdZero [(0, 4), (4, 2), (6, 2), (8, 4)] = true ∧ hostPage.qpInst 1 = 0 ∧ hostPage.asidOk 0 7 = true ∧
  (hasQp qp0).qp? 1 = none ∧ (hasQp qp0).qp? 0 = some qp0 ∧ (cmdEntry 0x21 initBody).rsvdZero [(0, 30), (32, 40)] = true ∧ (cmdEntry 0x21 rtrBody).rsvdZero [(0, 30), (32, 40)] = true ∧
  (cmdEntry 0x21 (toBody 3)).rsvdZero [(0, 30), (32, 40)] = true ∧ ((0, 3) : Nat × Nat) ∉ qpMoves ∧ ((keyed (hasQp qp0)).qpInit 0 (cmdEntry 0x21 initBody) qp0).isOk = true ∧
  ((hasQp { qp0 with state := 1 }).qpRtr 0 (cmdEntry 0x21 rtrBody) { qp0 with state := 1 }).isOk = true ∧ (cmdEntry 0x21 (toBody 3)).b 24 4 < 2 ^ 24 ∧
  (cmdEntry 0x22 (leBytes 8 0 ++ leBytes 8 0x9000 ++ leBytes 32 0)).rsvdZero [(0, 4), (8, 8)] = true ∧ (cmdEntry 0x23 (leBytes 48 0)).rsvdZero [(0, 4)] = true ∧
  ((((hasQp qp0).qpReset 0 stFLUSHED).qp? 0).getD {}).placing = [] ∧ (workAt { qp0 with state := 3 }).entry? 0 1 0 = some (cmdEntry 0x41 wrBody) ∧ (parseWork 1 0 (cmdEntry 0x41 wrBody)).isSome = true ∧
  (workAt { qp0 with state := 3 }).nextWork 0 1 0 { qp0 with state := 3 } = some 0 ∧ qp0.group = none ∧ (cmdEntry 0x24 regBody).rsvdZero [(0, 2), (2, 1), (4, 4), (8, 8), (16, 8)] = true ∧
  hostPage.freeRegion 0 (hostPage.qp.regions.length + 1) 0 = some 0 ∧ (cmdEntry 0x25 (leBytes 48 0)).rsvdZero [(0, 4)] = true ∧ ((regions 1 0).region 0 0).epoch = 0 % 256 ∧
  ((regions 1 0).region 0 0).state = 1 ∧ (regions 2 255).qp.regions.find? (fun p => p.1 / 2 ^ 24 == 0 && p.2.state == 2 && p.2.slot == 0 && p.2.inflight == 0) = some (0, { state := 2, epoch := 255 }) ∧
  (cmdEntry 0x26 (leBytes 8 0 ++ leBytes 8 0x9000 ++ leBytes 32 0)).rsvdZero [(0, 4), (8, 8)] = true) :=
  by decide +kernel

def pktOf (op flags psn : Nat) (ext payload : List Byte) : TPkt :=
  { op := op, flags := flags, pkey := 0x8001, tenant := 5, dst := 0, psn := psn, tx := 100, echo := 0, ext := ext, payload := payload }
def qpR : Qp := { qp0 with state := 3, tenant := 5, pkey := 0x8001, mtu := 1, rate := 1000 }
def gets (p : TPkt) (x : Qp) : State :=
  let s := (hasQp x).setRegion 0 0 { state := 1, asid := 7, base := 0, len := 0x10000, rd := true, wr := true, tenant := 5 }
  { s with net := { s.net with srb := [⟨1, 0, 32, 2, 100, 0, false, false, 0, p.bytes⟩] } }
def wExt (va : Nat) : List Byte := beBytes 8 va ++ beBytes 4 0 ++ beBytes 4 7
def wPkt : TPkt := pktOf 1 3 0 (wExt 0x40) [1, 2, 3]
def fPkt : TPkt := pktOf 1 6 1 (wExt 0x40) [1, 2, 3]
def fencedQp : Qp := { qpR with fenced := [(1, 0, wPkt)] }
def placed (live : Bool) : Qp := { qpR with placing := [⟨0, wPkt, [(0x1230040, [1, 2, 3])], 0, live⟩] }
def owes (q : Nat) : Qp := { qpR with notifyQ := q, recs := [⟨0, true, true, true, 7, 0x40, 3⟩], cum := 1 }
def sentQp : Qp := { qpR with sndNxt := 3, reqs := [{ queue := 1, slot := 0, read := false, len := 3000, lva := 0, rva := 0, rkey := 0, imm := 0, flags := 0, inl := [], first := some 0, built := 3 }] }
def readQp : Qp := { qpR with sndNxt := 1, reqs := [{ queue := 1, slot := 0, read := true, len := 3, lva := 0x40, rva := 0, rkey := 0, imm := 0, flags := 0, inl := [], first := some 0, built := 1 }] }
def routed (x : Qp) : State := ((((hasQp { x with peer := { kind := 1, ep := 2 } }).put (LNK_CAGE_CFG_ENABLE 0) 1).put (LNK_CAGE_STATUS_PORT0_UP 0) 1).put (LNK_ROUTE_COUNT 2) 1)
def ctlPkt : TPkt := pktOf 0x10 0 0 (leBytes 20 0) []
def waiting : State := let s := routed qpR; s.setFifo 0 [⟨2, 0, 0, .own 0 ctlPkt, none⟩]

theorem witness_WeftPackets :
    ((gets wPkt qpR).rxPacket 1 1 = some (⟨1, 0, 32, 2, 100, 0, false, false, 0, wPkt.bytes⟩, wPkt) ∧ ((gets wPkt qpR).rxChecks ⟨1, 0, 32, 2, 100, 0, false, false, 0, wPkt.bytes⟩ wPkt).2 = some wPkt ∧
  (((gets wPkt qpR).rxChecks ⟨1, 0, 32, 2, 100, 0, false, false, 0, wPkt.bytes⟩ wPkt).1.qp? 0).isSome = true ∧ (gets wPkt qpR).stalled wPkt = false ∧ psnFrom 0 qpR.win wPkt = some (0, false) ∧
  psnFrom 1 qpR.win wPkt = some (0, true) ∧ qpR.isRefused 0 = false ∧ ({ qpR with refused := some 0 } : Qp).isRefused 0 = true ∧ psnFrom 0 qpR.win fPkt = some (1, false) ∧
  (fPkt.flags.testBit 1 && fPkt.flags.testBit 2 && (1 != qpR.cum)) = true ∧ (wPkt.flags.testBit 1 && wPkt.flags.testBit 2 && (0 != qpR.cum)) = false ∧
  (gets fPkt qpR).rxPacket 1 1 = some (⟨1, 0, 32, 2, 100, 0, false, false, 0, fPkt.bytes⟩, fPkt) ∧ fencedQp.fenced.find? (fun f => f.2.1 == fencedQp.cum) = some (1, 0, wPkt) ∧
  (placed true).placing.find? (fun w => w.psn == 0) = some ⟨0, wPkt, [(0x1230040, [1, 2, 3])], 0, true⟩ ∧ ({ qpR with ackOwed := true } : Qp).ackOwed = true ∧
  (owes 5).owed = some (⟨0, true, true, true, 7, 0x40, 3⟩, [⟨0, true, true, true, 7, 0x40, 3⟩]) ∧ queueOn.on (SKN_CQ_CFG_ENABLE (0x10040 % 65536)) = true ∧
  ((gets (pktOf 2 0 0 (wExt 0x40) []) qpR).rxPacket 1 2).isSome = true ∧ ((gets (pktOf 3 0 0 [] [1, 2, 3]) readQp).rxPacket 1 3).isSome = true ∧ readQp.isRead 0 = true ∧ (readQp.holder 0).isSome = true ∧
  ((gets (pktOf 3 0 0 [] [1, 2, 3]) readQp).pieces 0 7 0x40 3 true (.transport 0 (localTag + 0))).2.isOk = true ∧ (gets (pktOf 3 0 0 [] [1, 2, 3]) readQp).xlt.parked = [] ∧ ((gets (pktOf 0x10 0 2 (beBytes 4 2 ++ beBytes 16 0) []) sentQp).rxAnswer 1 0x10).2.isSome = true ∧
  ((gets (pktOf 0x11 0 0 (beBytes 4 (2 ^ 25 + 1)) []) sentQp).rxAnswer 1 0x11).2.isSome = true ∧ ((gets (pktOf 0x12 0 0 (beBytes 4 1) []) { sentQp with wait := [1] }).rxAnswer 1 0x12).2.isSome = true ∧
  ((gets (pktOf 0x20 0 0 (beBytes 4 3 ++ beBytes 4 9 ++ beBytes 2 1 ++ beBytes 6 0) []) sentQp).rxAnswer 1 0x20).2.isSome = true ∧
  (routed { qpR with ctl := [ctlPkt] }).choosePath 0 { qpR with ctl := [ctlPkt], peer := { kind := 1, ep := 2 } } ctlPkt.bytes.length none = some 0 ∧
  waiting.portUp 0 = true ∧ waiting.pinchReady 0 = false ∧ leastBy (fun c => mget 0 (mget {} waiting.net.wfq 0).f c) ([1, 2, 4].filter (waiting.vcReady 0 (waiting.roomOf 0 100) false)) = some 2 ∧
  waiting.headOf 0 2 = some ⟨2, 0, 0, .own 0 ctlPkt, none⟩) :=
  by decide +kernel

def timed (n : Nat) : Qp := { sentQp with timer := true, retry := n, rto := 1000 }

theorem witness_WeftTimersAndRates :
    ((hasQp qpR) : State).Sound ∧
    ((timed 7).live = true ∧ (timed 0).live = true ∧ ({ sentQp with wait := [1] } : Qp).wait.contains 1 = true ∧ ({ qpR with echoed := true, marked := 3 } : Qp).marked ≠ 0 ∧
  2 ≤ qpR.state ∧ qpR.state ≤ 4 ∧ ({ qpR with ceSeen := true } : Qp).ceSeen = true ∧ (hasQp qpR).qp? 0 = some qpR ∧ 66 % 64 < 48 ∧ 66 % 4 ≠ 3 ∧ sortedKeys (hasQp qpR).net.buckets = true) :=
  ⟨soundB_sound (by decide +kernel), by decide +kernel⟩

def grpE : List Byte := leBytes 2 3 ++ leBytes 2 9 ++ leBytes 1 1 ++ leBytes 1 0 ++ leBytes 2 2 ++ leBytes 2 0 ++ leBytes 2 7 ++ leBytes 1 0x1F ++ leBytes 1 1 ++ leBytes 2 0 ++ leBytes 2 1 ++
  leBytes 2 0x8001 ++ leBytes 4 0 ++ leBytes 24 0
def grp0 : Group := { state := 1, tag := 9, gen := 1, size := 2, asid := 7, qps := [5, 0], mcast := 2, local_ := 1, total := 1, pkey := 0x8001 }
def inGroup (x : Group) : State := (hasQp qpR).setGroup 3 x
def colD : List Byte := leBytes 2 3 ++ leBytes 1 4 ++ leBytes 1 0 ++ leBytes 1 0x88 ++ leBytes 1 0 ++ leBytes 2 0 ++ leBytes 4 16 ++ leBytes 4 16 ++ leBytes 8 0x100 ++ leBytes 8 0x200 ++ leBytes 2 0x40 ++ leBytes 30 0
def colE : Entry := { slot := 0, len := 2, op := 0x42, tag := 0, flags := 0, raw := leBytes 16 0 ++ colD ++ leBytes 48 0 }
def runsCol : State := State.setQueue (inGroup grp0) 0 1 { state := 1, take := 1, tail := 1, window := [colE] }
def colOp (due : Nat) : ColOp := ⟨colD, none, 0, due⟩
def colOn (due : Nat) : State := (inGroup { grp0 with ops := [colOp due] }).put (SKN_CQ_CFG_ENABLE 0x40) 1
def colMsg : Msg := { dst := 5, role := 0, epoch := 0, srcEpoch := 0, src := 5, tag := 0, kind := 0x0C01, anyRole := false, cls := 1, payload := colD }
def colTile : State := let s := (inGroup grp0).put (TILE_ROLE_ROLE 5) 5; s.setTile 5 { s.tile 5 with inq := [colMsg] }
def postFl : Flight := { id := 1, m := { colMsg with dst := 1, src := 1, kind := 0xFFF0, payload := leBytes 2 3 ++ leBytes 1 0 ++ leBytes 29 0 }, record := [], cls := 1, yx := false, target := 1, x := 1, y := 0, port := 0, waited := false }
def postIn : State := let s := inGroup grp0; { s with til := { s.til with mesh := [postFl] } }
def pinchB (typ n : Nat) : List Byte := leBytes 1 typ ++ leBytes 1 0 ++ leBytes 2 0 ++ beBytes 2 9 ++ leBytes 1 0 ++ leBytes 1 1 ++ beBytes 4 n ++ beBytes 4 1 ++ leBytes 16 0
def pinches (par typ n : Nat) : State := let s := ((inGroup { grp0 with parent := par }).put (LNK_CAGE_CFG_ENABLE 2) 1).put (LNK_MCAST_MASK 2) 16; { s with net := { s.net with vc3 := [(4, [pinchB typ n])] } }
def keptIn (tries : Nat) : State := let s := inGroup grp0; { s with col := { s.col with kept := [⟨4, 3, pinchB 1 0, tries⟩] } }

theorem witness_CollectiveCommands :
    ((adm (hasQp qpR) 0x38 grpE).entry? 0 0 0 = some (cmdEntry 0x38 grpE) ∧ (hasQp qpR).groupBad (cmdEntry 0x38 grpE) (groupOf (cmdEntry 0x38 grpE) []) = false ∧ (hasQp qpR).qpInst 0 = 0 ∧
  (groupOf (cmdEntry 0x38 grpE) []).size = 2 ∧ ((hasQp qpR).group 3).state = 0 ∧ ((inGroup grp0).group 3).state ≠ 0 ∧ (hasQp qpR).asidOk 0 7 = true ∧ (cmdEntry 0x39 (leBytes 48 3)).rsvdZero [(0, 2), (2, 1)] = true ∧
  (cmdEntry 0x3A (leBytes 48 3)).rsvdZero [(0, 2)] = true ∧ runsCol.entry? 0 1 0 = some colE ∧ anyByte colE.raw 80 48 = false ∧ sliceB colE.raw 16 64 = colD ∧ runsCol.groupNo 0 3 = 3 ∧
  runsCol.colFault 0 colD grp0 = 0 ∧ runsCol.colFault 0 colD { grp0 with state := 2 } ≠ 0 ∧ colTile.roleOf 5 = 5 ∧ (takeFirst (fun (m : Msg) => m.kind == 0x0C01 && m.len == 64) (colTile.tile 5).inq).isSome = true ∧
  (colOn 0).on (SKN_CQ_CFG_ENABLE (colOp 0).queue) = true ∧ (colOn 0).cqFull (colOp 0).queue = false ∧ 0 < (colOp 0).outs 2 0 ∧
  ((colOn 0).colMove 3 5 { grp0 with ops := [colOp 0] } (colOp 0) 0 16 .own).2.isOk = true ∧ base.instExists 0 = true ∧ (0x80000003 : Nat).testBit 31 = true ∧
  ((inGroup grp0).post 0 0 3 0 0 false (leBytes 16 0)).2 = stOK ∧ ((inGroup grp0).post 0 0 4 0 0 false (leBytes 16 0)).2 ≠ stOK ∧
  postFl.m.isPost = true ∧ postIn.oldest postFl = true ∧ postIn.arrived postFl = true ∧ ((pinches 0x1F 1 0).takeVc3 4).pinchGroup (pinchB 1 0) = some 3 ∧ mget [] (pinches 0x1F 1 0).net.vc3 4 = [pinchB 1 0] ∧
  beAt (pinchB 1 0) 8 4 = grp0.seq ∧ beAt (pinchB 1 1) 8 4 = (grp0.seq + 1) % 2 ^ 32 ∧ (((pinches 0x1F 1 0).takeVc3 4).children { grp0 with parent := 0x1F }).contains 4 = true ∧
  (keptIn 0).col.kept.find? (fun k => k.port == 4 && k.group == 3) = some ⟨4, 3, pinchB 1 0, 0⟩ ∧ max 1 ((keptIn 0).get COL_PINCH_CFG_REPLAYS) ≤ 99 ∧ 0 < max 1 ((keptIn 0).get COL_PINCH_CFG_REPLAYS) ∧
  ((inGroup grp0).put COL_PINCH_CFG_TIMEOUT_US 5).get COL_PINCH_CFG_TIMEOUT_US ≠ 0 ∧ (inGroup grp0).pinchReady 4 = false) :=
  by decide +kernel

def cage (role split st : Nat) : State := (List.range 8).foldl (fun s k => s.put (LNK_LANE_STATE (8 * 1 + k)) st) (((base.put (LNK_CAGE_CFG_ENABLE 1) 1).put (LNK_CAGE_CFG_ROLE 1) role).put (LNK_CAGE_CFG_SPLIT 1) split)

theorem witness_CagesAndLanes :
    base.Sound ∧
    (cage 0 0 2 : State).Sound ∧
    (lanesUp.put (LNK_CAGE_CFG_ENABLE 0) 1 : State).Sound ∧
    (base.privReq bar2 = true ∧ (lanesUp.put (LNK_CAGE_CFG_ENABLE 0) 1).warpUses 0 = true ∧ (lanesUp.put (LNK_CAGE_CFG_ENABLE 0) 1).on (LNK_CAGE_CFG_ENABLE 0) = true ∧ base.on (LNK_CAGE_CFG_ENABLE 1) = false ∧ base.warpUses 1 = false ∧
  (cage 0 0 2).laneUp 8 = true ∧ (cage 0 0 2).activeTable = none ∧ (cage 0 0 2).on (portUpFld 2) = false ∧ (cage 0 0 2).on (portUpFld 3) = false ∧ (cage 1 0 2).attachOn 1 = true ∧
  (cage 0 0 1).get (LNK_LANE_STATE 8) = 1 ∧ base.on LNK_SHIFT_STATUS_PENDING = false ∧ base.on (LNK_LANE_SPARED 8) = false ∧ base.laneSpare 0 = some 0 ∧ (base.put (LNK_LANE_SPARED 8) 1).on (LNK_LANE_SPARED 8) = true ∧
  (cage 0 0 5).get (LNK_LANE_STATE 8) = 5 ∧ (8 : Nat) / 24 = 0 ∧ (96 : Nat) ≤ 96) :=
  ⟨soundB_sound (by decide +kernel), soundB_sound (by decide +kernel), soundB_sound (by decide +kernel), by decide +kernel⟩

def word8 (d : List Byte) : List Byte := sideWord d
def attachUp : State := (cage 1 0 2).put (LNK_CAGE_STATUS_PORT0_UP 1) 1
def ethUp : State := (cage 0 0 2).put (LNK_CAGE_STATUS_PORT0_UP 1) 1
def fabB : List Byte := let b := fabricHeader 2 20 0 0 0x8001 3 0 ++ leBytes 20 0; b ++ beBytes 4 (crc32c b)
def eframe (et : Nat) (d : List Byte) : Frame := { dst := 0x0180C200000E, src := 1, tag := none, etype := et, len := 64, fcs := true, ip := none, data := d }
def pframe : Frame := { eframe 0x8808 (beBytes 2 1 ++ beBytes 2 9 ++ leBytes 42 0) with dst := 0x0180C2000001 }
def eee (v : Nat) : List Byte := beBytes 2 (127 * 512 + 8) ++ beBytes 3 0x00120F ++ [5] ++ beBytes 2 0 ++ beBytes 2 v ++ beBytes 2 0
def lossy : State := { lanesUp with csr := lanesUp.csr }
def xoff : State := let s := ((ethUp.put (MAC_PORT_CFG_FC_MODE 2) 1).put (MAC_STATUS_XOFF_OUT 2) 1); { s with net := { s.net with srb := [⟨1, 1, 0, 2, 2 ^ 24, 0, false, false, 0, []⟩] } }
def lpi : State := ((ethUp.put (MAC_PORT_CFG_LPI_EN 2) 1).put (MAC_STATUS_LPI_CAPABLE 2) 1).put (MAC_LPI_CFG_TW_AGREED_US 2) 30

theorem witness_LinkWordsAndFrames :
    base.Sound ∧
    attachUp.Sound ∧
    ethUp.Sound ∧
    xoff.Sound ∧
    lpi.Sound ∧
    lanesUp.Sound ∧
    (attachUp.laneUp 8 = true ∧ attachUp.portAttach 2 = true ∧ sideOk (word8 ([1, 4, 0, 0, 0, 9, 0] : List Byte)) = true ∧ sideOk ([1, 4, 0, 0, 0, 9, 0, 0] : List Byte) = false ∧ lanesUp.activeTable = some table0 ∧
  lanesUp.laneUp 0 = true ∧ bit table0.warpGroups 0 = true ∧ sideOk (word8 ([2, 7, 0, 0, 0, 0, 5] : List Byte)) = true ∧ attachUp.portUp 2 = true ∧ fabricOk (fabB.take 16) = true ∧ fabB.length = 20 + beAt fabB 2 2 ∧
  beAt fabB (16 + beAt fabB 2 2) 4 = crc32c (fabB.take (16 + beAt fabB 2 2)) ∧ ethUp.portUp 2 = true ∧ ethUp.portAttach 2 = false ∧ (ethUp.accept 2 (eframe 0x88CC [])).2 = true ∧
  (ethUp.accept 2 { eframe 0x88CC [] with fcs := false }).2 = false ∧ (ethUp.accept 2 pframe).2 = true ∧ xoff.fcMode 2 ≠ 0 ∧ xoff.on (MAC_STATUS_XOFF_OUT 2) = true ∧ xoff.lowMark 2 < xoff.cageUse (2 / 2) ∧
  lpi.on (MAC_PORT_CFG_LPI_EN 2) = true ∧ lpi.on (MAC_STATUS_LPI_CAPABLE 2) = true ∧ lpi.on (MAC_STATUS_LPI_TX 2) = false ∧ lpi.fifo 2 = [] ∧ mget [] lpi.col.out 2 = [] ∧ lpi.get (MAC_LPI_CFG_TW_AGREED_US 2) ≠ 0 ∧
  ethUp.til.mgrLost.contains 0 = false ∧ ethUp.trc.halted = false ∧ eeeTime ((eee 300).length + 1) (eee 300) = some 300) :=
  ⟨soundB_sound (by decide +kernel), soundB_sound (by decide +kernel), soundB_sound (by decide +kernel), soundB_sound (by decide +kernel), soundB_sound (by decide +kernel), soundB_sound (by decide +kernel), by decide +kernel⟩

def rawOf (op len flags : Nat) : List Byte := leBytes 1 1 ++ leBytes 1 op ++ leBytes 1 len ++ leBytes 1 flags ++ leBytes 60 0
def served : State := (base.put (TILE_ROLE_ROLE 6) 2).setQueue 0 1 { state := 1, tail := 4 }
def qset (f : Queue → Queue) : State := served.setQueue 0 1 (f (served.queue 0 1))
def nopAt : State := base.setQueue 0 1 { state := 1, take := 1, tail := 1, window := [cmdEntry 0 (leBytes 48 0)] }
def evts (n : Nat) (ev : Bool) : State :=
  let e := cmdEntry 5 (leBytes 48 0)
  let s := base.setQueue 0 0 { state := 1, log2 := 7, take := n, tail := n, window := (List.range n).map fun k => { e with slot := k } }
  if ev then { s with rings := { s.rings with events := [(0, [⟨2, 7, leBytes 8 0⟩])] } } else s

theorem witness_CommandRings :
    (served.instExists 0 = true ∧ served.get (INST_STATE_STATE 0) ≠ 4 ∧ (served.queue 0 1).state = 1 ∧ 2 ^ 31 ≤ slotMod (slotMod 3 + 2 ^ 32 - (served.queue 0 1).tail) ∧
  ¬ (2 ^ 31 ≤ slotMod (slotMod 5 + 2 ^ 32 - (served.queue 0 1).tail) ∨ 2 ^ (served.queue 0 1).log2 < slotMod (slotMod 5 + 2 ^ 32 - (served.queue 0 1).head)) ∧
  (base.queue 0 1).state = 0 ∧ base.instExists 1 = false ∧ served.mayTake 0 1 = true ∧ (served.queue 0 1).retry = false ∧ (qset fun x => { x with waitOwn := true }).mayTake 0 1 = true ∧
  (qset fun x => { x with retry := true }).mayTake 0 1 = true ∧ (byteAt (rawOf 0 1 0) 0).testBit 0 = true ∧ (byteAt (rawOf 0 1 2) 3).testBit 1 = true ∧ (served.queue 0 1).started = [] ∧
  structFault (1 == 0) (served.queue 0 1) (served.queue 0 1).take (rawOf 0 1 0) = 0 ∧ byteAt (rawOf 0 1 0) 2 ≤ slotMod ((served.queue 0 1).tail + 2 ^ 32 - (served.queue 0 1).take) ∧ served.detached 0 = false ∧
  ((qset fun x => { x with head := 2 }).queue 0 1).pub ≠ ((qset fun x => { x with head := 2 }).queue 0 1).head ∧ 0 < ((qset fun x => { x with uncovered := 2 }).queue 0 1).uncovered ∧
  nopAt.entry? 0 1 0 = some (cmdEntry 0 (leBytes 48 0)) ∧ ((evts 1 true).entry? 0 0 0).map (·.op) = some 5 ∧ 64 < ((evts 65 false).asyncs 0).length ∧ mget [] (evts 1 false).rings.events 0 = [] ∧
  mget [] (evts 1 true).rings.events 0 = [⟨2, 7, leBytes 8 0⟩]) :=
  by decide +kernel

theorem witness_CompletedOnce :
    ((mget [] nopAt.rings.orphans (0 * 4096 + 1)).all (fun e => e.slot != 0) = true ∧ nopAt.entry? 0 1 0 ≠ none) :=
  by decide +kernel

def qcBody (q lg vec : Nat) : List Byte := leBytes 2 q ++ leBytes 1 lg ++ leBytes 1 1 ++ leBytes 2 vec ++ leBytes 1 0 ++ leBytes 1 1 ++ leBytes 8 0x10000 ++ leBytes 8 0x8000 ++ leBytes 24 5
def adminOn : State := base.put (RING_ADMIN_CFG_ENABLE 0) 1
def d640 (c : Nat) : State := ((served.put (RING_D640_STATUS_BUSY 0) 1).put (RING_D640_CMD_CMD 0) c).setReg (RING_D640_ARG 0 0) 2
def taBody (t role : Nat) : List Byte := leBytes 2 t ++ leBytes 2 role ++ leBytes 4 4 ++ leBytes 8 0 ++ leBytes 32 0

theorem witness_QueueCommands :
    base.Sound ∧
    adminOn.Sound ∧
    ((adm base 1 (leBytes 48 0x40)).entry? 0 0 0 = some (cmdEntry 1 (leBytes 48 0x40)) ∧ (cmdEntry 1 (leBytes 48 0x40)).rsvdZero [(0, 8)] = true ∧ (cmdEntry 2 (qcBody 1 4 0)).rsvdZero [(0, 26)] = true ∧
  (cmdEntry 2 (qcBody 1 4 0)).b 16 8 % 8 = 0 ∧ (cmdEntry 2 (qcBody 1 4 0)).b 24 2 = 5 ∧ (cmdEntry 2 (qcBody 1 3 0)).b 2 1 = 3 ∧ (served.queue 0 1).state ≠ 0 ∧ (base.queue 0 1).state = 0 ∧
  (cmdEntry 3 (leBytes 48 1)).rsvdZero [(0, 2)] = true ∧ ((hasQp qp0).qp.qps.any fun p => (hasQp qp0).qpInst p.1 == 0 && (p.2.sendQ == 1 || p.2.notifyQ == 1)) = true ∧
  (served.qp.qps.any fun p => served.qpInst p.1 == 0 && (p.2.sendQ == 1 || p.2.notifyQ == 1)) = false ∧ (cmdEntry 8 (taBody 9 0x100)).rsvdZero [(0, 20)] = true ∧ (base.tile 9).assign = none ∧
  base.assignStatus false (some 0) 9 0x100 0 4 0 = stOK ∧ base.assignStatus false (some 0) 9 1 0 4 0 ≠ stOK ∧ base.heldTile 9 = false ∧ base.heldTile 1 = true ∧ base.instLive 0 = true ∧
  base.on (RING_ADMIN_CFG_ENABLE 0) = false ∧ adminOn.on (RING_ADMIN_CFG_ENABLE 0) = true ∧ (0x50009 : Nat).testBit 0 = true ∧ bits 0x50009 1 4 = 4 ∧ bits 0x50007 1 4 < 4 ∧
  (d640 2).on (RING_D640_STATUS_BUSY 0) = true ∧ (d640 2).trc.halted = false ∧ (d640 2).til.mgrLost.contains 0 = false ∧ (d640 2).portExists 2 = false ∧ ((d640 2).put (LNK_CAGE_CFG_ENABLE 1) 1).portExists 2 = true ∧
  (d640 6).get (RING_D640_CMD_CMD 0) = 6 ∧ (List.range 24).find? (fun q => bit (((d640 6).setReg (MAC_IP_EGRESS 0) 4).reg (MAC_IP_EGRESS 0)) q) = some 2 ∧ 9 ∉ [1, 2, 3, 4, 6, 7]) :=
  ⟨soundB_sound (by decide +kernel), soundB_sound (by decide +kernel), by decide +kernel⟩

def cpBody (asid n va host : Nat) : List Byte := leBytes 8 host ++ leBytes 8 va ++ leBytes 4 asid ++ leBytes 4 n ++ leBytes 24 0
def cpAt (op : Nat) (body : List Byte) : State := ((hostPage.put (TILE_ROLE_ROLE 6) 2).setQueue 0 1 { state := 1, take := 1, tail := 1, window := [cmdEntry op body] })
def copying (op : Nat) (body : List Byte) : State := (cpAt op body).startCopy 0 1 0
def inlBody : List Byte := leBytes 8 0x40 ++ leBytes 4 7 ++ leBytes 4 3 ++ leBytes 32 0 ++ [7, 8, 9]
def inlE : Entry := { slot := 0, len := 2, op := 0x45, tag := 0, flags := 0, raw := leBytes 16 0 ++ inlBody ++ leBytes 61 0 }
def inlAt : State := ((hostPage.put (TILE_ROLE_ROLE 6) 2).setQueue 0 1 { state := 1, take := 2, tail := 2, window := [inlE] })
def detachedS : State := adm (base.put (RING_ATTACH_DETACHED 0) 1) 6 (leBytes 8 0 ++ leBytes 8 0x40 ++ leBytes 32 4)

theorem witness_CopiesAndAttachment :
    ((cpAt 0x43 (cpBody 7 3 0x40 0x9000)).entry? 0 1 0 = some (cmdEntry 0x43 (cpBody 7 3 0x40 0x9000)) ∧ (cpAt 0x43 (cpBody 7 3 0x40 0x9000)).copy? 0 1 0 = none ∧
  (cmdEntry 0x43 (cpBody 7 3 0x40 0x9000)).rsvdZero [(0, 18), (20, 4)] = true ∧ hostPage.asidOk 0 7 = true ∧ hostPage.asidOk 0 8 = false ∧ inlE.rsvdZero [(0, 10), (12, 4), (48, 3)] = true ∧ inlE.b 12 4 = 3 ∧
  (copying 0x43 (cpBody 7 3 0x40 0x9000)).copy? 0 1 0 = some { inst := 0, queue := 1, slot := 0 } ∧ (copying 0x43 (cpBody 7 3 0x40 0x9000)).instOfTile 6 = 0 ∧ (copying 0x43 (cpBody 7 3 0x40 0x9000)).roleOf 6 = 2 ∧
  (copying 0x43 (cpBody 7 3 0x40 0x9000)).engineOk 6 = true ∧ (∀ p ∈ (copying 0x43 (cpBody 7 3 0x40 0x9000)).xlt.parked, p.ofCopy 0 1 0 = false) ∧ base.instLive 0 = true ∧
  (base.put (RING_HB_CFG_TIMEOUT_MS 0) 5).get (RING_HB_CFG_TIMEOUT_MS 0) ≠ 0 ∧ tfind base.rings.beat 0 ≠ some base.time ∧ tfind ({ base with rings := { base.rings with beat := [(0, base.time)] } } : State).rings.beat 0 = some base.time ∧
  0 < base.nInst ∧ base.instExists 0 = true ∧ detachedS.entry? 0 0 0 = some (cmdEntry 6 (leBytes 8 0 ++ leBytes 8 0x40 ++ leBytes 32 4)) ∧ detachedS.detached 0 = true ∧
  (cmdEntry 6 (leBytes 8 0 ++ leBytes 8 0x40 ++ leBytes 32 4)).rsvdZero [(0, 4), (8, 12)] = true ∧ 0 = detachedS.get (RING_ATTACH_ATTACH_GEN 0) ∧ base.detached 0 = false) :=
  by decide +kernel

/-- The card in its mode of 16 instances. -/
def in16 (s : State) : State := s.put INST_CFG_MODE 2
def icmd (op i st : Nat) : State := { (base.put (INST_STATE_STATE 0) st).put INST_CMD_STATUS_PENDING 1 with insts := { base.insts with cmd := some (op, i) } }
def rst : State := { base with insts := { base.insts with resets := [(0, ⟨false, true, none⟩)] } }

theorem witness_InstanceCommands :
    (icmd 1 0 0 : State).Sound ∧
    rst.Sound ∧
    (base.put (INST_STATE_STATE 0) 2 : State).Sound ∧
    ((icmd 1 0 0).insts.cmd = some (1, 0) ∧ (icmd 1 0 0).insts.begun = false ∧ (icmd 1 0 0).firmware = true ∧ (icmd 1 0 0).nInst = 1 ∧ (icmd 1 0 0).get (INST_STATE_STATE 0) = 0 ∧ (in16 (icmd 2 0 1)).schedBusy 0 = false ∧ (in16 (icmd 2 0 1)).insts.cmd = some (2, 0) ∧ (in16 (icmd 2 0 1)).firmware = true ∧
  (in16 (icmd 2 0 1)).get (INST_STATE_STATE 0) = 1 ∧ (icmd 3 0 3).get (INST_STATE_STATE 0) = 3 ∧ (icmd 6 0 0).get INST_CMD_MODE ≠ 3 ∧ (∀ j ∈ List.range 1, (icmd 6 0 0).get (INST_STATE_STATE j) = 0) ∧
  (icmd 6 0 0).on WARP_STATUS_HAS_ACTIVE = false ∧ (icmd 6 0 0).get WARP_STATUS_SHADOW_STATE = 0 ∧ (base.put (INST_STATE_STATE 0) 2).quiet 0 = true ∧
  (nopAt.put (INST_STATE_STATE 0) 2).quiet 0 = false ∧ tfind rst.insts.resets 0 = some ⟨false, true, none⟩ ∧ rst.instExists 0 = true ∧ tfind base.insts.resets 0 = none ∧ base.instExists 1 = false) :=
  ⟨soundB_sound (by decide +kernel), soundB_sound (by decide +kernel), soundB_sound (by decide +kernel), by decide +kernel⟩

theorem witness_ZeroFillClears :
    (base.setByte 0x7FFFFFFFFF 7 : State).Sound ∧
    (inside (base.nearRange 0) 0x7FFFFFFFFF 1 = true ∧ inside (base.farRange 0) 0x7FFFFFFFFF 1 = false ∧ inside (base.farRange 0) 0x027FFFFFFFFF 1 = true ∧ (∀ k ∈ base.keptRanges 0, inside k 0x7FFFFFFFFF 1 = false) ∧
  inside (base.nearRange 0) 0x8000000000 1 = false) :=
  ⟨soundB_sound (by decide +kernel), by decide +kernel⟩

def h0 : Requester := .host 0 0
def mbx (host : Bool) (st ty len : Nat) : State := (((base.setReg (mbxTx host 0) st).setReg (mbxRx host 0) (st + len * 2 ^ 16)).setReg (mbxIn host 0 0) (ty + 0x77 * 65536))

theorem witness_Mailboxes :
    (base.mbxSide h0 0 = some true ∧ base.mbxSide bar2 0 = some false ∧ base.mbxFree true 0 = true ∧ (mbx true 1 1 4).mbxFree true 0 = false ∧ (mbx true 1 1 4).mbxTxState true 0 = 1 ∧
  (mbx false 1 1 4).mbxRxState (!true) 0 = 1 ∧ (mbx false 2 1 4).mbxRxState (!true) 0 = 2 ∧ (mbx true 1 1 4).firmware = true ∧ (mbx true 1 1 4).mbxRxState true 0 ≠ 0 ∧ (mbx true 1 1 4).mbxType true 0 = 1 ∧
  (mbx true 1 1 4).mbxFree false 0 = true ∧ (mbx true 1 1 4).get (MBXM_RX_STATUS_LEN 0) = 4 ∧ (mbx true 1 1 3).get (MBXM_RX_STATUS_LEN 0) < 4 ∧ (mbx true 2 2 8).mbxType true 0 = 2 ∧
  (in16 (mbx true 2 2 8)).mbxType true 0 = 2 ∧ (in16 (mbx true 2 2 8)).mbxFree false 0 = true ∧ 8 ≤ (in16 (mbx true 2 2 8)).get (MBXM_RX_STATUS_LEN 0) ∧ (in16 (mbx true 2 2 8)).firmware = true ∧ (in16 (mbx true 2 2 8)).get (INST_STATE_STATE 0) = 1 ∧ (in16 (mbx true 2 2 8)).schedBusy 0 = false ∧ ((in16 (mbx true 2 2 8)).insts.cmd.any fun p => p.2 == 0) = false ∧ ((mbx true 2 2 8).put (INST_STATE_STATE 0) 2).get (INST_STATE_STATE 0) = 2) :=
  by decide +kernel

def prov (op : Nat) : State := ((base.put SEC_PROV_STATUS_PENDING 1).put SEC_PROV_CMD_OP op).put SEC_STATE_KEYS 1
def kp (g : Nat) : KeyPhase := ⟨5, 1, g, 0, 0⟩
def keys (op c ph gen : Nat) (k : KeyCtx) : State :=
  (((((base.put SEC_KEY_STATUS_PENDING 1).put SEC_KEY_CMD_OP op).put SEC_KEY_CMD_CTX c).put SEC_KEY_CMD_PHASE ph).put SEC_KEY_ARG_KEY_GEN gen).put SEC_STATE_KEYS 1 |>.setKeyCtx 3 k

theorem witness_KeysAndProvisioning :
    ((prov 1).on SEC_PROV_STATUS_PENDING = true ∧ (prov 1).get SEC_PROV_CMD_OP = 1 ∧ (prov 1).firmware = true ∧ (prov 1).anyKey = false ∧ (prov 1).farDark = false ∧ (prov 1).sec.drbgStopped = false ∧
  ((prov 1).setKeyCtx 3 { p0 := some (kp 1) }).anyKey = true ∧ blobOk (leBytes 256 0) = false ∧ (keys 1 3 0 5 {}).on SEC_KEY_STATUS_PENDING = true ∧ (keys 1 3 0 5 {}).get SEC_KEY_CMD_OP = 1 ∧
  (keys 1 3 0 5 {}).get SEC_KEY_CMD_CTX = 3 ∧ (keys 1 3 0 5 {}).get SEC_STATE_KEYS = 1 ∧ (keys 1 3 0 5 {}).sec.zeroing = false ∧ (keys 1 3 0 5 { p1 := some (kp 5), tx := 1 }).get SEC_KEY_ARG_KEY_GEN ≤ (kp 5).gen ∧
  ((keys 2 3 1 5 { p1 := some (kp 5) }).keyCtx 3).phase 1 ≠ none ∧ ((keys 2 3 0 5 { p1 := some (kp 5) }).keyCtx 3).phase 0 = none ∧ ((keys 3 3 1 5 { p1 := some (kp 5), tx := 1 }).keyCtx 3).tx = 1 ∧
  (∃ p ∈ ((keys 4 3 0 0 {}).setQp 0 { qpR with cipher := 3 }).qp.qps, p.2.cipher = 3 ∧ 2 ≤ p.2.state ∧ p.2.state ≤ 4) ∧ (∀ p ∈ (keys 4 3 0 0 {}).qp.qps, p.2.cipher = 3 → p.2.state < 2 ∨ 4 < p.2.state)) :=
  by decide +kernel

def zeroing (o : Bool) : State := { base with sec := { base.sec with zeroing := true, opening := o } }
def dark : State := { base with pow := { base.pow with up := false } }

theorem witness_ZeroizationAndTamper :
    base.Sound ∧
    (zeroing true : State).Sound ∧
    (zeroing false : State).Sound ∧
    dark.Sound ∧
    (base.privReq bar2 = true ∧ base.on SEC_STATE_DEBUG_OPEN = false ∧ base.pow.up = true ∧ base.privReq h0 = false ∧ (zeroing true).sec.opening = true ∧ (zeroing false).sec.opening = false ∧ base.sec.zeroing = false ∧
  base.get SEC_TAMPER_STATUS_RECORDS < 16 ∧ dark.pow.up = false ∧ dark.sec.cellGone = false ∧ (0xC1EA : Nat) % 65536 = 0xC1EA ∧ (base.put SEC_STATE_DRBG_OK 0).on SEC_STATE_DRBG_OK = false ∧
  (base.put SEC_STATE_DRBG_OK 1).on SEC_STATE_DRBG_OK = true) :=
  ⟨soundB_sound (by decide +kernel), soundB_sound (by decide +kernel), soundB_sound (by decide +kernel), soundB_sound (by decide +kernel), by decide +kernel⟩

theorem witness_StepKeepsSound :
    ({ State.reset with pending := [.pickWall] } : State).Sound :=
  soundB_sound (by decide +kernel)

def calS (n : Nat) : State := { cage 1 0 2 with rel := { base.rel with cal := [(8, 0, n)] } }
def fwS (op a b : Nat) : State := (((base.put PWR_FW_CMD_STATUS_PENDING 1).put PWR_FW_CMD_OP op).put PWR_FW_STATUS_A_STATE a).put PWR_FW_STATUS_B_STATE b

theorem witness_CalibrationAndFirmware :
    (cage 1 0 2 : State).Sound ∧
    (calS 3 : State).Sound ∧
    (fwS 1 3 0 : State).Sound ∧
    ((cage 1 0 2).get (LNK_LANE_STATE 8) = 2 ∧ (cage 1 0 2).attachOn (8 / 8) = true ∧ (cage 1 0 2).pick + 16 ≤ 16 ∧ (cage 1 0 2).trc.halted = false ∧ (cage 1 0 2).til.mgrLost.contains (8 / 24) = false ∧
  (∀ k ∈ List.range 8, 8 / 8 * 8 + k ≠ 8 → (cage 1 0 2).get (LNK_LANE_STATE (8 / 8 * 8 + k)) ≠ 3 ∧ (cage 1 0 2).get (LNK_LANE_STATE (8 / 8 * 8 + k)) ≠ 4) ∧ tfind (calS 3).rel.cal 8 = some (0, 3) ∧ 0 ≤ (calS 3).pick ∧
  (calS 3).calSlot 8 ≠ none ∧ tfind (calS 64).rel.cal 8 = some (0, 64) ∧ (fwS 1 3 0).on PWR_FW_CMD_STATUS_PENDING = true ∧ (fwS 1 3 0).get PWR_FW_CMD_OP = 1 ∧ (fwS 1 3 0).firmware = true ∧ (fwS 1 3 0).runSlot = 0 ∧
  (fwS 1 3 0).slotState 0 = 3 ∧ (fwS 1 2 0).slotState 0 ≠ 3 ∧ (fwS 1 3 0).get PWR_FW_STAGE_LEN_LEN ≤ 2 ^ 25 ∧ 2 ^ 25 < ((fwS 1 3 0).put PWR_FW_STAGE_LEN_LEN (2 ^ 25 + 1)).get PWR_FW_STAGE_LEN_LEN ∧
  (fwS 2 3 1).slotState 1 = 1 ∧ (fwS 3 2 0).slotState (fwS 3 2 0).runSlot = 2 ∧ (fwS 3 2 0).get PWR_FW_CFG_TRIAL_S ≠ 0 ∧ (fwS 3 2 0).slotSvn 0 ≤ 64 ∧ (fwS 4 3 3).slotState 0 ≠ 2 ∧ (fwS 4 3 3).slotState 1 ≠ 2) :=
  ⟨soundB_sound (by decide +kernel), soundB_sound (by decide +kernel), soundB_sound (by decide +kernel), by decide +kernel⟩

def rec0 : List Byte := leBytes 32 1
def slotted (drops : Nat) : State := { base.put TRC_CFG_ENABLE 1 with trc := { base.trc with slots := [(1029, { rec_ := some rec0, drops := drops, seq := 3 })] } }
def tracing : State := (base.put TRC_CFG_ENABLE 1).put TRC_CLASS_EN_VAL 0xFFFF
def sending : State := { (base.put TRC_STATUS_LANES_UP 5).put TRC_SAFFRON_CFG_LANE_EN 0xF with trc := { base.trc with buf := [rec0, rec0] } }
def scanning : State := { sending with trc := { sending.trc with scan := some ⟨0, 1, 278000, true⟩ } }

theorem witness_TracePath :
    (slotted 2 : State).Sound ∧
    tracing.Sound ∧
    sending.Sound ∧
    scanning.Sound ∧
    ((slotted 0).nextSource 1 = some (1029, { rec_ := some rec0, drops := 0, seq := 3 }) ∧ (slotted 0).trc.buf.length < 32768 ∧ ((slotted 2).put TRC_CLASS_EN_VAL 0xFFFF).traceOn 14 0 = true ∧ (slotted 0).nextSource 0 = none ∧
  base.privReq bar2 = true ∧ tracing.traceOn 13 0 = true ∧ tracing.on TRC_TRIG_CFG_SRC_MATCH = false ∧ (tracing.traceSlot srcUnit).rec_ = none ∧ sending.saffronLane = some 0 ∧ scanning.trc.scan = some ⟨0, 1, 278000, true⟩ ∧
  min 992 (imageSize - 278000) = 528 ∧ sending.trc.scan = none ∧ sending.trc.buf ≠ [] ∧ min 31 sending.trc.buf.length = 2 ∧ base.trc.buf = [] ∧ bit (sending.get TRC_STATUS_LANES_UP) 2 = true) :=
  ⟨soundB_sound (by decide +kernel), soundB_sound (by decide +kernel), soundB_sound (by decide +kernel), soundB_sound (by decide +kernel), by decide +kernel⟩

def fired0 : State := base.put TRC_TRIG_STATUS_STATE 2
def pinS : State := base.put TRC_TRIG_CFG_SRC_PIN 1
def freezing : State := { base with trc := { base.trc with freezeDue := true } }
def frozen : State := { fired0 with trc := { base.trc with freezeDue := false } }.put TRC_STATUS_FROZEN 1
def halting : State := { base with trc := { base.trc with haltDue := true } }
def haltedS : State := { base.put TRC_HALT_STATUS_HALTING 1 with trc := { base.trc with halted := true } }
def openD : State := { (base.put SEC_STATE_DEBUG_OPEN 1).put TRC_HALT_STATUS_ALL 1 with trc := { base.trc with halted := true } }
def scanJ (left : Nat) : State := { openD with trc := { openD.trc with scan := some ⟨0, left, 5, false⟩ } }

theorem witness_TriggerHaltScanAndJtag :
    base.Sound ∧
    freezing.Sound ∧
    frozen.Sound ∧
    openD.Sound ∧
    (scanJ 0 : State).Sound ∧
    (base.privReq bar2 = true ∧ base.privReq h0 = false ∧ base.frozen = false ∧ base.trc.halted = false ∧ base.get TRC_TRIG_STATUS_STATE = 1 ∧ fired0.get TRC_TRIG_STATUS_STATE ≠ 1 ∧ frozen.frozen = true ∧ frozen.get TRC_TRIG_STATUS_STATE = 2 ∧
  pinS.on TRC_TRIG_CFG_SRC_PIN = true ∧ freezing.trc.freezeDue = true ∧ halting.trc.haltDue = true ∧ haltedS.trc.halted = true ∧ haltedS.on TRC_HALT_STATUS_HALTING = true ∧ base.on SEC_STATE_DEBUG_OPEN = false ∧
  openD.on SEC_STATE_DEBUG_OPEN = true ∧ openD.trc.scan = none ∧ openD.on TRC_HALT_STATUS_ALL = true ∧ (base.put SEC_STATE_DEBUG_OPEN 1).trc.halted = false ∧ (scanJ 0).trc.scan = some ⟨0, 0, 5, false⟩ ∧
  (scanJ 1).trc.scan = some ⟨0, 1, 5, false⟩ ∧ 5 + 1 < 8 * imageSize) :=
  ⟨soundB_sound (by decide +kernel), soundB_sound (by decide +kernel), soundB_sound (by decide +kernel), soundB_sound (by decide +kernel), soundB_sound (by decide +kernel), by decide +kernel⟩

def bt : Boot := {}
def ready : State := (base.put PWR_FW_STATUS_A_STATE 3)
def noInst : State := ((base.put (INST_STATE_STATE 0) 0).put PWR_FW_STATUS_A_STATE 3).setBytes 0x100 [1, 2]

theorem witness_ResetsTripsAndStartUp :
    base.Sound ∧
    dark.Sound ∧
    noInst.Sound ∧
    (base.privReq bar2 = true ∧ bits (2 ^ 63 + 0xA55A0002) 16 16 = 0xA55A ∧ bit (2 ^ 63 + 0xA55A0002) 63 = true ∧ (2 ^ 63 + 0xA55A0002) % 4 = 2 ∧ (2 ^ 63 + 0xA55A0001) % 4 = 1 ∧
  (∀ i ∈ List.range noInst.nInst, noInst.instExists i = false) ∧ noInst.slotState noInst.runSlot ≠ 2 ∧ base.pow.up = true ∧ dark.pow.up = false ∧ storeMask (INST_STATE 0) = 0 ∧
  ({ bt with checkers := false } : Boot).checkers = false ∧ bt.checkers = true ∧ bt.trained = true ∧ bt.router = false ∧ bt.tiles = [] ∧ bt.devices = [] ∧ ready.slotState ready.runSlot = 3 ∧ ready.slotState (1 - ready.runSlot) ≠ 2 ∧
  (ready.slotOk bt ready.runSlot).2 = true) :=
  ⟨soundB_sound (by decide +kernel), soundB_sound (by decide +kernel), soundB_sound (by decide +kernel), by decide +kernel⟩

def rd (pin hot : Nat) : Reading := { vin := 1200, pin := pin, dies := [hot, 40], stack := 40, far := 40, slew := 0, joules := 0 }
def modIn : State := { cage 0 0 2 with pow := { base.pow with modules := [(1, ⟨10, true, true⟩)] } }

theorem witness_PowerPacingAndModules :
    base.Sound ∧
    modIn.Sound ∧
    (base.privReq bar2 = true ∧ schedBase.on WARP_STATUS_HAS_ACTIVE = true ∧ base.on WARP_STATUS_HAS_ACTIVE = false ∧ base.get WARP_STATUS_SHADOW_STATE = 0 ∧ (0x11 &&& 0x1FFF003F) ≠ schedBase.reg PWR_PACE_CFG ∧
  base.limitW * 10 < (rd 10000 40).pin ∧ ¬ base.limitW * 10 < (rd 100 40).pin ∧ ({ base with pow := { base.pow with calm := 9 } } : State).pow.calm = 9 ∧ (rd 100 40).pin < (base.limitW - base.get PWR_LIMIT_CFG_HYST_W) * 10 ∧
  base.throttleAt 0 ≤ hottest (rd 100 250) 0 ∧ base.alertAt 0 ≤ hottest (rd 100 250) 0 ∧ base.pow.alert = false ∧ tfind base.pow.modules 1 = none ∧ tfind modIn.pow.modules 1 ≠ none ∧ modIn.laneUp 8 = true ∧
  8 ∉ ([1, 2, 3, 4, 5, 6, 7, 0x10] : List Nat)) :=
  ⟨soundB_sound (by decide +kernel), soundB_sound (by decide +kernel), by decide +kernel⟩

def cntr : State := base.put SKN_COMPLETED_VAL 9
def win (a : Nat) : State := cntr.put RING_BAR2_WIN_WIN_BASE (a / 2 ^ 23)

theorem witness_RegisterAccesses :
    (win SKN_COMPLETED : State).Sound ∧
    ((base.reach h0 0x100000).bind (fun a => regAt a 32) = none ∧ regAt 3 32 = none ∧ regAt (INST_STATE 0) 16 = none ∧ ((win SKN_COMPLETED).reach bar2 (0x800000 + SKN_COMPLETED % 2 ^ 23)) = some SKN_COMPLETED ∧
  (regAt SKN_COMPLETED 64).map (fun p => (p.2.1, p.2.2)) = some (SKN_COMPLETED, 0) ∧ (regAt SKN_COMPLETED 64).map (fun p => p.1.flds.map (·.acc)) = some [.rc] ∧ SKN_COMPLETED < RING_INST_ID 0 ∧
  (regAt PWR_LIMIT_CFG 32).map (fun p => (p.1.flds.map (·.acc)).contains .rw) = some true ∧ wallReg PWR_LIMIT_CFG = true ∧ base.later = [] ∧
  (regAt CRC_SEL 32).map (fun p => (p.1.flds.map (·.acc)).contains .rw) = some true ∧ wallReg CRC_SEL = false ∧ wallReg PICK_EVENT = false ∧ (win SKN_COMPLETED).frozen = false ∧ frozen.frozen = true ∧
  (regAt PICK_EVENT 32).map (fun p => (p.1.flds.map (·.acc)).contains .w1c) = some true) :=
  ⟨soundB_sound (by decide +kernel), by decide +kernel⟩

/-! ### The spec's worked examples -/

/-- Example 4.1: the words of its program encode instructions. -/
theorem test_encodes_example_4_1 :
    [0x14208000, 0x58410000, 0x0C6003E8, 0x28800002, 0x0C420001, 0x6C410000, 0x14840007, 0xAC030001, 0xAC040002,
      0xAC000000].all encodes = true := by decide +kernel

/-- Example 4.1: the words of ORI, ADDI, WAITC and RDYSET as a reserved form would report them. -/
theorem test_words_example_4_1 :
    (wI 0x05 1 0 0x8000, wI 0x03 3 0 1000, wI 0x16 2 1 0, wA 0x2B 0 3 0 1, wA 0x2B 0 4 0 2) =
      (0x14208000, 0x0C6003E8, 0x58410000, 0xAC030001, 0xAC040002) := by decide +kernel

/-- Example 5.1: VDOT a1, v2, v3, E2M1, MX, s7. -/
theorem test_word_example_5_1 : wVD 1 2 3 7 true 7 = 0xD848DE70 := by decide +kernel

/-- Example 5.4: SCOREB a0, 2, v4, s9. -/
theorem test_word_example_5_4 : wVS 0 4 9 2 = 0xE8112200 := by decide +kernel

/-- Example 17.1: CVFW s5. -/
theorem test_word_example_17_1 : wA 0x2A 0 5 0 2 = 0xA8050002 := by decide +kernel

/-- Opcode 0, FN 3 of OP 0x09 and the set reserved bit of OP 0x30 encode no instruction (R147). -/
theorem test_reserved_words : [0, 0x240000C0, 0xC0010000].all (fun w => !encodes w) = true := by decide +kernel

/-- ADDI sign-extends its immediate. -/
theorem test_addi_negative : ((regs12 5 0).ran (.addi onW 3 1 0xFFFF)).rs onW 3 = 4 := by decide +kernel

/-- ORI does not. -/
theorem test_ori_zero_extends : ((regs12 5 0).ran (.ori onW 3 1 0x8000)).rs onW 3 = 0x8005 := by decide +kernel

/-- s0 stays zero. -/
theorem test_write_s0 : ((regs12 5 9).ran (.add onW 0 1 2)).rs onW 0 = 0 := by decide +kernel

/-- SRA of a negative number by the low six bits of rs2. -/
theorem test_sra : ((regs12 0xFFFFFFFFFFFFFF00 68).ran (.sra onW 3 1 2)).rs onW 3 = 0xFFFFFFFFFFFFFFF0 := by
  decide +kernel

/-- The most negative number divided by -1. -/
theorem test_div_overflow : ((regs12 0x8000000000000000 0xFFFFFFFFFFFFFFFF).ran (.div onW 3 1 2)).rs onW 3 =
    0x8000000000000000 := by decide +kernel

/-- A store and a load of one byte, sign-extended. -/
theorem test_store_load : (((regs12 0x8000 0x80).ran (.sb onW 2 1 0)).ran (.lb onW 3 1 0)).rs onW 3 =
    0xFFFFFFFFFFFFFF80 := by decide +kernel

/-- Example 3.1: tile 3,000 with row 59 of column 40 spared. -/
theorem test_phys_example_3_1 : (base.put (TILE_SPARE_MAP_SUB_ROW 40) 59).phys 3000 = (40, 64) ∧
    base.phys 3000 = (40, 59) ∧ base.phys 5 = (5, 0) := by decide +kernel

/-- Example 5.2: the block maximum, the codes of lanes 0 to 3 and the flag; 20, -23, 1.1 and -0.3 as FP32. -/
theorem test_mxquant_example_5_2 :
    (let q := mxquant 7 (([0x41A00000, 0xC1B80000, 0x3F8CCCCD, 0xBE99999A] ++ List.replicate 28 0).map (valOf 0))
     (q.1, q.2.1.take 4, q.2.2)) = (129, [6, 15, 1, 8], fNX) := by decide +kernel

/-- Example 5.3: the exact sum of 2^24, 1, -2^24 and 2^-20 in both orders. -/
theorem test_xacc_example_5_3 :
    ([[0x4B800000, 0x3F800000, 0xCB800000, 0x35800000], [0x3F800000, 0xCB800000, 0x4B800000, 0x35800000]].map fun l =>
      let x := (l.map (valOf 0)).foldl XAcc.add {}
      ((x.readout 0).1, (x.readout 1).1)) = [(0x3F800008, 0x3F80), (0x3F800008, 0x3F80)] := by decide +kernel

/-- Example 7.1: lines 0 and 405 of region 16 under salts 0 and 1. -/
theorem test_channel_example_7_1 : (channelOf 16 0 0, channelOf 16 405 0, channelOf 16 0 1, channelOf 16 405 1) =
    (0x10, 0x10, 0x10, 0x50) := by decide +kernel

/-- The check values of "123456789" under settings. -/
def checkOf (poly w init : Nat) (b : Bool) : Nat :=
  let c : CheckImg := { poly := poly, widthM1 := w - 1, init := init, refin := b, refout := b, invert := b }
  ((c.reset).feeds [0x31, 0x32, 0x33, 0x34, 0x35, 0x36, 0x37, 0x38, 0x39]).finish

/-- Table 17.2. -/
theorem test_checks_table_17_2 : (checkOf 0x1EDC6F41 32 0xFFFFFFFF true, checkOf 0x04C11DB7 32 0xFFFFFFFF true,
    checkOf 0x1021 16 0xFFFF false, checkOf 0x07 8 0 false, checkOf 0x42F0E1EBA9EA3693 64 0xFFFFFFFFFFFFFFFF true) =
      (0xE3069283, 0xCBF43926, 0x29B1, 0xF4, 0x995DC9BBDF1939FA) := by decide +kernel

/-- Table 17.2 again: the codes that the device itself uses. -/
theorem test_own_codes : (crc32c [0x31, 0x32, 0x33, 0x34, 0x35, 0x36, 0x37, 0x38, 0x39],
    crc8 [0x31, 0x32, 0x33, 0x34, 0x35, 0x36, 0x37, 0x38, 0x39]) = (0xE3069283, 0xF4) := by decide +kernel

/-- A queue pair with SRTT 2.0 and RTTVAR 1.0 microseconds, 2.0 microseconds after it sent PSN 3. -/
def rttQp : State :=
  base.setQp 0 { sampled := true, srtt := 2000 * 1024, rttvar := 1000 * 1024, rto := 6000 * 1024 }

/-- Example 10.1: the second sample of 2.0 microseconds gives RTTVAR 0.75, SRTT 2.0 and RTO 5.0. -/
theorem test_rtt_example_10_1 :
    ((rttQp.sample 0 3 ((rttQp.ns + 2 ^ 32 - 2000) % 2 ^ 32)).qp? 0).map (fun x => (x.srtt, x.rttvar, x.rto)) =
      some (2000 * 1024, 750 * 1024, 5000 * 1024) := by decide +kernel

/-! ### Ill-formed commands: one for each check of WellFormed -/

theorem test_ill_formed_1 :
    (∀ a0, (Instr.pickTodSet a0 281474976710656).wf = false) ∧
    (∀ a1, (Instr.contextSWake 4096 a1).wf = false) ∧
    (∀ a3, (Instr.cellSample 12 0 0 a3).wf = false) ∧
    (∀ a3, (Instr.cellSample 0 65536 0 a3).wf = false) ∧
    (∀ a3, (Instr.cellSample 0 0 7 a3).wf = false) ∧
    ((Instr.scheduledCellSend 12 0).wf = false) ∧
    ((Instr.scheduledCellSend 0 65536).wf = false) ∧
    (∀ a1 a2 a3 a4, (Instr.syncSymbolReceive 12 a1 a2 a3 a4).wf = false) ∧
    (∀ a2, (Instr.streamDeadline 12 0 a2).wf = false) ∧
    (∀ a2, (Instr.streamDeadline 0 16384 a2).wf = false) ∧
    ((Instr.managerPartnerReady 4).wf = false) ∧
    (∀ a1 a2 a3, (Instr.add { tile := 4096, ctx := .W } a1 a2 a3).wf = false) ∧
    (∀ a1, (Instr.skeinFenceStart 4096 a1 0).wf = false) ∧
    (∀ a1, (Instr.skeinFenceStart 0 a1 8).wf = false) ∧
    (∀ a1, (Instr.cqEnable 16 a1).wf = false) ∧
    (∀ a1 a2 a3, (Instr.memoryRead 281474976710656 a1 a2 a3).wf = false) ∧
    ((Instr.migrationLineMove 1048576).wf = false) ∧
    (∀ a1 a2, (Instr.rowRepairStart 48 a1 a2).wf = false) ∧
    (∀ a1 a3, (Instr.rowRepairLineStep 48 a1 0 a3).wf = false) ∧
    (∀ a1 a3, (Instr.rowRepairLineStep 0 a1 281474976710656 a3).wf = false) :=
  ⟨fun _ => rfl,
    fun _ => rfl,
    fun _ => rfl,
    fun _ => rfl,
    fun _ => rfl,
    rfl,
    rfl,
    fun _ _ _ _ => rfl,
    fun _ => rfl,
    fun _ => rfl,
    rfl,
    fun _ _ _ => rfl,
    fun _ => rfl,
    fun _ => rfl,
    fun _ => rfl,
    fun _ _ _ => rfl,
    rfl,
    fun _ _ => rfl,
    fun _ _ => rfl,
    fun _ _ => rfl⟩

theorem test_ill_formed_2 :
    ((Instr.dieMarkFailed 16 0).wf = false) ∧
    ((Instr.dieMarkFailed 0 11).wf = false) ∧
    (∀ a2 a3 a4, (Instr.rebuildLineStep 16 0 a2 a3 a4).wf = false) ∧
    (∀ a2 a3 a4, (Instr.rebuildLineStep 0 281474976710656 a2 a3 a4).wf = false) ∧
    ((Instr.rebuildComplete 16).wf = false) ∧
    ((Instr.deviceMarkFailed 48 0).wf = false) ∧
    ((Instr.deviceMarkFailed 0 20).wf = false) ∧
    ((Instr.memMarkNearDie 256 0).wf = false) ∧
    ((Instr.memMarkNearDie 0 32).wf = false) ∧
    ((Instr.memMarkFarDevice 256 0).wf = false) ∧
    ((Instr.memMarkFarDevice 0 32).wf = false) ∧
    ((Instr.memResaltRegion 1048576 0).wf = false) ∧
    ((Instr.memResaltRegion 0 16).wf = false) ∧
    (∀ a3 a4, (Instr.translationWalk 16 0 0 a3 a4).wf = false) ∧
    (∀ a3 a4, (Instr.translationWalk 0 4096 0 a3 a4).wf = false) ∧
    (∀ a3 a4, (Instr.translationWalk 0 0 144115188075855872 a3 a4).wf = false) ∧
    ((Instr.pageStep 16 0 0 0).wf = false) ∧
    ((Instr.pageStep 0 65536 0 0).wf = false) ∧
    ((Instr.pageStep 0 0 12 0).wf = false) ∧
    ((Instr.pageStep 0 0 0 16384).wf = false) :=
  ⟨rfl,
    rfl,
    fun _ _ _ => rfl,
    fun _ _ _ => rfl,
    rfl,
    rfl,
    rfl,
    rfl,
    rfl,
    rfl,
    rfl,
    rfl,
    rfl,
    fun _ _ => rfl,
    fun _ _ => rfl,
    fun _ _ => rfl,
    rfl,
    rfl,
    rfl,
    rfl⟩

theorem test_ill_formed_3 :
    (∀ a2, (Instr.workRequest 16 0 a2).wf = false) ∧
    (∀ a2, (Instr.workRequest 0 4096 a2).wf = false) ∧
    ((Instr.pacerRelease 1048576).wf = false) ∧
    (∀ a1 a2, (Instr.weftPacketStart 24 a1 a2).wf = false) ∧
    ((Instr.placementVisible 1048576 0).wf = false) ∧
    ((Instr.placementVisible 0 16777216).wf = false) ∧
    ((Instr.quarantineExpiry 1048576 0).wf = false) ∧
    ((Instr.quarantineExpiry 0 16).wf = false) ∧
    ((Instr.bucketRefill 128).wf = false) ∧
    (∀ a2 a3, (Instr.colChunkSignal 1024 0 a2 a3).wf = false) ∧
    (∀ a2 a3, (Instr.colChunkSignal 0 4096 a2 a3).wf = false) ∧
    ((Instr.pinchReplayTimeout 24 0).wf = false) ∧
    ((Instr.pinchReplayTimeout 0 1024).wf = false) ∧
    ((Instr.pinchOpTimeout 1024).wf = false) ∧
    (∀ a0 a2, (Instr.cageCfgWrite a0 12 a2).wf = false) ∧
    (∀ a1, (Instr.laneDown 96 a1).wf = false) ∧
    (∀ a2 a4, (Instr.copyComplete 16 0 a2 0 a4).wf = false) ∧
    (∀ a2 a4, (Instr.copyComplete 0 4096 a2 0 a4).wf = false) ∧
    (∀ a2 a4, (Instr.copyComplete 0 0 a2 4096 a4).wf = false) ∧
    ((Instr.bmeClear 17).wf = false) :=
  ⟨fun _ => rfl,
    fun _ => rfl,
    rfl,
    fun _ _ => rfl,
    rfl,
    rfl,
    rfl,
    rfl,
    rfl,
    fun _ _ => rfl,
    fun _ _ => rfl,
    rfl,
    rfl,
    rfl,
    fun _ _ => rfl,
    fun _ => rfl,
    fun _ _ => rfl,
    fun _ _ => rfl,
    fun _ _ => rfl,
    rfl⟩

theorem test_ill_formed_4 :
    ((Instr.saffronLaneDown 4).wf = false) ∧
    (∀ a0 a2, (Instr.paceMapWrite a0 512 a2).wf = false) ∧
    (∀ a1 a2 a3, (Instr.sub { tile := 4096, ctx := .W } a1 a2 a3).wf = false) ∧
    (∀ a1 a2 a3, (Instr.addw { tile := 4096, ctx := .W } a1 a2 a3).wf = false) ∧
    (∀ a1 a2 a3, (Instr.lb { tile := 4096, ctx := .W } a1 a2 a3).wf = false) ∧
    (∀ a1 a2 a3, (Instr.beq { tile := 4096, ctx := .W } a1 a2 a3).wf = false) ∧
    (∀ a1 a2, (Instr.jal { tile := 4096, ctx := .W } a1 a2).wf = false) ∧
    (∀ a1 a2 a3 a4 a5, (Instr.msend { tile := 4096, ctx := .W } a1 a2 a3 a4 a5).wf = false) ∧
    (∀ a1 a2, (Instr.skstat { tile := 4096, ctx := .W } a1 a2).wf = false) ∧
    ((Instr.cvrst { tile := 4096, ctx := .W }).wf = false) ∧
    (∀ a1, (Instr.waitc { tile := 4096, ctx := .W } a1).wf = false) ∧
    (∀ a1 a2 a3, (Instr.demote { tile := 4096, ctx := .W } a1 a2 a3).wf = false) ∧
    (∀ a1 a2 a3, (Instr.vld { tile := 4096, ctx := .W } a1 a2 a3).wf = false) ∧
    (∀ a1 a2 a3 a4, (Instr.vadd { tile := 4096, ctx := .W } a1 a2 a3 a4).wf = false) ∧
    (∀ a1 a2 a3 a4 a5 a6, (Instr.vdot { tile := 4096, ctx := .W } a1 a2 a3 a4 a5 a6).wf = false) ∧
    (∀ a1 a2 a3 a4 a5, (Instr.vcvt { tile := 4096, ctx := .W } a1 a2 a3 a4 a5).wf = false) ∧
    (∀ a1 a2 a3 a4 a5, (Instr.vqnt { tile := 4096, ctx := .W } a1 a2 a3 a4 a5).wf = false) ∧
    (∀ a1 a2, (Instr.xaddv { tile := 4096, ctx := .W } a1 a2).wf = false) ∧
    (∀ a1 a2 a3 a4, (Instr.scoreb { tile := 4096, ctx := .W } a1 a2 a3 a4).wf = false) ∧
    (∀ a1 a2 a3, (Instr.tkins { tile := 4096, ctx := .W } a1 a2 a3).wf = false) :=
  ⟨rfl,
    fun _ _ => rfl,
    fun _ _ _ => rfl,
    fun _ _ _ => rfl,
    fun _ _ _ => rfl,
    fun _ _ _ => rfl,
    fun _ _ => rfl,
    fun _ _ _ _ _ => rfl,
    fun _ _ => rfl,
    rfl,
    fun _ => rfl,
    fun _ _ _ => rfl,
    fun _ _ _ => rfl,
    fun _ _ _ _ => rfl,
    fun _ _ _ _ _ _ => rfl,
    fun _ _ _ _ _ => rfl,
    fun _ _ _ _ _ => rfl,
    fun _ _ => rfl,
    fun _ _ _ _ => rfl,
    fun _ _ _ => rfl⟩

theorem test_ill_formed_5 :
    (∀ a1 a2 a3, (Instr.promote { tile := 4096, ctx := .W } a1 a2 a3).wf = false) ∧
    (∀ a1 a2, (Instr.skwait { tile := 4096, ctx := .W } a1 a2).wf = false) :=
  ⟨fun _ _ _ => rfl,
    fun _ _ => rfl⟩

/-- The well-formed edge of some of these checks. -/
theorem test_well_formed : (Instr.add { tile := 4095, ctx := .S } 31 0 1).wf = true ∧ (Instr.pickTodSet bar2 (2 ^ 48 - 1)).wf = true := ⟨rfl, rfl⟩

end Sys2Proof.Tests
end

/-! ### Completion of ring entries (14_host_interface.md R466 to R468) -/

namespace Sys2Proof.Machine
open Sys2Proof

/-! What leaves the queues and the orphans alone. -/

@[simp] theorem State.traceInto_rings (s : State) (cls kind key source inst status : Nat) (detail : List Byte) :
    (s.traceInto cls kind key source inst status detail).rings = s.rings := by
  simp only [State.traceInto]
  split <;> rfl

@[simp] theorem State.fire_rings (s : State) (mask : Nat) : (s.fire mask).rings = s.rings := by
  simp only [State.fire, apply_ite State.rings, State.put_rings, State.raise_rings, State.setReg_rings,
    State.traceInto_rings, ite_self]

@[simp] theorem State.traceBy_rings (s : State) (cls kind i role source status : Nat) (detail : List Byte) :
    (s.traceBy cls kind i role source status detail).rings = s.rings := by
  simp only [State.traceBy, apply_ite State.rings, State.fire_rings, State.traceInto_rings, ite_self]

@[simp] theorem State.ringPut_rings (s : State) (i q a : Nat) (bs : List Byte) : (s.ringPut i q a bs).rings = s.rings := by
  unfold State.ringPut
  split <;> rfl

@[simp] theorem State.logHeld_queues (s : State) (i : Nat) (r : HeldRec) :
    (s.logHeld i r).rings.queues = s.rings.queues := by
  simp only [State.logHeld]
  split <;> rfl

@[simp] theorem State.logHeld_orphans (s : State) (i : Nat) (r : HeldRec) :
    (s.logHeld i r).rings.orphans = s.rings.orphans := by
  simp only [State.logHeld]
  split <;> rfl

/-- A queue that is not the default one reads as it was written. -/
theorem State.queue_setQueue_of_ne (s : State) (i q : Nat) {x : Queue} (hx : x ≠ {}) : (s.setQueue i q x).queue i q = x := by
  simp only [State.queue, State.setQueue, mset, if_neg hx, mget_tput, if_true]

/-! ### The entry that waits at a slot -/

/-- Whether an entry stands at `slot` and has not completed. -/
abbrev Entry.waitsAt (slot : Nat) : Entry → Bool := fun e => e.slot == slot && !e.done

/-- The entry that waits at a slot is looked for in the window, then among the orphans. -/
theorem State.entry?_eq (s : State) (i q slot : Nat) :
    s.entry? i q slot = ((s.queue i q).window.find? (Entry.waitsAt slot)).or
      ((mget [] s.rings.orphans (i * 4096 + q)).find? (Entry.waitsAt slot)) := by
  unfold State.entry?
  split <;> simp only [*, Option.some_or, Option.none_or]

/-- Which entry waits depends on the queues and the orphans alone. -/
theorem State.entry?_congr {s t : State} (hq : t.rings.queues = s.rings.queues) (ho : t.rings.orphans = s.rings.orphans)
    (i q slot : Nat) : t.entry? i q slot = s.entry? i q slot := by
  simp only [State.entry?_eq, State.queue, hq, ho]

/-- Completing a slot where no entry waits does nothing. -/
theorem State.complete_of_entry?_eq_none {s : State} {i q slot : Nat} (h : s.entry? i q slot = none) (st res : Nat) :
    s.complete i q slot st res = s := by
  rw [State.entry?_eq, ← List.find?_append] at h
  simp only [State.complete, h]

/-- Completing a slot where an entry waits completes it, and writes a trace record. -/
theorem State.complete_of_entry?_eq_some {s : State} {i q slot : Nat} {e : Entry} (h : s.entry? i q slot = some e)
    (st res : Nat) :
    s.complete i q slot st res = (s.completeEntry i q slot st res).traceBy 3 2 i 2 q st (ringDetail e res) := by
  rw [State.entry?_eq, ← List.find?_append] at h
  simp only [State.complete, h]

/-! ### A completed entry of the window -/

/-- The queue once the entries that wait at `slot` have completed (R467, R468). -/
def Queue.completedAt (x : Queue) (slot st res : Nat) : Queue :=
  ({ x with
    window := modifyWhere (Entry.waitsAt slot) (fun e => { e with done := true, status := st, result := res }) x.window
    uncovered := x.uncovered + 1 } : Queue).advance

theorem Queue.completedAt_ne_default (x : Queue) (slot st res : Nat) : x.completedAt slot st res ≠ {} :=
  fun h => Nat.succ_ne_zero x.uncovered (congrArg Queue.uncovered h)

/-- No entry of that queue waits at `slot`: those that did are done, and the head only drops entries. -/
theorem Queue.find?_completedAt (x : Queue) (slot st res : Nat) :
    (x.completedAt slot st res).window.find? (Entry.waitsAt slot) = none := by
  refine List.find?_eq_none.2 fun e he => ?_
  obtain ⟨e', -, rfl⟩ := List.mem_map.1 ((List.dropWhile_sublist _).mem he)
  split
  · simp [Entry.waitsAt]
  · assumption

/-- What completing an entry of the window makes of the queues and the orphans. -/
theorem State.completeEntry_of_window {s : State} {i q slot : Nat} {e : Entry}
    (h : (s.queue i q).window.find? (Entry.waitsAt slot) = some e) (st res : Nat) :
    (s.completeEntry i q slot st res).rings.queues =
        (s.setQueue i q ((s.queue i q).completedAt slot st res)).rings.queues ∧
      (s.completeEntry i q slot st res).rings.orphans = s.rings.orphans := by
  simp only [State.completeEntry, h]
  split
  · simp only [State.logHeld_queues, State.logHeld_orphans]
    exact ⟨rfl, rfl⟩
  · simp only [State.ringPut_rings]
    exact ⟨rfl, rfl⟩

/-- Once an entry of the window has completed and no orphan stands at its slot, no entry waits there. -/
theorem State.entry?_completeEntry {s : State} {i q slot : Nat} {e : Entry}
    (h : (s.queue i q).window.find? (Entry.waitsAt slot) = some e)
    (ho : (mget [] s.rings.orphans (i * 4096 + q)).find? (Entry.waitsAt slot) = none) (st res : Nat) :
    (s.completeEntry i q slot st res).entry? i q slot = none := by
  obtain ⟨hq, horph⟩ := State.completeEntry_of_window h st res
  rw [State.entry?_congr (t := s.completeEntry i q slot st res) hq horph, State.entry?_eq,
    State.queue_setQueue_of_ne s i q (Queue.completedAt_ne_default _ _ _ _), Queue.find?_completedAt]
  exact ho

/-- After `complete` no entry waits at the slot, where no orphan stands. -/
theorem State.entry?_complete {s : State} {i q slot : Nat}
    (ho : (mget [] s.rings.orphans (i * 4096 + q)).find? (Entry.waitsAt slot) = none) (st res : Nat) :
    (s.complete i q slot st res).entry? i q slot = none := by
  have hwin : s.entry? i q slot = (s.queue i q).window.find? (Entry.waitsAt slot) := by
    rw [State.entry?_eq, ho, Option.or_none]
  cases h : s.entry? i q slot with
  | none => rwa [State.complete_of_entry?_eq_none h]
  | some e =>
    rw [State.complete_of_entry?_eq_some h,
      State.entry?_congr (congrArg _ (State.traceBy_rings ..)) (congrArg _ (State.traceBy_rings ..))]
    exact State.entry?_completeEntry (hwin ▸ h) ho st res

/-- Settles O47: after the first completion no entry waits at the slot, and completing a slot where none waits does
nothing. -/
theorem completedOnce : Obligations.CompletedOnce := by
  intro s i q slot st res st' res' ho
  have hfind : (mget [] s.rings.orphans (i * 4096 + q)).find? (Entry.waitsAt slot) = none :=
    List.find?_eq_none.2 fun e he => by simp [Entry.waitsAt, ho e he]
  have hnone := State.entry?_complete hfind st res
  exact ⟨hnone, State.complete_of_entry?_eq_none hnone st' res'⟩

end Sys2Proof.Machine

/-! ### Loads and stores of the local store (04_spindle_isa_core.md R154, R155) -/

namespace Sys2Proof.Machine
open Sys2Proof

/-! Accesses inside the range and aligned take no exception. -/

theorem loadFault_eq_none {ea : Word} {n : Nat} (hr : ea.toNat ≤ 0x2FFFF) (ha : ea.toNat % n = 0) :
    loadFault ea n = none := by
  simp [loadFault, hr, ha]

theorem storeFault_eq_none {ea : Word} {n : Nat} (hl : 0x8000 ≤ ea.toNat) (hr : ea.toNat ≤ 0x2FFFF)
    (ha : ea.toNat % n = 0) : storeFault ea n = none := by
  simp [storeFault, hl, hr, ha]

/-- A load that takes no exception: rd takes the extension of the `n` bytes at the effective address. -/
theorem State.load_eq {s : State} {i : Issue} (h : s.ready i) (hread : i.read = .good) (rd a : SReg) (imm : BitVec 16)
    {n : Nat} (ext : Nat → Word) (hf : loadFault (s.ea i a imm) n = none) :
    s.load i rd a imm n ext = done (s.result i rd (ext (s.num (localPa i.tile (s.ea i a imm).toNat) n))) := by
  simp only [State.load, State.issue_ready h, hf, State.readLocal, hread]
  rfl

/-- A store that takes no exception: the low `n` bytes of rs2 stand at the effective address. -/
theorem State.store_eq {s : State} {i : Issue} (h : s.ready i) (src a : SReg) (imm : BitVec 16)
    {n : Nat} (hf : storeFault (s.ea i a imm) n = none) :
    s.store i src a imm n =
      done ((s.writeLocal i (s.ea i a imm).toNat (leBytes n (s.rs i src).toNat)).advance i) := by
  simp only [State.store, State.issue_ready h, hf]
  rfl

/-- A number in memory is its first byte and 256 times the number in the rest. -/
theorem State.num_succ (s : State) (pa n : Nat) : s.num pa (n + 1) = (s.byte pa).toNat + 256 * s.num (pa + 1) n := by
  simp only [State.num, State.bytes, List.range_succ_eq_map, List.map_cons, List.map_map, leNat, Nat.add_zero]
  congr 4
  funext k
  simp only [Function.comp, Nat.succ_eq_add_one]
  congr 1
  omega

theorem State.num_one (s : State) (pa : Nat) : s.num pa 1 = (s.byte pa).toNat := by
  rw [State.num_succ]
  rfl

theorem State.num_two (s : State) (pa : Nat) : s.num pa 2 = (s.byte pa).toNat + 2 ^ 8 * (s.byte (pa + 1)).toNat := by
  rw [State.num_succ, State.num_one]
  omega

theorem State.num_four (s : State) (pa : Nat) :
    s.num pa 4 = (s.byte pa).toNat + 2 ^ 8 * (s.byte (pa + 1)).toNat + 2 ^ 16 * (s.byte (pa + 2)).toNat +
      2 ^ 24 * (s.byte (pa + 3)).toNat := by
  rw [State.num_succ, State.num_succ, State.num_two]
  simp only [Nat.add_assoc, Nat.reduceAdd]
  omega

theorem State.num_eight (s : State) (pa : Nat) :
    s.num pa 8 = (s.byte pa).toNat + 2 ^ 8 * (s.byte (pa + 1)).toNat + 2 ^ 16 * (s.byte (pa + 2)).toNat +
      2 ^ 24 * (s.byte (pa + 3)).toNat + 2 ^ 32 * (s.byte (pa + 4)).toNat + 2 ^ 40 * (s.byte (pa + 5)).toNat +
      2 ^ 48 * (s.byte (pa + 6)).toNat + 2 ^ 56 * (s.byte (pa + 7)).toNat := by
  rw [State.num_succ, State.num_succ, State.num_succ, State.num_succ, State.num_four]
  simp only [Nat.add_assoc, Nat.reduceAdd]
  omega

/-- What a store of the low `n` bytes of `x` at `pa` makes of the machine: they stand at `pa`, lowest first, every other
byte stays, the issuing context moves on, and nothing else changes. -/
def State.storesTo (s t : State) (i : Issue) (pa n x : Nat) : Prop :=
  let k := s.ctx i.tile i.ctx
  (∀ j, j < n → t.byte (pa + j) = BitVec.ofNat 8 (x / 2 ^ (8 * j))) ∧
    (∀ p, p < pa ∨ pa + n ≤ p → t.byte p = s.byte p) ∧
    t.ctx i.tile i.ctx = { k with pc := k.pc + 4, retired := k.retired + 1, wait := none, crossed := false } ∧
    (∀ u c, (u, c) ≠ (i.tile, i.ctx) → t.ctx u c = s.ctx u c) ∧
    t = { s with mem := t.mem, til := { s.til with tiles := t.til.tiles } }

theorem State.advance_writeLocal {s : State} (hs : s.Sound) {i : Issue} (hpc : s.pcOf i ≠ 0x7FFC) (off n x : Nat) :
    s.storesTo ((s.writeLocal i off (leBytes n x)).advance i) i (localPa i.tile off) n x := by
  have hw : (s.writeLocal i off (leBytes n x)).Sound := State.setBytes_sound hs _ _
  have hmem : sortedKeys s.mem = true := ((canonical_iff _ _).1 hs.mem).1
  have hctx : ∀ u c, (s.writeLocal i off (leBytes n x)).ctx u c = s.ctx u c := fun u c => by
    simp only [State.ctx, State.tile, State.writeLocal_til]
  have hpc' : (s.writeLocal i off (leBytes n x)).pcOf i ≠ 0x7FFC := by rwa [State.pcOf, hctx]
  have hbyte : ∀ p, ((s.writeLocal i off (leBytes n x)).advance i).byte p =
      if localPa i.tile off ≤ p ∧ p < localPa i.tile off + n then (leBytes n x).getD (p - localPa i.tile off) 0
      else s.byte p := fun p => by
    have hset := State.byte_setBytes hmem (localPa i.tile off) p (leBytes n x)
    rw [leBytes_length] at hset
    rw [State.advance_eq hpc']
    exact hset
  refine ⟨fun j hj => ?_, fun p hp => ?_, ?_, fun u c huc => ?_, ?_⟩
  · rw [hbyte, if_pos ⟨by omega, by omega⟩, Nat.add_sub_cancel_left, leBytes_getD n x j hj]
  · rw [hbyte, if_neg (by omega)]
  · rw [State.advance_eq hpc', State.ctx_upd hw, if_pos ⟨rfl, rfl⟩, State.pcOf, hctx]
    rfl
  · rw [State.advance_eq hpc', State.ctx_upd hw, if_neg fun h => huc (Prod.ext h.1 h.2), hctx]
  · rw [State.advance_eq hpc', State.upd_eq]
    unfold State.writeLocal
    rw [State.setBytes_eq]

/-- A store that takes no exception, below the top of the instruction store. -/
theorem State.store_storesTo {s : State} (hs : s.Sound) {i : Issue} (h : s.ready i) (hpc : s.pcOf i ≠ 0x7FFC)
    (src a : SReg) (imm : BitVec 16) {n : Nat} (hf : storeFault (s.ea i a imm) n = none) :
    ∃ t, s.store i src a imm n = done t ∧
      s.storesTo t i (localPa i.tile (s.ea i a imm).toNat) n (s.rs i src).toNat :=
  ⟨_, State.store_eq h src a imm hf, State.advance_writeLocal hs hpc _ n _⟩

/-- Settles O7: the loads are `State.load` at four sizes, whose little-endian number is written out byte by byte, and the
stores `State.store` at four sizes. -/
theorem loadAndStoreResults : Obligations.LoadAndStoreResults := by
  constructor
  · intro s i rd a imm h hread ea _ _ _ hr
    have load {n : Nat} (ext : Nat → Word) (ha : ea.toNat % n = 0) :=
      State.load_eq h hread rd a imm ext (loadFault_eq_none hr ha)
    refine ⟨(load (sextN 8) (Nat.mod_one _)).trans ?_, (load zextN (Nat.mod_one _)).trans ?_,
      fun ha => ⟨(load (sextN 16) ha).trans ?_, (load zextN ha).trans ?_⟩,
      fun ha => ⟨(load (sextN 32) ha).trans ?_, (load zextN ha).trans ?_⟩, fun ha => (load zextN ha).trans ?_⟩
    · rw [State.num_one]; rfl
    · rw [State.num_one]; rfl
    · rw [State.num_two]; rfl
    · rw [State.num_two]; rfl
    · rw [State.num_four]; rfl
    · rw [State.num_four]; rfl
    · rw [State.num_eight]; rfl
  · intro s i src a imm hs h hpc ea _ _ _ hl hr
    have store {n : Nat} (ha : ea.toNat % n = 0) :=
      State.store_storesTo hs h hpc src a imm (storeFault_eq_none hl hr ha)
    exact ⟨store (Nat.mod_one _), store, store, store⟩

end Sys2Proof.Machine

/-! ### Register accesses (00_scope.md R18, R32) -/

namespace Sys2Proof.Machine
open Sys2Proof

/-- A card whose tile 0 is a MANAGER tile, and where a value of KEY_GEN waits for SEC_KEY_ARG, a register whose settings do
not wait for the wall. REGISTER_WRITE lists under `later` only settings that wait, so this state is not one that a run is
meant to meet; but `State.Sound`, all that the statement asks, says nothing of `later`. -/
def staleKeyArg : State := { State.reset.put (TILE_ROLE_ROLE 0) 1 with later := [(SEC_KEY_ARG, 2 ^ 36)] }

theorem State.reset_sound : State.reset.Sound := ⟨rfl, rfl, ⟨rfl, by simp [State.reset]⟩, rfl, by simp [State.reset]⟩

theorem staleKeyArg_sound : staleKeyArg.Sound :=
  (State.put_sound State.reset_sound (TILE_ROLE_ROLE 0) 1).upd rfl rfl rfl rfl

/-- The row of SEC_KEY_ARG. -/
def keyArgDef : RegDef :=
  ⟨SEC_KEY_ARG, 0x8, 1, 0x8, 1, 64, 0x0, [⟨0, 20, .rw⟩, ⟨20, 16, .rw⟩, ⟨36, 16, .rw⟩, ⟨52, 1, .rw⟩]⟩

/-- The manager's write of the low half reaches the register. -/
theorem staleKeyArg_reach :
    ((staleKeyArg.reach (.manager 0) SEC_KEY_ARG).bind fun a => regAt a 32) = some (keyArgDef, SEC_KEY_ARG, 0) := by
  decide +kernel

/-- SEC_KEY_ARG acts by no rule of its own. -/
theorem keyArg_plain (s : State) (r : Requester) (v rw lo w : Nat) :
    s.devWrite r SEC_KEY_ARG v rw = none ∧ s.arrayWrite r SEC_KEY_ARG v rw lo w = none ∧
      s.instWrite r SEC_KEY_ARG v rw = none :=
  ⟨rfl, rfl, rfl⟩

/-- Refutes O60, by its clause that a write leaves the fields it does not cover: over a register that does not wait for the
wall, a write of one half takes the other half from `later`, where `staleKeyArg` lists another KEY_GEN than the one in
force. The clause wants the hypothesis that `later` lists only settings that wait (`wallReg`). -/
theorem not_registerAccesses : ¬ Obligations.RegisterAccesses := by
  intro h
  obtain ⟨-, -, hwrite, -⟩ := h staleKeyArg (.manager 0) SEC_KEY_ARG 32 0 SEC_KEY_ARG 0 keyArgDef ⟨36, 16, .rw⟩ false
    staleKeyArg_sound
  obtain ⟨-, hnow⟩ := hwrite staleKeyArg_reach (by decide)
  obtain ⟨t, ht, -, -, -, -, -, huncovered⟩ := hnow (fun v rw => keyArg_plain ..) (by decide +kernel)
  have hold : t.get SEC_KEY_ARG_KEY_GEN = staleKeyArg.get SEC_KEY_ARG_KEY_GEN := huncovered (.inr (by decide))
  have hnew : (staleKeyArg.writeAt (.manager 0) SEC_KEY_ARG 32 0).get SEC_KEY_ARG_KEY_GEN ≠
    staleKeyArg.get SEC_KEY_ARG_KEY_GEN := by decide +kernel
  cases ht
  exact hnew hold

end Sys2Proof.Machine

/-! ### Fields written one after another -/

namespace Sys2Proof.Machine
open Sys2Proof

/-- Whether no two fields of a list share a bit: `apart`, as a test that evaluates. -/
def fieldsApart : List RegFld → Bool
  | [] => true
  | f :: l =>
    (l.all fun g => f.reg != g.reg || decide (f.lo + f.w ≤ g.lo) || decide (g.lo + g.w ≤ f.lo)) && fieldsApart l

theorem pairwise_apart_of_fieldsApart {l : List RegFld} (h : fieldsApart l = true) : l.Pairwise apart := by
  induction l with
  | nil => exact .nil
  | cons f l ih =>
    simp only [fieldsApart, Bool.and_eq_true, List.all_eq_true, Bool.or_eq_true, bne_iff_ne, decide_eq_true_eq,
      or_assoc] at h
    exact .cons h.1 (ih h.2)

theorem apart_of_fieldsApart {f g : RegFld} (h : fieldsApart [f, g] = true) : apart f g :=
  List.rel_of_pairwise_cons (pairwise_apart_of_fieldsApart h) (List.mem_cons_self ..)

/-- `State.sets_puts` for an outcome that is known to write the listed fields, which the test finds apart. -/
theorem State.sets_of_puts {u : State} {o : Host.Outcome State Fault Refusal} {l : List (RegFld × Nat)}
    (h : csrOk u.csr) (ho : o = done (l.foldl (fun s p => s.put p.1 p.2) u))
    (hl : fieldsApart (l.map Prod.fst) = true) : u.sets o l :=
  ho ▸ State.sets_puts h l (List.pairwise_map.1 (pairwise_apart_of_fieldsApart hl))

/-- A field reads as before a write of another one that the test finds apart. -/
theorem State.get_put_apart {s : State} (h : csrOk s.csr) {f g : RegFld} (v : Nat) (hfg : fieldsApart [f, g] = true) :
    (s.put f v).get g = s.get g :=
  State.get_put_ne h (apart_of_fieldsApart hfg) v

/-! ### The front of the queue -/

/-- Settles O1: `State.idle` moves the clock below the edge cycle of the pick and is the identity from there on. -/
theorem stepRunsFrontCommand : Obligations.StepRunsFrontCommand := by
  refine ⟨fun c s => rfl, fun s hs => ⟨s.idle, ?_, ?_⟩⟩
  · simp only [step, hs]
  · by_cases h : s.cyc < s.edge
    · rw [State.idle, if_pos h]
      exact ⟨hs, rfl, rfl, fun _ => ⟨rfl, rfl⟩, fun h' => absurd h (Nat.not_lt.2 h'), fun _ => h⟩
    · rw [State.idle, if_neg h]
      exact ⟨hs, rfl, rfl, fun h' => absurd h' h, fun _ => rfl, id⟩

/-! ### Numbers in byte lists -/

theorem leNat_leBytes (k n : Nat) : leNat (leBytes k n) = n % 256 ^ k := by
  induction k generalizing n with
  | zero => simp [leBytes, leNat, Nat.mod_one]
  | succ k ih =>
    rw [leBytes, leNat, ih, BitVec.toNat_ofNat, Nat.pow_succ' (m := 256)]
    exact Nat.mod_mul.symm

theorem beNat_beBytes (k n : Nat) : beNat (beBytes k n) = n % 256 ^ k := by
  rw [beNat, beBytes, List.reverse_reverse, leNat_leBytes]

@[simp] theorem beBytes_length (k n : Nat) : (beBytes k n).length = k := by
  rw [beBytes, List.length_reverse, leBytes_length]

/-- The number that stands as `k` bytes behind `a` is read there. -/
theorem beAt_append_beBytes (a r : List Byte) (k n : Nat) :
    beAt (a ++ (beBytes k n ++ r)) a.length k = n % 256 ^ k := by
  have h : sliceB (a ++ (beBytes k n ++ r)) a.length k = beBytes k n := by
    simp [sliceB]
  rw [beAt, h, beNat_beBytes]

/-! ### Sync symbols -/

theorem crc8Step_lt {c : Nat} (h : c < 2 ^ 8) : crc8Step c < 2 ^ 8 := by
  unfold crc8Step
  split
  · exact Nat.xor_lt_two_pow (Nat.mod_lt _ (by decide)) (by decide)
  · omega

theorem iterN_crc8Step_lt (n : Nat) {c : Nat} (h : c < 2 ^ 8) : iterN crc8Step n c < 2 ^ 8 := by
  induction n generalizing c with
  | zero => exact h
  | succ n ih => exact ih (crc8Step_lt h)

theorem crc8_lt (l : List Byte) : crc8 l < 2 ^ 8 :=
  List.foldlRecOn (motive := (· < 2 ^ 8)) l _ (Nat.two_pow_pos 8) fun _ hc b _ =>
    iterN_crc8Step_lt 8 (Nat.xor_lt_two_pow hc b.isLt)

theorem State.syncSymbol_length (s : State) (g : Nat) : (s.syncSymbol g).length = 8 := rfl

/-- The last byte of a sync symbol is the CRC of the others. -/
theorem State.syncSymbol_crc (s : State) (g : Nat) :
    byteAt (s.syncSymbol g) 7 = crc8 ((s.syncSymbol g).take 7) :=
  Nat.mod_eq_of_lt (crc8_lt _)

/-- Byte 1 of a sync symbol: the alert, the state and the hop count. -/
theorem State.byteAt_syncSymbol_one (s : State) (g : Nat) :
    byteAt (s.syncSymbol g) 1 =
      (if s.on PICK_CTRL_ALERT || s.dom.alertOwn || s.dom.alertLeft != 0 then 128 else 0) + s.domState * 16 +
        s.get PICK_STATUS_HOPS := by
  have hstate : s.domState < 8 := bits_lt ..
  have hhops : s.get PICK_STATUS_HOPS < 16 := bits_lt ..
  refine Nat.mod_eq_of_lt ?_
  split <;> omega

theorem State.beAt_syncSymbol_domain (s : State) (g : Nat) :
    beAt (s.syncSymbol g) 2 2 = s.get PICK_SYNC_CFG_DOMAIN_ID :=
  (beNat_beBytes 2 _).trans (Nat.mod_eq_of_lt (bits_lt ..))

/-- Bytes 4 to 6 of a sync symbol: the pick bits above the offset. -/
theorem State.beAt_syncSymbol_offset (s : State) {g : Nat} (h : mget 0 s.dom.rxOff g < 2 ^ 20) :
    beAt (s.syncSymbol g) 4 3 = s.pick % 16 * 2 ^ 20 + mget 0 s.dom.rxOff g :=
  (beNat_beBytes 3 _).trans (Nat.mod_eq_of_lt (by omega))

/-- What byte 1 of a sync symbol holds, field by field (Table 2.7). -/
theorem syncSymbol_byte_fields (alert : Bool) {state hops : Nat} (hstate : state < 8) (hhops : hops < 16) :
    let b := (if alert then 128 else 0) + state * 16 + hops
    bit b 7 = alert ∧ bits b 4 3 = state ∧ b % 16 = hops := by
  cases alert <;> simp [bit, bits, Nat.testBit_eq_decide_div_mod_eq] <;> omega

/-- Settles O24: code and CRC are right, and each field of Table 2.7 is read from the bits that it was put in. -/
theorem syncSymbolReadsBack : Obligations.SyncSymbolReadsBack := by
  intro s g hoff
  have hcode : byteAt (s.syncSymbol g) 0 = 0x5C := rfl
  obtain ⟨halert, hstate, hhops⟩ := syncSymbol_byte_fields
    (s.on PICK_CTRL_ALERT || s.dom.alertOwn || s.dom.alertLeft != 0)
    (show s.domState < 8 from bits_lt ..) (show s.get PICK_STATUS_HOPS < 16 from bits_lt ..)
  have hpick : (s.pick % 16 * 2 ^ 20 + mget 0 s.dom.rxOff g) / 2 ^ 20 = s.pick % 16 := by omega
  have hlow : sgn 20 (s.pick % 16 * 2 ^ 20 + mget 0 s.dom.rxOff g) = sgn 20 (mget 0 s.dom.rxOff g) := by
    simp only [sgn, Nat.mul_add_mod_self_right]
  simp only [readSync, s.syncSymbol_length, hcode, s.syncSymbol_crc, decide_true, Bool.and_self, if_true,
    s.byteAt_syncSymbol_one, s.beAt_syncSymbol_domain, s.beAt_syncSymbol_offset hoff, halert, hstate, hhops, hpick,
    hlow]
  rfl

end Sys2Proof.Machine

namespace Sys2Proof.Machine
open Sys2Proof

/-! ### The domain state (R97 to R104) -/

/-- The lanes after the symbols of a list of (group, lane) have been put on those of its lanes that are up. -/
theorem tfind_foldl_tput_if (up : Nat → Bool) (sym : Nat → List Byte) (ls : List (Nat × Nat)) (m : SMap (List Byte))
    (hg : ∀ p ∈ ls, p.1 = p.2 / 8) (l : Nat) :
    tfind (ls.foldl (fun m p => if up p.2 then tput m p.2 (sym p.1) else m) m) l =
      if (∃ p ∈ ls, p.2 = l) ∧ up l = true then some (sym (l / 8)) else tfind m l := by
  induction ls generalizing m with
  | nil => simp
  | cons p ls ih =>
    have hp : p.1 = p.2 / 8 := hg p (List.mem_cons_self ..)
    rw [List.foldl_cons, ih _ fun q hq => hg q (List.mem_cons_of_mem _ hq)]
    by_cases hl : p.2 = l
    · subst hl
      by_cases hup : up p.2 = true <;> simp [hup, tfind_tput, hp]
    · have hstay : tfind (if up p.2 then tput m p.2 (sym p.1) else m) l = tfind m l := by
        split
        · rw [tfind_tput, if_neg (Ne.symm hl)]
        · rfl
      simp only [hstay, List.exists_mem_cons_iff, hl, false_or]

/-- The lanes of the groups `gs`, each with its group. -/
theorem mem_groupLanes {gs : List Nat} {p : Nat × Nat} :
    p ∈ (gs.flatMap fun g => (List.range 8).map fun k => (g, 8 * g + k)) ↔ p.1 ∈ gs ∧ p.1 = p.2 / 8 := by
  obtain ⟨g, l⟩ := p
  simp only [List.mem_flatMap, List.mem_map, List.mem_range, Prod.mk.injEq]
  constructor
  · rintro ⟨g', hg, k, hk, rfl, rfl⟩
    exact ⟨hg, by omega⟩
  · rintro ⟨hg, hl⟩
    exact ⟨g, hg, l % 8, by omega, rfl, by omega⟩

/-- SYNC_SYMBOL_SEND of an adapter that sends: what each lane then carries. -/
theorem State.syncSymbolSend_lanes {s : State} (h : s.sendsSync = true) :
    ∃ t, exec .syncSymbolSend s = done t ∧ t = { s with warp := { s.warp with lane := t.warp.lane } } ∧
      ∀ l, tfind t.warp.lane l = if s.syncGroups.contains (l / 8) && s.laneUp l then some (s.syncSymbol (l / 8))
        else tfind s.warp.lane l := by
  refine ⟨_, if_pos h, rfl, fun l => ?_⟩
  refine (tfind_foldl_tput_if s.laneUp s.syncSymbol _ s.warp.lane (fun p hp => (mem_groupLanes.1 hp).2) l).trans ?_
  have hgroup : (∃ p ∈ s.syncGroups.flatMap fun g => (List.range 8).map fun k => (g, 8 * g + k), p.2 = l) ↔
      l / 8 ∈ s.syncGroups := by
    simp only [mem_groupLanes]
    exact ⟨fun ⟨p, ⟨hp, hd⟩, hl⟩ => by rwa [← hl, ← hd], fun hl => ⟨(l / 8, l), ⟨hl, rfl⟩, rfl⟩⟩
  simp only [hgroup, Bool.and_eq_true, List.contains_iff_mem]

/-- Settles O22: each move is the fields that its row of Table 2.9 writes, none of which shares a bit with another. -/
theorem domainStateMoves : Obligations.DomainStateMoves := by
  refine ⟨fun s hs => ⟨?_, ?_, ?_, ?_, ?_⟩, fun s => ⟨State.syncSymbolSend_lanes, fun g b a t on => ⟨?_, ?_, ?_⟩⟩⟩
  · -- LISTEN_ACQUIRE
    intro hst hcount
    exact State.sets_of_puts hs.csr (if_pos (by simp [hst, hcount])) (by rfl)
  · -- LOCK_ACQUIRED
    intro hst hgood
    exact State.sets_of_puts hs.csr (if_pos (by simp [hst, hgood])) (by rfl)
  · -- HOLDOVER_LIMIT_EXPIRY
    intro hst
    exact State.sets_of_puts hs.csr (if_pos hst) (by rfl)
  · -- PARENT_LOSS
    intro hm hlost
    have hstays : ¬ (s.isMaster || decide (s.dom.lost < 2)) = true := by simp [hm]; omega
    refine ⟨fun hst => ?_, fun hst halt => ?_, fun hst halt => ?_⟩
    · exact State.sets_of_puts hs.csr ((if_neg hstays).trans (if_pos hst)) (by rfl)
    · exact State.sets_of_puts hs.csr
        ((if_neg hstays).trans ((if_neg (by simp [hst])).trans ((if_pos hst).trans (if_pos halt)))) (by rfl)
    · exact State.sets_of_puts hs.csr
        ((if_neg hstays).trans ((if_neg (by simp [hst])).trans ((if_pos hst).trans (if_neg (by simp [halt]))))) (by rfl)
  · -- SUCCESSOR_TAKEOVER
    intro hrole hst hm hlost
    exact State.sets_of_puts hs.csr (if_pos (by simpa [hrole, hm, hlost, State.domOn] using hst)) (by rfl)
  · -- a symbol that does not read, in LISTEN on the parent's group
    intro hb hst hg
    change execSyncSymbolReceive g b a t on s = _
    simp only [execSyncSymbolReceive, hb, hst, hg, decide_true, Bool.and_self, if_true]
  · -- a symbol that does not read, in another state
    intro hb hst
    change execSyncSymbolReceive g b a t on s = _
    simp only [execSyncSymbolReceive, hb, hst, decide_false, Bool.false_and, Bool.false_eq_true, if_false]
  · -- a symbol that reads, to an adapter that is OFF or master
    intro y hb hidle halert
    change execSyncSymbolReceive g b a t on s = _
    simp only [execSyncSymbolReceive, hb, halert, Bool.and_false, Bool.false_eq_true, if_false]
    have hquiet : (decide (s.domState = 0) || s.isMaster) = true := by simpa using hidle
    exact if_pos hquiet

end Sys2Proof.Machine

namespace Sys2Proof.Machine
open Sys2Proof

/-! ### References and wall time (R98, R105 to R110) -/

theorem clampAdj_bounds (x : Int) : -54975581 ≤ clampAdj x ∧ clampAdj x ≤ 54975581 := by
  unfold clampAdj
  omega

/-- A servo step writes a frequency correction within ±50 ppm and leaves the rest of the domain's state. -/
theorem State.servoStep_adj {s : State} (h : csrOk s.csr) :
    s.servoStep.dom = s.dom ∧ ∃ x : Int, -54975581 ≤ x ∧ x ≤ 54975581 ∧
      s.servoStep.get PICK_FREQ_ADJ_ADJ = (x % 2 ^ 32).toNat := by
  obtain ⟨hlow, hhigh⟩ := clampAdj_bounds
    (sgn 32 (s.get PICK_FREQ_ADJ_ADJ) + ((Config.freeNat s.free % 219903 : Nat) - 109951))
  refine ⟨rfl, _, hlow, hhigh, (State.get_put (s := s.tick) h PICK_FREQ_ADJ_ADJ _).trans (Nat.mod_eq_of_lt ?_)⟩
  change (_ % ((2 ^ 32 : Nat) : Int)).toNat < 2 ^ 32
  omega

/-- Settles O23: each command is run along the branch that its condition takes, which ends in writes of fields apart
from one another, or in the state that the statement gives. -/
theorem referencesAndWallTime : Obligations.ReferencesAndWallTime := by
  intro s pick cyc sec half t adj r hs
  refine ⟨?_, ?_, ?_, ?_, ?_, ?_, ?_, ?_, ?_, ?_, ?_, ?_, ?_⟩
  · -- ACQUIRE_EXCHANGE_COMPLETE
    intro hst hm hstep
    exact State.sets_of_puts hs.csr (if_pos (by simp [hst, hm, hstep])) (by rfl)
  · -- FREQUENCY_ESTIMATE_DONE
    intro hst hest hservo
    exact State.sets_of_puts hs.csr (if_pos (by simp [hst, hest, hservo])) (by rfl)
  · -- PPS_EDGE of a master that aligns
    intro hsel hm hst hok hal hnext
    change execPpsEdge s = _
    simp only [execPpsEdge, hsel, hnext, bne_self_eq_false, Bool.false_eq_true, if_false]
    exact if_pos (by simp [hst, hm, hok, hal])
  · -- PPS_EDGE that starts a written second
    intro hsel hm hnext
    refine State.sets_of_puts hs.csr ?_ (by rfl)
    change execPpsEdge s = _
    simp only [execPpsEdge, hsel, hnext, bne_self_eq_false, Bool.false_eq_true, if_false]
    refine if_neg ?_
    have hm' : (State.todLoad { s with dom := { s.dom with todNext := none } } sec).isMaster = s.isMaster :=
      congrArg (· != 0) (State.get_put_apart hs.csr _ (by rfl))
    simp [hm', hm]
  · -- REFERENCE_LOSS of a master
    intro hok hm
    refine State.sets_of_puts hs.csr ((if_pos hok).trans ?_) (by rfl)
    rw [hm]
    rfl
  · -- REFERENCE_LOSS of another adapter
    intro hok hm
    refine State.sets_of_puts hs.csr ((if_pos hok).trans ?_) (by rfl)
    rw [hm]
    rfl
  · -- REFERENCE_RETURN
    intro hsel hm
    exact State.sets_of_puts hs.csr ((if_neg hsel).trans (congrArg _ (if_neg (by simp [hm])))) (by rfl)
  · -- PTP_MESSAGE_RECEIVE of an adapter that is not master
    intro hm
    exact if_neg (by simp [hm])
  · -- PTP_MESSAGE_RECEIVE of a master
    intro hm hsel
    obtain ⟨hdom, x, hlow, hhigh, hadj⟩ := State.servoStep_adj (s := { s with dom := { s.dom with ptpAt := t } }) hs.csr
    exact ⟨_, x, if_pos (by simp [hm, hsel]), hlow, hhigh, congrArg DomS.ptpAt hdom, hadj⟩
  · -- PICK_TOD_SEC_READ
    exact State.sets_of_puts hs.csr rfl (by rfl)
  · -- PICK_TOD_SET with the 1 PPS reference
    intro hr hsel
    exact (if_neg (by simp [hr])).trans (if_pos hsel)
  · -- PICK_TOD_SET with another reference
    intro hr hsel
    exact State.sets_of_puts hs.csr ((if_neg (by simp [hr])).trans (if_neg hsel)) (by rfl)
  · -- CONTEXT_S_WAKE
    intro ht hst hin hhalt hdown hawake hcyc h6 h7
    change execContextSWake t false s = _
    simp only [execContextSWake]
    rw [if_neg (by simp [ht, hst, hin, hhalt, hdown, hawake, hcyc]), if_neg (by simp [h6, h7])]
    rfl

end Sys2Proof.Machine

namespace Sys2Proof.Machine
open Sys2Proof

/-! ### The banks of the warp store (R84 to R88) -/

/-- A field reads as before a write of a whole register that it does not stand in. -/
theorem State.get_setReg_ne {s : State} (h : csrOk s.csr) {f : RegFld} {a : Nat} (v : Nat) (hf : (f.reg != a) = true) :
    (s.setReg a v).get f = s.get f := by
  rw [State.get, State.reg_setReg h, if_neg (bne_iff_ne.1 hf), State.get]

/-- A field that has been written, and is written again, counts as written last. -/
theorem State.sets.put_again {u t : State} {f : RegFld} {v : Nat} {l : List (RegFld × Nat)}
    (h : u.sets (done t) ((f, v) :: l)) (ht : csrOk t.csr) (hl : fieldsApart (f :: l.map Prod.fst) = true) (w : Nat) :
    u.sets (done (t.put f w)) (l ++ [(f, w)]) := by
  obtain ⟨t', e, hrest, hput, hget⟩ := h
  cases e
  have hapart : ∀ p ∈ l, apart f p.1 := fun p hp =>
    List.rel_of_pairwise_cons (pairwise_apart_of_fieldsApart hl) (List.mem_map_of_mem hp)
  refine ⟨_, rfl, by rw [hrest]; rfl, fun p hp => ?_, fun g hg => ?_⟩
  · rcases List.mem_append.1 hp with hp | hp
    · exact (State.get_put_ne ht (hapart p hp) w).trans (hput p (List.mem_cons_of_mem _ hp))
    · rw [List.mem_singleton.1 hp]
      exact State.get_put ht f w
  · have hfg : apart f g := hg (f, w) (List.mem_append_right _ (List.mem_singleton_self _))
    refine (State.get_put_ne ht hfg w).trans (hget g fun p hp => ?_)
    rcases List.mem_cons.1 hp with rfl | hp
    · exact hfg
    · exact hg p (List.mem_append_left _ hp)

theorem State.emptyShadow_sets {s : State} (hs : s.Sound) :
    State.sets { s with warp := { s.warp with shadow := none } } (done s.emptyShadow)
      [(WARP_STATUS_SHADOW_STATE, 0), (WARP_STATUS_SHADOW_GEN, 0)] :=
  State.sets_of_puts hs.csr rfl (by rfl)

theorem State.shadow_emptyShadow {s : State} (hs : s.Sound) : s.emptyShadow.shadow = 0 := by
  obtain ⟨t, e, -, hput, -⟩ := State.emptyShadow_sets hs
  cases e
  exact hput _ (List.mem_cons_self ..)

/-- What the end of a load leaves: its result, its failure and its event, and the other fields of WARP_STATUS. -/
theorem State.loadEnd_reads {s : State} (hs : s.Sound) (st err : Nat) :
    (s.loadEnd st err).get WARP_STATUS_LOAD_RESULT = st % 2 ^ 8 ∧ (s.loadEnd st err).reg WARP_CHECK_ERR = err ∧
      (s.loadEnd st err).get WARP_EVENT_LOAD_DONE = 1 ∧
      ∀ f, f.reg = WARP_STATUS → fieldsApart [WARP_STATUS_LOAD_RESULT, f] = true →
        (s.loadEnd st err).get f = s.get f := by
  have h1 := State.put_sorted hs.csr WARP_STATUS_LOAD_RESULT st
  have h2 := (State.setReg_sound (State.put_sound hs WARP_STATUS_LOAD_RESULT st) WARP_CHECK_ERR err).csr
  have hstatus : ∀ f, f.reg = WARP_STATUS → (s.loadEnd st err).get f = (s.put WARP_STATUS_LOAD_RESULT st).get f :=
    fun f hf => (State.get_put_ne h2 (.inl (by rw [hf]; decide)) 1).trans
      (State.get_setReg_ne h1 err (by rw [hf]; rfl))
  refine ⟨(hstatus _ rfl).trans (State.get_put hs.csr ..), ?_, State.get_put h2 .., fun f hf hapart =>
    (hstatus f hf).trans (State.get_put_apart hs.csr st hapart)⟩
  refine (State.reg_put_ne h2 (by decide) 1).trans ?_
  rw [State.reg_setReg h1, if_pos rfl]

/-! ### The swap (R86, R87) -/

/-- `t` is `s` but for the status registers of tiles (Table 3.8). -/
structure State.marks (s t : State) : Prop where
  rest : t = { s with csr := t.csr }
  sound : t.Sound
  reg : ∀ a, (∀ n, a ≠ TILE_STATE n) → t.reg a = s.reg a

theorem State.marks_refl {s : State} (hs : s.Sound) : s.marks s := ⟨rfl, hs, fun _ _ => rfl⟩

theorem State.marks.trans {s t u : State} (h : s.marks t) (k : t.marks u) : s.marks u :=
  ⟨by rw [k.rest, h.rest], k.sound, fun a ha => (k.reg a ha).trans (h.reg a ha)⟩

theorem State.marks.get {s t : State} (h : s.marks t) {f : RegFld} (hf : ∀ n, f.reg ≠ TILE_STATE n) :
    t.get f = s.get f := by
  rw [State.get, h.reg _ hf, State.get]

theorem State.put_marks {s : State} (hs : s.Sound) {f : RegFld} {n : Nat} (hf : f.reg = TILE_STATE n) (v : Nat) :
    s.marks (s.put f v) :=
  ⟨rfl, State.put_sound hs f v, fun _ ha => State.reg_put_ne hs.csr (hf ▸ ha n) v⟩

theorem State.foldl_marks {f : State → Nat → State} (hf : ∀ (s : State) n, s.Sound → s.marks (f s n)) {s : State}
    (hs : s.Sound) (l : List Nat) : s.marks (l.foldl f s) := by
  induction l generalizing s with
  | nil => exact State.marks_refl hs
  | cons n l ih => exact (hf s n hs).trans (ih (hf s n hs).sound)

theorem State.startReady_marks {s : State} (hs : s.Sound) (n : Nat) : s.marks (s.startReady n) := by
  unfold State.startReady
  split
  · exact State.put_marks hs rfl 5
  · exact State.marks_refl hs

/-- A fold over the tiles of a set, each step of which changes the status register of its tile alone. -/
theorem State.foldl_sched_marks {f : State → Nat → State} (hf : ∀ (s : State) n, s.Sound → s.marks (f s n))
    (w : WarpSet) {s : State} (hs : s.Sound) :
    s.marks ((List.range 4096).foldl (fun s n => if bit w.sched n then f s n else s) s) := by
  refine State.foldl_marks (fun s n hs => ?_) hs _
  split
  · exact hf s n hs
  · exact State.marks_refl hs

theorem State.markArmed_marks {s : State} (hs : s.Sound) (w : WarpSet) (v : Nat) : s.marks (s.markArmed w v) :=
  State.foldl_sched_marks (fun _ _ hs => State.put_marks hs rfl v) w hs

theorem State.markActive_marks {s : State} (hs : s.Sound) (w : WarpSet) (v : Nat) : s.marks (s.markActive w v) :=
  State.foldl_sched_marks (fun _ _ hs => State.put_marks hs rfl v) w hs

theorem State.startSet_marks {s : State} (hs : s.Sound) (w : WarpSet) : s.marks (s.startSet w) :=
  State.foldl_sched_marks (fun _ n hs => State.startReady_marks hs n) w hs

/-- What a step does where there is a set keeps `marks`, whether there is one or not. -/
theorem State.elim_marks {f : WarpSet → State} {s : State} (hs : s.Sound) (hf : ∀ w, s.marks (f w))
    (o : Option WarpSet) : s.marks (o.elim s f) := by
  cases o with
  | none => exact State.marks_refl hs
  | some w => exact hf w

/-- A swap: tiles are marked, the banks change over, and WARP_STATUS shows it. -/
theorem State.swapTo_sets {s : State} (hs : s.Sound) (new : Option WarpSet) : ∃ u, s.marks u ∧
    State.sets { u with warp := { u.warp with
        active := new, shadow := none, retained := s.warp.active, retTable := s.get WARP_STATUS_ACTIVE_TABLE
        spent := (new.map s.stillSpent).getD u.warp.spent, period := (new.map WarpSet.period).getD u.warp.period } }
      (done (s.swapTo new))
      [(WARP_STATUS_SHADOW_STATE, 0), (WARP_STATUS_SHADOW_GEN, 0),
        (WARP_STATUS_ACTIVE_BANK, 1 - s.get WARP_STATUS_ACTIVE_BANK), (WARP_STATUS_ACTIVE_TABLE, 0),
        (WARP_STATUS_TRAILING, if s.warp.active.isSome then 1 else 0),
        (WARP_STATUS_HAS_ACTIVE, if new.isSome then 1 else 0), (WARP_STATUS_ACTIVE_GEN, (new.map WarpSet.gen).getD 0),
        (WARP_STATUS_ARMED_EMPTY, 0), (WARP_EVENT_SWAPPED, 1)] := by
  have h1 := State.elim_marks hs (fun w => State.markActive_marks hs w 0) s.warp.active
  have h2 := State.elim_marks h1.sound (fun w =>
    (State.markArmed_marks h1.sound w 0).trans (State.markActive_marks (State.markArmed_sound h1.sound w 0) w 1)) new
  have h3 := State.elim_marks h2.sound (fun w => State.startSet_marks h2.sound w) s.warp.active
  exact ⟨_, (h1.trans h2).trans h3, State.sets_of_puts h3.sound.csr rfl (by rfl)⟩

theorem State.swapWall_armed {s : State} {w : WarpSet} (hsh : s.shadow = 3) (hw : s.warp.shadow = some w)
    (hpick : s.warp.swapPick = s.pick) (hst : 3 ≤ s.domState) :
    s.swapWall = if s.domState = 3 then (s.swapTo (some w)).put PICK_STATUS_STATE 4 else s.swapTo (some w) := by
  simp only [State.swapWall, hpick, bne_self_eq_false, Bool.false_eq_true, if_false, hsh, hw, hst, if_true]

/-- A write that is made or not leaves the warp store, device memory and every field apart from its own. -/
theorem State.ite_put_leaves {s : State} (h : csrOk s.csr) (c : Prop) [Decidable c] (f : RegFld) (v : Nat) :
    (if c then s.put f v else s).warp = s.warp ∧ (if c then s.put f v else s).mem = s.mem ∧
      ∀ g, fieldsApart [f, g] = true → (if c then s.put f v else s).get g = s.get g := by
  split
  · exact ⟨rfl, rfl, fun g hg => State.get_put_apart h v hg⟩
  · exact ⟨rfl, rfl, fun g _ => rfl⟩

theorem PICK_STATUS_ne_TILE_STATE (n : Nat) : PICK_STATUS ≠ TILE_STATE n := by
  unfold PICK_STATUS TILE_STATE
  omega

/-- The armed wall of an adapter that is LOCKED or higher (R86): the banks after it. -/
theorem State.swapWall_swaps {s : State} (hs : s.Sound) {w : WarpSet} (hsh : s.shadow = 3) (hw : s.warp.shadow = some w)
    (hpick : s.warp.swapPick = s.pick) (hst : 3 ≤ s.domState) :
    let t := s.swapWall
    t.warp.active = some w ∧ t.warp.period = w.period ∧ t.warp.retained = s.warp.active ∧ t.warp.shadow = none ∧
    t.warp.retTable = s.get WARP_STATUS_ACTIVE_TABLE ∧ t.shadow = 0 ∧ t.get WARP_STATUS_ACTIVE_TABLE = 0 ∧
    t.get WARP_STATUS_ACTIVE_GEN = w.gen % 2 ^ WARP_STATUS_ACTIVE_GEN.w ∧
    t.get WARP_STATUS_TRAILING = (if s.warp.active.isSome then 1 else 0) ∧ t.get WARP_EVENT_SWAPPED = 1 ∧
    t.domState = (if s.domState = 3 then 4 else s.domState) ∧ t.mem = s.mem := by
  have hx := (State.swapTo_sound hs (some w)).csr
  obtain ⟨hwarp, hmem, hkeep⟩ := State.ite_put_leaves hx (s.domState = 3) PICK_STATUS_STATE 4
  obtain ⟨u, hu, x, e, hrest, hput, hget⟩ := State.swapTo_sets hs (some w)
  rw [State.swapWall_armed hsh hw hpick hst]
  cases e
  have hstate : (s.swapTo (some w)).domState = s.domState :=
    (hget PICK_STATUS_STATE fun p hp => apart_symm (apart_of_fieldsApart (by fin_cases hp <;> rfl))).trans
      (hu.get PICK_STATUS_ne_TILE_STATE)
  refine ⟨?_, ?_, ?_, ?_, ?_, ?_, ?_, ?_, ?_, ?_, ?_, ?_⟩
  · rw [hwarp, hrest]
  · rw [hwarp, hrest]; rfl
  · rw [hwarp, hrest]
  · rw [hwarp, hrest]
  · rw [hwarp, hrest]
  · exact (hkeep _ (by rfl)).trans (hput (WARP_STATUS_SHADOW_STATE, 0) (by simp))
  · exact (hkeep _ (by rfl)).trans (hput (WARP_STATUS_ACTIVE_TABLE, 0) (by simp))
  · exact (hkeep _ (by rfl)).trans (hput (WARP_STATUS_ACTIVE_GEN, w.gen) (by simp))
  · refine ((hkeep _ (by rfl)).trans
      (hput (WARP_STATUS_TRAILING, if s.warp.active.isSome then 1 else 0) (by simp))).trans ?_
    split <;> rfl
  · exact (hkeep _ (by rfl)).trans (hput (WARP_EVENT_SWAPPED, 1) (by simp))
  · split
    · exact State.get_put hx ..
    · exact hstate
  · rw [hmem, hrest, hu.rest]

/-- WARP_LOAD_COMPLETE of a load that fails, with the result `st` and the failure `err`. -/
theorem State.emptyShadow_loadEnd {s : State} (hs : s.Sound) (st err : Nat) :
    let t := s.emptyShadow.loadEnd st err
    t.shadow = 0 ∧ t.warp.shadow = none ∧ t.get WARP_STATUS_LOAD_RESULT = st % 2 ^ 8 ∧ t.reg WARP_CHECK_ERR = err ∧
      t.get WARP_EVENT_LOAD_DONE = 1 := by
  obtain ⟨hresult, herr, hdone, hstatus⟩ := State.loadEnd_reads (State.emptyShadow_sound hs) st err
  exact ⟨(hstatus _ rfl (by rfl)).trans (State.shadow_emptyShadow hs), rfl, hresult, herr, hdone⟩

/-- WARP_LOAD_COMPLETE of an image that passes every check: the shadow holds its set. -/
def State.loaded (s : State) (w : WarpSet) : State :=
  (({ s with warp := { s.warp with shadow := some w } }.put WARP_STATUS_SHADOW_STATE 2).put
    WARP_STATUS_SHADOW_GEN w.gen).loadEnd stOK 0

theorem State.loaded_reads {s : State} (hs : s.Sound) (w : WarpSet) :
    (s.loaded w).shadow = 2 ∧ (s.loaded w).get WARP_STATUS_SHADOW_GEN = w.gen % 2 ^ 13 ∧
      (s.loaded w).get WARP_STATUS_LOAD_RESULT = stOK ∧ (s.loaded w).reg WARP_CHECK_ERR = 0 ∧
      (s.loaded w).get WARP_EVENT_LOAD_DONE = 1 := by
  have h0 : State.Sound { s with warp := { s.warp with shadow := some w } } := hs.upd rfl rfl rfl rfl
  have h1 := State.put_sound h0 WARP_STATUS_SHADOW_STATE 2
  obtain ⟨hresult, herr, hdone, hstatus⟩ := State.loadEnd_reads (State.put_sound h1 WARP_STATUS_SHADOW_GEN w.gen) stOK 0
  exact ⟨(hstatus _ rfl (by rfl)).trans ((State.get_put_apart h1.csr _ (by rfl)).trans (State.get_put h0.csr ..)),
    (hstatus _ rfl (by rfl)).trans (State.get_put h1.csr ..), hresult, herr, hdone⟩

/-- A load under way, its owner attached, ends as its image is found (R75). -/
theorem State.warpLoadComplete_eq {s : State} (hsh : s.shadow = 1) (hdet : s.detached 0 = false) :
    exec (.warpLoadComplete none) s = done (s.emptyShadow.loadEnd stACCESS 0) ∧
    ∀ bs : List Byte, let b := sliceB bs 0 (s.get WARP_LOAD_LEN_LEN)
      (firstFail (s.imageFails b) = none → exec (.warpLoadComplete (some bs)) s = done (s.loaded (parseSet b))) ∧
      ∀ f, firstFail (s.imageFails b) = some f → exec (.warpLoadComplete (some bs)) s =
        done (s.emptyShadow.loadEnd (if f.code = 0x10 then stCAPACITY else stMALFORMED)
          (f.code + f.table * 2 ^ 8 + f.group * 2 ^ 12 + f.off * 2 ^ 16)) := by
  have hload : ¬ (s.shadow != 1) = true := by simp [hsh]
  have hatt : ¬ s.detached 0 = true := by simp [hdet]
  refine ⟨(if_neg hload).trans (if_neg hatt), fun bs => ⟨fun hok => ?_, fun f hf => ?_⟩⟩
  · refine ((if_neg hload).trans (if_neg hatt)).trans ?_
    simp only [hok]
    rfl
  · refine ((if_neg hload).trans (if_neg hatt)).trans ?_
    simp only [hf]

/-- Settles O25: the commands along the branch that accepts or refuses them, and the swap by `State.swapWall_swaps`. -/
theorem warpStoreCommands : Obligations.WarpStoreCommands := by
  refine ⟨fun s r w hs hr => ⟨?_, ?_, ?_, ?_, ?_, ?_, ?_, ?_, ?_⟩, fun s w hs hsh hw hpick hst =>
    State.swapWall_swaps hs hsh hw hpick hst⟩
  · -- WARP_LOAD into an EMPTY or VALID shadow
    intro hsh hstill harmed
    have e : exec (.warpLoad r) s = done (s.emptyShadow.put WARP_STATUS_SHADOW_STATE 1) :=
      (if_neg (by simp [hr])).trans (if_neg (by rcases hsh with h | h <;> simp [h, hstill, harmed]))
    rw [e]
    exact (State.emptyShadow_sets hs).put_again (State.emptyShadow_sound hs).csr rfl 1
  · -- WARP_LOAD that is refused
    intro hsh
    exact State.sets_of_puts hs.csr
      ((if_neg (by simp [hr])).trans (if_pos (by rcases hsh with h | h <;> simp [h]))) (by rfl)
  · -- WARP_LOAD_COMPLETE
    intro hsh hdet
    obtain ⟨hnone, hsome⟩ := State.warpLoadComplete_eq hsh hdet
    refine ⟨?_, fun bs => ⟨fun hok => ?_, fun f hf => ?_⟩⟩
    · obtain ⟨hempty, hnoset, hresult, -, hdone⟩ := State.emptyShadow_loadEnd hs stACCESS 0
      exact ⟨_, hnone, hempty, hnoset, hresult, hdone⟩
    · obtain ⟨hvalid, hgen, hresult, herr, hdone⟩ := State.loaded_reads hs
        (parseSet (sliceB bs 0 (s.get WARP_LOAD_LEN_LEN)))
      exact ⟨_, (hsome bs).1 hok, hvalid, rfl, hgen, hresult, herr, hdone, rfl⟩
    · obtain ⟨hempty, hnoset, hresult, herr, -⟩ := State.emptyShadow_loadEnd hs
        (if f.code = 0x10 then stCAPACITY else stMALFORMED)
        (f.code + f.table * 2 ^ 8 + f.group * 2 ^ 12 + f.off * 2 ^ 16)
      exact ⟨_, (hsome bs).2 f hf, hempty, hnoset, hresult.trans (by split <;> rfl), herr⟩
  · -- WARP_ARM in time
    intro hsh hw hlate
    change execWarpArm r s = _
    simp only [execWarpArm, hr, hsh, hw, Bool.not_true, Bool.false_eq_true, if_false]
    exact if_pos (decide_eq_true hlate)
  · -- WARP_ARM that misses
    intro hmiss
    refine State.sets_of_puts hs.csr ?_ (by rfl)
    change execWarpArm r s = _
    simp only [execWarpArm, hr, Bool.not_true, Bool.false_eq_true, if_false]
    split
    · next hsh _ =>
      have hlate : s.get WARP_SWAP_PICK_PICK < s.pick + 2 := hmiss.resolve_left (absurd hsh)
      exact if_neg (by simpa [State.swapInTime] using hlate)
    · rfl
  · -- WARP_DISARM
    intro hsh hw hlate
    have hin : s.disarmInTime = true := Bool.or_eq_true_iff.2 (.inl (decide_eq_true hlate))
    refine (if_neg (by simp [hr, hin])).trans ((if_pos hsh).trans ?_)
    simp only [hw]
  · -- WARP_CLEAR of a VALID shadow
    intro hsh hstill
    have e : exec (.warpClear r) s = done s.emptyShadow :=
      (if_neg (by simp [hr])).trans (if_pos (by simp [hsh, hstill]))
    rw [e]
    exact State.emptyShadow_sets hs
  · -- WARP_CLEAR that is refused
    intro hsh
    exact State.sets_of_puts hs.csr ((if_neg (by simp [hr])).trans (if_neg (by simp [hsh]))) (by rfl)
  · -- WARP_ARM_EMPTY
    intro hact hsh hstill harmed hlate
    have hin : s.swapInTime = true := decide_eq_true hlate
    exact State.sets_of_puts hs.csr
      ((if_neg (by simp [hr])).trans (if_pos (by simp [hact, hsh, hstill, harmed, hin]))) (by rfl)

end Sys2Proof.Machine

namespace Sys2Proof.Machine
open Sys2Proof

/-! ### The pick wall (R32, R63, R78, R93) -/

/-- The clock's way to the wall leaves every field but the wall time (R108). -/
theorem State.get_elapse {s : State} (h : csrOk s.csr) (n : Nat) {f : RegFld}
    (hf : fieldsApart [PICK_TOD_SEC_SEC, f] = true) : (s.elapse n).get f = s.get f :=
  State.get_put_apart h _ hf

theorem State.trigPick_elapse {s : State} (h : csrOk s.csr) (n : Nat) : (s.elapse n).trigPick = s.trigPick := by
  have hpick : (s.elapse n).pick = s.pick := State.get_elapse h n (by rfl)
  have hon : (s.elapse n).on TRC_TRIG_CFG_SRC_PICK = s.on TRC_TRIG_CFG_SRC_PICK :=
    congrArg (· != 0) (State.get_elapse h n (by rfl))
  unfold State.trigPick
  rw [hpick, hon, State.get_elapse h n (by rfl), State.get_elapse h n (by rfl)]

/-- PICK_WALL of a pick in which nothing was scheduled, of tiles that run, where no trigger names the next pick: nothing
is dropped, no snapshot is taken and no tile is held or released. -/
theorem State.pickWall_eq {s : State} (hs : csrOk s.csr) (hon : s.warp.on = false) (hhalt : s.trc.halted = false)
    (hres : s.trc.resumeDue = false) (htrig : s.trigPick = false) :
    let t := (s.elapse (s.warp.period * 125 - s.cyc)).nextPick.clearFlags
    let u := (t.applyLater.retireTrailing.swapWall.altWall s.warp.period).domWall
    exec .pickWall s = done ((State.syncRecord { u with warp := { u.warp with on := u.domOn && u.warp.active.isSome } }
      ).spareWall.residueWall.tileWall.pageWall.retrain) := by
  have hwork : (s.elapse (s.warp.period * 125 - s.cyc)).dropWork true = s.elapse (s.warp.period * 125 - s.cyc) :=
    if_neg (by simp [hon])
  change execPickWall s = _
  simp only [execPickWall, hhalt, hres, Bool.not_false, Bool.true_or, hwork, State.trigPick_elapse hs, htrig,
    Bool.false_and, Bool.false_eq_true, if_false, if_true]

/-- Settles O26: the state that the changes start from is the one whose clock has passed the wall, its flags cleared. -/
theorem pickWallOrder : Obligations.PickWallOrder := by
  intro s hs hon hhalt hres htrig
  have hn := (State.elapse_sound hs (s.warp.period * 125 - s.cyc)).csr
  have hpick : (s.elapse (s.warp.period * 125 - s.cyc)).pick = s.pick := State.get_elapse hs.csr _ (by rfl)
  refine ⟨(s.elapse (s.warp.period * 125 - s.cyc)).nextPick.clearFlags, rfl, ?_, rfl, rfl, rfl, rfl, rfl, rfl,
    fun f hf => State.get_put_ne hn hf _, State.pickWall_eq hs.csr hon hhalt hres htrig⟩
  refine (State.get_put hn PICK_NUMBER_NUMBER _).trans ?_
  rw [hpick, PICK_NUMBER_NUMBER, Nat.mod_mod]
  rfl

end Sys2Proof.Machine

namespace Sys2Proof.Machine
open Sys2Proof

/-! ### Words of the link layer (R89, R439 to R442) -/

/-- The loss that is recorded for a lane: one record stands for it. -/
theorem State.exists_mem_lossAt_addLoss (s : State) (l pick slot : Nat) :
    ∃ x ∈ (s.addLoss l pick slot).warp.lossAt, x.1 = l := by
  simp only [State.addLoss, List.mem_append, List.mem_singleton]
  refine ⟨_, .inr rfl, ?_⟩
  split
  · next o hold =>
    have hl : o.1 = l := by simpa using List.find?_some hold
    split
    · exact hl
    · rfl
  · rfl

theorem State.lossWordReceive_notices {s : State} {t : WTable} {l : Nat} {w : List Byte} (ht : s.activeTable = some t)
    (hl : l < 96) (hup : s.laneUp l = true) (hwarp : bit t.warpGroups (l / 8) = true) (hside : sideOk w = true)
    (htype : byteAt w 0 = 2) (hlane : byteAt w 1 ≤ 7) :
    ∃ u, exec (.lossWordReceive l w) s = done u ∧ u = { s with warp := u.warp } ∧
      8 * (l / 8) + byteAt w 1 ∈ u.warp.noticed ∧ ∃ x ∈ u.warp.lossAt, x.1 = 8 * (l / 8) + byteAt w 1 := by
  rw [show exec (.lossWordReceive l w) s = execLossWordReceive l w s from rfl]
  simp only [execLossWordReceive, ht]
  rw [if_pos (by simp [hl, hup, hwarp, hside, htype, hlane])]
  refine ⟨_, rfl, rfl, ?_, s.exists_mem_lossAt_addLoss _ _ _⟩
  dsimp only
  split
  · next hin => exact List.contains_iff_mem.1 hin
  · exact List.mem_append_right _ (List.mem_singleton_self _)

/-! ### PAUSE (R452) -/

theorem testBit_clearMask (n m k : Nat) : (clearMask n m).testBit k = (n.testBit k && !m.testBit k) := by
  rw [clearMask, Nat.testBit_xor, Nat.testBit_and]
  cases n.testBit k <;> cases m.testBit k <;> rfl

/-! ### LLDP (R454, R455) -/

/-- The head of a TLV: its type and its length. -/
theorem beAt_tlv_append (t : Nat) (v r : List Byte) (ht : t < 128) (hv : v.length < 512) :
    beAt (tlv t v ++ r) 0 2 = t * 512 + v.length := by
  rw [tlv, List.append_assoc]
  exact (beAt_append_beBytes [] (v ++ r) 2 _).trans (Nat.mod_eq_of_lt (by omega))

/-- A TLV of another type than the organizations' own is passed over. -/
theorem eeeTime_tlv_append (n t : Nat) (v r : List Byte) (ht : 0 < t) (ht' : t < 127) (hv : v.length < 512) :
    eeeTime (n + 1) (tlv t v ++ r) = eeeTime n r := by
  have hlen : (tlv t v).length = 2 + v.length := by simp [tlv]
  have htype : (t * 512 + v.length) / 512 = t := by omega
  have hval : (t * 512 + v.length) % 512 = v.length := by omega
  have hdrop : (tlv t v ++ r).drop (2 + v.length) = r := by rw [← hlen, List.drop_left]
  simp only [eeeTime, beAt_tlv_append t v r (by omega) hv, htype, hval, hdrop]
  rw [if_neg (by simp [hlen]; omega), if_neg (by simp; omega)]

/-- The EEE TLV gives the receive wake time. -/
theorem eeeTime_eee_append (n tx rx : Nat) (v r : List Byte) (hrx : rx < 65536) (hv : v.length < 504) :
    eeeTime (n + 1)
      (tlv 127 (beBytes 3 0x00120F ++ (([5] : List Byte) ++ (beBytes 2 tx ++ (beBytes 2 rx ++ v)))) ++ r) =
        some rx := by
  generalize hw : beBytes 3 0x00120F ++ (([5] : List Byte) ++ (beBytes 2 tx ++ (beBytes 2 rx ++ v))) = w
  have hlen : w.length = 8 + v.length := by simp [← hw]; omega
  have hd : tlv 127 w ++ r = beBytes 2 (127 * 512 + w.length) ++ (beBytes 3 0x00120F ++
      (([5] : List Byte) ++ (beBytes 2 tx ++ (beBytes 2 rx ++ (v ++ r))))) := by
    rw [tlv, ← hw]; simp only [List.append_assoc]
  have hhead := beAt_tlv_append 127 w r (by decide) (by omega)
  have hoid : beAt (tlv 127 w ++ r) 2 3 = 0x00120F := hd ▸ rfl
  have hsub : byteAt (tlv 127 w ++ r) 5 = 5 := hd ▸ rfl
  have hrecv : beAt (tlv 127 w ++ r) 8 2 = rx := by
    rw [hd]
    have h := beAt_append_beBytes (beBytes 2 (127 * 512 + w.length) ++ (beBytes 3 0x00120F ++
      (([5] : List Byte) ++ beBytes 2 tx))) (v ++ r) 2 rx
    simp only [List.append_assoc] at h
    exact h.trans (Nat.mod_eq_of_lt hrx)
  have htype : (127 * 512 + w.length) / 512 = 127 := by omega
  have hval : (127 * 512 + w.length) % 512 = w.length := by omega
  simp only [eeeTime, hhead, htype, hval, hoid, hsub, hrecv]
  rw [if_neg (by simp [tlv]; omega), if_pos (by simp [hlen])]

/-- The LLDPDU of a port (R455): chassis ID, port ID, TTL, and the EEE TLV with one wake time throughout. -/
def lldpdu (chassis port ttl tw : Nat) : List Byte :=
  tlv 1 (([4] : List Byte) ++ beBytes 6 chassis) ++ tlv 2 (([3] : List Byte) ++ beBytes 6 port) ++
    tlv 3 (beBytes 2 ttl) ++ tlv 127 (beBytes 3 0x00120F ++ ([5] : List Byte) ++ beBytes 2 tw ++ beBytes 2 tw ++
      beBytes 2 tw ++ beBytes 2 tw ++ beBytes 2 tw) ++ beBytes 2 0

theorem eeeTime_lldpdu (n chassis port ttl : Nat) {tw : Nat} (htw : tw < 65536) :
    eeeTime (n + 4) (lldpdu chassis port ttl tw) = some tw := by
  simp only [lldpdu, List.append_assoc]
  rw [eeeTime_tlv_append _ 1 _ _ (by decide) (by decide) (by simp),
    eeeTime_tlv_append _ 2 _ _ (by decide) (by decide) (by simp),
    eeeTime_tlv_append _ 3 _ _ (by decide) (by decide) (by simp), eeeTime_eee_append _ _ _ _ _ htw (by simp)]

@[simp] theorem State.countTx_net (s : State) (p n : Nat) (mcast : Bool) : (s.countTx p n mcast).net = s.net := by
  unfold State.countTx
  split
  · rfl
  · split <;> rfl

@[simp] theorem State.countTx_mem (s : State) (p n : Nat) (mcast : Bool) : (s.countTx p n mcast).mem = s.mem := by
  unfold State.countTx
  split
  · rfl
  · split <;> rfl

@[simp] theorem State.lpiExit_net (s : State) (p : Nat) : (s.lpiExit p).net = s.net := by
  unfold State.lpiExit
  split <;> rfl

@[simp] theorem State.lpiExit_mem (s : State) (p : Nat) : (s.lpiExit p).mem = s.mem := by
  unfold State.lpiExit
  split <;> rfl

/-- The frame that carries it (R455). -/
def State.lldpFrame (s : State) (p : Nat) : Frame :=
  let pdu := lldpdu (s.get (MAC_ADDR_VAL 0)) (s.get (MAC_ADDR_VAL p)) (Config.freeNat s.free % 65536)
    (s.get (MAC_LPI_CFG_TW_REQ_US p))
  ⟨0x0180C200000E, s.get (MAC_ADDR_VAL p), none, 0x88CC, max 64 (18 + pdu.length), true, none, pdu⟩

/-- LLDP_SEND on a network port whose manager runs: the LLDPDU that leaves. -/
theorem State.lldpSend_sends {s : State} {p : Nat} (hport : s.portUp p = true) (hatt : s.portAttach p = false)
    (hmgr : s.til.mgrLost.contains (p / 6) = false) (hhalt : s.trc.halted = false) :
    ∃ u g, exec (.lldpSend p) s = done u ∧ u.mem = s.mem ∧ g.etype = 0x88CC ∧ g.dst = 0x0180C200000E ∧
      g.src = s.get (MAC_ADDR_VAL p) ∧ eeeTime (g.data.length + 1) g.data = some (s.get (MAC_LPI_CFG_TW_REQ_US p)) ∧
      tfind u.net.sent p = some (.ethernet g) ∧ tfind u.net.lldp p = some (s.get (MAC_LPI_CFG_TW_REQ_US p)) := by
  refine ⟨_, s.lldpFrame p, if_pos (by rw [hport, hatt, hmgr, hhalt]; rfl), ?_, rfl, rfl, rfl,
    eeeTime_lldpdu 37 _ _ _ (bits_lt ..), ?_, ?_⟩
  · simp only [State.lpiExit_mem, State.countTx_mem]
    rfl
  · simp only [State.lpiExit_net, State.countTx_net, State.setSent, tfind_tput, if_true]
    rfl
  · simp only [tfind_tput, if_true]

/-- The wake time after an LLDPDU with an EEE TLV: the larger of the two requests. -/
theorem State.lldpIn_agrees {s : State} (hs : s.Sound) {p v : Nat} {f : Frame}
    (hf : eeeTime (f.data.length + 1) f.data = some v) (hv : v < 65536) :
    (s.lldpIn p f).get (MAC_LPI_CFG_TW_AGREED_US p) = max (s.get (MAC_LPI_CFG_TW_REQ_US p)) v := by
  have hreq : s.get (MAC_LPI_CFG_TW_REQ_US p) < 65536 := bits_lt ..
  have hread (tw : Nat) (htw : tw < 65536) :
      (s.put (MAC_LPI_CFG_TW_AGREED_US p) tw).get (MAC_LPI_CFG_TW_AGREED_US p) = tw :=
    (State.get_put hs.csr ..).trans (Nat.mod_eq_of_lt htw)
  have hevent : apart MAC_EVENT_LLDP_CHANGE (MAC_LPI_CFG_TW_AGREED_US p) := by
    refine .inl ?_
    simp only [MAC_EVENT_LLDP_CHANGE, MAC_EVENT, MAC_LPI_CFG_TW_AGREED_US, MAC_LPI_CFG]
    omega
  simp only [State.lldpIn, hf, State.raiseIf]
  split
  · exact (State.get_put_ne (State.put_sorted hs.csr ..) hevent 1).trans (hread _ (Nat.max_lt.2 ⟨hreq, hv⟩))
  · exact hread _ (Nat.max_lt.2 ⟨hreq, hv⟩)

/-- Settles O45: words and frames along the branch that their checks choose; the EEE TLV that LLDP_SEND writes is read
back by `eeeTime_lldpdu`, and the agreement is `State.lldpIn_agrees`. -/
theorem linkWordsAndFrames : Obligations.LinkWordsAndFrames := by
  refine ⟨fun s p l prios w b f hs => ⟨?_, ?_, ?_, ?_, ?_, ?_, ?_, ?_, ?_⟩,
    fun s p v f hs hf hv => State.lldpIn_agrees hs hf hv⟩
  · -- CREDIT_WORD_RECEIVE
    intro hl hup hatt hside htype hlow hhigh
    exact if_pos (by simp [hl, hup, hatt, hside, htype, hlow, hhigh])
  · -- words whose CRC is wrong
    intro hside
    refine ⟨if_neg (by simp [hside]), ?_⟩
    change execLossWordReceive l w s = _
    unfold execLossWordReceive
    split
    · exact if_neg (by simp [hside])
    · rfl
  · -- LOSS_WORD_RECEIVE
    intro t ht hl hup hwarp hside htype hlane
    exact State.lossWordReceive_notices ht hl hup hwarp hside htype hlane
  · -- FABRIC_FRAME_RECEIVE
    intro hl hup hport hatt
    have hin : ¬ (decide (96 ≤ l) || !s.laneUp l || !s.portUp (2 * (l / 8)) || !s.portAttach (2 * (l / 8))) = true := by
      simp [hup, hport, hatt]; omega
    refine ⟨fun hgood => (if_neg hin).trans (if_neg ?_), fun hbad => (if_neg hin).trans (if_pos ?_)⟩
    · simpa [and_assoc] using hgood
    · simpa only [Bool.or_eq_true, Bool.not_eq_true', bne_iff_ne, ← Bool.not_eq_true, ← not_and_or, and_assoc]
        using hbad
  · -- ETHERNET_FRAME_RECEIVE, PAUSE_FRAME_RECEIVE and LLDP_RECEIVE
    intro ⟨hport, hatt⟩
    have hin : ¬ (!s.portUp p || s.portAttach p) = true := by simp [hport, hatt]
    have haccept (hacc : (s.accept p f).2 = true) : s.etherIn p f = (s.accept p f).1.dispatch p f :=
      (if_neg hin).trans (if_pos hacc)
    refine ⟨fun hacc => congrArg done (haccept hacc),
      fun hacc => congrArg done ((if_neg hin).trans (if_neg (by simp [hacc]))), fun het hacc => ?_, fun het hacc => ?_⟩
    · exact congrArg done ((if_pos het).trans ((haccept hacc).trans (if_pos het)))
    · exact congrArg done ((if_pos het).trans ((haccept hacc).trans ((if_neg (by simp [het])).trans (if_pos het))))
  · -- XOFF_REFRESH
    intro hmode hxoff hlow
    exact congrArg done (if_pos (by simp [hmode, hxoff, hlow]))
  · -- PAUSE_EXPIRY
    intro hp
    refine ⟨_, congrArg done (if_pos hp), rfl, fun k hk => ?_, fun g hg => State.get_put_ne hs.csr hg _⟩
    have h8 : prios % 256 = prios % 2 ^ 8 := rfl
    rw [State.get_put hs.csr, MAC_STATUS_PAUSED, Nat.testBit_mod_two_pow, testBit_clearMask, h8,
      Nat.testBit_mod_two_pow, decide_eq_true hk, Bool.true_and, Bool.true_and]
  · -- LPI_ENTRY
    intro ⟨hport, hatt⟩ hen hcap htx hfifo hout hxoff htw
    exact if_pos (by simp [hport, hatt, hen, hcap, htx, hfifo, hout, hxoff, htw])
  · -- LLDP_SEND
    intro ⟨hport, hatt⟩ hmgr hhalt
    exact State.lldpSend_sends hport hatt hmgr hhalt

end Sys2Proof.Machine

namespace Sys2Proof.Machine
open Sys2Proof

/-! ### Hops in the mesh (03_spindle_tiles.md R119, R120) -/

/-- Off the target's column a message hops along X, on a YX route set once it stands in the target's row. -/
theorem nextRouter_alongX {f : Flight} {dx dy : Nat} (hx : f.x ≠ dx) (hyx : f.yx = true → f.y = dy) :
    nextRouter f dx dy = if f.x < dx then (f.x + 1, f.y, 4) else (f.x - 1, f.y, 3) := by
  refine if_pos ?_
  cases h : f.yx
  · simpa using hx
  · simpa using hyx h

/-- Off the target's row a message hops along Y, on an XY route set once it stands in the target's column. -/
theorem nextRouter_alongY {f : Flight} {dx dy : Nat} (hy : f.y ≠ dy) (hyx : f.yx = false → f.x = dx) :
    nextRouter f dx dy = if f.y < dy then (f.x, f.y + 1, 1) else (f.x, f.y - 1, 2) := by
  refine if_neg ?_
  cases h : f.yx
  · simpa using hyx h
  · simpa using hy

/-- A message that has not arrived has a hop along X or along Y, as its route set orders them. -/
theorem hop_alongX_or_alongY {f : Flight} {dx dy : Nat} (h : (f.x, f.y) ≠ (dx, dy)) :
    (f.x ≠ dx ∧ (f.yx = true → f.y = dy)) ∨ (f.y ≠ dy ∧ (f.yx = false → f.x = dx)) := by
  have hxy : f.x ≠ dx ∨ f.y ≠ dy := not_and_or.1 fun e => h (Prod.ext e.1 e.2)
  by_cases hy : f.y = dy
  · exact .inl ⟨hxy.resolve_right (absurd hy), fun _ => hy⟩
  · by_cases hx : f.x = dx
    · exact .inr ⟨hy, fun _ => hx⟩
    · cases f.yx <;> simp [hx, hy]

/-- A hop leaves a message one router nearer its target. -/
theorem nextRouter_nears {f : Flight} {dx dy : Nat} (h : (f.x, f.y) ≠ (dx, dy)) :
    (((nextRouter f dx dy).1 : Int) - dx).natAbs + (((nextRouter f dx dy).2.1 : Int) - dy).natAbs + 1 =
      ((f.x : Int) - dx).natAbs + ((f.y : Int) - dy).natAbs := by
  rcases hop_alongX_or_alongY h with ⟨hx, hyx⟩ | ⟨hy, hyx⟩
  · rw [nextRouter_alongX hx hyx]
    split <;> dsimp only <;> omega
  · rw [nextRouter_alongY hy hyx]
    split <;> dsimp only <;> omega

/-- An XY route leaves the row alone until the message stands in the target's column. -/
theorem nextRouter_xy {f : Flight} {dx dy : Nat} (hyx : f.yx = false) (hx : f.x ≠ dx) :
    (nextRouter f dx dy).2.1 = f.y := by
  rw [nextRouter_alongX hx (by simp [hyx])]
  split <;> rfl

/-- A YX route leaves the column alone until the message stands in the target's row. -/
theorem nextRouter_yx {f : Flight} {dx dy : Nat} (hyx : f.yx = true) (hy : f.y ≠ dy) :
    (nextRouter f dx dy).1 = f.x := by
  rw [nextRouter_alongY hy (by simp [hyx])]
  split <;> rfl

/-- The oldest message of its buffer hops where the next router has room. -/
theorem State.meshHop_moves {s : State} {id : Nat} {f : Flight} (hf : s.til.mesh.find? (fun g => g.id == id) = some f)
    (hold : s.oldest f = true) (haway : s.arrived f = false) (hbyp : s.bypassed f.x f.y = false)
    (hroom : let n := nextRouter f (s.phys f.target).1 (s.phys f.target).2
      s.bufRoom n.1 n.2.1 n.2.2 f.cls f.yx f.flits = true) :
    let n := nextRouter f (s.phys f.target).1 (s.phys f.target).2
    exec (.meshHop id true) s = done (s.setFlight id fun g => { g with x := n.1, y := n.2.1, port := n.2.2 }) := by
  change execMeshHop id true s = _
  simp only [execMeshHop, hf, hold, haway, Bool.not_true, Bool.false_eq_true, if_false]
  exact if_neg (by simp [hbyp, hroom])

/-- Settles O28: the hop is `State.meshHop_moves`, and the router that it goes to is nearer by `nextRouter_nears`. -/
theorem meshHopNearsTarget : Obligations.MeshHopNearsTarget := by
  intro s id f hf hold d n far haway hbyp hroom
  have harrived : s.arrived f = false := beq_false_of_ne (Ne.symm haway)
  refine ⟨_, State.meshHop_moves hf hold harrived hbyp hroom, rfl, ?_, nextRouter_nears haway, nextRouter_xy,
    nextRouter_yx⟩
  exact List.map_congr_left fun g _ => by simp only [beq_iff_eq]; rfl

end Sys2Proof.Machine

namespace Sys2Proof.Machine
open Sys2Proof

/-! ### Acceptance at the target (03_spindle_tiles.md R127, R128, R130) -/

/-- Message `id` is `f`, the oldest of its buffer, and stands at the port of its target, a tile that works. -/
structure State.atPort (s : State) (id : Nat) (f : Flight) : Prop where
  found : s.til.mesh.find? (fun g => g.id == id) = some f
  oldest : s.oldest f = true
  arrived : s.phys f.target = (f.x, f.y)
  passable : s.bypassed f.x f.y = false
  up : (s.tile f.target).down = false
  runs : s.trc.halted = false

/-- A message other than a post, at a tile whose queue has room, comes to the checks of Table 3.4. -/
theorem State.atPort.messageAccept {s : State} {id : Nat} {f : Flight} (h : s.atPort id f) (hcls : f.cls ≠ 2)
    (hroom : (s.tile f.target).inq.length < 32) (hpost : f.m.isPost = false) :
    exec (.messageAccept id) s = match s.acceptFault f.m with
      | none => done ((s.dropFlight id).takeMsg f.m)
      | some (st, reason, role, epoch) =>
        if s.bufRoom f.x f.y 0 2 f.yx (ceilDiv (32 + f.m.len) 64) then
          done ((s.dropFlight id).returnMsg f.target st reason role epoch f.yx f.m)
        else done s := by
  change execMessageAccept id s = _
  simp only [execMessageAccept, h.found]
  exact if_neg (by simp [State.arrived, h.oldest, h.arrived, h.passable, h.up, h.runs, hcls, hroom, hpost])

/-- A returned message enters its sender's queue, or waits while that is full. -/
theorem State.atPort.returnedMessageArrive {s : State} {id : Nat} {f : Flight} (h : s.atPort id f) (hcls : f.cls = 2) :
    exec (.returnedMessageArrive id) s =
      if (s.tile f.target).rmq.length < 32 then
        done ((s.dropFlight id).pushReturned f.target (f.m.entry f.yx f.record))
      else if f.waited then done s
      else done ((s.setFlight id fun g => { g with waited := true }).rmqWait f.target) := by
  change execReturnedMessageArrive id s = _
  simp only [execReturnedMessageArrive, h.found]
  exact if_neg (by simp [State.arrived, h.oldest, h.arrived, h.passable, h.up, h.runs, hcls])

@[simp] theorem State.rmqWait_mem (s : State) (t : Nat) : (s.rmqWait t).mem = s.mem :=
  (State.raise_mem ..).trans (State.bump_mem ..)

@[simp] theorem State.rmqWait_til (s : State) (t : Nat) : (s.rmqWait t).til = s.til :=
  (State.raise_til ..).trans (State.bump_til ..)

/-- A counter that has counted reads the sum, or the largest value that it holds. -/
theorem State.get_bump {s : State} (h : csrOk s.csr) (f : RegFld) (n : Nat) :
    (s.bump f n).get f = min (s.get f + n) (2 ^ f.w - 1) :=
  (State.get_put h f _).trans (Nat.mod_eq_of_lt (by
    have := Nat.two_pow_pos f.w
    simp only [satAdd]
    omega))

/-- A message that passes enters the inbound queue of its target, which counts it: only a HOSTQ tile may make an event of
it instead. -/
theorem State.takeMsg_eq {s : State} {m : Msg} (hrole : s.roleOf m.dst ≠ 2) :
    s.takeMsg m = (s.bump (TILE_MSG_ACCEPTED_VAL m.dst)).setTile m.dst
      { s.tile m.dst with inq := (s.tile m.dst).inq ++ [m] } :=
  if_neg (by simp [hrole])

theorem State.tile_takeMsg {s : State} (hs : s.Sound) {m : Msg} (hrole : s.roleOf m.dst ≠ 2) (n : Nat) :
    (s.takeMsg m).tile n = if n = m.dst then { s.tile n with inq := (s.tile n).inq ++ [m] } else s.tile n := by
  rw [State.takeMsg_eq hrole, State.tile_setTile (State.bump_sound hs _ 1)]
  split
  · next hn => rw [hn]
  · rfl

theorem State.get_takeMsg {s : State} (hs : s.Sound) {m : Msg} (hrole : s.roleOf m.dst ≠ 2) :
    (s.takeMsg m).get (TILE_MSG_ACCEPTED_VAL m.dst) = min (s.get (TILE_MSG_ACCEPTED_VAL m.dst) + 1)
      (2 ^ (TILE_MSG_ACCEPTED_VAL m.dst).w - 1) := by
  rw [State.takeMsg_eq hrole]
  exact State.get_bump hs.csr _ 1

/-- Table 3.4: its checks in order, where a sender that may address any role skips the last two. -/
theorem State.acceptFault_eq (s : State) (m : Msg) : s.acceptFault m =
    if s.instOfTile m.src ≠ s.instOfTile m.dst ∧ s.get (TILE_ROLE_ROLE m.dst) ≠ 1 then some (stACCESS, 4, 0, 0)
    else if s.get (TILE_STATE_STATE m.dst) = 7 then
      some (stSTALE_ROLE, 3, s.get (TILE_ROLE_ROLE m.dst), s.get (TILE_ROLE_EPOCH m.dst))
    else if m.anyRole = true then none
    else if m.role ≠ s.get (TILE_ROLE_ROLE m.dst) then
      some (stSTALE_ROLE, 1, s.get (TILE_ROLE_ROLE m.dst), s.get (TILE_ROLE_EPOCH m.dst))
    else if m.epoch ≠ s.get (TILE_ROLE_EPOCH m.dst) then
      some (stSTALE_ROLE, 2, s.get (TILE_ROLE_ROLE m.dst), s.get (TILE_ROLE_EPOCH m.dst))
    else none := by
  cases h : m.anyRole <;> simp [State.acceptFault, State.isManager, State.roleOf, h]

/-- A message passes Table 3.4 where no check of it fails. -/
theorem State.acceptFault_eq_none (s : State) (m : Msg) : s.acceptFault m = none ↔
    ¬ (s.instOfTile m.src ≠ s.instOfTile m.dst ∧ s.get (TILE_ROLE_ROLE m.dst) ≠ 1) ∧
      ¬ s.get (TILE_STATE_STATE m.dst) = 7 ∧
      (m.anyRole = true ∨ (m.role = s.get (TILE_ROLE_ROLE m.dst) ∧ m.epoch = s.get (TILE_ROLE_EPOCH m.dst))) := by
  rw [State.acceptFault_eq]
  split
  · next hforeign => exact iff_of_false (by simp) fun h => h.1 hforeign
  split
  · next hfail => exact iff_of_false (by simp) fun h => h.2.1 hfail
  split
  · next hown hwork hany => exact iff_of_true rfl ⟨hown, hwork, .inl hany⟩
  split
  · next hany hrole => exact iff_of_false (by simp) fun h => hrole (h.2.2.resolve_left hany).1
  split
  · next hany _ hepoch => exact iff_of_false (by simp) fun h => hepoch (h.2.2.resolve_left hany).2
  · next hown hwork _ hrole hepoch =>
    exact iff_of_true rfl ⟨hown, hwork, .inr ⟨not_not.1 hrole, not_not.1 hepoch⟩⟩

/-- Settles O29: the queues by `State.atPort.messageAccept` and `State.atPort.returnedMessageArrive`, the checks by
`State.acceptFault_eq`. -/
theorem meshAcceptance : Obligations.MeshAcceptance := by
  refine ⟨?_, ?_⟩
  · intro s id f hs hf hold x hphys hbyp hup hrun
    have hat : s.atPort id f := ⟨hf, hold, hphys, hbyp, hup, hrun⟩
    refine ⟨fun hcls hroom hpost => ⟨fun hok hrole => ?_, fun st re ro ep hbad hback => ?_⟩,
      fun hcls => ⟨fun hroom => ?_, fun hfull hnew => ?_⟩⟩
    · -- a message that passes
      have hdrop := State.dropFlight_sound hs id
      have heq := State.takeMsg_eq (s := s.dropFlight id) hrole
      exact ⟨(s.dropFlight id).takeMsg f.m, by rw [hat.messageAccept hcls hroom hpost, hok], by rw [heq]; rfl,
        by rw [heq]; rfl, State.tile_takeMsg hdrop hrole, State.get_takeMsg hdrop hrole⟩
    · -- a message that fails
      rw [hat.messageAccept hcls hroom hpost, hbad]
      exact if_pos hback
    · -- a returned message that finds room
      exact (hat.returnedMessageArrive hcls).trans (if_pos hroom)
    · -- a returned message that begins to wait
      refine ⟨_, (hat.returnedMessageArrive hcls).trans ((if_neg (Nat.not_lt.2 hfull)).trans (if_neg (by simp [hnew]))),
        State.rmqWait_mem .., fun n => ?_, ?_⟩
      · rw [State.tile, State.rmqWait_til]
        rfl
      · exact State.get_put (State.bump_sound (State.setFlight_sound hs id _) _ 1).csr _ 1
  · intro s m role epoch foreign failed
    refine ⟨fun hforeign => ?_, fun hown hfail => ?_, fun hown hwork hany hrole => ?_,
      fun hown hwork hany hrole hepoch => ?_, s.acceptFault_eq_none m⟩ <;> rw [State.acceptFault_eq]
    · rw [if_pos hforeign]
    · rw [if_neg hown, if_pos hfail]
    · rw [if_neg hown, if_neg hwork, if_neg (by simp [hany]), if_pos hrole]
    · rw [if_neg hown, if_neg hwork, if_neg (by simp [hany]), if_neg (not_not.2 hrole), if_pos hepoch]

end Sys2Proof.Machine

namespace Sys2Proof.Machine
open Sys2Proof

/-! ### The local store after a load (03_spindle_tiles.md R133, Table 3.7) -/

/-- What is listed under a key once the keys that fail a test are gone. -/
theorem tfind_filter_key {α : Type} (f : Nat → Bool) (m : SMap α) (k : Nat) :
    tfind (m.filter fun p => f p.1) k = if f k then tfind m k else none := by
  induction m with
  | nil => simp [tfind]
  | cons p m ih =>
    obtain ⟨j, v⟩ := p
    rw [List.filter_cons]
    by_cases hk : k = j
    · subst hk
      cases hf : f k <;> simp [tfind, ih, hf]
    · cases hf : f j <;> simp [tfind, ih, hk]

theorem localPa_eq (n k : Nat) : localPa n k = localPa n 0 + k := by
  rw [localPa, localPa, Nat.add_zero]

/-- Memory once the addresses that fail a test are emptied. -/
theorem State.byte_filter (s : State) (f : Nat → Bool) (p : Nat) :
    State.byte { s with mem := s.mem.filter fun c => f c.1 } p = if f p then s.byte p else 0 := by
  rw [State.byte, mget, tfind_filter_key]
  cases f p <;> rfl

/-- A load writes memory alone. -/
theorem State.loadStore_eq (s : State) (n : Nat) (img : List Byte) :
    s.loadStore n img = { s with mem := (s.loadStore n img).mem } :=
  State.setBytes_eq ..

/-- A byte after a load: in the instruction store the image's, or 0 beyond its end, in the data store 0, and outside the
local store as before. -/
theorem State.byte_loadStore {s : State} (hs : s.Sound) (n : Nat) (img : List Byte) (p : Nat) :
    (s.loadStore n img).byte p =
      if localPa n 0 ≤ p ∧ p < localPa n 0x30000 then
        if p < localPa n 0x8000 then img.getD (p - localPa n 0) 0 else 0
      else s.byte p := by
  refine (State.byte_setBytes (filter_sorted ((canonical_iff _ _).1 hs.mem).1 _) _ p _).trans ?_
  rw [State.byte_filter s fun a => !(localPa n 0 ≤ a && a < localPa n 0x30000), List.length_take, localPa_eq n 0x30000,
    localPa_eq n 0x8000]
  simp only [Bool.not_eq_true', Bool.and_eq_false_iff, decide_eq_false_iff_not]
  by_cases himg : localPa n 0 ≤ p ∧ p < localPa n 0 + min 0x8000 img.length
  · -- a byte of the image
    rw [if_pos himg, if_pos (by omega), if_pos (by omega), List.getD_eq_getElem?_getD, List.getD_eq_getElem?_getD,
      List.getElem?_take_of_lt (by omega)]
  rw [if_neg himg]
  by_cases hin : localPa n 0 ≤ p ∧ p < localPa n 0 + 0x30000
  · -- another byte of the local store
    rw [if_pos hin, if_neg (by omega)]
    split
    · rw [List.getD_eq_default _ _ (by omega)]
    · rfl
  · -- a byte outside it
    rw [if_neg hin, if_pos (by omega)]

/-! ### Role assignments (03_spindle_tiles.md R132 to R134) -/

theorem TILE_STATE_ne_TILE_EVENT (n : Nat) : TILE_STATE n ≠ TILE_EVENT n := by
  unfold TILE_STATE TILE_EVENT
  omega

/-- Whether it is firmware that asks: a MANAGER tile (R42, Table 3.6). -/
def askedByFirmware : Requester → Bool
  | .manager _ => true
  | _ => false

/-- TILE_CTRL.ASSIGN of a requester that reaches it: the assignment begins where Table 3.6 refuses nothing. -/
theorem State.tileCtrlAssign_eq {s : State} {r : Requester} {n : Nat} (hn : n < 4096) (hr : s.privReq r = true) :
    let st := s.assignStatus (askedByFirmware r) none n (s.get (TILE_ROLE_NEXT_ROLE n)) (s.get (TILE_LOAD_SRC_ADDR n))
      (s.get (TILE_LOAD_CFG_LEN n)) (s.get (TILE_LOAD_CFG_ENTRY n))
    exec (.tileCtrlAssign r n) s = done (if st = stOK then
      s.startAssign n (s.get (TILE_ROLE_NEXT_ROLE n)) (s.get (TILE_LOAD_SRC_ADDR n)) (s.get (TILE_LOAD_CFG_LEN n))
        (s.get (TILE_LOAD_CFG_ENTRY n)) none
      else s.refuseAssign n st) := by
  intro st
  refine (if_neg (by simp [hr]; omega)).trans ?_
  split
  · next h => exact congrArg done (if_pos h).symm
  · next h => exact congrArg done (if_neg h).symm

theorem State.refuseAssign_sets {s : State} (hs : s.Sound) (n st : Nat) :
    s.sets (done (s.refuseAssign n st)) [(TILE_STATE_ASSIGN_RESULT n, st), (TILE_EVENT_ASSIGN_REFUSED n, 1)] :=
  State.sets_puts hs.csr [(TILE_STATE_ASSIGN_RESULT n, st), (TILE_EVENT_ASSIGN_REFUSED n, 1)]
    (List.pairwise_pair.2 (.inl (TILE_STATE_ne_TILE_EVENT n)))

theorem Context.drained_iff (k : Context) : k.drained = true ↔ ∀ p ∈ k.handles, p.2.state = 6 := by
  simp [Context.drained]

/-- Settles O30: the requests by `State.tileCtrlAssign_eq`, and memory after a load by `State.byte_loadStore`. -/
theorem roleChanges : Obligations.RoleChanges := by
  refine ⟨?_, ?_⟩
  · intro s r n a hs x role src len entry fw
    refine ⟨fun hn hr hok => ?_, fun hn hr hbad => ?_, fun ha hby hst hended => ?_, fun hst ha => ?_⟩
    · -- an assignment that begins
      exact (State.tileCtrlAssign_eq hn hr).trans (congrArg done (if_pos hok))
    · -- an assignment that is refused
      rw [(State.tileCtrlAssign_eq hn hr).trans (congrArg done (if_neg hbad))]
      exact State.refuseAssign_sets hs n _
    · -- ROLE_CHANGE_DRAINED
      have hdrained : x.s.drained = true ∧ x.w.drained = true := by
        simpa only [Context.drained_iff, List.forall_mem_append] using hended
      have heq : exec (.roleChangeDrained n) s =
          done ((s.put (TILE_STATE_STATE n) 2).put (TILE_STATE_ASSIGN_RESULT n) stOK) := by
        change execRoleChangeDrained n s = _
        simp only [execRoleChangeDrained, show (s.tile n).assign = some a from ha, hby]
        exact if_pos (by simp [hst, x, hdrained.1, hdrained.2])
      rw [heq]
      exact State.sets_puts hs.csr [(TILE_STATE_STATE n, 2), (TILE_STATE_ASSIGN_RESULT n, stOK)]
        (List.pairwise_pair.2 (.inr (.inl (by decide : 0 + 3 ≤ 8))))
    · -- TILE_LOAD_DONE
      change execTileLoadDone n s = _
      simp only [execTileLoadDone, hst, show (s.tile n).assign = some a from ha, bne_self_eq_false, Bool.false_eq_true,
        if_false, apply_ite done]
  · intro s n img hs t
    refine ⟨s.loadStore_eq n img, fun k hk => ?_, fun p hp => ?_⟩
    · rw [State.byte_loadStore hs, if_pos (by simp only [localPa_eq n k, localPa_eq n 0x30000]; omega)]
      simp only [localPa_eq n k, localPa_eq n 0x8000, Nat.add_lt_add_iff_left, Nat.add_sub_cancel_left]
    · rw [State.byte_loadStore hs, if_neg (by omega)]

end Sys2Proof.Machine

namespace Sys2Proof.Machine
open Sys2Proof

/-! ### Sparing, faults and mirrors (03_spindle_tiles.md R122 to R125, 18_reliability_service.md R549 to R555) -/

theorem bits_zero (n w : Nat) : bits n 0 w = n % 2 ^ w := by
  rw [bits, Nat.pow_zero, Nat.div_one]

theorem PWR_REL_UNMIRRORED_ne_PWR_REL_EVENT (k : Nat) : PWR_REL_UNMIRRORED k ≠ PWR_REL_EVENT := by
  unfold PWR_REL_UNMIRRORED PWR_REL_EVENT
  omega

/-- TILE_SPARE_CMD with GO of a requester that reaches it, while no command waits: the answer for a row that is spared
already, for a column without a free spare, and for a sparing at the next wall. -/
theorem State.tileSpareCmd_eq {s : State} {r : Requester} {v : Nat} (hr : s.privReq r = true) (hgo : v.testBit 31 = true)
    (hidle : s.on TILE_SPARE_STATUS_PENDING = false) :
    let col := v % 2 ^ 6
    let row := v / 2 ^ 8 % 2 ^ 6
    exec (.tileSpareCmd r v) s =
      if s.get (TILE_SPARE_MAP_SUB_ROW col) = row then done (s.put TILE_SPARE_STATUS_RESULT stOK)
      else if s.spareFree col = false then done (s.put TILE_SPARE_STATUS_RESULT stBUSY)
      else done (State.put { s with til := { s.til with
        spareAt := s.til.spareAt ++ [(col, row)]
        bypassAt := if v.testBit 16 then s.til.bypassAt ++ [(col, row)] else s.til.bypassAt
        spareCmd := true } } TILE_SPARE_STATUS_PENDING 1) := by
  change execTileSpareCmd r v s = _
  simp only [execTileSpareCmd, bits_zero, Bool.not_eq_true']
  exact if_neg (by simp [hr, hidle, bit, hgo])

/-- A fault of a tile that is up, and is no MANAGER tile, on a die whose manager pair lives: the tile fails where its column
has no free spare, and is else spared at the wall from its mirror, where it has one (R124, R551, R552). -/
theorem State.tileFault_eq {s : State} {n : Nat} (hn : n < 4096) (hup : (s.tile n).down = false)
    (hwork : s.get (TILE_STATE_STATE n) ≠ 7) (hman : s.isManager n = false)
    (hpair : s.til.mgrLost.contains (n / 1024) = false) :
    (s.spareFree (homeOf n).1 = false → ∀ router, s.tileFault n router = s.failTile n) ∧
    (s.spareFree (homeOf n).1 = true → s.unmirrored n = false → s.tileFault n false =
      let u := s.setTile n { s.tile n with down := true, restoring := true }
      { u with til := { u.til with spareAt := s.til.spareAt ++ [homeOf n] } }) := by
  have hsame : s.pairFault n = s := if_pos (by simp [hman])
  have hfaulty : ¬ (decide (4096 ≤ n) || (s.tile n).down || decide (s.get (TILE_STATE_STATE n) = 7)) = true := by
    simp [hup, hwork, hn]
  refine ⟨fun hspare router => (if_neg hfaulty).trans ?_, fun hspare hmirror => (if_neg hfaulty).trans ?_⟩
  · simp only [hsame, hpair, hspare, Bool.not_false, Bool.false_eq_true, if_false, if_true]
  · simp only [hsame, hpair, hspare, hmirror, Bool.not_true, Bool.false_eq_true, if_false]
    rfl

/-- A mirror that is lost: its bit and the event (R550, R554). -/
theorem State.loseMirror_reads {s : State} (hs : s.Sound) (n : Nat) :
    (s.loseMirror n).reg (PWR_REL_UNMIRRORED (n / 64)) = s.reg (PWR_REL_UNMIRRORED (n / 64)) ||| 2 ^ (n % 64) ∧
      (s.loseMirror n).get PWR_REL_EVENT_MIRROR_LOST = 1 := by
  have hset := (State.setReg_sound hs (PWR_REL_UNMIRRORED (n / 64))
    (s.reg (PWR_REL_UNMIRRORED (n / 64)) ||| 2 ^ (n % 64))).csr
  refine ⟨?_, State.get_put hset PWR_REL_EVENT_MIRROR_LOST 1⟩
  refine (State.reg_put_ne hset (PWR_REL_UNMIRRORED_ne_PWR_REL_EVENT _) 1).trans ?_
  rw [State.reg_setReg hs.csr, if_pos rfl]

/-- Settles O31: the commands along the branch that their checks choose, faults by `State.tileFault_eq`. -/
theorem tileFaultsAndSparing : Obligations.TileFaultsAndSparing := by
  intro s r v n router hs col row x word asks spared
  refine ⟨?_, ?_, ?_, ?_, ?_, ?_, ?_, ?_⟩
  · -- TILE_SPARE_CMD of a row that is spared
    intro ⟨hr, hgo, hidle⟩ hrow
    exact State.sets_of_puts hs.csr ((State.tileSpareCmd_eq hr hgo hidle).trans (if_pos hrow)) (by rfl)
  · -- TILE_SPARE_CMD without a free spare
    intro ⟨hr, hgo, hidle⟩ hrow hspare
    exact State.sets_of_puts hs.csr
      ((State.tileSpareCmd_eq hr hgo hidle).trans ((if_neg hrow).trans (if_pos hspare))) (by rfl)
  · -- TILE_SPARE_CMD with a free spare
    intro ⟨hr, hgo, hidle⟩ hrow hspare
    have hfree : ¬ s.spareFree col = false := by simp [hspare]
    refine State.sets_of_puts ?_
      ((State.tileSpareCmd_eq hr hgo hidle).trans ((if_neg hrow).trans (if_neg hfree))) (by rfl)
    exact hs.csr
  · -- TILE_FAULT_DETECT and TILE_WATCHDOG_EXPIRY
    intro hn hup hwork hman hpair
    obtain ⟨hfails, hspared⟩ := State.tileFault_eq hn hup hwork hman hpair
    refine ⟨fun hspare => congrArg done (hfails hspare router), fun hspare hmirror => ?_⟩
    have hfault : s.tileFault n false = spared := hspared hspare hmirror
    refine ⟨congrArg done hfault, fun hruns => ?_⟩
    exact (if_pos (by simpa using hruns)).trans (congrArg done hfault)
  · -- TILE_RESTORE_COMPLETE
    intro hrest
    exact State.sets_of_puts (u := s.setTile n { x with restoring := false }) hs.csr (if_pos hrest) (by rfl)
  · -- MIRROR_ERROR
    intro hn hbit
    have hmirror : ¬ (decide (4096 ≤ n) || s.unmirrored n) = true := by
      simpa [State.unmirrored, bit, hn] using hbit
    obtain ⟨hreg, hevent⟩ := State.loseMirror_reads
      (s := { s with til := { s.til with recopy := n :: s.til.recopy } }) (hs.upd rfl rfl rfl rfl) n
    exact ⟨_, if_neg hmirror, rfl, hreg, hevent⟩
  · -- MIRROR_RECOPY_COMPLETE
    intro hcopy
    refine ⟨_, if_pos hcopy, rfl, fun k => ?_⟩
    refine (congrArg (Nat.testBit · k) ((State.reg_setReg (s := { s with til := { s.til with
      recopy := s.til.recopy.filter (· != n) } }) hs.csr _ _ _).trans (if_pos rfl))).trans ?_
    rw [testBit_clearMask, Nat.testBit_two_pow]
    by_cases hk : k = n % 64
    · simp [hk]
    · simp [hk, Ne.symm hk, word]
  · -- MANAGER_PARTNER_READY
    intro halone hlost hok
    obtain ⟨hdown0, hstate0⟩ := hok 0 (by decide)
    obtain ⟨hdown1, hstate1⟩ := hok 1 (by decide)
    refine State.sets_of_puts ?_ (if_pos ?_) (by rfl)
    · exact hs.csr
    rw [Nat.add_zero] at hdown0 hstate0
    rw [halone, hlost]
    simp [hdown0, hstate0, hdown1, hstate1]

end Sys2Proof.Machine

namespace Sys2Proof.Machine
open Sys2Proof

/-! ### Queue commands (14_host_interface.md R477 to R481, 03_spindle_tiles.md R132) -/

/-- An admin command acts on the entry that waits at its slot with its opcode. -/
theorem State.adminCmd_eq {s : State} {i slot op : Nat} {e : Entry} (he : s.entry? i 0 slot = some e) (hop : e.op = op)
    (f : Entry → State) : s.adminCmd i slot op f = done (f e) := by
  simp only [State.adminCmd, he, hop, if_true]

/-- QUEUE_DESTROY and QUEUE_RESET act on an I/O queue that exists. -/
theorem State.queueCmd_eq {s : State} {i slot op : Nat} {e : Entry} (he : s.entry? i 0 slot = some e) (hop : e.op = op)
    (hz : e.rsvdZero [(0, 2)] = true) (hq : 1 ≤ e.b 0 2 ∧ e.b 0 2 < 4096) (hst : (s.queue i (e.b 0 2)).state ≠ 0)
    (f : Nat → State) : s.queueCmd i slot op f = done (f (e.b 0 2)) := by
  refine (State.adminCmd_eq he hop _).trans (congrArg done ((if_neg ?_).trans (if_neg hst)))
  simp only [hz, Bool.or_eq_true, decide_eq_true_eq, Bool.not_true, Bool.false_eq_true, false_or]
  omega

/-- The body of a QUEUE_CREATE entry is well formed (R481, Table 14.8). -/
def Entry.queueWell (e : Entry) : Prop :=
  (1 ≤ e.b 0 2 ∧ e.b 0 2 < 4096) ∧ 4 ≤ e.b 2 1 ∧ e.b 2 1 ≤ 16 ∧ e.b 4 2 < 2048 ∧ e.b 6 1 < 4 ∧ e.b 8 8 % 4096 = 0 ∧
    e.b 16 8 % 8 = 0

/-- A value of a QUEUE_CREATE entry is out of range and is clamped (R477). -/
abbrev Entry.queueClamps (e : Entry) : Prop := e.b 3 1 = 0 ∨ e.b 7 1 = 0 ∨ 1000 < e.b 24 2

/-- The queue that a QUEUE_CREATE entry makes. -/
def Entry.newQueue (e : Entry) : Queue where
  state := 1
  log2 := e.b 2 1
  weight := max 1 (e.b 3 1)
  vector := e.b 4 2
  flush := (e.b 6 1).testBit 0
  noIrq := (e.b 6 1).testBit 1
  coalN := max 1 (e.b 7 1)
  coalUs := min (e.b 24 2) 1000
  base := e.b 8 8
  headAddr := e.b 16 8

section
variable {s : State} {i slot : Nat} {e : Entry}

theorem State.queueCreate_malformed (he : s.entry? i 0 slot = some e) (hop : e.op = 0x02)
    (hz : e.rsvdZero [(0, 26)] = true) (hbad : ¬ e.queueWell) :
    exec (.queueCreate i slot) s = done (s.adminEnd i slot stMALFORMED) := by
  refine (State.adminCmd_eq he hop _).trans (congrArg done (if_pos ?_))
  simp only [hz, Bool.or_eq_true, decide_eq_true_eq, Bool.not_true, Bool.false_eq_true, false_or, bne_iff_ne]
  unfold Entry.queueWell at hbad
  omega

theorem State.queueCreate_well (he : s.entry? i 0 slot = some e) (hop : e.op = 0x02)
    (hz : e.rsvdZero [(0, 26)] = true) (hwell : e.queueWell) :
    exec (.queueCreate i slot) s = done (
      if (s.queue i (e.b 0 2)).state ≠ 0 then s.adminEnd i slot stBUSY
      else ((if e.queueClamps then s.bump (RING_CLAMP_COUNT_VAL i) else s).setQueue i (e.b 0 2) e.newQueue).adminEnd
        i slot stOK) := by
  refine (State.adminCmd_eq he hop _).trans (congrArg done ((if_neg ?_).trans ?_))
  · simp only [hz, Bool.or_eq_true, decide_eq_true_eq, Bool.not_true, Bool.false_eq_true, false_or, bne_iff_ne]
    obtain ⟨hq, hlog, hlog', hvec, hflag, hbase, hhead⟩ := hwell
    omega
  · simp only [bne_iff_ne, Bool.or_eq_true, decide_eq_true_eq, or_assoc]
    rfl

/-- TILE_ASSIGN of a tile that no assignment holds: it begins, or ends with its refusal, which the tile's own registers show
only where the entry may name the tile (Table 3.6). -/
theorem State.tileAssign_eq (he : s.entry? i 0 slot = some e) (hop : e.op = 0x08) (hz : e.rsvdZero [(0, 20)] = true)
    (hfree : (s.tile (e.b 0 2)).assign = none) :
    let t := e.b 0 2
    let st := s.assignStatus false (some i) t (e.b 2 2) (e.b 8 8) (e.b 4 4) (e.b 16 4)
    exec (.tileAssign i slot) s = done (
      if st = stOK then s.startAssign t (e.b 2 2) (e.b 8 8) (e.b 4 4) (e.b 16 4) (some (i, slot))
      else (if t < 4096 ∧ s.instOfTile t = i ∧ s.heldTile t = false then s.refuseAssign t st else s).adminEnd i slot st) := by
  intro t st
  refine (State.adminCmd_eq he hop _).trans
    (congrArg done ((if_neg (by simp [hfree])).trans ((if_neg (by simp [hz])).trans ?_)))
  split
  · next h => exact (if_pos h).symm
  · next h =>
    refine Eq.trans ?_ (if_neg h).symm
    simp only [Bool.and_eq_true, decide_eq_true_eq, beq_iff_eq, Bool.not_eq_true', and_assoc]
    rfl

end

/-! ### The admin queue (14_host_interface.md R461, R487) -/

/-- RING_ADMIN_CFG with the settings of a write to the queue while it is disabled. -/
def State.adminSettings (s : State) (i cfg : Nat) : State :=
  ((s.put (RING_ADMIN_CFG_LOG2_SLOTS i) (bits cfg 1 4)).put (RING_ADMIN_CFG_FLUSH_ON_PUBLISH i) (bits cfg 5 1)).put
    (RING_ADMIN_CFG_VECTOR i) (bits cfg 16 11)

theorem State.adminSettings_sound {s : State} (hs : s.Sound) (i cfg : Nat) : (s.adminSettings i cfg).Sound :=
  State.put_sound (State.put_sound (State.put_sound hs _ _) _ _) _ _

@[simp] theorem State.adminSettings_mem (s : State) (i cfg : Nat) : (s.adminSettings i cfg).mem = s.mem :=
  (State.put_mem ..).trans ((State.put_mem ..).trans (State.put_mem ..))

theorem State.adminSettings_reads {s : State} (hs : s.Sound) (i cfg : Nat) :
    (s.adminSettings i cfg).get (RING_ADMIN_CFG_LOG2_SLOTS i) = bits cfg 1 4 ∧
      (s.adminSettings i cfg).get (RING_ADMIN_CFG_VECTOR i) = bits cfg 16 11 := by
  have hlog := State.put_sorted hs.csr (RING_ADMIN_CFG_LOG2_SLOTS i) (bits cfg 1 4)
  have hflush := State.put_sorted hlog (RING_ADMIN_CFG_FLUSH_ON_PUBLISH i) (bits cfg 5 1)
  constructor
  · calc (s.adminSettings i cfg).get (RING_ADMIN_CFG_LOG2_SLOTS i)
      _ = bits cfg 1 4 % 2 ^ 4 :=
        (State.get_put_ne hflush (.inr (.inr (by decide : 1 + 4 ≤ 16))) _).trans
          ((State.get_put_ne hlog (.inr (.inr (by decide : 1 + 4 ≤ 5))) _).trans (State.get_put hs.csr ..))
      _ = bits cfg 1 4 := Nat.mod_mod ..
  · exact (State.get_put hflush ..).trans (Nat.mod_mod ..)

/-- A write that enables the admin queue, within the range of its size. -/
theorem State.adminQueueEnable_eq {s : State} {i cfg : Nat} (hlive : s.instLive i = true) (hen : cfg.testBit 0 = true)
    (hoff : s.on (RING_ADMIN_CFG_ENABLE i) = false) (hlow : 4 ≤ bits cfg 1 4) (hhigh : bits cfg 1 4 ≤ 12) :
    exec (.adminQueueEnable i cfg) s = done ((s.adminSettings i cfg).enableAdmin i) := by
  refine congrArg done ((if_pos hen).trans ((if_neg (by simp [hlive])).trans ((if_neg (by simp [hoff])).trans
    ((if_neg ?_).trans (if_pos hen)))))
  simp only [Bool.and_eq_true, Bool.or_eq_true, decide_eq_true_eq]
  rintro ⟨-, hsize⟩
  omega

/-- A write that would enable it with a size out of range does nothing. -/
theorem State.adminQueueEnable_refused {s : State} {i cfg : Nat} (hlive : s.instLive i = true)
    (hen : cfg.testBit 0 = true) (hoff : s.on (RING_ADMIN_CFG_ENABLE i) = false)
    (hsize : bits cfg 1 4 < 4 ∨ 12 < bits cfg 1 4) : exec (.adminQueueEnable i cfg) s = done s :=
  congrArg done ((if_pos hen).trans ((if_neg (by simp [hlive])).trans ((if_neg (by simp [hoff])).trans
    (if_pos (by simp [bit, hen, hsize])))))

@[simp] theorem State.get_setQueue (s : State) (i q : Nat) (x : Queue) (f : RegFld) : (s.setQueue i q x).get f = s.get f :=
  rfl

/-- The admin queue once it is enabled: ACTIVE and empty, with the settings in the registers. -/
theorem State.enableAdmin_reads {s : State} (hs : s.Sound) (i : Nat) :
    (s.enableAdmin i).mem = s.mem ∧ (s.enableAdmin i).get (RING_ADMIN_CFG_ENABLE i) = 1 ∧
      ((s.enableAdmin i).queue i 0).state = 1 ∧
      ((s.enableAdmin i).queue i 0).log2 = s.get (RING_ADMIN_CFG_LOG2_SLOTS i) ∧
      ((s.enableAdmin i).queue i 0).vector = s.get (RING_ADMIN_CFG_VECTOR i) ∧
      ((s.enableAdmin i).queue i 0).head = 0 ∧ ((s.enableAdmin i).queue i 0).tail = 0 ∧
      ((s.enableAdmin i).queue i 0).window = [] := by
  refine ⟨(State.setQueue_mem ..).trans (State.put_mem ..), ?_, ?_⟩
  · rw [State.enableAdmin, State.get_setQueue]
    exact State.get_put hs.csr _ 1
  rw [State.enableAdmin, State.queue_setQueue_of_ne _ _ _ fun h => Nat.one_ne_zero (congrArg Queue.state h)]
  exact ⟨rfl, rfl, rfl, rfl, rfl, rfl⟩

/-- A write that disables the admin queue resets it (R480) and clears ENABLE. -/
theorem State.adminQueueDisable_resets {s : State} {i : Nat} (hlive : s.instLive i = true)
    (hon : s.on (RING_ADMIN_CFG_ENABLE i) = true) (ring : List Byte) :
    ∃ u, exec (.adminQueueDisable i ring) s = done ((State.resetQueue u i 0 0 ring).put (RING_ADMIN_CFG_ENABLE i) 0) ∧
      u.mem = s.mem ∧ u.til = s.til := by
  have hclear : ¬ bit (clearMask (s.reg (RING_ADMIN_CFG i)) 1) 0 = true := by
    rw [bit, testBit_clearMask, Nat.testBit_one_zero, Bool.not_true, Bool.and_false]
    exact Bool.false_ne_true
  exact ⟨_, congrArg done ((if_pos hon).trans ((if_neg (by simp [hlive])).trans ((if_pos hon).trans (if_neg hclear)))),
    (State.setQueue_mem ..).trans (State.put_mem ..), (State.setQueue_til ..).trans (State.put_til ..)⟩

/-! ### The D640 mailbox (14_host_interface.md R488) -/

/-- While a command is pending and firmware runs, the command that has its number is served. -/
theorem State.d640_eq {s : State} {i : Nat} (hlive : s.instLive i = true) (hbusy : s.on (RING_D640_STATUS_BUSY i) = true)
    (hrun : s.trc.halted = false) (hman : s.til.mgrLost.contains 0 = false) {p : Nat → Bool}
    (hp : p (s.get (RING_D640_CMD_CMD i)) = true) (f : State) : s.d640 i p f = done f := by
  refine congrArg done (if_pos ?_)
  rw [hlive, hbusy, hp, hrun, hman]
  rfl

/-- Settles O48: the commands by the lemmas on each, whose branch the entry's body or the mailbox's command chooses. -/
theorem queueCommands : Obligations.QueueCommands := by
  refine ⟨?_, ?_⟩
  · intro s i slot cfg e ring cmd q ioq good clamps used st on
    refine ⟨?_, ?_, ?_, ?_, ?_, ?_, ?_, ?_, ?_, ?_⟩
    · -- IDENTIFY
      intro ⟨he, hop, hz⟩ hbuf
      exact (State.adminCmd_eq he hop _).trans (congrArg done (if_neg (by simp [hz, hbuf])))
    · -- QUEUE_CREATE of an ill-formed entry
      intro ⟨he, hop, hz⟩ hbad
      exact State.queueCreate_malformed he hop hz hbad
    · -- QUEUE_CREATE of a queue that exists
      intro ⟨he, hop, hz⟩ hgood hst
      exact (State.queueCreate_well he hop hz hgood).trans (congrArg done (if_pos hst))
    · -- QUEUE_CREATE
      intro ⟨he, hop, hz⟩ hgood hst x
      have hnew := (State.queueCreate_well he hop hz hgood).trans (congrArg done (if_neg (not_not.2 hst)))
      refine ⟨fun hclamps => hnew.trans ?_, fun hclamps => hnew.trans ?_⟩
      · rw [if_pos (show e.queueClamps from hclamps)]
        rfl
      · rw [if_neg (show ¬ e.queueClamps from hclamps)]
        rfl
    · -- QUEUE_DESTROY
      intro ⟨he, hop, hz⟩ hq hst
      change (used → execQueueDestroy i slot ring s = _) ∧ (¬ used → execQueueDestroy i slot ring s = _)
      rw [execQueueDestroy, State.queueCmd_eq he hop hz hq hst]
      exact ⟨fun hused => congrArg done (if_pos hused), fun hfree => congrArg done (if_neg hfree)⟩
    · -- QUEUE_RESET
      intro ⟨he, hop, hz⟩ hq hst
      change execQueueReset i slot ring s = _
      rw [execQueueReset, State.queueCmd_eq he hop hz hq hst]
    · -- TILE_ASSIGN
      intro ⟨he, hop, hz⟩ hfree
      have hassign := State.tileAssign_eq he hop hz hfree
      refine ⟨fun hok => hassign.trans (congrArg done (if_pos hok)), fun hbad ht hi hheld => ?_, fun hbad hnot => ?_⟩
      · refine hassign.trans (congrArg done ((if_neg hbad).trans ?_))
        rw [if_pos ⟨ht, hi, hheld⟩]
      · refine hassign.trans (congrArg done ((if_neg hbad).trans ?_))
        rw [if_neg fun h => ?_]
        rcases hnot with h4096 | hinst | hheld
        · exact absurd h.1 (Nat.not_lt.2 h4096)
        · exact hinst h.2.1
        · exact absurd (hheld.symm.trans h.2.2) (by decide)
    · -- ADMIN_QUEUE_ENABLE
      intro hs hlive hen hoff hlow hhigh
      obtain ⟨hlog, hvec⟩ := State.adminSettings_reads hs i cfg
      obtain ⟨hmem, hone, hstate, hlog2, hvector, hempty⟩ := State.enableAdmin_reads (State.adminSettings_sound hs i cfg) i
      exact ⟨_, State.adminQueueEnable_eq hlive hen (Bool.eq_false_iff.2 hoff) hlow hhigh,
        hmem.trans (State.adminSettings_mem ..), hone, hstate, hlog2.trans hlog, hvector.trans hvec, hempty⟩
    · -- ADMIN_QUEUE_ENABLE with a size out of range
      intro hlive hen hoff hsize
      exact State.adminQueueEnable_refused hlive hen (Bool.eq_false_iff.2 hoff) hsize
    · -- ADMIN_QUEUE_DISABLE
      intro hlive hon
      exact State.adminQueueDisable_resets hlive hon ring
  · intro s i temps hlive hbusy hrun hman c p ends
    have hserve (f : Nat → Bool) (hf : f c = true) (u : State) : s.d640 i f u = done u :=
      State.d640_eq hlive hbusy hrun hman hf u
    refine ⟨?_, ?_, ?_, ?_, ?_, ?_, ?_, ?_, ?_⟩
    · -- GET_VERSION
      intro hc
      exact hserve (· == 1) (by simp [hc]) _
    · -- GET_PORT
      intro hc hport
      exact (hserve (· == 2) (by simp [hc]) _).trans (congrArg done (if_pos hport))
    · -- GET_PORT of a port that does not exist
      intro hc hport
      exact (hserve (· == 2) (by simp [hc]) _).trans (congrArg done (if_neg (Bool.eq_false_iff.1 hport)))
    · -- GET_PORT_COUNTERS
      intro hc hport
      exact (hserve (· == 3) (by simp [hc]) _).trans (congrArg done (if_pos hport))
    · -- GET_PORT_COUNTERS of a port that does not exist
      intro hc hport
      exact (hserve (· == 3) (by simp [hc]) _).trans (congrArg done (if_neg (Bool.eq_false_iff.1 hport)))
    · -- GET_TEMP
      intro hc
      exact hserve (· == 4) (by simp [hc]) _
    · -- GET_MAC
      intro hc q hq
      change execD640GetMac i s = _
      simp only [execD640GetMac, hq]
      exact hserve (· == 6) (by simp [hc]) _
    · -- ECHO
      intro hc
      exact hserve (· == 7) (by simp [hc]) _
    · -- a command that Table 14.13 does not list
      intro hc
      exact hserve (fun k => !d640Cmds.contains k) (by simpa [d640Cmds] using hc) _

end Sys2Proof.Machine

/-! ### What every step keeps (04_spindle_isa_core.md R139) -/

namespace Sys2Proof.Machine
open Sys2Proof

/-- Every command keeps a well-kept state well kept: the lemma of its meaning. -/
theorem exec_sound {s : State} (h : s.Sound) (c : Instr) : soundOut (exec c s) := by
  cases c with
  | registerWrite => exact execRegisterWrite_sound h ..
  | rcCounterRead => exact execRcCounterRead_sound h ..
  | pickTodSecRead => exact execPickTodSecRead_sound h
  | pickTodSet => exact execPickTodSet_sound h ..
  | pickWall => exact execPickWall_sound h
  | contextSWake => exact execContextSWake_sound h ..
  | cellSample => exact execCellSample_sound h ..
  | scheduledCellSend => exact execScheduledCellSend_sound h ..
  | syncSymbolSend => exact execSyncSymbolSend_sound h
  | syncSymbolReceive => exact execSyncSymbolReceive_sound h ..
  | listenAcquire => exact execListenAcquire_sound h
  | acquireExchangeComplete => exact execAcquireExchangeComplete_sound h ..
  | frequencyEstimateDone => exact execFrequencyEstimateDone_sound h ..
  | lockAcquired => exact execLockAcquired_sound h
  | parentLoss => exact execParentLoss_sound h
  | successorTakeover => exact execSuccessorTakeover_sound h
  | holdoverLimitExpiry => exact execHoldoverLimitExpiry_sound h
  | ppsEdge => exact execPpsEdge_sound h
  | referenceLoss => exact execReferenceLoss_sound h
  | referenceReturn => exact execReferenceReturn_sound h
  | ptpMessageReceive => exact execPtpMessageReceive_sound h ..
  | cellReceive => exact execCellReceive_sound h ..
  | streamDeadline => exact execStreamDeadline_sound h ..
  | warpLoad => exact execWarpLoad_sound h ..
  | warpLoadComplete => exact execWarpLoadComplete_sound h ..
  | warpArm => exact execWarpArm_sound h ..
  | warpDisarm => exact execWarpDisarm_sound h ..
  | warpClear => exact execWarpClear_sound h ..
  | warpArmEmpty => exact execWarpArmEmpty_sound h ..
  | messageAccept => exact execMessageAccept_sound h ..
  | meshHop => exact execMeshHop_sound h ..
  | returnedMessageArrive => exact execReturnedMessageArrive_sound h ..
  | tileCtrlAssign => exact execTileCtrlAssign_sound h ..
  | roleChangeDrained => exact execRoleChangeDrained_sound h ..
  | tileLoadDone => exact execTileLoadDone_sound h ..
  | tileSpareCmd => exact execTileSpareCmd_sound h ..
  | tileFaultDetect => exact execTileFaultDetect_sound h ..
  | tileWatchdogExpiry => exact execTileWatchdogExpiry_sound h ..
  | tileRestoreComplete => exact execTileRestoreComplete_sound h ..
  | mirrorError => exact execMirrorError_sound h ..
  | mirrorRecopyComplete => exact execMirrorRecopyComplete_sound h ..
  | managerPartnerReady => exact execManagerPartnerReady_sound h ..
  | add => exact execAdd_sound h ..
  | sub => exact execSub_sound h ..
  | and => exact execAnd_sound h ..
  | or => exact execOr_sound h ..
  | xor => exact execXor_sound h ..
  | sll => exact execSll_sound h ..
  | srl => exact execSrl_sound h ..
  | sra => exact execSra_sound h ..
  | slt => exact execSlt_sound h ..
  | sltu => exact execSltu_sound h ..
  | min => exact execMin_sound h ..
  | max => exact execMax_sound h ..
  | minu => exact execMinu_sound h ..
  | maxu => exact execMaxu_sound h ..
  | mul => exact execMul_sound h ..
  | mulh => exact execMulh_sound h ..
  | mulhu => exact execMulhu_sound h ..
  | mulhsu => exact execMulhsu_sound h ..
  | div => exact execDiv_sound h ..
  | divu => exact execDivu_sound h ..
  | rem => exact execRem_sound h ..
  | remu => exact execRemu_sound h ..
  | clz => exact execClz_sound h ..
  | ctz => exact execCtz_sound h ..
  | popc => exact execPopc_sound h ..
  | addw => exact execAddw_sound h ..
  | subw => exact execSubw_sound h ..
  | sllw => exact execSllw_sound h ..
  | srlw => exact execSrlw_sound h ..
  | sraw => exact execSraw_sound h ..
  | mulw => exact execMulw_sound h ..
  | divw => exact execDivw_sound h ..
  | divuw => exact execDivuw_sound h ..
  | remw => exact execRemw_sound h ..
  | remuw => exact execRemuw_sound h ..
  | addi => exact execAddi_sound h ..
  | andi => exact execAndi_sound h ..
  | ori => exact execOri_sound h ..
  | xori => exact execXori_sound h ..
  | slti => exact execSlti_sound h ..
  | sltiu => exact execSltiu_sound h ..
  | slli => exact execSlli_sound h ..
  | srli => exact execSrli_sound h ..
  | srai => exact execSrai_sound h ..
  | lui => exact execLui_sound h ..
  | addiw => exact execAddiw_sound h ..
  | lb => exact execLb_sound h ..
  | lbu => exact execLbu_sound h ..
  | lh => exact execLh_sound h ..
  | lhu => exact execLhu_sound h ..
  | lw => exact execLw_sound h ..
  | lwu => exact execLwu_sound h ..
  | ld => exact execLd_sound h ..
  | sb => exact execSb_sound h ..
  | sh => exact execSh_sound h ..
  | sw => exact execSw_sound h ..
  | sd => exact execSd_sound h ..
  | beq => exact execBeq_sound h ..
  | bne => exact execBne_sound h ..
  | blt => exact execBlt_sound h ..
  | bge => exact execBge_sound h ..
  | bltu => exact execBltu_sound h ..
  | bgeu => exact execBgeu_sound h ..
  | jal => exact execJal_sound h ..
  | jalr => exact execJalr_sound h ..
  | msend => exact execMsend_sound h ..
  | msendBufferAccept => exact execMsendBufferAccept_sound h ..
  | mrecv => exact execMrecv_sound h ..
  | mrecvWaitTake => exact execMrecvWaitTake_sound h ..
  | mret => exact execMret_sound h ..
  | mretWaitTake => exact execMretWaitTake_sound h ..
  | skiss => exact execSkiss_sound h ..
  | skissHandleWait => exact execSkissHandleWait_sound h ..
  | skwait => exact execSkwait_sound h ..
  | skwaitComplete => exact execSkwaitComplete_sound h ..
  | skstat => exact execSkstat_sound h ..
  | chtake => exact execChtake_sound h ..
  | chtakew => exact execChtakew_sound h ..
  | chtakewWaitTake => exact execChtakewWaitTake_sound h ..
  | cvfb => exact execCvfb_sound h ..
  | cvfh => exact execCvfh_sound h ..
  | cvfw => exact execCvfw_sound h ..
  | cvrst => exact execCvrst_sound h ..
  | cvrd => exact execCvrd_sound h ..
  | cvwr => exact execCvwr_sound h ..
  | cvfin => exact execCvfin_sound h ..
  | cvcmp => exact execCvcmp_sound h ..
  | cvset => exact execCvset_sound h ..
  | yield => exact execYield_sound h ..
  | waitc => exact execWaitc_sound h ..
  | waitcRetire => exact execWaitcRetire_sound h ..
  | rdyset => exact execRdyset_sound h ..
  | rdytst => exact execRdytst_sound h ..
  | mfs => exact execMfs_sound h ..
  | mts => exact execMts_sound h ..
  | eret => exact execEret_sound h ..
  | trap => exact execTrap_sound h ..
  | rgld32 => exact execRgld32_sound h ..
  | rgld64 => exact execRgld64_sound h ..
  | rgst32 => exact execRgst32_sound h ..
  | rgst64 => exact execRgst64_sound h ..
  | vld => exact execVld_sound h ..
  | vst => exact execVst_sound h ..
  | ald => exact execAld_sound h ..
  | ast => exact execAst_sound h ..
  | xst => exact execXst_sound h ..
  | xldi => exact execXldi_sound h ..
  | xmrg => exact execXmrg_sound h ..
  | vadd => exact execVadd_sound h ..
  | vsub => exact execVsub_sound h ..
  | vmul => exact execVmul_sound h ..
  | vfma => exact execVfma_sound h ..
  | vmin => exact execVmin_sound h ..
  | vmax => exact execVmax_sound h ..
  | vabs => exact execVabs_sound h ..
  | vneg => exact execVneg_sound h ..
  | vand => exact execVand_sound h ..
  | vor => exact execVor_sound h ..
  | vxor => exact execVxor_sound h ..
  | vmov => exact execVmov_sound h ..
  | vdot => exact execVdot_sound h ..
  | vcvt => exact execVcvt_sound h ..
  | vqnt => exact execVqnt_sound h ..
  | vdq => exact execVdq_sound h ..
  | xclr => exact execXclr_sound h ..
  | xaddv => exact execXaddv_sound h ..
  | xadda => exact execXadda_sound h ..
  | xadds => exact execXadds_sound h ..
  | xrd => exact execXrd_sound h ..
  | scoreb => exact execScoreb_sound h ..
  | tkclr => exact execTkclr_sound h ..
  | tkins => exact execTkins_sound h ..
  | tkout => exact execTkout_sound h ..
  | tkcnt => exact execTkcnt_sound h ..
  | demote => exact execDemote_sound h ..
  | promote => exact execPromote_sound h ..
  | vmfsr => exact execVmfsr_sound h ..
  | vmtsr => exact execVmtsr_sound h ..
  | vbcast => exact execVbcast_sound h ..
  | vext => exact execVext_sound h ..
  | afromv => exact execAfromv_sound h ..
  | atov => exact execAtov_sound h ..
  | azero => exact execAzero_sound h ..
  | longInstructionStart => exact execLongInstructionStart_sound h ..
  | reservedEncodingIssue => exact execReservedEncodingIssue_sound h ..
  | skeinFenceStart => exact execSkeinFenceStart_sound h ..
  | skeinChunkEnd => exact execSkeinChunkEnd_sound h ..
  | skeinQueueRoom => exact execSkeinQueueRoom_sound h ..
  | skeinFault => exact execSkeinFault_sound h ..
  | skeinEarlyEnd => exact execSkeinEarlyEnd_sound h ..
  | skeinComplete => exact execSkeinComplete_sound h ..
  | cqEnable => exact execCqEnable_sound h ..
  | cqDisable => exact execCqDisable_sound h ..
  | memoryRead => exact execMemoryRead_sound h ..
  | memoryWrite => exact execMemoryWrite_sound h ..
  | monitorWindowEnd => exact execMonitorWindowEnd_sound h ..
  | migrationLineMove => exact execMigrationLineMove_sound h ..
  | migrationComplete => exact execMigrationComplete_sound h ..
  | holdExpiry => exact execHoldExpiry_sound h ..
  | rowRepairStart => exact execRowRepairStart_sound h ..
  | rowRepairLineStep => exact execRowRepairLineStep_sound h ..
  | dieMarkFailed => exact execDieMarkFailed_sound h ..
  | rebuildLineStep => exact execRebuildLineStep_sound h ..
  | rebuildComplete => exact execRebuildComplete_sound h ..
  | deviceMarkFailed => exact execDeviceMarkFailed_sound h ..
  | channelMoveLineStep => exact execChannelMoveLineStep_sound h ..
  | channelMoveComplete => exact execChannelMoveComplete_sound h ..
  | scrubLine => exact execScrubLine_sound h ..
  | scrubPassComplete => exact execScrubPassComplete_sound h ..
  | memMarkNearDie => exact execMemMarkNearDie_sound h ..
  | memMarkFarDevice => exact execMemMarkFarDevice_sound h ..
  | memResaltRegion => exact execMemResaltRegion_sound h ..
  | xltAsidCreate => exact execXltAsidCreate_sound h ..
  | xltAsidDestroy => exact execXltAsidDestroy_sound h ..
  | xltMap => exact execXltMap_sound h ..
  | xltUnmap => exact execXltUnmap_sound h ..
  | xltProtect => exact execXltProtect_sound h ..
  | xltSetHost => exact execXltSetHost_sound h ..
  | migrateIn => exact execMigrateIn_sound h ..
  | migrateInComplete => exact execMigrateInComplete_sound h ..
  | migrateOut => exact execMigrateOut_sound h ..
  | migrateOutComplete => exact execMigrateOutComplete_sound h ..
  | faultFail => exact execFaultFail_sound h ..
  | xltInvalidateComplete => exact execXltInvalidateComplete_sound h ..
  | translationWalk => exact execTranslationWalk_sound h ..
  | faultBatchSend => exact execFaultBatchSend_sound h ..
  | parkedRequestRetry => exact execParkedRequestRetry_sound h ..
  | faultTimeout => exact execFaultTimeout_sound h ..
  | xltFrConsWrite => exact execXltFrConsWrite_sound h ..
  | xltFrEnableWrite => exact execXltFrEnableWrite_sound h ..
  | modelLoad => exact execModelLoad_sound h ..
  | modelLoadComplete => exact execModelLoadComplete_sound h ..
  | modelUnload => exact execModelUnload_sound h ..
  | seqOpen => exact execSeqOpen_sound h ..
  | seqClose => exact execSeqClose_sound h ..
  | streamStart => exact execStreamStart_sound h ..
  | streamStop => exact execStreamStop_sound h ..
  | reshardRun => exact execReshardRun_sound h ..
  | reshardPlanComplete => exact execReshardPlanComplete_sound h ..
  | pageStep => exact execPageStep_sound h ..
  | pageReserveRefill => exact execPageReserveRefill_sound h ..
  | pageDemotion => exact execPageDemotion_sound h ..
  | pagePromotion => exact execPagePromotion_sound h ..
  | pageMoveSwitch => exact execPageMoveSwitch_sound h ..
  | qpCreate => exact execQpCreate_sound h ..
  | qpModify => exact execQpModify_sound h ..
  | qpQuery => exact execQpQuery_sound h ..
  | qpDestroy => exact execQpDestroy_sound h ..
  | workRequest => exact execWorkRequest_sound h ..
  | regionRegister => exact execRegionRegister_sound h ..
  | regionRevoke => exact execRegionRevoke_sound h ..
  | regionRevokeComplete => exact execRegionRevokeComplete_sound h ..
  | regionQuery => exact execRegionQuery_sound h ..
  | pacerRelease => exact execPacerRelease_sound h ..
  | weftPacketStart => exact execWeftPacketStart_sound h ..
  | writePacketReceive => exact execWritePacketReceive_sound h ..
  | fenceLastPlace => exact execFenceLastPlace_sound h ..
  | placementVisible => exact execPlacementVisible_sound h ..
  | ackDelayExpiry => exact execAckDelayExpiry_sound h ..
  | immediateNotification => exact execImmediateNotification_sound h ..
  | readReqReceive => exact execReadReqReceive_sound h ..
  | readRespReceive => exact execReadRespReceive_sound h ..
  | ackReceive => exact execAckReceive_sound h ..
  | nakReceive => exact execNakReceive_sound h ..
  | resumeReceive => exact execResumeReceive_sound h ..
  | ceEchoReceive => exact execCeEchoReceive_sound h ..
  | ceEchoTimer => exact execCeEchoTimer_sound h ..
  | retransmitTimerExpiry => exact execRetransmitTimerExpiry_sound h ..
  | faultWaitProbe => exact execFaultWaitProbe_sound h ..
  | rateUpdate => exact execRateUpdate_sound h ..
  | quarantineExpiry => exact execQuarantineExpiry_sound h ..
  | bucketRefill => exact execBucketRefill_sound h ..
  | colGroupCreate => exact execColGroupCreate_sound h ..
  | colGroupReset => exact execColGroupReset_sound h ..
  | colGroupDestroy => exact execColGroupDestroy_sound h ..
  | colRun => exact execColRun_sound h ..
  | tileColRun => exact execTileColRun_sound h ..
  | colChunkSignal => exact execColChunkSignal_sound h ..
  | pinchHostPost => exact execPinchHostPost_sound h ..
  | pinchTilePost => exact execPinchTilePost_sound h ..
  | pinchArriveReceive => exact execPinchArriveReceive_sound h ..
  | pinchReleaseReceive => exact execPinchReleaseReceive_sound h ..
  | pinchAckReceive => exact execPinchAckReceive_sound h ..
  | pinchReplayTimeout => exact execPinchReplayTimeout_sound h ..
  | pinchOpTimeout => exact execPinchOpTimeout_sound h ..
  | pinchFrameSend => exact execPinchFrameSend_sound h ..
  | cageCfgWrite => exact execCageCfgWrite_sound h ..
  | laneDown => exact execLaneDown_sound h ..
  | laneTrainingComplete => exact execLaneTrainingComplete_sound h ..
  | laneTrainingTimeout => exact execLaneTrainingTimeout_sound h ..
  | laneShiftCmd => exact execLaneShiftCmd_sound h ..
  | shiftSpareReady => exact execShiftSpareReady_sound h ..
  | creditWordReceive => exact execCreditWordReceive_sound h ..
  | lossWordReceive => exact execLossWordReceive_sound h ..
  | fabricFrameReceive => exact execFabricFrameReceive_sound h ..
  | ethernetFrameReceive => exact execEthernetFrameReceive_sound h ..
  | xoffRefresh => exact execXoffRefresh_sound h ..
  | pauseFrameReceive => exact execPauseFrameReceive_sound h ..
  | pauseExpiry => exact execPauseExpiry_sound h ..
  | lpiEntry => exact execLpiEntry_sound h ..
  | lldpSend => exact execLldpSend_sound h ..
  | lldpReceive => exact execLldpReceive_sound h ..
  | doorbellWrite => exact execDoorbellWrite_sound h ..
  | ringEntryTake => exact execRingEntryTake_sound h ..
  | ownPoll => exact execOwnPoll_sound h ..
  | ringReadRetry => exact execRingReadRetry_sound h ..
  | headPublish => exact execHeadPublish_sound h ..
  | coalesceTimer => exact execCoalesceTimer_sound h ..
  | ringSyncRead => exact execRingSyncRead_sound h ..
  | heartbeatWrite => exact execHeartbeatWrite_sound h ..
  | heartbeatTimeout => exact execHeartbeatTimeout_sound h ..
  | adminQueueEnable => exact execAdminQueueEnable_sound h ..
  | adminQueueDisable => exact execAdminQueueDisable_sound h ..
  | nop => exact execNop_sound h ..
  | identify => exact execIdentify_sound h ..
  | queueCreate => exact execQueueCreate_sound h ..
  | queueDestroy => exact execQueueDestroy_sound h ..
  | queueReset => exact execQueueReset_sound h ..
  | asyncEvent => exact execAsyncEvent_sound h ..
  | reattach => exact execReattach_sound h ..
  | tileAssign => exact execTileAssign_sound h ..
  | hostToDev => exact execHostToDev_sound h ..
  | devToHost => exact execDevToHost_sound h ..
  | inlineToDev => exact execInlineToDev_sound h ..
  | copyComplete => exact execCopyComplete_sound h ..
  | pcieLinkDown => exact execPcieLinkDown_sound h
  | perstAssert => exact execPerstAssert_sound h
  | bmeClear => exact execBmeClear_sound h ..
  | d640GetVersion => exact execD640GetVersion_sound h ..
  | d640GetPort => exact execD640GetPort_sound h ..
  | d640GetPortCounters => exact execD640GetPortCounters_sound h ..
  | d640GetTemp => exact execD640GetTemp_sound h ..
  | d640GetMac => exact execD640GetMac_sound h ..
  | d640Echo => exact execD640Echo_sound h ..
  | d640Unsupported => exact execD640Unsupported_sound h ..
  | instCreate => exact execInstCreate_sound h
  | instQuiesce => exact execInstQuiesce_sound h
  | quiesceComplete => exact execQuiesceComplete_sound h ..
  | quiesceLimitExpiry => exact execQuiesceLimitExpiry_sound h ..
  | instResume => exact execInstResume_sound h
  | instReset => exact execInstReset_sound h
  | instRemove => exact execInstRemove_sound h
  | instSetMode => exact execInstSetMode_sound h
  | functionLevelReset => exact execFunctionLevelReset_sound h ..
  | mbxSend => exact execMbxSend_sound h ..
  | mbxWithdraw => exact execMbxWithdraw_sound h ..
  | mbxTake => exact execMbxTake_sound h ..
  | mbxAck => exact execMbxAck_sound h ..
  | mbxHello => exact execMbxHello_sound h ..
  | mbxResetRequest => exact execMbxResetRequest_sound h ..
  | provision => exact execProvision_sound h ..
  | forget => exact execForget_sound h
  | keyInstall => exact execKeyInstall_sound h
  | keySwitch => exact execKeySwitch_sound h
  | keyRetire => exact execKeyRetire_sound h
  | keyClear => exact execKeyClear_sound h
  | debugUnlock => exact execDebugUnlock_sound h ..
  | debugOpen => exact execDebugOpen_sound h
  | tamperAlarm => exact execTamperAlarm_sound h ..
  | secTamperClear => exact execSecTamperClear_sound h ..
  | cellLow => exact execCellLow_sound h
  | entropyHealthFail => exact execEntropyHealthFail_sound h
  | noiseRetest => exact execNoiseRetest_sound h ..
  | drbgReseed => exact execDrbgReseed_sound h
  | calStart => exact execCalStart_sound h ..
  | calStep => exact execCalStep_sound h ..
  | calComplete => exact execCalComplete_sound h ..
  | fwStage => exact execFwStage_sound h ..
  | fwActivate => exact execFwActivate_sound h
  | fwConfirm => exact execFwConfirm_sound h
  | fwRevert => exact execFwRevert_sound h
  | fwTrialExpiry => exact execFwTrialExpiry_sound h
  | traceCollect => exact execTraceCollect_sound h ..
  | saffronFrameSend => exact execSaffronFrameSend_sound h
  | saffronLaneDown => exact execSaffronLaneDown_sound h ..
  | traceMark => exact execTraceMark_sound h ..
  | triggerArm => exact execTriggerArm_sound h ..
  | triggerCmdFire => exact execTriggerCmdFire_sound h ..
  | freezePinEdge => exact execFreezePinEdge_sound h
  | freezeSnapshot => exact execFreezeSnapshot_sound h
  | triggerCmdThaw => exact execTriggerCmdThaw_sound h ..
  | triggerCmdResume => exact execTriggerCmdResume_sound h ..
  | haltAll => exact execHaltAll_sound h
  | haltComplete => exact execHaltComplete_sound h
  | scanStart => exact execScanStart_sound h ..
  | scanComplete => exact execScanComplete_sound h
  | jtagIdcode => exact execJtagIdcode_sound h
  | jtagUnlock => exact execJtagUnlock_sound h
  | jtagHalt => exact execJtagHalt_sound h
  | jtagResume => exact execJtagResume_sound h
  | jtagScanSel => exact execJtagScanSel_sound h ..
  | jtagScanData => exact execJtagScanData_sound h ..
  | jtagBypass => exact execJtagBypass_sound h
  | powerOnReset => exact execPowerOnReset_sound h ..
  | coldReset => exact execColdReset_sound h ..
  | warmReset => exact execWarmReset_sound h ..
  | pllLockLoss => exact execPllLockLoss_sound h ..
  | powerTrip => exact execPowerTrip_sound h ..
  | powerControlTick => exact execPowerControlTick_sound h ..
  | paceCfgWrite => exact execPaceCfgWrite_sound h ..
  | paceMapWrite => exact execPaceMapWrite_sound h ..
  | moduleInsert => exact execModuleInsert_sound h ..
  | moduleRemove => exact execModuleRemove_sound h ..
  | smbReadVin => exact execSmbReadVin_sound h
  | smbReadPin => exact execSmbReadPin_sound h
  | smbReadDieTemp => exact execSmbReadDieTemp_sound h
  | smbReadMemTemp => exact execSmbReadMemTemp_sound h
  | smbReadBootStatus => exact execSmbReadBootStatus_sound h
  | smbReadLastTrip => exact execSmbReadLastTrip_sound h
  | smbReadSecState => exact execSmbReadSecState_sound h
  | smbReadIdentity => exact execSmbReadIdentity_sound h
  | smbUnknownCommand => exact execSmbUnknownCommand_sound h ..
  | cellReplace => exact execCellReplace_sound h
  | cellExhausted => exact execCellExhausted_sound h
  | pcieLinkUp => exact execPcieLinkUp_sound h
  | instanceResetDone => exact execInstanceResetDone_sound h ..

theorem State.idle_sound {s : State} (h : s.Sound) : s.idle.Sound :=
  sound_ite ((State.elapse_sound h 1).upd rfl rfl rfl rfl) h

theorem step_sound {s : State} (h : s.Sound) : soundOut (step s) := by
  unfold step
  split
  next c rest _ => exact exec_sound (s := { s with pending := rest }) (h.upd rfl rfl rfl rfl) c
  next => exact soundOut_next.2 (State.idle_sound h)

/-- Settles O3: `exec_sound` on the front command, and on an empty queue only the clock moves. -/
theorem stepKeepsSound : Obligations.StepKeepsSound :=
  fun _ t h hstep => (step_sound h).next t hstep

/-- Settles O2. -/
theorem resetIsSound : Obligations.ResetIsSound := State.reset_sound

end Sys2Proof.Machine

/-! ### Results of the scalar integer instructions (04_spindle_isa_core.md R139, R150 to R152) -/

namespace Sys2Proof.Machine
open Sys2Proof

/-! Register operations of a context that may issue. -/

theorem State.alu_eq {s : State} {i : Issue} (h : s.ready i) (rd a b : SReg) (f : Word → Word → Word) :
    s.alu i rd a b f = done (s.result i rd (f (s.rs i a) (s.rs i b))) :=
  State.issue_ready h _

theorem State.alu1_eq {s : State} {i : Issue} (h : s.ready i) (rd a : SReg) (f : Word → Word) :
    s.alu1 i rd a f = done (s.result i rd (f (s.rs i a))) :=
  State.issue_ready h _

/-! Comparisons, minimum and maximum. -/

theorem flag_slt (x y : Word) : flag (x.slt y) = if x.toInt < y.toInt then 1 else 0 := by
  simp only [flag, BitVec.slt, decide_eq_true_eq]

theorem flag_ult (x y : Word) : flag (x.ult y) = if x.toNat < y.toNat then 1 else 0 := by
  simp only [flag, BitVec.ult, decide_eq_true_eq]

theorem ite_slt_eq_min (x y : Word) : (if x.slt y then x else y) = BitVec.ofInt 64 (min x.toInt y.toInt) := by
  rw [BitVec.slt, min_def_lt, apply_ite (BitVec.ofInt 64), BitVec.ofInt_toInt, BitVec.ofInt_toInt]
  simp only [decide_eq_true_eq]

theorem ite_slt_eq_max (x y : Word) : (if x.slt y then y else x) = BitVec.ofInt 64 (max x.toInt y.toInt) := by
  rw [BitVec.slt, max_def_lt, apply_ite (BitVec.ofInt 64), BitVec.ofInt_toInt, BitVec.ofInt_toInt]
  simp only [decide_eq_true_eq]

theorem ite_ult_eq_min (x y : Word) : (if x.ult y then x else y) = BitVec.ofNat 64 (min x.toNat y.toNat) := by
  rw [BitVec.ult, min_def_lt, apply_ite (BitVec.ofNat 64), BitVec.ofNat_toNat, BitVec.ofNat_toNat]
  simp only [decide_eq_true_eq, BitVec.setWidth_eq]

theorem ite_ult_eq_max (x y : Word) : (if x.ult y then y else x) = BitVec.ofNat 64 (max x.toNat y.toNat) := by
  rw [BitVec.ult, max_def_lt, apply_ite (BitVec.ofNat 64), BitVec.ofNat_toNat, BitVec.ofNat_toNat]
  simp only [decide_eq_true_eq, BitVec.setWidth_eq]

/-! Products, quotients and remainders (Table 4.5), at every width. -/

theorem high64_natCast (n : Nat) : high64 n = BitVec.ofNat 64 (n / 2 ^ 64) := by
  rw [high64, ← BitVec.ofInt_natCast, Int.natCast_ediv]
  rfl

theorem divS_eq {n : Nat} (x y : BitVec n) :
    divS x y = if y = 0 then -1 else BitVec.ofInt n (x.toInt.tdiv y.toInt) := by
  refine congrArg₂ (ite (y = 0)) BitVec.neg_one_eq_allOnes.symm ?_
  exact BitVec.eq_of_toInt_eq (by rw [BitVec.toInt_sdiv, BitVec.toInt_ofInt])

theorem divU_eq {n : Nat} (x y : BitVec n) :
    divU x y = if y = 0 then -1 else BitVec.ofNat n (x.toNat / y.toNat) := by
  refine congrArg₂ (ite (y = 0)) BitVec.neg_one_eq_allOnes.symm ?_
  exact BitVec.eq_of_toNat_eq (by
    rw [BitVec.udiv_eq, BitVec.toNat_udiv, BitVec.toNat_ofNat, Nat.mod_eq_of_lt ((Nat.div_le_self ..).trans_lt x.isLt)])

theorem remS_eq {n : Nat} (x y : BitVec n) :
    remS x y = if y = 0 then x else BitVec.ofInt n (x.toInt.tmod y.toInt) := by
  rw [remS, ← BitVec.toInt_srem, BitVec.ofInt_toInt]

theorem remU_eq {n : Nat} (x y : BitVec n) :
    remU x y = if y = 0 then x else BitVec.ofNat n (x.toNat % y.toNat) := by
  rw [remU, BitVec.umod_eq, ← BitVec.toNat_umod, BitVec.ofNat_toNat, BitVec.setWidth_eq]

/-! Counts of bits. -/

/-- CLZ counts the zeros above the highest one bit. -/
theorem getLsbD_clz (x : Word) : ∃ n : Nat, clz64 x = BitVec.ofNat 64 n ∧ n ≤ 64 ∧
    (∀ k, 64 - n ≤ k → x.getLsbD k = false) ∧ (n < 64 → x.getLsbD (63 - n) = true) := by
  refine ⟨_, rfl, ?_⟩
  by_cases hx : x = 0
  · rw [if_pos hx]
    exact ⟨le_rfl, fun k _ => by simp [hx], fun h => absurd h (lt_irrefl 64)⟩
  · have hne : x.toNat ≠ 0 := fun h => hx (BitVec.eq_of_toNat_eq h)
    have hlog : Nat.log2 x.toNat < 64 := (Nat.log2_lt hne).2 x.isLt
    rw [if_neg hx]
    refine ⟨by omega, fun k hk => Nat.testBit_lt_two_pow ((Nat.log2_lt hne).1 (by omega)), fun _ => ?_⟩
    rw [show 63 - (63 - Nat.log2 x.toNat) = Nat.log2 x.toNat by omega]
    exact Nat.testBit_log2 hne

/-- The search of CTZ from bit `k` stops at the lowest one bit, or at its end. -/
theorem ctzFrom_spec (x : Word) (f k : Nat) : k ≤ ctzFrom x f k ∧ ctzFrom x f k ≤ k + f ∧
    (∀ j, k ≤ j → j < ctzFrom x f k → x.getLsbD j = false) ∧
    (ctzFrom x f k < k + f → x.getLsbD (ctzFrom x f k) = true) := by
  induction f generalizing k with
  | zero => exact ⟨le_rfl, le_rfl, fun j hk hj => absurd hj (Nat.not_lt.2 hk), fun h => absurd h (lt_irrefl k)⟩
  | succ f ih =>
    rw [ctzFrom]
    split
    next hk => exact ⟨le_rfl, by omega, fun j hj h => absurd h (Nat.not_lt.2 hj), fun _ => hk⟩
    next hk =>
      obtain ⟨hlow, hhigh, hzero, hone⟩ := ih (k + 1)
      refine ⟨by omega, by omega, fun j hj h => ?_, fun h => hone (by omega)⟩
      rcases Nat.eq_or_lt_of_le hj with rfl | hj
      · simpa using hk
      · exact hzero j hj h

theorem popCount_eq_countP (w n : Nat) : popCount w n = (List.range w).countP n.testBit := by
  induction w generalizing n with
  | zero => rfl
  | succ w ih =>
    rw [popCount, ih, List.range_succ_eq_map, List.countP_cons, List.countP_map, Nat.testBit_zero,
      show n.testBit ∘ Nat.succ = (n / 2).testBit from funext fun k => Nat.testBit_succ .., Nat.add_comm]
    congr 1
    rcases Nat.mod_two_eq_zero_or_one n with h | h <;> simp [h]

/-- Settles O4: each operation is `State.alu` or `State.alu1` of a function on words, whose value is the table's. -/
theorem aluResults : Obligations.AluResults := by
  refine ⟨?_, ?_, ?_⟩
  · intro s i rd a b h x y
    have op (f : Word → Word → Word) {v : Word} (hf : f x y = v) : s.alu i rd a b f = done (s.result i rd v) :=
      hf ▸ State.alu_eq h rd a b f
    exact ⟨op (· + ·) rfl, op (· - ·) rfl, op (· &&& ·) rfl, op (· ||| ·) rfl, op (· ^^^ ·) rfl, op (· <<< sh6 ·) rfl,
      op (· >>> sh6 ·) rfl, op (fun x y => x.sshiftRight (sh6 y)) rfl, op (fun x y => flag (x.slt y)) (flag_slt x y),
      op (fun x y => flag (x.ult y)) (flag_ult x y), op (fun x y => if x.slt y then x else y) (ite_slt_eq_min x y),
      op (fun x y => if x.slt y then y else x) (ite_slt_eq_max x y),
      op (fun x y => if x.ult y then x else y) (ite_ult_eq_min x y),
      op (fun x y => if x.ult y then y else x) (ite_ult_eq_max x y), op (· * ·) rfl,
      op (fun x y => high64 (x.toInt * y.toInt)) rfl, op (fun x y => high64 (x.toNat * y.toNat)) (high64_natCast _),
      op (fun x y => high64 (x.toInt * y.toNat)) rfl, op divS (divS_eq x y), op divU (divU_eq x y),
      op remS (remS_eq x y), op remU (remU_eq x y)⟩
  · intro s i rd a h x
    have op (f : Word → Word) : s.alu1 i rd a f = done (s.result i rd (f x)) := State.alu1_eq h rd a f
    obtain ⟨n, hn, hbits⟩ := getLsbD_clz x
    obtain ⟨-, hle, hzero, hone⟩ := ctzFrom_spec x 64 0
    exact ⟨⟨n, (op clz64).trans (by rw [hn]), hbits⟩,
      ⟨_, op ctz64, hle, fun k => hzero k (Nat.zero_le k), hone⟩,
      (op fun x => BitVec.ofNat 64 (popCount 64 x.toNat)).trans (by rw [popCount_eq_countP]; rfl)⟩
  · intro s i rd a b h x y w
    have op (f : BitVec 32 → BitVec 32 → BitVec 32) {v : BitVec 32} (hf : f x y = v) :
        s.alu i rd a b (word32 f) = w v :=
      hf ▸ State.alu_eq h rd a b (word32 f)
    exact ⟨op (· + ·) rfl, op (· - ·) rfl, op (· <<< sh5 ·) rfl, op (· >>> sh5 ·) rfl,
      op (fun x y => x.sshiftRight (sh5 y)) rfl, op (· * ·) rfl, op divS (divS_eq x y), op divU (divU_eq x y),
      op remS (remS_eq x y), op remU (remU_eq x y)⟩

/-! Immediates. -/

theorem shiftLeft_eq_ofNat (x : Word) (n : Nat) : x <<< n = BitVec.ofNat 64 (x.toNat * 2 ^ n) :=
  BitVec.eq_of_toNat_eq (by rw [BitVec.toNat_shiftLeft, Nat.shiftLeft_eq, BitVec.toNat_ofNat])

theorem ushiftRight_eq_ofNat (x : Word) (n : Nat) : x >>> n = BitVec.ofNat 64 (x.toNat / 2 ^ n) := by
  rw [← Nat.shiftRight_eq_div_pow, ← BitVec.toNat_ushiftRight, BitVec.ofNat_toNat, BitVec.setWidth_eq]

theorem sshiftRight_eq_ofInt (x : Word) (n : Nat) : x.sshiftRight n = BitVec.ofInt 64 (x.toInt / 2 ^ n) := by
  rw [BitVec.sshiftRight, Int.shiftRight_eq_div_pow]
  norm_cast

theorem ofInt_shiftLeft_sixteen (x : Int) : BitVec.ofInt 64 x <<< 16 = BitVec.ofInt 64 (x * 2 ^ 16) := by
  rw [BitVec.shiftLeft_eq_mul_twoPow, BitVec.ofInt_mul]
  rfl

/-- Settles O5: each operation is `State.alu1` of a function on words. -/
theorem immediateResults : Obligations.ImmediateResults := by
  intro s i rd a imm u sh h x m z
  have op (f : Word → Word) {v : Word} (hf : f x = v) : s.alu1 i rd a f = done (s.result i rd v) :=
    hf ▸ State.alu1_eq h rd a f
  have hz : imm.setWidth 64 = z := (BitVec.ofNat_toNat 64 imm).symm
  have hm : m.toInt = imm.toInt := BitVec.toInt_signExtend_of_le (by decide)
  have hw : word32 (· + ·) x m = ((x + m).setWidth 32).signExtend 64 := by
    rw [BitVec.setWidth_add _ _ (by decide)]; rfl
  have lui : s.alu1 i rd 0 (fun _ => u.signExtend 64 <<< 16) =
      done (s.result i rd (BitVec.ofInt 64 (u.toInt * 2 ^ 16))) :=
    ofInt_shiftLeft_sixteen u.toInt ▸ State.alu1_eq h rd 0 _
  exact ⟨op (· + imm.signExtend 64) rfl, op (· &&& imm.setWidth 64) (by rw [hz]),
    op (· ||| imm.setWidth 64) (by rw [hz]), op (· ^^^ imm.setWidth 64) (by rw [hz]),
    op (fun x => flag (x.slt (imm.signExtend 64))) ((flag_slt x m).trans (by rw [hm])),
    op (fun x => flag (x.ult (imm.signExtend 64))) (flag_ult x m), op (· <<< sh.toNat) (shiftLeft_eq_ofNat x _),
    op (· >>> sh.toNat) (ushiftRight_eq_ofNat x _), op (·.sshiftRight sh.toNat) (sshiftRight_eq_ofInt x _),
    lui,
    op (fun x => word32 (· + ·) x (imm.signExtend 64)) hw⟩

end Sys2Proof.Machine

/-! ### What a scalar result leaves (04_spindle_isa_core.md R139) -/

namespace Sys2Proof.Machine
open Sys2Proof

/-- Below the top of the instruction store, a scalar result is a write of rd and a move to the next instruction. -/
theorem State.result_eq {s : State} (h : s.Sound) {i : Issue} (hpc : s.pcOf i ≠ 0x7FFC) (rd : SReg) (v : Word) :
    s.result i rd v = (s.ws i rd v).upd i (·.next (s.pcOf i + 4)) := by
  have hpcw : (s.ws i rd v).pcOf i = s.pcOf i := by
    rw [State.pcOf, State.ws, State.ctx_upd h, if_pos ⟨rfl, rfl⟩, Context.wr_eq]
  rw [State.result, State.advance_eq (hpcw ▸ hpc), hpcw]

theorem State.ctx_result {s : State} (h : s.Sound) {i : Issue} (hpc : s.pcOf i ≠ 0x7FFC) (rd : SReg) (v : Word)
    (u : Nat) (c : Ctx) : (s.result i rd v).ctx u c =
      if u = i.tile ∧ c = i.ctx then ((s.ctx i.tile i.ctx).wr rd v).next (s.pcOf i + 4) else s.ctx u c := by
  rw [State.result_eq h hpc, State.ctx_upd (State.ws_sound h i rd v)]
  split
  · rw [State.ws, State.ctx_upd h, if_pos ⟨rfl, rfl⟩]
  next hne => rw [State.ws, State.ctx_upd h, if_neg hne]

/-- Settles O6: the contexts by `State.ctx_result`, and rd by `Context.rd_wr`. -/
theorem scalarResultFrame : Obligations.ScalarResultFrame := by
  intro s i rd v h hpc t k
  have hctx : t.ctx i.tile i.ctx = (k.wr rd v).next (k.pc + 4) := by
    rw [State.ctx_result h hpc, if_pos ⟨rfl, rfl⟩]
  refine ⟨fun r => ?_, ?_, fun u c huc => ?_, ?_⟩
  · rw [State.rs, hctx]
    exact Context.rd_wr (State.ctx_ok h _ _) rd r v
  · rw [hctx, Context.wr_eq]
    rfl
  · rw [State.ctx_result h hpc, if_neg fun e => huc (Prod.ext e.1 e.2)]
  · rw [show t = _ from State.result_eq h hpc rd v, State.upd_eq, State.ws, State.upd_eq]

/-! ### Exceptions of loads and stores (R154, R155, R171) -/

theorem loadFault_range {ea : Word} (h : 0x2FFFF < ea.toNat) (n : Nat) : loadFault ea n = some exLOAD_RANGE :=
  if_pos h

theorem loadFault_align {ea : Word} {n : Nat} (h : ea.toNat ≤ 0x2FFFF) (ha : ea.toNat % n ≠ 0) :
    loadFault ea n = some exMISALIGN := by
  rw [loadFault, if_neg (Nat.not_lt.2 h), if_pos (bne_iff_ne.2 ha)]

theorem storeFault_range {ea : Word} (h : ea.toNat < 0x8000 ∨ 0x2FFFF < ea.toNat) (n : Nat) :
    storeFault ea n = some exSTORE_RANGE :=
  if_pos (by simpa using h)

theorem storeFault_align {ea : Word} {n : Nat} (hl : 0x8000 ≤ ea.toNat) (h : ea.toNat ≤ 0x2FFFF)
    (ha : ea.toNat % n ≠ 0) : storeFault ea n = some exMISALIGN := by
  rw [storeFault, if_neg (by simpa using ⟨hl, h⟩), if_pos (bne_iff_ne.2 ha)]

theorem State.load_traps {s : State} {i : Issue} (h : s.ready i) (rd a : SReg) (imm : BitVec 16) (n : Nat)
    (ext : Nat → Word) {c : Nat} (hf : loadFault (s.ea i a imm) n = some c) :
    s.load i rd a imm n ext = done (s.traps i c (s.ea i a imm)) := by
  simp only [State.load, State.issue_ready h, hf, State.finish_trap]

theorem State.store_traps {s : State} {i : Issue} (h : s.ready i) (src a : SReg) (imm : BitVec 16) (n : Nat)
    {c : Nat} (hf : storeFault (s.ea i a imm) n = some c) :
    s.store i src a imm n = done (s.traps i c (s.ea i a imm)) := by
  simp only [State.store, State.issue_ready h, hf, State.finish_trap]

/-- The loads of `n` bytes (R155). -/
def loadsOf (i : Issue) (r a : SReg) (imm : BitVec 16) (n : Nat) : List Instr :=
  if n = 1 then [.lb i r a imm, .lbu i r a imm]
  else if n = 2 then [.lh i r a imm, .lhu i r a imm]
  else if n = 4 then [.lw i r a imm, .lwu i r a imm] else [.ld i r a imm]

/-- The stores of `n` bytes (R155). -/
def storesOf (i : Issue) (r a : SReg) (imm : BitVec 16) (n : Nat) : List Instr :=
  if n = 1 then [.sb i r a imm] else if n = 2 then [.sh i r a imm]
  else if n = 4 then [.sw i r a imm] else [.sd i r a imm]

theorem exec_of_mem_loadsOf {i : Issue} {r a : SReg} {imm : BitVec 16} {n : Nat} (hn : n ∈ [1, 2, 4, 8]) {c : Instr}
    (hc : c ∈ loadsOf i r a imm n) (s : State) : ∃ ext, exec c s = s.load i r a imm n ext := by
  simp only [List.mem_cons, List.not_mem_nil, or_false] at hn
  obtain rfl | rfl | rfl | rfl := hn
  · obtain rfl | rfl := List.mem_pair.1 hc
    exacts [⟨sextN 8, rfl⟩, ⟨zextN, rfl⟩]
  · obtain rfl | rfl := List.mem_pair.1 hc
    exacts [⟨sextN 16, rfl⟩, ⟨zextN, rfl⟩]
  · obtain rfl | rfl := List.mem_pair.1 hc
    exacts [⟨sextN 32, rfl⟩, ⟨zextN, rfl⟩]
  · obtain rfl := List.mem_singleton.1 hc
    exact ⟨zextN, rfl⟩

theorem exec_of_mem_storesOf {i : Issue} {r a : SReg} {imm : BitVec 16} {n : Nat} (hn : n ∈ [1, 2, 4, 8]) {c : Instr}
    (hc : c ∈ storesOf i r a imm n) (s : State) : exec c s = s.store i r a imm n := by
  simp only [List.mem_cons, List.not_mem_nil, or_false] at hn
  obtain rfl | rfl | rfl | rfl := hn <;> cases List.mem_singleton.1 hc <;> rfl

/-- Settles O8: each load is `State.load` and each store `State.store`, whose exception the address decides. -/
theorem loadStoreTraps : Obligations.LoadStoreTraps := by
  intro s i r a imm h ea loads stores n hn
  have load {c : Nat} (hf : loadFault ea n = some c) : ∀ x ∈ loads n, exec x s = done (s.traps i c ea) := fun x hx => by
    obtain ⟨ext, he⟩ := exec_of_mem_loadsOf hn hx s
    exact he.trans (State.load_traps h r a imm n ext hf)
  have store {c : Nat} (hf : storeFault ea n = some c) : ∀ x ∈ stores n, exec x s = done (s.traps i c ea) := fun x hx =>
    (exec_of_mem_storesOf hn hx s).trans (State.store_traps h r a imm n hf)
  exact ⟨fun hr => load (loadFault_range hr n), fun hr => store (storeFault_range hr n),
    fun hr ha => load (loadFault_align hr ha), fun hl hr ha => store (storeFault_align hl hr ha)⟩

/-! ### Transfers of control (R148, R157) -/

theorem wordOff_eq {n : Nat} (off : BitVec n) : wordOff off = BitVec.ofInt 64 (off.toInt * 4) := by
  rw [wordOff, BitVec.ofInt_mul]
  rfl

/-- A jump goes to a target that is a word of the instruction store, else it traps. -/
theorem State.finish_jump (s t : State) (i : Issue) (pc : Word) : s.finish i (.jump t pc) =
    if pc.toNat % 4 = 0 ∧ pc.toNat ≤ 0x7FFC then t.upd i (·.next pc) else s.traps i exFETCH_RANGE pc := by
  simp only [State.finish, fetchOk, Bool.and_eq_true, beq_iff_eq, decide_eq_true_eq]

theorem State.issue_jump {s t : State} {i : Issue} (h : s.ready i) {body : State → Fate} {pc : Word}
    (hb : body s = .jump t pc) : s.issue i body =
      if pc.toNat % 4 = 0 ∧ pc.toNat ≤ 0x7FFC then done (t.upd i (·.next pc))
      else done (s.traps i exFETCH_RANGE pc) := by
  rw [State.issue_ready h, hb, State.finish_jump, apply_ite Host.Outcome.next]

theorem State.branch_eq {s : State} {i : Issue} (h : s.ready i) (a b : SReg) (off : BitVec 16)
    (c : Word → Word → Bool) :
    let t := s.pcOf i + BitVec.ofInt 64 (off.toInt * 4)
    s.branch i a b off c = if c (s.rs i a) (s.rs i b) then
      if t.toNat % 4 = 0 ∧ t.toNat ≤ 0x7FFC then done (s.upd i (·.next t)) else done (s.traps i exFETCH_RANGE t)
      else done (s.advance i) := by
  intro t
  rw [State.branch]
  by_cases hc : c (s.rs i a) (s.rs i b) = true
  · rw [if_pos hc]
    exact State.issue_jump h ((if_pos hc).trans (by rw [wordOff_eq]))
  · rw [if_neg hc, State.issue_ready h, if_neg hc, State.finish_retire]

theorem not_slt (x y : Word) : (!x.slt y) = decide (y.toInt ≤ x.toInt) := by
  rw [BitVec.slt, ← decide_not]
  simp only [not_lt]

theorem not_ult (x y : Word) : (!x.ult y) = decide (y.toNat ≤ x.toNat) := by
  rw [BitVec.ult, ← decide_not]
  simp only [not_lt]

/-- Settles O9: the branches are `State.branch` of their condition, and the jumps end in `Fate.jump`. -/
theorem branchesAndJumps : Obligations.BranchesAndJumps := by
  intro s i rd a b off o21 h x y pc goes br
  have branch (c : Word → Word → Bool) {d : Bool} (hd : c x y = d) : s.branch i a b off c = br d :=
    hd ▸ State.branch_eq h a b off c
  refine ⟨branch (· == ·) rfl, branch (· != ·) ?_, branch BitVec.slt rfl, branch (fun x y => !x.slt y) (not_slt x y),
    branch BitVec.ult rfl, branch (fun x y => !x.ult y) (not_ult x y), ?_, ?_⟩
  · simp only [bne, beq_eq_decide, decide_not, ne_eq]
  · change execJal i rd o21 s = _
    rw [execJal, State.issue_jump h rfl, wordOff_eq]
  · change execJalr i rd a off s = _
    rw [execJalr, State.issue_jump h rfl]
    rfl

end Sys2Proof.Machine

/-! ### Exceptions (04_spindle_isa_core.md R147, R169, R173, R174) -/

namespace Sys2Proof.Machine
open Sys2Proof

/-- A context with EPC, ECAUSE and EVAL of an exception written. -/
def Context.faulted (k : Context) (c : Nat) (v a : Word) : Context :=
  { k with epc := a &&& 0xFFFF, ecause := BitVec.ofNat 64 c, eval := v, wait := none }

/-- A context that goes on in its trap handler (R173). -/
def Context.trapped (k : Context) (c : Nat) (v a : Word) : Context :=
  { k.faulted c v a with estatus := 1, pc := k.evec &&& 0x7FFC }

/-- A context that an unhandled exception has stopped (R174). -/
def Context.halted (k : Context) (c : Nat) (v a : Word) : Context := { k.faulted c v a with stopped := true }

/-- Whether a context takes its exceptions in a trap: EVEC.ENABLE is set, and it is in none. -/
def Context.entersTrap (k : Context) : Prop := k.evec.getLsbD 0 = true ∧ k.estatus.getLsbD 0 = false

/-- Trap entry (R173). -/
theorem State.except_of_handled {s : State} {n : Nat} {x : Ctx} (h : (s.ctx n x).entersTrap) (c : Nat) (v a : Word) :
    s.except n x c v a = s.setCtx n x ((s.ctx n x).trapped c v a) := by
  obtain ⟨hen, hout⟩ := h
  simp only [State.except, hen, hout, Bool.not_false, Bool.and_self, if_true]
  rfl

/-- An unhandled exception (R174): the context stops, and the tile counts it and sends a notice. -/
theorem State.except_of_unhandled {s : State} {n : Nat} {x : Ctx} (h : ¬ (s.ctx n x).entersTrap) (c : Nat)
    (v a : Word) :
    let s1 := s.setCtx n x ((s.ctx n x).halted c v a)
    s.except n x c v a = (s1.setTile n { s1.tile n with unhandled := (s1.tile n).unhandled + 1 }).notice n x := by
  refine if_neg fun hh => h ?_
  simpa only [Context.entersTrap, Bool.and_eq_true, Bool.not_eq_true'] using hh

theorem Tile.setCtx_unhandled (x : Tile) (c : Ctx) (k : Context) : (x.setCtx c k).unhandled = x.unhandled := by
  cases c <;> rfl

/-- What an unhandled exception leaves: its context stopped, the other one and memory as before, and one more in the
tile's count. -/
theorem State.except_unhandled_reads {s : State} (hs : s.Sound) {n : Nat} {x : Ctx} (h : ¬ (s.ctx n x).entersTrap)
    (c : Nat) (v a : Word) :
    (s.except n x c v a).mem = s.mem ∧
      (∀ y, (s.except n x c v a).ctx n y = if y = x then (s.ctx n x).halted c v a else s.ctx n y) ∧
      ((s.except n x c v a).tile n).unhandled = (s.tile n).unhandled + 1 := by
  rw [State.except_of_unhandled h]
  have hctx := State.ctx_setCtx hs n n x (k := (s.ctx n x).halted c v a)
  have hcount : ((s.setCtx n x ((s.ctx n x).halted c v a)).tile n).unhandled =
      (s.tile n).unhandled := by
    rw [State.setCtx, State.tile_setTile hs, if_pos rfl, Tile.setCtx_unhandled]
  have hmem : (s.setCtx n x ((s.ctx n x).halted c v a)).mem = s.mem := rfl
  have hs1 : (s.setCtx n x ((s.ctx n x).halted c v a)).Sound :=
    State.setCtx_sound hs n x (State.ctx_ok hs n x)
  generalize s.setCtx n x ((s.ctx n x).halted c v a) = s1 at hctx hcount hmem hs1 ⊢
  obtain ⟨kmem, kctx, kcount⟩ := State.notice_keeps (State.setTile_sound hs1 n
    (x := { s1.tile n with unhandled := (s1.tile n).unhandled + 1 }) (State.tile_ok hs1 n)) n x
  refine ⟨kmem.trans hmem, fun y => ?_, ?_⟩
  · rw [kctx, State.ctx_setTile hs1, if_pos rfl]
    exact (show _ = s1.ctx n y by cases y <;> rfl).trans ((hctx y).trans (by simp only [true_and]))
  · rw [kcount, State.tile_setTile hs1, if_pos rfl, hcount]

/-- What a trap entry leaves: its context in the trap, the other one as before. -/
theorem State.except_handled_reads {s : State} (hs : s.Sound) {n : Nat} {x : Ctx} (h : (s.ctx n x).entersTrap)
    (c : Nat) (v a : Word) (y : Ctx) :
    (s.except n x c v a).ctx n y = if y = x then (s.ctx n x).trapped c v a else s.ctx n y := by
  rw [State.except_of_handled h, State.ctx_setCtx hs]
  simp only [true_and]

theorem and_mask_of_lt {a : Word} (h : a.toNat < 2 ^ 16) : a &&& 0xFFFF = a :=
  BitVec.eq_of_toNat_eq ((Nat.and_two_pow_sub_one_eq_mod a.toNat 16).trans (Nat.mod_eq_of_lt h))

/-- Settles O10: the context after an exception by `State.except_handled_reads` and `State.except_unhandled_reads`. -/
theorem exceptionEntryAndTraps : Obligations.ExceptionEntryAndTraps := by
  constructor
  · intro s n x c v a hs hc ha t k q
    have hepc := and_mask_of_lt ha
    have hcause : (BitVec.ofNat 64 c).toNat = c := (BitVec.toNat_ofNat c 64).trans (Nat.mod_eq_of_lt hc)
    by_cases h : k.entersTrap
    · have hctx := State.except_handled_reads hs h c v a
      have hq : q = k.trapped c v a := (hctx x).trans (if_pos rfl)
      clear_value q
      subst hq
      have ht : t = s.setCtx n x _ := State.except_of_handled h c v a
      refine ⟨hepc, hcause, rfl, rfl, rfl, rfl, rfl, by rw [ht]; rfl, fun _ _ => ⟨rfl, rfl, rfl, by rw [ht]; rfl⟩,
        fun hu => ?_, fun y hy => (hctx y).trans (if_neg hy)⟩
      rcases hu with hu | hu
      · exact absurd (h.1.symm.trans hu) (by decide)
      · exact absurd (h.2.symm.trans hu) (by decide)
    · obtain ⟨hmem, hctx, hcount⟩ := State.except_unhandled_reads hs h c v a
      have hq : q = k.halted c v a := (hctx x).trans (if_pos rfl)
      clear_value q
      subst hq
      exact ⟨hepc, hcause, rfl, rfl, rfl, rfl, rfl, hmem, fun he hout => absurd ⟨he, hout⟩ h,
        fun _ => ⟨rfl, rfl, rfl, hcount⟩, fun y hy => (hctx y).trans (if_neg hy)⟩
  · intro s i code word h k
    refine ⟨fun hin hal hr => ?_, fun hout => ?_, State.issue_ready h fun _ => .trap exTRAP (code.setWidth 64),
      fun henc => ?_⟩
    · change execEret i s = _
      rw [execEret, State.issue_jump h (if_pos hin), if_pos ⟨hal, hr⟩]
    · change execEret i s = _
      rw [execEret, State.issue_ready h, if_neg (Bool.eq_false_iff.1 hout), State.finish_trap]
      rfl
    · change execReservedEncodingIssue i word s = _
      rw [execReservedEncodingIssue, henc, State.issue_ready h]
      rfl

end Sys2Proof.Machine

/-! ### Special registers (04_spindle_isa_core.md R142) -/

namespace Sys2Proof.Machine
open Sys2Proof

/-- An MTS to a number that Table 4.1 does not list takes ILLEGAL, and one to a read-only register PRIV. -/
theorem execMts_traps {s : State} {i : Issue} (h : s.ready i) (a : SReg) {n : BitVec 8}
    (hn : n.toNat < 8 ∨ 0xE < n.toNat) :
    execMts i a n s = done (s.traps i (if 0x14 < n.toNat then exILLEGAL else exPRIV)
      (evWord (wA 0x2C 0 a 0 (0x100 + n.toNat)))) := by
  rw [execMts, State.issue_ready h]
  split
  case h_8 => split <;> rfl
  all_goals omega

/-- Settles O11: an MTS to each writable register runs its arm, and the others trap by `execMts_traps`. -/
theorem specialRegisters : Obligations.SpecialRegisters := by
  intro s i rd a n h v mts
  have write (m : BitVec 8) {body : State → Fate} (hb : execMts i a m s = s.issue i body) :
      mts m = done (s.finish i (body s)) := hb.trans (State.issue_ready h body)
  refine ⟨fun hn => ?_, fun (hn : 0x14 < n.toNat) => ⟨?_, ?_⟩, fun hn => ?_, write _ rfl, write _ rfl,
    write _ rfl, write _ rfl, write _ rfl, write _ rfl, write _ rfl⟩
  · change execMfs i rd n s = _
    rw [execMfs, State.issue_ready h, if_neg (Nat.not_lt.2 hn)]
    rfl
  · change execMfs i rd n s = _
    rw [execMfs, State.issue_ready h, if_pos hn]
    rfl
  · exact (execMts_traps h a (by omega)).trans (by rw [if_pos hn])
  · exact (execMts_traps h a (by omega)).trans (by rw [if_neg (by omega)])

end Sys2Proof.Machine

/-! ### How an instruction that issues or waits ends -/

namespace Sys2Proof.Machine
open Sys2Proof

theorem State.issue_retire {s t : State} {i : Issue} {body : State → Fate} (h : s.ready i) (hb : body s = .retire t) :
    s.issue i body = done (t.advance i) := by
  rw [State.issue_ready h, hb, State.finish_retire]

theorem State.issue_trap {s : State} {i : Issue} {body : State → Fate} {c : Nat} {v : Word} (h : s.ready i)
    (hb : body s = .trap c v) : s.issue i body = done (s.traps i c v) := by
  rw [State.issue_ready h, hb, State.finish_trap]

/-- A waiting instruction whose body now retires. -/
theorem State.retry_retire {s t : State} {i : Issue} {x : Instr} {sel : Instr → Option (State → Fate)}
    {body : State → Fate} (h : s.waitsOn i x) (hsel : sel x = some body) (hb : body s = .retire t) :
    s.retry i sel = done (t.advance i) := by
  simp only [State.retry_waits h, hsel, hb, State.finish_retire]

/-! ### Check values (R164, R538 to R543) -/

theorem leBytes_eq_map (n x : Nat) :
    leBytes n x = (List.range n).map fun j => BitVec.ofNat 8 (x / 2 ^ (8 * j)) := by
  refine List.ext_getElem (by simp [leBytes_length]) fun j hj _ => ?_
  have hlt : j < n := by simpa [leBytes_length] using hj
  rw [← List.getD_eq_getElem _ 0 hj, leBytes_getD n x j hlt, List.getElem_map, List.getElem_range]

theorem State.checkOp_eq {s : State} {i : Issue} (h : s.ready i) (f : Context → CheckImg) :
    s.checkOp i f = done (s.effect i fun k => { k with check := f (s.ctx i.tile i.ctx) }) :=
  State.issue_ready h _

/-- Settles O20: the instructions on the image are `State.checkOp`, and the others end as their body says. -/
theorem checkValueInstructions : Obligations.CheckValueInstructions := by
  intro s i rd a b h x c fed set fails
  have feed (n : Nat) : s.checkOp i (fun k => k.check.feeds (leBytes n (k.rd a).toNat)) = fed n := by
    rw [State.checkOp_eq h, leBytes_eq_map]
    rfl
  have cvset {n : Nat} {f : CheckImg} (hn : (s.rs i b).toNat % 8 = n) (hlt : ¬ 3 < n) (hf : c.set n x = f) :
      execCvset i a b s = set f := by
    subst hf hn
    exact State.issue_retire h (if_neg hlt)
  refine ⟨feed 1, feed 2, feed 4, State.checkOp_eq h (·.check.reset),
    (State.issue_retire h rfl : execCvrd i rd s = _),
    State.checkOp_eq h fun k => { k.check with run := (k.rd a).toNat % 2 ^ k.check.width },
    (State.issue_retire h rfl : execCvfin i rd s = _),
    fun heq => (State.issue_retire h (if_pos heq) : execCvcmp i rd a s = _), fun hne hoff => ?_, fun hne hon => ?_,
    fun hn => cvset hn (by decide) rfl, fun hn h1 h64 => cvset hn (by decide) ?_, fun hn => cvset hn (by decide) rfl,
    fun hn => cvset hn (by decide) rfl, fun hn => (State.issue_trap h (if_pos hn) : execCvset i a b s = _)⟩
  · exact (State.issue_retire h ((if_neg hne).trans (if_neg (Bool.eq_false_iff.1 hoff))) : execCvcmp i rd a s = _)
  · change execCvcmp i rd a s = _
    rw [execCvcmp, State.issue_ready h, if_neg hne, if_pos hon]
    rfl
  · simp only [CheckImg.set, Nat.min_eq_right h64, Nat.max_eq_right h1]

end Sys2Proof.Machine

/-! ### Pick synchronisation and management (04_spindle_isa_core.md R165 to R170) -/

namespace Sys2Proof.Machine
open Sys2Proof

/-! Pick synchronisation. -/

theorem waitcBody_of_le {s : State} {i : Issue} {a : SReg} (h : (s.rs i a).toNat ≤ s.cyc) :
    waitcBody i a s = .retire s :=
  if_pos (by rw [decide_eq_true h, Bool.true_or])

/-- Whether a value names a ready flag, in the fields of Table 4.10. -/
theorem namesFlag_iff (v : Word) : namesFlag v = true ↔
    v.toNat / 2 ^ 16 % 16 ≤ 11 ∧ v.toNat / 2 ^ 12 % 16 = 0 ∧ v.toNat < 2 ^ 20 := by
  simp only [namesFlag, Bool.and_eq_true, decide_eq_true_eq, beq_iff_eq, and_assoc]
  rfl

/-- RDYSET of a value that names a flag: it is set in a scheduled context S that owns it, else PRIV. -/
theorem execRdyset_eq {s : State} {i : Issue} (h : s.ready i) {a : SReg} (hn : namesFlag (s.rs i a) = true) :
    let g := (s.rs i a).toNat / 2 ^ 16 % 16
    let f := (s.rs i a).toNat % 4096
    execRdyset i a s = done (s.finish i
      (if i.ctx = .S ∧ s.scheduled i.tile = true ∧ s.flagOwned (s.instOfTile i.tile) g f = true
        then .retire (s.setReady g f) else .trap exPRIV (evWord (wA 0x2B 0 a 0 2)))) := by
  intro g f
  have hf : bits (s.rs i a).toNat 0 12 = f := bits_zero _ 12
  have hg : bits (s.rs i a).toNat 16 4 = g := rfl
  rw [execRdyset, State.issue_ready h]
  simp only [hn, hf, hg, Bool.not_true, Bool.false_eq_true, if_false]
  split
  next hno =>
    rw [if_neg fun ⟨hc, hs, ho⟩ => by simp [hc, hs, ho] at hno]
  next hyes =>
    rw [if_pos (by simpa [and_assoc] using hyes)]

theorem execRdytst_eq {s : State} {i : Issue} (h : s.ready i) (rd : SReg) {a : SReg}
    (hn : namesFlag (s.rs i a) = true) :
    execRdytst i rd a s = done (s.result i rd (flag (mget false s.warp.ready
      ((s.rs i a).toNat / 2 ^ 16 % 16 * 4096 + (s.rs i a).toNat % 4096)))) := by
  have hf : bits (s.rs i a).toNat 0 12 = (s.rs i a).toNat % 4096 := bits_zero _ 12
  rw [execRdytst, State.issue_ready h]
  simp only [hn, hf, Bool.not_true, Bool.false_eq_true, if_false]
  rfl

/-! The MGMT instructions (R170). -/

theorem rowOf_eq_three_iff (p : Nat) : rowOf p = 3 ↔ 0x0F0000000000 ≤ p ∧ p < 0x0F0040000000 := by
  simp only [rowOf, isNear, isFar, Bool.and_eq_true, decide_eq_true_eq]
  repeat' split
  all_goals omega

theorem rowOf_eq_four_iff (p : Nat) : rowOf p = 4 ↔ 0x0FF000000000 ≤ p ∧ p < 0x100000000000 := by
  simp only [rowOf, isNear, isFar, Bool.and_eq_true, decide_eq_true_eq]
  repeat' split
  all_goals omega

/-- The addresses at which MGMT instructions reach registers: CSR space, and the control ranges of the tiles. -/
theorem regSpace_iff (p : Nat) : regSpace p = true ↔
    (0x0F0000000000 ≤ p ∧ p < 0x0F0040000000 ∧ 0x30000 ≤ p % 0x40000) ∨ (0x0FF000000000 ≤ p ∧ p < 0x100000000000) := by
  rw [regSpace, Bool.or_eq_true, Bool.and_eq_true, beq_iff_eq, beq_iff_eq, decide_eq_true_eq, rowOf_eq_three_iff,
    rowOf_eq_four_iff, or_comm, and_assoc]

theorem State.mgmtTrap_none {s : State} {i : Issue} {a : Word} {n : Nat} (hm : s.isManager i.tile = true)
    (ha : a.toNat % n = 0) (hr : regSpace a.toNat = true) (w : Nat) : s.mgmtTrap i a n w = none := by
  simp [State.mgmtTrap, hm, ha, hr]

theorem State.mgmtTrap_priv {s : State} {i : Issue} (hm : ¬ s.isManager i.tile = true) (a : Word) (n w : Nat) :
    s.mgmtTrap i a n w = some (exPRIV, evWord w) :=
  if_pos (by simpa using hm)

theorem State.mgmtTrap_align {s : State} {i : Issue} {a : Word} {n : Nat} (hm : s.isManager i.tile = true)
    (ha : a.toNat % n ≠ 0) (w : Nat) : s.mgmtTrap i a n w = some (exMISALIGN, a) := by
  simp [State.mgmtTrap, hm, ha]

theorem State.mgmtTrap_space {s : State} {i : Issue} {a : Word} {n : Nat} (hm : s.isManager i.tile = true)
    (ha : a.toNat % n = 0) (hr : ¬ regSpace a.toNat = true) (w : Nat) :
    s.mgmtTrap i a n w = some (exDEV_ACCESS, a) := by
  simp [State.mgmtTrap, hm, ha, hr]

section
variable {s : State} {i : Issue} (h : s.ready i) (rd a b : SReg) (w fn : Nat)
include h

theorem State.rgld_reads (ho : s.mgmtTrap i (s.rs i a) (w / 8) (wA 0x2D rd a 0 fn) = none) :
    s.issue i (rgldBody i rd a w fn) = done (((s.readAt (.manager i.tile) (s.rs i a).toNat w false).1.ws i rd
      (BitVec.ofNat 64 (s.readAt (.manager i.tile) (s.rs i a).toNat w false).2)).advance i) :=
  State.issue_retire h (by simp only [rgldBody, ho])

theorem State.rgld_traps {c : Nat} {v : Word}
    (ho : s.mgmtTrap i (s.rs i a) (w / 8) (wA 0x2D rd a 0 fn) = some (c, v)) :
    s.issue i (rgldBody i rd a w fn) = done (s.traps i c v) :=
  State.issue_trap h (by simp only [rgldBody, ho])

theorem State.rgst_writes (ho : s.mgmtTrap i (s.rs i a) (w / 8) (wA 0x2D 0 a b fn) = none) :
    s.issue i (rgstBody i a b w fn) =
      done ((s.writeAt (.manager i.tile) (s.rs i a).toNat w (s.rs i b).toNat).advance i) :=
  State.issue_retire h (by simp only [rgstBody, ho])

theorem State.rgst_traps {c : Nat} {v : Word}
    (ho : s.mgmtTrap i (s.rs i a) (w / 8) (wA 0x2D 0 a b fn) = some (c, v)) :
    s.issue i (rgstBody i a b w fn) = done (s.traps i c v) :=
  State.issue_trap h (by simp only [rgstBody, ho])

end

/-- Settles O21: the instructions end as their checks say, those of MGMT as `State.mgmtTrap` does. -/
theorem pickAndManagementInstructions : Obligations.PickAndManagementInstructions := by
  constructor
  · intro s i rd a v g f names may
    have hnames : namesFlag v = true ↔ names := namesFlag_iff v
    refine ⟨fun h => ⟨fun hc => ?_, fun hc => ?_, fun hle => ?_, fun hn hm => ?_, fun hn hm => ?_, fun hn => ?_,
      fun hn => ⟨?_, ?_⟩⟩, fun h hle => ?_⟩
    · change execYield i s = _
      rw [execYield, State.issue_ready h]
      simp only [hc]
      rfl
    · change execYield i s = _
      rw [execYield, State.issue_ready h, State.pcOf]
      simp only [hc]
      rfl
    · exact State.issue_retire h (waitcBody_of_le hle)
    · exact (execRdyset_eq h (hnames.2 hn)).trans (by rw [if_pos hm]; rfl)
    · exact (execRdyset_eq h (hnames.2 hn)).trans (by rw [if_neg hm]; rfl)
    · exact execRdytst_eq h rd (hnames.2 hn)
    · exact (State.issue_trap h (if_pos (by simpa using mt hnames.1 hn)) : execRdyset i a s = _)
    · exact (State.issue_trap h (if_pos (by simpa using mt hnames.1 hn)) : execRdytst i rd a s = _)
    · exact State.retry_retire h rfl (waitcBody_of_le hle)
  · intro s i rd a b h x p mgr window read write
    have hwin : regSpace p = true ↔ window := regSpace_iff p
    have h4 (ha : p % 8 = 0) : p % 4 = 0 := by omega
    refine ⟨fun hm hw ha => ?_, fun hm hw ha => ?_, fun hm => ?_, fun hm ha => ?_, fun hm ha => ?_, fun hm ha hw => ?_⟩
    · have ok := State.mgmtTrap_none hm ha (hwin.2 hw)
      exact ⟨State.rgld_reads h rd a 32 0 (ok _), State.rgst_writes h a b 32 2 (ok _)⟩
    · have ok := State.mgmtTrap_none hm ha (hwin.2 hw)
      exact ⟨State.rgld_reads h rd a 64 1 (ok _), State.rgst_writes h a b 64 3 (ok _)⟩
    · have no := State.mgmtTrap_priv hm x
      exact ⟨State.rgld_traps h rd a 32 0 (no _ _), State.rgld_traps h rd a 64 1 (no _ _),
        State.rgst_traps h a b 32 2 (no _ _), State.rgst_traps h a b 64 3 (no _ _)⟩
    · have no := State.mgmtTrap_align hm ha
      exact ⟨State.rgld_traps h rd a 32 0 (no _), State.rgst_traps h a b 32 2 (no _)⟩
    · have no := State.mgmtTrap_align hm ha
      exact ⟨State.rgld_traps h rd a 64 1 (no _), State.rgst_traps h a b 64 3 (no _)⟩
    · have no8 := State.mgmtTrap_space hm ha (mt hwin.1 hw)
      have no4 := State.mgmtTrap_space hm (h4 ha) (mt hwin.1 hw)
      exact ⟨State.rgld_traps h rd a 32 0 (no4 _), State.rgld_traps h rd a 64 1 (no8 _),
        State.rgst_traps h a b 32 2 (no4 _), State.rgst_traps h a b 64 3 (no8 _)⟩

end Sys2Proof.Machine

/-! ### Mesh messages (04_spindle_isa_core.md R158 to R160) -/

namespace Sys2Proof.Machine
open Sys2Proof

/-! Lines of the data store. -/

theorem lineFault_eq_none {ea : Word} {n : Nat} (h : lineOk ea n) (range : Nat) : lineFault range ea n = none := by
  obtain ⟨hin, hal⟩ := h
  simp [lineFault, hin, hal]

theorem State.readLocal_good {s : State} {i : Issue} (h : i.read = .good) (off n : Nat) :
    s.readLocal i off n = (s, .ok (s.bytes (localPa i.tile off) n)) := by
  simp only [State.readLocal, h]

theorem State.bytes_length (s : State) (pa n : Nat) : (s.bytes pa n).length = n := by
  rw [State.bytes, List.length_map, List.length_range]

/-! MSEND. -/

/-- The message of an MSEND whose payload is as long as rs3 says, in the fields of Table 4.7. -/
theorem State.msgOf_eq (s : State) (t : Nat) (target len3 : Word) (weft any : Bool) {payload : List Byte}
    (hlen : payload.length = len3.toNat % 512) :
    s.msgOf t target len3 weft any payload =
      { dst := target.toNat % 2 ^ 12, role := target.toNat / 2 ^ 12 % 2 ^ 12, epoch := target.toNat / 2 ^ 24 % 2 ^ 8,
        srcEpoch := s.get (TILE_ROLE_EPOCH t), src := t, tag := target.toNat / 2 ^ 32 % 2 ^ 16,
        kind := target.toNat / 2 ^ 48 % 2 ^ 16, anyRole := any && s.isManager t,
        cls := if weft then 1 else 0, payload := payload } := by
  rw [State.msgOf, bits_zero, List.take_of_length_le hlen.le]
  rfl

theorem not_priv_of_class {i : Issue} {weft : Bool} (h : i.ctx = .S ∨ weft = true) :
    (decide (i.ctx = .W) && !weft) = false := by
  rcases h with h | h <;> simp [h]

/-- An MSEND that passes its checks sends its message once the port can take it. -/
theorem msendBody_of_canSend {s : State} {i : Issue} {a b c : SReg} {weft any : Bool} (hread : i.read = .good)
    (hcls : i.ctx = .S ∨ weft = true) (hlen : (s.rs i c).toNat % 512 ≤ 256)
    (hline : (s.rs i c).toNat % 512 = 0 ∨ lineOk (s.rs i b) ((s.rs i c).toNat % 512)) {m : Msg}
    (hm : s.msgOf i.tile (s.rs i a) (s.rs i c) weft any (s.localBytes i (s.rs i b) ((s.rs i c).toNat % 512)) = m)
    (hsend : s.canSend m = true) : msendBody i a b c weft any s = .retire (s.sendMsg m) := by
  have hpriv : (decide (i.ctx = .W) && !weft) = false := not_priv_of_class hcls
  by_cases h0 : (s.rs i c).toNat % 512 = 0
  · have hm' : s.msgOf i.tile (s.rs i a) (s.rs i c) weft any [] = m := by rw [← hm, h0]; rfl
    simp only [msendBody, hpriv, Bool.false_eq_true, if_false, h0, Nat.not_lt_zero, if_true, hm', hsend]
  · obtain ⟨hin, hal⟩ := hline.resolve_left h0
    simp only [msendBody, hpriv, Bool.false_eq_true, if_false, if_neg (Nat.not_lt.2 hlen), h0, hin, hal, Bool.not_true,
      bne_self_eq_false, State.readLocal_good hread, hm, hsend, if_true]

theorem msendBody_priv {s : State} {i : Issue} (hw : i.ctx = .W) (a b c : SReg) (any : Bool) :
    msendBody i a b c false any s = .trap exPRIV (evWord (wA 0x28 c a b (if any then 2 else 0))) := by
  simp [msendBody, hw]

theorem msendBody_len {s : State} {i : Issue} {a b c : SReg} {weft : Bool} (hcls : i.ctx = .S ∨ weft = true)
    (hlen : 256 < (s.rs i c).toNat % 512) (any : Bool) :
    msendBody i a b c weft any s = .trap exMSG_LEN (s.rs i c) := by
  have hpriv : (decide (i.ctx = .W) && !weft) = false := not_priv_of_class hcls
  simp only [msendBody, hpriv, Bool.false_eq_true, if_false, if_pos hlen]

/-! MRECV and MRET. -/

theorem takeFirst_append {α : Type} {p : α → Bool} {pre : List α} {x : α} (post : List α)
    (hpre : ∀ y ∈ pre, p y = false) (hx : p x = true) : takeFirst p (pre ++ x :: post) = some (x, pre ++ post) := by
  induction pre with
  | nil => simp [takeFirst, hx]
  | cons y pre ih =>
    obtain ⟨hy, hpre⟩ := List.forall_mem_cons.1 hpre
    simp [takeFirst, hy, ih hpre]

theorem takeFirst_eq_none {α : Type} {p : α → Bool} {l : List α} (h : ∀ y ∈ l, p y = false) : takeFirst p l = none := by
  induction l with
  | nil => rfl
  | cons y l ih =>
    obtain ⟨hy, hl⟩ := List.forall_mem_cons.1 h
    simp [takeFirst, hy, ih hl]

theorem admits_iff (f : BitVec 2) (cls : Nat) : admits f.toNat cls = true ↔ f = 0 ∨ f.toNat = cls + 1 := by
  rw [admits, Bool.or_eq_true, beq_iff_eq, beq_iff_eq, BitVec.toNat_eq (y := 0)]
  rfl

/-- A message that the filter admits, behind ones that it does not, leaves the queue for the line at rs1. -/
theorem mrecvBody_of_take {s : State} {i : Issue} {rd a : SReg} {f : BitVec 2} (hf : f ≠ 3)
    (hline : lineOk (s.rs i a) 256) {pre post : List Msg} {m : Msg} (hq : (s.tile i.tile).inq = pre ++ m :: post)
    (hpre : ∀ q ∈ pre, admits f.toNat q.cls = false) (hm : admits f.toNat m.cls = true) (wait : Bool) :
    mrecvBody i rd a f wait s = .retire
      (((s.setTile i.tile { s.tile i.tile with inq := pre ++ post }).writeLocal i (s.rs i a).toNat m.payload).ws i rd
        m.recvWord) := by
  simp only [mrecvBody, if_neg hf, lineFault_eq_none hline, hq, takeFirst_append post hpre hm]

/-- Where the filter admits no message of the queue, a form that does not wait gives all ones. -/
theorem mrecvBody_of_none {s : State} {i : Issue} {rd a : SReg} {f : BitVec 2} (hf : f ≠ 3)
    (hline : lineOk (s.rs i a) 256) (hq : ∀ m ∈ (s.tile i.tile).inq, admits f.toNat m.cls = false) :
    mrecvBody i rd a f false s = .retire (s.ws i rd (BitVec.allOnes 64)) := by
  simp only [mrecvBody, if_neg hf, lineFault_eq_none hline, takeFirst_eq_none hq, Bool.false_eq_true, if_false]

theorem mretBody_of_cons {s : State} {i : Issue} {rd a : SReg} (hline : lineOk (s.rs i a) 288) {e : List Byte}
    {rest : List (List Byte)} (hq : (s.tile i.tile).rmq = e :: rest) (wait : Bool) :
    mretBody i rd a wait s = .retire
      (((s.setTile i.tile { s.tile i.tile with rmq := rest }).writeLocal i (s.rs i a).toNat e).ws i rd
        (BitVec.ofNat 64 (leAt e 0 8))) := by
  simp only [mretBody, lineFault_eq_none hline, hq]

theorem mretBody_of_nil {s : State} {i : Issue} {rd a : SReg} (hline : lineOk (s.rs i a) 288)
    (hq : (s.tile i.tile).rmq = []) : mretBody i rd a false s = .retire (s.ws i rd (BitVec.allOnes 64)) := by
  simp only [mretBody, lineFault_eq_none hline, hq, Bool.false_eq_true, if_false]

/-- Settles O18: each instruction ends as its body does, at issue and after a wait. -/
theorem messages : Obligations.Messages := by
  constructor
  · intro s i a b c weft any hread x src len m ok
    have body (hok : ok) : msendBody i a b c weft any s = .retire (s.sendMsg m) := by
      obtain ⟨hcls, hlen, hline, hsend⟩ := hok
      exact msendBody_of_canSend hread hcls hlen hline (State.msgOf_eq _ _ _ _ _ _ (State.bytes_length ..)) hsend
    refine ⟨fun h hok => State.issue_retire h (body hok), fun h hok => State.retry_retire h rfl (body hok),
      fun h hw => State.issue_trap h (msendBody_priv hw a b c any),
      fun h hcls hlen => State.issue_trap h (msendBody_len hcls hlen any)⟩
  · intro s i rd a f wait hread ea x takes got back
    refine ⟨fun hf hline => ⟨fun pre m post htake => ?_, fun h hnone => ?_⟩,
      fun hline => ⟨fun e rest hq => ⟨fun h => State.issue_retire h (mretBody_of_cons hline hq wait),
        fun h => State.retry_retire h rfl (mretBody_of_cons hline hq wait)⟩,
        fun h hq => State.issue_retire h (mretBody_of_nil hline hq)⟩⟩
    · obtain ⟨hq, hm, hfirst, hpre⟩ := htake
      have body := mrecvBody_of_take (rd := rd) hf hline hq (fun q hmem => ?_) ((admits_iff f m.cls).2 hm) wait
      · exact ⟨fun h => State.issue_retire h body, fun h => State.retry_retire h rfl body⟩
      · refine Bool.eq_false_iff.2 fun hadm => ?_
        rcases (admits_iff f q.cls).1 hadm with h0 | h1
        · exact List.not_mem_nil (hfirst h0 ▸ hmem)
        · exact hpre q hmem h1
    · refine State.issue_retire h (mrecvBody_of_none hf hline fun m hmem => Bool.eq_false_iff.2 fun hadm => ?_)
      obtain ⟨hne, hcls⟩ := hnone m hmem
      exact ((admits_iff f m.cls).1 hadm).elim hne hcls

end Sys2Proof.Machine

/-! ### Skeins and chunk queues (04_spindle_isa_core.md R162, R163) -/

namespace Sys2Proof.Machine
open Sys2Proof

/-- The lowest free handle of a context. -/
theorem State.find_free_handle {s : State} {t : Nat} {c : Ctx} {h : Nat} (hlt : h < 8) (hfree : s.skein? t c h = none)
    (hheld : ∀ g < h, s.skein? t c g ≠ none) :
    ((List.range 8).find? fun h => (s.skein? t c h).isNone) = some h := by
  rw [List.find?_range_eq_some]
  refine ⟨by rw [hfree]; rfl, List.mem_range.2 hlt, fun g hg => ?_⟩
  cases hk : s.skein? t c g with
  | none => exact absurd hk (hheld g hg)
  | some k => rfl

/-- The skein that a SKISS makes of its descriptor. -/
def State.issuedSkein (s : State) (i : Issue) (a : SReg) : Skein :=
  { state := 1, status := stOK, desc := s.localBytes i (s.rs i a) 128, check := (s.ctx i.tile i.ctx).check.reset,
    done := 0, nextChunk := 0, cvt := 0, fault := 0, side := false, age := (s.ctx i.tile i.ctx).issued, due := 0 }

/-- The state in which a SKISS that took handle `h` has counted it and named it in rd. -/
def State.issuedTo (s : State) (i : Issue) (rd : SReg) (h : Nat) : State :=
  ((s.upd i fun x => { x with issued := x.issued + 1 }).bump SKN_ISSUED_VAL).ws i rd (BitVec.ofNat 64 h)

/-- The state of a skein that has passed its checks: 2 where it waits for earlier ones. -/
theorem fence_state_eq (k : Skein) (m : SMap Skein) :
    (if (k.fence && m.any fun p => p.2.state != 6) = true then 2 else 1) =
      if k.fence = true ∧ ∃ p ∈ m, p.2.state ≠ 6 then 2 else 1 := by
  simp only [Bool.and_eq_true, List.any_eq_true, bne_iff_ne]

section
variable {s : State} {i : Issue} {rd a : SReg} {h : Nat} (hread : i.read = .good) (hline : lineOk (s.rs i a) 128)
  (hfind : ((List.range 8).find? fun h => (s.skein? i.tile i.ctx h).isNone) = some h)
include hread hline hfind

/-- A SKISS with a free handle, whose descriptor passes the checks of Table 6.3. -/
theorem skissBody_of_ok (hok : (s.skeinCheck i.tile i.ctx (s.issuedSkein i a)).1 = 0) :
    let k := s.issuedSkein i a
    skissBody i rd a s = .retire (((s.issuedTo i rd h).traceSkein 1 i.tile i.ctx h k 0).setSkein i.tile i.ctx h
      { k with state := if k.fence = true ∧ ∃ p ∈ (s.ctx i.tile i.ctx).handles, p.2.state ≠ 6 then 2 else 1 }) := by
  intro k
  rw [← fence_state_eq]
  simp only [skissBody, lineFault_eq_none hline, hfind, State.readLocal_good hread]
  exact if_pos hok

/-- A SKISS with a free handle, whose descriptor fails a check: the skein completes with its status. -/
theorem skissBody_of_reject (hbad : (s.skeinCheck i.tile i.ctx (s.issuedSkein i a)).1 ≠ 0) :
    let k := s.issuedSkein i a
    let r := s.skeinCheck i.tile i.ctx k
    skissBody i rd a s = .retire ((((s.issuedTo i rd h).setReg SKN_REJECT_LOG
      (i.tile + (if i.ctx = .W then 2 ^ 12 else 0) + h * 2 ^ 13 + r.2 * 2 ^ 16 + r.1 * 2 ^ 24)).raise
      SKN_EVENT_REJECT).skeinDone i.tile i.ctx h k r.2) := by
  intro k r
  simp only [skissBody, lineFault_eq_none hline, hfind, State.readLocal_good hread]
  exact if_neg hbad

end

/-! SKWAIT and SKSTAT. -/

theorem skwaitBody_of_none {s : State} {i : Issue} {a : SReg} (hk : s.skein? i.tile i.ctx ((s.rs i a).toNat % 8) = none)
    (rd : SReg) (wait : Option Instr) : skwaitBody i rd a wait s = .retire (s.ws i rd 0x200) := by
  simp only [skwaitBody, hk]

theorem skwaitBody_of_complete {s : State} {i : Issue} {a : SReg} {k : Skein}
    (hk : s.skein? i.tile i.ctx ((s.rs i a).toNat % 8) = some k) (h6 : k.state = 6) (rd : SReg) (wait : Option Instr) :
    skwaitBody i rd a wait s = .retire
      ((s.freeHandle i.tile i.ctx ((s.rs i a).toNat % 8)).ws i rd (BitVec.ofNat 64 k.status)) := by
  simp only [skwaitBody, hk, h6, if_true]

theorem skwaitBody_of_running {s : State} {i : Issue} {a : SReg} {k : Skein}
    (hk : s.skein? i.tile i.ctx ((s.rs i a).toNat % 8) = some k) (h6 : k.state ≠ 6) (rd : SReg) :
    skwaitBody i rd a none s = .retire (s.ws i rd 0x100) := by
  simp only [skwaitBody, hk, if_neg h6]

/-! CHTAKE and CHTAKEW. -/

/-- Whether queue `q` is enabled and is one that tile `t` may take from. -/
def State.ownsQueue (s : State) (t q : Nat) : Prop := s.cqOwner q = s.instOfTile t ∧ s.on (SKN_CQ_CFG_ENABLE q) = true

theorem State.ownsQueue_iff (s : State) (t q : Nat) :
    (s.cqOwner q != s.instOfTile t || !s.on (SKN_CQ_CFG_ENABLE q)) = false ↔ s.ownsQueue t q := by
  simp only [ownsQueue, Bool.or_eq_false_iff, bne_eq_false_iff_eq, Bool.not_eq_false']

section
variable {s : State} {i : Issue} {a b : SReg} (hline : lineOk (s.rs i b) 64)
include hline

theorem chtakeBody_of_not_owned (hq : ¬ s.ownsQueue i.tile ((s.rs i a).toNat % 65536)) (rd : SReg)
    (wait : Option Instr) :
    chtakeBody i rd a b wait s = .trap exDEV_ACCESS (BitVec.ofNat 64 ((s.rs i a).toNat % 65536)) := by
  simp only [chtakeBody, lineFault_eq_none hline]
  exact if_pos (Bool.not_eq_false _ ▸ mt (State.ownsQueue_iff ..).1 hq)

theorem chtakeBody_of_signal (hq : s.ownsQueue i.tile ((s.rs i a).toNat % 65536))
    (hn : s.cqCount ((s.rs i a).toNat % 65536) ≠ 0) (rd : SReg) (wait : Option Instr) :
    chtakeBody i rd a b wait s = .retire (((s.cqTake ((s.rs i a).toNat % 65536)).1.writeLocal i (s.rs i b).toNat
      (s.cqTake ((s.rs i a).toNat % 65536)).2).ws i rd 1) := by
  simp only [chtakeBody, lineFault_eq_none hline, (State.ownsQueue_iff ..).2 hq, Bool.false_eq_true, if_false,
    if_neg hn]

theorem chtakeBody_of_empty (hq : s.ownsQueue i.tile ((s.rs i a).toNat % 65536))
    (hn : s.cqCount ((s.rs i a).toNat % 65536) = 0) (rd : SReg) :
    chtakeBody i rd a b none s = .retire (s.ws i rd 0) := by
  simp only [chtakeBody, lineFault_eq_none hline, (State.ownsQueue_iff ..).2 hq, Bool.false_eq_true, if_false,
    if_pos hn]

end

/-- Settles O19: each instruction ends as its body does, at issue and after a wait. -/
theorem skeinInstructions : Obligations.SkeinInstructions := by
  constructor
  · intro s i rd a h hread hline hlt hfree hheld x k r s1 good bad
    have hfind := State.find_free_handle hlt hfree hheld
    have ends {o : Host.Outcome State Fault Refusal}
        (ho : ∀ t, skissBody i rd a s = .retire t → o = done (t.advance i)) : o = if r.1 = 0 then good else bad := by
      by_cases hr : r.1 = 0
      · rw [if_pos hr]
        exact ho _ (skissBody_of_ok hread hline hfind hr)
      · rw [if_neg hr]
        exact ho _ (skissBody_of_reject hread hline hfind hr)
    exact ⟨fun hs => ends fun t ht => State.issue_retire hs ht, fun hs => ends fun t ht => State.retry_retire hs rfl ht⟩
  · intro s i rd a b h q ea status mine took
    refine ⟨fun hs => ⟨fun k hk h6 => ?_, fun k hk h6 => ?_, fun hk => ?_,
      fun hline => ⟨fun hq hn => ?_, fun hq hn => ?_, fun hq => ?_⟩⟩, fun k hs hk h6 => ?_, fun hs hline hq hn => ?_⟩
    · have ends (wait : Option Instr) := State.issue_retire hs (skwaitBody_of_complete hk h6 rd wait)
      exact ⟨ends _, ends _⟩
    · exact State.issue_retire hs (skwaitBody_of_running hk h6 rd)
    · have ends (wait : Option Instr) := State.issue_retire hs (skwaitBody_of_none hk rd wait)
      exact ⟨ends _, ends _⟩
    · have ends (wait : Option Instr) := State.issue_retire hs (chtakeBody_of_signal hline hq hn rd wait)
      exact ⟨ends _, ends _⟩
    · exact State.issue_retire hs (chtakeBody_of_empty hline hq hn rd)
    · have ends (wait : Option Instr) := State.issue_trap hs (chtakeBody_of_not_owned hline hq rd wait)
      exact ⟨ends _, ends _⟩
    · exact State.retry_retire hs rfl (skwaitBody_of_complete hk h6 rd _)
    · exact State.retry_retire hs rfl (chtakeBody_of_signal hline hq hn rd _)

end Sys2Proof.Machine

/-! ### Loads and stores of vector registers, accumulators and XACC (05_spindle_isa_vector.md R193, R200, R203) -/

namespace Sys2Proof.Machine
open Sys2Proof

/-! Whole lines of the data store. -/

theorem State.readData_of_lineOk {s : State} {i : Issue} (hread : i.read = .good) {ea : Word} {n : Nat}
    (hline : lineOk ea n) (f : State → List Byte → Fate) : s.readData i ea n f = f s (s.localBytes i ea n) := by
  simp only [State.readData, lineFault_eq_none hline, State.readLocal_good hread]

theorem State.writeData_of_lineOk {s : State} {i : Issue} {ea : Word} {bs : List Byte} {n : Nat} (hn : bs.length = n)
    (hline : lineOk ea n) : s.writeData i ea bs = .retire (s.setBytes (localPa i.tile ea.toNat) bs) := by
  simp only [State.writeData, hn, lineFault_eq_none hline, State.writeLocal]

/-! The image of XACC (Table 5.9). -/

theorem sliceB_zero_append {l : List Byte} {n : Nat} (hl : l.length = n) (r : List Byte) : sliceB (l ++ r) 0 n = l := by
  subst hl
  simp [sliceB]

theorem byteAt_append_leBytes_one {l : List Byte} {n : Nat} (hl : l.length = n) (x : Nat) (r : List Byte) :
    byteAt (l ++ leBytes 1 x ++ r) n = x % 256 := by
  subst hl
  simp [byteAt, leBytes]

/-- The flags byte of the image (Table 5.9). -/
def flagByte (nan pinf ninf wrap : Bool) : Nat :=
  (if nan then 1 else 0) + (if pinf then 2 else 0) + (if ninf then 4 else 0) + (if wrap then 8 else 0)

theorem bit_flagByte : ∀ nan pinf ninf wrap : Bool,
    let f := flagByte nan pinf ninf wrap % 256
    bit f 0 = nan ∧ bit f 1 = pinf ∧ bit f 2 = ninf ∧ bit f 3 = wrap := by
  decide

theorem XAcc.image_eq (x : XAcc) :
    x.image = leBytes 80 x.v.toNat ++ leBytes 1 (flagByte x.nan x.pinf x.ninf x.wrap) ++ leBytes 47 0 := rfl

theorem XAcc.image_length (x : XAcc) : x.image.length = 128 := by
  simp only [XAcc.image_eq, List.length_append, leBytes_length]

theorem leNat_leBytes_toNat {k : Nat} (x : BitVec (8 * k)) : leNat (leBytes k x.toNat) = x.toNat := by
  rw [leNat_leBytes]
  exact Nat.mod_eq_of_lt (x.isLt.trans_eq (Nat.pow_mul 2 8 k))

theorem XAcc.leAt_image (x : XAcc) : leAt x.image 0 80 = x.v.toNat := by
  rw [leAt, XAcc.image_eq, List.append_assoc, sliceB_zero_append (leBytes_length ..)]
  exact leNat_leBytes_toNat (k := 80) x.v

theorem XAcc.byteAt_image (x : XAcc) : byteAt x.image 80 = flagByte x.nan x.pinf x.ninf x.wrap % 256 := by
  rw [XAcc.image_eq, byteAt_append_leBytes_one (leBytes_length ..)]

theorem XAcc.imageXAcc_image (x : XAcc) : imageXAcc x.image = x := by
  obtain ⟨hnan, hpinf, hninf, hwrap⟩ := bit_flagByte x.nan x.pinf x.ninf x.wrap
  simp only [imageXAcc, x.byteAt_image, x.leAt_image, hnan, hpinf, hninf, hwrap, BitVec.ofNat_toNat, BitVec.setWidth_eq]

/-- The sum of two signed words is exact where it lies in the range of the word. -/
theorem toInt_add_ne_iff {w : Nat} (x y : BitVec w) :
    (x + y).toInt ≠ x.toInt + y.toInt ↔
      x.toInt + y.toInt < -2 ^ (w - 1) ∨ 2 ^ (w - 1) ≤ x.toInt + y.toInt := by
  constructor
  · intro hne
    by_contra! hin
    exact hne (BitVec.toInt_add_of_not_saddOverflow (by simp [BitVec.saddOverflow, hin]))
  · intro hout heq
    have hlo := BitVec.le_toInt (x + y)
    have hhi := BitVec.toInt_lt (x := x + y)
    omega

theorem XAcc.merge_wrap_iff (x y : XAcc) : (x.merge y).wrap = true ↔ x.wrap = true ∨ y.wrap = true ∨
    x.v.toInt + y.v.toInt < -(2 ^ 639) ∨ 2 ^ 639 ≤ x.v.toInt + y.v.toInt := by
  simp only [XAcc.merge, Bool.or_eq_true, bne_iff_ne, or_assoc, toInt_add_ne_iff]

/-- Settles O12: the loads read a line, the stores write one, and the image of XACC reads back. -/
theorem vectorLoadsAndStores : Obligations.VectorLoadsAndStores := by
  refine ⟨?_, fun x => ⟨x.imageXAcc_image, x.image_length⟩, fun x y => ⟨rfl, rfl, rfl, rfl, x.merge_wrap_iff y⟩⟩
  intro s i v q a imm h hread ea k put
  have load {n : Nat} (hline : lineOk ea n) (f : State → List Byte → State) :
      s.issue i (fun s => s.readData i (s.ea i a imm) n fun s bs => .retire (f s bs)) =
        done ((f s (s.localBytes i ea n)).advance i) :=
    State.issue_retire h (State.readData_of_lineOk hread hline _)
  have store {n : Nat} (hline : lineOk ea n) (f : State → List Byte) (hn : (f s).length = n) :
      s.issue i (fun s => s.writeData i (s.ea i a imm) (f s)) = put (f s) :=
    State.issue_retire h (State.writeData_of_lineOk hn hline)
  refine ⟨fun hline => ⟨?_, ?_⟩, fun hline => ⟨?_, ?_, ?_, ?_, ?_⟩⟩
  · exact (load hline _ : execVld i v a imm s = _)
  · exact (store hline _ (leBytes_length ..) : execVst i v a imm s = _)
  · exact (load hline _ : execAld i q a imm s = _)
  · exact (store hline _ (leBytes_length ..) : execAst i q a imm s = _)
  · exact (store hline _ (XAcc.image_length _) : execXst i a imm s = _)
  · exact (load hline _ : execXldi i a imm s = _)
  · exact (load hline _ : execXmrg i a imm s = _)

end Sys2Proof.Machine

/-! ### The top-k list (05_spindle_isa_vector.md R208 to R210) -/

namespace Sys2Proof.Machine
open Sys2Proof

theorem ranksBefore_iff (a b : Nat × Nat) : ranksBefore a b = true ↔
    scoreKey b.1 < scoreKey a.1 ∨ (scoreKey a.1 = scoreKey b.1 ∧ a.2 ≤ b.2) := by
  simp [ranksBefore]

theorem ranksBefore_total {a b : Nat × Nat} (h : ¬ ranksBefore a b = true) : ranksBefore b a = true := by
  rw [ranksBefore_iff] at *
  omega

theorem ranksBefore_trans {a b c : Nat × Nat} (hab : ranksBefore a b = true) (hbc : ranksBefore b c = true) :
    ranksBefore a c = true := by
  rw [ranksBefore_iff] at *
  omega

/-- A list of candidates in rank order. -/
abbrev Ranked (l : List (Nat × Nat)) : Prop := l.Pairwise fun a b => ranksBefore a b = true

theorem rankInsert_perm (c : Nat × Nat) (l : List (Nat × Nat)) : (rankInsert c l).Perm (c :: l) := by
  induction l with
  | nil => exact .refl _
  | cons x l ih =>
    rw [rankInsert]
    split
    · exact (ih.cons x).trans (.swap c x l)
    · exact .refl _

theorem mem_rankInsert {x c : Nat × Nat} {l : List (Nat × Nat)} : x ∈ rankInsert c l ↔ x = c ∨ x ∈ l :=
  (rankInsert_perm c l).mem_iff.trans List.mem_cons

theorem rankInsert_length (c : Nat × Nat) (l : List (Nat × Nat)) : (rankInsert c l).length = l.length + 1 :=
  (rankInsert_perm c l).length_eq

theorem rankInsert_ranked (c : Nat × Nat) {l : List (Nat × Nat)} (h : Ranked l) : Ranked (rankInsert c l) := by
  induction l with
  | nil => exact List.pairwise_singleton _ c
  | cons x l ih =>
    obtain ⟨hx, hl⟩ := List.pairwise_cons.1 h
    rw [rankInsert]
    split
    next hxc =>
      refine .cons (fun y hy => ?_) (ih hl)
      obtain rfl | hy := mem_rankInsert.1 hy
      · exact hxc
      · exact hx y hy
    next hxc =>
      have hcx : ranksBefore c x = true := ranksBefore_total hxc
      refine .cons (fun y hy => ?_) h
      obtain rfl | hy := List.mem_cons.1 hy
      · exact hcx
      · exact ranksBefore_trans hcx (hx y hy)

/-- What a list in rank order loses where it is cut ranks after all that it keeps. -/
theorem ranksBefore_of_not_mem_take {l : List (Nat × Nat)} (h : Ranked l) {n : Nat} {x y : Nat × Nat} (hx : x ∈ l)
    (hcut : x ∉ l.take n) (hy : y ∈ l.take n) : ranksBefore y x = true := by
  rw [← List.take_append_drop n l] at h hx
  obtain ⟨-, -, hrank⟩ := List.pairwise_append.1 h
  exact hrank y hy x ((List.mem_append.1 hx).resolve_left hcut)

theorem TopK.offer_list (u : TopK) (c : Nat × Nat) : (u.offer c).list = (rankInsert c u.list).take 4096 := rfl

/-- Settles O17: the candidates are those of `rankInsert`, in rank order, cut at 4,096. -/
theorem topkListStaysRanked : Obligations.TopkListStaysRanked := by
  intro u c h t
  have hins : Ranked (rankInsert c u.list) := rankInsert_ranked c h
  refine ⟨hins.take, List.length_take_le .., ?_, fun n hn => ?_, ?_, rfl, rfl, fun x hx => ?_, fun hroom => ?_,
    fun _ x hx hcut y hy => ranksBefore_of_not_mem_take hins (mem_rankInsert.2 hx) hcut hy⟩
  · rw [TopK.top, List.length_take, Nat.min_comm]
  · rw [TopK.top, List.length_take] at hn
    rw [TopK.top, List.getElem?_take_of_lt (by omega)]
  · change (if exceedsT c.1 u.t then u.m + 1 else u.m) = _
    split <;> rfl
  · exact mem_rankInsert.1 (List.mem_of_mem_take hx)
  · have hall : t.list = rankInsert c u.list := List.take_of_length_le (by rw [rankInsert_length]; omega)
    rw [hall]
    exact ⟨mem_rankInsert.2 (.inl rfl), fun x hx => mem_rankInsert.2 (.inr hx)⟩

end Sys2Proof.Machine

/-! ### Elementwise arithmetic (05_spindle_isa_vector.md R184, R194, R195) -/

namespace Sys2Proof.Machine
open Sys2Proof

/-! How a floating-point instruction ends (R184). -/

theorem orFlags_odd_iff (l : List Nat) : orFlags l % 2 = 1 ↔ ∃ x ∈ l, x % 2 = 1 := by
  suffices h : ∀ a, l.foldl (· ||| ·) a % 2 = 1 ↔ a % 2 = 1 ∨ ∃ x ∈ l, x % 2 = 1 from
    (h 0).trans (or_iff_right (by decide))
  induction l with
  | nil => simp
  | cons x l ih => simp [ih, Nat.or_mod_two_eq_one, or_assoc]

theorem State.fpEnd_of_trap_clear {s : State} {i : Issue} (h : (s.ctx i.tile i.ctx).vcsr.getLsbD 8 = false) (w fl : Nat)
    (f : Context → Context) :
    s.fpEnd i w fl f = .retire (s.upd i fun k => { f k with vcsr := k.vcsr ||| BitVec.ofNat 64 fl }) := by
  simp only [State.fpEnd, h, Bool.and_false, Bool.false_eq_true, if_false]

theorem State.fpEnd_of_invalid {s : State} {i : Issue} (h : (s.ctx i.tile i.ctx).vcsr.getLsbD 8 = true) (w : Nat) {fl : Nat}
    (hfl : fl % 2 = 1) (f : Context → Context) : s.fpEnd i w fl f = .trap exFP_INVALID (evWord w) := by
  simp only [State.fpEnd, h, hfl, decide_true, Bool.and_true, if_true]

/-! VOP over the elements of its registers. -/

/-- Element `j` of type `ty` of a register (R181). -/
abbrev elemAt (ty : Nat) (v : BitVec 512) (j : Nat) : Nat := bits v.toNat (typeBits ty * j) (typeBits ty)

/-- The results and flags of a VOP, element by element. -/
abbrev vopOut (ty : Nat) (f : Nat → Nat → Nat → Nat × Nat) (x y z : BitVec 512) : List (Nat × Nat) :=
  (List.range (typeCount ty)).map fun j => f (elemAt ty x j) (elemAt ty y j) (elemAt ty z j)

theorem zipWith_elemsOf (ty : Nat) (f : Nat → Nat → Nat → Nat × Nat) (x y z : BitVec 512) :
    (elemsOf ty x).zipWith (fun a (p : Nat × Nat) => f a p.1 p.2) ((elemsOf ty y).zip (elemsOf ty z)) =
      vopOut ty f x y z := by
  simp only [elemsOf, List.zip_map', List.zipWith_map, List.zipWith_self]

section
variable {s : State} {i : Issue} (h : s.ready i) (w : Nat) (d a b : VReg) {ty : BitVec 4}
  (f : Nat → Nat → Nat → Nat → Nat × Nat)
include h

theorem State.vop_retires (hty : ty.toNat ∈ vopTypes) (hnv : (s.ctx i.tile i.ctx).vcsr.getLsbD 8 = false) :
    let k := s.ctx i.tile i.ctx
    let l := vopOut ty.toNat (f ty.toNat) (k.vec a) (k.vec b) (k.vec d)
    s.vop i w d a b ty f = done (s.effect i fun k => { k.setVec d (vecOf ty.toNat (l.map (·.1))) with
      vcsr := k.vcsr ||| BitVec.ofNat 64 (orFlags (l.map (·.2))) }) := by
  intro k l
  refine State.issue_retire h ?_
  simp only [List.contains_iff_mem.2 hty, if_true, zipWith_elemsOf, State.fpEnd_of_trap_clear hnv]
  rfl

theorem State.vop_invalid (hty : ty.toNat ∈ vopTypes) (hnv : (s.ctx i.tile i.ctx).vcsr.getLsbD 8 = true)
    (hinv : let k := s.ctx i.tile i.ctx
      ∃ x ∈ vopOut ty.toNat (f ty.toNat) (k.vec a) (k.vec b) (k.vec d), x.2 % 2 = 1) :
    s.vop i w d a b ty f = done (s.traps i exFP_INVALID (evWord w)) := by
  refine State.issue_trap h ?_
  simp only [List.contains_iff_mem.2 hty, if_true, zipWith_elemsOf]
  refine State.fpEnd_of_invalid hnv w ((orFlags_odd_iff _).2 ?_) _
  obtain ⟨x, hx, hodd⟩ := hinv
  exact ⟨x.2, List.mem_map_of_mem hx, hodd⟩

theorem State.vop_illegal (hty : ty.toNat ∉ vopTypes) :
    s.vop i w d a b ty f = done (s.traps i exILLEGAL (evWord w)) :=
  State.issue_trap h (if_neg (mt List.contains_iff_mem.1 hty))

theorem State.vbit_eq (g : BitVec 512 → BitVec 512 → BitVec 512) :
    s.vbit i d a b g =
      done (s.effect i (·.setVec d (g ((s.ctx i.tile i.ctx).vec a) ((s.ctx i.tile i.ctx).vec b)))) :=
  State.issue_retire h rfl

end

/-! Integer elements (R195). -/

theorem sgn_modEq (w n : Nat) : sgn w n ≡ n [ZMOD (2 ^ w : Nat)] := by
  have hn : ((n % 2 ^ w : Nat) : Int) ≡ n [ZMOD (2 ^ w : Nat)] := by
    rw [Int.natCast_mod]
    exact Int.mod_modEq ..
  simp only [sgn]
  split
  · exact (Int.sub_modulus_modEq_iff).2 hn
  · exact hn

theorem wrapI_of_modEq {w n : Nat} {x : Int} (h : x ≡ n [ZMOD (2 ^ w : Nat)]) : wrapI w x = n % 2 ^ w := by
  rw [wrapI, h.eq, ← Int.natCast_mod, Int.toNat_natCast]

theorem intOut_of_modEq {ty n : Nat} {x : Int} (h : x ≡ n [ZMOD (2 ^ typeBits ty : Nat)]) :
    intOut ty x = (n % 2 ^ typeBits ty, 0) := by
  rw [intOut, wrapI_of_modEq h]

section
variable {ty : Nat} (h : typeInt ty = true) (a b c : Nat)
include h

theorem elemAdd_int : elemAdd ty a b = ((a + b) % 2 ^ typeBits ty, 0) := by
  rw [elemAdd, if_pos h]
  exact intOut_of_modEq (by rw [Nat.cast_add]; exact (sgn_modEq _ a).add (sgn_modEq _ b))

theorem elemMul_int : elemMul ty a b = (a * b % 2 ^ typeBits ty, 0) := by
  rw [elemMul, if_pos h]
  exact intOut_of_modEq (by rw [Nat.cast_mul]; exact (sgn_modEq _ a).mul (sgn_modEq _ b))

theorem elemFma_int : elemFma ty a b c = ((a * b + c) % 2 ^ typeBits ty, 0) := by
  rw [elemFma, if_pos h]
  exact intOut_of_modEq (by
    rw [Nat.cast_add, Nat.cast_mul]
    exact ((sgn_modEq _ a).mul (sgn_modEq _ b)).add (sgn_modEq _ c))

theorem elemSub_int_add : elemSub ty (a + b) b = (a % 2 ^ typeBits ty, 0) := by
  have hsub := (sgn_modEq (typeBits ty) (a + b)).sub (sgn_modEq (typeBits ty) b)
  rw [Nat.cast_add, add_sub_cancel_right] at hsub
  rw [elemSub, if_pos h]
  exact intOut_of_modEq hsub

theorem elemMin_int : (elemMin ty a b).2 = 0 ∧ intOf ty (elemMin ty a b).1 = min (intOf ty a) (intOf ty b) := by
  rw [elemMin, if_pos h, min_def_lt, apply_ite (intOf ty)]
  exact ⟨rfl, rfl⟩

theorem elemMax_int : (elemMax ty a b).2 = 0 ∧ intOf ty (elemMax ty a b).1 = max (intOf ty a) (intOf ty b) := by
  rw [elemMax, if_pos h, max_def_lt, apply_ite (intOf ty)]
  exact ⟨rfl, rfl⟩

end

/-! The sign bit of a floating-point element (R195). -/

section
variable {ty : Nat} (h : typeInt ty = false)
include h

theorem elemAbs_float (a : Nat) : elemAbs ty a = (a % 2 ^ (typeBits ty - 1), 0) :=
  if_neg (Bool.eq_false_iff.1 h)

theorem elemNeg_float (a : Nat) : elemNeg ty a = (a ^^^ 2 ^ (typeBits ty - 1), 0) :=
  if_neg (Bool.eq_false_iff.1 h)

theorem testBit_elemAbs {a : Nat} (ha : a < 2 ^ typeBits ty) (k : Nat) :
    (elemAbs ty a).1.testBit k = (a.testBit k && k != typeBits ty - 1) := by
  rw [elemAbs_float h, Nat.testBit_mod_two_pow]
  by_cases hk : k < typeBits ty
  · have hlow : decide (k < typeBits ty - 1) = (k != typeBits ty - 1) := by
      rw [Bool.eq_iff_iff, decide_eq_true_eq, bne_iff_ne]
      omega
    rw [hlow, Bool.and_comm]
  · have hhigh : a.testBit k = false :=
      Nat.testBit_lt_two_pow (ha.trans_le (Nat.pow_le_pow_right (by decide) (Nat.not_lt.1 hk)))
    simp [hhigh]

theorem testBit_elemNeg (a k : Nat) :
    (elemNeg ty a).1.testBit k = (a.testBit k ^^ (k == typeBits ty - 1)) := by
  rw [elemNeg_float h, Nat.testBit_xor, Nat.testBit_two_pow, beq_eq_decide]
  exact congrArg _ (decide_eq_decide.2 eq_comm)

end

/-- Settles O13: the arithmetic forms are `State.vop`, whose end its type and flags decide, and the bitwise ones
`State.vbit`; the integer forms are congruences modulo 2^w. -/
theorem vectorArithmetic : Obligations.VectorArithmetic := by
  refine ⟨?_, ?_, ?_, fun ty a hty ha => ?_⟩
  · intro s i d a b ty h k n el out
    refine ⟨fun hty hnv => ?_, ?_, ?_, ?_, ?_⟩
    · have vop (w : Nat) (b : VReg) (f : Nat → Nat → Nat → Nat → Nat × Nat) :
          s.vop i w d a b ty f = out fun j => f n (el a j) (el b j) (el d j) :=
        State.vop_retires h w d a b f hty hnv
      refine ⟨?_, ?_, ?_, ?_, ?_, ?_, ?_, ?_⟩
      · exact (vop _ b _ : execVadd i d a b ty s = _)
      · exact (vop _ b _ : execVsub i d a b ty s = _)
      · exact (vop _ b _ : execVmul i d a b ty s = _)
      · exact (vop _ b _ : execVfma i d a b ty s = _)
      · exact (vop _ b _ : execVmin i d a b ty s = _)
      · exact (vop _ b _ : execVmax i d a b ty s = _)
      · exact (vop _ 0 _ : execVabs i d a ty s = _)
      · exact (vop _ 0 _ : execVneg i d a ty s = _)
    · exact (State.vbit_eq h d a b _ : execVand i d a b s = _)
    · exact (State.vbit_eq h d a b _ : execVor i d a b s = _)
    · exact (State.vbit_eq h d a b _ : execVxor i d a b s = _)
    · exact (State.vbit_eq h d a 0 _ : execVmov i d a s = _)
  · intro s i d a b ty h k n el
    have invalid (w : Nat) (f : Nat → Nat → Nat → Nat → Nat × Nat) (hty : n ∈ vopTypes)
        (hnv : k.vcsr.getLsbD 8 = true) (hinv : ∃ j < typeCount n, (f n (el a j) (el b j) (el d j)).2 % 2 = 1) :
        s.vop i w d a b ty f = done (s.traps i exFP_INVALID (evWord w)) := by
      obtain ⟨j, hj, hodd⟩ := hinv
      exact State.vop_invalid h w d a b f hty hnv ⟨_, List.mem_map_of_mem (List.mem_range.2 hj), hodd⟩
    refine ⟨fun hty => ?_, fun hty hnv hinv => ?_, fun hty hnv hinv => ?_⟩
    · exact (State.vop_illegal h _ d a b _ hty : execVadd i d a b ty s = _)
    · exact (invalid _ (fun t x y _ => elemAdd t x y) hty hnv hinv : execVadd i d a b ty s = _)
    · exact (invalid _ (fun t x y _ => elemMul t x y) hty hnv hinv : execVmul i d a b ty s = _)
  · intro ty a b c hty w
    have hint : typeInt ty = true := by
      simp only [List.mem_cons, List.not_mem_nil, or_false] at hty
      obtain rfl | rfl | rfl := hty <;> rfl
    obtain ⟨hminFlag, hmin⟩ := elemMin_int hint a b
    obtain ⟨hmaxFlag, hmax⟩ := elemMax_int hint a b
    exact ⟨elemAdd_int hint a b, elemMul_int hint a b, elemFma_int hint a b c, elemSub_int_add hint a b, hminFlag, hmin,
      hmaxFlag, hmax⟩
  · have hfloat : typeInt ty = false := by
      simp only [List.mem_cons, List.not_mem_nil, or_false] at hty
      obtain rfl | rfl | rfl := hty <;> rfl
    refine ⟨?_, ?_, testBit_elemAbs hfloat ha, testBit_elemNeg hfloat a⟩
    · rw [elemAbs_float hfloat]
    · rw [elemNeg_float hfloat]

end Sys2Proof.Machine

/-! ### Dot products, conversions, quantization, readout and scoring (05_spindle_isa_vector.md R196 to R202, R206) -/

namespace Sys2Proof.Machine
open Sys2Proof

/-- A floating-point instruction with TRAP_NV clear: its effect on the context, and its flags in VCSR (R184). -/
theorem State.issue_fpEnd {s : State} {i : Issue} (h : s.ready i) (hnv : (s.ctx i.tile i.ctx).vcsr.getLsbD 8 = false)
    {body : State → Fate} {w fl : Nat} {f : Context → Context} (hb : body s = s.fpEnd i w fl f) :
    s.issue i body = done (s.effect i fun k => { f k with vcsr := k.vcsr ||| BitVec.ofNat 64 fl }) :=
  State.issue_retire h (hb.trans (State.fpEnd_of_trap_clear hnv w fl f))

/-! A part of the elements of a register (R197). -/

theorem take_drop_map_range {α : Type} (g : Nat → α) {p n m : Nat} (hm : p + n ≤ m) :
    (((List.range m).map g).drop p).take n = (List.range n).map fun j => g (p + j) := by
  obtain ⟨q, rfl⟩ := Nat.exists_eq_add_of_le hm
  simp [List.range_add, Function.comp_def]

theorem splice_map_range {α : Type} (g x : Nat → α) {p n m : Nat} (hm : p + n ≤ m) :
    ((List.range m).map g).take p ++ (List.range n).map x ++ ((List.range m).map g).drop (p + n) =
      (List.range m).map fun j => if p ≤ j ∧ j < p + n then x (j - p) else g j := by
  refine List.ext_getElem ?_ fun j hj hj' => ?_
  · simp only [List.length_append, List.length_take, List.length_drop, List.length_map, List.length_range]
    omega
  · simp only [List.getElem_append, List.getElem_take, List.getElem_drop, List.getElem_map, List.getElem_range,
      List.length_append, List.length_take, List.length_map, List.length_range, Nat.min_eq_left (Nat.le_of_add_right_le hm)]
    by_cases hlow : j < p
    · rw [dif_pos (by omega), dif_pos hlow, if_neg (by omega)]
    by_cases hmid : j < p + n
    · rw [dif_pos hmid, dif_neg hlow, if_pos ⟨by omega, hmid⟩]
    · rw [dif_neg hmid, if_neg (by omega), Nat.add_sub_cancel' (by omega)]

theorem cvtOk_part {a b p : Nat} (h : cvtOk a b p = true) : p < cvtParts a b := by
  simp only [cvtOk, Bool.and_eq_true, decide_eq_true_eq] at h
  exact h.2

theorem part_fits {m n p : Nat} (h : p < m / n) : p * n + n ≤ m := by
  rw [← Nat.succ_mul]
  exact (Nat.mul_le_mul_right n h).trans (Nat.div_mul_le_self m n)

theorem cvtOk_src_fits {a b p : Nat} (h : cvtOk a b p = true) (hle : typeCount b ≤ typeCount a) :
    p * typeCount b + typeCount b ≤ typeCount a := by
  have hp := cvtOk_part h
  rw [cvtParts] at hp
  refine part_fits ?_
  split at hp
  next hge => rwa [Nat.le_antisymm hle hge] at hp ⊢
  next => exact hp

theorem cvtOk_dst_fits {a b p : Nat} (h : cvtOk a b p = true) (hlt : ¬ typeCount b ≤ typeCount a) :
    p * typeCount a + typeCount a ≤ typeCount b := by
  have hp := cvtOk_part h
  rw [cvtParts, if_pos (Nat.le_of_not_le hlt)] at hp
  exact part_fits hp
/-- What a narrowing conversion takes of its source. -/
theorem elemsOf_part {a b p : Nat} (h : cvtOk a b p = true) (hle : typeCount b ≤ typeCount a) (v : BitVec 512) :
    ((elemsOf a v).drop (p * typeCount b)).take (typeCount b) =
      (List.range (typeCount b)).map fun j => elemAt a v (p * typeCount b + j) :=
  take_drop_map_range _ (cvtOk_src_fits h hle)

/-- What a widening one makes of its destination. -/
theorem elemsOf_splice {a b p : Nat} (h : cvtOk a b p = true) (hlt : ¬ typeCount b ≤ typeCount a) (v : BitVec 512)
    (x : Nat → Nat) :
    (elemsOf b v).take (p * typeCount a) ++ (List.range (typeCount a)).map x ++
        (elemsOf b v).drop (p * typeCount a + typeCount a) =
      (List.range (typeCount b)).map fun j =>
        if p * typeCount a ≤ j ∧ j < p * typeCount a + typeCount a then x (j - p * typeCount a) else elemAt b v j :=
  splice_map_range _ x (cvtOk_dst_fits h hlt)

section
variable {s : State} {i : Issue} (h : s.ready i) (hnv : (s.ctx i.tile i.ctx).vcsr.getLsbD 8 = false) (d v : VReg)
  {src dst : BitVec 4} {part : BitVec 3} (hok : cvtOk src.toNat dst.toNat part.toNat = true)
include h hnv hok

theorem execVcvt_of_le (hle : typeCount dst.toNat ≤ typeCount src.toNat) :
    let k := s.ctx i.tile i.ctx
    let n := typeCount dst.toNat
    let x (j : Nat) := convElem src.toNat dst.toNat (s.nosat i) (elemAt src.toNat (k.vec v) (part.toNat * n + j))
    execVcvt i d v src dst part s =
      done (s.effect i fun k => { k.setVec d (vecOf dst.toNat ((List.range n).map fun j => (x j).1)) with
        vcsr := k.vcsr ||| BitVec.ofNat 64 (orFlags ((List.range n).map fun j => (x j).2)) }) := by
  intro k n x
  refine State.issue_fpEnd h hnv (w := wVC d v src dst part) (f := (·.setVec d _)) ?_
  simp only [if_pos hok, if_pos hle, elemsOf_part hok hle, List.map_map]
  rfl

theorem execVcvt_of_lt (hlt : ¬ typeCount dst.toNat ≤ typeCount src.toNat) :
    let k := s.ctx i.tile i.ctx
    let n := typeCount src.toNat
    let p := part.toNat * n
    let x (j : Nat) := convElem src.toNat dst.toNat (s.nosat i) (elemAt src.toNat (k.vec v) j)
    execVcvt i d v src dst part s =
      done (s.effect i fun k' => { k'.setVec d (vecOf dst.toNat ((List.range (typeCount dst.toNat)).map fun j =>
          if p ≤ j ∧ j < p + n then (x (j - p)).1 else elemAt dst.toNat (k.vec d) j)) with
        vcsr := k'.vcsr ||| BitVec.ofNat 64 (orFlags ((List.range n).map fun j => (x j).2)) }) := by
  intro k n p x
  refine State.issue_fpEnd h hnv (w := wVC d v src dst part) (f := (·.setVec d _)) ?_
  simp only [if_pos hok, if_neg hlt, ← elemsOf_splice hok hlt (k.vec d) fun j => (x j).1, p, n]
  simp only [elemsOf, List.map_map]
  rfl

end

/-! SCOREB (R206). -/

theorem lanesOf_getD (a : BitVec 1024) {n : Nat} (hn : n < 32) : (lanesOf a).getD n 0 = bits a.toNat (32 * n) 32 := by
  simp [lanesOf, hn]

/-- The terms of the 32 channels, with their bounds in the line `bs`. -/
theorem scoreTerms_eq (v : BitVec 512) (bs : List Byte) :
    ((elemsOf 1 v).map (valOf 1)).zipWith (fun q (p : FVal × FVal) => scoreTerm q p.1 p.2)
        ((((List.range 32).map fun j => leAt bs (2 * j) 2).map (valOf 1)).zip
          (((List.range 32).map fun j => leAt bs (64 + 2 * j) 2).map (valOf 1))) =
      (List.range 32).map fun j =>
        scoreTerm (valOf 1 (elemAt 1 v j)) (valOf 1 (leAt bs (2 * j) 2)) (valOf 1 (leAt bs (64 + 2 * j) 2)) := by
  have hcount : typeCount 1 = 32 := rfl
  simp only [elemsOf, hcount, List.map_map, List.zip_map', List.zipWith_map, List.zipWith_self, Function.comp_apply]

/-- Settles O14: with TRAP_NV clear each instruction retires with the result and the flags of its body. -/
theorem conversionAndDotResults : Obligations.ConversionAndDotResults := by
  intro s i v d q r p ty src dst mx part blk slot h hread k n fl hnv
  have ends {body : State → Fate} {w x : Nat} {f : Context → Context} (hb : body s = s.fpEnd i w x f) :
      s.issue i body = fl f x := State.issue_fpEnd h hnv hb
  refine ⟨fun hty hrs => ?_, fun hok => ?_, fun hty hblk => ?_, fun hty => ?_, fun hline => ?_⟩
  · have hacc : ((dotTypes mx).contains n && (mx || r == 0)) = true := by simpa [hty] using hrs
    exact (ends (if_pos hacc) : execVdot i q v d ty mx r s = _)
  · intro a b m x old
    change execVcvt i d v src dst part s = _
    by_cases hle : typeCount b ≤ typeCount a
    · have hm : m = typeCount b := Nat.min_eq_right hle
      rw [execVcvt_of_le h hnv d v hok hle, if_pos hle]
      simp only [hm, x, if_pos hle]
      rfl
    · have hm : m = typeCount a := Nat.min_eq_left (Nat.le_of_not_le hle)
      rw [execVcvt_of_lt h hnv d v hok hle, if_neg hle]
      simp only [hm, x, if_neg hle]
      rfl
  · have hacc : (mxTypes.contains n && decide (blk.toNat < mxParts n)) = true := by simpa [hty] using hblk
    refine ⟨?_, ?_⟩
    · exact (ends (if_pos hacc) : execVqnt i v r q ty blk s = _)
    · exact (ends (if_pos hacc) : execVdq i v r q ty blk s = _)
  · exact (ends (if_pos (List.contains_iff_mem.2 hty)) : execXrd i r ty s = _)
  · intro bs term x
    change execScoreb i q v p slot s = _
    refine ends (w := wVS q v p slot) ((State.readData_of_lineOk hread hline _).trans ?_)
    simp only [scoreTerms_eq, lanesOf_getD _ slot.isLt]
    rw [List.map_map]
    rfl

end Sys2Proof.Machine

/-! ### The exact accumulator and the moves between register files (05_spindle_isa_vector.md Tables 5.7 and 5.8) -/

namespace Sys2Proof.Machine
open Sys2Proof

theorem elemsOf_getD (ty : Nat) (v : BitVec 512) {n : Nat} (hn : n < typeCount ty) :
    (elemsOf ty v).getD n 0 = elemAt ty v n := by
  simp [elemsOf, hn]

/-- Two words side by side, as a number. -/
theorem append_eq_ofNat {m n : Nat} (hi : BitVec m) (lo : BitVec n) :
    hi ++ lo = BitVec.ofNat (m + n) (lo.toNat + 2 ^ n * hi.toNat) := by
  have hnum : (hi ++ lo).toNat = lo.toNat + 2 ^ n * hi.toNat := by
    rw [BitVec.toNat_append, ← Nat.shiftLeft_add_eq_or_of_lt lo.isLt, Nat.shiftLeft_eq, Nat.mul_comm, Nat.add_comm]
  rw [← hnum, BitVec.ofNat_toNat, BitVec.setWidth_eq]

/-- An accumulator of two vector registers (R179). -/
theorem append_halves (hi lo : BitVec 512) : hi ++ lo = BitVec.ofNat 1024 (lo.toNat + 2 ^ 512 * hi.toNat) :=
  append_eq_ofNat hi lo

theorem extractLsb'_eq_ofNat {n : Nat} (x : BitVec n) (lo w : Nat) :
    x.extractLsb' lo w = BitVec.ofNat w (x.toNat / 2 ^ lo) := by
  rw [BitVec.extractLsb', Nat.shiftRight_eq_div_pow]

/-- Settles O15: each instruction retires with the effect of its body; halves of an accumulator are its low and high
512 bits. -/
theorem accumulatorsAndMoves : Obligations.AccumulatorsAndMoves := by
  intro s i v q r ty idx h k n
  have ends {body : State → Fate} {t : State} (hb : body s = .retire t) : s.issue i body = done (t.advance i) :=
    State.issue_retire h hb
  refine ⟨?_, fun hty => ⟨?_, ?_⟩, ?_, ?_, ?_, fun hty => ⟨?_, fun hidx => ?_⟩, fun hv => ⟨?_, ?_⟩, ?_⟩
  · exact (ends rfl : execXclr i s = _)
  · exact (ends (if_pos (List.contains_iff_mem.2 hty)) : execXaddv i v ty s = _)
  · exact (ends (if_pos (List.contains_iff_mem.2 hty)) : execXadds i r ty s = _)
  · exact (ends rfl : execXadda i q s = _)
  · exact (ends rfl : execVmfsr i r s = _)
  · exact (ends rfl : execVmtsr i r s = _)
  · simp only [List.map_const', List.length_range]
    exact (ends (if_pos hty) : execVbcast i v r ty s = _)
  · intro e
    have hok : (miscType n && decide (idx.toNat < typeCount n)) = true := by rw [hty, decide_eq_true hidx]; rfl
    rw [show e = (elemsOf n (k.vec v)).getD idx.toNat 0 from (elemsOf_getD n _ hidx).symm]
    exact (ends (if_pos hok) : execVext i r v ty idx s = _)
  · simp only [← append_halves]
    exact (ends (if_pos hv) : execAfromv i q v s = _)
  · simp only [BitVec.ofNat_toNat, ← extractLsb'_eq_ofNat]
    exact (ends (if_pos hv) : execAtov i v q s = _)
  · exact (ends rfl : execAzero i q s = _)

end Sys2Proof.Machine

/-! ### Top-k instructions and page conversion (05_spindle_isa_vector.md R186, R208 to R212) -/

namespace Sys2Proof.Machine
open Sys2Proof

/-! The top-k unit (R208, R209). -/

theorem State.topk_retire {s t : State} {i : Issue} {w : Nat} {f : State → Fate} (h : s.ready i)
    (hserves : s.topkServes i = true) (hf : f s = .retire t) : s.topk i w f = done (t.advance i) :=
  State.issue_retire h ((if_pos hserves).trans hf)

theorem zipIdx_take_lanesOf (q : BitVec 1024) {n : Nat} (hn : n ≤ 32) :
    ((lanesOf q).take n).zipIdx = (List.range n).map fun j => (bits q.toNat (32 * j) 32, j) :=
  List.ext_getElem (by simp [lanesOf, hn]) fun j _ _ => by simp [lanesOf]

/-- Offering the first `n` lanes of an accumulator, with numbers that rise from `x` (R209). -/
theorem foldl_offer_lanes (q : BitVec 1024) {n : Nat} (hn : n ≤ 32) (x : Nat) (u : TopK) :
    ((lanesOf q).take n).zipIdx.foldl (fun u p => u.offer (p.1, (x + p.2) % 2 ^ 32)) u =
      (List.range n).foldl (fun u j => u.offer (bits q.toNat (32 * j) 32, (x + j) % 2 ^ 32)) u := by
  rw [zipIdx_take_lanesOf q hn, List.foldl_map]

/-- The entries that a TKOUT from rank rs2 on writes. -/
abbrev State.tkoutEntries (s : State) (i : Issue) (b : SReg) : List (Nat × Nat) :=
  ((s.tile i.tile).topk.top.drop ((s.rs i b).toNat % 2 ^ 13)).take 256

/-- The state in which a TKOUT has written its entries and counted them in rd. -/
abbrev State.tkoutDone (s : State) (i : Issue) (rd a b : SReg) : State :=
  (s.setBytes (localPa i.tile (s.rs i a).toNat) ((s.tkoutEntries i b).flatMap fun e => leBytes 4 e.1 ++ leBytes 4 e.2)).ws
    i rd (BitVec.ofNat 64 (s.tkoutEntries i b).length)

theorem tkoutBody_of_fits {s : State} {i : Issue} {a b : SReg} (rd : SReg) (hserves : s.topkServes i = true)
    (hline : s.tkoutEntries i b = [] ∨ lineOk (s.rs i a) (8 * (s.tkoutEntries i b).length))
    (hfits : s.longFits i (1 + 4 * ceilDiv (s.tkoutEntries i b).length 8) = true) :
    tkoutBody i rd a b s = .retire (s.tkoutDone i rd a b) := by
  simp only [tkoutBody, hserves, Bool.not_true, Bool.false_eq_true, if_false, hfits, if_true, List.isEmpty_iff]
  split
  · rfl
  next hne =>
    rw [lineFault_eq_none (hline.resolve_left hne)]
    rfl

/-! Page conversion (R211, R212). -/

theorem State.ctx_writeLocal (s : State) (i : Issue) (off : Nat) (bs : List Byte) (t : Nat) (c : Ctx) :
    (s.writeLocal i off bs).ctx t c = s.ctx t c := by
  simp only [State.ctx, State.tile, State.writeLocal_til]

/-- The state in which a page conversion has written the layout `r.1` back and set the flags `r.2`. -/
abbrev State.pageDone (s : State) (i : Issue) (a : SReg) (r : List Byte × Nat) : State :=
  (s.setBytes (localPa i.tile (s.rs i a).toNat) r.1).upd i fun k => { k with vcsr := k.vcsr ||| BitVec.ofNat 64 r.2 }

theorem pageBody_of_fits {s : State} {i : Issue} (hread : i.read = .good) {a b : SReg}
    (hn : ¬ ((s.rs i b).toNat = 0 ∨ (s.rs i b).toNat % 128 ≠ 0 ∨ 8192 < (s.rs i b).toNat))
    (hline : lineOk (s.rs i a) (s.rs i b).toNat) (hfits : s.longFits i ((s.rs i b).toNat / 8 + 8) = true)
    (hnv : (s.ctx i.tile i.ctx).vcsr.getLsbD 8 = false) (x : Instr) (w : Nat) (len : Nat → Nat)
    (f : State → Nat → List Byte → List Byte × Nat) :
    pageBody x w len i a b f s = .retire (s.pageDone i a
      (f s (s.rs i b).toNat (s.localBytes i (s.rs i a) (len (s.rs i b).toNat)))) := by
  have hrange : ((decide ((s.rs i b).toNat = 0) || (s.rs i b).toNat % 128 != 0) || decide (8192 < (s.rs i b).toNat)) =
      false := by simpa [not_or, and_assoc] using hn
  have hwritten (bs : List Byte) :
      ((s.writeLocal i (s.rs i a).toNat bs).ctx i.tile i.ctx).vcsr.getLsbD 8 = false := by
    rwa [State.ctx_writeLocal]
  simp only [pageBody, hrange, Bool.false_eq_true, if_false, lineFault_eq_none hline, hfits, if_true,
    State.readLocal_good hread, hnv, Bool.and_false, State.fpEnd_of_trap_clear (hwritten _)]
  rfl

/-- Settles O16: each instruction ends as its body does, at issue and after a wait. -/
theorem topkAndPageConversion : Obligations.TopkAndPageConversion := by
  intro s i q rd a b e5 hread k u x n out tkout page demote promote pageOk outOk
  have tkoutEnds (hok : outOk) : tkoutBody i rd a b s = .retire (s.tkoutDone i rd a b) := by
    obtain ⟨hserves, hline, hfits⟩ := hok
    exact tkoutBody_of_fits rd hserves hline hfits
  have pageEnds (hok : pageOk) (x : Instr) (w : Nat) (len : Nat → Nat) (f : State → Nat → List Byte → List Byte × Nat) :
      pageBody x w len i a b f s = .retire (s.pageDone i a (f s n (s.localBytes i (s.rs i a) (len n)))) := by
    obtain ⟨h0, h128, hmax, hline, hfits, hnv⟩ := hok
    exact pageBody_of_fits hread (by omega) hline hfits hnv x w len f
  refine ⟨fun h hserves => ⟨fun h0 hmax => ?_, fun hn => ?_, ?_⟩, fun h hok => ?_, fun h hok => ?_,
    fun h hok => ⟨?_, ?_⟩, fun h hok => ?_, fun h hok => ?_⟩
  · have hk : ¬ (decide ((s.rs i a).toNat = 0) || decide (4096 < (s.rs i a).toNat)) = true := by
      rw [Bool.or_eq_true, decide_eq_true_eq, decide_eq_true_eq]
      exact fun hk => hk.elim h0 (Nat.not_lt.2 hmax)
    exact (State.topk_retire h hserves (if_neg hk) : execTkclr i a b s = _)
  · have hoffer := congrArg (fun u => Fate.retire (s.setTopk i.tile u)) (foldl_offer_lanes (k.acc q) hn x.toNat u)
    exact (State.topk_retire h hserves ((if_neg (Nat.not_lt.2 hn)).trans hoffer) : execTkins i q a b s = _)
  · exact (State.topk_retire h hserves rfl : execTkcnt i rd s = _)
  · exact (State.issue_retire h (tkoutEnds hok) : execTkout i rd a b s = _)
  · exact (State.retry_retire h rfl (tkoutEnds hok) : execLongInstructionStart i s = _)
  · exact (State.issue_retire h (pageEnds hok _ _ _ _) : execDemote i a b e5 s = _)
  · exact (State.issue_retire h (pageEnds hok _ _ _ _) : execPromote i a b e5 s = _)
  · exact (State.retry_retire h rfl (pageEnds hok _ _ _ _) : execLongInstructionStart i s = _)
  · exact (State.retry_retire h rfl (pageEnds hok _ _ _ _) : execLongInstructionStart i s = _)

end Sys2Proof.Machine

/-! ### The engine's events of a skein (06_skein_transfers.md R224 to R246) -/

namespace Sys2Proof.Machine
open Sys2Proof

section
variable {s s1 : State} {t : Nat} {c : Ctx} {h : Nat} {k k1 : Skein}

/-! The end of a chunk (R228, R229). -/

theorem State.endChunk_of_no_signal (hsig : k.signal = false) :
    s.endChunk t c h k = s.setSkein t c h { k with cvt := 0, state := 1 } :=
  if_pos (by simp [hsig])

theorem State.endChunk_of_disabled (hsig : k.signal = true) (hoff : s.on (SKN_CQ_CFG_ENABLE k.queue) = false) :
    s.endChunk t c h k = s.skeinDone t c h k (if k.due = 0 then stACCESS else k.status) :=
  (if_neg (by simp [hsig])).trans (if_pos (by simp [hoff]))

theorem State.endChunk_of_full (hsig : k.signal = true) (hon : s.on (SKN_CQ_CFG_ENABLE k.queue) = true)
    (hfull : s.cqFull k.queue = true) :
    s.endChunk t c h k = (s.setSkein t c h { k with state := 3 }).raise SKN_EVENT_QUEUE_WAIT :=
  (if_neg (by simp [hsig])).trans ((if_neg (by simp [hon])).trans (if_pos hfull))

theorem State.endChunk_of_room (hsig : k.signal = true) (hon : s.on (SKN_CQ_CFG_ENABLE k.queue) = true)
    (hroom : s.cqFull k.queue = false) :
    s.endChunk t c h k = ((s.cqPut k.queue (s.chunkSig t c h k)).countHole (s.chunkSig t c h k)).setSkein t c h
      { k with nextChunk := k.nextChunk + 1, cvt := 0, state := 1 } :=
  (if_neg (by simp [hsig])).trans ((if_neg (by simp [hon])).trans (if_neg (by simp [hroom])))

/-! An early end (R232). -/

theorem State.endEarly_of_no_signal (hsig : k.signal = false) (st : Nat) :
    s.endEarly t c h k st = s.skeinDone t c h k st :=
  if_pos (by simp [hsig])

theorem State.endEarly_of_room (hsig : k.signal = true) (hon : s.on (SKN_CQ_CFG_ENABLE k.queue) = true)
    (hroom : s.cqFull k.queue = false) (st : Nat) :
    let g := Skein.holeSig t c h k st (s.get PICK_NUMBER_NUMBER)
    s.endEarly t c h k st = ((s.cqPut k.queue g).countHole g).skeinDone t c h k st :=
  (if_neg (by simp [hsig, hon])).trans (if_neg (by simp [hroom]))

/-! What each event does with the skein that it names. -/

/-- Whether the engine of tile `t` may move an element of skein `k`. -/
def State.skeinMoves (s : State) (t : Nat) (k : Skein) : Prop :=
  k.state = 1 ∧ k.due = 0 ∧ k.done < k.total ∧ s.engineOk t = true

theorem State.skeinMoves_iff :
    (decide (k.state = 1) && decide (k.due = 0) && decide (k.done < k.total) && s.engineOk t) = true ↔
      s.skeinMoves t k := by
  simp only [skeinMoves, Bool.and_eq_true, decide_eq_true_eq, and_assoc]

/-- The state once the engine, which works for `inst`, has stopped at a fault on `va` (R236, R293): the skein parks or
stalls, or must end unresolved. -/
def State.skeinFaulted (s : State) (inst t : Nat) (c : Ctx) (h : Nat) (k : Skein) (side : Bool) (va : Nat) : State :=
  let r := s.translate inst (k.asid side) va side (.skein t c h)
  let u := (r.1.bump SKN_FAULTED_VAL).raise SKN_EVENT_FAULT
  u.setSkein t c h (match r.2 with
    | .unresolved => { k with due := stFAULT_UNRESOLVED }
    | _ => { k with
        state := if u.xlt.parked.any (fun p => p.who == .skein t c h && p.stalled) then 5 else 4
        fault := va
        side := side })

section
variable (hk : s.skein? t c h = some k)
include hk

theorem skeinFenceStart_of_fence (h2 : k.state = 2)
    (hfirst : ∀ p ∈ (s.ctx t c).handles, p.2.age < k.age → p.2.state = 6) :
    exec (.skeinFenceStart t c h) s = done (s.setSkein t c h { k with state := 1 }) := by
  have hnone : ((s.ctx t c).handles.any fun p => p.2.age < k.age && p.2.state != 6) = false := by
    simpa [List.any_eq_false] using fun a x hp => hfirst (a, x) hp
  change execSkeinFenceStart t c h s = _
  simp only [execSkeinFenceStart, hk, h2, hnone, Bool.not_false, Bool.and_true, decide_true, if_true]

theorem skeinChunkEnd_of_moved (hm : s.skeinMoves t k) (hmove : s.moveChunk t none k = (s1, k1, .none)) :
    exec (.skeinChunkEnd t c h) s = done ((s1.judge k1).1.endChunk t c h (s1.judge k1).2) := by
  change execSkeinChunkEnd t c h s = _
  simp only [execSkeinChunkEnd, hk, State.skeinMoves_iff.2 hm, if_true, hmove]

theorem skeinQueueRoom_of_room (h3 : k.state = 3) (hdue : k.due = 0) (hon : s.on (SKN_CQ_CFG_ENABLE k.queue) = true)
    (hroom : s.cqFull k.queue = false) :
    exec (.skeinQueueRoom t c h) s = done (s.endChunk t c h k) := by
  change execSkeinQueueRoom t c h s = _
  simp only [execSkeinQueueRoom, hk, h3, hdue, hon, hroom, Bool.not_false, Bool.and_true, decide_true, if_true]

theorem skeinFault_of_fault {side : Bool} {va : Nat} (hm : s.skeinMoves t k)
    (hmove : s.moveChunk t none k = (s1, k1, .fault side va)) :
    exec (.skeinFault t c h) s = done (s1.skeinFaulted (s.instOfTile t) t c h k1 side va) := by
  change execSkeinFault t c h s = _
  simp only [execSkeinFault, hk, State.skeinMoves_iff.2 hm, if_true, hmove, State.skeinFaulted]
  generalize s1.translate (s.instOfTile t) (k1.asid side) va side (.skein t c h) = r
  obtain ⟨u, out⟩ := r
  cases out <;> rfl

theorem skeinEarlyEnd_of_due (h1 : k.state = 1) (hdue : k.due ≠ 0) (bad : Option Nat) :
    exec (.skeinEarlyEnd t c h bad) s = done (s.endEarly t c h k k.due) := by
  change execSkeinEarlyEnd t c h bad s = _
  simp only [execSkeinEarlyEnd, hk]
  exact if_pos (by simp [h1, hdue])

theorem skeinEarlyEnd_of_access {bad : Option Nat} {side : Bool} {va : Nat} (hm : s.skeinMoves t k)
    (hmove : s.moveChunk t bad k = (s1, k1, .access side va)) :
    exec (.skeinEarlyEnd t c h bad) s =
      done ((s1.translate (s.instOfTile t) (k1.asid side) va side (.skein t c h)).1.endEarly t c h k1 stACCESS) := by
  obtain ⟨h1, hdue, hdone, hok⟩ := hm
  change execSkeinEarlyEnd t c h bad s = _
  simp only [execSkeinEarlyEnd, hk, hmove]
  exact (if_neg (by simp [hdue])).trans (if_pos (by simp [h1, hdone, hok]))

theorem skeinComplete_of_end (h1 : k.state = 1) (hdue : k.due = 0) (hend : k.done = k.total)
    (hsent : k.signal = true → k.nextChunk = k.chunks) :
    let u := s.skeinDone t c h k k.status
    exec (.skeinComplete t c h) s =
      done (if k.readyF = true ∧ k.status = stOK then u.setReady k.readyGroup k.readyIdx else u) := by
  have hall : (!k.signal || decide (k.nextChunk = k.chunks)) = true := by
    cases hsig : k.signal with
    | false => rfl
    | true => simp [hsent hsig]
  change execSkeinComplete t c h s = _
  simp only [execSkeinComplete, hk, h1, hdue, hend, hall, decide_true, Bool.and_self, if_true, Bool.and_eq_true,
    decide_eq_true_eq]

end

end

/-! ### A completed skein (R224, R230) -/

theorem State.skein?_congr {s u : State} (htil : u.til = s.til) (t : Nat) (c : Ctx) (h : Nat) :
    u.skein? t c h = s.skein? t c h := by
  simp only [State.skein?, State.ctx, State.tile, htil]

theorem State.skein?_setSkein {s : State} (hs : s.Sound) (t : Nat) (c : Ctx) (h : Nat) (k : Skein) (n : Nat) (d : Ctx)
    (g : Nat) : (s.setSkein t c h k).skein? n d g = if (n, d, g) = (t, c, h) then some k else s.skein? n d g := by
  simp only [State.skein?, State.setSkein, State.ctx_setCtx hs, Prod.mk.injEq]
  by_cases hctx : n = t ∧ d = c
  · obtain ⟨rfl, rfl⟩ := hctx
    simp [tfind_tput]
  · rw [if_neg hctx, if_neg fun h' => hctx ⟨h'.1, h'.2.1⟩]

@[simp] theorem State.get_setSkein (s : State) (t : Nat) (c : Ctx) (h : Nat) (k : Skein) (f : RegFld) :
    (s.setSkein t c h k).get f = s.get f := rfl

theorem State.get_raiseIf {s : State} (h : csrOk s.csr) (b : Bool) {f g : RegFld} (hfg : fieldsApart [f, g] = true) :
    (s.raiseIf b f).get g = s.get g := by
  cases b with
  | false => rfl
  | true => exact State.get_put_apart h 1 hfg

/-- A trace point does nothing while tracing is off and no match trigger is armed (R568, R576). -/
theorem State.trace_eq_self {s : State} (hoff : s.on TRC_CFG_ENABLE = false)
    (htrig : s.on TRC_TRIG_CFG_SRC_MATCH = false ∨ s.get TRC_TRIG_STATUS_STATE ≠ 1)
    (cls kind key source inst status : Nat) (detail : List Byte) (sampled : Bool) :
    s.trace cls kind key source inst status detail sampled = s := by
  have hmatch : s.traceMatch cls kind source status = false := by
    rcases htrig with hsrc | hstate
    · simp [State.traceMatch, hsrc]
    · simp [State.traceMatch, hstate]
  simp [State.trace, State.traceOn, hoff, hmatch]

/-- The state in which a skein has completed with status `st` and has been counted, before its trace record. -/
def State.skeinEnded (s : State) (t : Nat) (c : Ctx) (h : Nat) (k : Skein) (st : Nat) : State :=
  ((s.setSkein t c h { k with state := 6, status := st, due := 0, fault := 0, side := false }).bump
    SKN_COMPLETED_VAL).raiseIf (st == stFAULT_UNRESOLVED) SKN_EVENT_UNRESOLVED

section
variable {s : State} (hs : s.Sound) (t : Nat) (c : Ctx) (h : Nat) (k : Skein) (st : Nat)
include hs

theorem State.get_skeinEnded_of_apart {f : RegFld} (hcount : fieldsApart [SKN_COMPLETED_VAL, f] = true)
    (hevent : fieldsApart [SKN_EVENT_UNRESOLVED, f] = true) : (s.skeinEnded t c h k st).get f = s.get f :=
  have hset := (State.setSkein_sound hs t c h _).csr
  (State.get_raiseIf (State.put_sorted hset ..) _ hevent).trans
    ((State.get_put_apart hset _ hcount).trans (State.get_setSkein ..))

theorem State.get_skeinEnded_completed : (s.skeinEnded t c h k st).get SKN_COMPLETED_VAL =
    min (s.get SKN_COMPLETED_VAL + 1) (2 ^ SKN_COMPLETED_VAL.w - 1) :=
  have hset := (State.setSkein_sound hs t c h _).csr
  (State.get_raiseIf (State.put_sorted hset ..) _ (by rfl)).trans (State.get_bump hset SKN_COMPLETED_VAL 1)

theorem State.skein?_skeinEnded (n : Nat) (d : Ctx) (g : Nat) : (s.skeinEnded t c h k st).skein? n d g =
    if (n, d, g) = (t, c, h) then some { k with state := 6, status := st, due := 0, fault := 0, side := false }
    else s.skein? n d g :=
  (State.skein?_congr ((State.raiseIf_til ..).trans (State.bump_til ..)) n d g).trans
    (State.skein?_setSkein hs t c h _ n d g)

theorem State.skeinDone_eq_skeinEnded (hoff : s.on TRC_CFG_ENABLE = false)
    (htrig : s.on TRC_TRIG_CFG_SRC_MATCH = false ∨ s.get TRC_TRIG_STATUS_STATE ≠ 1) :
    s.skeinDone t c h k st = s.skeinEnded t c h k st := by
  have keeps {f : RegFld} := State.get_skeinEnded_of_apart hs t c h k st (f := f)
  have on {f : RegFld} (hcount) (hevent) := congrArg (· != 0) (keeps (f := f) hcount hevent)
  refine State.trace_eq_self ((on (by rfl) (by rfl)).trans hoff) ?_ ..
  rw [keeps (by rfl) (by rfl)]
  exact htrig.imp_left (on (by rfl) (by rfl)).trans

end

/-! ### CQ_ENABLE and CQ_DISABLE (R225, R229, R481) -/

/-- The body of a CQ_ENABLE entry is well formed (R225, R481). -/
def Entry.cqWell (e : Entry) : Prop :=
  e.rsvdZero [(0, 3), (8, 8)] = true ∧ 4 ≤ e.b 2 1 ∧ e.b 2 1 ≤ 16 ∧ e.b 8 8 % 64 = 0

theorem Entry.cqWell_iff (e : Entry) :
    (!e.rsvdZero [(0, 3), (8, 8)] || decide (e.b 2 1 < 4) || decide (16 < e.b 2 1) || e.b 8 8 % 64 != 0) = false ↔
      e.cqWell := by
  simp only [cqWell, Bool.or_eq_false_iff, Bool.not_eq_false', decide_eq_false_iff_not, not_lt, bne_eq_false_iff_eq,
    and_assoc]

/-- The queue that a CQ_ENABLE entry names is `i`'s own, and so is the memory for its ring (R225). -/
def State.cqMine (s : State) (i : Nat) (e : Entry) : Prop :=
  s.cqOwner (e.b 0 2) = i ∧ inside (s.nearRange i) (e.b 8 8) (2 ^ e.b 2 1 * 64) = true

theorem State.cqMine_iff (s : State) (i : Nat) {e : Entry} (hwell : e.cqWell) :
    (s.cqOwner (e.b 0 2) != i || !s.cqRingOk (e.b 0 2) (e.b 8 8) (e.b 2 1)) = false ↔ s.cqMine i e := by
  obtain ⟨-, hlow, hhigh, halign⟩ := hwell
  simp only [cqMine, State.cqRingOk, hlow, hhigh, halign, decide_true, beq_self_eq_true, Bool.true_and,
    Bool.or_eq_false_iff, bne_eq_false_iff_eq, Bool.not_eq_false']
  exact and_congr_right fun hi => by rw [hi]

section
variable {s : State} {i slot : Nat} {e : Entry} (he : s.entry? i 0 slot = some e)
include he

theorem cqEnable_of_malformed (hop : e.op = 0x09) (hbad : ¬ e.cqWell) :
    exec (.cqEnable i slot) s = done (s.complete i 0 slot stMALFORMED 0) := by
  have hguard := Bool.eq_true_of_not_eq_false (mt e.cqWell_iff.1 hbad)
  change execCqEnable i slot s = _
  simp only [execCqEnable, he, hop, bne_self_eq_false, Bool.false_eq_true, if_false, hguard, if_true]

theorem cqEnable_of_not_mine (hop : e.op = 0x09) (hwell : e.cqWell) (hbad : ¬ s.cqMine i e) :
    exec (.cqEnable i slot) s = done (s.complete i 0 slot stACCESS 0) := by
  have hguard := Bool.eq_true_of_not_eq_false (mt (s.cqMine_iff i hwell).1 hbad)
  change execCqEnable i slot s = _
  simp only [execCqEnable, he, hop, bne_self_eq_false, Bool.false_eq_true, if_false, e.cqWell_iff.2 hwell, hguard,
    if_true]

theorem cqEnable_of_mine (hop : e.op = 0x09) (hwell : e.cqWell) (hmine : s.cqMine i e) :
    exec (.cqEnable i slot) s = done (
      if s.on (SKN_CQ_CFG_ENABLE (e.b 0 2)) = true then s.complete i 0 slot stBUSY 0
      else (((s.put (SKN_CQ_BASE_BASE (e.b 0 2)) (e.b 8 8 / 64)).put (SKN_CQ_CFG_LOG2_DEPTH (e.b 0 2))
        (e.b 2 1)).enableCq (e.b 0 2)).complete i 0 slot stOK 0) := by
  change execCqEnable i slot s = _
  simp only [execCqEnable, he, hop, bne_self_eq_false, Bool.false_eq_true, if_false, e.cqWell_iff.2 hwell,
    (s.cqMine_iff i hwell).2 hmine]
  exact (apply_ite done ..).symm

theorem cqDisable_of_malformed (hop : e.op = 0x0A) (hz : e.rsvdZero [(0, 2)] = false) :
    exec (.cqDisable i slot) s = done (s.complete i 0 slot stMALFORMED 0) := by
  change execCqDisable i slot s = _
  simp only [execCqDisable, he, hop, bne_self_eq_false, Bool.false_eq_true, if_false, hz, Bool.not_false, if_true]

theorem cqDisable_of_well (hop : e.op = 0x0A) (hz : e.rsvdZero [(0, 2)] = true) :
    exec (.cqDisable i slot) s = done (
      if s.cqOwner (e.b 0 2) ≠ i then s.complete i 0 slot stACCESS 0
      else (s.disableCq (e.b 0 2)).complete i 0 slot stOK 0) := by
  change execCqDisable i slot s = _
  simp only [execCqDisable, he, hop, bne_self_eq_false, Bool.false_eq_true, if_false, hz, Bool.not_true, bne_iff_ne]
  exact (apply_ite done ..).symm

end

/-- Settles O32: each event is the end of the chunk, the early end or the completion that it stands for; a completed skein
is `State.skeinEnded`, which an idle trace point leaves as it is; and the chunk queue commands are their checks in
order. -/
theorem skeinEnginesAndChunkQueues : Obligations.SkeinEnginesAndChunkQueues := by
  refine ⟨fun s t c h k hk => ?_, fun s t c h k st hs hoff htrig => ?_, fun s i slot e he => ?_⟩
  · intro moving
    refine ⟨fun h2 hfirst => skeinFenceStart_of_fence hk h2 hfirst, fun s1 k1 hm hmove => ?_,
      fun h3 hdue hsig hon hroom => ?_, fun s1 k1 side va hm hmove => ?_, fun bad h1 hdue hsig hon hroom => ?_,
      fun bad s1 k1 side va hm hmove hsig => ?_, fun h1 hdue hend hsent => skeinComplete_of_end hk h1 hdue hend hsent⟩
    · have ends {u : State} (hu : (s1.judge k1).1.endChunk t c h (s1.judge k1).2 = u) :
          exec (.skeinChunkEnd t c h) s = done u :=
        (skeinChunkEnd_of_moved hk hm hmove).trans (congrArg done hu)
      exact ⟨fun hsig => ends (State.endChunk_of_no_signal hsig),
        fun hsig hon hroom => ends (State.endChunk_of_room hsig hon hroom),
        fun hsig hon hfull => ends (State.endChunk_of_full hsig hon hfull),
        fun hsig hon => ends (State.endChunk_of_disabled hsig hon)⟩
    · exact (skeinQueueRoom_of_room hk h3 hdue hon hroom).trans
        (congrArg done (State.endChunk_of_room hsig hon hroom))
    · exact skeinFault_of_fault hk hm hmove
    · exact (skeinEarlyEnd_of_due hk h1 hdue bad).trans (congrArg done (State.endEarly_of_room hsig hon hroom _))
    · exact (skeinEarlyEnd_of_access hk hm hmove).trans (congrArg done (State.endEarly_of_no_signal hsig _))
  · intro u
    have hu : u = s.skeinEnded t c h k st := State.skeinDone_eq_skeinEnded hs t c h k st hoff htrig
    have hskein := State.skein?_skeinEnded hs t c h k st
    rw [hu]
    refine ⟨(State.raiseIf_mem ..).trans (State.bump_mem ..), (State.raiseIf_trc ..).trans (State.bump_trc ..),
      State.get_skeinEnded_completed hs t c h k st, ?_, fun n d g hne => (hskein n d g).trans (if_neg hne)⟩
    rw [hskein, if_pos rfl]
    rfl
  · intro q lg base
    refine ⟨fun hop => ?_, fun hop => ⟨cqDisable_of_malformed he hop, fun hz hq => ?_, fun hz hq => ?_⟩⟩
    · intro good mine
      exact ⟨cqEnable_of_malformed he hop, cqEnable_of_not_mine he hop,
        fun hwell hmine hon => (cqEnable_of_mine he hop hwell hmine).trans (congrArg done (if_pos hon)),
        fun hwell hmine hon => (cqEnable_of_mine he hop hwell hmine).trans
          (congrArg done (if_neg (Bool.eq_false_iff.1 hon)))⟩
    · exact (cqDisable_of_well he hop hz).trans (congrArg done (if_pos hq))
    · exact (cqDisable_of_well he hop hz).trans (congrArg done (if_neg (not_not_intro hq)))

end Sys2Proof.Machine

/-! ### Line reads and writes (07_memory_tiers.md R255, R262, R263, R529) -/

namespace Sys2Proof.Machine
open Sys2Proof

/-! What a record of the memory error log and a sample leave alone. -/

/-- `t` differs from `s` in its registers alone. -/
def State.regsOnly (s t : State) : Prop := ∃ c, t = { s with csr := c }

theorem State.regsOnly.setReg {s t : State} (h : s.regsOnly t) (a v : Nat) : s.regsOnly (t.setReg a v) := by
  obtain ⟨c, rfl⟩ := h
  exact ⟨_, rfl⟩

theorem State.regsOnly.put {s t : State} (h : s.regsOnly t) (f : RegFld) (v : Nat) : s.regsOnly (t.put f v) :=
  h.setReg ..

theorem State.regsOnly.setUnread {s t : State} (h : s.regsOnly t) (f : RegFld) (v : Nat) (m : SMap Bool) : ∃ c u,
    { t.put f v with memu := { t.memu with unread := m } } = { s with csr := c, memu := { s.memu with unread := u } } := by
  obtain ⟨c, rfl⟩ := h
  exact ⟨_, _, rfl⟩

/-- A record in the memory error log changes registers and the marks of unread records alone (R274). -/
theorem State.memLog_leaves (s : State) (kind addr chan unit src row : Nat) : ∃ c u,
    s.memLog kind addr chan unit src row = { s with csr := c, memu := { s.memu with unread := u } } := by
  unfold State.memLog
  extract_lets n tier a s1 s2 s3 s4 lost s5
  have h4 : s.regsOnly s4 := State.regsOnly.setReg (.setReg (.setReg (.setReg ⟨s.csr, rfl⟩ ..) ..) ..) ..
  have h5 : s.regsOnly s5 := by
    by_cases h : lost = true
    · rw [show s5 = _ from if_pos h]
      exact State.regsOnly.put (.put h4 ..) ..
    · rw [show s5 = _ from if_neg h]
      exact h4
  exact h5.setUnread ..

section
variable (s : State) (kind addr chan unit src row : Nat)

@[simp] theorem State.memLog_mem : (s.memLog kind addr chan unit src row).mem = s.mem := by
  obtain ⟨c, u, h⟩ := s.memLog_leaves kind addr chan unit src row
  rw [h]

@[simp] theorem State.memLog_poison : (s.memLog kind addr chan unit src row).poison = s.poison := by
  obtain ⟨c, u, h⟩ := s.memLog_leaves kind addr chan unit src row
  rw [h]

@[simp] theorem State.memLog_til : (s.memLog kind addr chan unit src row).til = s.til := by
  obtain ⟨c, u, h⟩ := s.memLog_leaves kind addr chan unit src row
  rw [h]

@[simp] theorem State.memLog_bus : (s.memLog kind addr chan unit src row).bus = s.bus := by
  obtain ⟨c, u, h⟩ := s.memLog_leaves kind addr chan unit src row
  rw [h]

theorem State.memLog_memu : (s.memLog kind addr chan unit src row).memu =
    { s.memu with unread := (s.memLog kind addr chan unit src row).memu.unread } := by
  obtain ⟨c, u, h⟩ := s.memLog_leaves kind addr chan unit src row
  rw [h]

end

theorem State.mget_setPoison {s : State} (h : sortedKeys s.poison = true) (pa l : Nat) (p : Bool) :
    mget false (s.setPoison pa p).poison l = if l = pa / 64 then p else mget false s.poison l :=
  mget_mset false h ..

/-- Registers below the error log's read as before a record, but for its head and the event of a lost record. -/
theorem State.get_memLog {s : State} (hs : s.Sound) {f : RegFld} (hlow : f.reg < MEM_ERR_LOG 0 0)
    (hhead : f.reg ≠ MEM_ERR_LOG_HEAD) (hlost : fieldsApart [MEM_EVENT_LOG_OVERWRITE, f] = true)
    (kind addr chan unit src row : Nat) : (s.memLog kind addr chan unit src row).get f = s.get f := by
  have hset {u : State} (hu : u.Sound ∧ u.get f = s.get f) (n w v : Nat) :
      (u.setReg (MEM_ERR_LOG n w) v).Sound ∧ (u.setReg (MEM_ERR_LOG n w) v).get f = s.get f := by
    have hne : f.reg ≠ MEM_ERR_LOG n w := by
      unfold MEM_ERR_LOG at hlow ⊢
      omega
    exact ⟨State.setReg_sound hu.1 _ v, (State.get_setReg_ne hu.1.csr v (bne_iff_ne.2 hne)).trans hu.2⟩
  have hput {u : State} (hu : u.Sound ∧ u.get f = s.get f) {g : RegFld} (hg : apart g f) (v : Nat) :
      (u.put g v).Sound ∧ (u.put g v).get f = s.get f :=
    ⟨State.put_sound hu.1 g v, (State.get_put_ne hu.1.csr hg v).trans hu.2⟩
  unfold State.memLog
  extract_lets n tier a s1 s2 s3 s4 lost s5
  have h4 : s4.Sound ∧ s4.get f = s.get f := hset (hset (hset (hset ⟨hs, rfl⟩ n 0 _) n 1 _) n 2 _) n 3 _
  have h5 : s5.Sound ∧ s5.get f = s.get f := by
    by_cases h : lost = true
    · rw [show s5 = _ from if_pos h]
      exact hput (hput h4 (.inl hhead.symm) _) (apart_of_fieldsApart hlost) _
    · rw [show s5 = _ from if_neg h]
      exact h4
  exact (hput h5 (.inl hhead.symm) _).2

@[simp] theorem State.poisoned_memSample (s : State) (pa p : Nat) : (s.memSample pa).poisoned p = s.poisoned p := rfl

@[simp] theorem State.chanOf_memSample (s : State) (pa p : Nat) : (s.memSample pa).chanOf p = s.chanOf p := rfl

theorem State.poisoned_of_dark {s : State} {pa : Nat} (hdark : isFar pa = true ∧ s.farDark = true) :
    s.poisoned pa = true := by
  simp [State.poisoned, hdark]

/-! What a line operation makes of the line it finds (Table 7.3). -/

theorem State.lineFound_of_dark {s : State} {pa : Nat} (hdark : isFar pa = true ∧ s.farDark = true) (f : Found)
    (unit row src : Nat) : s.lineFound pa f unit row src = (s, false) := by
  simp [State.lineFound, State.poisoned_of_dark hdark, hdark]

theorem State.lineFound_of_poisoned {s : State} {pa : Nat} (hp : s.poisoned pa = true)
    (hdark : ¬ (isFar pa = true ∧ s.farDark = true)) (f : Found) (unit row : Nat) :
    s.lineFound pa f unit row 1 = (s.memLog 3 pa (s.chanOf pa) 0xFF 1 row, false) := by
  have hlit : (isFar pa && s.farDark) = false := by simpa using hdark
  simp [State.lineFound, hp, hlit]

theorem State.lineFound_of_good {s : State} {pa : Nat} (hp : s.poisoned pa = false) {f : Found}
    (hf : f = .good ∨ f = .erased) (unit row src : Nat) : s.lineFound pa f unit row src = (s, true) := by
  rcases hf with rfl | rfl <;> simp [State.lineFound, hp]

/-- An uncorrectable near line is counted, logged and poisoned. -/
theorem State.lineFound_of_uncorrectable {s : State} {pa : Nat} (hp : s.poisoned pa = false) (hnear : isFar pa = false)
    (unit row src : Nat) : s.lineFound pa .uncorrectable unit row src =
      ((((s.bump MEM_UE_NEAR_VAL).raise MEM_EVENT_UE).memLog 2 pa (s.chanOf pa) unit src row).setPoison pa true, false) := by
  simp [State.lineFound, hp, hnear]

/-- A line that can be corrected keeps its bytes, and no line becomes poisoned. -/
theorem State.lineFound_of_correctable {s : State} {pa : Nat} (hp : s.poisoned pa = false) {f : Found}
    (hf : f ≠ .uncorrectable) (unit row src : Nat) : ∃ t, s.lineFound pa f unit row src = (t, true) ∧
      t.mem = s.mem ∧ t.poison = s.poison ∧ t.til = s.til := by
  cases f with
  | good => exact ⟨s, State.lineFound_of_good hp (.inl rfl) .., rfl, rfl, rfl⟩
  | erased => exact ⟨s, State.lineFound_of_good hp (.inr rfl) .., rfl, rfl, rfl⟩
  | correctable =>
    refine ⟨_, by simp only [State.lineFound, hp, Bool.false_eq_true, if_false]; rfl, ?_⟩
    exact ⟨State.memLog_mem .., State.memLog_poison .., State.memLog_til ..⟩
  | uncorrectable => exact absurd rfl hf

section
variable {s : State} {pa : Nat} (hin : inTier pa = true) (f : Found) (unit row : Nat)
include hin

theorem memoryRead_eq : exec (.memoryRead pa f unit row) s =
    let r := (s.memSample pa).lineFound pa f unit row 1
    done { r.1 with bus := { r.1.bus with line := if r.2 then some (r.1.bytes (pa / 64 * 64) 64) else none } } :=
  if_pos hin

variable {data : List Byte} (hfit : pa % 64 + data.length ≤ 64)
include hfit

theorem memoryWrite_of_dark (hdark : isFar pa = true ∧ s.farDark = true) :
    exec (.memoryWrite pa data f unit row) s = done (s.memSample pa) := by
  change execMemoryWrite pa data f unit row s = _
  simp [execMemoryWrite, hin, hfit, hdark]

theorem memoryWrite_of_line (hdark : ¬ (isFar pa = true ∧ s.farDark = true)) (hline : data.length = 64) :
    exec (.memoryWrite pa data f unit row) s = done (((s.memSample pa).setBytes pa data).setPoison pa false) := by
  have haligned : pa % 64 = 0 := by omega
  change execMemoryWrite pa data f unit row s = _
  simp [execMemoryWrite, hin, haligned, hdark, hline]

theorem memoryWrite_of_poisoned (hdark : ¬ (isFar pa = true ∧ s.farDark = true)) (hpart : data.length ≠ 64)
    (hp : s.poisoned pa = true) : exec (.memoryWrite pa data f unit row) s =
      done (((s.memSample pa).memLog 4 pa (s.chanOf pa) 0xFF 1 row).raise MEM_EVENT_POISON_WRITE_DROP) := by
  change execMemoryWrite pa data f unit row s = _
  simp [execMemoryWrite, hin, hfit, hdark, hpart, hp]

theorem memoryWrite_of_clean (hdark : ¬ (isFar pa = true ∧ s.farDark = true)) (hpart : data.length ≠ 64)
    (hp : s.poisoned pa = false) {t : State} (hr : (s.memSample pa).lineFound pa f unit row 1 = (t, true)) :
    exec (.memoryWrite pa data f unit row) s = done (t.setBytes pa data) := by
  change execMemoryWrite pa data f unit row s = _
  simp [execMemoryWrite, hin, hfit, hdark, hpart, hp, hr]

end

/-- Settles O33: each clause is the outcome of the line operation in its case of Table 7.3; a record in the error log
touches neither the bytes nor the poison. -/
theorem lineReadsAndWrites : Obligations.LineReadsAndWrites := by
  intro s pa unit row f data hs hin dark
  have hu : (s.memSample pa).Sound := State.memSample_sound hs pa
  have hmem : sortedKeys s.mem = true := ((canonical_iff _ _).1 hs.mem).1
  refine ⟨fun hp hf => ?_, fun hp hdark => ?_, fun hp hf hnear => ?_, fun hdark => ⟨?_, fun hfit => ?_⟩,
    fun hfit hdark hcase => ?_, fun hfit hpart hp hdark => ?_⟩
  · -- MEMORY_READ of a good line
    rw [memoryRead_eq hin, State.lineFound_of_good (s := s.memSample pa) hp hf]
    rfl
  · -- MEMORY_READ of a poisoned line
    rw [memoryRead_eq hin, State.lineFound_of_poisoned (s := s.memSample pa) hp hdark]
    simp only [State.memLog_bus]
    rfl
  · -- MEMORY_READ of a near line that cannot be corrected
    subst hf
    rw [memoryRead_eq hin, State.lineFound_of_uncorrectable (s := s.memSample pa) hp hnear]
    have hcount := State.bump_sound hu MEM_UE_NEAR_VAL 1
    have hraise := State.raise_sound hcount MEM_EVENT_UE
    have hlog := State.memLog_sound hraise 2 pa (s.chanOf pa) unit 1 row
    refine ⟨_, rfl, State.memLog_mem .., rfl, ?_, ?_, ?_⟩
    · have hset := State.mget_setPoison ((canonical_iff _ _).1 hlog.poison).1 pa (pa / 64) true
      exact Bool.or_eq_true_iff.2 (.inl (hset.trans (if_pos rfl)))
    · exact (State.get_memLog hraise (by decide) (by decide) rfl ..).trans (State.get_put hcount.csr ..)
    · exact (State.get_memLog hraise (by decide) (by decide) rfl ..).trans
        ((State.get_put_apart hcount.csr 1 rfl).trans (State.get_bump hu.csr ..))
  · -- MEMORY_READ of the dark far tier
    rw [memoryRead_eq hin, State.lineFound_of_dark (s := s.memSample pa) hdark]
    rfl
  · -- MEMORY_WRITE of the dark far tier
    exact memoryWrite_of_dark hin f unit row hfit hdark
  · -- MEMORY_WRITE of a line, or of a part of a line that can be corrected
    by_cases hline : data.length = 64
    · have hset := State.setBytes_sound hu pa data
      have hpoison := State.mget_setPoison ((canonical_iff _ _).1 hset.poison).1 pa
      refine ⟨_, memoryWrite_of_line hin f unit row hfit hdark hline,
        fun p => State.byte_setBytes (s := s.memSample pa) hmem pa p data,
        fun _ => (hpoison ..).trans (if_pos rfl), fun l hl => (hpoison ..).trans ((if_neg hl).trans ?_),
        State.setBytes_til ..⟩
      rw [State.setBytes_poison]
      rfl
    · obtain ⟨hp, hf⟩ := hcase.resolve_left hline
      obtain ⟨t, hr, htmem, htpoison, httil⟩ :=
        State.lineFound_of_correctable (s := s.memSample pa) hp hf unit row 1
      refine ⟨_, memoryWrite_of_clean hin f unit row hfit hdark hline hp hr, fun p => ?_, fun h => absurd h hline,
        fun l _ => ?_, (State.setBytes_til ..).trans httil⟩
      · have hbyte := State.byte_setBytes (s := t) (htmem ▸ hmem) pa p data
        rwa [show t.byte p = s.byte p from congrArg (mget 0 · p) htmem] at hbyte
      · rw [State.setBytes_poison, htpoison]
        rfl
  · -- MEMORY_WRITE of a part of a poisoned line
    exact ⟨_, memoryWrite_of_poisoned hin f unit row hfit hdark hpart hp, State.memLog_mem .., State.memLog_poison ..,
      State.get_put (State.memLog_sound hu ..).csr ..⟩

end Sys2Proof.Machine

/-! ### Re-salting, repair and scrubbing (07_memory_tiers.md R256 to R258, R267 to R271, R273) -/

namespace Sys2Proof.Machine
open Sys2Proof

/-! What a trace point leaves alone (R568, R576). -/

/-- `t` differs from `s` in its registers and its trace unit alone. -/
def State.traceOnly (s t : State) : Prop := ∃ c r, t = { s with csr := c, trc := r }

theorem State.traceOnly.refl (s : State) : s.traceOnly s := ⟨s.csr, s.trc, rfl⟩

theorem State.traceOnly.setReg {s t : State} (h : s.traceOnly t) (a v : Nat) : s.traceOnly (t.setReg a v) := by
  obtain ⟨c, r, rfl⟩ := h
  exact ⟨_, _, rfl⟩

theorem State.traceOnly.put {s t : State} (h : s.traceOnly t) (f : RegFld) (v : Nat) : s.traceOnly (t.put f v) :=
  h.setReg ..

theorem State.traceOnly.setTrc {s t : State} (h : s.traceOnly t) (r : TrcS) : s.traceOnly { t with trc := r } := by
  obtain ⟨c, r', rfl⟩ := h
  exact ⟨c, r, rfl⟩

theorem State.traceOnly.ite {s t u : State} (ht : s.traceOnly t) (hu : s.traceOnly u) (c : Prop) [Decidable c] :
    s.traceOnly (if c then t else u) := by
  split
  · exact ht
  · exact hu

theorem State.traceOnly.traceInto {s t : State} (h : s.traceOnly t) (cls kind key source inst status : Nat)
    (detail : List Byte) : s.traceOnly (t.traceInto cls kind key source inst status detail) := by
  unfold State.traceInto
  extract_lets x
  split
  · exact State.traceOnly.put (h.setTrc _) ..
  · exact h.setTrc _

theorem State.traceOnly.fire {s t : State} (h : s.traceOnly t) (mask : Nat) : s.traceOnly (t.fire mask) := by
  unfold State.fire
  extract_lets +onlyGivenNames s1 s2 s3 s4
  have h1 : s.traceOnly s1 := .ite (h.traceInto ..) h _
  have h2 : s.traceOnly s2 := .put (.setReg h1 ..) ..
  have h3 : s.traceOnly s3 := .ite (.put h2 ..) h2 _
  have h4 : s.traceOnly s4 := .ite (.put h3 ..) h3 _
  exact h4.setTrc _

theorem State.traceOnly.traceMem {s t : State} (h : s.traceOnly t) (kind c op region : Nat) :
    s.traceOnly (t.traceMem kind c op region) := by
  unfold State.traceMem State.trace
  extract_lets s1
  have h1 : s.traceOnly s1 := .ite (h.traceInto ..) h _
  exact .ite (h1.fire _) h1 _

@[simp] theorem State.traceMem_mem (s : State) (kind c op region : Nat) :
    (s.traceMem kind c op region).mem = s.mem := by
  obtain ⟨c', r, h⟩ := (State.traceOnly.refl s).traceMem kind c op region
  rw [h]

@[simp] theorem State.traceMem_poison (s : State) (kind c op region : Nat) :
    (s.traceMem kind c op region).poison = s.poison := by
  obtain ⟨c', r, h⟩ := (State.traceOnly.refl s).traceMem kind c op region
  rw [h]

@[simp] theorem State.traceMem_memu (s : State) (kind c op region : Nat) :
    (s.traceMem kind c op region).memu = s.memu := by
  obtain ⟨c', r, h⟩ := (State.traceOnly.refl s).traceMem kind c op region
  rw [h]

/-- After writes of registers below the trace unit's, a trace point does nothing while tracing is off and no match trigger
is armed. -/
theorem State.sets.traceMem_eq_self {u t : State} {l : List (RegFld × Nat)} (h : u.sets (done t) l)
    (hl : ∀ p ∈ l, p.1.reg < TRC_EVENT) (hoff : u.on TRC_CFG_ENABLE = false)
    (htrig : u.on TRC_TRIG_CFG_SRC_MATCH = false ∨ u.get TRC_TRIG_STATUS_STATE ≠ 1) (kind c op region : Nat) :
    t.traceMem kind c op region = t := by
  obtain ⟨t', e, -, -, hget⟩ := h
  cases e
  have hreads {f : RegFld} (hf : TRC_EVENT ≤ f.reg) : t.get f = u.get f :=
    hget f fun p hp => .inl (Nat.ne_of_lt (Nat.lt_of_lt_of_le (hl p hp) hf))
  refine State.trace_eq_self ?_ ?_ ..
  · rw [State.on, hreads (by decide), ← State.on, hoff]
  · rw [State.on, hreads (by decide), hreads (by decide), ← State.on]
    exact htrig

/-! The result of a memory command (R273): it is written over a register that resets to 0, so that a status other than 0
reads back in every state. -/

/-- A register that does not return to its reset value reads as it was written, in every state. -/
theorem State.reg_put_of_ne_reset {s : State} {f : RegFld} {v : Nat}
    (h : setBits (s.reg f.reg) f.lo f.w v ≠ regReset f.reg) (a : Nat) :
    (s.put f v).reg a = if a = f.reg then setBits (s.reg f.reg) f.lo f.w v else s.reg a := by
  rw [State.put, State.setReg, if_neg h, State.reg, tfind_tput]
  split <;> rfl

theorem ne_zero_of_bits {n lo w : Nat} (h : bits n lo w ≠ 0) : n ≠ 0 := by
  rintro rfl
  exact h (by simp [bits])

theorem State.memCmd_sets (s : State) {st : Nat} (hst : st % 2 ^ 8 ≠ 0) :
    s.sets (done (s.memCmd st)) [(MEM_CMD_STATUS_RESULT, st), (MEM_CMD_STATUS_PENDING, 0)] := by
  have hreset : regReset MEM_CMD_STATUS = 0 := by rfl
  have hresult : bits (setBits (s.reg MEM_CMD_STATUS) 8 8 st) 8 8 = st % 2 ^ 8 := bits_setBits ..
  have hkept : bits (setBits (setBits (s.reg MEM_CMD_STATUS) 8 8 st) 0 1 0) 8 8 = st % 2 ^ 8 :=
    (bits_setBits_ne _ 0 1 0 8 8 (.inr (by decide))).trans hresult
  have h1 (a : Nat) : (s.put MEM_CMD_STATUS_RESULT st).reg a =
      if a = MEM_CMD_STATUS then setBits (s.reg MEM_CMD_STATUS) 8 8 st else s.reg a :=
    State.reg_put_of_ne_reset (f := MEM_CMD_STATUS_RESULT) (hreset ▸ ne_zero_of_bits (hresult ▸ hst)) a
  have h2 (a : Nat) : (s.memCmd st).reg a =
      if a = MEM_CMD_STATUS then setBits (setBits (s.reg MEM_CMD_STATUS) 8 8 st) 0 1 0 else s.reg a := by
    have hreg : (s.put MEM_CMD_STATUS_RESULT st).reg MEM_CMD_STATUS = setBits (s.reg MEM_CMD_STATUS) 8 8 st :=
      (h1 _).trans (if_pos rfl)
    have hput := State.reg_put_of_ne_reset (s := s.put MEM_CMD_STATUS_RESULT st) (f := MEM_CMD_STATUS_PENDING) (v := 0)
      (hreg.symm ▸ hreset ▸ ne_zero_of_bits (hkept ▸ hst)) a
    rw [State.memCmd, hput]
    change (if a = MEM_CMD_STATUS then setBits ((s.put MEM_CMD_STATUS_RESULT st).reg MEM_CMD_STATUS) 0 1 0 else _) = _
    rw [hreg, h1]
    split <;> rfl
  refine ⟨_, rfl, rfl, fun p hp => ?_, fun f hf => ?_⟩
  · rcases List.mem_cons.1 hp with rfl | hp
    · exact (congrArg (bits · 8 8) ((h2 _).trans (if_pos rfl))).trans hkept
    · rw [List.mem_singleton.1 hp]
      exact (congrArg (bits · 0 1) ((h2 _).trans (if_pos rfl))).trans (bits_setBits ..)
  · rw [State.get, State.get, h2]
    split
    · next hreg =>
      have hres := (hf _ (List.mem_cons_self ..)).resolve_left fun h => h hreg.symm
      have hpend := (hf _ (List.mem_cons_of_mem _ (List.mem_cons_self ..))).resolve_left fun h => h hreg.symm
      rw [bits_setBits_ne _ 0 1 0 _ _ hpend.symm, bits_setBits_ne _ 8 8 st _ _ hres.symm, hreg]
    · rfl

/-! Re-salting (R254, R258). -/

@[simp] theorem State.saltOf_setSalt (s : State) (rg : Nat) (e : Salt) : (s.setSalt rg e).saltOf rg = e := by
  simp [State.saltOf, State.setSalt, tfind_tput]

/-- While a region moves, a line at or past the cursor is steered by the old salt, and one below it by the new one. -/
theorem State.chanOf_setSalt (s : State) (pa : Nat) (e : Salt) (hm : e.migrating = true) :
    (s.setSalt (regionOf pa) e).chanOf pa =
      channelOf (regionOf pa) (lineOf pa) (if e.cursor ≤ lineOf pa then e.old else e.salt) := by
  simp [State.chanOf, hm]

section
variable {s : State} {rg new : Nat}

theorem memResaltRegion_of_free (hrg : rg < 1048576) (hnew : new < 16) (hm : (s.saltOf rg).migrating = false)
    (hne : (s.saltOf rg).salt ≠ new) (hroom : s.migrating (regionFar rg) < s.inFlight) :
    exec (.memResaltRegion rg new) s = done ((s.resalt rg new).memCmd stOK) := by
  change execMemResaltRegion rg new s = _
  rw [execMemResaltRegion, if_neg (by simp; omega), if_neg (by simp [hm, hne]; omega)]

theorem memResaltRegion_of_busy (hrg : rg < 1048576) (hnew : new < 16)
    (hbusy : (s.saltOf rg).migrating = true ∨ (s.saltOf rg).salt = new ∨ s.inFlight ≤ s.migrating (regionFar rg)) :
    exec (.memResaltRegion rg new) s = done (s.memCmd stBUSY) := by
  change execMemResaltRegion rg new s = _
  rw [execMemResaltRegion, if_neg (by simp; omega), if_pos (by simpa [or_assoc] using hbusy)]

end

/-! Row repair (R267). -/

/-- Row `row` of channel `chan` is in use from its spare. -/
def State.rowRepaired (s : State) (chan row : Nat) : State :=
  { s with memu := { s.memu with
      repairs := s.memu.repairs.filter fun r => !(r.chan == chan && r.row == row)
      repaired := (chan, row) :: s.memu.repaired
      rowCe := mset 0 s.memu.rowCe (chan * 2 ^ 32 + row) 0 } }

theorem State.mget_rowCe_rowRepaired {s : State} {chan row : Nat} (hce : sortedKeys s.memu.rowCe = true) :
    mget 0 (s.rowRepaired chan row).memu.rowCe (chan * 2 ^ 32 + row) = 0 :=
  (mget_mset 0 hce (chan * 2 ^ 32 + row) (chan * 2 ^ 32 + row) 0).trans (if_pos rfl)

theorem State.not_mem_repairs_rowRepaired {s : State} {chan row : Nat} :
    ∀ r ∈ (s.rowRepaired chan row).memu.repairs, ¬ (r.chan = chan ∧ r.row = row) := by
  intro r hr hsame
  simpa [hsame] using (List.mem_filter.1 hr).2

theorem rowRepairLineStep_last {s : State} {chan row : Nat}
    (hrep : (s.memu.repairs.any fun r => r.chan == chan && r.row == row) = true) (pa : Nat) :
    exec (.rowRepairLineStep chan row pa true) s = done ((((s.rowRepaired chan row).memLog 5 pa
      (if 256 ≤ chan then chan - 256 else chan) 0xFF 3 row).raise MEM_EVENT_ROW_REPAIR).traceMem 2 chan 4 0) :=
  if_pos hrep

/-! Rebuilds and channel moves (R268 to R270). -/

/-- What REBUILD_COMPLETE writes where no second die has failed. -/
def rebuildEnds (k : Nat) : List (RegFld × Nat) :=
  [(MEM_STACK_REBUILDING k, 0), (MEM_STACK_REBUILD_CURSOR k, 0), (MEM_EVENT_REBUILD_DONE, 1)]

/-- What CHANNEL_MOVE_COMPLETE writes. -/
def channelMoveEnds (c : Nat) : List (RegFld × Nat) :=
  [(MEM_FAR_MOVING c, 0), (MEM_FAR_MOVE_CURSOR c, 0), (MEM_FAR_PHYS c, 13 * (c / 12) + 12), (MEM_FAR_FAILED_DEV c, 0x1F),
    (MEM_EVENT_CHAN_MOVE_DONE, 1)]

theorem MEM_STACK_ne_MEM_EVENT (k : Nat) : MEM_STACK k ≠ MEM_EVENT := by
  unfold MEM_STACK MEM_EVENT
  omega

theorem MEM_FAR_ne_MEM_EVENT (c : Nat) : MEM_FAR c ≠ MEM_EVENT := by
  unfold MEM_FAR MEM_EVENT
  omega

theorem MEM_STACK_lt_TRC_EVENT {k : Nat} (h : k < 16) : MEM_STACK k < TRC_EVENT := by
  unfold MEM_STACK TRC_EVENT
  omega

theorem MEM_FAR_lt_TRC_EVENT {c : Nat} (h : c < 48) : MEM_FAR c < TRC_EVENT := by
  unfold MEM_FAR TRC_EVENT
  omega

section
variable {s : State} (hs : s.Sound) (hoff : s.on TRC_CFG_ENABLE = false)
  (htrig : s.on TRC_TRIG_CFG_SRC_MATCH = false ∨ s.get TRC_TRIG_STATUS_STATE ≠ 1)
include hs hoff htrig

theorem rebuildComplete_sets {k : Nat} (hk : k < 16) (hcur : tfind s.memu.rebuild k = some unitLines)
    (hone : (s.memu.failedUnits.filter fun u => u / 32 == k).length < 2) :
    State.sets { s with memu := { s.memu with rebuild := tdel s.memu.rebuild k } } (exec (.rebuildComplete k) s)
      (rebuildEnds k) := by
  have hsets := State.sets_puts (u := { s with memu := { s.memu with rebuild := tdel s.memu.rebuild k } }) hs.csr
    (rebuildEnds k) (by simp [rebuildEnds, apart, MEM_STACK_REBUILDING, MEM_STACK_REBUILD_CURSOR,
      MEM_EVENT_REBUILD_DONE, MEM_STACK_ne_MEM_EVENT])
  have hbelow : ∀ p ∈ rebuildEnds k, p.1.reg < TRC_EVENT := by
    have hstack := MEM_STACK_lt_TRC_EVENT hk
    simpa [rebuildEnds, MEM_STACK_REBUILDING, MEM_STACK_REBUILD_CURSOR, MEM_EVENT_REBUILD_DONE] using ⟨hstack, by decide⟩
  change State.sets _ (execRebuildComplete k s) _
  simp only [execRebuildComplete, hk, hcur, decide_true, Bool.and_self, if_true, decide_eq_false (Nat.not_le.2 hone)]
  exact (hsets.traceMem_eq_self hbelow hoff htrig ..).symm ▸ hsets

theorem channelMoveComplete_sets {c : Nat} (hc : c < 48) (hcur : tfind s.memu.rebuild (16 + c) = some unitLines) :
    State.sets { s with memu := { s.memu with
        rebuild := tdel s.memu.rebuild (16 + c), failedUnits := s.memu.failedUnits.filter fun u => u / 32 != 16 + c } }
      (exec (.channelMoveComplete c) s) (channelMoveEnds c) := by
  have hsets := State.sets_puts (u := { s with memu := { s.memu with
        rebuild := tdel s.memu.rebuild (16 + c), failedUnits := s.memu.failedUnits.filter fun u => u / 32 != 16 + c } })
    hs.csr (channelMoveEnds c) (by simp [channelMoveEnds, apart, MEM_FAR_MOVING, MEM_FAR_MOVE_CURSOR, MEM_FAR_PHYS,
      MEM_FAR_FAILED_DEV, MEM_EVENT_CHAN_MOVE_DONE, MEM_FAR_ne_MEM_EVENT])
  have hbelow : ∀ p ∈ channelMoveEnds c, p.1.reg < TRC_EVENT := by
    have hfar := MEM_FAR_lt_TRC_EVENT hc
    simpa [channelMoveEnds, MEM_FAR_MOVING, MEM_FAR_MOVE_CURSOR, MEM_FAR_PHYS, MEM_FAR_FAILED_DEV,
      MEM_EVENT_CHAN_MOVE_DONE] using ⟨hfar, by decide⟩
  rw [show exec (.channelMoveComplete c) s = _ from if_pos hcur]
  exact (hsets.traceMem_eq_self hbelow hoff htrig ..).symm ▸ hsets

end

/-- Settles O34: each command takes the branch that its conditions name; the last line of a repaired row keeps the bytes,
since neither the error log nor the trace touches them. -/
theorem resaltingRepairAndScrub : Obligations.ResaltingRepairAndScrub := by
  refine ⟨fun s rg new occ => ?_, fun s chan row pa k c unit f far hs hce => ?_⟩
  · intro e
    refine ⟨rfl, fun hm hlt => ⟨_, if_pos (by simp [e, hm, hlt]), rfl, ?_⟩,
      fun hm hend => if_pos (by simp [e, hm, hend]), fun hh => if_pos hh, memResaltRegion_of_free,
      fun hrg hnew hbusy => ?_, fun hbad => ?_⟩
    · -- MIGRATION_LINE_MOVE: where the lines go
      rintro pa rfl
      refine (State.chanOf_setSalt s pa { e with cursor := e.cursor + 1 } hm).trans ?_
      by_cases hline : lineOf pa ≤ e.cursor
      · rw [if_pos hline, if_neg (by simpa using hline)]
      · rw [if_neg hline, if_pos (by simpa using hline)]
    · -- MEM_RESALT_REGION of a region that moves, has the salt, or finds no room
      rw [memResaltRegion_of_busy hrg hnew hbusy]
      exact s.memCmd_sets (by decide)
    · -- MEM_RESALT_REGION with operands out of range
      rw [show exec (.memResaltRegion rg new) s = _ from if_pos (by simpa using hbad)]
      exact s.memCmd_sets (by decide)
  · intro repairing auto rows
    refine ⟨fun (hauto : s.on MEM_REPAIR_CFG_AUTO = true) hdue hrep hnew => ?_, fun hrep => ⟨if_pos hrep, ?_⟩,
      fun hk hu (hauto : s.on MEM_REPAIR_CFG_AUTO = true) hrows => ?_, fun hk hu => ?_,
      fun hc hu (hauto : s.on MEM_REPAIR_CFG_AUTO = true) hrows => ?_, fun hc hu => ?_, fun hbad => ?_, fun hbad => ?_,
      fun n hk hcur hn => ?_, fun n hcur hn => ?_,
      fun hk hcur hone htrig hoff => rebuildComplete_sets hs hoff htrig hk hcur hone,
      fun hc hcur htrig hoff => channelMoveComplete_sets hs hoff htrig hc hcur, fun hon hin => ?_, fun hon => ?_⟩
    · -- ROW_REPAIR_START
      exact if_pos (by simpa [hauto, hnew, repairing] using ⟨by simpa using hdue, by simpa [repairing] using hrep⟩)
    · -- ROW_REPAIR_LINE_STEP with the last line
      have hmemu := (s.rowRepaired chan row).memLog_memu 5 pa (if 256 ≤ chan then chan - 256 else chan) 0xFF 3 row
      refine ⟨_, rowRepairLineStep_last hrep pa, (State.traceMem_mem ..).trans (State.memLog_mem ..),
        (State.traceMem_poison ..).trans (State.memLog_poison ..), ?_, ?_, ?_⟩
      all_goals rw [State.traceMem_memu, State.raise_memu, hmemu]
      · rfl
      · exact State.mget_rowCe_rowRepaired hce
      · exact State.not_mem_repairs_rowRepaired
    · -- DIE_MARK_FAILED
      exact if_pos (by simpa [hauto, hk, hu] using hrows)
    · -- MEM_MARK_NEAR_DIE
      exact if_pos (by simp [hk, hu])
    · -- DEVICE_MARK_FAILED
      exact if_pos (by simpa [hauto, hc, hu] using hrows)
    · -- MEM_MARK_FAR_DEVICE
      exact if_pos (by simp [hc, hu])
    · -- MEM_MARK_NEAR_DIE with operands out of range
      rw [show exec (.memMarkNearDie k unit) s = _ from if_neg (by simp; omega)]
      exact s.memCmd_sets (by decide)
    · -- MEM_MARK_FAR_DEVICE with operands out of range
      rw [show exec (.memMarkFarDevice c unit) s = _ from if_neg (by simp; omega)]
      exact s.memCmd_sets (by decide)
    · -- REBUILD_LINE_STEP
      change execRebuildLineStep k pa f unit row s = _
      simp [execRebuildLineStep, hcur, hk, hn]
    · -- CHANNEL_MOVE_LINE_STEP
      change execChannelMoveLineStep c pa f unit row s = _
      simp [execChannelMoveLineStep, hcur, hn]
    · -- SCRUB_LINE
      exact if_pos (by simp [hon, hin])
    · -- SCRUB_PASS_COMPLETE
      intro passes
      exact ⟨_, if_pos hon, State.get_bump hs.csr passes 1, rfl⟩

end Sys2Proof.Machine

/-! ### Start-up (20_power_clocks_startup.md Table 20.6, R601 to R604) -/

namespace Sys2Proof.Machine
open Sys2Proof

/-! Start-up does not touch the power controller's state, nor the modules in it. -/

theorem State.foldl_pow {α : Type} {f : State → α → State} (hf : ∀ s x, (f s x).pow = s.pow) (s : State) (l : List α) :
    (l.foldl f s).pow = s.pow := by
  induction l generalizing s with
  | nil => rfl
  | cons x l ih => exact (ih _).trans (hf s x)

theorem State.ite_pow {c : Prop} [Decidable c] {s t u : State} (ht : t.pow = s.pow) (hu : u.pow = s.pow) :
    (if c then t else u).pow = s.pow := by
  split
  · exact ht
  · exact hu

theorem State.svnCheck_pow (s : State) (n : Nat) : (s.svnCheck n).1.pow = s.pow := by
  unfold State.svnCheck
  split
  · rfl
  · split <;> rfl

theorem State.slotOk_pow (s : State) (b : Boot) (k : Nat) : (s.slotOk b k).1.pow = s.pow := by
  unfold State.slotOk
  generalize (if k = 0 then b.sigA else b.sigB) = ok
  cases ok
  · rfl
  · exact State.svnCheck_pow ..

theorem State.pickSlot_pow (s : State) (b : Boot) : (s.pickSlot b).1.pow = s.pow := by
  unfold State.pickSlot
  extract_lets r l
  refine List.foldlRecOn (motive := fun a : State × Option Nat => a.1.pow = s.pow) l _ rfl fun a ha k _ => ?_
  split
  · exact ha
  · exact (State.slotOk_pow ..).trans ha

theorem State.showSpares_pow (s : State) : s.showSpares.pow = s.pow := by
  unfold State.showSpares
  extract_lets s1 s2
  have h1 : s1.pow = s.pow := State.foldl_pow (fun s x => State.ite_pow (State.raise_pow ..) rfl) ..
  have h2 : s2.pow = s1.pow :=
    State.foldl_pow (fun s n => State.ite_pow rfl (State.foldl_pow (fun s k => State.put_pow ..) ..)) ..
  refine (State.foldl_pow (fun s y => State.ite_pow rfl (State.foldl_pow (fun s x => ?_) ..)) ..).trans (h2.trans h1)
  split
  · exact State.setReg_pow ..
  · rfl

theorem State.loadStore_pow (s : State) (n : Nat) (img : List Byte) : (s.loadStore n img).pow = s.pow :=
  State.setBytes_pow ..

theorem State.clearTile_pow (s : State) (t entry : Nat) : (s.clearTile t entry).pow = s.pow := rfl

theorem State.bootRole_pow (s : State) (t role : Nat) : (s.bootRole t role).pow = s.pow := by
  by_cases h : s.get (TILE_STATE_STATE t) = 7
  · rw [State.bootRole, if_pos h]
  · rw [State.bootRole, if_neg h, State.put_pow, State.setTile_pow, State.loadStore_pow, State.clearTile_pow,
      State.put_pow]

theorem State.bootPairs_pow (s : State) : s.bootPairs.pow = s.pow :=
  State.foldl_pow (f := fun s d => (s.bootRole (1024 * d) 1).bootRole (1024 * d + 1) 1)
    (fun _ _ => (State.bootRole_pow ..).trans (State.bootRole_pow ..)) s [0, 1, 2, 3]

theorem State.bootInst_pow (s : State) (i : Nat) : (s.bootInst i).pow = s.pow := by
  rw [State.bootInst, State.bootRole_pow, State.put_pow, State.put_pow]

theorem State.bootLanes_nil (s : State) : s.bootLanes [] = s := rfl

theorem State.setRel_pow (s : State) (r : RelS) : ({ s with rel := r } : State).pow = s.pow := rfl

theorem State.bootSlot_pow (s : State) (k : Nat) : (s.bootSlot k).pow = s.pow := by
  unfold State.bootSlot
  extract_lets s1
  have h1 : s1.pow = s.pow := by rw [State.put_pow, State.runSlotIs, State.put_pow, State.put_pow]
  exact (State.setRel_pow s1 _).trans h1

/-- A start-up that finds a slot to boot, and no bad lane, ends in READY, with the modules as they were. -/
theorem State.startUp_eq_bootReady {s : State} (hs : s.Sound) {b : Boot} (hcheckers : b.checkers = true)
    (htrained : b.trained = true) (hmacros : b.macros = []) {k : Nat}
    (hk : ((s.selfTest true).showSpares.pickSlot b).2 = some k) :
    ∃ (u : State) (code : Nat), s.startUp b false = State.bootReady u b code ∧ u.Sound ∧
      u.pow = ((s.selfTest true).showSpares.pickSlot b).1.pow := by
  have hpick := State.pickSlot_sound (State.showSpares_sound (State.selfTest_sound hs true)) b
  unfold State.startUp
  extract_lets s1 s2
  have h2 : s2 = (s.selfTest true).showSpares := by
    rw [show s2 = s1.showSpares from congrArg State.showSpares (if_neg Bool.false_ne_true), ← hcheckers]
  rw [if_neg (by simp [hcheckers]), if_neg (by simp [htrained]), if_neg (by simp), if_neg Bool.false_ne_true, h2, hmacros]
  dsimp only
  generalize (s.selfTest true).showSpares.pickSlot b = p at hk hpick ⊢
  obtain ⟨t, _⟩ := p
  subst hk
  dsimp only
  rw [State.bootLanes_nil]
  exact ⟨_, _, rfl, sound_foldl (fun _ i h => State.bootInst_sound h i)
    (State.bootPairs_sound (State.bootSlot_sound hpick k)) _,
    (State.foldl_pow State.bootInst_pow ..).trans ((State.bootPairs_pow _).trans (State.bootSlot_pow t k))⟩

/-- Cages whose module is not ready do not train. -/
theorem State.trainCage_eq_self {s : State} {c : Nat} (h : s.moduleReady c = false) : s.trainCage c = s := by
  rw [State.trainCage, if_neg (by simp [h])]

/-- `LNK_CAGE_STATUS` of cage 0x3FFFFFD9, which does not exist, is at the address of `PWR_BOOT_STATUS`. -/
def strayCage : Nat := 0x3FFFFFD9

theorem LNK_CAGE_STATUS_strayCage : LNK_CAGE_STATUS strayCage = PWR_BOOT_STATUS := rfl

/-- A module listed in that cage, which READY shows, sets bit 2 of STEP. -/
theorem State.bootReady_strayCage {s : State} (hs : s.Sound) {m : Module} (hm : s.pow.modules = [(strayCage, m)])
    (hready : m.ready = false) (b : Boot) (code : Nat) :
    ((s.bootReady b code).get PWR_BOOT_STATUS_STEP).testBit 2 = true := by
  unfold State.bootReady
  extract_lets s1 s2 s3 s4
  have h1 : s1.Sound := State.raise_sound (State.put_sound (State.put_sound hs ..) ..) ..
  have h2 : s2.Sound := sound_ite h1 (State.raise_sound (State.put_sound (State.put_sound h1 ..) ..) ..)
  have hpow : s2.pow = s.pow := by
    by_cases h : code = 0
    · rw [show s2 = _ from if_pos h]
      rfl
    · rw [show s2 = _ from if_neg h]
      rfl
  have h3 : s3 = (s2.put (LNK_CAGE_STATUS_MODULE strayCage) 1).put TRC_STATUS_LANES_UP b.saffron := by
    simp only [s3, hpow, hm]
    rfl
  have hshown := State.put_sound h2 (LNK_CAGE_STATUS_MODULE strayCage) 1
  have h4 : s4 = s3 := by
    refine List.foldl_fixed' (fun c => ?_) _
    have hnot : s3.moduleReady c = false := by
      rw [h3]
      simp only [State.moduleReady, State.put_pow, hpow, hm, tfind]
      split_ifs <;> simp [hready]
    simp [State.trainCage_eq_self hnot]
  have hstep : (s3.get PWR_BOOT_STATUS_STEP).testBit 2 = true := by
    have hreg : (s2.put (LNK_CAGE_STATUS_MODULE strayCage) 1).reg PWR_BOOT_STATUS =
        setBits (s2.reg PWR_BOOT_STATUS) 2 1 1 :=
      (State.reg_setReg h2.csr ..).trans (if_pos LNK_CAGE_STATUS_strayCage.symm)
    rw [h3, State.get_put_apart hshown.csr _ (by rfl)]
    change (bits (State.reg _ PWR_BOOT_STATUS) 0 4).testBit 2 = true
    rw [hreg]
    simp [testBit_bits, testBit_setBits]
  rw [h4]
  split
  · rwa [State.get_put_apart (h3 ▸ State.put_sound hshown ..).csr _ (by rfl)]
  · exact hstep

/-- A card as it leaves the factory, but for a module listed in the stray cage. -/
def strayModule : State :=
  { State.reset with pow := { State.reset.pow with modules := [(strayCage, ⟨0, false, false⟩)] } }

theorem strayModule_sound : strayModule.Sound := State.reset_sound.upd rfl rfl rfl rfl

theorem strayModule_pickSlot : ((strayModule.selfTest true).showSpares.pickSlot {}).2 = some 0 := by decide +kernel

theorem strayModule_step : ((strayModule.startUp {} false).get PWR_BOOT_STATUS_STEP).testBit 2 = true := by
  obtain ⟨u, code, hu, hsound, hpow⟩ :=
    State.startUp_eq_bootReady strayModule_sound (b := {}) rfl rfl rfl strayModule_pickSlot
  have hmodules : u.pow.modules = [(strayCage, ⟨0, false, false⟩)] := by
    rw [hpow, State.pickSlot_pow, State.showSpares_pow]
    rfl
  rw [hu]
  exact State.bootReady_strayCage hsound hmodules rfl {} code

/-- Refutes O58: its last clause asks for STEP 8 from every well-kept state with a GOOD slot, but `State.Sound` does not
bound the numbers of the cages in which modules are listed. Start-up of `strayModule` shows the module in
`LNK_CAGE_STATUS strayCage`, which is `PWR_BOOT_STATUS`, and so leaves a STEP with bit 2 set. -/
theorem not_resetsTripsAndStartUp : ¬ Obligations.ResetsTripsAndStartUp := by
  rintro ⟨-, hstart⟩
  obtain ⟨-, -, -, -, -, hready⟩ := hstart strayModule {} strayModule_sound
  obtain ⟨-, hstep, -⟩ := hready rfl rfl (by decide +kernel) (by decide +kernel) (by decide +kernel)
  have hbit := strayModule_step
  rw [hstep] at hbit
  exact absurd hbit (by decide)

end Sys2Proof.Machine

/-! ### Translation (08_translation_faults.md R276 to R302) -/

namespace Sys2Proof.Machine
open Sys2Proof

/-! The walk (R278, R281, R282). -/

/-- An entry is a leaf only where the page that it names may stand at its level. -/
theorem State.entryKind_leaf {s : State} {i l e : Nat} (h : s.entryKind i l e = .leaf) :
    2 ≤ l ∧ entryAddr e % 2 ^ levelShift l = 0 ∧ s.pageOk i (entryAddr e) (levelShift l) = true := by
  by_contra hno
  have hrefuse : (decide (l < 2) || entryAddr e % 2 ^ levelShift l != 0 ||
      !s.pageOk i (entryAddr e) (levelShift l)) = true := by
    simpa only [not_and_or, Nat.not_le, Bool.not_eq_true, Bool.or_eq_true, decide_eq_true_eq, bne_iff_ne, ne_eq,
      Bool.not_eq_true', or_assoc] using hno
  simp only [State.entryKind, hrefuse, if_true] at h
  repeat' split at h
  all_goals exact EntryKind.noConfusion h

/-- A walk of `f` levels from level `l` that ends at a leaf has read it, unpoisoned, from the table of one of them. -/
theorem State.walkFrom_leaf {s : State} {i va maxL : Nat} {f l tbl : Nat} {h : Hit}
    (hwalk : s.walkFrom i va maxL f l tbl = h) (hleaf : h.kind = .leaf) :
    h.level < l + f ∧ s.poisoned h.epa = false ∧ h.e = s.num h.epa 8 ∧ s.entryKind i h.level h.e = .leaf := by
  induction f generalizing l tbl with
  | zero =>
    subst hwalk
    exact EntryKind.noConfusion hleaf
  | succ f ih =>
    rw [State.walkFrom] at hwalk
    extract_lets at hwalk
    split at hwalk
    · subst hwalk
      exact EntryKind.noConfusion hleaf
    next hclean =>
    split at hwalk
    · split at hwalk
      · subst hwalk
        exact EntryKind.noConfusion hleaf
      · obtain ⟨hlevel, hread⟩ := ih hwalk
        exact ⟨by omega, hread⟩
    · subst hwalk
      exact ⟨by simp, Bool.eq_false_iff.2 hclean, rfl, hleaf⟩

/-- Settles O37: the leaf is one of the five levels' entries, and `State.entryKind` refuses one whose page may not stand
there. -/
theorem walksStayInTheInstance : Obligations.WalksStayInTheInstance := by
  intro s i a va h hleaf
  obtain ⟨hlevel, hclean, hread, hkind⟩ := State.walkFrom_leaf (h := h) rfl hleaf
  obtain ⟨hlow, haligned, hpage⟩ := State.entryKind_leaf hkind
  exact ⟨hlow, by omega, haligned, hpage, hclean, hread⟩

/-! The order of the checks of a page command (R276, R278, R287). -/

/-- A translation command acts on the entry that waits at its slot with its opcode, while no other one runs. -/
theorem State.xltCmd_eq {s : State} {i slot op : Nat} {e : Entry} (he : s.entry? i 0 slot = some e)
    (hidle : s.xltBusy i = false) (hop : e.op = op) (f : Entry → State) : s.xltCmd i slot op f = done (f e) := by
  simp [State.xltCmd, he, hidle, hop]

/-- The range, the ASID and, where the command has one, the physical page that the entry `e` names are those of
`i`. -/
def State.xltRange (s : State) (i : Nat) (e : Entry) (pa : Bool) : Prop :=
  e.xVa < 2 ^ 57 ∧ s.asidOk i e.xAsid = true ∧ (pa = true → s.pageOk i e.xPa (sizeShift e.xSize) = true)

/-- The command does not mind pins, or none stands in the range of the entry `e`. -/
def State.xltFree (s : State) (e : Entry) (pin : Bool) : Prop :=
  pin = true → s.pinned e.xAsid e.xVa (2 ^ sizeShift e.xSize) = false

/-- Where the walk of a page command ends. -/
abbrev State.xltHit (s : State) (i : Nat) (e : Entry) : Hit := s.walk i e.xAsid e.xVa (sizeLevel e.xSize)

section
variable {s s1 : State} {i slot : Nat} {e : Entry} {pa pin valid ow : Bool} {ok : State → Nat → Nat → State}

theorem State.xltRange_refused_iff : (decide (2 ^ 57 ≤ e.xVa) || !s.asidOk i e.xAsid ||
    (pa && !s.pageOk i e.xPa (sizeShift e.xSize))) = true ↔ ¬ s.xltRange i e pa := by
  simp only [State.xltRange, Bool.or_eq_true, decide_eq_true_eq, Bool.not_eq_true', Bool.and_eq_true, not_and_or,
    Classical.not_imp, Nat.not_lt, Bool.not_eq_true, or_assoc]

theorem State.xltFree_refused_iff :
    (pin && s.pinned e.xAsid e.xVa (2 ^ sizeShift e.xSize)) = true ↔ ¬ s.xltFree e pin := by
  simp only [State.xltFree, Bool.and_eq_true, Classical.not_imp, Bool.not_eq_false]

theorem State.xltPage_of_not_range (hrange : ¬ s.xltRange i e pa) :
    s.xltPage i slot e true pa pin valid ow ok = s.xltEnd i slot stACCESS :=
  if_pos (State.xltRange_refused_iff.2 hrange)

theorem State.xltPage_of_pinned (hrange : s.xltRange i e pa) (hpinned : ¬ s.xltFree e pin) :
    s.xltPage i slot e true pa pin valid ow ok = s.xltEnd i slot stBUSY :=
  (if_neg (State.xltRange_refused_iff.not_left.2 hrange)).trans (if_pos (State.xltFree_refused_iff.2 hpinned))

section
variable (hrange : s.xltRange i e pa) (hfree : s.xltFree e pin)
include hrange hfree

theorem State.xltPage_of_target_error {st : Nat}
    (ht : s.xltTarget e.xAsid e.xVa e.xSize (s.xltHit i e) valid ow = (s1, .error st)) :
    s.xltPage i slot e true pa pin valid ow ok = s1.xltEnd i slot st := by
  refine (if_neg (State.xltRange_refused_iff.not_left.2 hrange)).trans
    ((if_neg (State.xltFree_refused_iff.not_left.2 hfree)).trans ?_)
  simp only [ht]

theorem State.xltPage_of_target_ok {epa old : Nat}
    (ht : s.xltTarget e.xAsid e.xVa e.xSize (s.xltHit i e) valid ow = (s1, .ok (epa, old))) :
    s.xltPage i slot e true pa pin valid ow ok = ok s1 epa old := by
  refine (if_neg (State.xltRange_refused_iff.not_left.2 hrange)).trans
    ((if_neg (State.xltFree_refused_iff.not_left.2 hfree)).trans ?_)
  simp only [ht]

end

/-- Above a table, or on a page that migrates, a page command finds its entry in use (Table 8.3). -/
theorem State.xltTarget_busy {a va z : Nat} {h : Hit} (hk : h.kind = .pointer ∨ h.kind = .migrating) :
    s.xltTarget a va z h valid ow = (s, .error stBUSY) := by
  rcases hk with hk | hk <;> simp only [State.xltTarget, hk]

theorem State.xltTarget_bad {a va z : Nat} {h : Hit} (hk : h.kind = .bad) :
    s.xltTarget a va z h valid ow = (s.badEntry a h, .error stACCESS) := by
  simp only [State.xltTarget, hk]

end

/-- Command `c`, with the page operands of the entry `e`, ends as the shared order of checks says, or goes on with
`ok`. -/
def State.pageChecks (s : State) (i slot : Nat) (e : Entry) (c : Instr) (well pa pin valid ow : Bool)
    (ok : State → Nat → Nat → State) : Prop :=
  (well = false → exec c s = done (s.xltEnd i slot stMALFORMED)) ∧
  (well = true → ¬ s.xltRange i e pa → exec c s = done (s.xltEnd i slot stACCESS)) ∧
  (well = true → s.xltRange i e pa → ¬ s.xltFree e pin → exec c s = done (s.xltEnd i slot stBUSY)) ∧
  (well = true → s.xltRange i e pa → s.xltFree e pin →
    ((s.xltHit i e).kind = .pointer ∨ (s.xltHit i e).kind = .migrating) → exec c s = done (s.xltEnd i slot stBUSY)) ∧
  (well = true → s.xltRange i e pa → s.xltFree e pin → (s.xltHit i e).kind = .bad →
    exec c s = done ((s.badEntry e.xAsid (s.xltHit i e)).xltEnd i slot stACCESS)) ∧
  (∀ s1 epa old, well = true → s.xltRange i e pa → s.xltFree e pin →
    s.xltTarget e.xAsid e.xVa e.xSize (s.xltHit i e) valid ow = (s1, .ok (epa, old)) → exec c s = done (ok s1 epa old))

/-- A command that runs `State.xltPage` makes its checks. -/
theorem State.pageChecks_of_exec {s : State} {i slot : Nat} {e : Entry} {c : Instr} {well pa pin valid ow : Bool}
    {ok : State → Nat → Nat → State} (hc : exec c s = done (s.xltPage i slot e well pa pin valid ow ok)) :
    s.pageChecks i slot e c well pa pin valid ow ok := by
  rw [State.pageChecks, hc]
  refine ⟨?_, ?_, ?_, ?_, ?_, ?_⟩
  · rintro rfl
    rfl
  · rintro rfl hrange
    rw [State.xltPage_of_not_range hrange]
  · rintro rfl hrange hpinned
    rw [State.xltPage_of_pinned hrange hpinned]
  · rintro rfl hrange hfree hk
    rw [State.xltPage_of_target_error hrange hfree (State.xltTarget_busy hk)]
  · rintro rfl hrange hfree hk
    rw [State.xltPage_of_target_error hrange hfree (State.xltTarget_bad hk)]
  · rintro s1 epa old rfl hrange hfree ht
    rw [State.xltPage_of_target_ok hrange hfree ht]

/-- Settles O35: each page command runs `State.xltPage`, whose checks are made in order, and each end is the switch of the
migration or the invalidation that it finds. -/
theorem translationPageCommands : Obligations.TranslationPageCommands := by
  refine ⟨fun s i slot e he hidle => ?_,
    fun s i slot m bs => ⟨fun hinval => if_pos hinval, fun hm => ?_, fun hm => ?_⟩⟩
  · -- the page commands
    intro n checks
    have hcmd {op : Nat} (hop : e.op = op) (f : Entry → State) : s.xltCmd i slot op f = done (f e) :=
      State.xltCmd_eq he hidle hop f
    exact ⟨fun hop => State.pageChecks_of_exec (hcmd hop _), fun hop => State.pageChecks_of_exec (hcmd hop _),
      fun hop => State.pageChecks_of_exec (hcmd hop _), fun hop => State.pageChecks_of_exec (hcmd hop _),
      fun hop => State.pageChecks_of_exec (hcmd hop _), fun hop => State.pageChecks_of_exec (hcmd hop _)⟩
  · -- MIGRATE_IN_COMPLETE
    change execMigrateInComplete i slot (some bs) s = _ ∧ execMigrateInComplete i slot none s = _
    simp only [execMigrateInComplete, hm, and_self]
  · -- MIGRATE_OUT_COMPLETE
    change execMigrateOutComplete i slot s = _
    simp only [execMigrateOutComplete, hm]

/-! Outcomes of a translation (R276, R277, R281, R289, R293). -/

/-- `va` lies within 57 bits, and `a` is a usable ASID of `i`. -/
abbrev State.reaches (s : State) (i a va : Nat) : Prop := va < 2 ^ 57 ∧ s.asidOk i a = true

section
variable {s : State} {i a va : Nat} {wr : Bool} {who : Waiter}

/-- A walk of the engine shows the outcome of its translation. -/
theorem translationWalk_eq {t : State} {r : XRes} (h : s.translate i a va wr who = (t, r)) :
    exec (.translationWalk i a va wr who) s = done { t with xlt := { t.xlt with last := r } } := by
  change execTranslationWalk i a va wr who s = _
  rw [execTranslationWalk, h]

theorem State.reaches_refused_iff : (decide (2 ^ 57 ≤ va) || !s.asidOk i a) = true ↔ ¬ s.reaches i a va := by
  simp only [Bool.or_eq_true, decide_eq_true_eq, Bool.not_eq_true', not_and_or, Nat.not_lt, Bool.not_eq_true]

theorem State.translate_of_not_reaches (h : ¬ s.reaches i a va) : s.translate i a va wr who = (s, .access) :=
  if_pos (State.reaches_refused_iff.2 h)

section
variable (h : s.reaches i a va)
include h

theorem State.translate_leaf_permitted (hk : (s.walk i a va 4).kind = .leaf)
    (hp : (s.walk i a va 4).e.testBit (if wr = true then 3 else 2) = true) :
    s.translate i a va wr who = (s.bump XLT_WALKS_VAL,
      .ok (entryAddr (s.walk i a va 4).e + va % 2 ^ levelShift (s.walk i a va 4).level)) := by
  rw [State.translate, if_neg (State.reaches_refused_iff.not_left.2 h)]
  simp only [hk, bit, hp, if_true]

theorem State.translate_leaf_forbidden (hk : (s.walk i a va 4).kind = .leaf)
    (hp : (s.walk i a va 4).e.testBit (if wr = true then 3 else 2) = false) :
    s.translate i a va wr who = (s.bump XLT_WALKS_VAL, .access) := by
  rw [State.translate, if_neg (State.reaches_refused_iff.not_left.2 h)]
  simp only [hk, bit, hp, Bool.false_eq_true, if_false]

theorem State.translate_absent (hk : (s.walk i a va 4).kind = .absent) :
    s.translate i a va wr who = (s.bump XLT_WALKS_VAL, .access) := by
  rw [State.translate, if_neg (State.reaches_refused_iff.not_left.2 h)]
  simp only [hk]

theorem State.translate_bad (hk : (s.walk i a va 4).kind = .bad) :
    s.translate i a va wr who = ((s.bump XLT_WALKS_VAL).badEntry a (s.walk i a va 4), .access) := by
  rw [State.translate, if_neg (State.reaches_refused_iff.not_left.2 h)]
  simp only [hk]

theorem State.translate_migrating (hk : (s.walk i a va 4).kind = .migrating) :
    s.translate i a va wr who = ((s.bump XLT_WALKS_VAL).park i a va wr who (s.walk i a va 4), .waiting) := by
  rw [State.translate, if_neg (State.reaches_refused_iff.not_left.2 h)]
  simp only [hk]

theorem State.translate_onHost (hk : (s.walk i a va 4).kind = .onHost) :
    s.translate i a va wr who =
      if s.faultsOn i = true then ((s.bump XLT_WALKS_VAL).park i a va wr who (s.walk i a va 4), .fault)
      else (((s.bump XLT_WALKS_VAL).bump XLT_UNRESOLVED_VAL).raise XLT_EVENT_UNRESOLVED, .unresolved) := by
  rw [State.translate, if_neg (State.reaches_refused_iff.not_left.2 h)]
  simp only [hk]

end

end

/-! The registers of ASIDs and fault rings (R285, R298, R302). -/

theorem State.get_setXlt (s : State) (x : XltS) (f : RegFld) : State.get { s with xlt := x } f = s.get f := rfl

/-- ASID `a` becomes usable: its level-0 table is the first page of its pool of `len` bytes at `pa` (R285). -/
def State.newAsid (s : State) (a pa len mirror : Nat) : State :=
  let s2 := ((s.put (XLT_ROOT_ROOT a) (pa / 4096)).put (XLT_ROOT_USABLE a) 1).put (XLT_ROOT_MIRROR a) mirror
  let s3 := (s2.put (XLT_POOL_LEN_4K a) (len / 4096)).put (XLT_POOL_USED_4K a) 1
  let s4 := { s3 with xlt := { s3.xlt with used := tput s3.xlt.used a 4096 } }
  s4.put XLT_MIRRORS_VAL (s4.get XLT_MIRRORS_VAL + mirror)

section
variable {s : State} {i slot a pa len mirror : Nat} {e : Entry}

/-- XLT_ASID_CREATE with operands that pass its checks. -/
theorem xltAsidCreate_eq (he : s.entry? i 0 slot = some e) (hidle : s.xltBusy i = false) (hop : e.op = 0x10)
    (hz : e.rsvdZero [(0, 3), (8, 16)] = true)
    (hbody : e.b 0 2 = a ∧ e.b 8 8 = pa ∧ e.b 16 8 = len ∧ e.b 2 1 = mirror)
    (hpa : pa % 4096 = 0) (hlen : len % 4096 = 0) (hpos : 0 < len) (ha : a < 4096) (hinst : a / s.asidsPer = i)
    (hin : inside (s.nearRange i) pa len = true) (hoff : s.on (XLT_ROOT_USABLE a) = false)
    (hmirror : mirror = 0 ∨ (mirror = 1 ∧ i = 0 ∧ s.get XLT_MIRRORS_VAL < 8)) :
    exec (.xltAsidCreate i slot) s =
      done (((s.write pa (List.replicate 4096 0)).newAsid a pa len mirror).xltEnd i slot stOK) := by
  have hwell : (!e.rsvdZero [(0, 3), (8, 16)] || decide (1 < mirror) || pa % 4096 != 0 || len % 4096 != 0) = false := by
    simp only [hz, hpa, hlen, Bool.not_true, bne_self_eq_false, Bool.or_false, Bool.false_or, decide_eq_false_iff_not]
    omega
  have hallowed : (decide (4096 ≤ a) || a / s.asidsPer != i || !inside (s.nearRange i) pa len ||
      (decide (mirror = 1) && i != 0)) = false := by
    simp only [hinst, hin, bne_self_eq_false, Bool.not_true, Bool.or_false, Bool.or_eq_false_iff,
      decide_eq_false_iff_not, Bool.and_eq_false_iff, bne_eq_false_iff_eq]
    omega
  have hroom : (decide (len = 0) || (decide (mirror = 1) && decide (8 ≤ s.get XLT_MIRRORS_VAL))) = false := by
    simp only [Bool.or_eq_false_iff, decide_eq_false_iff_not, Bool.and_eq_false_iff]
    omega
  obtain ⟨rfl, rfl, rfl, rfl⟩ := hbody
  exact (State.xltCmd_eq he hidle hop _).trans (congrArg done ((if_neg (Bool.eq_false_iff.1 hwell)).trans
    ((if_neg (Bool.eq_false_iff.1 hallowed)).trans ((if_neg (Bool.eq_false_iff.1 hoff)).trans
      (if_neg (Bool.eq_false_iff.1 hroom))))))

/-- MIRRORS counts from the registers alone, whatever the pools say. -/
theorem State.newAsid_eq : s.newAsid a pa len mirror =
    let u := ((s.put (XLT_ROOT_ROOT a) (pa / 4096)).put (XLT_ROOT_USABLE a) 1).put (XLT_ROOT_MIRROR a) mirror
    let w := (u.put (XLT_POOL_LEN_4K a) (len / 4096)).put (XLT_POOL_USED_4K a) 1
    State.put { w with xlt := { w.xlt with used := tput w.xlt.used a 4096 } } XLT_MIRRORS_VAL
      (w.get XLT_MIRRORS_VAL + mirror) := by
  rw [State.newAsid, State.get_setXlt]

end

theorem XLT_FR_CFG_ne_XLT_FR_PROD (i : Nat) : XLT_FR_CFG i ≠ XLT_FR_PROD i := by
  unfold XLT_FR_CFG XLT_FR_PROD
  omega

theorem XLT_FR_CFG_ne_XLT_FR_CONS (i : Nat) : XLT_FR_CFG i ≠ XLT_FR_CONS i := by
  unfold XLT_FR_CFG XLT_FR_CONS
  omega

theorem XLT_FR_PROD_ne_XLT_FR_CONS (i : Nat) : XLT_FR_PROD i ≠ XLT_FR_CONS i := by
  unfold XLT_FR_PROD XLT_FR_CONS
  omega

/-- A field takes only the low bits of what is written. -/
theorem State.put_mod (s : State) (f : RegFld) (v : Nat) : s.put f (v % 2 ^ f.w) = s.put f v := by
  simp only [State.put, setBits, Nat.mod_mod]

/-- What a write that enables the fault ring of `i` sets. -/
def faultRingStart (i val : Nat) : List (RegFld × Nat) :=
  [(XLT_FR_CFG_TIMEOUT_MS i, val / 2 ^ 16), (XLT_FR_CFG_ENABLE i, 1), (XLT_FR_PROD_PROD i, 0), (XLT_FR_CONS_CONS i, 0)]

/-- Enabling the fault ring of `i` takes its TIMEOUT_MS and starts it at 0 (R302). -/
theorem xltFrEnableWrite_sets {s : State} (hs : s.Sound) {i val : Nat} (hen : val.testBit 0 = true)
    (hoff : s.on (XLT_FR_CFG_ENABLE i) = false) :
    s.sets (exec (.xltFrEnableWrite i val) s) (faultRingStart i val) := by
  change s.sets (execXltFrEnableWrite i val s) _
  rw [execXltFrEnableWrite, if_pos (show bit val 0 = true from hen), if_neg (Bool.eq_false_iff.1 hoff),
    show s.put (XLT_FR_CFG_TIMEOUT_MS i) (bits val 16 16) = _ from State.put_mod ..]
  exact State.sets_puts hs.csr (faultRingStart i val) (by simp [faultRingStart, apart, XLT_FR_CFG_TIMEOUT_MS,
    XLT_FR_CFG_ENABLE, XLT_FR_PROD_PROD, XLT_FR_CONS_CONS, XLT_FR_CFG_ne_XLT_FR_PROD, XLT_FR_CFG_ne_XLT_FR_CONS,
    XLT_FR_PROD_ne_XLT_FR_CONS])

/-- Settles O36: each command takes the branch that its conditions name, and a translation ends as the kind of entry that
its walk meets says. -/
theorem asidsFaultsAndOutcomes : Obligations.AsidsFaultsAndOutcomes := by
  refine ⟨fun s i slot a va val e hs => ?_, fun s i a va wr who hs => ?_⟩
  · intro cmd mirror pa len hit
    have hcmd {op : Nat} : cmd op → ∀ f : Entry → State, s.xltCmd i slot op f = done (f e) :=
      fun ⟨he, hidle, hop⟩ => State.xltCmd_eq he hidle hop
    refine ⟨fun h hz hpa hlen hpos ha hinst hin hoff hmirror => ?_, fun h hz hok hpin => ?_, fun h hz hva hok => ?_,
      fun hopen => if_neg hopen, fun hany => ?_, fun hms => if_neg hms, fun hroom => if_neg (Nat.not_lt.2 hroom),
      fun hover => if_pos hover, fun hen hoff => xltFrEnableWrite_sets hs hen hoff, fun hen hon => ?_⟩
    · -- XLT_ASID_CREATE
      obtain ⟨he, hidle, hop⟩ := h
      have hcreate := xltAsidCreate_eq (a := e.xAsid) (pa := pa) (len := len) (mirror := mirror) he hidle hop hz
        ⟨rfl, rfl, rfl, rfl⟩ hpa hlen hpos ha hinst hin hoff hmirror
      rw [State.newAsid_eq] at hcreate
      exact hcreate
    · -- XLT_ASID_DESTROY
      exact (hcmd h _).trans (congrArg done ((if_neg (by simp [hz])).trans ((if_neg (by simp [hok])).trans
        (if_neg (Bool.eq_false_iff.1 hpin)))))
    · -- FAULT_FAIL
      exact (hcmd h _).trans (congrArg done ((if_neg (by simp [hz])).trans
        (if_neg (State.reaches_refused_iff.not_left.2 ⟨hva, hok⟩))))
    · -- PARKED_REQUEST_RETRY
      refine if_neg ?_
      rw [List.isEmpty_iff, List.filter_eq_nil_iff]
      intro hnone
      obtain ⟨p, hp, hhit⟩ := List.any_eq_true.1 hany
      exact hnone p hp hhit
    · -- XLT_FR_ENABLE_WRITE that clears ENABLE
      exact (if_neg (Bool.eq_false_iff.1 hen)).trans (if_pos hon)
  · intro h walked out usable
    refine ⟨fun hno => translationWalk_eq (State.translate_of_not_reaches hno),
      fun hu hk hp => translationWalk_eq (State.translate_leaf_permitted hu hk hp),
      fun hu hk hp => translationWalk_eq (State.translate_leaf_forbidden hu hk hp),
      fun hu hk => translationWalk_eq (State.translate_absent hu hk),
      fun hu hk => translationWalk_eq (State.translate_bad hu hk),
      fun hu hk => translationWalk_eq (State.translate_migrating hu hk),
      fun hu hk hen hatt => translationWalk_eq ((State.translate_onHost hu hk).trans (if_pos ?_)),
      fun hu hk hoff => translationWalk_eq ((State.translate_onHost hu hk).trans (if_neg ?_))⟩
    · simp [State.faultsOn, hen, hatt]
    · simp [State.faultsOn, hoff]

end Sys2Proof.Machine

/-! ### The page service (09_kv_page_service.md R304 to R340) -/

namespace Sys2Proof.Machine
open Sys2Proof

/-! A page command acts on the entry that waits at its slot (Table 9.10). -/

section
variable {s : State} {i slot op st : Nat} {e : Entry} {named : List (Nat × Nat)}
variable (he : s.entry? i 0 slot = some e) (hop : e.op = op) (hz : e.rsvdZero named = true)
include he hop hz

/-- A page command whose reserved bytes are 0 acts where the model is in the state that the command is accepted in. -/
theorem State.pageCmd_eq (hst : s.modelState i = st) (f : Entry → State) :
    s.pageCmd i slot op st named f = done (f e) := by
  simp [State.pageCmd, he, hop, hz, hst]

theorem State.pageCmd_busy (hst : s.modelState i ≠ st) (f : Entry → State) :
    s.pageCmd i slot op st named f = done (s.pageEnd i slot stBUSY) := by
  simp [State.pageCmd, he, hop, hz, hst]

end

/-! What a load that succeeds leaves. -/

@[simp] theorem State.hostPut_mem (s : State) (i a : Nat) (bs : List Byte) : (s.hostPut i a bs).mem = s.mem := by
  unfold State.hostPut
  split <;> rfl

@[simp] theorem State.setModel_mem (s : State) (i : Nat) (m : Model) : (s.setModel i m).mem = s.mem := by
  unfold State.setModel
  repeat rw [State.put_mem]

@[simp] theorem State.model?_put (s : State) (f : RegFld) (v i : Nat) : (s.put f v).model? i = s.model? i := rfl

@[simp] theorem State.model?_setModel (s : State) (i : Nat) (m : Model) : (s.setModel i m).model? i = some m := by
  simp only [State.setModel, State.model?_put]
  exact (tfind_tput ..).trans (if_pos rfl)

theorem State.modelState_put {s : State} (h : s.Sound) (i v : Nat) :
    (s.put (PAGE_MODEL_STATE i) v).modelState i = v % 8 :=
  State.get_put h.csr _ v

/-- What a load that has mapped the window and sent the report leaves: memory as mapped, and the model in state 2. -/
theorem State.loading {v : State} (hv : v.Sound) {i a : Nat} {bs : List Byte} {m : Model}
    {o : Host.Outcome State Fault Refusal}
    (ho : o = done (((v.hostPut i a bs).setModel i m).put (PAGE_MODEL_STATE i) 2)) :
    ∃ t, o = done t ∧ t.mem = v.mem ∧ t.modelState i = 2 ∧ t.model? i = some m := by
  refine ⟨_, ho, ?_, ?_, ?_⟩
  · rw [State.put_mem, State.setModel_mem, State.hostPut_mem]
  · exact State.modelState_put (State.setModel_sound (State.hostPut_sound hv ..) ..) ..
  · rw [State.model?_put, State.model?_setModel]

/-! MODEL_LOAD's checks (R334 to R336). -/

/-- FLAGS of a MODEL_LOAD entry are in range, and its addresses and lengths are aligned. -/
def Entry.loadAligned (e : Entry) : Prop := e.b 2 1 < 2 ∧ ∀ o ∈ [8, 16, 24, 32, 40], e.b o 8 % mib2 = 0

/-- The ASID, the window and the two ranges that a MODEL_LOAD entry names are those of `i`. -/
def State.loadPlaced (s : State) (i : Nat) (e : Entry) : Prop :=
  s.asidOk i (e.b 0 2) = true ∧ e.b 8 8 < 2 ^ 57 ∧ inside (s.nearRange i) (e.b 16 8) (e.b 24 8) = true ∧
    inside (s.farRange i) (e.b 32 8) (e.b 40 8) = true

theorem Entry.loadAligned_refused_iff {e : Entry} : (decide (2 ≤ e.b 2 1) || e.b 8 8 % mib2 != 0 ||
    e.b 16 8 % mib2 != 0 || e.b 24 8 % mib2 != 0 || e.b 32 8 % mib2 != 0 || e.b 40 8 % mib2 != 0) = true ↔
      ¬ e.loadAligned := by
  simp only [Entry.loadAligned, List.forall_mem_cons, Bool.or_eq_true, decide_eq_true_eq,
    bne_iff_ne, not_and_or, Nat.not_lt, or_assoc, ne_eq,
    List.not_mem_nil, false_imp_iff, implies_true, not_true_eq_false, or_false]

theorem State.loadPlaced_refused_iff {s : State} {i : Nat} {e : Entry} : (!s.asidOk i (e.b 0 2) ||
    decide (2 ^ 57 ≤ e.b 8 8) || !inside (s.nearRange i) (e.b 16 8) (e.b 24 8) ||
      !inside (s.farRange i) (e.b 32 8) (e.b 40 8)) = true ↔ ¬ s.loadPlaced i e := by
  simp only [State.loadPlaced, Bool.or_eq_true, decide_eq_true_eq, Bool.not_eq_true', not_and_or, Nat.not_lt,
    Bool.not_eq_true, or_assoc]

/-! MODEL_LOAD_COMPLETE and MODEL_UNLOAD (R332, R338). -/

theorem modelLoadComplete_failed {s : State} {i slot : Nat} {m : Model} (hm : s.model? i = some m)
    (hst : s.modelState i = 2) (hslot : m.slot = slot) :
    exec (.modelLoadComplete i slot none) s = done ((s.dropModel i).loadDone i slot stACCESS) := by
  change execModelLoadComplete i slot none s = _
  simp [execModelLoadComplete, State.abortLoad, hm, hst, hslot]

/-- A warp set, a stream or a reshard plan holds the model `m` (R332). -/
abbrev State.modelHeld (s : State) (m : Model) : Prop :=
  s.warpPinned m.asid m.va (m.nearLen + m.farLen) = true ∨ m.stream ≠ none ∨ m.next ≠ none ∨ m.reshard ≠ none

theorem State.modelHeld_refused_iff {s : State} {m : Model} : (s.warpPinned m.asid m.va (m.nearLen + m.farLen) ||
    m.stream.isSome || m.next.isSome || m.reshard.isSome) = true ↔ s.modelHeld m := by
  simp only [State.modelHeld, Bool.or_eq_true, Option.isSome_iff_ne_none, or_assoc]

/-- Settles O38: MODEL_LOAD makes its checks in order, and each equation `henter` to `hplace` says what is left of the
command once one more of them has passed; a completion and an unload take the branch that their conditions name. -/
theorem pageModels : Obligations.PageModels := by
  intro s i slot e b m hs he aligned placed p nl fl slow u
  refine ⟨fun hop hz hnone => ?_, fun data hm hst hslot => ?_, modelLoadComplete_failed,
    fun hop hz hst hm => ?_⟩
  · -- MODEL_LOAD
    have hno : ¬ ((s.model? i).any fun x => x.slot == slot) = true := by simp [hnone]
    have henter (man : Option (List Byte)) : exec (.modelLoad i slot man) s = _ := if_neg hno
    have hload (man) (hst : s.modelState i = 0) := (henter man).trans (State.pageCmd_eq he hop hz hst _)
    have hranges (man) (hst) (hal : e.loadAligned) :=
      (hload man hst).trans (congrArg done (if_neg (Entry.loadAligned_refused_iff.not_left.2 hal)))
    have hmanifest (man) (hst hal) (hpl : s.loadPlaced i e) :=
      (hranges man hst hal).trans (congrArg done (if_neg (State.loadPlaced_refused_iff.not_left.2 hpl)))
    have hwindow (hst hal hpl) (hok : manifestOk b (e.b 56 8) = true) :=
      (hmanifest (some b) hst hal hpl).trans (congrArg done (if_neg (by simp [hok])))
    refine ⟨fun hst => (henter _).trans (State.pageCmd_busy he hop hz hst _),
      fun hst hal => (hload _ hst).trans (congrArg done (if_pos (Entry.loadAligned_refused_iff.2 hal))),
      fun hst hal hpl => (hranges _ hst hal).trans (congrArg done (if_pos (State.loadPlaced_refused_iff.2 hpl))),
      fun hst hal hpl => hmanifest none hst hal hpl,
      fun hst hal hpl hbad => (hmanifest (some b) hst hal hpl).trans (congrArg done (if_pos (by simp [hbad]))),
      fun hst hal hpl hok hover => (hwindow hst hal hpl hok).trans (congrArg done (if_pos hover)),
      fun hst hal hpl hok hfits hused => (hwindow hst hal hpl hok).trans (congrArg done
        ((if_neg (Nat.not_lt.2 hfits)).trans (if_pos (by simpa using hused)))),
      fun v hst hal hpl hok hfits hfree hroom hrun hmap => ?_⟩
    have hplace := (hwindow hst hal hpl hok).trans (congrArg done ((if_neg (Nat.not_lt.2 hfits)).trans
      ((if_neg (by simpa using hfree)).trans (if_neg (by simpa using hroom)))))
    have hu : u.Sound := State.raiseIf_sound (State.put_sound (State.tick_sound hs) _ _) _ _
    obtain ⟨u1, hnear, hfar⟩ := Option.bind_eq_some_iff.1 hmap
    have hv : v.Sound := State.mapPages_sound (State.mapPages_sound hu _ _ _ _ _ hnear) _ _ _ _ _ hfar
    -- `hplace` has the placement and the report's state written out
    simp only [u, nl, fl, slow, p] at hmap
    rw [hmap] at hplace
    obtain ⟨t, ht, hmem, hstate, hmodel⟩ :=
      State.loading hv (hplace.trans (congrArg done (if_neg (by simp [hrun, bit]))))
    exact ⟨t, ht, hmem, hstate, hmodel ▸ rfl⟩
  · -- MODEL_LOAD_COMPLETE of copies that all succeed
    intro copied w hcopied
    change execModelLoadComplete i slot (some data) s = _
    simp only [execModelLoadComplete, hm, hst, hslot]
    refine (if_neg (by simp)).trans (if_neg ?_)
    rw [bne_iff_ne, not_not]
    exact hcopied
  · -- MODEL_UNLOAD
    have hunload : exec (.modelUnload i slot) s = _ := State.pageCmd_eq he hop hz hst _
    simp only [hm] at hunload
    exact ⟨fun hheld => hunload.trans (congrArg done (if_pos (State.modelHeld_refused_iff.2 hheld))),
      fun hfree => hunload.trans (congrArg done (if_neg (State.modelHeld_refused_iff.not.2 hfree)))⟩

end Sys2Proof.Machine

/-! ### Sequences, plans and page moves of a loaded model (09_kv_page_service.md R309 to R331) -/

namespace Sys2Proof.Machine
open Sys2Proof

/-! What a read leaves of the poison that later reads meet (R262, R529). -/

/-- `t` shows the poison that `s` does: the same marked lines, and a far tier with or without keys alike. -/
def State.poisonAs (s t : State) : Prop := t.poison = s.poison ∧ t.sec = s.sec ∧ t.reg SEC_STATE = s.reg SEC_STATE

theorem tfind_tdel_ne {α : Type} (m : SMap α) {k j : Nat} (h : j ≠ k) : tfind (tdel m k) j = tfind m j := by
  induction m with
  | nil => rfl
  | cons p m ih =>
    obtain ⟨k', v⟩ := p
    by_cases hk : k = k'
    · subst hk
      simp only [tdel, tfind, if_true, if_neg h]
    · simp only [tdel, tfind, if_neg hk, ih]

theorem State.reg_setReg_ne (s : State) {a b : Nat} (h : b ≠ a) (v : Nat) : (s.setReg a v).reg b = s.reg b := by
  simp only [State.reg, State.setReg]
  split
  · rw [tfind_tdel_ne _ h]
  · rw [tfind_tput, if_neg h]

section
variable {s t : State}

theorem State.poisonAs.refl (s : State) : s.poisonAs s := ⟨rfl, rfl, rfl⟩

theorem State.poisonAs.setReg (h : s.poisonAs t) {a : Nat} (ha : SEC_STATE ≠ a) (v : Nat) :
    s.poisonAs (t.setReg a v) :=
  ⟨h.1, h.2.1, (t.reg_setReg_ne ha v).trans h.2.2⟩

theorem State.poisonAs.put (h : s.poisonAs t) {f : RegFld} (hf : SEC_STATE ≠ f.reg) (v : Nat) :
    s.poisonAs (t.put f v) :=
  h.setReg hf _

theorem MEM_ERR_LOG_ne_SEC_STATE {n : Nat} (hn : n < 64) (w : Fin 4) : SEC_STATE ≠ MEM_ERR_LOG n w := by
  unfold SEC_STATE MEM_ERR_LOG
  omega

theorem State.poisonAs.memLog (h : s.poisonAs t) (kind addr chan unit src row : Nat) :
    s.poisonAs (t.memLog kind addr chan unit src row) := by
  unfold State.memLog
  extract_lets n tier a s1 s2 s3 s4 lost s5
  have hn : n < 64 := bits_lt ..
  have hword {u : State} (hu : s.poisonAs u) (w : Fin 4) (v : Nat) : s.poisonAs (u.setReg (MEM_ERR_LOG n w) v) :=
    hu.setReg (MEM_ERR_LOG_ne_SEC_STATE hn w) v
  have h4 : s.poisonAs s4 := hword (hword (hword (hword h 0 _) 1 _) 2 _) 3 _
  have h5 : s.poisonAs s5 := by
    by_cases hlost : lost = true
    · rw [show s5 = _ from if_pos hlost]
      exact (h4.put (by decide) _).put (by decide) _
    · rwa [show s5 = _ from if_neg hlost]
  exact h5.put (f := MEM_ERR_LOG_HEAD_NEXT) (by decide) _

theorem State.poisonAs.read (h : s.poisonAs t) (pa n : Nat) : s.poisonAs (t.read pa n).1 := by
  unfold State.read State.logPoison
  split
  · split
    · exact h
    · exact List.foldlRecOn (motive := s.poisonAs) _ _ h fun u hu a _ => hu.memLog ..
  · exact h

theorem State.poisonAs.readVa (h : s.poisonAs t) (i a va n : Nat) : s.poisonAs (t.readVa i a va n).1 := by
  refine List.foldlRecOn (motive := fun acc : State × Except Nat (List Byte) => s.poisonAs acc.1) _ _ h
    fun acc hacc p _ => ?_
  have hread {pa : Nat} {s1 : State} {x : Option (List Byte)} (hr : acc.1.read pa p.2 = (s1, x)) : s.poisonAs s1 := by
    have h1 := hacc.read pa p.2
    rwa [hr] at h1
  split
  · split
    · next hr => exact hread hr
    · next hr => exact hread hr
  · exact hacc
  · exact hacc

theorem State.poisonAs.cqTake (h : s.poisonAs t) {q : Nat} (hq : q < 65536) : s.poisonAs (t.cqTake q).1 := by
  refine (h.read ..).put ?_ _
  change SEC_STATE ≠ SKN_CQ_PTR q
  unfold SEC_STATE SKN_CQ_PTR
  omega

theorem State.poisonAs.badSummary (h : s.poisonAs t) (m : Model) (q l : Nat) :
    t.badSummary m q l = s.badSummary m q l := by
  obtain ⟨hpoison, hsec, hstate⟩ := h
  have hkeys : t.get SEC_STATE_KEYS = s.get SEC_STATE_KEYS := congrArg (bits · 0 2) hstate
  simp only [State.badSummary, State.anyPoison, State.farDark, hpoison, hsec, hkeys]

end

/-- `nInst` of each mode (R45). -/
theorem State.nInst_cases (s : State) : s.nInst = 1 ∨ s.nInst = 4 ∨ s.nInst = 16 := by
  unfold State.nInst
  split <;> simp

/-- Chunk queues whose owner has a tile of role `r` are among the 65,536 of R225. -/
theorem State.cqOwner_lt {s : State} {i r q : Nat} {now : Bool} (hrole : s.hasRole i r now = true)
    (hown : s.cqOwner q = i) : q < 65536 := by
  obtain ⟨p, -, hp⟩ := List.any_eq_true.1 hrole
  simp only [Bool.and_eq_true, decide_eq_true_eq, beq_iff_eq] at hp
  obtain ⟨⟨⟨⟨⟨hlow, hhigh⟩, -⟩, -⟩, hinst⟩, -⟩ := hp
  have htile : (p.1 - TILE_ROLE 0) / 0x40000 < 4096 := by
    unfold TILE_ROLE at *
    omega
  unfold State.instOfTile State.blockTiles at hinst
  unfold State.cqOwner at hown
  rcases s.nInst_cases with hn | hn | hn <;> simp only [hn] at hinst hown <;> omega

/-! PAGE_STEP (R312, R313). -/

/-- The record that the PAGE tiles read at `place`: its first part, and all of it where it carries a token to append. -/
def State.stepRecord (s : State) (i : Nat) (m : Model) (place : Nat) : State × Option (List Byte) :=
  match s.readVa i m.asid place (m.geo.recordLen false) with
  | (s1, .ok b) =>
    if bit (byteAt b 10) 0 then
      match s1.readVa i m.asid place (m.geo.recordLen true) with
      | (s2, .ok b) => (s2, some b)
      | (s2, .error _) => (s2, none)
    else (s1, some b)
  | (s1, .error _) => (s1, none)

/-- The PAGE tiles of `i` take the signal of queue `q` for descriptor `d`, the one at `desc` of group `g` (R313). -/
structure State.stepsOn (s : State) (i q g desc : Nat) (m : Model) (d : TxDesc) : Prop where
  desc : ((s.activeTable.bind fun t => tfind t.groups g).bind fun sec => sec.txd[desc]?) = some d
  on : s.warp.on = true
  role : s.hasRole i 4 true = true
  owner : s.cqOwner q = i
  enabled : s.on (SKN_CQ_CFG_ENABLE q) = true
  signal : s.cqCount q ≠ 0
  inst : d.inst = i
  kind : d.kind = 2
  asid : d.asid = m.asid

section
variable {s : State} {i : Nat} {m : Model} {place : Nat}

theorem State.stepRecord_of_error {st : Nat}
    (h : (s.readVa i m.asid place (m.geo.recordLen false)).2 = .error st) :
    s.stepRecord i m place = ((s.readVa i m.asid place (m.geo.recordLen false)).1, none) := by
  unfold State.stepRecord
  generalize s.readVa i m.asid place (m.geo.recordLen false) = r at h
  obtain ⟨s1, x⟩ := r
  subst h
  rfl

theorem State.stepRecord_of_no_append {b : List Byte}
    (h : (s.readVa i m.asid place (m.geo.recordLen false)).2 = .ok b) (happ : bit (byteAt b 10) 0 = false) :
    s.stepRecord i m place = ((s.readVa i m.asid place (m.geo.recordLen false)).1, some b) := by
  unfold State.stepRecord
  generalize s.readVa i m.asid place (m.geo.recordLen false) = r at h
  obtain ⟨s1, x⟩ := r
  subst h
  exact if_neg (Bool.eq_false_iff.1 happ)

/-- A step whose record is poisoned is not served (Table 9.5). -/
theorem State.pageStep_none (s : State) (i : Nat) (m : Model) (g : Nat) (d : TxDesc) (hole : Bool) :
    s.pageStep i m g d hole none =
      (((s.bump PAGE_QUERY_HOLE_VAL).raise PAGE_EVENT_QUERY_HOLE).tracePage i 2 [], m) := by
  cases hole <;> rfl

variable {q g desc : Nat} {d : TxDesc} (hst : s.modelState i = 3) (hm : s.model? i = some m)
  (hstep : s.stepsOn i q g desc m d)
include hst hm hstep

/-- A step takes the signal, reads the record, and serves it unless it cannot be read (R264). -/
theorem pageStep_eq {b : Option (List Byte)} {s1 : State}
    (hrec : (s.cqTake q).1.stepRecord i m (leAt (s.cqTake q).2 24 8) = (s1, b))
    (hgood : (b.any fun b => s.badSummary m (leAt b 0 2) (leAt b 2 2)) = false) :
    let r := (s1.tracePage i 1 (sliceB (b.getD []) 0 8)).pageStep i m g d (bit (byteAt (s.cqTake q).2 2) 0) b
    exec (.pageStep i q g desc) s = done (r.1.setModel i r.2) := by
  obtain ⟨hd, hon, hrole, hown, hcq, hcount, hinst, hkind, hasid⟩ := hstep
  change execPageStep i q g desc s = _
  have hserve : execPageStep i q g desc s =
      (let x := (s.cqTake q).1.stepRecord i m (leAt (s.cqTake q).2 24 8)
      let b := if (x.2.any fun b => s.badSummary m (leAt b 0 2) (leAt b 2 2)) = true then none else x.2
      let r := (x.1.tracePage i 1 (sliceB (b.getD []) 0 8)).pageStep i m g d (bit (byteAt (s.cqTake q).2 2) 0) b
      done (r.1.setModel i r.2)) := by
    simp only [execPageStep, hm, hd]
    exact if_neg (by simp [hst, hon, hrole, hown, hcq, hcount, hinst, hkind, hasid])
  simp only [hserve, hrec, hgood, Bool.false_eq_true, if_false]

end

/-! STREAM_START and RESHARD_RUN (R326, R329). -/

theorem any_isNone_iff {α : Type} {l : List (Option α)} : l.any (·.isNone) = true ↔ ∃ x ∈ l, x = none := by
  simp only [List.any_eq_true, Option.isNone_iff_eq_none]

section
variable {s : State} {i slot : Nat} {e : Entry} {m : Model}
variable (he : s.entry? i 0 slot = some e) (hst : s.modelState i = 3) (hm : s.model? i = some m)
include he hst hm

/-- STREAM_START with a plan that can be read (R326). -/
theorem streamStart_eq (hop : e.op = 0x34) (hz : e.rsvdZero [(0, 24)] = true)
    (hcycle : 1 ≤ e.b 0 4 ∧ e.b 0 4 ≤ 65536) (hva : e.b 8 8 < 2 ^ 57) {pa : Nat} (hpa : s.planPa i m (e.b 8 8) (32 * e.b 4 4) = some pa)
    (hclean : s.anyPoison pa (32 * e.b 4 4) = false) :
    let es := (List.range (e.b 4 4)).map fun k => m.planEntry (e.b 0 4) (s.bytes (pa + 32 * k) 32)
    let plan : StreamPlan := ⟨e.b 0 4, e.b 16 8, es.filterMap id⟩
    exec (.streamStart i slot) s = done (
      if es.any (·.isNone) = true then s.pageEnd i slot stMALFORMED
      else if (m.next.isSome || !s.startOk (e.b 16 8)) = true then s.pageEnd i slot stBUSY
      else (s.setModel i (if m.stream.isSome then { m with next := some plan }
        else { m with stream := some plan })).pageEnd i slot stOK) := by
  have hstart : exec (.streamStart i slot) s = _ := State.pageCmd_eq he hop hz hst _
  simp only [hm, hpa, hclean] at hstart
  rwa [if_neg (by simp; omega), if_neg (Nat.not_le.2 hva), if_neg Bool.false_ne_true] at hstart

/-- RESHARD_RUN with a plan that can be read, while none runs (R329). -/
theorem reshardRun_eq (hop : e.op = 0x36) (hz : e.rsvdZero [(0, 4), (8, 16)] = true) (hidle : m.reshard = none)
    {plan : List ReshardEntry} (hlen : plan.length = e.b 0 4) (hva : e.b 8 8 < 2 ^ 57) {pa : Nat}
    (hpa : s.planPa i m (e.b 8 8) 1 = some pa) :
    exec (.reshardRun i slot plan) s = done (
      if s.startOk (e.b 16 8) = true then
        s.setModel i { m with reshard := some { slot := slot, start := e.b 16 8, left := plan } }
      else s.pageEnd i slot stBUSY) := by
  change execReshardRun i slot plan s = _
  simp only [execReshardRun, hm, hidle]
  refine (if_neg (by simp)).trans ((State.pageCmd_eq he hop hz hst _).trans (congrArg done ?_))
  refine (if_neg (by simp [hlen])).trans ((if_neg (by simp [hpa]; omega)).trans ?_)
  cases s.startOk (e.b 16 8) <;> simp

end

/-- Settles O39: each command takes the branch that its conditions name. PAGE_STEP looks for a poisoned summary in the
state that it starts from, which shows the poison that the state after its reads does. -/
theorem sequencesPlansAndMoves : Obligations.SequencesPlansAndMoves := by
  refine ⟨fun s i slot e m pa plan x he hst hm => ?_, fun s i q l h n k m p pool v hst hm => ?_⟩
  · intro q roomFor r es
    have hcmd {op : Nat} {named : List (Nat × Nat)} (hop : e.op = op) (hz : e.rsvdZero named = true)
        (f : Entry → State) : s.pageCmd i slot op 3 named f = done (f e) := State.pageCmd_eq he hop hz hst f
    refine ⟨fun hop hz => ?_, fun hop hz => ?_, fun hop hz hcyc hcyc' hva hpa hclean => ?_, fun hop hz => ?_,
      fun hop hz hidle hlen hva hpa => ?_, fun hx hleft => ?_⟩
    · -- SEQ_OPEN
      have hopen : exec (.seqOpen i slot) s = _ := hcmd hop hz _
      simp only [hm] at hopen
      have hknown (hq : q < m.geo.seqs) := hopen.trans (congrArg done (if_neg (Nat.not_le.2 hq)))
      have hfits (hq) (hroom : roomFor) := (hknown hq).trans (congrArg done (if_neg (Nat.not_lt.2 hroom)))
      exact ⟨fun hq => hopen.trans (congrArg done (if_pos hq)),
        fun hq hfull => (hknown hq).trans (congrArg done (if_pos (Nat.not_le.1 hfull))),
        fun hq hroom htaken => (hfits hq hroom).trans (congrArg done (if_pos (Option.isSome_iff_ne_none.2 htaken))),
        fun hq hroom hnew => (hfits hq hroom).trans (congrArg done
          (if_neg (Option.isSome_iff_ne_none.not_left.2 hnew)))⟩
    · -- SEQ_CLOSE
      have hclose : exec (.seqClose i slot) s = _ := hcmd hop hz _
      simp only [hm] at hclose
      refine ⟨fun z hopen => ?_, fun hnone => ?_⟩
      · rw [show tfind m.seqs (e.b 0 2) = some z from hopen] at hclose
        exact hclose
      · rw [show tfind m.seqs (e.b 0 2) = none from hnone] at hclose
        exact hclose
    · -- STREAM_START
      intro plan free
      have hstart := streamStart_eq he hst hm hop hz ⟨hcyc, hcyc'⟩ hva hpa hclean
      have hbusy : (m.next.isSome || !s.startOk (e.b 16 8)) = true ↔ ¬ free := by
        simp only [free, Bool.or_eq_true, Option.isSome_iff_ne_none, Bool.not_eq_true', not_and_or, Bool.not_eq_true]
      have hsound (hgood : ∀ x ∈ es, x ≠ none) : ¬ es.any (·.isNone) = true :=
        any_isNone_iff.not.2 fun ⟨x, hx, hnone⟩ => hgood x hx hnone
      exact ⟨fun hbad => hstart.trans (congrArg done (if_pos (any_isNone_iff.2 hbad))),
        fun hgood hheld => hstart.trans (congrArg done ((if_neg (hsound hgood)).trans (if_pos (hbusy.2 hheld)))),
        fun hgood hfree => hstart.trans (congrArg done ((if_neg (hsound hgood)).trans
          (if_neg (hbusy.not_left.2 hfree))))⟩
    · -- STREAM_STOP
      have hstop : exec (.streamStop i slot) s = _ := hcmd hop hz _
      simpa only [hm] using hstop
    · -- RESHARD_RUN
      have hrun := reshardRun_eq he hst hm hop hz hidle hlen hva hpa
      exact ⟨fun hok => hrun.trans (congrArg done (if_pos hok)),
        fun hlate => hrun.trans (congrArg done (if_neg (Bool.eq_false_iff.1 hlate)))⟩
    · -- RESHARD_PLAN_COMPLETE
      intro st
      change execReshardPlanComplete i s = _
      simp only [execReshardPlanComplete, hm, hx, hleft, if_true]
      rfl
  · refine ⟨fun g desc d hd hon hrole hown hcq hcount hinst hkind hasid => ?_,
      fun g desc d b hd hon hrole hown hcq hcount hinst hkind hasid => ?_, fun hq hl hh => ?_,
      fun hage hlow hcold hfar => ?_, fun hp hage hdue hfar hstill => ?_, fun hp hv => ?_⟩
    · -- PAGE_STEP of a record that cannot be read
      intro rd st hrd u
      have hstep : s.stepsOn i q g desc m d := ⟨hd, hon, hrole, hown, hcq, hcount, hinst, hkind, hasid⟩
      have hserve := pageStep_eq hst hm hstep (State.stepRecord_of_error hrd) rfl
      rwa [State.pageStep_none] at hserve
    · -- PAGE_STEP of a record that appends nothing
      intro rd hrd happ hgood r
      have hstep : s.stepsOn i q g desc m d := ⟨hd, hon, hrole, hown, hcq, hcount, hinst, hkind, hasid⟩
      have hsame : s.poisonAs rd.1 := ((State.poisonAs.refl s).cqTake (State.cqOwner_lt hrole hown)).readVa ..
      have hclean : s.badSummary m (leAt b 0 2) (leAt b 2 2) = false := (hsame.badSummary ..).symm.trans hgood
      have hserve := pageStep_eq hst hm hstep (State.stepRecord_of_no_append hrd happ) (Option.any_some.trans hclean)
      exact hserve
    · -- PAGE_RESERVE_REFILL
      change execPageReserveRefill i q l h s = _
      simp only [execPageReserveRefill, hm]
      exact if_pos (by simp [hst, hl, hh, Option.isSome_iff_ne_none, hq])
    · -- PAGE_DEMOTION
      intro r
      change execPageDemotion i s = _
      obtain ⟨rest, hrest⟩ := List.head?_eq_some_iff.1 hcold
      simp only [execPageDemotion, hm, hrest, hfar]
      exact if_pos (by simp [hst, bit, hage, hlow])
    · -- PAGE_PROMOTION
      intro m0
      have hcond : (decide (s.modelState i = 3) && bit s.page.ageCfg 31 && m.due.contains p.entry &&
          decide ((s.hdr m p.entry).state = 3) && !(m.moves.any fun v => v.entry == p.entry)) = true := by
        simp only [hst, bit, hage, hfar, hdue, decide_true, Bool.and_self, Bool.true_and, Bool.not_eq_true',
          List.any_eq_false, beq_iff_eq]
        exact hstill
      refine ⟨fun htake => ?_, fun htake hlow => ?_, fun htake hlow => ?_⟩
      all_goals
        change execPagePromotion i q l h n s = _
        simp only [execPagePromotion, hm, hp, htake]
        refine (if_pos hcond).trans ?_
      · rfl
      · exact if_pos hlow
      · exact if_neg (Bool.eq_false_iff.1 hlow)
    · -- PAGE_MOVE_SWITCH
      change execPageMoveSwitch i q l h n s = _
      simp only [execPageMoveSwitch, hm, hp, Option.bind_some, hv]

end Sys2Proof.Machine

/-! ### Queue pairs and regions (10_transport.md R341 to R347, R370 to R372) -/

namespace Sys2Proof.Machine
open Sys2Proof

theorem State.qpnFault_eq_zero {s : State} {i n : Nat} {need : Bool} (hn : n < 2 ^ 20) (hi : s.qpInst n = i)
    (hqp : need = true → (s.qp? n).isSome = true) : s.qpnFault i n need = 0 := by
  have hknown : ¬ (need && (s.qp? n).isNone) = true := by
    cases need <;> simp_all [Option.isSome_iff_ne_none]
  exact (if_neg (Nat.not_le.2 hn)).trans ((if_neg (by simp [hi])).trans (if_neg hknown))

/-- Every state but QPS_RESET moves to QPS_RESET (Table 10.2). -/
theorem mem_qpMoves_reset {st : Nat} : (st, 0) ∈ qpMoves ↔ 1 ≤ st ∧ st ≤ 5 := by
  simp [qpMoves]
  omega

/-- Every state between QPS_RESET and QPS_ERROR moves to QPS_ERROR (Table 10.2). -/
theorem mem_qpMoves_error {st : Nat} : (st, 5) ∈ qpMoves ↔ 1 ≤ st ∧ st ≤ 4 := by
  simp [qpMoves]
  omega

section
variable {s : State} {i slot : Nat} {e : Entry}

/-- QP_CREATE with attributes that are in range (R342, Table 14.8). -/
theorem qpCreate_eq (he : s.entry? i 0 slot = some e) (hop : e.op = 0x20)
    (hz : e.rsvdZero [(0, 4), (4, 2), (6, 2), (8, 4)] = true) (hn : e.b 0 4 < 2 ^ 20) (hi : s.qpInst (e.b 0 4) = i)
    (hasid : s.asidOk i (e.b 4 2) = true) (hq : 1 ≤ e.b 6 2) (hq' : e.b 6 2 < 4096)
    (hnq : e.b 8 4 < 4096 ∨ (65536 ≤ e.b 8 4 ∧ e.b 8 4 < 2 ^ 17 ∧ s.cqOwner (e.b 8 4 % 65536) = i)) :
    exec (.qpCreate i slot) s = done (
      if (s.qp? (e.b 0 4)).isSome then s.adminEnd i slot stBUSY
      else (s.setQp (e.b 0 4) { asid := e.b 4 2, sendQ := e.b 6 2, notifyQ := e.b 8 4 }).adminEnd i slot stOK) := by
  have ha : e.b 4 2 < 4096 := by
    simp only [State.asidOk, Bool.and_eq_true, decide_eq_true_eq] at hasid
    exact hasid.1.1
  refine (State.adminCmd_eq he hop _).trans (congrArg done ((if_neg ?_).trans ((if_neg ?_).trans (if_neg ?_))))
  · simp [hz]
    omega
  · simp [State.qpnFault_eq_zero hn hi]
  · rcases hnq with hnq | ⟨-, -, hown⟩
    · simp [hasid]
      omega
    · simp [hasid, hown]

/-- WORK_REQUEST of the next well-formed entry of the send queue of a queue pair in no group (R343, R347). -/
theorem workRequest_eq {q : Nat} {x : Qp} {r : Req} (he : s.entry? i q slot = some e) (hop : e.op = 0x41)
    (hn : e.b 0 4 < 2 ^ 20) (hi : s.qpInst (e.b 0 4) = i) (hx : s.qp? (e.b 0 4) = some x)
    (hwork : parseWork q slot e = some r) (hrva : r.rva < 2 ^ 57) (hlva : r.flags.testBit 2 = true ∨ r.lva < 2 ^ 57)
    (hq : x.sendQ = q) (hnext : s.nextWork i q (e.b 0 4) x = some slot) (hgroup : x.group = none) :
    exec (.workRequest i q slot) s =
      if x.state = 5 then done ((s.setQp (e.b 0 4) { x with lastStatus := stFLUSHED }).complete i q slot stFLUSHED 0)
      else if x.state = 3 then done ((s.setQp (e.b 0 4) (x.gets s.time { x with reqs := x.reqs ++ [r] })).traceQp 1
        (e.b 0 4) r 0)
      else done s := by
  have hva : ¬ (decide (2 ^ 57 ≤ r.rva) || !bit r.flags 2 && decide (2 ^ 57 ≤ r.lva)) = true := by
    rcases hlva with hinl | hlva
    · simpa [bit, hinl] using hrva
    · simpa using ⟨hrva, fun _ => hlva⟩
  change execWorkRequest i q slot s = _
  simp only [execWorkRequest, he, hwork, State.qpnFault_eq_zero hn hi fun _ => hx ▸ rfl, hx]
  exact (if_neg (by simp [hop])).trans ((if_neg (by simp)).trans ((if_neg hva).trans
    ((if_neg (by simp [hq])).trans (if_neg (by simp [hnext, hgroup])))))

/-- REGION_REGISTER with operands that are in range, where an index is FREE (R370). -/
theorem regionRegister_eq {k : Nat} (he : s.entry? i 0 slot = some e) (hop : e.op = 0x24)
    (hz : e.rsvdZero [(0, 2), (2, 1), (4, 4), (8, 8), (16, 8)] = true) (hperm : e.b 2 1 < 4) (hten : e.b 4 4 < 2 ^ 20)
    (hlen : 1 ≤ e.b 16 8) (hlen' : e.b 16 8 ≤ 2 ^ 56) (hbase : e.b 8 8 < 2 ^ 57) (hasid : s.asidOk i (e.b 0 2) = true)
    (hfree : s.freeRegion i (s.qp.regions.length + 1) 0 = some k) :
    exec (.regionRegister i slot) s = done ((s.setRegion i k { s.region i k with
      state := 1, asid := e.b 0 2, base := e.b 8 8, len := e.b 16 8, rd := (e.b 2 1).testBit 0, wr := (e.b 2 1).testBit 1
      tenant := e.b 4 4 }).adminEnd i slot stOK (k * 256 + (s.region i k).epoch)) := by
  refine (State.adminCmd_eq he hop _).trans (congrArg done ((if_neg ?_).trans ((if_neg ?_).trans ?_)))
  · simp [hz]
    omega
  · simpa [hasid] using hbase
  · simp only [hfree]
    rfl

/-- REGION_REVOKE of a key whose epoch is that of its index (R370, R371). -/
theorem regionRevoke_eq {k : Nat} {r : Region} (he : s.entry? i 0 slot = some e) (hop : e.op = 0x25)
    (hz : e.rsvdZero [(0, 4)] = true) (hk : e.b 0 4 / 256 = k) (hshare : k < s.regionShare) (hr : s.region i k = r)
    (hepoch : r.epoch = e.b 0 4 % 256) :
    exec (.regionRevoke i slot) s = done (
      if r.state = 2 ∧ r.slot = slot then s
      else if r.state = 0 ∨ r.state = 3 then s.adminEnd i slot stACCESS
      else if r.state = 2 then s.adminEnd i slot stBUSY
      else s.setRegion i k { r with state := 2, slot := slot }) := by
  subst hk hr
  refine (State.adminCmd_eq he hop _).trans (congrArg done ((if_neg (by simp [hz])).trans ?_))
  simp [hshare.not_ge, hepoch]

/-- REGION_REVOKE_COMPLETE of a revocation under way with nothing in flight (R371, R372). -/
theorem regionRevokeComplete_eq {key : Nat} {w : Region} (hfind : s.qp.regions.find? (fun p =>
      p.1 / 2 ^ 24 == i && p.2.state == 2 && p.2.slot == slot && p.2.inflight == 0) = some (key, w)) :
    exec (.regionRevokeComplete i slot) s = done (State.adminEnd (State.raise (
      if w.epoch = 255 then (s.setRegion i (key % 2 ^ 24) { state := 3, epoch := 255 }).raise QP_EVENT_INDEX_RETIRED
      else s.setRegion i (key % 2 ^ 24) { epoch := w.epoch + 1 }) QP_EVENT_REVOKE_DONE) i slot stOK) := by
  change execRegionRevokeComplete i slot s = _
  simp only [execRegionRevokeComplete, hfind]

end

/-- Settles O40: each command passes its checks in order and takes the branch that its conditions name; a QP_MODIFY that
Table 10.2 admits (`hmove`) makes the move that the two states name. -/
theorem queuePairsAndRegions : Obligations.QueuePairsAndRegions := by
  intro s i q slot e x work cmd n mine nq k r
  have hfault (hmine : mine) (hx : s.qp? n = some x) : ¬ (s.qpnFault i n true != 0) = true := by
    simp [State.qpnFault_eq_zero hmine.1 hmine.2, hx]
  refine ⟨fun ⟨he, hop, hz⟩ ⟨hn, hi⟩ hasid hq hq' hnq => ?_, fun ⟨he, hop, hz⟩ hmine hx => ?_,
    fun ⟨he, hop, hz⟩ hmine hx => ?_, fun ⟨he, hop, hz⟩ hmine hx => ?_,
    fun he hop ⟨hn, hi⟩ hx hwork hrva hlva hq hnext hgroup => ?_,
    fun f ⟨he, hop, hz⟩ => regionRegister_eq he hop hz, fun ⟨he, hop, hz⟩ hk hepoch => ?_,
    fun key w hfind => ?_, fun ⟨he, hop, hz⟩ hk => ?_⟩
  · -- QP_CREATE
    have hcreate := qpCreate_eq he hop hz hn hi hasid hq hq' hnq
    exact ⟨fun hnew => hcreate.trans (congrArg done (if_neg (Option.not_isSome_iff_eq_none.2 hnew))),
      fun hused => hcreate.trans (congrArg done (if_pos (Option.isSome_of_eq_some hused)))⟩
  · -- QP_MODIFY
    have henter : exec (.qpModify i slot) s = _ := State.adminCmd_eq he hop _
    have hcheck (hto : e.b 4 4 ≤ 5) := henter.trans (congrArg done
      ((if_neg (by simpa [hz] using hto)).trans (if_neg (hfault hmine hx))))
    simp only [show s.qp? (e.b 0 4) = some x from hx] at hcheck
    have hmove (hto : e.b 4 4 ≤ 5) (hin : (x.state, e.b 4 4) ∈ qpMoves) :=
      (hcheck hto).trans (congrArg done (if_neg (by simpa using hin)))
    refine ⟨fun hto hno => (hcheck hto).trans (congrArg done (if_pos (by simpa using hno))),
      fun y hst hto hy => ?_, fun y hst hto hy => ?_, fun hst hto hpsn => ?_, fun hst hto => ?_, fun hst hto => ?_,
      fun hst hst' hto => ?_, fun hst hst' hto hgroup => ?_⟩
    all_goals rw [hto] at hmove
    · rw [hst] at hmove
      simpa only [hy] using hmove (by decide) (by decide)
    · rw [hst] at hmove
      simpa only [hy] using hmove (by decide) (by decide)
    · rw [hst] at hmove
      exact (hmove (by decide) (by decide)).trans (congrArg done (if_neg (Nat.not_le.2 hpsn)))
    · rw [hst] at hmove
      exact hmove (by decide) (by decide)
    · rw [hst] at hmove
      exact hmove (by decide) (by decide)
    · simpa using hmove (by decide) (mem_qpMoves_reset.2 ⟨hst, hst'⟩)
    · simp only [hgroup] at hmove
      exact hmove (by decide) (mem_qpMoves_error.2 ⟨hst, hst'⟩)
  · -- QP_QUERY
    have hquery : exec (.qpQuery i slot false) s = _ := State.adminCmd_eq he hop _
    simp only [show s.qp? (e.b 0 4) = some x from hx] at hquery
    exact hquery.trans (congrArg done ((if_neg (by simp [hz])).trans
      ((if_neg (hfault hmine hx)).trans (if_neg Bool.false_ne_true))))
  · -- QP_DESTROY
    intro u hrest
    have hdestroy : exec (.qpDestroy i slot) s = _ := State.adminCmd_eq he hop _
    refine hdestroy.trans (congrArg done ((if_neg (by simp [hz])).trans ((if_neg (hfault hmine hx)).trans ?_)))
    simp only [show ((State.qp? (s.qpReset (e.b 0 4) stFLUSHED) (e.b 0 4)).getD {}).placing = [] from hrest]
    rfl
  · -- WORK_REQUEST
    have htake := workRequest_eq he hop hn hi hx hwork hrva hlva hq hnext hgroup
    exact ⟨fun hst => htake.trans ((if_neg (by simp [hst])).trans (if_pos hst)), fun hst => htake.trans (if_pos hst)⟩
  · -- REGION_REVOKE
    have hrevoke := regionRevoke_eq (k := k) (r := r) he hop hz rfl hk rfl hepoch
    refine ⟨fun hst => ?_, fun hst hslot => ?_, fun hst => ?_⟩
    · simpa [hst] using hrevoke
    · simpa [hst, hslot] using hrevoke
    · rcases hst with hst | hst <;> simpa [hst] using hrevoke
  · -- REGION_REVOKE_COMPLETE
    have hend := regionRevokeComplete_eq hfind
    exact ⟨fun hnext => by rw [hend, if_neg hnext], fun hlast => by rw [hend, if_pos hlast]⟩
  · -- REGION_QUERY
    have hquery : exec (.regionQuery i slot false) s = _ := State.adminCmd_eq he hop _
    exact hquery.trans (congrArg done ((if_neg (by simpa [hz] using hk)).trans (if_neg Bool.false_ne_true)))

end Sys2Proof.Machine

/-! ### Packets of a queue pair (10_transport.md R353 to R366, 11_weft_and_congestion.md R376 to R391) -/

namespace Sys2Proof.Machine
open Sys2Proof

/-- What PLACEMENT_VISIBLE removes is one element. -/
theorem length_dropFirst {α : Type} {c : α → Bool} {l : List α} (h : ∃ a ∈ l, c a = true) :
    (execPlacementVisible.dropFirst c l).length + 1 = l.length := by
  induction l with
  | nil => simp at h
  | cons y ys ih =>
    by_cases hy : c y = true
    · simp [execPlacementVisible.dropFirst, hy]
    · have hys : ∃ a ∈ ys, c a = true := by simpa [hy] using h
      simpa [execPlacementVisible.dropFirst, hy] using ih hys

/-! Receiving a packet takes no time: what each operation on the way leaves of the clock. -/

@[simp] theorem State.countTx_time (s : State) (p n : Nat) (mcast : Bool) : (s.countTx p n mcast).time = s.time := by
  unfold State.countTx
  dsimp only
  split
  · rfl
  · split <;> rfl

@[simp] theorem State.lpiExit_time (s : State) (p : Nat) : (s.lpiExit p).time = s.time := by
  unfold State.lpiExit
  split <;> rfl

theorem State.sendXoff_time (s : State) (p mode mask t : Nat) : (s.sendXoff p mode mask t).time = s.time := by
  simp only [State.sendXoff, State.raiseIf_time, State.lpiExit_time, State.stat, State.bump_time, State.countTx_time]
  rfl

theorem State.flowControl_time (s : State) (p : Nat) : (s.flowControl p).time = s.time := by
  unfold State.flowControl
  dsimp only
  repeat' split
  all_goals simp only [State.put_time, State.sendXoff_time]

@[simp] theorem State.srbFree_time (s : State) (id : Nat) : (s.srbFree id).time = s.time := by
  unfold State.srbFree
  split
  · rfl
  · simp only [State.cageFlow, State.flowControl_time]
    rfl

theorem State.pushOwn_time (s : State) (n : Nat) (x : Qp) (path : Nat) (p : TPkt) :
    (s.pushOwn n x path p).time = s.time := by
  unfold State.pushOwn
  dsimp only
  split <;> rfl

@[simp] theorem State.sendCtl_time (s : State) (n : Nat) (p : TPkt) : (s.sendCtl n p).time = s.time := by
  unfold State.sendCtl
  split
  · rfl
  · split
    · exact State.pushOwn_time ..
    · rfl

@[simp] theorem State.sendNak_time (s : State) (n code : Nat) (p : TPkt) : (s.sendNak n code p).time = s.time := by
  unfold State.sendNak
  split
  · rfl
  · rw [State.sendCtl_time]
    repeat' split
    all_goals simp only [State.raise_time, State.bump_time]

theorem State.logRx_time (s : State) (n st : Nat) (p : TPkt) : (s.logRx n st p).time = s.time := by
  rw [State.logRx, State.setReg_time]

@[simp] theorem State.encCheck_time (s : State) (n c : Nat) (p : TPkt) : (s.encCheck n c p).1.time = s.time := by
  unfold State.encCheck
  dsimp only
  repeat' split
  all_goals simp only [State.logRx_time, State.raise_time, State.bump_time]

@[simp] theorem State.mark_time (s : State) (q : Nat) (ect : Bool) : (s.mark q ect).1.time = s.time := by
  unfold State.mark
  dsimp only
  repeat' split
  all_goals simp only [State.bump_time, State.tick_time]

@[simp] theorem State.ceCount_time (s : State) (n path : Nat) (ce : Bool) (p : TPkt) :
    (s.ceCount n path ce p).time = s.time := by
  unfold State.ceCount
  dsimp only
  split
  · rfl
  · split
    · rfl
    · split
      · rfl
      · exact State.sendCtl_time ..

@[simp] theorem State.rxChecks_time (s : State) (k : SrbPkt) (p : TPkt) : (s.rxChecks k p).1.time = s.time := by
  unfold State.rxChecks
  dsimp only
  repeat' split
  all_goals simp only [State.srbFree_time, State.sendNak_time, State.ceCount_time, State.mark_time, State.encCheck_time,
    State.raise_time, State.bump_time]

theorem State.rxAnswer_time (s : State) (id op : Nat) : (s.rxAnswer id op).1.time = s.time := by
  unfold State.rxAnswer
  dsimp only
  repeat' split
  all_goals simp only [State.bump_time, State.srbFree_time, State.rxChecks_time]

/-- Settles O41: each packet takes the branch that its checks name, and each release or start that of the queues it finds;
RESUME_RECEIVE reads the clock before its checks, which leave it (`State.rxAnswer_time`). -/
theorem weftPackets : Obligations.WeftPackets := by
  intro s u id n psn k p p0 x before arrives answers dup
  refine ⟨fun ⟨hrx, hchk, hx, _⟩ hst hpsn => ?_, fun hx hfind hst href => ?_, fun w hx hfind => ?_,
    fun hx howed => ?_, fun r l hx howed => ?_, fun ⟨hrx, hchk, hx, _⟩ hst hearly hpsn href => ?_,
    fun ⟨hrx, hchk, hx, _⟩ hpsn hdup => ?_,
    fun r l v ⟨hrx, hchk, hx, _⟩ hpsn hnew hr hread hlen hwait hpieces => ?_, fun y ⟨hans, _⟩ hy => ?_,
    fun y ⟨hans, _⟩ hy => ?_, fun ⟨hans, hx⟩ hwait => ?_, fun ⟨hans, hx⟩ => ?_,
    fun c rest path hx hctl hpath => ?_,
    fun hx hctl hdue hcipher hresp hst hloc hretx => ?_, fun port room spent vc h hup hpinch hvc hhead => ?_⟩
  · -- WRITE_PACKET_RECEIVE
    have hrun : exec (.writePacketReceive id) s = execWritePacketReceive id s := rfl
    simp only [execWritePacketReceive, hrx, hchk, hx, hpsn] at hrun
    replace hrun := hrun.trans (if_neg (Bool.eq_false_iff.1 hst))
    have hdup : (before || x.got.contains psn || (x.placing.any fun q => q.psn == psn && q.live) ||
        x.fenced.any (·.2.1 == psn)) = true ↔ dup := by
      simp only [dup, Bool.or_eq_true, or_assoc]
    have hfresh (h : ¬ dup) := hrun.trans (if_neg (hdup.not.2 h))
    have hkept (h : ¬ dup) (href : x.isRefused psn = false) := (hfresh h).trans (if_neg (Bool.eq_false_iff.1 href))
    exact ⟨fun h => hrun.trans (if_pos (hdup.2 h)), fun h href => (hfresh h).trans (if_pos href),
      fun h href hfence => (hkept h href).trans (if_pos hfence),
      fun h href hfence => (hkept h href).trans (if_neg (Bool.eq_false_iff.1 hfence))⟩
  · -- FENCE_LAST_PLACE
    change execFenceLastPlace n s = _
    simp only [execFenceLastPlace, hx, hfind]
    exact (if_neg (Bool.eq_false_iff.1 hst)).trans (if_neg (Bool.eq_false_iff.1 href))
  · -- PLACEMENT_VISIBLE
    have hrun : exec (.placementVisible n psn) s = execPlacementVisible n psn s := rfl
    simp only [execPlacementVisible, hx, hfind] at hrun
    refine ⟨_, length_dropFirst (c := fun v => v == w) ⟨w, List.mem_of_find?_eq_some hfind, beq_self_eq_true w⟩, ?_⟩
    intro v r v1 x0 x1 x2 acks
    have hnow : (decide (max 1 (s.get QP_ACK_CFG_ACK_EVERY) ≤ x2.ackNew) || bit w.pkt.flags 1 || bit w.pkt.flags 4 ||
        (x1.hasGap && !x.gap)) = true ↔ acks := by
      simp [acks, x2, bit, or_assoc]
    refine ⟨fun h => hrun.trans (if_pos (by simp [h])), fun h ha => ?_, fun h ha => ?_⟩
    all_goals refine hrun.trans ((if_neg (by simp [h])).trans (congrArg done ?_))
    · exact if_pos (hnow.2 ha)
    · exact if_neg (hnow.not.2 ha)
  · -- ACK_DELAY_EXPIRY
    change execAckDelayExpiry n s = _
    simp only [execAckDelayExpiry, hx]
    exact if_pos howed
  · -- IMMEDIATE_NOTIFICATION
    intro y
    have hrun : exec (.immediateNotification n) s = execImmediateNotification n s := rfl
    simp only [execImmediateNotification, hx, howed] at hrun
    refine ⟨fun hq hon hroom => (hrun.trans (if_pos hq)).trans (if_neg (by simp [hon, hroom])), fun hq => ?_⟩
    have h := hrun.trans (if_neg (Nat.not_le.2 hq))
    rw [Nat.mod_eq_of_lt hq] at h
    exact h
  · -- READ_REQ_RECEIVE
    change execReadReqReceive id s = _
    simp only [execReadReqReceive, hrx, hchk, hx, hpsn]
    refine (if_neg ?_).trans (if_neg (Bool.eq_false_iff.1 href))
    rw [hst, Bool.false_or]
    cases hq : s.qp? p0.dst with
    | none => exact Bool.false_ne_true
    | some y =>
      cases hfrom : psnFrom y.cum y.win p0 with
      | none => simp only [hfrom, Bool.false_eq_true, not_false_iff]
      | some ab =>
        have hready := hearly y ab.1 ab.2 hq hfrom
        simp only [hfrom, Bool.and_eq_true, Bool.not_eq_true', bne_iff_ne, decide_eq_true_eq]
        grind
  · -- READ_RESP_RECEIVE of a response that is not awaited
    change execReadRespReceive id s = _
    simp only [execReadRespReceive, hrx, hchk, hx, hpsn]
    exact if_pos (by simpa using hdup)
  · -- READ_RESP_RECEIVE
    change execReadRespReceive id s = _
    simp only [execReadRespReceive, hrx, hchk, hx, hpsn, hr]
    refine (if_neg (by simpa using hnew)).trans ((if_neg (by simp [hread, hlen])).trans
      ((if_neg (by simp [hwait])).trans ?_))
    rw [← hlen, hpieces]
  · -- ACK_RECEIVE
    change execAckReceive id s = _
    simp only [execAckReceive, hans, hy]
  · -- NAK_RECEIVE
    intro v q
    have hrun : exec (.nakReceive id) s = execNakReceive id s := rfl
    simp only [execNakReceive, hans, hy] at hrun
    refine ⟨fun hcode => ?_, fun hcode => ?_, fun hcode hlow hhigh hnew hnowait => ?_⟩
    all_goals simp only [hcode] at hrun
    · exact hrun
    · exact hrun
    · refine hrun.trans (if_pos ?_)
      change (decide (y.sndUna ≤ q) && decide (q < y.sndNxt) && !y.acked.contains q && !y.wait.contains q) = true
      rw [hnew, hnowait, decide_eq_true hlow, decide_eq_true hhigh]
      rfl
  · -- RESUME_RECEIVE
    have htime : u.time = s.time := by rw [← State.rxAnswer_time s id 0x12, hans]
    intro q y
    rw [htime]
    change execResumeReceive id s = _
    simp only [execResumeReceive, hans, hx]
    exact if_pos hwait
  · -- CE_ECHO_RECEIVE
    change execCeEchoReceive id s = _
    simp only [execCeEchoReceive, hans, hx]
  · -- PACER_RELEASE of a packet that is not paced
    change execPacerRelease n s = _
    simp only [execPacerRelease, hx, hctl, hpath]
  · -- PACER_RELEASE of a new packet
    change execPacerRelease n s = _
    simp only [execPacerRelease, hx, hctl, hresp, hretx]
    exact (if_neg (by simp [hcipher, hdue])).trans (if_neg (by rcases hst with hst | hst <;> simp [hst, hloc]))
  · -- WEFT_PACKET_START
    change execWeftPacketStart port room spent s = _
    simp only [execWeftPacketStart, hvc, hhead]
    refine (if_neg (by simp [hup])).trans ((if_neg (by simp [hpinch])).trans ?_)
    cases h.load <;> rfl

end Sys2Proof.Machine

/-! ### Timers and rates of a queue pair (10_transport.md R358 to R366, 11_weft_and_congestion.md R381 to R394) -/

namespace Sys2Proof.Machine
open Sys2Proof

@[simp] theorem State.setQp_mem (s : State) (n : Nat) (x : Qp) : (s.setQp n x).mem = s.mem := rfl

@[simp] theorem State.qp?_setQp (s : State) (n : Nat) (x : Qp) : (s.setQp n x).qp? n = some x :=
  (tfind_tput ..).trans (if_pos rfl)

@[simp] theorem State.qp?_put (s : State) (f : RegFld) (v n : Nat) : (s.put f v).qp? n = s.qp? n := rfl

@[simp] theorem State.qp?_bump (s : State) (f : RegFld) (k n : Nat) : (s.bump f k).qp? n = s.qp? n := rfl

@[simp] theorem State.qp?_raise (s : State) (f : RegFld) (n : Nat) : (s.raise f).qp? n = s.qp? n := rfl

theorem State.qp?_ite_raise {c : Prop} [Decidable c] (s : State) (f g : RegFld) (n : Nat) :
    (if c then (s.bump f).raise g else s).qp? n = s.qp? n := by
  split <;> rfl

theorem State.mem_ite_raise {c : Prop} [Decidable c] (s : State) (f g : RegFld) :
    (if c then (s.bump f).raise g else s).mem = s.mem := by
  split <;> rfl

/-- A packet that waits raises the release time and nothing else (R386). -/
theorem Qp.gets_eq (x : Qp) (now : Nat) (y : Qp) : x.gets now y = { y with release := (x.gets now y).release } := by
  unfold Qp.gets
  split <;> rfl

/-! The rate (R387 to R389). -/

/-- The rate that is set for `r`: held to the floor and to R_MAX. -/
def State.heldRate (s : State) (r : Nat) : Nat := max s.rateMin (min r rateMax)

theorem State.setRate_snd (s : State) (x : Qp) (r : Nat) : (s.setRate x r).2 = { x with rate := s.heldRate r } := rfl

theorem State.setRate_fst_mem (s : State) (x : Qp) (r : Nat) : (s.setRate x r).1.mem = s.mem := State.raiseIf_mem ..

theorem State.qp?_cutRate (s : State) (n : Nat) (x : Qp) (r : Nat) :
    (s.cutRate n x r).qp? n = some { x with rate := s.heldRate r } := by
  unfold State.cutRate
  dsimp only
  split <;> simp only [State.qp?_bump, State.qp?_setQp, State.setRate_snd]

@[simp] theorem State.cutRate_mem (s : State) (n : Nat) (x : Qp) (r : Nat) : (s.cutRate n x r).mem = s.mem := by
  unfold State.cutRate
  dsimp only
  split <;> simp only [State.bump_mem, State.setQp_mem, State.setRate_fst_mem]

theorem State.rateMin_le_heldRate (s : State) (r : Nat) : s.rateMin ≤ s.heldRate r := le_max_left ..

theorem State.heldRate_le (s : State) (r : Nat) : s.heldRate r ≤ max s.rateMin rateMax :=
  max_le_max_left _ (min_le_right ..)

/-- A rate cut by a factor (d - k) / d stays at or below the rate, or at the floor. -/
theorem State.heldRate_cut_le (s : State) (r d k : Nat) : s.heldRate (r * (d - k) / d) ≤ max s.rateMin r := by
  have hcut : r * (d - k) / d ≤ r :=
    Nat.div_le_of_le_mul ((Nat.mul_le_mul_left r (Nat.sub_le d k)).trans_eq (Nat.mul_comm r d))
  exact max_le_max_left _ ((min_le_left ..).trans hcut)

/-! Buckets (R381, R384). -/

theorem bucketTokens_w (k : Nat) : (bucketTokens k).w = 32 := by
  unfold bucketTokens
  split <;> rfl

/-- Settles O42: each timer takes the branch that its conditions name; a rate that is set is held to its limits, and
one that is cut stays at or below the rate before it (`State.heldRate_cut_le`). -/
theorem weftTimersAndRates : Obligations.WeftTimersAndRates := by
  intro s n psn path key x hx all
  refine ⟨fun htimer hlive hretry => ?_, fun htimer hlive hretry => ?_, fun hwait => ?_, ?_, fun hecho hzero => ?_,
    fun hecho hmarked => ?_, fun hlow hhigh hinput => ?_, fun hkey hport hclass hs hsorted => ?_⟩
  · -- RETRANSMIT_TIMER_EXPIRY after the last retry
    change execRetransmitTimerExpiry n s = _
    simp only [execRetransmitTimerExpiry, hx]
    exact (if_neg (by simp [htimer, hlive])).trans (if_pos hretry)
  · -- RETRANSMIT_TIMER_EXPIRY
    have hrun : exec (.retransmitTimerExpiry n) s = execRetransmitTimerExpiry n s := rfl
    simp only [execRetransmitTimerExpiry, hx] at hrun
    exact ⟨_, _, hrun.trans ((if_neg (by simp [htimer, hlive])).trans (if_neg hretry.ne)),
      (State.qp?_ite_raise ..).trans ((State.qp?_bump ..).trans ((State.qp?_bump ..).trans (State.qp?_cutRate ..))),
      congrArg Qp.retry (Qp.gets_eq ..), congrArg Qp.rto (Qp.gets_eq ..), congrArg Qp.retx (Qp.gets_eq ..), rfl,
      (State.mem_ite_raise ..).trans ((State.bump_mem ..).trans ((State.bump_mem ..).trans (State.cutRate_mem ..)))⟩
  · -- FAULT_WAIT_PROBE
    change execFaultWaitProbe n psn s = _
    simp only [execFaultWaitProbe, hx]
    exact if_pos hwait
  · -- QUARANTINE_EXPIRY
    change execQuarantineExpiry n path s = _
    simp only [execQuarantineExpiry, hx]
  · -- CE_ECHO_TIMER with nothing to report
    change execCeEchoTimer n s = _
    simp only [execCeEchoTimer, hx]
    exact (if_neg (by simp [hecho])).trans (if_pos hzero)
  · -- CE_ECHO_TIMER
    change execCeEchoTimer n s = _
    simp only [execCeEchoTimer, hx]
    exact (if_neg (by simp [hecho])).trans (if_neg hmarked)
  · -- RATE_UPDATE
    have hrun : exec (.rateUpdate n) s = execRateUpdate n s := rfl
    simp only [execRateUpdate, hx] at hrun
    replace hrun := hrun.trans (if_neg (by simp; omega))
    by_cases hce : x.ceSeen = true
    · exact ⟨_, _, hrun.trans (if_pos hce), State.qp?_cutRate .., State.rateMin_le_heldRate .., State.heldRate_le .., rfl,
        rfl, fun _ => State.heldRate_cut_le .., State.cutRate_mem ..⟩
    · replace hrun := hrun.trans (if_neg hce)
      obtain ⟨l, hl⟩ := Option.ne_none_iff_exists'.1 (hinput.resolve_left hce)
      simp only [hl] at hrun
      by_cases hlate : max 1 (s.get CC_ALGO_CFG_DELAY_TARGET_NS) < l - s.baseRtt x
      · exact ⟨_, _, hrun.trans (if_pos hlate), State.qp?_cutRate .., State.rateMin_le_heldRate .., State.heldRate_le ..,
          rfl, rfl, fun h => absurd h hce, State.cutRate_mem ..⟩
      · exact ⟨_, _, hrun.trans (if_neg hlate), State.qp?_setQp .., State.rateMin_le_heldRate .., State.heldRate_le ..,
          rfl, rfl, fun h => absurd h hce, State.setRate_fst_mem ..⟩
  · -- BUCKET_REFILL
    intro c
    have hrun : exec (.bucketRefill key) s = execBucketRefill key s := rfl
    simp only [execBucketRefill] at hrun
    replace hrun := hrun.trans (if_neg (by simp; omega))
    have hbucket : mget 0 (mset 0 s.net.buckets key c) key = c := (mget_mset 0 hsorted ..).trans (if_pos rfl)
    by_cases hon : c.testBit 48 = true
    · refine ⟨_, hrun.trans (if_neg (by simpa [bit] using hon)), hbucket, fun _ => ?_⟩
      have hfit : min (bits c 16 16) ((if s.bucketOn key = true then
          min (bits c 16 16) (s.get (bucketTokens key)) else bits c 16 16) + bits c 0 16) < 2 ^ (bucketTokens key).w := by
        have := bits_lt c 16 16
        rw [bucketTokens_w]
        omega
      exact (State.get_put hs.csr ..).trans (Nat.mod_eq_of_lt hfit)
    · exact ⟨_, hrun.trans (if_pos (by simpa [bit] using hon)), hbucket, fun h => absurd h hon⟩

end Sys2Proof.Machine

/-! ### Collectives and the pinch path (12_collectives.md R403 to R426) -/

namespace Sys2Proof.Machine
open Sys2Proof

/-! Members of a group (R403). -/

/-- A queue pair that no new group may have: it is not in QPS_RTS, or it is bound to one (R403). -/
def State.cannotJoin (s : State) (q : Nat) : Bool :=
  match s.qp? q with
  | some y => y.state != 3 || y.group.isSome
  | none => true

theorem State.cannotJoin_eq_false_iff {s : State} {q : Nat} :
    s.cannotJoin q = false ↔ ∃ y, s.qp? q = some y ∧ y.state = 3 ∧ y.group = none := by
  unfold State.cannotJoin
  cases s.qp? q <;> simp

/-- COL_GROUP_CREATE finds the group in use, or a member that cannot join (R403). -/
theorem State.groupTaken_iff {s : State} {g : Nat} {qps : List Nat} :
    ((s.group g).state != 0 || qps.any s.cannotJoin) = true ↔
      (s.group g).state ≠ 0 ∨ ¬ ∀ n ∈ qps, ∃ y, s.qp? n = some y ∧ y.state = 3 ∧ y.group = none := by
  have hany : qps.any s.cannotJoin = true ↔ ¬ ∀ n ∈ qps, s.cannotJoin n = false := by simp
  simp only [Bool.or_eq_true, bne_iff_ne, hany, State.cannotJoin_eq_false_iff]

/-! Chunks (R407 to R412). -/

/-- A parked access of a collective of group `g`. -/
def Parked.ofGroup (g : Nat) (p : Parked) : Bool :=
  match p.who with
  | .collective h _ => h == g
  | _ => false

theorem Parked.ofGroup_eq_false {g : Nat} {p : Parked} (h : ∀ n, p.who ≠ .collective g n) : p.ofGroup g = false := by
  unfold Parked.ofGroup
  split
  next k n hwho => exact beq_false_of_ne fun hk => h n (hk ▸ hwho)
  next => rfl

/-! Frames of the pinch path (R421, R425). -/

/-- A frame of the type that the command handles, of an ACTIVE group, is taken and handled (R421). -/
theorem State.pinchRx_eq {s : State} {p typ g : Nat} {b : List Byte} {frames : List (List Byte)}
    (hb : mget [] s.net.vc3 p = b :: frames) (hg : (s.takeVc3 p).pinchGroup b = some g) (htyp : byteAt b 0 = typ)
    (f : State → Nat → List Byte → State) : s.pinchRx p typ f = done (f (s.takeVc3 p) g b) := by
  subst htyp
  simp [State.pinchRx, hb, hg]

theorem dropKept_eq_erase (k : Kept) (l : List Kept) : execPinchReplayTimeout.dropKept k l = l.erase k := by
  induction l with
  | nil => rfl
  | cons y ys ih => simp only [execPinchReplayTimeout.dropKept, List.erase_cons, ih, beq_iff_eq]

/-- Settles O43: each command passes its checks in order and takes the branch that its conditions name; a frame of the
pinch path is handled as its type and its sequence number say (`State.pinchRx_eq`). -/
theorem collectiveCommands : Obligations.CollectiveCommands := by
  intro s i q slot t g id p val e members o rest f m msgs k b frames cmd gn mine x all qps free
  refine ⟨fun ⟨he, hop⟩ hbad hqps hasid hresult => ?_, fun ⟨he, hop⟩ hz hmine => ?_, fun ⟨he, hop⟩ hz hmine => ?_,
    fun he hop hz => ?_, fun hrole htake => ?_, fun data differs hops hon hroom => ?_,
    fun hi hgo => ?_, fun hfind hcls hpost hold harr => ?_, fun hb hg => ?_, fun hfind => ?_,
    fun htime hst => ?_, fun hready => ?_, fun hready => ?_⟩
  · -- COL_GROUP_CREATE
    have hrange : ¬ (qps.any (2 ^ 20 ≤ ·)) = true := by
      simpa using fun n hn => (hqps n hn).1
    have haccess : ¬ (qps.any (fun n => s.qpInst n != i) || !s.asidOk i x.asid ||
        (bit x.deliver 0 && s.cqOwner x.resultQ != i)) = true := by
      simp only [bit, hasid, Bool.or_eq_true, Bool.and_eq_true, bne_iff_ne, List.any_eq_true]
      rintro ((⟨n, hn, hother⟩ | hno) | ⟨hdeliver, hother⟩)
      · exact hother (hqps n hn).2
      · cases hno
      · exact hother (hresult hdeliver)
    have hcreate : exec (.colGroupCreate i slot (some members)) s = _ :=
      (State.adminCmd_eq he hop _).trans (congrArg done ((if_neg (Bool.eq_false_iff.1 hbad)).trans
        ((if_neg hrange).trans (if_neg haccess))))
    exact ⟨fun hst hfree => hcreate.trans (congrArg done (if_neg (State.groupTaken_iff.not.2
        (not_or.2 ⟨not_not.2 hst, not_not.2 hfree⟩)))),
      fun hbusy => hcreate.trans (congrArg done (if_pos (State.groupTaken_iff.2 hbusy)))⟩
  · -- COL_GROUP_RESET
    have hreset : exec (.colGroupReset i slot) s = _ :=
      (State.adminCmd_eq he hop _).trans (congrArg done (if_neg (by simpa [hz] using hmine)))
    exact ⟨fun hst => hreset.trans (congrArg done (if_pos hst)), fun hst => hreset.trans (congrArg done (if_neg hst))⟩
  · -- COL_GROUP_DESTROY
    have hdestroy : exec (.colGroupDestroy i slot) s = _ :=
      (State.adminCmd_eq he hop _).trans (congrArg done (if_neg (by simpa [hz] using hmine)))
    exact ⟨fun hst => hdestroy.trans (congrArg done (if_pos hst)),
      fun hst => hdestroy.trans (congrArg done (if_neg hst))⟩
  · -- COL_RUN
    intro d h hnew
    have hrun : exec (.colRun i q slot) s = execColRun i q slot s := rfl
    simp only [execColRun, he] at hrun
    replace hrun := hrun.trans ((if_neg (by simp [hop])).trans (if_neg (by simpa using hnew)))
    simp only [hz] at hrun
    exact ⟨fun hok => hrun.trans (if_neg (by simpa using hok)), fun hbad => hrun.trans (if_pos (by simpa using hbad))⟩
  · -- TILE_COL_RUN
    intro u d h hok
    change execTileColRun t s = _
    simp only [execTileColRun, htake]
    exact (if_neg (by simp [hrole])).trans (if_pos hok)
  · -- COL_CHUNK_SIGNAL
    have hrun : exec (.colChunkSignal g t data differs) s = execColChunkSignal g t data differs s := rfl
    simp only [execColChunkSignal, hops] at hrun
    replace hrun := hrun.trans (if_neg (by simp [hroom]))
    refine ⟨fun hdue => ?_, fun hdue hdiff => ?_, fun u cvt hdue hdiff hfree => ?_⟩
    · simpa [hdue, hon] using hrun
    · simpa [hdue, hdiff] using hrun
    · intro total n htotal hmove
      have hnone : ¬ s.xlt.parked.any (Parked.ofGroup g) = true := by
        simpa using fun w hw => Parked.ofGroup_eq_false (hfree w hw)
      replace hrun := hrun.trans ((if_neg (by simp [hdue])).trans ((if_neg (by simp [hdiff])).trans
        ((if_neg (by simp [hon])).trans ((if_neg hnone).trans (if_neg htotal.ne')))))
      simp only [total, n] at hmove
      simpa only [hmove] using hrun
  · -- PINCH_HOST_POST
    intro r
    have hrun : exec (.pinchHostPost i val) s = _ := if_neg (by simp [hi, bit, hgo])
    exact ⟨fun hok => hrun.trans (congrArg done (if_pos hok)), fun hbad => hrun.trans (congrArg done (if_neg hbad))⟩
  · -- PINCH_TILE_POST
    intro r hroom
    change execPinchTilePost id s = _
    simp only [execPinchTilePost, hfind]
    exact (if_neg (by simp [hcls, hpost, hold, harr])).trans (if_neg hroom)
  · -- Frames of the pinch path
    intro u y n back
    have harrive (htyp : byteAt b 0 = 1) : execPinchArriveReceive p s = _ := State.pinchRx_eq hb hg htyp _
    have hrelease (htyp : byteAt b 0 = 2) : execPinchReleaseReceive p s = _ := State.pinchRx_eq hb hg htyp _
    have hack (htyp : byteAt b 0 = 3) : execPinchAckReceive p s = _ := State.pinchRx_eq hb hg htyp _
    refine ⟨fun htyp hchild hseq => ?_, fun htyp hchild hseq hnext => ?_, fun htyp hout => ?_,
      fun htyp hpar hseq => ?_, fun htyp hpar hseq hlow hhigh => ?_, hack⟩
    · exact (harrive htyp).trans (congrArg done ((if_neg (by simpa using hchild)).trans (if_pos hseq)))
    · exact (harrive htyp).trans (congrArg done ((if_neg (by simpa using hchild)).trans
        ((if_neg hseq).trans (if_pos hnext))))
    · refine (harrive htyp).trans (congrArg done ?_)
      rcases hout with hchild | ⟨hseq, hnext⟩
      · exact if_pos (by simpa using hchild)
      · exact ite_eq_left_iff.2 fun _ => (if_neg hseq).trans (if_neg hnext)
    · exact (hrelease htyp).trans (congrArg done ((if_neg (by simpa using hpar)).trans (if_pos hseq)))
    · exact (hrelease htyp).trans (congrArg done ((if_neg (by simpa using hpar)).trans
        ((if_neg hseq).trans (if_pos (by simpa using ⟨hlow, hhigh⟩)))))
  · -- PINCH_REPLAY_TIMEOUT
    have hrun : exec (.pinchReplayTimeout p g) s = execPinchReplayTimeout p g s := rfl
    simp only [execPinchReplayTimeout, hfind, dropKept_eq_erase] at hrun
    have hlen := List.length_erase_add_one (List.mem_of_find?_eq_some hfind)
    exact ⟨fun hlast => ⟨_, hlen, hrun.trans (if_pos hlast)⟩,
      fun hmore => ⟨_, hlen, hrun.trans (if_neg (Nat.not_le.2 hmore))⟩⟩
  · -- PINCH_OP_TIMEOUT
    exact if_neg (by simp [htime, hst])
  · -- PINCH_FRAME_SEND of a frame whose port has a token
    exact congrArg done (if_pos hready)
  · -- PINCH_FRAME_SEND without one
    exact congrArg done (if_neg (Bool.eq_false_iff.1 hready))

end Sys2Proof.Machine

/-! ### Zero fill (15_instances_mailboxes.md R500, R502) -/

namespace Sys2Proof.Machine
open Sys2Proof

/-- Whether a zero fill of `i` empties address `a`: it lies in a memory range of `i` and is not kept. -/
def State.zeroed (s : State) (i a : Nat) : Bool :=
  (inside (s.nearRange i) a 1 || inside (s.farRange i) a 1) && !((s.keptRanges i).any fun r => inside r a 1)

theorem State.zeroed_iff (s : State) (i a : Nat) : s.zeroed i a = true ↔
    (inside (s.nearRange i) a 1 = true ∨ inside (s.farRange i) a 1 = true) ∧
      ∀ r ∈ s.keptRanges i, inside r a 1 = false := by
  simp [State.zeroed]

theorem State.zeroFill_eq (s : State) (i : Nat) : s.zeroFill i = { s with
    mem := s.mem.filter fun c => !s.zeroed i c.1
    poison := s.poison.filter fun p => !s.zeroed i (p.1 * 64) } := rfl

theorem State.byte_zeroFill (s : State) (i a : Nat) :
    (s.zeroFill i).byte a = if s.zeroed i a then 0 else s.byte a := by
  rw [State.zeroFill_eq]
  refine (State.byte_filter s (fun a => !s.zeroed i a) a).trans ?_
  cases s.zeroed i a <;> rfl

theorem State.poison_zeroFill (s : State) (i l : Nat) :
    mget false (s.zeroFill i).poison l = if s.zeroed i (l * 64) then false else mget false s.poison l := by
  rw [State.zeroFill_eq, mget, tfind_filter_key fun l => !s.zeroed i (l * 64)]
  cases s.zeroed i (l * 64) <;> rfl

/-- Settles O51: a zero fill filters memory and the poison marks by `State.zeroed`. -/
theorem zeroFillClears : Obligations.ZeroFillClears := by
  intro s i a hs mine
  have hmine : s.zeroed i a = true ↔ mine := State.zeroed_iff s i a
  refine ⟨fun h => ?_, fun h hline => ?_, fun h => ?_, State.zeroFill_sound hs i⟩
  · rw [State.byte_zeroFill, if_pos (hmine.2 h)]
  · rw [State.poison_zeroFill, if_pos (by rw [Nat.div_mul_cancel (Nat.dvd_of_mod_eq_zero hline)]; exact hmine.2 h)]
  · rw [State.byte_zeroFill, if_neg (hmine.not.2 h)]

end Sys2Proof.Machine

/-! ### Zeroization and tamper (16_security.md R531) -/

namespace Sys2Proof.Machine
open Sys2Proof

/-- A card whose tile 0 is a MANAGER tile, and where a value waits for a register of the tamper log. No command lists such
a register under `later`; but `State.Sound`, all that the statement asks, says nothing of `later`. -/
def staleTamperLog : State := { State.reset.put (TILE_ROLE_ROLE 0) 1 with later := [(SEC_TAMPER_LOG 0 0, 1)] }

theorem staleTamperLog_sound : staleTamperLog.Sound :=
  (State.put_sound State.reset_sound (TILE_ROLE_ROLE 0) 1).upd rfl rfl rfl rfl

/-- Refutes O54, by its clause that SEC_TAMPER_CLEAR changes the registers alone: emptying the log also drops what waits
for its registers under `later`, of which `staleTamperLog` has one. The clause wants `later` beside `csr`, or the
hypothesis that `later` lists only settings that wait for the wall (`wallReg`). -/
theorem not_zeroizationAndTamper : ¬ Obligations.ZeroizationAndTamper := by
  intro h
  obtain ⟨-, -, -, -, -, -, -, hclear, -⟩ := h staleTamperLog (.manager 0) 0xC1EA 0 staleTamperLog_sound
  obtain ⟨t, ht, hrest, -⟩ := hclear (by decide +kernel) (by decide)
  cases ht
  exact absurd (congrArg State.later hrest) (by decide +kernel)

end Sys2Proof.Machine

/-! ### Modules (21_connectors_mechanical.md R618) -/

namespace Sys2Proof.Machine
open Sys2Proof

/-- A chunk queue number beyond the 65,536 of the device, whose SKN_CQ_LOST would stand at the address of LNK_LANE[3]. -/
def strayQueue : Nat := 0xDFF8020

theorem SKN_CQ_LOST_strayQueue : SKN_CQ_LOST strayQueue = LNK_LANE 3 := rfl

/-- A card with a module in cage 0, whose lane 3 is UP and whose port 0 is up, and with a pinch group below port 0 that
delivers to `strayQueue`. COL_GROUP_CREATE reads the queue from 16 bits, so this state is not one that a run is meant to
meet; but `State.Sound`, all that the statement asks, does not bound the queue. -/
def strayGroup : State := { (State.reset.put (LNK_LANE_STATE 3) 2).put (LNK_CAGE_STATUS_PORT0_UP 0) 1 with
  pow := { State.reset.pow with modules := [(0, ⟨10, true, true⟩)] }
  col := { State.reset.col with groups := [(0, { state := 1, parent := 0, deliver := 1, resultQ := strayQueue })] } }

theorem strayGroup_sound : strayGroup.Sound :=
  (State.put_sound (State.put_sound State.reset_sound (LNK_LANE_STATE 3) 2) (LNK_CAGE_STATUS_PORT0_UP 0) 1).upd
    rfl rfl rfl rfl

/-- Removing the module declares lane 3 DOWN (3); with it port 0 goes down, the group's operation fails, and the signal
that its queue does not take is counted in what is LNK_LANE[3] here. -/
theorem strayGroup_moduleRemove : ∃ t, exec (.moduleRemove 0) strayGroup = done t ∧ t.get (LNK_LANE_STATE 3) = 4 :=
  ⟨_, rfl, by decide +kernel⟩

/-- Refutes O59, by its clause that the lanes of a cage whose module is removed are DOWN (`strayGroup_moduleRemove`). The
clause wants the hypothesis that the result queues of the groups are among the device's. -/
theorem not_powerPacingAndModules : ¬ Obligations.PowerPacingAndModules := by
  intro h
  obtain ⟨-, -, -, -, hremove, -⟩ := h strayGroup .other ⟨0, 0, [], 0, 0, 0, 0⟩ 0 0 0 0 0 false strayGroup_sound
  obtain ⟨t, ht, -, -, hdown⟩ := hremove (by decide) (by decide +kernel)
  obtain ⟨u, hu, hstate⟩ := strayGroup_moduleRemove
  cases ht.symm.trans hu
  exact absurd (hstate.symm.trans (hdown 3 (by decide) (by decide +kernel))) (by decide)

end Sys2Proof.Machine

/-! ### Doorbells, taken entries and head records (14_host_interface.md R464 to R475) -/

namespace Sys2Proof.Machine
open Sys2Proof

/-! What is traced, written to the host or signalled leaves memory and tiles alone. -/

theorem State.traceOnly.traceBy {s t : State} (h : s.traceOnly t) (cls kind i role source status : Nat)
    (detail : List Byte) : s.traceOnly (t.traceBy cls kind i role source status detail) := by
  unfold State.traceBy
  extract_lets s1
  have h1 : s.traceOnly s1 := .ite (h.traceInto ..) h _
  exact .ite (h1.fire _) h1 _

@[simp] theorem State.traceBy_mem (s : State) (cls kind i role source status : Nat) (detail : List Byte) :
    (s.traceBy cls kind i role source status detail).mem = s.mem := by
  obtain ⟨c, r, h⟩ := (State.traceOnly.refl s).traceBy cls kind i role source status detail
  rw [h]

@[simp] theorem State.traceBy_til (s : State) (cls kind i role source status : Nat) (detail : List Byte) :
    (s.traceBy cls kind i role source status detail).til = s.til := by
  obtain ⟨c, r, h⟩ := (State.traceOnly.refl s).traceBy cls kind i role source status detail
  rw [h]

@[simp] theorem State.queue_traceBy (s : State) (cls kind i role source status : Nat) (detail : List Byte) (j q : Nat) :
    (s.traceBy cls kind i role source status detail).queue j q = s.queue j q := by
  rw [State.queue, State.traceBy_rings, State.queue]

theorem State.ringPut_eq (s : State) (i q a : Nat) (bs : List Byte) :
    s.ringPut i q a bs = { s with hostMem := (s.ringPut i q a bs).hostMem } := by
  unfold State.ringPut
  split <;> rfl

theorem State.irq_eq (s : State) (i v : Nat) :
    s.irq i v = { s with rings := { s.rings with irqs := (s.irq i v).rings.irqs } } := by
  unfold State.irq
  split <;> rfl

theorem State.irqs_irq (s : State) (i v : Nat) : (s.irq i v).rings.irqs = if s.hostOk i then
    mset 0 s.rings.irqs (i * 2048 + v) (mget 0 s.rings.irqs (i * 2048 + v) + 1) else s.rings.irqs := by
  unfold State.irq
  split <;> rfl

/-! Doorbells (R464). -/

section
variable {s : State} {i q tail : Nat}

/-- Whether a tail is behind the queue's, or beyond its ring. -/
def Queue.badTail (x : Queue) (tail : Nat) : Prop :=
  2 ^ 31 ≤ slotMod (slotMod tail + 2 ^ 32 - x.tail) ∨ 2 ^ x.log2 < slotMod (slotMod tail + 2 ^ 32 - x.head)

theorem doorbellWrite_of_dead (h : ¬ (s.instExists i = true ∧ s.get (INST_STATE_STATE i) ≠ 4)) :
    exec (.doorbellWrite i q tail) s = done s :=
  if_pos (by simpa [imp_iff_not_or] using h)

theorem doorbellWrite_of_good (hlive : s.instExists i = true ∧ s.get (INST_STATE_STATE i) ≠ 4)
    (hgood : ¬ (s.queue i q).badTail tail) (hst : (s.queue i q).state = 1) :
    exec (.doorbellWrite i q tail) s = done (s.setQueue i q { s.queue i q with tail := slotMod tail }) := by
  unfold Queue.badTail at hgood
  exact (if_neg (by simpa using hlive)).trans (if_neg (by simpa [hst] using hgood))

theorem doorbellWrite_of_bad (hlive : s.instExists i = true ∧ s.get (INST_STATE_STATE i) ≠ 4)
    (hbad : (s.queue i q).badTail tail ∨ (s.queue i q).state ≠ 1) :
    exec (.doorbellWrite i q tail) s = done (if ((s.queue i q).state == 0) = true then s
      else s.setQueue i q { s.queue i q with dbBad := true }) := by
  unfold Queue.badTail at hbad
  exact (if_neg (by simpa using hlive)).trans (if_pos (by simpa using hbad))

end

/-! Taking an entry (R465, R466). -/

section
variable {s : State} {i q : Nat} {raw : List Byte}

/-- The entry that `raw` gives at the queue's next slot. -/
def Queue.entryOf (x : Queue) (raw : List Byte) : Entry :=
  ⟨x.take, byteAt raw 2, byteAt raw 1, leAt raw 4 2, byteAt raw 3, sliceB raw 0 (64 * byteAt raw 2), false, 0, 0⟩

/-- The queue once it has taken the well-formed entry `raw`. -/
def Queue.taking (x : Queue) (raw : List Byte) : Queue :=
  { x with
    take := slotMod (x.take + byteAt raw 2), window := x.window ++ [x.entryOf raw], waitOwn := false, retry := false }

theorem State.takeRaw_of_not_own (hown : (byteAt raw 0).testBit 0 = false) :
    s.takeRaw i q raw = s.setQueue i q { s.queue i q with waitOwn := true, retry := false } :=
  if_pos (by simp [bit, hown])

theorem State.takeRaw_of_fence (hown : (byteAt raw 0).testBit 0 = true) (hfence : (byteAt raw 3).testBit 1 = true)
    (hst : (s.queue i q).started ≠ []) :
    s.takeRaw i q raw = s.setQueue i q { s.queue i q with waitOwn := false, retry := false } :=
  (if_neg (by simp [bit, hown])).trans (if_pos (by simp [bit, hfence, hst]))

/-- A well-formed entry before the tail, which no fence holds back, is started, with a trace record. -/
theorem State.takeRaw_of_well (hown : (byteAt raw 0).testBit 0 = true)
    (hfence : (byteAt raw 3).testBit 1 = false ∨ (s.queue i q).started = [])
    (hwell : structFault (q == 0) (s.queue i q) (s.queue i q).take raw = 0)
    (hroom : byteAt raw 2 ≤ slotMod ((s.queue i q).tail + 2 ^ 32 - (s.queue i q).take)) (hatt : s.detached i = false) :
    s.takeRaw i q raw = (s.setQueue i q ((s.queue i q).taking raw)).traceBy 3 1 i 2 q 0
      (ringDetail ((s.queue i q).entryOf raw) 0) := by
  unfold State.takeRaw
  simp only [hwell, hatt]
  refine (if_neg (by simp [bit, hown])).trans ((if_neg ?_).trans ((if_neg (by simpa using hroom)).trans rfl))
  rcases hfence with hfence | hst
  · simp [bit, hfence]
  · simp [hst]

theorem ringEntryTake_eq (hmay : s.mayTake i q = true) (hretry : (s.queue i q).retry = false) (raw : Option (List Byte)) :
    exec (.ringEntryTake i q raw) s = done (raw.elim (s.setQueue i q { s.queue i q with retry := true }) (s.takeRaw i q)) := by
  refine (if_pos (by simp [hmay, hretry])).trans ?_
  cases raw <;> rfl

theorem ownPoll_eq (hmay : s.mayTake i q = true) (hwait : (s.queue i q).waitOwn = true) (raw : Option (List Byte)) :
    exec (.ownPoll i q raw) s = done (raw.elim (s.setQueue i q { s.queue i q with retry := true }) (s.takeRaw i q)) := by
  refine (if_pos (by simp [hmay, hwait])).trans ?_
  cases raw <;> rfl

theorem ringReadRetry_eq (hmay : s.mayTake i q = true) (hretry : (s.queue i q).retry = true) (raw : Option (List Byte)) :
    exec (.ringReadRetry i q raw) s = done (raw.elim (s.queueError i q 5 (s.queue i q).take) (s.takeRaw i q)) := by
  refine (if_pos (by simp [hmay, hretry])).trans ?_
  cases raw <;> rfl

end

/-! Head records and interrupts (R468, R470). -/

section
variable {s : State} {i q : Nat}

/-- Whether the head record is followed by an interrupt (R470); `due`: COAL_US has passed. -/
def Queue.interrupts (x : Queue) (due : Bool) : Bool :=
  !x.noIrq && (x.notify || x.coalN ≤ x.uncovered || due) && 0 < x.uncovered

/-- The queue once its head record is written. -/
def Queue.published (x : Queue) (due : Bool) : Queue :=
  { x with
    pub := x.head
    notify := if x.interrupts due then false else x.notify
    uncovered := if x.interrupts due then 0 else x.uncovered }

/-- The state once the head record of queue `q` is written. -/
def State.headWritten (s : State) (i q : Nat) (due : Bool) : State :=
  (s.ringPut i q (s.queue i q).headAddr (leBytes 8 ((s.queue i q).head + (s.queue i q).state * 2 ^ 32))).setQueue i q
    ((s.queue i q).published due)

theorem State.publish_eq (s : State) (i q : Nat) (due : Bool) : s.publish i q due =
    if (s.queue i q).interrupts due then (s.headWritten i q due).irq i (s.queue i q).vector
    else s.headWritten i q due := rfl

theorem State.publish_leaves (s : State) (i q : Nat) (due : Bool) :
    (s.publish i q due).mem = s.mem ∧ (s.publish i q due).hostMem = (s.headWritten i q due).hostMem ∧
      (s.publish i q due).rings.queues = (s.headWritten i q due).rings.queues := by
  have hmem : (s.headWritten i q due).mem = s.mem := by
    rw [State.headWritten, State.setQueue_mem, State.ringPut_eq]
  rw [State.publish_eq]
  split
  · rw [State.irq_eq]
    exact ⟨hmem, rfl, rfl⟩
  · exact ⟨hmem, rfl, rfl⟩

/-- A queue that is not FREE reads as published. -/
theorem State.queue_publish (hst : (s.queue i q).state = 1 ∨ (s.queue i q).state = 2) (due : Bool) :
    (s.publish i q due).queue i q = (s.queue i q).published due := by
  have hne : (s.queue i q).published due ≠ {} := fun h => by
    have hfree : (s.queue i q).state = 0 := congrArg Queue.state h
    omega
  obtain ⟨-, -, hqueues⟩ := s.publish_leaves i q due
  rw [State.queue, hqueues, ← State.queue, State.headWritten, State.queue_setQueue_of_ne _ _ _ hne]

theorem State.irqs_publish_of_interrupts {due : Bool} (h : (s.queue i q).interrupts due = true) :
    (s.publish i q due).rings.irqs = (s.irq i (s.queue i q).vector).rings.irqs := by
  rw [State.publish_eq, if_pos h, State.irqs_irq, State.irqs_irq, State.headWritten, State.ringPut_eq]
  rfl

theorem headPublish_eq (hst : (s.queue i q).state = 1 ∨ (s.queue i q).state = 2)
    (hpub : (s.queue i q).pub ≠ (s.queue i q).head) : exec (.headPublish i q) s = done (s.publish i q false) :=
  if_pos (by simpa [hpub] using hst)

theorem coalesceTimer_eq (hst : (s.queue i q).state = 1 ∨ (s.queue i q).state = 2)
    (hun : 0 < (s.queue i q).uncovered) : exec (.coalesceTimer i q) s = done (s.publish i q true) :=
  if_pos (by simpa [hun] using hst)

end

/-! NOP and ASYNC_EVENT (R481, R484). -/

section
variable {s : State} {i slot : Nat} {e : Entry}

theorem nop_eq {q : Nat} (he : s.entry? i q slot = some e) (hop : e.op = 0) :
    exec (.nop i q slot) s = done (s.complete i q slot stOK 0) := by
  change execNop i q slot s = _
  simp only [execNop, he]
  exact if_pos hop

theorem asyncEvent_of_many (he : s.entry? i 0 slot = some e) (hop : e.op = 5) (hmany : 64 < (s.asyncs i).length) :
    exec (.asyncEvent i slot) s = done (s.complete i 0 slot stCAPACITY 0) := by
  change execAsyncEvent i slot s = _
  simp only [execAsyncEvent, he]
  exact (if_neg (by simp [hop])).trans (if_pos hmany)

theorem asyncEvent_of_none (he : s.entry? i 0 slot = some e) (hop : e.op = 5) (hroom : (s.asyncs i).length ≤ 64)
    (hnone : mget [] s.rings.events i = []) : exec (.asyncEvent i slot) s = done s := by
  change execAsyncEvent i slot s = _
  simp only [execAsyncEvent, he, hnone]
  exact (if_neg (by simp [hop])).trans (if_neg (Nat.not_lt.2 hroom))

theorem asyncEvent_of_held {ev : InstEvent} {rest : List InstEvent} (he : s.entry? i 0 slot = some e) (hop : e.op = 5)
    (hroom : (s.asyncs i).length ≤ 64) (hheld : mget [] s.rings.events i = ev :: rest) (hatt : s.detached i = false) :
    exec (.asyncEvent i slot) s =
      done ((s.setEvents i rest).deliverTo i (((s.asyncs i).head?.map (·.slot)).getD slot) ev) := by
  change execAsyncEvent i slot s = _
  simp only [execAsyncEvent, he, hheld]
  exact (if_neg (by simp [hop])).trans ((if_neg (Nat.not_lt.2 hroom)).trans (if_neg (Bool.eq_false_iff.1 hatt)))

end

/-- Settles O46: each command by the lemma on it; the three that read an entry end alike, in `State.takeRaw`. -/
theorem commandRings : Obligations.CommandRings := by
  intro s i q slot tail raw e x tl badTail live own fence reason taken ends
  have hends {c : Instr} (hc : exec c s = done (s.takeRaw i q raw)) : ends c := by
    refine ⟨fun hown => hc.trans (congrArg done (State.takeRaw_of_not_own hown)),
      fun hown hfence hstart => hc.trans (congrArg done (State.takeRaw_of_fence hown hfence hstart)),
      fun hown hfence hwell hroom hatt => ?_⟩
    have htake := State.takeRaw_of_well hown hfence hwell hroom hatt
    exact ⟨_, hc.trans (congrArg done htake), State.queue_traceBy .., State.traceBy_mem .., State.traceBy_til ..⟩
  refine ⟨doorbellWrite_of_good,
    fun hlive hbad hst => (doorbellWrite_of_bad hlive hbad).trans (congrArg done (if_neg (by simpa using hst))),
    fun hlive hst => (doorbellWrite_of_bad hlive (.inr (hst ▸ Nat.zero_ne_one))).trans
      (congrArg done (if_pos (by simpa using hst))),
    doorbellWrite_of_dead,
    fun hmay hretry => hends (ringEntryTake_eq hmay hretry (some raw)),
    fun hmay hwait => hends (ownPoll_eq hmay hwait (some raw)),
    fun hmay hretry => hends (ringReadRetry_eq hmay hretry (some raw)),
    fun hmay hretry => ringEntryTake_eq hmay hretry none, fun hmay hwait => ownPoll_eq hmay hwait none,
    fun hmay hretry => ringReadRetry_eq hmay hretry none, fun hst hpub => ?_, fun hst hun hirq => ?_,
    fun hex => congrArg done (if_pos hex), nop_eq,
    fun he hop => ⟨asyncEvent_of_many he hop, asyncEvent_of_none he hop, fun _ _ => asyncEvent_of_held he hop⟩⟩
  · -- HEAD_PUBLISH
    obtain ⟨hmem, hhost, -⟩ := s.publish_leaves i q false
    exact ⟨_, headPublish_eq hst hpub, hmem, hhost, congrArg Queue.pub (State.queue_publish hst false)⟩
  · -- COALESCE_TIMER
    have hdue : x.interrupts true = true := by simp [Queue.interrupts, hirq, hun]
    have hqueue := State.queue_publish hst true
    refine ⟨_, coalesceTimer_eq hst hun, (congrArg Queue.uncovered hqueue).trans (if_pos hdue),
      congrArg Queue.pub hqueue, State.irqs_publish_of_interrupts hdue⟩

end Sys2Proof.Machine

/-! ### Copies, heartbeats and attachment (14_host_interface.md R458, R483 to R487, R491) -/

namespace Sys2Proof.Machine
open Sys2Proof

/-! Copy commands (R483). -/

section
variable {s : State} {i q slot : Nat} {e : Entry}

/-- How a copy command ends whose operands fail (`bad`), or whose ASID or addresses are not those of `i` (`far`). -/
theorem copyCmd_ends {cmd : Instr} {bad far : Bool} {well usable : Prop} (hbad : bad = false ↔ well)
    (hfar : far = false ↔ usable) (hcmd : exec cmd s = done (if bad = true then s.complete i q slot stMALFORMED 0
      else if far = true then s.complete i q slot stACCESS 0 else s.startCopy i q slot)) :
    (¬ well → exec cmd s = done (s.complete i q slot stMALFORMED 0)) ∧
      (well → ¬ usable → exec cmd s = done (s.complete i q slot stACCESS 0)) ∧
      (well → usable → exec cmd s = done (s.startCopy i q slot)) := by
  rw [hcmd, ← hbad, ← hfar]
  exact ⟨fun h => congrArg done (if_pos (Bool.not_eq_false _ ▸ h)),
    fun h h' => congrArg done ((if_neg (Bool.eq_false_iff.1 h)).trans (if_pos (Bool.not_eq_false _ ▸ h'))),
    fun h h' => congrArg done ((if_neg (Bool.eq_false_iff.1 h)).trans (if_neg (Bool.eq_false_iff.1 h')))⟩

theorem State.copyCmd_eq (he : s.entry? i q slot = some e) {op : Nat} (hop : e.op = op)
    (hnew : s.copy? i q slot = none) : s.copyCmd i q slot op =
      if (!e.rsvdZero [(0, 18), (20, 4)] || e.b 20 4 = 0 || 2 ^ 31 < e.b 20 4 || 4096 ≤ e.b 16 2) = true then
        s.complete i q slot stMALFORMED 0
      else if (2 ^ 57 ≤ e.b 8 8 || !s.asidOk i (e.b 16 2)) = true then s.complete i q slot stACCESS 0
      else s.startCopy i q slot := by
  simp only [State.copyCmd, he]
  exact if_neg (by simp [hop, hnew])

theorem inlineToDev_eq (he : s.entry? i q slot = some e) (hop : e.op = 0x45) (hnew : s.copy? i q slot = none) :
    exec (.inlineToDev i q slot) s = done
      (if (!e.rsvdZero [(0, 10), (12, 4), (48, e.b 12 4)] || e.b 12 4 = 0 || 3968 < e.b 12 4 || 4096 ≤ e.b 8 2) = true then
        s.complete i q slot stMALFORMED 0
      else if (2 ^ 57 ≤ e.b 0 8 || !s.asidOk i (e.b 8 2)) = true then s.complete i q slot stACCESS 0
      else s.startCopy i q slot) := by
  change execInlineToDev i q slot s = _
  simp only [execInlineToDev, he]
  rw [if_neg (by simp [hop, hnew])]
  simp only [apply_ite done]

/-- A copy that no fault holds back runs on a HOSTQ tile of `i`: an inline one from the entry itself, another from
the host's bytes. -/
theorem copyComplete_eq {tile : Nat} {c : Copy} (data : List Byte) (hc : s.copy? i q slot = some c)
    (he : s.entry? i q slot = some e) (htile : tile < 4096) (hinst : s.instOfTile tile = i) (hrole : s.roleOf tile = 2)
    (hok : s.engineOk tile = true) (hfree : ∀ p ∈ s.xlt.parked, p.ofCopy i q slot = false) :
    exec (.copyComplete i q slot tile data) s = done (if e.op = 0x45 then
      s.runCopy c tile (e.b 8 2) (e.b 0 8) (e.b 12 4) false 0 ((e.raw.drop (64 + c.moved)).take (e.b 12 4 - c.moved))
      else s.runCopy c tile (e.b 16 2) (e.b 8 8) (e.b 20 4) (e.op == 0x44) (e.b 0 8) data) := by
  change execCopyComplete i q slot tile data s = _
  simp only [execCopyComplete, hc, he]
  rw [if_neg (by simpa [htile, hinst, hrole, hok] using hfree)]
  simp only [apply_ite done]

end

/-! The host link (R458, R485, R491). -/

/-- What a map lists after one value is put at each key of a list. -/
theorem tfind_foldl_tput {α : Type} (v : α) (l : List Nat) (m : SMap α) (k : Nat) :
    tfind (l.foldl (fun m i => tput m i v) m) k = if k ∈ l then some v else tfind m k := by
  induction l generalizing m with
  | nil => rfl
  | cons j l ih =>
    rw [List.foldl_cons, ih, tfind_tput]
    by_cases hl : k ∈ l
    · simp [hl]
    · simp [hl]

theorem bmeClear_eq {s : State} {fn : Nat} (hn : fn < s.nInst) (hex : s.instExists fn = true) :
    exec (.bmeClear fn) s = done { s.detach fn 2 with rings := { (s.detach fn 2).rings with
      bmeOff := if (s.detach fn 2).rings.bmeOff.contains fn then (s.detach fn 2).rings.bmeOff
        else fn :: (s.detach fn 2).rings.bmeOff } } := by
  refine (if_neg (Nat.not_le.2 hn)).trans ?_
  rw [hex]
  rfl

/-- Settles O49: the copies by their checks and `copyComplete_eq`, the link's commands by their definitions, REATTACH by the
branch that the state of `i` and the entry's generation choose. -/
theorem copiesAndAttachment : Obligations.CopiesAndAttachment := by
  intro s i q slot tile fn e c data copyEnds well usable runs
  have hcopy {cmd : Instr} {op : Nat} (hcmd : exec cmd s = done (s.copyCmd i q slot op)) : copyEnds cmd op well usable :=
    fun he hop hnew => copyCmd_ends
      (by simp [well, Nat.one_le_iff_ne_zero, and_assoc]) (by simp [usable])
      (hcmd.trans (congrArg done (State.copyCmd_eq he hop hnew)))
  refine ⟨hcopy rfl, hcopy rfl, fun he hop hnew => copyCmd_ends ?_ ?_ (inlineToDev_eq he hop hnew), ?_, ?_,
    fun hlive => congrArg done (if_pos hlive), fun hms hbeat => congrArg done (if_pos (by simp [hms, hbeat])),
    fun hbeat => congrArg done (if_neg (by simp [hbeat])), ⟨rfl, rfl⟩, ?_, ?_, fun he hop hz hbuf => ?_⟩
  · simp [Nat.one_le_iff_ne_zero, and_assoc]
  · simp
  · -- COPY_COMPLETE with the host's bytes
    intro ⟨hc, he, htile, hinst, hrole, hok, hfree⟩ hop
    exact (copyComplete_eq data hc he htile hinst hrole hok hfree).trans (congrArg done (if_neg hop))
  · -- COPY_COMPLETE of an inline copy
    intro ⟨hc, he, htile, hinst, hrole, hok, hfree⟩ hop
    exact (copyComplete_eq data hc he htile hinst hrole hok hfree).trans (congrArg done (if_pos hop))
  · -- PCIE_LINK_UP
    exact ⟨_, rfl, rfl, rfl, fun j hj => (tfind_foldl_tput ..).trans (if_pos (List.mem_range.2 hj)), rfl⟩
  · -- BME_CLEAR
    intro hn hex
    refine ⟨_, bmeClear_eq hn hex, rfl, ?_, rfl⟩
    split
    · next hmem => exact List.contains_iff_mem.1 hmem
    · exact List.mem_cons_self ..
  · -- REATTACH
    have hrun : exec (.reattach i slot) s = _ := (State.adminCmd_eq he hop _).trans
      (congrArg done (if_neg (by simp [hz, hbuf])))
    refine ⟨fun hatt => hrun.trans (congrArg done (if_pos (by simp [hatt]))), fun hdet hgen => ?_, fun hdet hgen => ?_⟩
    · exact hrun.trans (congrArg done ((if_neg (by simp [hdet])).trans (if_pos (by simpa using hgen))))
    · exact hrun.trans (congrArg done ((if_neg (by simp [hdet])).trans (if_neg (by simpa using hgen))))

end Sys2Proof.Machine

/-! ### Instance commands, quiesces and resets (15_instances_mailboxes.md R493 to R502) -/

namespace Sys2Proof.Machine
open Sys2Proof

/-! A pending command of INST_CMD (R495). -/

section
variable {s : State} {i op : Nat}

/-- Command `op` on `i` is pending, has not begun, and firmware acts. -/
def State.instPending (s : State) (op i : Nat) : Prop :=
  s.insts.cmd = some (op, i) ∧ s.insts.begun = false ∧ s.firmware = true

theorem State.instCmd_beyond (h : s.instPending op i) (hi : s.nInst ≤ i) (states : List Nat) (f : Nat → State) :
    s.instCmd op states f = done (s.instEnd stMALFORMED) := by
  obtain ⟨hcmd, hbegun, hfw⟩ := h
  simp only [State.instCmd, hcmd]
  exact (if_neg (by simp [hbegun, hfw])).trans (if_pos hi)

theorem State.instCmd_busy (h : s.instPending op i) (hi : i < s.nInst) {want : Nat}
    (hst : s.get (INST_STATE_STATE i) ≠ want) (f : Nat → State) : s.instCmd op [want] f = done (s.instEnd stBUSY) := by
  obtain ⟨hcmd, hbegun, hfw⟩ := h
  simp only [State.instCmd, hcmd]
  exact (if_neg (by simp [hbegun, hfw])).trans ((if_neg (Nat.not_le.2 hi)).trans (if_pos (by simpa using hst)))

theorem State.instCmd_acts (h : s.instPending op i) (hi : i < s.nInst) {want : Nat}
    (hst : s.get (INST_STATE_STATE i) = want) (f : Nat → State) : s.instCmd op [want] f = done (f i) := by
  obtain ⟨hcmd, hbegun, hfw⟩ := h
  simp only [State.instCmd, hcmd]
  exact (if_neg (by simp [hbegun, hfw])).trans ((if_neg (Nat.not_le.2 hi)).trans (if_neg (by simpa using hst)))

/-- What every such command does beyond the mode and outside its state. -/
theorem State.instCmd_refused {c : Instr} {want : Nat} {f : Nat → State} (hc : exec c s = s.instCmd op [want] f) :
    (s.instPending op i → s.nInst ≤ i → exec c s = done (s.instEnd stMALFORMED)) ∧
      (s.instPending op i → i < s.nInst → s.get (INST_STATE_STATE i) ≠ want → exec c s = done (s.instEnd stBUSY)) :=
  ⟨fun h hi => hc.trans (State.instCmd_beyond h hi _ f), fun h hi hst => hc.trans (State.instCmd_busy h hi hst f)⟩

end

/-! SET_MODE (R493). -/

/-- No instances exist, and both banks of the warp store are empty. -/
def State.modeFree (s : State) : Prop :=
  (∀ j < s.nInst, s.get (INST_STATE_STATE j) = 0) ∧ s.on WARP_STATUS_HAS_ACTIVE = false ∧
    s.get WARP_STATUS_SHADOW_STATE = 0

theorem State.modeFree_iff (s : State) : (((List.range s.nInst).any fun i => s.get (INST_STATE_STATE i) != 0) ||
    s.on WARP_STATUS_HAS_ACTIVE || s.get WARP_STATUS_SHADOW_STATE != 0) = false ↔ s.modeFree := by
  simp [State.modeFree, and_assoc]

theorem instSetMode_eq {s : State} {x : Nat} (hcmd : s.insts.cmd = some (6, x)) (hfw : s.firmware = true) :
    exec .instSetMode s = if s.get INST_CMD_MODE = 3 then done (s.instEnd stMALFORMED)
      else if (((List.range s.nInst).any fun i => s.get (INST_STATE_STATE i) != 0) ||
        s.on WARP_STATUS_HAS_ACTIVE || s.get WARP_STATUS_SHADOW_STATE != 0) = true then done (s.instEnd stBUSY)
      else done ((s.put INST_CFG_MODE (s.get INST_CMD_MODE)).instEnd stOK) := by
  change execInstSetMode s = _
  simp only [execInstSetMode, hcmd]
  exact if_neg (by simp [hfw])

/-! Quiesces and resets (R497, R499, R501). -/

theorem INST_STATE_ne_INST_EVENT (i : Nat) : INST_STATE i ≠ INST_EVENT := by
  unfold INST_STATE INST_EVENT
  omega

/-- A quiesce that ends unforced, with no command begun, writes its two fields and its event. -/
theorem State.quiesced_sets {s : State} (hs : s.Sound) {i : Nat} (hbegun : s.insts.begun = false) :
    s.sets (done (s.quiesced i false)) [(INST_STATE_STATE i, 3), (INST_STATE_FORCED i, 0), (INST_EVENT_QUIESCED, 1)] := by
  refine State.sets_of_puts hs.csr (congrArg done (if_neg ?_)) ?_
  · exact Bool.eq_false_iff.1 ((Bool.and_eq_false_iff).2 (.inl hbegun))
  · have hreg : (INST_STATE i != INST_EVENT) = true := bne_iff_ne.2 (INST_STATE_ne_INST_EVENT i)
    simp [fieldsApart, INST_STATE_STATE, INST_STATE_FORCED, INST_EVENT_QUIESCED, hreg]

section
variable {s : State} {i : Nat}

theorem quiesceComplete_eq (hi : i < s.nInst) (hst : s.get (INST_STATE_STATE i) = 2) (hquiet : s.quiet i = true) :
    exec (.quiesceComplete i) s = done (s.quiesced i false) :=
  if_pos (by simp [hi, hst, hquiet])

theorem quiesceLimitExpiry_eq (hi : i < s.nInst) (hst : s.get (INST_STATE_STATE i) = 2) :
    exec (.quiesceLimitExpiry i) s = done (if s.quiet i = true then s.quiesced i false else s.forceQuiesce i) :=
  if_pos (by simp [hi, hst])

theorem instanceResetDone_eq {r : Resetting} (h : tfind s.insts.resets i = some r) :
    exec (.instanceResetDone i) s = done ((s.zeroFill i).resetDone i r) := by
  change execInstanceResetDone i s = _
  simp only [execInstanceResetDone, h]

theorem functionLevelReset_of_running (hex : s.instExists i = true) (hrun : tfind s.insts.resets i ≠ none) :
    exec (.functionLevelReset i) s = done (s.raise INST_EVENT_FLR) :=
  (if_neg (by simp [hex])).trans (if_pos (Option.isSome_iff_ne_none.2 hrun))

theorem functionLevelReset_of_idle (hex : s.instExists i = true) (hidle : tfind s.insts.resets i = none) :
    exec (.functionLevelReset i) s = done ((if s.get (INST_STATE_STATE i) = 3 then s.raise INST_EVENT_FLR
      else State.forceQuiesce { s.raise INST_EVENT_FLR with insts := { s.insts with
        resets := tput s.insts.resets i ⟨false, false, none⟩ } } i).startReset i ⟨false, false, none⟩) :=
  (if_neg (by simp [hex])).trans (if_neg (by simp [hidle]))

end

/-- Settles O50: the commands by `State.instCmd_refused` and `State.instCmd_acts`, the rest by the lemmas on each. -/
theorem instanceCommands : Obligations.InstanceCommands := by
  intro s i op r hs pending st ends
  have hends {c : Instr} {k want : Nat} {f : Nat → State} (hc : exec c s = s.instCmd k [want] f) : ends c k want :=
    State.instCmd_refused hc
  refine ⟨hends rfl, hends rfl, hends rfl, hends rfl, hends rfl, ?_, ?_, ?_, ?_, ?_, ?_, ?_, ?_, ?_, ?_, ?_, ?_, ?_, ?_⟩
  · -- CREATE
    exact fun h hi hst => State.instCmd_acts h hi hst _
  · -- QUIESCE with scheduled work
    exact fun h hi hst hbusy => (State.instCmd_acts h hi hst _).trans (congrArg done (if_pos hbusy))
  · -- QUIESCE
    exact fun h hi hst hidle => (State.instCmd_acts h hi hst _).trans (congrArg done (if_neg (Bool.eq_false_iff.1 hidle)))
  · -- RESUME
    exact fun h hi hst => State.instCmd_acts h hi hst _
  · -- RESET
    exact fun h hi hst => State.instCmd_acts h hi hst _
  · -- REMOVE
    exact fun h hi hst => State.instCmd_acts h hi hst _
  · -- SET_MODE
    intro hcmd hfw free
    have hmode := instSetMode_eq hcmd hfw
    have hfree := State.modeFree_iff s
    refine ⟨fun h3 => hmode.trans (if_pos h3), fun h3 hused => hmode.trans ((if_neg h3).trans (if_pos ?_)),
      fun h3 hnone => hmode.trans ((if_neg h3).trans (if_neg ?_))⟩
    · exact Bool.not_eq_false _ ▸ hfree.not.2 hused
    · exact Bool.eq_false_iff.1 (hfree.2 hnone)
  · -- the end of a quiesce
    intro hi hst
    have hlimit := quiesceLimitExpiry_eq hi hst
    exact ⟨fun hquiet => ⟨quiesceComplete_eq hi hst hquiet, hlimit.trans (congrArg done (if_pos hquiet))⟩,
      fun hbusy => hlimit.trans (congrArg done (if_neg (Bool.eq_false_iff.1 hbusy)))⟩
  · -- a quiesce that ends unforced
    exact fun hbegun _ => State.quiesced_sets hs hbegun
  · -- INSTANCE_RESET_DONE
    exact instanceResetDone_eq
  · -- FUNCTION_LEVEL_RESET during a reset
    exact fun hex hrun => State.sets_of_puts hs.csr (functionLevelReset_of_running hex hrun) (by rfl)
  · -- FUNCTION_LEVEL_RESET after a quiesce
    exact fun hex hidle hst => (functionLevelReset_of_idle hex hidle).trans (by rw [if_pos hst])
  · -- FUNCTION_LEVEL_RESET
    exact fun hex hidle hst => (functionLevelReset_of_idle hex hidle).trans (by rw [if_neg hst]; rfl)
  · -- FUNCTION_LEVEL_RESET of a function that owns none
    exact fun hex => if_pos (by simp [hex])

end Sys2Proof.Machine

/-! ### Mailboxes (15_instances_mailboxes.md R503 to R507) -/

namespace Sys2Proof.Machine
open Sys2Proof

/-! A requester on one side of the mailbox (R504, R505). -/

section
variable {s : State} {r : Requester} {i : Nat} {host : Bool} (hside : s.mbxSide r i = some host)
include hside

theorem mbxSide_lt : i < s.nInst := by
  unfold State.mbxSide at hside
  by_contra hi
  rw [if_pos (by simp [Nat.not_lt.1 hi])] at hside
  cases hside

theorem mbxSend_eq (len : Nat) : exec (.mbxSend r i len) s =
    if (len = 0 || 256 < len || !s.mbxFree host i) = true then done s
    else done ((s.stamp r i).1.mbxPost host i len (s.stamp r i).2) := by
  change execMbxSend r i len s = _
  simp only [execMbxSend, hside]

theorem mbxWithdraw_eq : exec (.mbxWithdraw r i) s = done (if s.mbxTxState host i = 1 then
    (s.setReg (mbxTx host i) 4).setReg (mbxRx host i) 0 else s) := by
  change execMbxWithdraw r i s = _
  simp only [execMbxWithdraw, hside]

theorem mbxTake_eq : exec (.mbxTake r i) s =
    done (if s.mbxRxState (!host) i = 1 then s.mbxTake (!host) i else s) := by
  change execMbxTake r i s = _
  simp only [execMbxTake, hside]

theorem mbxAck_eq (code : Nat) : exec (.mbxAck r i code) s =
    done (if s.mbxRxState (!host) i = 2 then s.mbxAck (!host) i code else s) := by
  change execMbxAck r i code s = _
  simp only [execMbxAck, hside]

end

/-! The manager's answers (R507). -/

section
variable {s : State} {i ty : Nat}

/-- The state once the manager has taken the message that it answers. -/
def State.mbxServed (s : State) (i : Nat) : State := if s.mbxRxState true i = 1 then s.mbxTake true i else s

/-- The manager answers a message of the type that it serves: a short one with code 2. -/
theorem State.mbxServe_eq (hi : i < s.nInst) (hfw : s.firmware = true) (hrx : s.mbxRxState true i ≠ 0)
    (hty : s.mbxType true i = ty) (f : State → Nat → State) : s.mbxServe i ty f =
      if s.get (MBXM_RX_STATUS_LEN i) < 4 then done ((s.mbxServed i).mbxAck true i 2)
      else done (f (s.mbxServed i) (bits (s.reg (MBXM_RX_DATA i 0)) 16 16)) :=
  if_neg (by simpa [hfw, hty, hi] using hrx)

/-- No quiesce of `i` could be made now. -/
def State.mbxBusy (s : State) (i : Nat) : Bool :=
  (s.get (INST_STATE_STATE i) != 1 && s.get (INST_STATE_STATE i) != 3) || s.schedBusy i || s.insts.cmd.any (·.2 == i)

/-- A reset that the manager grants. -/
def State.mbxGrant (s u : State) (i token : Nat) : State :=
  (if u.get (INST_STATE_STATE i) = 1 then ((u.tick.mbxAck true i 0).quiesce i).forceQuiesce i
    else u.tick.mbxAck true i 0).startReset i
    ⟨false, 4 < s.get (MBXM_RX_STATUS_LEN i) && bit (s.reg (MBXM_RX_DATA i 0)) 32, some token⟩

theorem mbxHello_eq (hfree : s.mbxFree false i = true) : exec (.mbxHello i) s = s.mbxServe i 1 fun u token =>
    (u.mbxAck true i 0).mbxReply i (leBytes 2 0x8003 ++ leBytes 2 token ++ leBytes 4 (Config.fwVersion s.runImage) ++
      sliceB (s.identity i) 8 72) :=
  if_neg (by simp [hfree])

theorem mbxResetRequest_eq : exec (.mbxResetRequest i) s = s.mbxServe i 2 fun u token =>
    if u.mbxBusy i = true then u.mbxAck true i 3
    else if Config.freeNat u.free % 2 = 1 then u.tick.mbxAck true i 4
    else s.mbxGrant u i token := rfl

end

/-- Settles O52: each side's commands by their `_eq`, the manager's answers by `State.mbxServe_eq`. -/
theorem mailboxes : Obligations.Mailboxes := by
  intro s r i len code host hside
  have hsend := mbxSend_eq hside len
  have hwithdraw := mbxWithdraw_eq hside
  have htake := mbxTake_eq hside
  have hack := mbxAck_eq hside code
  refine ⟨fun hlo hhi hfree => hsend.trans (if_neg ?_), fun hbad => hsend.trans (if_pos ?_),
    fun h => hwithdraw.trans (congrArg done (if_pos h)), fun h => hwithdraw.trans (congrArg done (if_neg h)),
    fun h => htake.trans (congrArg done (if_pos h)), fun h => htake.trans (congrArg done (if_neg h)),
    fun h => hack.trans (congrArg done (if_pos h)), fun h => hack.trans (congrArg done (if_neg h)),
    ?_⟩
  · simpa [hfree] using ⟨Nat.ne_of_gt hlo, hhi⟩
  · simpa [or_assoc] using hbad
  intro hfw hrx u short token
  refine ⟨fun hty hfree => ?_, fun hty => ?_⟩
  · -- HELLO
    have hrun := (mbxHello_eq hfree).trans (State.mbxServe_eq (mbxSide_lt hside) hfw hrx hty _)
    exact ⟨fun h => hrun.trans (if_pos h), fun h => hrun.trans (if_neg h)⟩
  · -- RESET_REQUEST
    have hrun := mbxResetRequest_eq.trans (State.mbxServe_eq (mbxSide_lt hside) hfw hrx hty _)
    refine ⟨fun h => hrun.trans (if_pos h), fun h hbusy => hrun.trans ((if_neg h).trans (congrArg done (if_pos ?_))),
      fun h hst hsched hcmd => ?_⟩
    · rcases hbusy with hst | hsched
      · simp only [State.mbxBusy, Bool.or_eq_true, Bool.and_eq_true, bne_iff_ne]
        exact .inl (.inl hst)
      · simp only [State.mbxBusy, Bool.or_eq_true]
        exact .inl (.inr hsched)
    · have hidle : ¬ u.mbxBusy i = true := by
        simp only [State.mbxBusy, hsched, hcmd, Bool.or_false, Bool.and_eq_true, bne_iff_ne]
        omega
      have hdecide := hrun.trans ((if_neg h).trans (congrArg done (if_neg hidle)))
      exact ⟨fun hno => hdecide.trans (congrArg done (if_pos hno)),
        fun hyes => hdecide.trans (congrArg done (if_neg fun h1 => absurd (hyes.symm.trans h1) Nat.zero_ne_one))⟩

end Sys2Proof.Machine

/-! ### Provisioning and key commands (16_security.md R515, R516, R518) -/

namespace Sys2Proof.Machine
open Sys2Proof

/-! Provisioning commands (R515, R516). -/

section
variable {s : State} {op : Nat}

/-- Provisioning command `op` is pending, and firmware acts. -/
def State.provPending (s : State) (op : Nat) : Prop :=
  s.on SEC_PROV_STATUS_PENDING = true ∧ s.get SEC_PROV_CMD_OP = op ∧ s.firmware = true

theorem State.provCmd_busy (h : s.provPending op) (hheld : s.anyKey = true ∨ s.farDark = true) (f : State) :
    s.provCmd op f = done (s.provEnd stBUSY) := by
  obtain ⟨hpend, hop, hfw⟩ := h
  exact (if_neg (by simp [hpend, hop, hfw])).trans (if_pos (by simpa using hheld))

theorem State.provCmd_acts (h : s.provPending op) (hfree : ¬ (s.anyKey = true ∨ s.farDark = true)) (f : State) :
    s.provCmd op f = done f := by
  obtain ⟨hpend, hop, hfw⟩ := h
  exact (if_neg (by simp [hpend, hop, hfw])).trans (if_neg (by simpa using hfree))

end

/-! Key commands (R518, Table 16.3). -/

section
variable {s : State} {op : Nat}

/-- Key command `op` is pending, and firmware acts. -/
def State.keyPending (s : State) (op : Nat) : Prop :=
  s.on SEC_KEY_STATUS_PENDING = true ∧ s.get SEC_KEY_CMD_OP = op ∧ s.firmware = true

/-- A pending key command: context 0 is MALFORMED, and what `busy` names is BUSY. -/
theorem State.keyCmd_eq {cmd : Instr} {busy : Nat → KeyCtx → Nat → Bool} {f : Nat → KeyCtx → Nat → State}
    (hcmd : exec cmd s = s.keyCmd op busy f) (h : s.keyPending op) : exec cmd s =
      done (if s.get SEC_KEY_CMD_CTX = 0 then s.keyEnd stMALFORMED
        else if busy (s.get SEC_KEY_CMD_CTX) (s.keyCtx (s.get SEC_KEY_CMD_CTX)) (s.get SEC_KEY_CMD_PHASE) = true then
          s.keyEnd stBUSY
        else (f (s.get SEC_KEY_CMD_CTX) (s.keyCtx (s.get SEC_KEY_CMD_CTX)) (s.get SEC_KEY_CMD_PHASE)).keyEnd stOK) := by
  obtain ⟨hpend, hop, hfw⟩ := h
  refine hcmd.trans ((if_neg (by simp [hpend, hop, hfw])).trans ?_)
  simp only [apply_ite done]

/-- A key is not installed (Table 16.3): there is no domain secret or it goes, the phase is the one that sends, or the
generation does not rise. -/
def State.installBusy (s : State) (k : KeyCtx) (ph : Nat) : Bool :=
  s.get SEC_STATE_KEYS != 1 || s.sec.zeroing || ((k.phase ph).isSome && k.tx == ph) ||
    ([k.p0, k.p1].any fun p => p.any fun x => s.get SEC_KEY_ARG_KEY_GEN ≤ x.gen)

theorem State.installBusy_iff (s : State) (k : KeyCtx) (ph : Nat) : s.installBusy k ph = true ↔
    s.get SEC_STATE_KEYS ≠ 1 ∨ s.sec.zeroing = true ∨ ((k.phase ph).isSome = true ∧ k.tx = ph) ∨
      ∃ x, (k.p0 = some x ∨ k.p1 = some x) ∧ s.get SEC_KEY_ARG_KEY_GEN ≤ x.gen := by
  simp only [State.installBusy, Bool.or_eq_true, Bool.and_eq_true, bne_iff_ne, beq_iff_eq, List.any_cons, List.any_nil,
    Bool.or_false, Option.any_eq_true, decide_eq_true_eq, or_and_right, exists_or, or_assoc]

/-- Key context `k` with the key of SEC_KEY_ARG in phase `ph`. -/
def State.installed (s : State) (k : KeyCtx) (ph : Nat) : KeyCtx :=
  { k.setPhase ph (some ⟨s.get SEC_KEY_ARG_TENANT, s.get SEC_KEY_ARG_GROUP, s.get SEC_KEY_ARG_KEY_GEN,
      s.get SEC_KEY_ARG_DIR, 0⟩) with
    tenant := s.get SEC_KEY_ARG_TENANT, group := s.get SEC_KEY_ARG_GROUP
    tx := if k.p0.isNone && k.p1.isNone then ph else k.tx }

theorem State.phase_installed (s : State) (k : KeyCtx) (ph : Nat) : (s.installed k ph).phase ph =
    some ⟨s.get SEC_KEY_ARG_TENANT, s.get SEC_KEY_ARG_GROUP, s.get SEC_KEY_ARG_KEY_GEN, s.get SEC_KEY_ARG_DIR, 0⟩ := by
  unfold KeyCtx.phase State.installed KeyCtx.setPhase
  split <;> rfl

theorem keyInstall_eq (hdrbg : s.sec.drbgStopped = false) : exec .keyInstall s =
    s.keyCmd 1 (fun _ k ph => s.installBusy k ph) fun c k ph => s.setKeyCtx c (s.installed k ph) :=
  if_neg (Bool.eq_false_iff.1 hdrbg)

theorem keySwitch_eq : exec .keySwitch s =
    s.keyCmd 2 (fun _ k ph => (k.phase ph).isNone) fun c k ph => s.setKeyCtx c { k with tx := ph } := rfl

theorem keyRetire_eq : exec .keyRetire s =
    s.keyCmd 3 (fun _ k ph => k.tx == ph) fun c k ph => s.setKeyCtx c (k.setPhase ph none) := rfl

theorem keyClear_eq : exec .keyClear s =
    s.keyCmd 4 (fun c _ _ => s.qp.qps.any fun p => p.2.cipher == c && 2 ≤ p.2.state && p.2.state ≤ 4)
      fun c _ _ => s.clearCtx c := rfl

end

/-- Settles O53: PROVISION and FORGET by `State.provCmd_acts`, the key commands by `State.keyCmd_eq`. -/
theorem keysAndProvisioning : Obligations.KeysAndProvisioning := by
  intro s b ds prov held key c k ph gen busy
  have hinstall (h : key 1) (hdrbg : s.sec.drbgStopped = false) := State.keyCmd_eq (keyInstall_eq hdrbg) h
  have hswitch (h : key 2) := State.keyCmd_eq keySwitch_eq h
  have hretire (h : key 3) := State.keyCmd_eq keyRetire_eq h
  have hclear (h : key 4) := State.keyCmd_eq keyClear_eq h
  refine ⟨fun blob h hheld => State.provCmd_busy h hheld _,
    fun blob h hfree hdrbg => (State.provCmd_acts h hfree _).trans (congrArg done (if_pos hdrbg)),
    fun h hfree hdrbg => ?_, fun h hheld => State.provCmd_busy h hheld _, fun h hfree => State.provCmd_acts h hfree _,
    fun h0 => ⟨fun h hdrbg => (hinstall h hdrbg).trans (congrArg done (if_pos h0)),
      fun h => (hswitch h).trans (congrArg done (if_pos h0)), fun h => (hretire h).trans (congrArg done (if_pos h0)),
      fun h => (hclear h).trans (congrArg done (if_pos h0))⟩, fun h0 => ?_⟩
  · -- PROVISION
    have hrun (blob : Option (List Byte)) : exec (.provision blob) s = _ :=
      (State.provCmd_acts h hfree _).trans (congrArg done (if_neg (Bool.eq_false_iff.1 hdrbg)))
    refine ⟨hrun none, fun hbad => (hrun (some b)).trans (congrArg done (if_pos (by simp [hbad]))),
      fun hok hnone => (hrun (some b)).trans (congrArg done ((if_neg (by simp [hok])).trans ?_)),
      fun hok hsome => (hrun (some b)).trans (congrArg done ((if_neg (by simp [hok])).trans ?_))⟩
    · simp only [hnone]
    · simp only [hsome]
  · -- the key commands on a context other than 0
    refine ⟨fun h hdrbg hbusy => ?_, fun h hdrbg hfree => ⟨s.installed k ph, ?_, rfl, rfl, State.phase_installed s k ph, ?_⟩,
      fun h hnone => ?_, fun h hsome => ?_, fun h htx => ?_, fun h htx => ?_, fun h hused => ?_, fun h hfree => ?_⟩
    · exact (hinstall h hdrbg).trans (congrArg done ((if_neg h0).trans (if_pos ((State.installBusy_iff ..).2 hbusy))))
    · exact (hinstall h hdrbg).trans (congrArg done ((if_neg h0).trans
        (if_neg ((State.installBusy_iff ..).not.2 hfree))))
    · simp only [State.installed, Bool.and_eq_true, Option.isNone_iff_eq_none]
    · exact (hswitch h).trans (congrArg done ((if_neg h0).trans (if_pos (Option.isNone_iff_eq_none.2 hnone))))
    · exact (hswitch h).trans (congrArg done ((if_neg h0).trans (if_neg (Option.isNone_iff_eq_none.not.2 hsome))))
    · exact (hretire h).trans (congrArg done ((if_neg h0).trans (if_pos (beq_iff_eq.2 htx))))
    · exact (hretire h).trans (congrArg done ((if_neg h0).trans (if_neg (beq_iff_eq.not.2 htx))))
    · exact (hclear h).trans (congrArg done ((if_neg h0).trans (if_pos (by simpa [and_assoc] using hused))))
    · refine (hclear h).trans (congrArg done ((if_neg h0).trans (if_neg ?_)))
      simp only [List.any_eq_true, Bool.and_eq_true, beq_iff_eq, decide_eq_true_eq, not_exists, not_and]
      intro p hp ⟨hcipher, hlow⟩ hhigh
      rcases hfree p hp hcipher with hlt | hlt
      · omega
      · omega

end Sys2Proof.Machine

/-! ### Lane calibration and firmware slots (18_reliability_service.md R556 to R561) -/

namespace Sys2Proof.Machine
open Sys2Proof

/-! Calibration (R556, R557). -/

section
variable {s : State} {l pick : Nat}

/-- The state field of a lane shares no bit with the calibration events, whatever the lane's number. -/
theorem laneState_apart_calStart (l : Nat) : fieldsApart [LNK_LANE_STATE l, PWR_REL_EVENT_CAL_START] = true := by
  simp [fieldsApart, LNK_LANE_STATE, PWR_REL_EVENT_CAL_START]

theorem laneState_apart_calDone (l : Nat) : fieldsApart [LNK_LANE_STATE l, PWR_REL_EVENT_CAL_DONE] = true := by
  simp [fieldsApart, LNK_LANE_STATE, PWR_REL_EVENT_CAL_DONE]

/-- No other lane of the group of lane `l` is training or in calibration. -/
def State.calAlone (s : State) (l : Nat) : Prop :=
  ∀ k < 8, l / 8 * 8 + k ≠ l → s.get (LNK_LANE_STATE (l / 8 * 8 + k)) ≠ 3 ∧ s.get (LNK_LANE_STATE (l / 8 * 8 + k)) ≠ 4

theorem calStart_eq (hl : l < 96) (hup : s.get (LNK_LANE_STATE l) = 2) (hattach : s.attachOn (l / 8) = true)
    (hahead : s.pick + 16 ≤ pick) (hrun : s.trc.halted = false) (hmgr : s.til.mgrLost.contains (l / 24) = false)
    (halone : s.calAlone l) : exec (.calStart l pick) s =
      done (([(LNK_LANE_STATE l, 4), (PWR_REL_EVENT_CAL_START, 1)] : List (RegFld × Nat)).foldl (fun s p => s.put p.1 p.2)
        { s with rel := { s.rel with cal := tput s.rel.cal l (pick, 0) } }) := by
  refine if_pos ?_
  have hothers : ((List.range 8).map (l / 8 * 8 + ·)).all (fun k => k == l ||
      (s.get (LNK_LANE_STATE k) != 3 && s.get (LNK_LANE_STATE k) != 4)) = true := by
    simp only [List.all_map, List.all_eq_true, List.mem_range, Function.comp_apply, Bool.or_eq_true, Bool.and_eq_true,
      beq_iff_eq, bne_iff_ne]
    exact fun k hk => Classical.or_iff_not_imp_left.2 (halone k hk)
  have hmgr' : l / 24 ∉ s.til.mgrLost := by simpa using hmgr
  simp [hl, hup, hattach, hahead, hrun, hmgr', hothers]

/-- A lane in calibration takes its next step in a pick with a free slot, up to the 64th. -/
theorem calStep_eq {n : Nat} (hcal : tfind s.rel.cal l = some (pick, n)) (hdue : pick ≤ s.pick) (hn : n < 64)
    (hslot : s.calSlot l ≠ none) : exec (.calStep l) s =
      done { s with rel := { s.rel with cal := tput s.rel.cal l (s.pick + 1, n + 1) } } := by
  change execCalStep l s = _
  simp only [execCalStep, hcal]
  exact if_pos (by simp [hdue, hn, Option.isSome_iff_ne_none.2 hslot])

theorem calComplete_eq {n : Nat} (hcal : tfind s.rel.cal l = some (pick, n)) : exec (.calComplete l) s =
    if n = 64 then
      done (([(LNK_LANE_STATE l, 2), (PWR_REL_EVENT_CAL_DONE, 1)] : List (RegFld × Nat)).foldl (fun s p => s.put p.1 p.2)
        { s with rel := { s.rel with cal := tdel s.rel.cal l } })
    else done s := by
  change execCalComplete l s = _
  simp only [execCalComplete, hcal]
  rfl

end

/-! Firmware operations (R559 to R561). -/

section
variable {s : State} {op : Nat} {im : List Byte}

/-- Firmware operation `op` is pending, and firmware acts. -/
def State.fwPending (s : State) (op : Nat) : Prop :=
  s.on PWR_FW_CMD_STATUS_PENDING = true ∧ s.get PWR_FW_CMD_OP = op ∧ s.firmware = true

theorem State.fwCmd_eq (h : s.fwPending op) (ok : Bool) (f : State) :
    s.fwCmd op ok f = done (if ok then f else s.fwEnd stBUSY) := by
  obtain ⟨hpend, hop, hfw⟩ := h
  exact if_neg (by simp [hpend, hop, hfw])

theorem State.fwCmd_acts (h : s.fwPending op) {ok : Bool} (hok : ok = true) (f : State) : s.fwCmd op ok f = done f :=
  (State.fwCmd_eq h ok f).trans (congrArg done (if_pos hok))

theorem State.fwCmd_busy (h : s.fwPending op) {ok : Bool} (hok : ¬ ok = true) (f : State) :
    s.fwCmd op ok f = done (s.fwEnd stBUSY) :=
  (State.fwCmd_eq h ok f).trans (congrArg done (if_neg hok))

theorem State.svnCheck_low {n : Nat} (h : n < s.get SEC_ARB_COUNT) :
    s.svnCheck n = (s.raise SEC_EVENT_ROLLBACK_REFUSED, false) := if_pos h

theorem State.svnCheck_high {n : Nat} (h : s.get SEC_ARB_COUNT ≤ n) (hhigh : 64 < n) :
    s.svnCheck n = (s.raise SEC_EVENT_ARB_END, false) := (if_neg (Nat.not_lt.2 h)).trans (if_pos hhigh)

theorem State.svnCheck_ok {n : Nat} (h : s.get SEC_ARB_COUNT ≤ n) (hle : n ≤ 64) : s.svnCheck n = (s, true) :=
  (if_neg (Nat.not_lt.2 h)).trans (if_neg (Nat.not_lt.2 hle))

/-- The other slot holds image `im`, before its state and SVN are written. -/
def State.stagedIn (s : State) (im : List Byte) : State :=
  { s with rel := if 1 - s.runSlot = 0 then { s.rel with slotA := im } else { s.rel with slotB := im } }

/-- Staging is carried out while the running slot is GOOD. -/
theorem fwStage_good (h : s.fwPending 1) (hgood : s.slotState s.runSlot = 3) (img : Option (List Byte)) (sig : Bool) :
    exec (.fwStage img sig) s = done (
      if 2 ^ 25 < s.get PWR_FW_STAGE_LEN_LEN then s.fwEnd stMALFORMED
      else match img with
        | none => s.fwEnd stACCESS
        | some im =>
          if !sig then s.fwEnd stACCESS
          else if !(s.svnCheck (Config.fwSvn im % 256)).2 then (s.svnCheck (Config.fwSvn im % 256)).1.fwEnd stACCESS
          else ((((s.stagedIn im).put (slotFld (1 - s.runSlot)) 1).put (svnFld (1 - s.runSlot))
            (Config.fwSvn im % 256)).raise PWR_REL_EVENT_FW_STAGED).fwEnd stOK) :=
  State.fwCmd_acts h (beq_iff_eq.2 hgood) _

theorem fwStage_signed (h : s.fwPending 1) (hgood : s.slotState s.runSlot = 3)
    (hlen : s.get PWR_FW_STAGE_LEN_LEN ≤ 2 ^ 25) : exec (.fwStage (some im) true) s = done (
      if !(s.svnCheck (Config.fwSvn im % 256)).2 then (s.svnCheck (Config.fwSvn im % 256)).1.fwEnd stACCESS
      else ((((s.stagedIn im).put (slotFld (1 - s.runSlot)) 1).put (svnFld (1 - s.runSlot))
        (Config.fwSvn im % 256)).raise PWR_REL_EVENT_FW_STAGED).fwEnd stOK) :=
  (fwStage_good h hgood (some im) true).trans (congrArg done (if_neg (Nat.not_lt.2 hlen)))

end

/-! The running slot becomes GOOD (R561, Table 16.7). -/

section
variable {s : State}

/-- The state in which `State.fwGood` compares COUNT with the running slot's SVN. -/
def State.markedGood (s : State) : State := (s.put (slotFld s.runSlot) 3).raise PWR_REL_EVENT_FW_GOOD

theorem State.fwGood_eq (s : State) : s.fwGood =
    if s.get SEC_ARB_COUNT < s.slotSvn s.runSlot && s.slotSvn s.runSlot ≤ 64 then
      s.markedGood.put SEC_ARB_COUNT (s.slotSvn s.runSlot)
    else s.markedGood := rfl

theorem State.markedGood_sound (hs : s.Sound) : s.markedGood.Sound :=
  State.raise_sound (State.put_sound hs _ 3) _

/-- A field apart from the running slot's state and from FW_GOOD reads as before. -/
theorem State.get_markedGood (hs : s.Sound) {f : RegFld} (hslot : fieldsApart [slotFld s.runSlot, f] = true)
    (hevent : fieldsApart [PWR_REL_EVENT_FW_GOOD, f] = true) : s.markedGood.get f = s.get f :=
  (State.get_put_apart (State.put_sound hs _ 3).csr 1 hevent).trans (State.get_put_apart hs.csr 3 hslot)

theorem slotFld_apart {f : RegFld} (b : Nat) (ha : fieldsApart [PWR_FW_STATUS_A_STATE, f] = true)
    (hb : fieldsApart [PWR_FW_STATUS_B_STATE, f] = true) : fieldsApart [slotFld b, f] = true := by
  unfold slotFld
  split
  · exact ha
  · exact hb

theorem apart_slotFld {f : RegFld} (b : Nat) (ha : fieldsApart [f, PWR_FW_STATUS_A_STATE] = true)
    (hb : fieldsApart [f, PWR_FW_STATUS_B_STATE] = true) : fieldsApart [f, slotFld b] = true := by
  unfold slotFld
  split
  · exact ha
  · exact hb

theorem slotFld_w (b : Nat) : (slotFld b).w = 3 := by
  unfold slotFld
  split <;> rfl

theorem State.slot_markedGood (hs : s.Sound) : s.markedGood.get (slotFld s.runSlot) = 3 := by
  refine (State.get_put_apart (State.put_sound hs _ 3).csr 1 (apart_slotFld _ rfl rfl)).trans ?_
  rw [State.get_put hs.csr, slotFld_w]
  rfl

theorem State.count_fwGood (hs : s.Sound) (hsvn : s.slotSvn s.runSlot ≤ 64) :
    s.fwGood.get SEC_ARB_COUNT = max (s.get SEC_ARB_COUNT) (s.slotSvn s.runSlot) := by
  rw [State.fwGood_eq]
  split
  case isTrue h =>
    simp only [Bool.and_eq_true, decide_eq_true_eq] at h
    rw [State.get_put (State.markedGood_sound hs).csr, max_eq_right h.1.le]
    exact Nat.mod_eq_of_lt (hsvn.trans_lt (by decide))
  case isFalse h =>
    simp only [hsvn, decide_true, Bool.and_true, decide_eq_true_eq, not_lt] at h
    rw [State.get_markedGood hs (slotFld_apart _ rfl rfl) rfl, max_eq_left h]

theorem State.running_fwGood (hs : s.Sound) : s.fwGood.slotState s.runSlot = 3 := by
  rw [State.fwGood_eq, State.slotState]
  split
  · exact (State.get_put_apart (State.markedGood_sound hs).csr _ (apart_slotFld _ rfl rfl)).trans
      (State.slot_markedGood hs)
  · exact State.slot_markedGood hs

end

/-- Settles O55: calibration by `calStart_eq`, `calStep_eq` and `calComplete_eq`, the firmware operations by
`State.fwCmd_eq`, and the advance of COUNT by `State.count_fwGood`. -/
theorem calibrationAndFirmware : Obligations.CalibrationAndFirmware := by
  intro s l pick n im hs cal alone fw b svn staged
  refine ⟨fun hl hup hattach hahead hrun hmgr halone => ?_, calStep_eq, fun hcal => ?_,
    fun hcal hn => (calComplete_eq hcal).trans (if_neg hn),
    fun img sig h hst => State.fwCmd_busy h (beq_iff_eq.not.2 hst) _,
    fun img sig h hst hlen => (fwStage_good h hst img sig).trans (congrArg done (if_pos hlen)),
    fun h hst hlen => ?_,
    fun h hst hlive => ?_, fun h hst hlive => ?_, fun h hst => State.fwCmd_busy h (beq_iff_eq.not.2 hst) _,
    fun h hst => State.fwCmd_acts h (beq_iff_eq.2 hst) _, fun h hst => State.fwCmd_busy h (beq_iff_eq.not.2 hst) _,
    fun h hst => State.fwCmd_acts h (by simpa using hst) _, fun h hA hB => State.fwCmd_busy h (by simp [hA, hB]) _,
    fun hst hcfg hfw => if_pos (by simp [hst, hcfg, hfw]), fun _ hsvn => ?_⟩
  · have hsound : (cal 0).Sound := hs.upd rfl rfl rfl rfl
    exact State.sets_of_puts hsound.csr (calStart_eq hl hup hattach hahead hrun hmgr halone) (laneState_apart_calStart l)
  · exact State.sets_of_puts hs.csr ((calComplete_eq hcal).trans (if_pos rfl)) (laneState_apart_calDone l)
  · -- FW_STAGE in the states that take it
    have hrun := fwStage_signed (im := im) h hst hlen
    refine ⟨(fwStage_good h hst none true).trans (congrArg done (if_neg (Nat.not_lt.2 hlen))),
      (fwStage_good h hst (some im) false).trans (congrArg done (if_neg (Nat.not_lt.2 hlen))),
      fun hlow => ?_, fun hge hhigh => ?_, fun hge hle => ?_⟩
    · rw [hrun, State.svnCheck_low hlow]; rfl
    · rw [hrun, State.svnCheck_high hge hhigh]; rfl
    · rw [hrun, State.svnCheck_ok hge hle]; rfl
  · refine (State.fwCmd_acts h (beq_iff_eq.2 hst) _).trans ?_
    simp only [b] at hlive ⊢
    rw [if_pos hlive]
  · refine (State.fwCmd_acts h (beq_iff_eq.2 hst) _).trans ?_
    simp only [b] at hlive ⊢
    rw [if_neg (Bool.eq_false_iff.1 hlive)]
  · rw [State.count_fwGood hs hsvn]
    exact ⟨le_max_left .., State.running_fwGood hs, le_max_right ..⟩

end Sys2Proof.Machine

/-! ### The trace path (19_debug_trace.md R571 to R573, R575) -/

namespace Sys2Proof.Machine
open Sys2Proof

/-! Slots and their collectors (R571, R573). -/

section
variable {s : State}

theorem State.traceSlot_setTraceSlot (s : State) (key : Nat) (x : TrcSlot) :
    (s.setTraceSlot key x).traceSlot key = x :=
  (mget_tput ..).trans (if_pos rfl)

theorem State.slotRefill_kept {key : Nat} {x : TrcSlot} (h : x.drops = 0) :
    s.slotRefill key x = s.setTraceSlot key { x with rec_ := none } := if_pos (by simp [h])

theorem State.slotRefill_dropped {key : Nat} {x : TrcSlot} (h : x.drops ≠ 0) (hon : s.traceOn 14 0 = true) :
    s.slotRefill key x = (s.setTraceSlot key {
      rec_ := some (traceRec s.ts 14 5 (sourceNo key) 0 key 0 x.seq x.lost)
      seq := (x.seq + 1) % 65536 }).raise TRC_EVENT_OVERFLOW := if_neg (by simp [h, hon])

/-- With room in the buffer, a collector takes the record of its next source. -/
theorem traceCollect_eq {d key : Nat} {x : TrcSlot} {r : List Byte} (hroom : s.trc.buf.length < 32768)
    (hnext : s.nextSource d = some (key, x)) (hrec : x.rec_ = some r) : exec (.traceCollect d) s =
      done (State.slotRefill
        { s with trc := { s.trc with buf := s.trc.buf ++ [r], turn := tput s.trc.turn d key } } key x) := by
  refine (if_neg (Nat.not_le.2 hroom)).trans ?_
  simp only [hnext, hrec]
  rfl

theorem traceCollect_idle {d : Nat} (h : 32768 ≤ s.trc.buf.length ∨ s.nextSource d = none) :
    exec (.traceCollect d) s = done s := by
  change execTraceCollect d s = _
  unfold execTraceCollect
  split
  case isTrue => rfl
  case isFalse hroom => simp only [h.resolve_left hroom]

/-! TRACE_MARK (Table 19.2). -/

theorem State.traceInto_empty {cls kind key source inst status : Nat} {detail : List Byte}
    (h : (s.traceSlot key).rec_ = none) : s.traceInto cls kind key source inst status detail =
      s.setTraceSlot key { s.traceSlot key with
        rec_ := some (traceRec s.ts cls kind source inst key status (s.traceSlot key).seq detail)
        seq := ((s.traceSlot key).seq + 1) % 65536 } := by
  simp only [State.traceInto, h]

theorem State.traceInto_full {cls kind key source inst status : Nat} {detail : List Byte}
    (h : (s.traceSlot key).rec_ ≠ none) : s.traceInto cls kind key source inst status detail =
      (s.setTraceSlot key { s.traceSlot key with
        drops := min ((s.traceSlot key).drops + 1) (2 ^ 32 - 1)
        first := if (s.traceSlot key).drops = 0 then s.ts else (s.traceSlot key).first
        last := s.ts }).bump TRC_DROPPED_VAL := by
  obtain ⟨r, hr⟩ := Option.ne_none_iff_exists'.1 h
  simp only [State.traceInto, hr]

/-- A trace point whose class is written and that no armed MATCH watches only writes its record. -/
theorem State.trace_eq_traceInto {cls kind key source inst status : Nat} {detail : List Byte}
    (hon : s.traceOn cls inst = true)
    (htrig : s.on TRC_TRIG_CFG_SRC_MATCH = false ∨ s.get TRC_TRIG_STATUS_STATE ≠ 1) :
    s.trace cls kind key source inst status detail = s.traceInto cls kind key source inst status detail := by
  have hmatch : s.traceMatch cls kind source status = false := by
    rcases htrig with hsrc | hstate
    · simp [State.traceMatch, hsrc]
    · simp [State.traceMatch, hstate]
  simp [State.trace, hon, hmatch]

theorem traceMark_eq {q : Requester} (hpriv : s.privReq q = true) (hon : s.traceOn 13 0 = true)
    (htrig : s.on TRC_TRIG_CFG_SRC_MATCH = false ∨ s.get TRC_TRIG_STATUS_STATE ≠ 1) (val : Nat) :
    exec (.traceMark q val) s = done (s.traceInto 13 6 srcUnit 0 0 0 (leBytes 8 val)) :=
  (if_pos hpriv).trans (congrArg done (State.trace_eq_traceInto hon htrig))

/-! Frames of the Saffron port (R575). -/

theorem State.saffronLane_up {l : Nat} (h : s.saffronLane = some l) :
    bit (s.get TRC_STATUS_LANES_UP) l = true ∧ bit (s.get TRC_SAFFRON_CFG_LANE_EN) l = true := by
  simpa only [Bool.and_eq_true] using List.find?_some h

theorem saffronFrameSend_scan {l : Nat} {y : Scan} (hlane : s.saffronLane = some l) (hscan : s.trc.scan = some y)
    (hport : y.saffron = true) (hleft : y.left ≠ 0) : exec .saffronFrameSend s =
      done ((s.saffronPut l (s.saffronFrame 2 l 0 y.tile y.offset (min 992 (imageSize - y.offset))
        (s.scanBytes y.tile y.offset (min 992 (imageSize - y.offset))))).scanStep y
          (min 992 (imageSize - y.offset)) imageSize) := by
  have hfilter : s.trc.scan.filter (fun x => x.saffron && 0 < x.left) = some y := by
    simp [hscan, Option.filter_some, hport, Nat.pos_of_ne_zero hleft]
  change execSaffronFrameSend s = _
  simp only [execSaffronFrameSend, hlane, hfilter]

theorem saffronFrameSend_idle (h : s.saffronLane = none ∨ (s.trc.scan = none ∧ s.trc.buf = [])) :
    exec .saffronFrameSend s = done s := by
  change execSaffronFrameSend s = _
  rcases h with hlane | ⟨hscan, hbuf⟩
  · simp only [execSaffronFrameSend, hlane]
  · simp only [execSaffronFrameSend, hscan, Option.filter_none, hbuf, List.isEmpty_nil, if_true]
    split <;> rfl

/-- A TRACE frame carries the first records of the buffer, at most 31. -/
theorem saffronFrameSend_trace {l : Nat} (hlane : s.saffronLane = some l) (hscan : s.trc.scan = none)
    (hbuf : s.trc.buf ≠ []) : exec .saffronFrameSend s =
      done { (s.saffronPut l (s.saffronFrame 1 l (s.trc.buf.take 31).length 0 0 0 (s.trc.buf.take 31).flatten)).bump
          TRC_RECORDS_VAL (s.trc.buf.take 31).length with
        trc := { (s.saffronPut l (s.saffronFrame 1 l (s.trc.buf.take 31).length 0 0 0
          (s.trc.buf.take 31).flatten)).trc with buf := s.trc.buf.drop 31 } } := by
  change execSaffronFrameSend s = _
  simp only [execSaffronFrameSend, hlane, hscan, Option.filter_none]
  exact if_neg (by simpa using hbuf)

end

/-- Settles O56: the collectors by `traceCollect_eq`, the slot of the trace unit by `State.traceInto_empty` and
`State.traceInto_full`, the frames by the lemmas on `exec .saffronFrameSend`. -/
theorem tracePath : Obligations.TracePath := by
  intro s d l key n x r hs took
  refine ⟨fun hroom hnext hrec => ?_, traceCollect_idle, fun val q hpriv hon htrig => ?_,
    fun val q hpriv => if_neg (Bool.eq_false_iff.1 hpriv), fun hlane => ?_, saffronFrameSend_idle,
    fun _ hup => State.sets_of_puts hs.csr (if_pos hup) rfl⟩
  · have hrun := traceCollect_eq hroom hnext hrec
    exact ⟨fun hkept => hrun.trans (congrArg done (State.slotRefill_kept hkept)),
      fun hdrops hon => hrun.trans (congrArg done (State.slotRefill_dropped hdrops hon))⟩
  · have hrun := traceMark_eq hpriv hon htrig val
    refine ⟨fun hempty => ⟨_, hrun, ?_, ?_⟩, fun hfull => ⟨_, hrun, ?_⟩⟩
    · rw [State.traceInto_empty hempty, State.setTraceSlot_csr]
    · rw [State.traceInto_empty hempty, State.traceSlot_setTraceSlot]
    · rw [State.traceInto_full hfull]
      have hslot (t : State) (f : RegFld) : (t.bump f).traceSlot srcUnit = t.traceSlot srcUnit := rfl
      rw [hslot, State.traceSlot_setTraceSlot]
      exact ⟨rfl, rfl, rfl, State.get_bump hs.csr TRC_DROPPED_VAL 1⟩
  · obtain ⟨hup, hen⟩ := State.saffronLane_up hlane
    refine ⟨hup, hen, fun y hscan hport hleft hn => ?_, fun hscan hbuf hn => ⟨_, saffronFrameSend_trace hlane hscan hbuf, ?_⟩⟩
    · subst hn
      exact saffronFrameSend_scan hlane hscan hport hleft
    · have htake : s.trc.buf.take 31 = s.trc.buf.take n := by rw [hn, List.take_eq_take_min]
      have hdrop : s.trc.buf.drop 31 = s.trc.buf.drop n := by rw [hn, List.drop_eq_drop_min]
      have hlen : (s.trc.buf.take n).length = n := by rw [List.length_take, hn]; omega
      rw [htake, hdrop, hlen]
      exact ⟨rfl, (tfind_tput ..).trans (if_pos rfl), rfl, State.get_bump hs.csr TRC_RECORDS_VAL n⟩

end Sys2Proof.Machine

/-! ### The trigger, freeze and halt (19_debug_trace.md R576 to R580) -/

namespace Sys2Proof.Machine
open Sys2Proof

/-! The armed trigger fires (R576). -/

section
variable {s : State} {mask : Nat}

/-- `t` is `s` after its armed trigger has fired for the sources of `mask`. -/
def State.firesTo (s : State) (mask : Nat) (t : State) : Prop :=
  t.get TRC_TRIG_STATUS_STATE = 2 ∧ bits (t.reg TRC_TRIG_STATUS) 4 4 = mask ∧ t.get TRC_EVENT_FIRED = 1 ∧
    t.trc.haltDue = (s.on TRC_TRIG_CFG_HALT || s.trc.haltDue) ∧
    t.trc.freezeDue = (s.on TRC_TRIG_CFG_FREEZE || s.trc.freezeDue) ∧
    (s.on TRC_TRIG_CFG_TRACE_STOP = true → t.on TRC_CFG_ENABLE = false) ∧ t.mem = s.mem ∧ t.til = s.til

/-- The firing trigger's record is written, if records of its class are. -/
def State.fireNoted (s : State) (mask : Nat) : State :=
  if s.traceOn 14 0 then s.traceInto 14 8 srcUnit 0 0 0 (leBytes 2 mask) else s

/-- TRC_TRIG_STATUS of a trigger that fires at time `ts`. -/
def firedWord (mask ts : Nat) : Nat := 2 + mask * 16 + ts % 2 ^ 48 * 2 ^ 16

/-- Then its status and its event stand in the registers. -/
def State.fireShown (s : State) (mask : Nat) : State :=
  ((s.fireNoted mask).setReg TRC_TRIG_STATUS (firedWord mask s.ts)).raise TRC_EVENT_FIRED

/-- Then the halt it asks for is announced. -/
def State.fireHalting (s : State) (mask : Nat) : State :=
  if s.on TRC_TRIG_CFG_HALT then (s.fireShown mask).put TRC_HALT_STATUS_HALTING 1 else s.fireShown mask

/-- Then tracing stops where it asks for it. -/
def State.fireStopped (s : State) (mask : Nat) : State :=
  if s.on TRC_TRIG_CFG_TRACE_STOP then (s.fireHalting mask).put TRC_CFG_ENABLE 0 else s.fireHalting mask

theorem State.fire_eq (s : State) (mask : Nat) : s.fire mask = { s.fireStopped mask with
    trc := { (s.fireStopped mask).trc with
      haltDue := s.on TRC_TRIG_CFG_HALT || s.trc.haltDue
      freezeDue := s.on TRC_TRIG_CFG_FREEZE || s.trc.freezeDue } } := rfl

theorem bits_firedWord_state (mask ts : Nat) : bits (firedWord mask ts) 0 2 = 2 := by
  unfold bits firedWord
  omega

theorem bits_firedWord_sources (hmask : mask < 16) (ts : Nat) : bits (firedWord mask ts) 4 4 = mask := by
  unfold bits firedWord
  omega

theorem State.fireNoted_sound (hs : s.Sound) (mask : Nat) : (s.fireNoted mask).Sound := by
  unfold State.fireNoted
  split
  · exact State.traceInto_sound hs ..
  · exact hs

theorem State.fireShown_sound (hs : s.Sound) (mask : Nat) : (s.fireShown mask).Sound :=
  State.raise_sound (State.setReg_sound (State.fireNoted_sound hs mask) ..) ..

theorem State.fireHalting_sound (hs : s.Sound) (mask : Nat) : (s.fireHalting mask).Sound := by
  unfold State.fireHalting
  split
  · exact State.put_sound (State.fireShown_sound hs mask) ..
  · exact State.fireShown_sound hs mask

/-- What the trigger shows is not touched by what it orders. -/
theorem State.get_fire (hs : s.Sound) {f : RegFld} (hhalt : fieldsApart [TRC_HALT_STATUS_HALTING, f] = true)
    (hstop : fieldsApart [TRC_CFG_ENABLE, f] = true) : (s.fire mask).get f = (s.fireShown mask).get f := by
  obtain ⟨-, -, hhalting⟩ := State.ite_put_leaves (State.fireShown_sound hs mask).csr
    (s.on TRC_TRIG_CFG_HALT = true) TRC_HALT_STATUS_HALTING 1
  obtain ⟨-, -, hstopped⟩ := State.ite_put_leaves (State.fireHalting_sound hs mask).csr
    (s.on TRC_TRIG_CFG_TRACE_STOP = true) TRC_CFG_ENABLE 0
  exact (hstopped f hstop).trans (hhalting f hhalt)

theorem State.reg_fireShown (hs : s.Sound) : (s.fireShown mask).reg TRC_TRIG_STATUS = firedWord mask s.ts := by
  have hnoted := (State.fireNoted_sound hs mask).csr
  rw [State.fireShown, State.raise, State.reg_put_ne (State.setReg_sound (State.fireNoted_sound hs mask) ..).csr
    (by decide), State.reg_setReg hnoted, if_pos rfl]

theorem State.fire_firesTo (hs : s.Sound) (hmask : mask < 16) : s.firesTo mask (s.fire mask) := by
  obtain ⟨c, r, honly⟩ := (State.traceOnly.refl s).fire mask
  have hshown (f : RegFld) (hf : f.reg = TRC_TRIG_STATUS) :
      (s.fireShown mask).get f = bits (firedWord mask s.ts) f.lo f.w := by
    rw [State.get, hf, State.reg_fireShown hs]
  refine ⟨?_, ?_, ?_, rfl, rfl, fun hstop => ?_, by rw [honly], by rw [honly]⟩
  · exact (State.get_fire hs rfl rfl).trans ((hshown TRC_TRIG_STATUS_STATE rfl).trans (bits_firedWord_state ..))
  · exact (State.get_fire (f := TRC_TRIG_STATUS_SOURCES) hs rfl rfl).trans
      ((hshown TRC_TRIG_STATUS_SOURCES rfl).trans (bits_firedWord_sources hmask _))
  · exact (State.get_fire hs rfl rfl).trans
      (State.get_put (State.setReg_sound (State.fireNoted_sound hs mask) ..).csr TRC_EVENT_FIRED 1)
  · have hoff : (s.fire mask).get TRC_CFG_ENABLE = 0 := by
      rw [State.fire_eq, State.fireStopped, if_pos hstop]
      exact State.get_put (State.fireHalting_sound hs mask).csr TRC_CFG_ENABLE 0
    rw [State.on, hoff]
    rfl

end

/-! Arming, freeze and thaw (R576, R577). -/

section
variable {s : State} {val : Nat}

/-- An armed trigger's configuration and status stand in the registers. -/
def State.trigArmed (s : State) (val : Nat) : State :=
  (s.setReg TRC_TRIG_CFG (val &&& 0x70F)).setReg TRC_TRIG_STATUS 1

theorem State.trigCfgWrite_arm (harm : bit val 0 = true) (hfroz : s.frozen = false) (hhalt : s.trc.halted = false) :
    s.trigCfgWrite val = (s.trigArmed val).raiseIf
      (bit val 2 && s.get TRC_TRIG_PICK_VAL ≤ s.get PICK_NUMBER_NUMBER) TRC_EVENT_TRIG_MISSED :=
  (if_pos harm).trans (if_neg (by simp [hfroz, hhalt]))

theorem State.trigCfgWrite_held (harm : bit val 0 = true) (hheld : s.frozen = true ∨ s.trc.halted = true) :
    s.trigCfgWrite val = s :=
  (if_pos harm).trans (if_pos (by simpa using hheld))

theorem State.raiseIf_regsOnly (s : State) (b : Bool) (f : RegFld) : s.raiseIf b f = { s with csr := (s.raiseIf b f).csr } := by
  cases b <;> rfl

theorem State.reg_raiseIf_ne {a : Nat} (hs : csrOk s.csr) (b : Bool) {f : RegFld} (ha : a ≠ f.reg) :
    (s.raiseIf b f).reg a = s.reg a := by
  cases b with
  | false => rfl
  | true => exact State.reg_put_ne hs ha 1

theorem State.get_raiseIf_same (hs : csrOk s.csr) (b : Bool) {f : RegFld} (hw : f.w = 1) :
    (s.raiseIf b f).get f = if b then 1 else s.get f := by
  cases b with
  | false => rfl
  | true => exact (State.get_put hs f 1).trans (by rw [hw]; rfl)

/-- The unit's return to IDLE (R580) touches neither the freeze nor the trace unit's own state. -/
theorem State.trigIdle_leaves (hs : s.Sound) : s.trigIdle.frozen = s.frozen ∧ s.trigIdle.trc = s.trc := by
  unfold State.trigIdle
  split
  · exact ⟨congrArg (· != 0) (State.get_put_apart hs.csr 0 rfl), rfl⟩
  · exact ⟨rfl, rfl⟩

/-- The freeze is over, and the trigger unit has not moved yet. -/
def State.thawed (s : State) : State :=
  { s.put TRC_STATUS_FROZEN 0 with trc := { s.trc with snap := [] } }

theorem State.thawed_trc (s : State) : s.thawed.trc = { s.trc with snap := [] } := rfl

theorem State.thawed_sound (hs : s.Sound) : s.thawed.Sound := (State.put_sound hs TRC_STATUS_FROZEN 0).upd rfl rfl rfl rfl

theorem State.thawed_frozen (hs : s.Sound) : s.thawed.frozen = false :=
  congrArg (· != 0) (State.get_put hs.csr TRC_STATUS_FROZEN 0)

theorem State.thaw_eq (h : s.frozen = true) : s.thaw = s.thawed.trigIdle := if_pos h

theorem State.get_thaw_state (hs : s.Sound) (hfroz : s.frozen = true) (hfired : s.get TRC_TRIG_STATUS_STATE = 2)
    (hhalt : s.trc.halted = false) (hhd : s.trc.haltDue = false) (hfd : s.trc.freezeDue = false) :
    s.thaw.get TRC_TRIG_STATUS_STATE = 0 := by
  have hstate : s.thawed.get TRC_TRIG_STATUS_STATE = 2 := (State.get_put_apart hs.csr 0 rfl).trans hfired
  have hidle : s.thawed.trigIdle = s.thawed.put TRC_TRIG_STATUS_STATE 0 :=
    if_pos (by simp [hstate, State.thawed_frozen hs, State.thawed_trc, hhalt, hhd, hfd])
  rw [State.thaw_eq hfroz, hidle]
  exact State.get_put (State.thawed_sound hs).csr TRC_TRIG_STATUS_STATE 0

theorem tfind_foldl_tput_ne {α β : Type} (key : β → Nat) (v : α) (a : Nat) (l : List β) (m : SMap α)
    (h : ∀ p ∈ l, key p ≠ a) : tfind (l.foldl (fun m p => tput m (key p) v) m) a = tfind m a := by
  induction l generalizing m with
  | nil => rfl
  | cons p l ih =>
    rw [List.foldl_cons, ih _ fun q hq => h q (List.mem_cons_of_mem _ hq), tfind_tput,
      if_neg (h p List.mem_cons_self).symm]

theorem RING_INST_ID_lt_RING_Q_STATUS (i q : Nat) : RING_INST_ID 0 < RING_Q_STATUS i q := by
  unfold RING_INST_ID RING_Q_STATUS
  omega

theorem State.snapshot_snap (s : State) : s.snapshot.trc.snap =
    (s.rings.queues.filter fun p => p.2.dbBad && p.2.state != 0).foldl
      (fun m p => tput m (RING_Q_STATUS (p.1 / 4096) (p.1 % 4096)) 16) s.csr := rfl

/-- Below the host interface, the snapshot holds the registers as they are. -/
theorem State.snap_snapshot {a : Nat} (ha : a < RING_INST_ID 0) : tfind s.snapshot.trc.snap a = tfind s.csr a := by
  rw [State.snapshot_snap, tfind_foldl_tput_ne fun p : Nat × Queue => RING_Q_STATUS (p.1 / 4096) (p.1 % 4096)]
  exact fun p _ => (ha.trans (RING_INST_ID_lt_RING_Q_STATUS ..)).ne'

/-! The halt (R578). -/

/-- Every tile shows HALTED. -/
def State.allHalted (s : State) : State := (s.setReg TRC_HALT_STATUS (4160 + 2 ^ 13)).raise TRC_EVENT_HALTED

theorem haltComplete_eq (hhalt : s.trc.halted = true) (hing : s.on TRC_HALT_STATUS_HALTING = true) :
    exec .haltComplete s = done s.allHalted := if_pos (by simp [hhalt, hing])

theorem State.reg_allHalted (hs : s.Sound) : s.allHalted.reg TRC_HALT_STATUS = 4160 + 2 ^ 13 := by
  rw [State.allHalted, State.raise, State.reg_put_ne (State.setReg_sound hs ..).csr (by decide),
    State.reg_setReg hs.csr, if_pos rfl]

theorem State.on_allHalted (hs : s.Sound) {f : RegFld} (hf : f.reg = TRC_HALT_STATUS) :
    s.allHalted.on f = (bits (4160 + 2 ^ 13) f.lo f.w != 0) := by
  rw [State.on, State.get, hf, State.reg_allHalted hs]

end

end Sys2Proof.Machine

/-! ### Scan-out and JTAG (19_debug_trace.md R528, R580 to R582) -/

namespace Sys2Proof.Machine
open Sys2Proof

/-! The scan image does not show the TAP's own registers. -/

section
variable (s : State) (ir tdo : Nat)

theorem State.jtag_tdo : (s.jtag ir tdo).trc.tdo = tdo := rfl

theorem State.jtag_ir : (s.jtag ir tdo).trc.ir = ir := rfl

theorem State.jtag_scan : (s.jtag ir tdo).trc.scan = s.trc.scan := rfl

theorem State.special_jtag (i : Issue) (n : Nat) : (s.jtag ir tdo).special i n = s.special i n := rfl

theorem State.cursorView_jtag : (s.jtag ir tdo).cursorView = s.cursorView := rfl

/-- What a register shows follows from its stored value and from these views. -/
theorem State.regView_congr {s u : State} (hreg : u.reg = s.reg) (hget : u.get = s.get)
    (hstate : u.tileStateView = s.tileStateView) (hqueues : u.tileQueuesView = s.tileQueuesView)
    (hcursor : u.cursorView = s.cursorView) (hfaults : u.frStatus = s.frStatus) (hinst : u.instId = s.instId)
    (hstatus : u.qStatus = s.qStatus) (hptr : u.qPtr = s.qPtr) (hone : u.viewOne = s.viewOne) :
    u.regView = s.regView := by
  funext a
  rw [State.regView, State.regView, hreg, hget, hstate, hqueues, hcursor, hfaults, hinst, hstatus, hptr, hone]

theorem State.regView_jtag : (s.jtag ir tdo).regView = s.regView :=
  State.regView_congr rfl rfl rfl rfl rfl rfl rfl rfl rfl rfl

theorem State.ctxByte_jtag (t : Nat) (c : Ctx) (o : Nat) : (s.jtag ir tdo).ctxByte t c o = s.ctxByte t c o := by
  simp only [State.ctxByte, State.specialOf, State.special_jtag, State.cursorView_jtag]
  rfl

theorem State.wideByte_jtag (t o : Nat) : (s.jtag ir tdo).wideByte t o = s.wideByte t o := by
  simp only [State.wideByte, State.specialOf, State.special_jtag, State.tileRegByte, State.regView_jtag]
  rfl

theorem State.scanByte_jtag (t o : Nat) : (s.jtag ir tdo).scanByte t o = s.scanByte t o := by
  simp only [State.scanByte, State.ctxByte_jtag, State.wideByte_jtag]
  rfl

end

/-! A scan begins (R581). -/

/-- The trace unit holds scan `x`. -/
def State.withScan (s : State) (x : Option Scan) : State := { s with trc := { s.trc with scan := x } }

theorem State.withScan_trc (s : State) (x : Option Scan) : (s.withScan x).trc = { s.trc with scan := x } := rfl

theorem State.put_withScan (s : State) (x : Option Scan) (f : RegFld) (v : Nat) :
    (s.withScan x).put f v = (s.put f v).withScan x := rfl

section
variable {s : State} {first count : Nat} {saffron : Bool}

/-- No scan is running, and every tile is halted. -/
def State.scanIdle (s : State) : Prop :=
  s.trc.scan = none ∧ s.trc.halted = true ∧ s.on TRC_HALT_STATUS_ALL = true

theorem State.scanIdle_iff (s : State) : s.scanIdle ↔
    ¬ (s.trc.scan.isSome || !(s.trc.halted && s.on TRC_HALT_STATUS_ALL)) = true := by
  simp [State.scanIdle]

/-- The scan that covers `count` tiles from `first`, as far as there are tiles. -/
def scanOf (first count : Nat) (saffron : Bool) : Scan := ⟨first, min (max 1 count) (4096 - first), 0, saffron⟩

theorem State.scanBegin_closed (h : ¬ s.on SEC_STATE_DEBUG_OPEN = true) :
    s.scanBegin first count saffron = s.put TRC_SCAN_STATUS_RESULT stACCESS := if_pos (by simpa using h)

theorem State.scanBegin_busy (h : s.on SEC_STATE_DEBUG_OPEN = true) (hidle : ¬ s.scanIdle) :
    s.scanBegin first count saffron = s.put TRC_SCAN_STATUS_RESULT stBUSY :=
  (if_neg (by simp [h])).trans (if_pos (Classical.not_not.1 ((State.scanIdle_iff s).not.1 hidle)))

theorem State.scanBegin_runs (h : s.on SEC_STATE_DEBUG_OPEN = true) (hidle : s.scanIdle) :
    s.scanBegin first count saffron =
      ([(TRC_SCAN_STATUS_BUSY, 1), (TRC_SCAN_STATUS_TILE, first), (TRC_STATUS_SCAN_BUSY, 1)] : List (RegFld × Nat)).foldl
        (fun s p => s.put p.1 p.2) (s.withScan (some (scanOf first count saffron))) := by
  have hputs : s.scanBegin first count saffron =
      (((s.put TRC_SCAN_STATUS_BUSY 1).put TRC_SCAN_STATUS_TILE first).put TRC_STATUS_SCAN_BUSY 1).withScan
        (some (scanOf first count saffron)) :=
    (if_neg (by simp [h])).trans (if_neg ((State.scanIdle_iff s).1 hidle))
  rw [hputs, List.foldl_cons, List.foldl_cons, List.foldl_cons, List.foldl_nil, State.put_withScan, State.put_withScan,
    State.put_withScan]

/-! A scan ends (R581). -/

theorem scanComplete_done {x : Scan} (hscan : s.trc.scan = some x) (hleft : x.left = 0) : exec .scanComplete s =
    done (([(TRC_SCAN_STATUS_BUSY, 0), (TRC_SCAN_STATUS_RESULT, stOK), (TRC_STATUS_SCAN_BUSY, 0),
      (TRC_EVENT_SCAN_DONE, 1)] : List (RegFld × Nat)).foldl (fun s p => s.put p.1 p.2)
        (s.withScan none)) := by
  change execScanComplete s = _
  simp only [execScanComplete, hscan]
  exact if_pos hleft

theorem scanComplete_idle {x : Scan} (h : s.trc.scan = none ∨ (s.trc.scan = some x ∧ x.left ≠ 0)) :
    exec .scanComplete s = done s := by
  change execScanComplete s = _
  rcases h with hscan | ⟨hscan, hleft⟩
  · simp only [execScanComplete, hscan]
  · simp only [execScanComplete, hscan]
    exact if_neg hleft

/-! JTAG instructions (R582, Table 19.5). -/

theorem State.jtagOpen_closed (h : ¬ s.on SEC_STATE_DEBUG_OPEN = true) (ir : Nat) (f : State → State) :
    s.jtagOpen ir f = done (s.jtag ir 0) := if_neg h

theorem State.jtagOpen_acts (h : s.on SEC_STATE_DEBUG_OPEN = true) (ir : Nat) (f : State → State) :
    s.jtagOpen ir f = done (f (s.jtag ir 0)) := if_pos h

theorem idcode_powers (maker rev : Nat) : 1 + maker % 2 ^ 11 * 2 + 0xD409 * 2 ^ 12 + rev % 16 * 2 ^ 28 =
    1 + maker % 2048 * 2 + 0xD409 * 4096 + rev % 16 * 2 ^ 28 := by
  rw [show 2 ^ 11 = 2048 from rfl, show 2 ^ 12 = 4096 from rfl]

theorem jtagIdcode_eq (s : State) : exec .jtagIdcode s =
    done (s.jtag 0x01 (1 + Config.jtagMaker % 2048 * 2 + 0xD409 * 4096 + Config.siliconRev % 16 * 2 ^ 28)) :=
  congrArg (fun v => done (s.jtag 0x01 v)) (idcode_powers ..)

theorem State.haltOrder_running (h : s.trc.halted = false) : s.haltOrder =
    { s.put TRC_HALT_STATUS_HALTING 1 with
      trc := { (s.put TRC_HALT_STATUS_HALTING 1).trc with haltDue := true } } := if_neg (by simp [h])

theorem jtagResume_held (h : s.on SEC_STATE_DEBUG_OPEN = true) (hheld : s.trc.halted = true ∨ s.trc.haltDue = true) :
    exec .jtagResume s = done { s with trc := { s.trc with ir := 0x12, tdo := 0, resumeDue := true } } := by
  have hor : (s.trc.halted || s.trc.haltDue) = true := by simpa using hheld
  exact (State.jtagOpen_acts h ..).trans (congrArg done (if_pos hor))

theorem jtagScanSel_eq (s : State) (val : Nat) : exec (.jtagScanSel val) s =
    s.jtagOpen 0x20 fun u => u.scanBegin (bits val 0 12) (bits val 12 13) false := rfl

/-- SCAN_SEL starts a scan to JTAG (R581). -/
theorem jtagScanSel_runs (h : s.on SEC_STATE_DEBUG_OPEN = true) (hidle : s.scanIdle) (val : Nat) :
    ∃ t, exec (.jtagScanSel val) s = done t ∧ t.trc.ir = 0x20 ∧
      t.trc.scan = some (scanOf (bits val 0 12) (bits val 12 13) false) := by
  have hbegin := State.scanBegin_runs (s := s.jtag 0x20 0) (first := bits val 0 12) (count := bits val 12 13)
    (saffron := false) h hidle
  refine ⟨_, (jtagScanSel_eq s val).trans ((State.jtagOpen_acts h ..).trans (congrArg done hbegin)), ?_, ?_⟩
  · simp only [List.foldl_cons, List.foldl_nil, State.put_trc, State.withScan_trc, State.jtag_ir]
  · simp only [List.foldl_cons, List.foldl_nil, State.put_trc, State.withScan_trc]

theorem State.scanStep_traceOnly (s : State) (x : Scan) (n size : Nat) : s.traceOnly (s.scanStep x n size) := by
  unfold State.scanStep
  split
  · exact (State.traceOnly.refl s).setTrc _
  · exact ((State.traceOnly.refl s).ite ((State.traceOnly.refl s).put ..) _).setTrc _

theorem State.scanStep_mem (s : State) (x : Scan) (n size : Nat) : (s.scanStep x n size).mem = s.mem := by
  obtain ⟨c, r, h⟩ := State.scanStep_traceOnly s x n size
  rw [h]

theorem State.scanStep_more {x : Scan} {n size : Nat} (h : x.offset + n < size) :
    (s.scanStep x n size).trc.scan = some { x with offset := x.offset + n } := by
  rw [State.scanStep, if_pos h]

/-- One bit of a scan to JTAG is shifted out. -/
theorem State.scanShift_one {x : Scan} (hscan : s.trc.scan = some x) (hport : x.saffron = false) (hleft : x.left ≠ 0) :
    State.scanShift 1 s =
      (s.scanStep x 1 (8 * imageSize), [(s.scanByte x.tile (x.offset / 8)).getLsbD (x.offset % 8)]) := by
  have hfilter : s.trc.scan.filter (fun x => !x.saffron && 0 < x.left) = some x := by
    simp [hscan, Option.filter_some, hport, Nat.pos_of_ne_zero hleft]
  simp only [State.scanShift, hfilter]

/-- The number whose bits, lowest first, are `l`. -/
def shiftedOut (l : List Bool) : Nat := (l.zipIdx.map fun p => if p.1 then 2 ^ p.2 else 0).sum

theorem jtagScanData_eq (s : State) (n : Nat) : exec (.jtagScanData n) s =
    s.jtagOpen 0x21 fun u => (State.scanShift n u).1.jtag 0x21 (shiftedOut (State.scanShift n u).2) := rfl

theorem shiftedOut_singleton (b : Bool) : shiftedOut [b] = b.toNat := by
  cases b <;> rfl

theorem jtagScanData_one {x : Scan} (hopen : s.on SEC_STATE_DEBUG_OPEN = true) (hscan : s.trc.scan = some x)
    (hport : x.saffron = false) (hleft : x.left ≠ 0) : exec (.jtagScanData 1) s =
      done (((s.jtag 0x21 0).scanStep x 1 (8 * imageSize)).jtag 0x21
        ((s.scanByte x.tile (x.offset / 8)).getLsbD (x.offset % 8)).toNat) := by
  rw [jtagScanData_eq, State.jtagOpen_acts hopen]
  simp only [State.scanShift_one (s := s.jtag 0x21 0) hscan hport hleft, State.scanByte_jtag, shiftedOut_singleton]

end

/-- Arming, for a requester with the privilege (R576). -/
theorem triggerArm_arms {s : State} (hs : s.Sound) {r : Requester} {val : Nat} (hpriv : s.privReq r = true)
    (harm : bit val 0 = true) (hfroz : s.frozen = false) (hhalt : s.trc.halted = false) :
    ∃ t, exec (.triggerArm r val) s = done t ∧ t = { s with csr := t.csr } ∧ t.reg TRC_TRIG_CFG = val &&& 0x70F ∧
      t.reg TRC_TRIG_STATUS = 1 ∧ t.get TRC_EVENT_TRIG_MISSED =
        if bit val 2 = true ∧ s.get TRC_TRIG_PICK_VAL ≤ s.get PICK_NUMBER_NUMBER then 1
        else s.get TRC_EVENT_TRIG_MISSED := by
  have h1 : (s.setReg TRC_TRIG_CFG (val &&& 0x70F)).Sound := State.setReg_sound hs ..
  have h2 : (s.trigArmed val).Sound := State.setReg_sound h1 ..
  refine ⟨_, (if_pos hpriv).trans (congrArg done (State.trigCfgWrite_arm harm hfroz hhalt)),
    State.raiseIf_regsOnly .., ?_, ?_, ?_⟩
  · rw [State.reg_raiseIf_ne h2.csr _ (by decide), State.trigArmed, State.reg_setReg h1.csr, if_neg (by decide),
      State.reg_setReg hs.csr, if_pos rfl]
  · rw [State.reg_raiseIf_ne h2.csr _ (by decide), State.trigArmed, State.reg_setReg h1.csr, if_pos rfl]
  · rw [State.get_raiseIf_same h2.csr _ rfl, State.trigArmed, State.get_setReg_ne h1.csr _ rfl,
      State.get_setReg_ne hs.csr _ rfl]
    simp only [Bool.and_eq_true, decide_eq_true_eq]

/-- THAW, for a requester with the privilege (R577). -/
theorem triggerCmdThaw_thaws {s : State} (hs : s.Sound) {r : Requester} (hpriv : s.privReq r = true)
    (hfroz : s.frozen = true) : ∃ t, exec (.triggerCmdThaw r) s = done t ∧ t.frozen = false ∧ t.trc.snap = [] ∧
      (s.get TRC_TRIG_STATUS_STATE = 2 → s.trc.halted = false → s.trc.haltDue = false → s.trc.freezeDue = false →
        t.get TRC_TRIG_STATUS_STATE = 0) := by
  obtain ⟨hsame, htrc⟩ := State.trigIdle_leaves (State.thawed_sound hs)
  refine ⟨s.thaw, if_pos hpriv, ?_, ?_, State.get_thaw_state hs hfroz⟩
  · rw [State.thaw_eq hfroz, hsame, State.thawed_frozen hs]
  · rw [State.thaw_eq hfroz, htrc, State.thawed_trc]

/-- Settles O57: the trigger by `State.fire_firesTo`, scans by the lemmas on `State.scanBegin`, and the JTAG instructions
by `State.jtagOpen_acts` and `State.jtagOpen_closed`. -/
theorem triggerHaltScanAndJtag : Obligations.TriggerHaltScanAndJtag := by
  constructor
  · -- the trigger, freeze and halt
    intro s r val hs fired
    refine ⟨fun hpriv => ⟨triggerArm_arms hs hpriv,
        fun harm hheld => (if_pos hpriv).trans (congrArg done (State.trigCfgWrite_held harm hheld)),
        fun harmed => ⟨s.fire 1, (if_pos hpriv).trans (congrArg done (if_pos harmed)), State.fire_firesTo hs (by decide)⟩,
        fun hnot => (if_pos hpriv).trans (congrArg done (if_neg hnot)), triggerCmdThaw_thaws hs hpriv,
        fun hfroz => (if_pos hpriv).trans (congrArg done (if_neg (Bool.eq_false_iff.1 hfroz))),
        fun hhalt => (if_pos hpriv).trans (congrArg done (if_pos (by simpa using hhalt)))⟩,
      fun hpriv => ⟨if_neg (Bool.eq_false_iff.1 hpriv), if_neg (Bool.eq_false_iff.1 hpriv),
        if_neg (Bool.eq_false_iff.1 hpriv), if_neg (Bool.eq_false_iff.1 hpriv)⟩,
      fun harmed hpin => ⟨s.fire 2, if_pos (by simp [harmed, hpin]), State.fire_firesTo hs (by decide)⟩,
      fun hnot => if_neg ?_, fun hdue => ⟨s.snapshot, if_pos hdue, ?_, rfl, fun a => State.snap_snapshot⟩,
      fun hdue => if_neg (Bool.eq_false_iff.1 hdue), fun hdue => if_pos hdue, fun hdue => if_neg (Bool.eq_false_iff.1 hdue),
      fun hhalt hing => ⟨s.allHalted, haltComplete_eq hhalt hing, State.on_allHalted hs rfl, State.on_allHalted hs rfl,
        State.get_put (State.setReg_sound hs ..).csr TRC_EVENT_HALTED 1, rfl⟩⟩
    · rcases hnot with hstate | hpin
      · simp [hstate]
      · simp [hpin]
    · exact congrArg (· != 0) (State.get_put hs.csr TRC_STATUS_FROZEN 1)
  · -- scans and JTAG
    intro s r val n x hs first count idle opened
    refine ⟨fun hpriv => ⟨fun h => ?_, fun h hidle => ?_, fun h hidle => ?_⟩,
      fun hpriv => if_neg (Bool.eq_false_iff.1 hpriv),
      fun hscan hleft => State.sets_of_puts hs.csr (scanComplete_done hscan hleft) rfl, scanComplete_idle, jtagIdcode_eq s, rfl,
      fun h => ⟨State.jtagOpen_closed h .., State.jtagOpen_closed h ..,
        (jtagScanSel_eq ..).trans (State.jtagOpen_closed h ..), (jtagScanData_eq ..).trans (State.jtagOpen_closed h ..)⟩,
      fun h hrun => ⟨_, (State.jtagOpen_acts h ..).trans (congrArg done (State.haltOrder_running hrun)), rfl,
        congrArg (· != 0) (State.get_put hs.csr TRC_HALT_STATUS_HALTING 1)⟩,
      fun h hhalt => (State.jtagOpen_acts h ..).trans (congrArg done (if_pos hhalt)),
      fun h hheld => jtagResume_held h hheld,
      fun h hidle => jtagScanSel_runs h hidle val,
      fun h hscan hport hleft => ⟨_, jtagScanData_one h hscan hport hleft, State.scanStep_mem .., State.jtag_tdo .., fun hmore => ?_⟩⟩
    · exact State.sets_of_puts (l := [(TRC_SCAN_STATUS_RESULT, stACCESS)]) hs.csr
        ((if_pos hpriv).trans (congrArg done (State.scanBegin_closed h))) rfl
    · exact State.sets_of_puts (l := [(TRC_SCAN_STATUS_RESULT, stBUSY)]) hs.csr
        ((if_pos hpriv).trans (congrArg done (State.scanBegin_busy h hidle))) rfl
    · exact State.sets_of_puts hs.csr ((if_pos hpriv).trans (congrArg done (State.scanBegin_runs h hidle))) rfl
    · rw [State.jtag_scan, State.scanStep_more hmore]

end Sys2Proof.Machine
